-- ==== Sys2Proof/Word.lean ====
section
/-!
DEFINITION. The byte, and strings of bytes.

A byte is what the manual stores and sends (R7); a frame, an OCTETS object and a
run of memory are lists of bytes.  Addresses, counts, steps, epochs and field
elements are natural numbers, deltas are integers.
-/

namespace Sys2Proof

/-- One byte, as memory and frames hold it (R7). -/
abbrev Byte := BitVec 8

/-- A run of bytes, byte 0 first. -/
abbrev Bytes := List Byte

end Sys2Proof
end

