-- ==== Sys2Proof/Syntax.lean ====
section
/-!
DEFINITION. The commands of the block: one constructor for each row of the opcode table, in the order of the table.

Operands that come back: `r` is a frame as received, `v` the route of a dictionary request, `q` a request at an S-port, `slice`
a slice. The others are what the outside, or the physical part, decides; each is described at the meaning of its command.
-/

namespace Sys2Proof

/-- The functions (Table 16-3, 16_groom_and_device_life.md). -/
inductive Fn where
  | coding | deepTiers | reduction | yard | routing | siteExchange
deriving DecidableEq, Repr

/-- A datagram as the N-port hands it over (R384, 17_ports_clocks_and_integration.md): the sender's IPv6 address and UDP port, the
ECN field, and the UDP payload. -/
structure Rx where
  addr : Nat
  port : Nat
  ecn : Nat
  f : Bytes
deriving DecidableEq, Repr

/-- A request at the fabric face of the S-port of a slice (Table 17-1): for an atomic, `data` is the operand and then the compare value. -/
structure SReq where
  slice : Nat
  kind : Nat
  size : Nat
  tag : Nat
  addr : Nat
  poison : Nat
  data : Bytes
deriving DecidableEq, Repr

/-- How a dictionary request reaches the groom: the words of a C-port request with the value of CPRIV at its acceptance
(R342, R344), or a datagram of an Eciabo session (R334). -/
inductive Via where
  | cport (priv : Bool) (words : List Nat)
  | net (r : Rx)
deriving DecidableEq, Repr

/-- What upsets add in one computation of a slice's arrays (R93, 04_outer_product_arrays.md), each as (array, place, amount): to cells
0 to 1,023, row-major, to the 32 residues of the check row and to those of the check column. -/
structure Upsets where
  cells : List (Nat × Nat × Int) := []
  row : List (Nat × Nat × Int) := []
  col : List (Nat × Nat × Int) := []
deriving DecidableEq, Repr

/-- Vectors that the exchange engine writes into the rings of a MAC job (R90, 04_outer_product_arrays.md): of each x ring, of the y ring. -/
structure MacVecs where
  x0 : List (List Int) := []
  x1 : List (List Int) := []
  y : List (List Int) := []
deriving DecidableEq, Repr

/-- The stream of a group in which a holder sends: the couch stream, or, with `tgt`, the target stream of a re-striping (R127, R171). -/
structure StreamId where
  group : Nat
  tgt : Bool := false
deriving DecidableEq, Repr

/-- The commands (opcode_table.json). -/
inductive Instr where
  /-- VRESET_N_ASSERT (R396, 17_ports_clocks_and_integration.md). -/
  | vresetNAssert
  /-- VRESET_N_RELEASE (R396, 17_ports_clocks_and_integration.md). -/
  | vresetNRelease (pairs : List Nat)
  /-- SELF_TEST_COMPLETE (R350, 16_groom_and_device_life.md). -/
  | selfTestComplete (fails : List (Nat × Nat)) (us : Nat) (out : Nat) (mhz : List Nat) (hard : List (Nat × Nat × Nat))
  /-- WATCHDOG_EXPIRY (R359, 16_groom_and_device_life.md). -/
  | watchdogExpiry
  /-- WATCHDOG_RESET (R359, 16_groom_and_device_life.md). -/
  | watchdogReset
  /-- EPOCH_TICK (R19, 01_slices_hub_and_ticks.md). -/
  | epochTick
  /-- TIMELOCK_CHANGE (R393, 17_ports_clocks_and_integration.md). -/
  | timelockChange (v : Bool)
  /-- TIME_STROBE (R393, 17_ports_clocks_and_integration.md). -/
  | timeStrobe (t : Nat)
  /-- TIME_STROBE_MISSING (R393, 17_ports_clocks_and_integration.md). -/
  | timeStrobeMissing
  /-- HOLDOVER_LIMIT_EXPIRY (R20, 01_slices_hub_and_ticks.md). -/
  | holdoverLimitExpiry
  /-- STEP_MARK (R23, 01_slices_hub_and_ticks.md). -/
  | stepMark
  /-- SNAPSHOT_STEP_TRIGGER (R179, 08_flash_and_shared_store.md). -/
  | snapshotStepTrigger
  /-- PASS_TENSOR_START (R25, 01_slices_hub_and_ticks.md). -/
  | passTensorStart
  /-- PASS_LINE (R70, 03_moulds_and_the_optimiser_pass.md). -/
  | passLine (slice : Nat) (lanes : List Nat) (bad : List (Nat × Nat)) (chk : Nat)
  /-- LOG_TILE (R87, 04_outer_product_arrays.md). -/
  | logTile (slice : Nat) (bad : Option Nat) (cells : List (Nat × Nat × Int)) (row : List (Nat × Nat × Int)) (col : List (Nat × Nat × Int))
    (cells2 : List (Nat × Nat × Int)) (row2 : List (Nat × Nat × Int)) (col2 : List (Nat × Nat × Int))
  /-- MAC_JOB (R90, 04_outer_product_arrays.md). -/
  | macJob (slice : Nat) (word : Nat) (x0 : List (List Int)) (x1 : List (List Int)) (y : List (List Int))
  /-- MAC_JOB_READOUT (R89, 04_outer_product_arrays.md). -/
  | macJobReadout (slice : Nat) (more : MacVecs) (up : Upsets × Upsets)
  /-- ARRAY_HOLD_EXPIRY (R92, 04_outer_product_arrays.md). -/
  | arrayHoldExpiry (slice : Nat) (array : Nat)
  /-- ARRAY_STOP_RAMP_END (R92, 04_outer_product_arrays.md). -/
  | arrayStopRampEnd (slice : Nat) (array : Nat)
  /-- FACTORS_COMPUTE (R75, 03_moulds_and_the_optimiser_pass.md). -/
  | factorsCompute (desc : Nat)
  /-- FACTOR_BROADCAST (R86, 04_outer_product_arrays.md). -/
  | factorBroadcast (desc : Nat)
  /-- WORKING_COPY_CHECK (R76, 03_moulds_and_the_optimiser_pass.md). -/
  | workingCopyCheck (desc : Nat) (again : List Nat)
  /-- COMPLETION_WORD_WRITE (R78, 03_moulds_and_the_optimiser_pass.md). -/
  | completionWordWrite (desc : Nat)
  /-- STEP_DONE (R26, 01_slices_hub_and_ticks.md). -/
  | stepDone
  /-- S_PORT_READ (R10, 01_slices_hub_and_ticks.md). -/
  | sPortRead (q : SReq)
  /-- S_PORT_WRITE (R10, 01_slices_hub_and_ticks.md). -/
  | sPortWrite (q : SReq)
  /-- INTAKE_HOLD_RELEASE (R202, 09_exact_gradient_reduction.md). -/
  | intakeHoldRelease
  /-- RELEASE_CURSOR_WRITE (R199, 09_exact_gradient_reduction.md). -/
  | releaseCursorWrite (q : SReq)
  /-- CONTROLLER_RESPONSE (R378, 17_ports_clocks_and_integration.md). -/
  | controllerResponse (slice : Nat) (kind : Nat) (tag : Nat) (status : Nat) (poison : Nat)
  /-- CONTROLLER_STALL (R381, 17_ports_clocks_and_integration.md). -/
  | controllerStall (slice : Nat) (kind : Nat)
  /-- LONG_CONTROLLER_STALL (R381, 17_ports_clocks_and_integration.md). -/
  | longControllerStall (slice : Nat)
  /-- LOAD (R267, 12_the_yard.md). -/
  | load (q : SReq)
  /-- STORE (R267, 12_the_yard.md). -/
  | store (q : SReq)
  /-- ADD (R267, 12_the_yard.md). -/
  | add (q : SReq)
  /-- SMIN (R267, 12_the_yard.md). -/
  | smin (q : SReq)
  /-- SMAX (R267, 12_the_yard.md). -/
  | smax (q : SReq)
  /-- UMIN (R267, 12_the_yard.md). -/
  | umin (q : SReq)
  /-- UMAX (R267, 12_the_yard.md). -/
  | umax (q : SReq)
  /-- AND (R267, 12_the_yard.md). -/
  | and (q : SReq)
  /-- OR (R267, 12_the_yard.md). -/
  | or (q : SReq)
  /-- XOR (R267, 12_the_yard.md). -/
  | xor (q : SReq)
  /-- SWAP (R267, 12_the_yard.md). -/
  | swap (q : SReq)
  /-- CAS (R267, 12_the_yard.md). -/
  | cas (q : SReq)
  /-- FENCE_READ (R272, 12_the_yard.md). -/
  | fenceRead (q : SReq)
  /-- YARD_REQUEST (R275, 12_the_yard.md). -/
  | yardRequest (r : Rx)
  /-- COMBINING_ENTRY_CLOSE (R273, 12_the_yard.md). -/
  | combiningEntryClose (line : Nat)
  /-- YARD_ANSWER (R275, 12_the_yard.md). -/
  | yardAnswer (r : Rx)
  /-- YARD_RETRY_TIMEOUT (R275, 12_the_yard.md). -/
  | yardRetryTimeout (home : Nat) (seq : Nat)
  /-- OPERATION_INDETERMINATE (R275, 12_the_yard.md). -/
  | operationIndeterminate (home : Nat) (seq : Nat)
  /-- RECEIPT_QUERY_TIMER (R276, 12_the_yard.md). -/
  | receiptQueryTimer (home : Nat) (seq : Nat)
  /-- RECEIPT_QUERY (R276, 12_the_yard.md). -/
  | receiptQuery (r : Rx)
  /-- RECEIPT_STATUS (R276, 12_the_yard.md). -/
  | receiptStatus (r : Rx)
  /-- RECEIPT_EXPIRY (R274, 12_the_yard.md). -/
  | receiptExpiry (src : Nat) (seq : Nat)
  /-- ROLLBACK_NOTICE (R277, 12_the_yard.md). -/
  | rollbackNotice (r : Rx)
  /-- REMOVE_ENTRY (R276, 12_the_yard.md). -/
  | removeEntry (v : Via)
  /-- REKEY_CHECK (R265, 12_the_yard.md). -/
  | rekeyCheck
  /-- MIGRATION_SET (R266, 12_the_yard.md). -/
  | migrationSet
  /-- DATA_FRAME (R130, 06_couching_epochs_and_the_deckle.md). -/
  | dataFrame (r : Rx)
  /-- ACKNOWLEDGEMENT (R132, 06_couching_epochs_and_the_deckle.md). -/
  | acknowledgement (r : Rx)
  /-- RETRANSMIT_TIMEOUT (R127, 06_couching_epochs_and_the_deckle.md). -/
  | retransmitTimeout (stream : StreamId) (role : Nat) (seq : Nat) (parity : Nat)
  /-- EPOCH_DONE_NOTICE (R133, 06_couching_epochs_and_the_deckle.md). -/
  | epochDoneNotice (r : Rx)
  /-- NOTICE_REPEAT (R132, 06_couching_epochs_and_the_deckle.md). -/
  | noticeRepeat
  /-- FOLD_COMPLETE (R133, 06_couching_epochs_and_the_deckle.md). -/
  | foldComplete
  /-- HOLDER_SILENCE_LIMIT (R141, 06_couching_epochs_and_the_deckle.md). -/
  | holderSilenceLimit (group : Nat) (parity : Nat)
  /-- FEEDWARN_CHANGE (R362, 16_groom_and_device_life.md). -/
  | feedwarnChange (pad : Nat) (v : Bool)
  /-- FEED_DECLARED (R362, 16_groom_and_device_life.md). -/
  | feedDeclared
  /-- FLUSH_TIME_LIMIT (R144, 06_couching_epochs_and_the_deckle.md). -/
  | flushTimeLimit
  /-- SUSPECT (R150, 07_loss_rebuild_and_membership.md). -/
  | suspect (r : Rx)
  /-- SILENCE_LIMIT (R150, 07_loss_rebuild_and_membership.md). -/
  | silenceLimit (dev : Nat)
  /-- TWIN_WAIT (R151, 07_loss_rebuild_and_membership.md). -/
  | twinWait (dev : Nat)
  /-- TWIN_REPORT (R151, 07_loss_rebuild_and_membership.md). -/
  | twinReport (r : Rx)
  /-- PROPOSE (R153, 07_loss_rebuild_and_membership.md). -/
  | propose (r : Rx)
  /-- ACCEPT (R154, 07_loss_rebuild_and_membership.md). -/
  | accept (r : Rx)
  /-- ACCEPT_TIMEOUT (R154, 07_loss_rebuild_and_membership.md). -/
  | acceptTimeout
  /-- CUT (R156, 07_loss_rebuild_and_membership.md). -/
  | cut (r : Rx)
  /-- ROLLBACK_COMPLETE (R161, 07_loss_rebuild_and_membership.md). -/
  | rollbackComplete
  /-- READY (R157, 07_loss_rebuild_and_membership.md). -/
  | ready (r : Rx)
  /-- RELEASE (R157, 07_loss_rebuild_and_membership.md). -/
  | release (r : Rx)
  /-- RE_STRIPE_FILL_READ (R171, 07_loss_rebuild_and_membership.md). -/
  | reStripeFillRead
  /-- RE_STRIPE_DATA (R171, 07_loss_rebuild_and_membership.md). -/
  | reStripeData (r : Rx)
  /-- RE_STRIPE_ACKNOWLEDGEMENT (R171, 07_loss_rebuild_and_membership.md). -/
  | reStripeAcknowledgement (r : Rx)
  /-- HOLD_LIMIT (R157, 07_loss_rebuild_and_membership.md). -/
  | holdLimit
  /-- STALE_NOTICE (R160, 07_loss_rebuild_and_membership.md). -/
  | staleNotice (r : Rx)
  /-- JOIN_REQUEST (R173, 07_loss_rebuild_and_membership.md). -/
  | joinRequest (r : Rx)
  /-- JOIN_REQUEST_REPEAT (R173, R174, 07_loss_rebuild_and_membership.md). `refused`: the reason, 1 to 6, for which the lead
  has refused the request; 0 while it has not. -/
  | joinRequestRepeat (refused : Nat)
  /-- JOIN (R174, 07_loss_rebuild_and_membership.md). -/
  | join (v : Via)
  /-- REBUILD_READ (R166, 07_loss_rebuild_and_membership.md). -/
  | rebuildRead (r : Rx)
  /-- REBUILD_DATA (R168, 07_loss_rebuild_and_membership.md). -/
  | rebuildData (r : Rx)
  /-- JOURNAL_MIRROR (R158, 07_loss_rebuild_and_membership.md). -/
  | journalMirror (r : Rx)
  /-- SNAPSHOT_TIMER_TRIGGER (R180, 08_flash_and_shared_store.md). -/
  | snapshotTimerTrigger
  /-- SNAPSHOT_NOW (R179, 08_flash_and_shared_store.md). -/
  | snapshotNow (v : Via)
  /-- SNAPSHOT_DEFERRAL_CLEARED (R179, 08_flash_and_shared_store.md). -/
  | snapshotDeferralCleared
  /-- SNAPSHOT_ORDER (R181, 08_flash_and_shared_store.md). -/
  | snapshotOrder (r : Rx)
  /-- SNAPSHOT_REPORT (R181, 08_flash_and_shared_store.md). -/
  | snapshotReport (r : Rx)
  /-- SEAL_RELEASE (R182, 08_flash_and_shared_store.md). -/
  | sealRelease
  /-- COPY_ON_WRITE_HOLD_LIMIT (R184, 08_flash_and_shared_store.md). -/
  | copyOnWriteHoldLimit
  /-- SNAPSHOT_COMPLETE (R185, 08_flash_and_shared_store.md). -/
  | snapshotComplete
  /-- EVALUATION_EXPORT_NOW (R191, 08_flash_and_shared_store.md). -/
  | evaluationExportNow (v : Via)
  /-- RESTORE_REQUEST (R192, 08_flash_and_shared_store.md). -/
  | restoreRequest (v : Via)
  /-- INVENTORY (R192, 08_flash_and_shared_store.md). -/
  | inventory (r : Rx)
  /-- RESTORE_ORDER (R194, 08_flash_and_shared_store.md). -/
  | restoreOrder (r : Rx)
  /-- SHARD_LOAD_COMPLETE (R194, 08_flash_and_shared_store.md). -/
  | shardLoadComplete
  /-- RESTORE_REPORT (R194, 08_flash_and_shared_store.md). -/
  | restoreReport (r : Rx)
  /-- F_PORT_COMPLETION (R387, 17_ports_clocks_and_integration.md). -/
  | fPortCompletion (tag : Nat) (status : Nat)
  /-- CONTRIBUTION (R210, 09_exact_gradient_reduction.md). -/
  | contribution (r : Rx)
  /-- RESULT (R213, 09_exact_gradient_reduction.md). -/
  | result (r : Rx)
  /-- RESULT_TIMEOUT (R213, 09_exact_gradient_reduction.md). -/
  | resultTimeout (step : Nat) (stream : Nat) (phase : Nat) (chunk : Nat)
  /-- TAINT (R217, 09_exact_gradient_reduction.md). -/
  | taint (r : Rx)
  /-- TAINT_HORIZON (R214, 09_exact_gradient_reduction.md). -/
  | taintHorizon (step : Nat) (stream : Nat) (phase : Nat) (chunk : Nat)
  /-- PEAK_NOTICE (R202, 09_exact_gradient_reduction.md). -/
  | peakNotice (r : Rx)
  /-- LATE_TAINT_TIMEOUT (R219, 09_exact_gradient_reduction.md). -/
  | lateTaintTimeout (step : Nat) (stream : Nat) (phase : Nat) (chunk : Nat)
  /-- CALL_RELEASE (R228, 10_expert_routing_support.md). -/
  | callRelease (q : SReq)
  /-- ALLOTMENT_ROUND (R232, 10_expert_routing_support.md). -/
  | allotmentRound (layer : Nat) (step : Nat) (call : Nat)
  /-- COMBINE_CURSOR_WRITE (R236, 10_expert_routing_support.md). -/
  | combineCursorWrite (q : SReq)
  /-- RETURN_WINDOW_WRITE (R236, 10_expert_routing_support.md). -/
  | returnWindowWrite (off : Nat) (data : Bytes)
  /-- COMBINE_COMPLETE (R235, 10_expert_routing_support.md). -/
  | combineComplete (layer : Nat) (step : Nat) (call : Nat)
  /-- COMBINE_TIMEOUT (R236, 10_expert_routing_support.md). -/
  | combineTimeout (layer : Nat) (step : Nat) (call : Nat)
  /-- SWEEP_START (R243, 11_site_exchange.md). -/
  | sweepStart
  /-- SWEEP_BLOCK (R244, 11_site_exchange.md). -/
  | sweepBlock
  /-- ROUND_CLOSE (R250, 11_site_exchange.md). -/
  | roundClose (round : Nat)
  /-- MANIFEST (R251, 11_site_exchange.md). -/
  | manifest (r : Rx)
  /-- LONG_HAUL_PACKET (R248, 11_site_exchange.md). -/
  | longHaulPacket (r : Rx)
  /-- REPAIR_WAIT (R248, 11_site_exchange.md). -/
  | repairWait (site : Nat) (shard : Nat) (round : Nat) (block : Nat) (set : Nat)
  /-- REPAIR_REQUEST (R248, 11_site_exchange.md). -/
  | repairRequest (r : Rx)
  /-- SHARD_SUMMARY (R249, 11_site_exchange.md). -/
  | shardSummary (r : Rx)
  /-- SHARD_COMPLETE (R249, 11_site_exchange.md). -/
  | shardComplete (r : Rx)
  /-- MANIFEST_WAIT (R253, 11_site_exchange.md). -/
  | manifestWait
  /-- SITE_JOIN (R256, 11_site_exchange.md). -/
  | siteJoin (v : Via)
  /-- SITE_JOIN_REQUEST (R256, 11_site_exchange.md). -/
  | siteJoinRequest (r : Rx)
  /-- JOIN_ANSWER (R256, 11_site_exchange.md). -/
  | joinAnswer (r : Rx)
  /-- REPAIR_COMPLETE (R297, 13_stables_and_stored_data.md). -/
  | repairComplete (addr : Nat) (answers : List (Nat × Nat × List Nat)) (parity : List (Nat × List Nat)) (lost : List Nat)
  /-- REPAIR_LIMIT (R295, 13_stables_and_stored_data.md). -/
  | repairLimit (addr : Nat)
  /-- SRAM_PATROL (R298, 13_stables_and_stored_data.md). -/
  | sramPatrol (mem : Nat) (slice : Nat) (row : Nat) (flips : Nat) (hard : Bool) (cls : Nat)
  /-- HBM_PATROL (R299, 13_stables_and_stored_data.md). -/
  | hbmPatrol (slice : Nat) (addr : Nat) (bad : Bool) (fin : Bool)
  /-- ERROR_INJECTION (R302, 13_stables_and_stored_data.md). -/
  | errorInjection (v : Via)
  /-- ACKNOWLEDGE_RETIREMENT (R301, 13_stables_and_stored_data.md). -/
  | acknowledgeRetirement (v : Via)
  /-- JOB_KEY (R303, 14_determinism_and_audit.md). -/
  | jobKey (v : Via)
  /-- STREAM_QUERY (R306, 14_determinism_and_audit.md). -/
  | streamQuery (v : Via)
  /-- WATERMARK (R315, 14_determinism_and_audit.md). -/
  | watermark (r : Rx)
  /-- BISECTION_START (R315, 14_determinism_and_audit.md). -/
  | bisectionStart (commit : Nat)
  /-- BISECT_QUERY (R317, 14_determinism_and_audit.md). -/
  | bisectQuery (r : Rx) (own : Option (List Nat))
  /-- BISECT_ANSWER (R317, 14_determinism_and_audit.md). -/
  | bisectAnswer (r : Rx)
  /-- BISECT_ANSWER_TIMEOUT (R317, 14_determinism_and_audit.md). -/
  | bisectAnswerTimeout (dev : Nat)
  /-- LINE (R318, 14_determinism_and_audit.md). -/
  | line (r : Rx) (own : Option (List Nat))
  /-- BISECTION_LIMIT (R319, 14_determinism_and_audit.md). -/
  | bisectionLimit
  /-- OPEN (R336, 15_eciabo_dictionary.md). -/
  | open_ (r : Rx)
  /-- CONFIRM (R336, 15_eciabo_dictionary.md). -/
  | confirm (r : Rx)
  /-- CLOSE (R336, 15_eciabo_dictionary.md). -/
  | close (r : Rx)
  /-- HALF_OPEN_TIMEOUT (R336, 15_eciabo_dictionary.md). -/
  | halfOpenTimeout (id : Nat)
  /-- IDLE_TIMEOUT (R336, 15_eciabo_dictionary.md). -/
  | idleTimeout (id : Nat)
  /-- READ (R338, 15_eciabo_dictionary.md). -/
  | read (v : Via)
  /-- WRITE (R338, 15_eciabo_dictionary.md). -/
  | write (v : Via)
  /-- READ_BLOCK (R340, 15_eciabo_dictionary.md). -/
  | readBlock (v : Via)
  /-- WRITE_BLOCK (R339, 15_eciabo_dictionary.md). -/
  | writeBlock (v : Via)
  /-- SUBSCRIBE (R341, 15_eciabo_dictionary.md). -/
  | subscribe (v : Via)
  /-- BLOCK_TIMEOUT (R339, 15_eciabo_dictionary.md). -/
  | blockTimeout (sess : Nat) (key : Nat) (copy : Bool)
  /-- NOTIFY (R341, 15_eciabo_dictionary.md). -/
  | notify (sess : Nat) (key : Nat)
  /-- PRINCIPAL_KEY (R336, 15_eciabo_dictionary.md). -/
  | principalKey (v : Via)
  /-- PRINCIPAL_ENABLED (R336, 15_eciabo_dictionary.md). -/
  | principalEnabled (v : Via)
  /-- MOULD_LOAD (R59, 03_moulds_and_the_optimiser_pass.md). -/
  | mouldLoad (v : Via)
  /-- IMPORT_REQUEST (R419, 03_moulds_and_the_optimiser_pass.md). -/
  | importRequest (v : Via)
  /-- IMPORT_COMPLETE (R419, 03_moulds_and_the_optimiser_pass.md). -/
  | importComplete
  /-- FUNCTION_ENABLE (R356, 16_groom_and_device_life.md). -/
  | functionEnable (v : Via)
  /-- FUNCTION_DISABLE (R356, 16_groom_and_device_life.md). -/
  | functionDisable (v : Via)
  /-- DRAIN_COMPLETE (R356, 16_groom_and_device_life.md). -/
  | drainComplete (fn : Fn)
  /-- DRAIN_LIMIT (R357, 16_groom_and_device_life.md). -/
  | drainLimit
  /-- THERMAL_SAMPLE (R360, 16_groom_and_device_life.md). -/
  | thermalSample (ts : List Int)
  /-- DROOP_LIMIT (R361, 16_groom_and_device_life.md). -/
  | droopLimit (slice : Nat) (count : Nat)
  /-- CLOCK_LOST_LOCK (R395, 17_ports_clocks_and_integration.md). -/
  | clockLostLock (domain : Nat)
  /-- PORT_CLOCK_RESUME (R395, 17_ports_clocks_and_integration.md). -/
  | portClockResume (domain : Nat)
  /-- IMAGE_CHUNK (R370, 16_groom_and_device_life.md). -/
  | imageChunk (v : Via)
  /-- CHECK_SLOT (R370, 16_groom_and_device_life.md). -/
  | checkSlot (v : Via)
  /-- ACTIVATE (R370, 16_groom_and_device_life.md). -/
  | activate (v : Via)
  /-- PAIR (R373, 16_groom_and_device_life.md). -/
  | pair (v : Via)
  /-- OFFER_REPEAT (R373, 16_groom_and_device_life.md). -/
  | offerRepeat
  /-- OFFER (R373, 16_groom_and_device_life.md). -/
  | offer (r : Rx)
  /-- TWIN_ACCEPT (R373, 16_groom_and_device_life.md). -/
  | twinAccept (r : Rx)
  /-- TWIN_CONFIRM (R373, 16_groom_and_device_life.md). -/
  | twinConfirm (r : Rx)
  /-- PAIR_TIMEOUT (R373, 16_groom_and_device_life.md). -/
  | pairTimeout
  /-- HEARTBEAT_TIMER (R374, 16_groom_and_device_life.md). -/
  | heartbeatTimer
  /-- HEARTBEAT (R374, 16_groom_and_device_life.md). -/
  | heartbeat (r : Rx)
  /-- TWIN_SILENCE (R374, 16_groom_and_device_life.md). -/
  | twinSilence
  /-- LOG_MIRROR (R366, 16_groom_and_device_life.md). -/
  | logMirror (r : Rx)
  /-- UNPAIR (R375, 16_groom_and_device_life.md). -/
  | unpair (v : Via)
  /-- UNPAIR_FRAME (R375, 16_groom_and_device_life.md). -/
  | unpairFrame (r : Rx)
  /-- SIDEBAND_WIRE_FAULT (R390, 17_ports_clocks_and_integration.md). -/
  | sidebandWireFault (pair : Nat) (code : Nat)
  /-- SIDEBAND_PAIR_RECOVERED (R390, 17_ports_clocks_and_integration.md). -/
  | sidebandPairRecovered (pair : Nat)
  /-- RESERVED_KIND_FRAME (R422, 01_slices_hub_and_ticks.md). -/
  | reservedKindFrame (r : Rx)
  /-- CHECKSUM_ERROR_DATAGRAM (R385, 17_ports_clocks_and_integration.md). -/
  | checksumErrorDatagram (r : Rx)
  /-- FREEZE (R399, 18_freeze_test_and_fuses.md). -/
  | freeze (bits : Nat)
  /-- TEST_LOGIC_RESET (R403, 18_freeze_test_and_fuses.md). -/
  | testLogicReset
  /-- IDCODE (R403, 18_freeze_test_and_fuses.md). -/
  | idcode
  /-- SAMPLE_PRELOAD (R403, 18_freeze_test_and_fuses.md). -/
  | samplePreload (shifted : Nat)
  /-- EXTEST (R404, 18_freeze_test_and_fuses.md). -/
  | extest (shifted : Nat)
  /-- CLAMP (R404, 18_freeze_test_and_fuses.md). -/
  | clamp
  /-- HIGHZ (R404, 18_freeze_test_and_fuses.md). -/
  | highz
  /-- IJTAG (R405, 18_freeze_test_and_fuses.md). -/
  | ijtag (sibs : Nat)
  /-- SCAN (R403, 18_freeze_test_and_fuses.md). -/
  | scan
  /-- BYPASS (R403, 18_freeze_test_and_fuses.md). -/
  | bypass (code : Nat)
  /-- SRAM_READOUT (R406, 18_freeze_test_and_fuses.md). -/
  | sramReadout (g : Nat) (addr : Nat)
  /-- REGISTER_CAPTURE (R406, 18_freeze_test_and_fuses.md). -/
  | registerCapture (g : Nat)
  /-- MEMORY_BIST (R407, 18_freeze_test_and_fuses.md). -/
  | memoryBist (g : Nat) (pass : Nat) (spares : Nat)
  /-- FUSE_READER (R408, 18_freeze_test_and_fuses.md). -/
  | fuseReader
  /-- FREEZE_STATUS (R402, 18_freeze_test_and_fuses.md). -/
  | freezeStatus
  /-- FUSE_PROGRAMMER (R411, 18_freeze_test_and_fuses.md). -/
  | fuseProgrammer (fuse : Nat) (copy : Nat) (rail : Bool)
  /-- RAILS_FALL (R353, 16_groom_and_device_life.md). -/
  | railsFall
  /-- STALL_INDICATOR_CLEARED (R381, 17_ports_clocks_and_integration.md). -/
  | stallIndicatorCleared (slice : Nat)
  /-- RUSH_HOLD_END (R124, 06_couching_epochs_and_the_deckle.md). -/
  | rushHoldEnd (slice : Nat)
  /-- COPIER_LINE_READ (R183, 08_flash_and_shared_store.md). -/
  | copierLineRead (slice : Nat)
  /-- FILL_LINE_READ (R118, 05_code_groups_and_placement.md). -/
  | fillLineRead
  /-- STEPDONE_LEVEL_FRAME (R391, 17_ports_clocks_and_integration.md). -/
  | stepdoneLevelFrame
  /-- STEPMARK_LEVEL_ZERO (R391, 17_ports_clocks_and_integration.md). -/
  | stepmarkLevelZero
deriving DecidableEq, Repr

end Sys2Proof
end

