-- ==== Sys2Proof/Decode.lean ====
section
/-!
DEFINITION. The command that a word spells.

No row of the opcode table gives bits, so no word spells a command: the rows' operands are frames, requests and events.
-/

namespace Sys2Proof

/-- The command spelled by a word of nbits bits, over the rows that give bits: none do. -/
def decodeTableWord (_nbits _w : Nat) : Option Instr := none

end Sys2Proof
end

