-- ==== Sys2Proof/Config.lean ====
section
/-!
DEFINITION. The free values: what the spec leaves open and the machine goes on with.

None has a body, so no proof can see a value; a statement that mentions one holds for every value.
-/

namespace Sys2Proof

/-- The groom's random source (R336, Table 16-11): its n-th draw. -/
opaque Config.random : Nat → Nat

/-- The verdict of Ed25519 (RFC 8032) on a message and a 64-byte signature under the boot key (R368);
the spec names the algorithm and gives neither it nor the key. -/
opaque Config.ed25519Valid : Bytes → Bytes → Bool

/-- The public key in the boot ROM (R368). -/
opaque Config.bootKey : Bytes

/-- The raw row that an SRAM readout captures: memory, slice, row, and the moment it is read at (R406). -/
opaque Config.sramRow : Nat → Nat → Nat → Nat → Nat

/-- The flops of a domain in their internal order (R406), at a given moment. -/
opaque Config.flops : Nat → Nat → Nat

/-- The pads sampled by SAMPLE/PRELOAD (R403), at a given moment. -/
opaque Config.pads : Nat → Nat

/-- A value the spec leaves open, fresh at each draw. -/
opaque Config.freeValue : Nat → Nat

end Sys2Proof
end

