-- ==== Sys2Proof/Machine/Cells.lean ====
section
/-!
DEFINITION. Sparse contents as association lists in one canonical form: keys strictly rising, and no
entry equal to what an unlisted key reads as. Host memory, flash, OCTETS bytes and scalar objects
are all held this way.
-/

namespace Sys2Proof.Machine

/-- What key k holds, if it is listed. -/
def Sparse.find {α : Type} : List (Nat × α) → Nat → Option α
  | [], _ => none
  | (k, v) :: m, x => if x = k then some v else Sparse.find m x

/-- What key k reads as, where an unlisted key reads as d. -/
def Sparse.get {α : Type} (d : α) (m : List (Nat × α)) (k : Nat) : α :=
  match Sparse.find m k with
  | some v => v
  | none => d

/-- m without key k. -/
def Sparse.erase {α : Type} : List (Nat × α) → Nat → List (Nat × α)
  | [], _ => []
  | (k, v) :: m, x => if x = k then m else if x < k then (k, v) :: m else (k, v) :: Sparse.erase m x

/-- m with key k holding v. -/
def Sparse.insert {α : Type} : List (Nat × α) → Nat → α → List (Nat × α)
  | [], x, w => [(x, w)]
  | (k, v) :: m, x, w =>
    if x = k then (x, w) :: m else if x < k then (x, w) :: (k, v) :: m else (k, v) :: Sparse.insert m x w

/-- The write: the canonical form is kept, so writing what an unlisted key reads as removes the entry. -/
def Sparse.put {α : Type} [DecidableEq α] (d : α) (m : List (Nat × α)) (k : Nat) (v : α) : List (Nat × α) :=
  if v = d then Sparse.erase m k else Sparse.insert m k v

/-- The entries rise strictly from above lo. -/
def Sparse.rising {α : Type} (lo : Nat) : List (Nat × α) → Bool
  | [] => true
  | (k, _) :: m => decide (lo ≤ k) && Sparse.rising (k + 1) m

/-- The canonical form, for a default that may depend on the key. -/
def Sparse.wf {α : Type} [DecidableEq α] (d : Nat → α) (m : List (Nat × α)) : Bool :=
  Sparse.rising 0 m && m.all (fun e => e.2 ≠ d e.1)

/-- Consecutive bytes from a, one write each. -/
def Sparse.putBytes (m : List (Nat × Byte)) (a : Nat) : Bytes → List (Nat × Byte)
  | [] => m
  | b :: bs => Sparse.putBytes (Sparse.put 0 m a b) (a + 1) bs

/-- n consecutive bytes from a, unlisted bytes reading 0. -/
def Sparse.getBytes (m : List (Nat × Byte)) (a : Nat) : Nat → Bytes
  | 0 => []
  | n + 1 => Sparse.get 0 m a :: Sparse.getBytes m (a + 1) n

/-- m with every key of [lo, hi) unlisted. -/
def Sparse.clear {α : Type} (m : List (Nat × α)) (lo hi : Nat) : List (Nat × α) :=
  m.filter (fun e => e.1 < lo || hi ≤ e.1)

/-- A rising list of naturals with x in it. -/
def insertSorted (x : Nat) : List Nat → List Nat
  | [] => [x]
  | y :: l => if x = y then y :: l else if x < y then x :: y :: l else y :: insertSorted x l

/-- A list without x. -/
def dropEntry (x : Nat) (l : List Nat) : List Nat := l.filter (· ≠ x)

/-- Replaces the entries that satisfy p by f of them. -/
def mapWhere {α : Type} (p : α → Bool) (f : α → α) (l : List α) : List α := l.map (fun a => if p a then f a else a)

/-- The i-th entry replaced, where there is one. -/
def setAt {α : Type} : List α → Nat → α → List α
  | [], _, _ => []
  | _ :: l, 0, a => a :: l
  | x :: l, i + 1, a => x :: setAt l i a

end Sys2Proof.Machine
end

