-- ==== Sys2Proof/Machine/Num.lean ====
section
/-!
DEFINITION. Bits, bytes, the coding field and the number formats of
02_state_and_number_formats.md, with the line packing of R125.

Integers are unbounded (R9); `Int.ediv` by a positive divisor rounds towards
minus infinity and `Int.emod` by p lies in [0, p - 1], as R9 reads `//` and `mod`.
-/

namespace Sys2Proof.Machine

/-! ### Bits and bytes -/

/-- Bits [lo + n - 1 : lo] of w (R6). -/
def bits (w lo n : Nat) : Nat := w / 2 ^ lo % 2 ^ n

/-- Bit i of w (R6). -/
def bit (w i : Nat) : Bool := w.testBit i

/-- w with bit i set or cleared. -/
def setBit (w i : Nat) (v : Bool) : Nat :=
  if w.testBit i == v then w else if v then w + 2 ^ i else w - 2 ^ i

/-- The number of set bits among bits [n - 1 : 0] of w. -/
def popcount (w : Nat) : Nat → Nat
  | 0 => 0
  | n + 1 => popcount w n + (if w.testBit n then 1 else 0)

/-- The positions of the set bits of w below n, rising. -/
def setBits (w n : Nat) : List Nat := (List.range n).filter (fun i => w.testBit i)

/-- v as n bytes, least significant first (R7, memory order). -/
def le : Nat → Nat → Bytes
  | 0, _ => []
  | n + 1, v => BitVec.ofNat 8 v :: le n (v / 256)

/-- The value of bytes held least significant first. -/
def leNat : Bytes → Nat
  | [] => 0
  | b :: bs => b.toNat + 256 * leNat bs

/-- v as n bytes, most significant first (R7, wire order). -/
def be (n v : Nat) : Bytes := (le n v).reverse

/-- The value of bytes held most significant first. -/
def beNat (bs : Bytes) : Nat := leNat bs.reverse

/-- Bytes off .. off + n - 1; bytes beyond the end read as zero. -/
def slice (bs : Bytes) (off n : Nat) : Bytes :=
  let t := (bs.drop off).take n
  t ++ List.replicate (n - t.length) 0

/-- A frame field: n bytes from off, most significant byte first (R7). -/
def fld (f : Bytes) (off n : Nat) : Nat := beNat (slice f off n)

/-- A field of a memory or OCTETS image: n bytes from off, least significant byte first (R7). -/
def fldLe (f : Bytes) (off n : Nat) : Nat := leNat (slice f off n)

/-- n zero bytes (R8). -/
def zeros (n : Nat) : Bytes := List.replicate n 0

/-- f with the bytes from off replaced by v. -/
def patch (f : Bytes) (off : Nat) (v : Bytes) : Bytes :=
  let f' := f ++ zeros (off - f.length)
  f'.take off ++ v ++ f'.drop (off + v.length)

/-- bs with zero bytes appended up to a multiple of n. -/
def padTo (n : Nat) (bs : Bytes) : Bytes := bs ++ zeros ((n - bs.length % n) % n)

/-- bs cut into runs of n bytes; the last may be shorter. -/
def chunks (n : Nat) : Nat → Bytes → List Bytes
  | 0, _ => []
  | _, [] => []
  | fuel + 1, bs => bs.take n :: chunks n fuel (bs.drop n)

/-- The value of an n-bit two's-complement pattern. -/
def sgn (n v : Nat) : Int :=
  let v := v % 2 ^ n
  if v < 2 ^ (n - 1) then (v : Int) else (v : Int) - (2 ^ n : Nat)

/-- The n-bit two's-complement pattern of x (wrapping). -/
def pat (n : Nat) (x : Int) : Nat := (x % ((2 ^ n : Nat) : Int)).toNat

/-- The bit length of x: 0 for 0. -/
def bitLength (x : Nat) : Nat := if x = 0 then 0 else x.log2 + 1

/-- ceil(a / b). -/
def ceilDiv (a b : Nat) : Nat := (a + b - 1) / b

/-- The least n with x ≤ 2^n, that is ceil(log2 x) for x ≥ 1 (R201). -/
def ceilLog2 (x : Nat) : Nat := bitLength (x - 1)

/-- x clamped to [lo, hi]. -/
def clampI (lo hi x : Int) : Int := max lo (min hi x)

/-- -1, 0 or +1. -/
def signI (x : Int) : Int := if x < 0 then -1 else if x = 0 then 0 else 1

/-- The magnitude. -/
def mag (x : Int) : Nat := x.natAbs

/-- The greatest of a list of naturals, 0 for none. -/
def maxN (l : List Nat) : Nat := l.foldl max 0

/-- The sum of a list of naturals. -/
def sumN (l : List Nat) : Nat := l.foldl (· + ·) 0

/-- The sum of a list of integers. -/
def sumI (l : List Int) : Int := l.foldl (· + ·) 0

/-! ### The coding field (Symbols of 00_scope.md, R43, R44) -/

/-- p = 2^61 - 1. -/
def p61 : Nat := 2 ^ 61 - 1

/-- q = 2^31 - 1. -/
def q31 : Nat := 2 ^ 31 - 1

/-- A signed value into the field: v mod p (R9). -/
def toField (v : Int) : Nat := (v % (p61 : Int)).toNat

/-- A field element back to a signed value (R9). -/
def ofField (y : Nat) : Int := if y < 2 ^ 60 then (y : Int) else (y : Int) - (p61 : Int)

/-- R43: the reduction of x below 2^122. -/
def red (x : Nat) : Nat :=
  let x1 := x % 2 ^ 61 + x / 2 ^ 61
  let x2 := x1 % 2 ^ 61 + x1 / 2 ^ 61
  if x2 ≥ p61 then x2 - p61 else x2

/-- R43, R44: y * 2^i mod p by rotation, for canonical y and i at most 60. -/
def rotmul (y i : Nat) : Nat := y * 2 ^ i % 2 ^ 61 + y / 2 ^ (61 - i)

/-- R43: the general multiplier. -/
def mulP (y z : Nat) : Nat := red (y * z)

/-- Addition in the field. -/
def addP (y z : Nat) : Nat := (y + z) % p61

/-- Subtraction in the field. -/
def subP (y z : Nat) : Nat := (y + (p61 - z % p61)) % p61

/-- b^e mod p by square and multiply, with fuel for the bits of e. -/
def powPAux (b : Nat) : Nat → Nat → Nat
  | 0, _ => 1
  | fuel + 1, e =>
    if e = 0 then 1 else
      let h := powPAux (b * b % p61) fuel (e / 2)
      if e % 2 = 1 then b * h % p61 else h

/-- b^e mod p. -/
def powP (b e : Nat) : Nat := powPAux (b % p61) (bitLength e) e

/-- R167: the inverse of a non-zero element. -/
def invP (a : Nat) : Nat := powP a (p61 - 2)

/-- A canonical P61 word (R43). -/
def canonical (y : Nat) : Bool := y < p61

/-! ### Rounding (R34, R53) -/

/-- round_shift: x / 2^sh, mode 0 nearest with ties to even, mode 1 stochastic with the word r. -/
def roundShift (x : Int) (sh mode r : Nat) : Int :=
  let q := x / ((2 ^ sh : Nat) : Int)
  let rem := (x - q * ((2 ^ sh : Nat) : Int)).toNat
  let up :=
    if mode = 0 then
      let half := 2 ^ (sh - 1)
      rem > half || (rem == half && q % 2 == 1)
    else
      let d := if sh ≤ 32 then rem * 2 ^ (32 - sh) else rem / 2 ^ (sh - 32)
      r < d
  q + (if up then 1 else 0)

/-! ### The state words (R35 to R42) -/

/-- The greatest W64 magnitude (R35). -/
def w64Max : Int := 2 ^ 60 - 1

/-- R36: clamp to the W64 interval. -/
def clamp60 (x : Int) : Int := clampI (-w64Max) w64Max x

/-- The greatest M32 magnitude (R39). -/
def m32Max : Int := 2 ^ 31 - 1

/-- Saturation into M32 (Table 2-5). -/
def sat31 (x : Int) : Int := clampI (-m32Max) m32Max x

/-- The LA17 zero, a = -65,536 (R42). -/
def la17Zero : Int := -65536

/-- R42: the LA17 value of a 32-bit word, and whether the word is malformed (then zero). -/
def la17OfWord (w : Nat) : Int × Bool :=
  let top := bits w 17 15
  if (bit w 16 && top == 2 ^ 15 - 1) || (!bit w 16 && top == 0)
  then (sgn 17 w, false) else (la17Zero, true)

/-- The 32-bit word that holds an LA17 value (R42). -/
def wordOfLa17 (a : Int) : Nat := pat 32 a

/-! ### The conversion tables (R49) -/

/-- The greatest r of which r^n ≤ x, found bit by bit from bit k - 1 down, given the bits above. -/
def irootAux (x n : Nat) : Nat → Nat → Nat
  | 0, acc => acc
  | k + 1, acc =>
    let t := acc + 2 ^ k
    irootAux x n k (if t ^ n ≤ x then t else acc)

/-- The floor of the exact n-th root of x. -/
def iroot (x n : Nat) : Nat := irootAux x n (bitLength x / n + 1) 0

/-- R49 value_table: V[j], the nearest integer to 2^(62 + j/N). -/
def vEntry (N j : Nat) : Nat := (iroot (2 ^ (63 * N + j)) N + 1) / 2

/-- R49 threshold_table: the search for enough guard bits g, and the entry. -/
def tEntryAux (N j : Nat) : Nat → Nat → Nat
  | 0, _ => 0
  | fuel + 1, g =>
    let a := iroot (2 ^ ((61 + g) * N + j)) N
    let b := iroot (2 ^ ((61 + g) * N + j + 1)) N
    if (a + b) % 2 ^ g < 2 ^ g - 2 then (a + b) / 2 ^ g + 1 else tEntryAux N j fuel (g + 32)

/-- R49 threshold_table: T[j] = ceil(2^(61 + j/N) + 2^(61 + (j+1)/N)). -/
def tEntry (N j : Nat) : Nat := tEntryAux N j 8 64

/-- R49 zero_threshold: ceil(2^(62 + 1/N)). -/
def zeroThreshold (N : Nat) : Nat := iroot (2 ^ (62 * N + 1)) N + 1

/-- R49 log_threshold_table: B[j] = ceil(2^(62 + (2j+1)/1024)). -/
def bEntry (j : Nat) : Nat := iroot (2 ^ (62 * 1024 + 2 * j + 1)) 1024 + 1

/-- R49 antilog_table: VA[j]. -/
def vaEntry (j : Nat) : Nat := vEntry 512 j

/-- How many of the n rising entries f 0, f 1, … are at most x: the count R49's users take,
found by bisection of a rising table between lo and lo + (about 2^fuel) entries. -/
def countLe (f : Nat → Nat) (x : Nat) : Nat → Nat → Nat → Nat
  | 0, lo, _ => lo
  | fuel + 1, lo, hi =>
    if lo ≥ hi then lo else
      let mid := (lo + hi) / 2
      if f mid ≤ x then countLe f x fuel (mid + 1) hi else countLe f x fuel lo mid

/-- The six table objects 0x2010 to 0x2015 as bytes (Table 2-8), 8 bytes an entry, most significant first. -/
def tableBytes (obj : Nat) : Bytes :=
  let out (l : List Nat) := (l.map (be 8)).flatten
  match obj with
  | 0x2010 => out ((List.range 1024).map (tEntry 1024))
  | 0x2011 => out ((List.range 1024).map (vEntry 1024))
  | 0x2012 => out ((List.range 8).map (tEntry 8) ++ (List.range 8).map (vEntry 8))
  | 0x2013 => out ((List.range 512).map bEntry)
  | 0x2014 => out ((List.range 512).map vaEntry)
  | 0x2015 => out [zeroThreshold 1024, zeroThreshold 8]
  | _ => []

/-! ### Host formats (R46 to R50, Table 2-1, Table 2-2) -/

/-- What Table 2-2 gives a log format: codes per octave, bias, greatest finite code, emin, width. -/
structure LogFmt where
  N : Nat
  bias : Int
  mmax : Int
  emin : Int
  width : Nat
deriving DecidableEq, Repr

/-- Format code 0x8. -/
def l16 : LogFmt := ⟨1024, 16384, 32765, -16, 16⟩

/-- Format code 0x9. -/
def l8 : LogFmt := ⟨8, 64, 125, -8, 8⟩

/-- The width in bits of a defined format code (Table 2-1); 0 for a reserved code. -/
def fmtBits (c : Nat) : Nat :=
  match c with
  | 0x0 => 64 | 0x1 => 32 | 0x2 => 64 | 0x3 => 32 | 0x4 => 64 | 0x5 => 32
  | 0x8 => 16 | 0x9 => 8 | 0xA => 16 | 0xB => 32 | 0xC => 32 | _ => 0

/-- The width in bytes of a format (Table 2-1). -/
def fmtBytes (c : Nat) : Nat := fmtBits c / 8

/-- R33: a defined format code. -/
def fmtDefined (c : Nat) : Bool := fmtBits c != 0

/-- R54 w64_to_log: the code, and whether it was cut to the greatest finite code (0x8200.03). -/
def w64ToLog (v : Int) (f : Int) (fmt : LogFmt) (mode r : Nat) : Nat × Bool :=
  if v = 0 then (0, false) else
    let s := if v < 0 then 1 else 0
    let a := mag v
    let e := bitLength a - 1
    let n := a * 2 ^ (62 - e)
    let E : Int := (e : Int) - f
    let m : Int :=
      if mode = 0 then
        if E < fmt.emin - 1 then 0
        else if E = fmt.emin - 1 then (if n ≥ zeroThreshold fmt.N then 1 else 0)
        else
          let j := countLe (tEntry fmt.N) n 12 0 fmt.N
          max (fmt.bias + fmt.N * E + j) 1
      else if E < fmt.emin ∨ (E = fmt.emin ∧ n < vEntry fmt.N 1) then
        if n * 2 ^ 32 > r * vEntry fmt.N 1 * 2 ^ (fmt.emin - E).toNat then 1 else 0
      else
        let j := countLe (vEntry fmt.N) n 12 0 fmt.N - 1
        let up := (n - vEntry fmt.N j) * 2 ^ 32 > r * (vEntry fmt.N (j + 1) - vEntry fmt.N j)
        fmt.bias + fmt.N * E + j + (if up then 1 else 0)
    let cut := m > fmt.mmax
    let m' := if cut then fmt.mmax else m
    (s * 2 ^ (fmt.width - 1) + m'.toNat, cut)

/-- R54 w64_to_ieee with b fraction bits. -/
def w64ToIeee (v : Int) (f : Int) (b width mode r : Nat) : Nat :=
  if v = 0 then 0 else
    let s := if v < 0 then 1 else 0
    let a := mag v
    let e := bitLength a - 1
    let q0 : Nat := if e ≤ b then a * 2 ^ (b - e) else (roundShift (a : Int) (e - b) mode r).toNat
    let q := if q0 = 2 * 2 ^ b then q0 / 2 else q0
    let e' := if q0 = 2 * 2 ^ b then e + 1 else e
    let E : Int := (e' : Int) - f
    s * 2 ^ (width - 1) + (E + 127).toNat * 2 ^ b + (q - 2 ^ b)

/-- What an input code of a host format is. -/
inductive HostVal where
  | nan
  | inf (neg : Bool)
  /-- The value ±M × 2^X. -/
  | fin (neg : Bool) (M : Nat) (X : Int)
deriving DecidableEq, Repr

/-- An IEEE code with b fraction bits and 8 exponent bits, subnormals honoured (R47). -/
def ieeeDecode (c b : Nat) : HostVal :=
  let frac := bits c 0 b
  let ex := bits c b 8
  let neg := bit c (b + 8)
  if ex = 255 then (if frac = 0 then .inf neg else .nan)
  else if ex = 0 then .fin neg frac (-(126 + b : Int))
  else .fin neg (2 ^ b + frac) ((ex : Int) - (127 + b : Int))

/-- A log code (R46, R50). -/
def logDecode (c : Nat) (fmt : LogFmt) : HostVal :=
  let neg := bit c (fmt.width - 1)
  let m : Int := bits c 0 (fmt.width - 1)
  if m = 0 then .fin neg 0 0
  else if m = fmt.mmax + 1 then .nan
  else if m = fmt.mmax + 2 then .inf neg
  else
    let u := m - fmt.bias
    let E := u / fmt.N
    let j := (u % fmt.N).toNat
    .fin neg (vEntry fmt.N j) (E - 62)

/-- A code of a host format 0x8, 0x9, 0xA or 0xB. -/
def hostDecode (fmtc c : Nat) : HostVal :=
  match fmtc with
  | 0x8 => logDecode c l16
  | 0x9 => logDecode c l8
  | 0xA => ieeeDecode c 7
  | _ => ieeeDecode c 23

/-- R54: the magnitude of M × 2^X at target scale c, rounded RNE, with its sign. -/
def toScale (neg : Bool) (M : Nat) (X c : Int) : Int :=
  let m : Int := if X + c ≥ 0 then (M : Int) * ((2 ^ (X + c).toNat : Nat) : Int)
    else roundShift (M : Int) (-(X + c)).toNat 0 0
  if neg then -m else m

/-- What gradient intake makes of a code (Table 2-5): the word, saturated, non-finite. -/
def intakeConvert (fmtc code : Nat) (t : Int) (B : Nat) : Int × Bool × Bool :=
  match hostDecode fmtc code with
  | .nan => (0, false, true)
  | .inf _ => (0, false, true)
  | .fin neg M X =>
    let v := toScale neg M X t
    let lim : Int := 2 ^ B - 1
    if v > lim then (lim, true, false) else if v < -lim then (-lim, true, false) else (v, false, false)

/-- What weight import makes of a code (R419): a W64 word, or the refusal reason
(1 non-finite, 2 beyond range). -/
def importConvert (fmtc code : Nat) (f : Nat) : Except Nat Int :=
  match hostDecode fmtc code with
  | .nan => .error 1
  | .inf _ => .error 1
  | .fin neg M X =>
    let v := toScale neg M X f
    if v > w64Max ∨ v < -w64Max then .error 2 else .ok v

/-- e(x) of Table 9-2 for a finite non-zero input; none otherwise. -/
def inputExponent (fmtc code : Nat) : Option Int :=
  let ieee (b : Nat) : Option Int :=
    let ex := bits code b 8
    let frac := bits code 0 b
    if ex = 255 then none
    else if ex = 0 then (if frac = 0 then none else some ((bitLength frac : Int) - (127 + b : Int)))
    else some ((ex : Int) - 127)
  match fmtc with
  | 0xB => ieee 23
  | 0xA => ieee 7
  | _ =>
    match hostDecode fmtc code with
    | .fin _ M X => if M = 0 then none else some (X + 62)
    | _ => none

/-- R48, R229: the comparison key of a code that is not NaN. -/
def orderKey (code width : Nat) : Int :=
  let m : Int := bits code 0 (width - 1)
  if bit code (width - 1) then -m else m

/-- A NaN code of a host format. -/
def isNan (fmtc code : Nat) : Bool := hostDecode fmtc code == .nan

/-! ### M32 and LA17 (R55, the helpers of 03_moulds_and_the_optimiser_pass.md) -/

/-- The helper la17 of chapter 3: x × 2^σ as an LA17 value. -/
def la17 (x : Int) (sigma : Int) : Int :=
  if x ≤ 0 then la17Zero else
    let a0 := x.toNat
    let e := bitLength a0 - 1
    let n := if e ≤ 62 then a0 * 2 ^ (62 - e) else a0 / 2 ^ (e - 62)
    let j := countLe bEntry n 12 0 512
    let a : Int := 512 * ((e : Int) + sigma) + j
    if a < -65535 then la17Zero else min a 65535

/-- R55: LA17 to M32 at scale σ', saturating at 2^31 - 1; the flag says it was cut. -/
def la17ToM32 (a sigma : Int) : Int × Bool :=
  if a = la17Zero then (0, false) else
    let E := a / 512
    let j := (a % 512).toNat
    let sh := 62 - E + sigma
    let w : Int := if sh ≥ 1 then roundShift (vaEntry j : Int) sh.toNat 0 0
      else (vaEntry j : Int) * ((2 ^ (-sh).toNat : Nat) : Int)
    if w > m32Max then (m32Max, true) else (w, false)

/-- The helper scale_log: x × 2^xe × 2^(a/512) in units of 2^-f; the flag says it was cut to 2^60 - 1. -/
def scaleLog (x : Nat) (xe a : Int) (f : Nat) (mode r : Nat) : Int × Bool :=
  if x = 0 then (0, false) else
    let E := a / 512
    let j := (a % 512).toNat
    let y : Int := (x : Int) * (vaEntry j : Int)
    let sh := 62 - E - xe - f
    let v : Int := if sh ≥ 1 then roundShift y sh.toNat mode r
      else y * ((2 ^ (-sh).toNat : Nat) : Int)
    if v > w64Max then (w64Max, true) else (v, false)

/-- The helper mix: the numerator and the shift. -/
def mixM (old x d : Int) (Bf : Nat) : Int × Nat :=
  if d ≥ 0 then ((Bf : Int) * old + (65536 - (Bf : Int)) * (x * ((2 ^ d.toNat : Nat) : Int)), 16)
  else ((Bf : Int) * old * ((2 ^ (-d).toNat : Nat) : Int) + (65536 - (Bf : Int)) * x, 16 + (-d).toNat)

/-- The helper ema; the flag says the result saturated (0x8200.02). -/
def emaM (old x d : Int) (Bf mode r : Nat) : Int × Bool :=
  let (num, sh) := mixM old x d Bf
  let v := roundShift num sh mode r
  (sat31 v, v > m32Max ∨ v < -m32Max)

/-! ### Line-width packing and frame checks (R125, R128) -/

/-- R125 zigzag. -/
def zigzag (x : Int) : Nat := if x ≥ 0 then 2 * x.toNat else 2 * (-x).toNat - 1

/-- R125 unzigzag. -/
def unzigzag (z : Nat) : Int := if z % 2 = 0 then ((z / 2 : Nat) : Int) else -(((z + 1) / 2 : Nat) : Int)

/-- The width byte of a line of deltas. -/
def packWidth (d : List Int) : Nat := maxN (d.map (fun x => bitLength (zigzag x)))

/-- R125 pack_line: the width byte, then every value most significant bit first. -/
def packLine (d : List Int) : Bytes :=
  let w := packWidth d
  let v := d.foldl (fun acc x => acc * 2 ^ w + zigzag x) 0
  BitVec.ofNat 8 w :: be (d.length * w / 8) v

/-- The packed size of a line of E elements at width w: 1 + 4w in space W, 1 + 8w in space N. -/
def packedSize (E w : Nat) : Nat := 1 + E * w / 8

/-- R30: the packed size of an entry, 0 when every element is zero. -/
def entrySize (d : List Int) : Nat :=
  if d.all (· == 0) then 0 else packedSize d.length (packWidth d)

/-- The E values of width w held in the big-endian number v. -/
def unpackVals (v w : Nat) : Nat → List Int
  | 0 => []
  | n + 1 => unzigzag (v / 2 ^ (w * n) % 2 ^ w) :: unpackVals v w n

/-- Reads one packed line of E elements: the deltas and the bytes that follow; none when
the width is above 64 or the bytes run out. -/
def unpackLine (E : Nat) (bs : Bytes) : Option (List Int × Bytes) :=
  match bs with
  | [] => none
  | wb :: rest =>
    let w := wb.toNat
    let n := E * w / 8
    if w > 64 ∨ rest.length < n then none
    else some (unpackVals (beNat (rest.take n)) w E, rest.drop n)

/-- R128: the check over the present lines, each at its bitmap position. -/
def couchCheck (E : Nat) (lines : List (Nat × List Int)) : Nat :=
  lines.foldl (fun acc (bl : Nat × List Int) =>
    (List.range bl.2.length).foldl (fun acc e =>
      addP acc (rotmul (toField (bl.2.getD e 0)) ((bl.1 * E + e) % 61))) acc) 0

/-- Σ rotmul(w_q mod p, q mod 61) mod p over a list of words. -/
def wordCheck (ws : List Nat) : Nat :=
  (List.range ws.length).foldl (fun acc q => addP acc (rotmul (ws.getD q 0 % p61) (q % 61))) 0

/-- The 8-byte words of a frame from byte off, each most significant byte first. -/
def beWords (f : Bytes) (off : Nat) : List Nat := (chunks 8 f.length (f.drop off)).map (fun c => beNat (slice c 0 8))

/-- R268, R314: the frame check over the words from byte 32. -/
def frameCheck (f : Bytes) : Nat := wordCheck (beWords f 32)

end Sys2Proof.Machine
end

