-- ==== Sys2Proof/Machine/Crypto.lean ====
section
/-!
DEFINITION. The published functions that the manual names: ChaCha20 blocks (RFC 8439),
SHA-256, HMAC-SHA-256 and SipHash-2-4, with the job-key streams of R304 and R305.

The manual names these functions and does not restate them; they are written here from
their published definitions (assumption 3).
-/

namespace Sys2Proof.Machine

/-- Addition of 32-bit words. -/
def add32 (x y : Nat) : Nat := (x + y) % 2 ^ 32

/-- Rotation of a 32-bit word to the left. -/
def rotl32 (x n : Nat) : Nat := (x * 2 ^ n % 2 ^ 32) ||| (x / 2 ^ (32 - n))

/-- Rotation of a 32-bit word to the right. -/
def rotr32 (x n : Nat) : Nat := rotl32 x (32 - n)

/-! ### ChaCha20 (RFC 8439) -/

/-- The quarter round on words a, b, c, d. -/
def quarter (a b c d : Nat) : Nat × Nat × Nat × Nat :=
  let a := add32 a b; let d := rotl32 (d ^^^ a) 16
  let c := add32 c d; let b := rotl32 (b ^^^ c) 12
  let a := add32 a b; let d := rotl32 (d ^^^ a) 8
  let c := add32 c d; let b := rotl32 (b ^^^ c) 7
  (a, b, c, d)

/-- The quarter round on four places of the state. -/
def quarterAt (st : List Nat) (i j k l : Nat) : List Nat :=
  let (a, b, c, d) := quarter (st.getD i 0) (st.getD j 0) (st.getD k 0) (st.getD l 0)
  (((st.set i a).set j b).set k c).set l d

/-- One double round. -/
def doubleRound (s : List Nat) : List Nat :=
  let s := quarterAt s 0 4 8 12
  let s := quarterAt s 1 5 9 13
  let s := quarterAt s 2 6 10 14
  let s := quarterAt s 3 7 11 15
  let s := quarterAt s 0 5 10 15
  let s := quarterAt s 1 6 11 12
  let s := quarterAt s 2 7 8 13
  quarterAt s 3 4 9 14

/-- n double rounds. -/
def rounds : Nat → List Nat → List Nat
  | 0, s => s
  | n + 1, s => rounds n (doubleRound s)

/-- The bytes as 32-bit words, least significant byte first. -/
def leWords4 (b : Bytes) : List Nat := (chunks 4 b.length b).map leNat

/-- The 64-byte ChaCha20 block of a 32-byte key, a 32-bit counter and a 12-byte nonce. -/
def chachaBlock (key : Bytes) (ctr : Nat) (nonce : Bytes) : Bytes :=
  let st := [0x61707865, 0x3320646e, 0x79622d32, 0x6b206574] ++ leWords4 (slice key 0 32) ++
    [ctr % 2 ^ 32] ++ leWords4 (slice nonce 0 12)
  let w := rounds 10 st
  ((List.range 16).map (fun i => le 4 (add32 (w.getD i 0) (st.getD i 0)))).flatten

/-- R304 block(σ, c, u) under the job key. -/
def streamBlock (key : Bytes) (sigma c u : Nat) : Bytes :=
  chachaBlock key c (le 8 u ++ le 4 sigma)

/-- R80: the seed of a context at a step. -/
def seedOf (key : Bytes) (step ctx : Nat) : Bytes :=
  slice (streamBlock key 0 (ctx / 4) step) (16 * (ctx % 4)) 16

/-- Table 14-1 stream 1: the rounding key of output kind κ of a tensor at a step. -/
def roundingKey (key : Bytes) (tid kappa step : Nat) : Bytes :=
  slice (streamBlock key 1 (4 * tid + kappa) step) 0 32

/-- R53: the random word r of element i under a rounding key. -/
def randomWord (rk : Bytes) (i : Nat) : Nat :=
  leNat (slice (chachaBlock rk (i / 16) (zeros 12)) (4 * (i % 16)) 4)

/-- R305: the first usable word of stream 2, by its position; no value is chosen for a key none of whose words looked at is usable. -/
def watermarkKeyAux (key : Bytes) : Nat → Nat → Nat
  | 0, i => Config.freeValue i
  | fuel + 1, i =>
    let v := leNat (slice (streamBlock key 2 (i / 8) 0) (8 * (i % 8)) 8) % 2 ^ 61
    if 2 ≤ v ∧ v ≤ p61 - 2 then v else watermarkKeyAux key fuel (i + 1)

/-- R305: the watermark key r. -/
def watermarkKey (key : Bytes) : Nat := watermarkKeyAux key 64 0

/-- R305: the key check 0x6000.02. -/
def keyCheck (key : Bytes) : Nat := leNat (slice (streamBlock key 3 0 0) 0 8)

/-! ### SHA-256 and HMAC -/

/-- Word i of n 32-bit words packed in a number, the first uppermost. -/
def packed (n x i : Nat) : Nat := x / 2 ^ (32 * (n - 1 - i)) % 2 ^ 32

/-- The round constants of SHA-256, packed: of each of the first 64 primes, the first 32 bits of the fractional part of its cube root. -/
def shaK : Nat := [
  0x428a2f9871374491b5c0fbcfe9b5dba53956c25b59f111f1923f82a4ab1c5ed5,
  0xd807aa9812835b01243185be550c7dc372be5d7480deb1fe9bdc06a7c19bf174,
  0xe49b69c1efbe47860fc19dc6240ca1cc2de92c6f4a7484aa5cb0a9dc76f988da,
  0x983e5152a831c66db00327c8bf597fc7c6e00bf3d5a7914706ca635114292967,
  0x27b70a852e1b21384d2c6dfc53380d13650a7354766a0abb81c2c92e92722c85,
  0xa2bfe8a1a81a664bc24b8b70c76c51a3d192e819d6990624f40e3585106aa070,
  0x19a4c1161e376c082748774c34b0bcb5391c0cb34ed8aa4a5b9cca4f682e6ff3,
  0x748f82ee78a5636f84c878148cc7020890befffaa4506cebbef9a3f7c67178f2].foldl (fun a x => a * 2 ^ 256 + x) 0

/-- The initial hash value, packed: of each of the first 8 primes, the first 32 bits of the fractional part of its square root. -/
def shaInit : Nat := 0x6a09e667bb67ae853c6ef372a54ff53a510e527f9b05688c1f83d9ab5be0cd19

/-- The initial hash value as words. -/
def shaH : List Nat := (List.range 8).map (packed 8 shaInit)

/-- The last sixteen schedule words, newest first, moved on by one. -/
def shaNext (w : List Nat) : Nat :=
  let s1 := w.getD 1 0
  let s0 := w.getD 14 0
  add32 (add32 (rotr32 s1 17 ^^^ rotr32 s1 19 ^^^ (s1 / 2 ^ 10)) (w.getD 6 0))
    (add32 (rotr32 s0 7 ^^^ rotr32 s0 18 ^^^ (s0 / 2 ^ 3)) (w.getD 15 0))

/-- One round with schedule word wt and constant kt. -/
def shaRound (h : List Nat) (kt wt : Nat) : List Nat :=
  let a := h.getD 0 0; let b := h.getD 1 0; let c := h.getD 2 0
  let e := h.getD 4 0; let f := h.getD 5 0; let g := h.getD 6 0
  let s1 := rotr32 e 6 ^^^ rotr32 e 11 ^^^ rotr32 e 25
  let ch := (e &&& f) ^^^ ((2 ^ 32 - 1 - e) &&& g)
  let t1 := (h.getD 7 0 + s1 + ch + kt + wt) % 2 ^ 32
  let s0 := rotr32 a 2 ^^^ rotr32 a 13 ^^^ rotr32 a 22
  let maj := (a &&& b) ^^^ (a &&& c) ^^^ (b &&& c)
  [add32 t1 (s0 + maj), a, b, c, add32 (h.getD 3 0) t1, e, f, g]

/-- The last n rounds of one block: the words of the block not yet used, and the words used, newest first. -/
def shaRounds : Nat → List Nat → List Nat → List Nat → List Nat
  | 0, _, _, h => h
  | n + 1, ws, old, h =>
    let w := ws.headD (shaNext old)
    shaRounds n ws.tail ((w :: old).take 16) (shaRound h (packed 64 shaK (63 - n)) w)

/-- One 64-byte block. -/
def shaBlock (h : List Nat) (blk : Bytes) : List Nat :=
  let ws := (chunks 4 16 blk).map beNat
  let h' := shaRounds 64 ws [] h
  (List.range 8).map (fun i => add32 (h.getD i 0) (h'.getD i 0))

/-- SHA-256. -/
def sha256 (m : Bytes) : Bytes :=
  let n := m.length
  let padded := m ++ [0x80] ++ zeros ((119 - n % 64) % 64) ++ be 8 (8 * n)
  let h := (chunks 64 (padded.length + 1) padded).foldl shaBlock shaH
  (h.map (be 4)).flatten

/-- HMAC-SHA-256. -/
def hmac (key msg : Bytes) : Bytes :=
  let k := if key.length > 64 then sha256 key else key
  let k := k ++ zeros (64 - k.length)
  let x (v : Byte) := k.map (fun b => b ^^^ v)
  sha256 (x 0x5c ++ sha256 (x 0x36 ++ msg))

/-! ### SipHash-2-4 (R264) -/

/-- Addition of 64-bit words. -/
def add64 (x y : Nat) : Nat := (x + y) % 2 ^ 64

/-- Rotation of a 64-bit word to the left. -/
def rotl64 (x n : Nat) : Nat := (x * 2 ^ n % 2 ^ 64) ||| (x / 2 ^ (64 - n))

/-- One SipRound. -/
def sipRound : Nat × Nat × Nat × Nat → Nat × Nat × Nat × Nat := fun (v0, v1, v2, v3) =>
  let v0 := add64 v0 v1; let v1 := rotl64 v1 13 ^^^ v0; let v0 := rotl64 v0 32
  let v2 := add64 v2 v3; let v3 := rotl64 v3 16 ^^^ v2
  let v0 := add64 v0 v3; let v3 := rotl64 v3 21 ^^^ v0
  let v2 := add64 v2 v1; let v1 := rotl64 v1 17 ^^^ v2; let v2 := rotl64 v2 32
  (v0, v1, v2, v3)

/-- SipHash-2-4 of one 8-byte word (given as its little-endian value) under a 128-bit key. -/
def siphash24 (key m : Nat) : Nat :=
  let k0 := key % 2 ^ 64
  let k1 := key / 2 ^ 64 % 2 ^ 64
  let mix (v : Nat × Nat × Nat × Nat) (w : Nat) :=
    let v := (v.1, v.2.1, v.2.2.1, v.2.2.2 ^^^ w)
    let v := sipRound (sipRound v)
    (v.1 ^^^ w, v.2.1, v.2.2.1, v.2.2.2)
  let v := (k0 ^^^ 0x736f6d6570736575, k1 ^^^ 0x646f72616e646f6d,
    k0 ^^^ 0x6c7967656e657261, k1 ^^^ 0x7465646279746573)
  let v := mix (mix v (m % 2 ^ 64)) (8 * 2 ^ 56)
  let v := (v.1, v.2.1, v.2.2.1 ^^^ 0xff, v.2.2.2)
  let v := sipRound (sipRound (sipRound (sipRound v)))
  v.1 ^^^ v.2.1 ^^^ v.2.2.1 ^^^ v.2.2.2

end Sys2Proof.Machine
end

