-- ==== Sys2Proof/Machine/Catalog.lean ====
section
/-!
DEFINITION. The object catalogue: every object of the dictionary with its type, access right, owning
function, default, size, range and alignment, as the object tables of the chapters give them.

A key is 256 × index + subindex, so object 0x3180.01 has the key 0x3180_01.
-/

namespace Sys2Proof.Machine

/-- Table 15-1: the types of objects (RECORD is subindex 0 of each index and has no row here). -/
inductive Ty where
  | bool | u8 | u16 | u32 | u64 | i32 | i64 | p61 | time64 | str | octets
deriving DecidableEq, Repr

/-- The type code of Table 15-1. -/
def Ty.code : Ty → Nat
  | .bool => 1 | .u8 => 2 | .u16 => 3 | .u32 => 4 | .u64 => 5 | .i32 => 6 | .i64 => 7
  | .p61 => 8 | .time64 => 9 | .str => 10 | .octets => 11

/-- Table 15-2: access rights. -/
inductive Acc where
  | const | ro | rw | wo | rws
deriving DecidableEq, Repr

/-- The access code of Table 15-2. -/
def Acc.code : Acc → Nat
  | .const => 0 | .ro => 1 | .rw => 2 | .wo => 3 | .rws => 4

/-- One row of an object table. `owner` is 0 for none, the function code of Table 16-3, or 7 for
"each function" (R325). `dflt` is the scalar default. `lo` and `hi` are the stated range, as the unsigned pattern of the value;
`align` divides every accepted value. -/
structure Obj where
  key : Nat
  ty : Ty
  acc : Acc
  owner : Nat
  dflt : Nat
  size : Nat
  lo : Nat
  hi : Nat
  align : Nat
deriving DecidableEq, Repr

/-- The objects of R32, Table 1-10. -/
def catSlices : List Obj := [
  ⟨0x3180_01, .u32, .rws, 1, 1000000, 4, 100000, 100000000, 1⟩,  -- Epoch period
  ⟨0x3180_02, .time64, .rws, 1, 0, 8, 0, 18446744073709551615, 1⟩,  -- Epoch origin
  ⟨0x3180_03, .u64, .ro, 0, 0, 8, 0, 18446744073709551615, 1⟩,  -- Current epoch
  ⟨0x3180_04, .u8, .ro, 0, 0, 1, 0, 255, 1⟩,  -- Timebase status
  ⟨0x3180_05, .u32, .rw, 0, 2000, 4, 0, 10000, 1⟩,  -- Holdover limit
  ⟨0x3181_01, .u64, .ro, 0, 0, 8, 0, 18446744073709551615, 1⟩,  -- Step counter
  ⟨0x3181_02, .u64, .ro, 0, 0, 8, 0, 18446744073709551615, 1⟩,  -- Step done
  ⟨0x3181_03, .u64, .ro, 0, 0, 8, 0, 18446744073709551615, 1⟩,  -- Boundary epoch
  ⟨0x3181_04, .bool, .ro, 0, 0, 1, 0, 1, 1⟩]  -- Pass paced

/-- The objects of R57. -/
def catFormats : List Obj := [
  ⟨0x2000_01, .u32, .const, 0, 7999, 4, 0, 4294967295, 1⟩,  -- Supported formats
  ⟨0x2000_02, .u8, .rws, 1, 48, 1, 0, 60, 1⟩,  -- Default binary point
  ⟨0x2000_03, .u8, .rws, 1, 0, 1, 0, 1, 1⟩,  -- Default working-copy rounding
  ⟨0x2001_01, .u32, .ro, 0, 0, 4, 0, 4294967295, 1⟩,  -- Conversion-table version
  ⟨0x2001_02, .octets, .ro, 0, 0, 32, 0, 0, 1⟩,  -- Conversion-table digest
  ⟨0x2001_03, .u8, .ro, 0, 0, 1, 0, 255, 1⟩,  -- Conversion-table status
  ⟨0x2010_01, .octets, .ro, 0, 0, 8192, 0, 0, 1⟩,  -- T16
  ⟨0x2011_01, .octets, .ro, 0, 0, 8192, 0, 0, 1⟩,  -- V16
  ⟨0x2012_01, .octets, .ro, 0, 0, 128, 0, 0, 1⟩,  -- T8 and V8
  ⟨0x2013_01, .octets, .ro, 0, 0, 4096, 0, 0, 1⟩,  -- B
  ⟨0x2014_01, .octets, .ro, 0, 0, 4096, 0, 0, 1⟩,  -- VA
  ⟨0x2015_01, .octets, .ro, 0, 0, 16, 0, 0, 1⟩]  -- Zero thresholds

/-- The objects of R82. DESIGN CHOICE: the mould version 0x2100.01, for which Table 3-10 names no owning function, belongs to coding, as
0x2101 to 0x2106 do (R58). -/
def catMoulds : List Obj := [
  ⟨0x2100_01, .u32, .rws, 1, 0, 4, 0, 4294967295, 1⟩,  -- Mould version
  ⟨0x2100_02, .u8, .ro, 0, 0, 1, 0, 255, 1⟩,  -- Mould status
  ⟨0x2100_03, .u16, .ro, 0, 0, 2, 0, 65535, 1⟩,  -- Descriptors in use
  ⟨0x2100_04, .u16, .ro, 0, 0, 2, 0, 65535, 1⟩,  -- Operations
  ⟨0x2100_05, .u16, .ro, 0, 0, 2, 0, 65535, 1⟩,  -- Refusal reason
  ⟨0x2100_06, .octets, .ro, 0, 0, 32, 0, 0, 1⟩,  -- Mould digest
  ⟨0x2100_07, .u8, .wo, 1, 0, 1, 1, 1, 1⟩,  -- Load
  ⟨0x2101_01, .octets, .rws, 1, 0, 256, 0, 0, 1⟩,  -- Hyperparameter sets
  ⟨0x2102_01, .octets, .rws, 1, 0, 16384, 0, 0, 1⟩,  -- Schedules
  ⟨0x2103_01, .octets, .rws, 1, 0, 256, 0, 0, 1⟩,  -- List slots
  ⟨0x2104_01, .octets, .rws, 1, 0, 262144, 0, 0, 1⟩,  -- Descriptors
  ⟨0x2105_01, .octets, .rws, 1, 0, 32768, 0, 0, 1⟩,  -- Operation list
  ⟨0x2106_01, .u64, .rws, 1, 0, 8, 0, 18446744073709551615, 256⟩,  -- Seed table base A
  ⟨0x2106_02, .u64, .rws, 1, 0, 8, 0, 18446744073709551615, 256⟩,  -- Seed table base B
  ⟨0x2106_03, .u32, .rws, 1, 1048576, 4, 16, 1048576, 16⟩,  -- Seed contexts
  ⟨0x2106_04, .u64, .rws, 1, 0, 8, 0, 18446744073709551615, 256⟩,  -- Completion base
  ⟨0x2107_01, .octets, .wo, 1, 0, 16, 0, 0, 1⟩,  -- Import request
  ⟨0x2107_02, .u8, .ro, 0, 0, 1, 0, 255, 1⟩]  -- Import status

/-- The objects of R95. -/
def catArrays : List Obj := [
  ⟨0x2200_01, .u8, .const, 0, 2, 1, 0, 255, 1⟩,  -- Arrays per slice
  ⟨0x2200_02, .u8, .const, 0, 32, 1, 0, 255, 1⟩,  -- Array size
  ⟨0x2200_03, .u8, .const, 0, 32, 1, 0, 255, 1⟩,  -- Ramp cycles
  ⟨0x2200_04, .u16, .rw, 0, 64, 2, 0, 1024, 1⟩,  -- Hold cycles
  ⟨0x2200_05, .u64, .ro, 0, 0, 8, 0, 18446744073709551615, 1⟩,  -- Arrays in service
  ⟨0x2200_06, .u32, .const, 0, 131071, 4, 0, 4294967295, 1⟩,  -- MAC length limit
  ⟨0x2201_01, .octets, .ro, 0, 0, 16, 0, 0, 1⟩]  -- Last MAC job word

/-- The objects of R120. -/
def catCodes : List Obj := [
  ⟨0x3000_01, .u8, .rws, 1, 9, 1, 1, 30, 1⟩,  -- Data members k
  ⟨0x3000_02, .u8, .rws, 1, 3, 1, 1, 3, 1⟩,  -- Parity members m
  ⟨0x3000_03, .u8, .ro, 0, 0, 1, 0, 255, 1⟩,  -- Domain size N
  ⟨0x3000_04, .u8, .ro, 0, 0, 1, 0, 255, 1⟩,  -- Stride d
  ⟨0x3000_05, .u8, .ro, 0, 0, 1, 0, 255, 1⟩,  -- Placement status
  ⟨0x3000_06, .u8, .ro, 0, 0, 1, 0, 255, 1⟩,  -- Refusal reason
  ⟨0x3000_07, .u8, .ro, 0, 0, 1, 0, 255, 1⟩,  -- Unit tolerance
  ⟨0x3000_08, .u8, .ro, 0, 0, 1, 0, 255, 1⟩,  -- Exposure
  ⟨0x3000_09, .octets, .ro, 0, 0, 32, 0, 0, 1⟩,  -- Placement digest
  ⟨0x3000_0A, .u32, .ro, 0, 0, 4, 0, 4294967295, 1⟩,  -- Placement halter number
  ⟨0x3000_0B, .u64, .ro, 0, 0, 8, 0, 18446744073709551615, 1⟩,  -- Fill lines outstanding
  ⟨0x3001_01, .octets, .rws, 1, 0, 768, 0, 0, 1⟩,  -- Failure-domain table
  ⟨0x3001_02, .u8, .rws, 1, 0, 1, 0, 255, 1⟩,  -- Domain override
  ⟨0x3001_03, .octets, .ro, 0, 0, 32, 0, 0, 1⟩,  -- Domain table digest
  ⟨0x3002_01, .u64, .rws, 1, 0, 8, 0, 18446744073709551615, 256⟩,  -- Felt base
  ⟨0x3002_02, .u64, .rws, 1, 0, 8, 0, 18446744073709551615, 1⟩,  -- Felt size
  ⟨0x3002_03, .u64, .ro, 0, 0, 8, 0, 18446744073709551615, 1⟩,  -- Felt required
  ⟨0x3002_04, .u32, .ro, 0, 0, 4, 0, 4294967295, 1⟩,  -- Band length, space W
  ⟨0x3002_05, .u32, .ro, 0, 0, 4, 0, 4294967295, 1⟩,  -- Band length, space N
  ⟨0x3002_06, .u32, .ro, 0, 0, 4, 0, 4294967295, 1⟩,  -- Own line count, space W
  ⟨0x3002_07, .u32, .ro, 0, 0, 4, 0, 4294967295, 1⟩,  -- Own line count, space N
  ⟨0x3003_01, .octets, .ro, 0, 0, 4224, 0, 0, 1⟩,  -- Placement table
  ⟨0x3003_02, .octets, .ro, 0, 0, 66, 0, 0, 1⟩]  -- Own roles

/-- The objects of R145. -/
def catCouching : List Obj := [
  ⟨0x3100_01, .u8, .rws, 1, 1, 1, 1, 64, 1⟩,  -- Deckle G
  ⟨0x3100_02, .u8, .rws, 1, 75, 1, 10, 100, 1⟩,  -- Couch share
  ⟨0x3100_03, .u64, .ro, 0, 0, 8, 0, 18446744073709551615, 1⟩,  -- Couch budget
  ⟨0x3100_04, .u16, .rws, 1, 8952, 2, 1024, 8952, 1⟩,  -- Frame limit
  ⟨0x3100_05, .u32, .rw, 0, 100000, 4, 10000, 10000000, 1⟩,  -- Retransmit timeout
  ⟨0x3100_06, .u64, .ro, 0, 712800000, 8, 0, 18446744073709551615, 1⟩,  -- Outstanding limit
  ⟨0x3100_07, .u64, .ro, 0, 0, 8, 0, 18446744073709551615, 1⟩,  -- Outstanding payload
  ⟨0x3100_08, .u64, .ro, 0, 0, 8, 0, 18446744073709551615, 1⟩,  -- Own couched epoch
  ⟨0x3100_09, .u32, .rws, 1, 65536, 4, 4096, 2097152, 1⟩,  -- Delta reserve
  ⟨0x3100_0A, .u32, .rws, 1, 131072, 4, 4096, 2097152, 1⟩,  -- Vat reserve
  ⟨0x3100_0B, .u8, .rw, 0, 26, 1, 0, 63, 1⟩,  -- DSCP
  ⟨0x3100_0C, .u8, .rw, 0, 5, 1, 0, 7, 1⟩,  -- Priority
  ⟨0x3100_0D, .u32, .rw, 0, 2000000, 4, 200000, 100000000, 1⟩,  -- Holder silence limit
  ⟨0x3101_01, .u64, .ro, 0, 0, 8, 0, 18446744073709551615, 1⟩,  -- Committed step
  ⟨0x3101_02, .u64, .ro, 0, 0, 8, 0, 18446744073709551615, 1⟩,  -- Sealed epoch
  ⟨0x3101_03, .u64, .ro, 0, 0, 8, 0, 18446744073709551615, 1⟩,  -- Open window
  ⟨0x3101_04, .u64, .ro, 0, 0, 8, 0, 18446744073709551615, 1⟩,  -- Epoch step
  ⟨0x3101_05, .u8, .ro, 0, 0, 1, 0, 255, 1⟩,  -- Couch state
  ⟨0x3101_06, .u8, .ro, 0, 1, 1, 0, 255, 1⟩]  -- Lost-step bound

/-- The objects of R176. -/
def catMembershipA : List Obj := [
  ⟨0x3200_01, .u32, .ro, 0, 0, 4, 0, 4294967295, 1⟩,  -- Halter number
  ⟨0x3200_02, .u8, .ro, 0, 0, 1, 0, 255, 1⟩,  -- Membership status
  ⟨0x3200_03, .u16, .ro, 0, 65535, 2, 0, 65535, 1⟩,  -- Lead
  ⟨0x3200_04, .octets, .ro, 0, 0, 128, 0, 0, 1⟩,  -- Member list
  ⟨0x3200_05, .u32, .rw, 0, 1000000, 4, 200000, 100000000, 1⟩,  -- Silence limit
  ⟨0x3200_06, .u32, .rw, 0, 2000000, 4, 100000, 100000000, 1⟩,  -- Twin wait
  ⟨0x3200_07, .u32, .rw, 0, 50000000, 4, 1000000, 1000000000, 1⟩,  -- Hold limit
  ⟨0x3200_08, .u32, .rw, 0, 500000, 4, 100000, 10000000, 1⟩,  -- Accept timeout
  ⟨0x3200_09, .u64, .rws, 1, 0, 8, 0, 18446744073709551615, 1⟩,  -- Job id
  ⟨0x3200_0A, .u64, .rws, 1, 0, 8, 0, 18446744073709551615, 1⟩,  -- Start step
  ⟨0x3200_0B, .u8, .rws, 1, 0, 1, 1, 64, 1⟩,  -- Initial members
  ⟨0x3200_0C, .u8, .wo, 0, 0, 1, 1, 1, 1⟩,  -- Join
  ⟨0x3200_0D, .u64, .ro, 0, 0, 8, 0, 18446744073709551615, 1⟩,  -- Committed step at last cut
  ⟨0x3200_0E, .u64, .ro, 0, 0, 8, 0, 18446744073709551615, 1⟩,  -- Steps lost at last cut
  ⟨0x3201_01, .u64, .rws, 1, 0, 8, 0, 18446744073709551615, 4096⟩,  -- Elastic reserve base
  ⟨0x3201_02, .u64, .rws, 1, 0, 8, 0, 18446744073709551615, 1⟩,  -- Elastic reserve size
  ⟨0x3201_03, .u64, .rws, 1, 0, 8, 0, 18446744073709551615, 256⟩,  -- Felt spare base
  ⟨0x3201_04, .u64, .rws, 1, 0, 8, 0, 18446744073709551615, 1⟩,  -- Felt spare size
  ⟨0x3201_05, .u8, .ro, 0, 0, 1, 0, 255, 1⟩,  -- Active felt area
  ⟨0x3201_06, .u64, .ro, 0, 0, 8, 0, 18446744073709551615, 1⟩,  -- Reserve used
  ⟨0x3202_01, .octets, .ro, 0, 0, 16384, 0, 0, 1⟩,  -- Adopted pieces
  ⟨0x3202_02, .u8, .ro, 0, 0, 1, 0, 255, 1⟩,  -- Placement kind
  ⟨0x3202_03, .u64, .ro, 0, 0, 8, 0, 18446744073709551615, 1⟩,  -- Re-striping lines outstanding
  ⟨0x3202_04, .u8, .rw, 0, 10, 1, 1, 50, 1⟩]  -- Re-striping share

/-- The objects of R176. -/
def catMembershipB : List Obj := [
  ⟨0x3203_01, .u32, .rws, 1, 262144, 4, 4096, 2097152, 1⟩,  -- Delta-log reserve
  ⟨0x3203_02, .u8, .rws, 1, 0, 1, 0, 8, 1⟩,  -- Windows retained
  ⟨0x3203_03, .u64, .ro, 0, 0, 8, 0, 18446744073709551615, 1⟩,  -- Journal head
  ⟨0x3203_04, .u64, .ro, 0, 0, 8, 0, 18446744073709551615, 1⟩,  -- Journal tail
  ⟨0x3203_05, .octets, .ro, 0, 0, 65536, 0, 0, 1⟩,  -- Undone extents
  ⟨0x3203_06, .u8, .ro, 0, 0, 1, 0, 255, 1⟩]  -- Mirror status

/-- The objects of R195. -/
def catTiersA : List Obj := [
  ⟨0x3300_01, .u64, .rws, 2, 0, 8, 0, 18446744073709551615, 1⟩,  -- Flash base
  ⟨0x3300_02, .u64, .rws, 2, 0, 8, 0, 18446744073709551615, 1⟩,  -- Flash blocks
  ⟨0x3300_03, .u8, .rws, 2, 3, 1, 2, 8, 1⟩,  -- Image slots
  ⟨0x3300_04, .octets, .ro, 0, 0, 128, 0, 0, 1⟩,  -- Slot status
  ⟨0x3300_05, .u32, .rws, 2, 262144, 4, 4096, 4194304, 1⟩,  -- Copy-on-write reserve
  ⟨0x3300_06, .u32, .rw, 0, 500000, 4, 10000, 10000000, 1⟩,  -- Copy-on-write hold limit
  ⟨0x3300_07, .u8, .ro, 0, 0, 1, 0, 255, 1⟩,  -- Snapshot state
  ⟨0x3300_08, .u64, .ro, 0, 0, 8, 0, 18446744073709551615, 1⟩,  -- Last complete step
  ⟨0x3301_01, .u8, .rw, 0, 4, 1, 0, 255, 1⟩,  -- Trigger mode
  ⟨0x3301_02, .u32, .rw, 0, 300, 4, 60, 86400, 1⟩,  -- Timer interval
  ⟨0x3301_03, .u32, .rw, 0, 1000, 4, 1, 1000000, 1⟩,  -- Step interval
  ⟨0x3301_04, .u8, .wo, 0, 0, 1, 1, 1, 1⟩,  -- Snapshot now
  ⟨0x3301_05, .u32, .ro, 0, 300, 4, 0, 4294967295, 1⟩,  -- Adaptive interval
  ⟨0x3301_06, .u32, .rw, 0, 0, 4, 0, 4294967295, 1⟩,  -- Failure prior M
  ⟨0x3301_07, .u64, .ro, 0, 0, 8, 0, 18446744073709551615, 1⟩,  -- Service time
  ⟨0x3301_08, .u32, .ro, 0, 0, 4, 0, 4294967295, 1⟩,  -- Beyond-tolerance count
  ⟨0x3301_09, .u32, .ro, 0, 0, 4, 0, 4294967295, 1⟩,  -- Measured cost
  ⟨0x3303_01, .u8, .rw, 0, 0, 1, 0, 255, 1⟩,  -- Export every
  ⟨0x3303_02, .u64, .rws, 2, 0, 8, 0, 18446744073709551615, 1⟩,  -- Export base
  ⟨0x3303_03, .u64, .rws, 2, 0, 8, 0, 18446744073709551615, 1⟩,  -- Export blocks
  ⟨0x3303_04, .octets, .ro, 0, 0, 32, 0, 0, 1⟩,  -- Export slot status
  ⟨0x3303_05, .octets, .rws, 2, 0, 32768, 0, 0, 1⟩,  -- Export map
  ⟨0x3303_06, .octets, .rw, 0, 0, 1024, 0, 0, 1⟩,  -- Evaluation tensors
  ⟨0x3303_07, .octets, .rw, 0, 0, 32, 0, 0, 1⟩]  -- Input manifest digest

/-- The objects of R195. -/
def catTiersB : List Obj := [
  ⟨0x3303_08, .u8, .wo, 0, 0, 1, 1, 1, 1⟩,  -- Evaluation export now
  ⟨0x3303_09, .u64, .rws, 2, 0, 8, 0, 18446744073709551615, 1⟩,  -- Import base
  ⟨0x3303_0A, .u64, .rws, 2, 0, 8, 0, 18446744073709551615, 1⟩,  -- Import blocks
  ⟨0x3304_01, .u8, .wo, 1, 0, 1, 1, 1, 1⟩,  -- Restore request
  ⟨0x3304_02, .u8, .ro, 0, 0, 1, 0, 255, 1⟩,  -- Restore status
  ⟨0x3304_03, .u64, .ro, 0, 0, 8, 0, 18446744073709551615, 1⟩,  -- Restored step
  ⟨0x3304_04, .u8, .ro, 0, 0, 1, 0, 255, 1⟩,  -- Restore outcome
  ⟨0x3304_05, .u8, .ro, 0, 0, 1, 0, 255, 1⟩,  -- Restore refusal
  ⟨0x3304_06, .octets, .rw, 0, 0, 256, 0, 0, 1⟩]  -- Shard assignment

/-- The objects of R223. -/
def catReduction : List Obj := [
  ⟨0x4000_01, .u8, .ro, 0, 0, 1, 0, 255, 1⟩,  -- Streams in use
  ⟨0x4000_02, .u32, .rw, 0, 200000, 4, 10000, 10000000, 1⟩,  -- Result timeout
  ⟨0x4000_03, .u8, .rw, 0, 2, 1, 0, 6, 1⟩,  -- Switch-mode attempts
  ⟨0x4000_04, .u32, .rw, 0, 20000, 4, 0, 1000000, 1⟩,  -- Taint horizon
  ⟨0x4000_05, .u8, .rw, 0, 25, 1, 5, 100, 1⟩,  -- Reduction share
  ⟨0x4000_06, .u8, .rw, 0, 34, 1, 0, 63, 1⟩,  -- DSCP
  ⟨0x4000_07, .u8, .rw, 0, 4, 1, 0, 7, 1⟩,  -- Priority
  ⟨0x4000_08, .u16, .rw, 0, 256, 2, 16, 4096, 1⟩,  -- Chunks unresolved
  ⟨0x4000_09, .u32, .rws, 3, 16384, 4, 1024, 1048576, 1⟩,  -- Member-mode reserve
  ⟨0x4000_0A, .u8, .ro, 0, 0, 1, 0, 255, 1⟩,  -- Determinism status
  ⟨0x4000_0B, .u64, .ro, 0, 0, 8, 0, 18446744073709551615, 1⟩,  -- Last mismatch step
  ⟨0x4000_0C, .u16, .ro, 0, 0, 2, 0, 65535, 1⟩,  -- Stream refusal
  ⟨0x4001_01, .octets, .rws, 3, 0, 8192, 0, 0, 1⟩,  -- Stream table
  ⟨0x4002_01, .octets, .ro, 0, 0, 8192, 0, 0, 1⟩,  -- Intake exponents
  ⟨0x4002_02, .octets, .ro, 0, 0, 8192, 0, 0, 1⟩,  -- Reduced peaks
  ⟨0x4003_01, .octets, .rw, 0, 0, 1024, 0, 0, 1⟩]  -- Declared scope

/-- The objects of R239. -/
def catRouting : List Obj := [
  ⟨0x4100_01, .u8, .ro, 0, 0, 1, 0, 255, 1⟩,  -- Layers in use
  ⟨0x4100_02, .u32, .rw, 0, 500000, 4, 10000, 100000000, 1⟩,  -- Combine timeout
  ⟨0x4100_03, .u16, .rw, 0, 4096, 2, 1, 4096, 1⟩,  -- Touch bound
  ⟨0x4100_04, .u16, .ro, 0, 0, 2, 0, 65535, 1⟩,  -- Layer refusal
  ⟨0x4101_01, .octets, .rws, 5, 0, 8192, 0, 0, 1⟩,  -- Layer table
  ⟨0x4102_01, .octets, .rw, 0, 0, 1152, 0, 0, 1⟩,  -- Routing groups
  ⟨0x4103_01, .octets, .ro, 0, 0, 8192, 0, 0, 1⟩]  -- Touched experts

/-- The objects of R257. -/
def catExchangeA : List Obj := [
  ⟨0x4200_01, .u16, .rws, 6, 0, 2, 0, 65534, 1⟩,  -- Site id
  ⟨0x4200_02, .u16, .rws, 6, 100, 2, 10, 1000, 1⟩,  -- Round length H
  ⟨0x4200_03, .u8, .rws, 6, 32, 1, 1, 64, 1⟩,  -- Rank r
  ⟨0x4200_04, .u8, .rws, 6, 4, 1, 0, 15, 1⟩,  -- Remainder coarseness qR
  ⟨0x4200_05, .u32, .rws, 6, 65536, 4, 1, 131072, 1⟩,  -- Outer rate
  ⟨0x4200_06, .u8, .rws, 6, 1, 1, 0, 2, 1⟩,  -- Lateness limit
  ⟨0x4200_07, .u8, .rws, 6, 12, 1, 1, 30, 1⟩,  -- Data packets k_l
  ⟨0x4200_08, .u8, .rws, 6, 2, 1, 0, 3, 1⟩,  -- Parity packets m_l
  ⟨0x4200_09, .u16, .rws, 6, 1400, 2, 576, 8952, 1⟩,  -- Long-haul frame limit
  ⟨0x4200_0A, .u32, .rw, 0, 5000, 4, 10, 600000, 1⟩,  -- Round deadline
  ⟨0x4200_0B, .u32, .rw, 0, 60000, 4, 100, 3600000, 1⟩,  -- Manifest wait
  ⟨0x4200_0C, .u32, .rw, 0, 50, 4, 1, 10000, 1⟩,  -- Repair wait
  ⟨0x4200_0D, .u8, .rw, 0, 10, 1, 1, 50, 1⟩,  -- Exchange share
  ⟨0x4200_0E, .u8, .rw, 0, 10, 1, 0, 63, 1⟩,  -- DSCP
  ⟨0x4200_0F, .u8, .rw, 0, 2, 1, 0, 7, 1⟩,  -- Priority
  ⟨0x4200_10, .u32, .rws, 6, 262144, 4, 4096, 4194304, 1⟩,  -- Exchange reserve
  ⟨0x4200_11, .u8, .rws, 6, 4, 1, 2, 8, 1⟩,  -- Rounds retained
  ⟨0x4200_12, .u8, .wo, 0, 0, 1, 1, 1, 1⟩,  -- Join
  ⟨0x4200_13, .u32, .ro, 0, 0, 4, 0, 4294967295, 1⟩,  -- Current round
  ⟨0x4200_14, .u8, .ro, 0, 0, 1, 0, 255, 1⟩,  -- Exchange state
  ⟨0x4200_15, .u32, .ro, 0, 0, 4, 0, 4294967295, 1⟩,  -- Joined from round
  ⟨0x4200_16, .u16, .ro, 0, 0, 2, 0, 65535, 1⟩,  -- Refusal
  ⟨0x4201_01, .octets, .rws, 6, 0, 8192, 0, 0, 1⟩,  -- Exchange table
  ⟨0x4201_02, .octets, .rws, 6, 0, 640, 0, 0, 1⟩]  -- Site table

/-- The objects of R257. -/
def catExchangeB : List Obj := [
  ⟨0x4202_01, .octets, .ro, 0, 0, 65536, 0, 0, 1⟩,  -- Manifest log
  ⟨0x4202_02, .octets, .ro, 0, 0, 32, 0, 0, 1⟩,  -- Last manifest digest
  ⟨0x4202_03, .octets, .ro, 0, 0, 256, 0, 0, 1⟩]  -- Lost-shard routes

/-- The objects of R279. -/
def catYardA : List Obj := [
  ⟨0x5000_01, .u32, .rws, 4, 0, 4, 0, 4294967295, 1⟩,  -- Yard id
  ⟨0x5000_02, .u64, .rws, 4, 0, 8, 0, 18446744073709551615, 1⟩,  -- Aperture base
  ⟨0x5000_03, .u8, .rws, 4, 6, 1, 0, 12, 1⟩,  -- Aperture member bits
  ⟨0x5000_04, .u16, .rws, 4, 65535, 2, 0, 4095, 1⟩,  -- Own member id
  ⟨0x5000_05, .u64, .rws, 4, 0, 8, 0, 18446744073709551615, 256⟩,  -- Near backing base
  ⟨0x5000_06, .u64, .rws, 4, 0, 8, 0, 18446744073709551615, 1⟩,  -- Near backing size
  ⟨0x5000_07, .u64, .rws, 4, 0, 8, 0, 18446744073709551615, 1⟩,  -- Far base
  ⟨0x5000_08, .u64, .rws, 4, 0, 8, 0, 18446744073709551615, 1⟩,  -- Far blocks
  ⟨0x5000_09, .u32, .rws, 4, 65536, 4, 4096, 4194304, 1⟩,  -- Yard reserve
  ⟨0x5000_0A, .u16, .rws, 4, 32, 2, 4, 256, 1⟩,  -- Credits
  ⟨0x5000_0B, .u32, .rw, 0, 200000, 4, 10000, 10000000, 1⟩,  -- Retry timeout
  ⟨0x5000_0C, .u32, .rw, 0, 2000000, 4, 100000, 100000000, 1⟩,  -- Receipt window
  ⟨0x5000_0D, .u8, .rw, 0, 40, 1, 5, 100, 1⟩,  -- Yard share
  ⟨0x5000_0E, .u8, .rw, 0, 18, 1, 0, 63, 1⟩,  -- DSCP
  ⟨0x5000_0F, .u8, .rw, 0, 3, 1, 0, 7, 1⟩,  -- Priority
  ⟨0x5000_10, .u16, .rw, 0, 150, 2, 110, 400, 1⟩,  -- Rekey threshold
  ⟨0x5000_11, .u32, .rw, 0, 10000, 4, 1000, 3600000, 1⟩,  -- Rekey dwell
  ⟨0x5000_12, .u8, .rw, 0, 5, 1, 1, 25, 1⟩,  -- Rekey share
  ⟨0x5000_13, .u8, .rw, 0, 50, 1, 5, 100, 1⟩,  -- Tier share
  ⟨0x5000_14, .u8, .ro, 0, 0, 1, 0, 255, 1⟩,  -- Active slices A
  ⟨0x5000_15, .u64, .ro, 0, 0, 8, 0, 18446744073709551615, 1⟩,  -- Near frames free
  ⟨0x5000_16, .u64, .ro, 0, 0, 8, 0, 18446744073709551615, 1⟩,  -- Far blocks free
  ⟨0x5000_17, .u64, .ro, 0, 0, 8, 0, 18446744073709551615, 1⟩,  -- Directory bytes per slice
  ⟨0x5000_18, .u64, .rws, 4, 0, 8, 0, 18446744073709551615, 256⟩]  -- Fence line base

/-- The objects of R279. -/
def catYardB : List Obj := [
  ⟨0x5000_19, .u8, .ro, 0, 0, 1, 0, 255, 1⟩,  -- Refusal
  ⟨0x5001_01, .octets, .rws, 4, 0, 2048, 0, 0, 1⟩,  -- Region table
  ⟨0x5001_02, .octets, .ro, 0, 0, 1536, 0, 0, 1⟩,  -- Region status
  ⟨0x5002_01, .octets, .ro, 0, 0, 10240, 0, 0, 1⟩,  -- Indeterminate list
  ⟨0x5002_02, .u32, .ro, 0, 0, 4, 0, 4294967295, 1⟩,  -- Indeterminate count
  ⟨0x5002_03, .u16, .wo, 0, 0, 2, 0, 65535, 1⟩,  -- Remove entry
  ⟨0x5003_01, .octets, .rws, 4, 0, 81920, 0, 0, 1⟩,  -- Member table
  ⟨0x5003_02, .octets, .ro, 0, 0, 16896, 0, 0, 1⟩]  -- Rollback notices

/-- The objects of R302. -/
def catStables : List Obj := [
  ⟨0x5100_01, .u64, .rws, 7, 0, 8, 0, 18446744073709551615, 256⟩,  -- HBM stable base
  ⟨0x5100_02, .u64, .rws, 7, 0, 8, 0, 18446744073709551615, 1⟩,  -- HBM stable size
  ⟨0x5100_03, .u32, .ro, 0, 0, 4, 0, 4294967295, 1⟩,  -- Stalls per slice
  ⟨0x5100_04, .u64, .ro, 0, 0, 8, 0, 18446744073709551615, 1⟩,  -- HBM stalls free
  ⟨0x5100_05, .u64, .ro, 0, 0, 8, 0, 18446744073709551615, 1⟩,  -- HBM stalls unreserved
  ⟨0x5100_06, .u32, .ro, 0, 0, 4, 0, 4294967295, 1⟩,  -- SRAM stalls free
  ⟨0x5100_07, .u32, .ro, 0, 0, 4, 0, 4294967295, 1⟩,  -- Stalls retired
  ⟨0x5101_01, .octets, .ro, 0, 0, 256, 0, 0, 1⟩,  -- Reserves
  ⟨0x5102_01, .u32, .rw, 0, 100, 4, 10, 10000, 1⟩,  -- SRAM patrol period
  ⟨0x5102_02, .u8, .rw, 0, 10, 1, 0, 100, 1⟩,  -- HBM patrol share
  ⟨0x5102_03, .u64, .ro, 0, 0, 8, 0, 18446744073709551615, 1⟩,  -- HBM patrol pass time
  ⟨0x5102_04, .u64, .wo, 0, 0, 8, 0, 18446744073709551615, 1⟩,  -- Error injection
  ⟨0x5102_05, .u32, .ro, 0, 0, 4, 0, 4294967295, 1⟩,  -- Spare rows left
  ⟨0x5102_06, .u32, .rw, 0, 1000000, 4, 10000, 100000000, 1⟩,  -- Repair limit
  ⟨0x5103_01, .octets, .ro, 0, 0, 32768, 0, 0, 1⟩,  -- Retirement list
  ⟨0x5103_02, .u16, .ro, 0, 0, 2, 0, 65535, 1⟩,  -- Retirement entries
  ⟨0x5103_03, .u16, .wo, 0, 0, 2, 0, 65535, 1⟩]  -- Acknowledge retirement

/-- The objects of R322. -/
def catAudit : List Obj := [
  ⟨0x6000_01, .octets, .wo, 1, 0, 32, 0, 0, 1⟩,  -- Job key
  ⟨0x6000_02, .u64, .ro, 0, 0, 8, 0, 18446744073709551615, 1⟩,  -- Job key check
  ⟨0x6000_03, .octets, .ro, 0, 0, 32, 0, 0, 1⟩,  -- Settings key
  ⟨0x6000_04, .u64, .ro, 0, 0, 8, 0, 18446744073709551615, 1⟩,  -- Watermark step
  ⟨0x6000_05, .u64, .ro, 0, 0, 8, 0, 18446744073709551615, 1⟩,  -- Space W watermark
  ⟨0x6000_06, .u64, .ro, 0, 0, 8, 0, 18446744073709551615, 1⟩,  -- Space N watermark
  ⟨0x6000_07, .u64, .ro, 0, 0, 8, 0, 18446744073709551615, 1⟩,  -- Shard watermark
  ⟨0x6000_08, .bool, .ro, 0, 0, 1, 0, 1, 1⟩,  -- Key loaded
  ⟨0x6001_01, .octets, .rw, 0, 0, 140, 0, 0, 1⟩,  -- Replica table
  ⟨0x6001_02, .u32, .rw, 0, 0, 4, 0, 4294967295, 1⟩,  -- Replica set id
  ⟨0x6001_03, .u8, .rw, 0, 1, 1, 0, 64, 1⟩,  -- Compare every
  ⟨0x6001_04, .u32, .rw, 0, 1000, 4, 10, 60000, 1⟩,  -- Bisection limit
  ⟨0x6001_05, .u8, .rw, 0, 5, 1, 1, 25, 1⟩,  -- Audit read share
  ⟨0x6001_06, .u8, .ro, 0, 0, 1, 0, 255, 1⟩,  -- Comparison status
  ⟨0x6001_07, .u64, .ro, 0, 0, 8, 0, 18446744073709551615, 1⟩,  -- Last compared commit
  ⟨0x6001_08, .octets, .ro, 0, 0, 16, 0, 0, 1⟩,  -- Last named line
  ⟨0x6002_01, .octets, .wo, 0, 0, 16, 0, 0, 1⟩,  -- Stream query
  ⟨0x6002_02, .octets, .ro, 0, 0, 32, 0, 0, 1⟩]  -- Stream answer

/-- The objects of R348. -/
def catDictionaryA : List Obj := [
  ⟨0x1000_01, .str, .const, 0, 0, 32, 0, 0, 1⟩,  -- Vendor
  ⟨0x1000_02, .str, .const, 0, 0, 8, 0, 0, 1⟩,  -- Family
  ⟨0x1000_03, .str, .const, 0, 0, 5, 0, 0, 1⟩,  -- Product
  ⟨0x1000_04, .u16, .const, 0, 0, 2, 0, 65535, 1⟩,  -- Silicon stepping
  ⟨0x1000_05, .u8, .const, 0, 0, 1, 0, 255, 1⟩,  -- Built slices
  ⟨0x1000_06, .u8, .ro, 0, 0, 1, 0, 255, 1⟩,  -- Active slices
  ⟨0x1000_07, .octets, .ro, 0, 0, 16, 0, 0, 1⟩,  -- Serial number
  ⟨0x1000_08, .u16, .rws, 7, 65535, 2, 0, 65534, 1⟩,  -- Device id
  ⟨0x1000_09, .u32, .ro, 0, 0, 4, 0, 4294967295, 1⟩,  -- Firmware version
  ⟨0x1000_0A, .u8, .const, 0, 1, 1, 0, 255, 1⟩,  -- Protocol version
  ⟨0x1000_0B, .octets, .ro, 0, 0, 32, 0, 0, 1⟩,  -- Dictionary digest
  ⟨0x1001_01, .u8, .rw, 0, 16, 1, 0, 63, 1⟩,  -- DSCP
  ⟨0x1001_02, .u8, .rw, 0, 6, 1, 0, 7, 1⟩,  -- Priority
  ⟨0x1001_03, .u8, .rw, 0, 16, 1, 1, 16, 1⟩,  -- Session limit
  ⟨0x1001_04, .u32, .rw, 0, 30000, 4, 1000, 3600000, 1⟩,  -- Idle timeout
  ⟨0x1001_05, .u32, .rw, 0, 1000, 4, 100, 60000, 1⟩,  -- Block timeout
  ⟨0x1001_06, .u16, .const, 0, 1024, 2, 0, 65535, 1⟩,  -- Segment limit
  ⟨0x1001_07, .u16, .rw, 0, 10000, 2, 10, 50000, 1⟩,  -- Notification rate
  ⟨0x1001_08, .u32, .const, 0, 524288, 4, 0, 4294967295, 1⟩,  -- Staging limit
  ⟨0x1010_01, .octets, .ro, 0, 0, 768, 0, 0, 1⟩,  -- Session table
  ⟨0x1100_01, .octets, .wo, 0, 0, 32, 0, 0, 1⟩,  -- Principal key
  ⟨0x1100_02, .u8, .rw, 0, 0, 1, 0, 2, 1⟩,  -- Principal role
  ⟨0x1100_03, .bool, .rw, 0, 0, 1, 0, 1, 1⟩,  -- Principal enabled
  ⟨0x1100_04, .u64, .ro, 0, 0, 8, 0, 18446744073709551615, 1⟩]  -- Principal key check

/-- The objects of R348. -/
def catDictionaryB : List Obj := [
  ⟨0x1101_01, .octets, .wo, 0, 0, 32, 0, 0, 1⟩,  -- Principal key
  ⟨0x1101_02, .u8, .rw, 0, 0, 1, 0, 2, 1⟩,  -- Principal role
  ⟨0x1101_03, .bool, .rw, 0, 0, 1, 0, 1, 1⟩,  -- Principal enabled
  ⟨0x1101_04, .u64, .ro, 0, 0, 8, 0, 18446744073709551615, 1⟩,  -- Principal key check
  ⟨0x1102_01, .octets, .wo, 0, 0, 32, 0, 0, 1⟩,  -- Principal key
  ⟨0x1102_02, .u8, .rw, 0, 0, 1, 0, 2, 1⟩,  -- Principal role
  ⟨0x1102_03, .bool, .rw, 0, 0, 1, 0, 1, 1⟩,  -- Principal enabled
  ⟨0x1102_04, .u64, .ro, 0, 0, 8, 0, 18446744073709551615, 1⟩,  -- Principal key check
  ⟨0x1103_01, .octets, .wo, 0, 0, 32, 0, 0, 1⟩,  -- Principal key
  ⟨0x1103_02, .u8, .rw, 0, 0, 1, 0, 2, 1⟩,  -- Principal role
  ⟨0x1103_03, .bool, .rw, 0, 0, 1, 0, 1, 1⟩,  -- Principal enabled
  ⟨0x1103_04, .u64, .ro, 0, 0, 8, 0, 18446744073709551615, 1⟩,  -- Principal key check
  ⟨0x1104_01, .octets, .wo, 0, 0, 32, 0, 0, 1⟩,  -- Principal key
  ⟨0x1104_02, .u8, .rw, 0, 0, 1, 0, 2, 1⟩,  -- Principal role
  ⟨0x1104_03, .bool, .rw, 0, 0, 1, 0, 1, 1⟩,  -- Principal enabled
  ⟨0x1104_04, .u64, .ro, 0, 0, 8, 0, 18446744073709551615, 1⟩,  -- Principal key check
  ⟨0x1105_01, .octets, .wo, 0, 0, 32, 0, 0, 1⟩,  -- Principal key
  ⟨0x1105_02, .u8, .rw, 0, 0, 1, 0, 2, 1⟩,  -- Principal role
  ⟨0x1105_03, .bool, .rw, 0, 0, 1, 0, 1, 1⟩,  -- Principal enabled
  ⟨0x1105_04, .u64, .ro, 0, 0, 8, 0, 18446744073709551615, 1⟩,  -- Principal key check
  ⟨0x1106_01, .octets, .wo, 0, 0, 32, 0, 0, 1⟩,  -- Principal key
  ⟨0x1106_02, .u8, .rw, 0, 0, 1, 0, 2, 1⟩,  -- Principal role
  ⟨0x1106_03, .bool, .rw, 0, 0, 1, 0, 1, 1⟩,  -- Principal enabled
  ⟨0x1106_04, .u64, .ro, 0, 0, 8, 0, 18446744073709551615, 1⟩]  -- Principal key check

/-- The objects of R348. -/
def catDictionaryC : List Obj := [
  ⟨0x1107_01, .octets, .wo, 0, 0, 32, 0, 0, 1⟩,  -- Principal key
  ⟨0x1107_02, .u8, .rw, 0, 0, 1, 0, 2, 1⟩,  -- Principal role
  ⟨0x1107_03, .bool, .rw, 0, 0, 1, 0, 1, 1⟩,  -- Principal enabled
  ⟨0x1107_04, .u64, .ro, 0, 0, 8, 0, 18446744073709551615, 1⟩]  -- Principal key check

/-- The objects of R376. -/
def catDevice : List Obj := [
  ⟨0x1200_01, .u8, .ro, 0, 1, 1, 0, 255, 1⟩,  -- Device state
  ⟨0x1200_02, .time64, .ro, 0, 0, 8, 0, 18446744073709551615, 1⟩,  -- State entered
  ⟨0x1200_03, .u16, .ro, 0, 0, 2, 0, 65535, 1⟩,  -- Last cause
  ⟨0x1200_04, .u16, .ro, 0, 0, 2, 0, 65535, 1⟩,  -- SAFE cause
  ⟨0x1201_01, .u8, .rw, 0, 0, 1, 0, 1, 1⟩,  -- Function enable
  ⟨0x1201_02, .u8, .rw, 0, 0, 1, 0, 1, 1⟩,  -- Function enable
  ⟨0x1201_03, .u8, .rw, 0, 0, 1, 0, 1, 1⟩,  -- Function enable
  ⟨0x1201_04, .u8, .rw, 0, 0, 1, 0, 1, 1⟩,  -- Function enable
  ⟨0x1201_05, .u8, .rw, 0, 0, 1, 0, 1, 1⟩,  -- Function enable
  ⟨0x1201_06, .u8, .rw, 0, 0, 1, 0, 1, 1⟩,  -- Function enable
  ⟨0x1202_01, .u8, .ro, 0, 0, 1, 0, 255, 1⟩,  -- Function state
  ⟨0x1202_02, .u8, .ro, 0, 0, 1, 0, 255, 1⟩,  -- Function state
  ⟨0x1202_03, .u8, .ro, 0, 0, 1, 0, 255, 1⟩,  -- Function state
  ⟨0x1202_04, .u8, .ro, 0, 0, 1, 0, 255, 1⟩,  -- Function state
  ⟨0x1202_05, .u8, .ro, 0, 0, 1, 0, 255, 1⟩,  -- Function state
  ⟨0x1202_06, .u8, .ro, 0, 0, 1, 0, 255, 1⟩,  -- Function state
  ⟨0x1203_01, .bool, .ro, 0, 0, 1, 0, 1, 1⟩,  -- Enable pending
  ⟨0x1203_02, .bool, .ro, 0, 0, 1, 0, 1, 1⟩,  -- Enable pending
  ⟨0x1203_03, .bool, .ro, 0, 0, 1, 0, 1, 1⟩,  -- Enable pending
  ⟨0x1203_04, .bool, .ro, 0, 0, 1, 0, 1, 1⟩,  -- Enable pending
  ⟨0x1203_05, .bool, .ro, 0, 0, 1, 0, 1, 1⟩,  -- Enable pending
  ⟨0x1203_06, .bool, .ro, 0, 0, 1, 0, 1, 1⟩,  -- Enable pending
  ⟨0x1204_01, .u32, .rw, 0, 1000, 4, 10, 60000, 1⟩]  -- Drain limit

/-- The objects of R376. -/
def catGroomA : List Obj := [
  ⟨0x7000_01, .u32, .ro, 0, 0, 4, 0, 4294967295, 1⟩,  -- Self-test results
  ⟨0x7000_02, .u32, .ro, 0, 0, 4, 0, 4294967295, 1⟩,  -- Self-test time
  ⟨0x7000_03, .u8, .ro, 0, 0, 1, 0, 255, 1⟩,  -- Reset cause
  ⟨0x7000_04, .u32, .rw, 0, 100, 4, 10, 1000, 1⟩,  -- Watchdog period
  ⟨0x7000_05, .u16, .ro, 0, 0, 2, 0, 65535, 1⟩,  -- Failure cause
  ⟨0x7001_01, .octets, .ro, 0, 0, 66, 0, 0, 1⟩,  -- Temperatures
  ⟨0x7001_02, .i32, .rw, 0, 950, 4, 600, 1200, 1⟩,  -- Warning threshold
  ⟨0x7001_03, .i32, .rw, 0, 1100, 4, 700, 1250, 1⟩,  -- Trip threshold
  ⟨0x7001_04, .u16, .rw, 0, 100, 2, 1, 10000, 1⟩,  -- Droop limit
  ⟨0x7002_01, .u8, .rw, 0, 0, 1, 0, 2, 1⟩,  -- Feed mode
  ⟨0x7002_02, .u16, .rw, 0, 20, 2, 1, 200, 1⟩,  -- Feed debounce
  ⟨0x7002_03, .u8, .ro, 0, 0, 1, 0, 255, 1⟩,  -- Feed status
  ⟨0x7002_04, .time64, .ro, 0, 0, 8, 0, 18446744073709551615, 1⟩,  -- Last declaration
  ⟨0x7003_01, .u64, .ro, 0, 0, 8, 0, 18446744073709551615, 1⟩,  -- Log head
  ⟨0x7003_02, .u64, .ro, 0, 0, 8, 0, 18446744073709551615, 1⟩,  -- Log oldest
  ⟨0x7003_03, .octets, .ro, 0, 0, 64, 0, 0, 1⟩,  -- Newest record
  ⟨0x7003_04, .u64, .rw, 0, 0, 8, 0, 18446744073709551615, 1⟩,  -- Log read sequence
  ⟨0x7003_05, .octets, .ro, 0, 0, 1024, 0, 0, 1⟩,  -- Log window
  ⟨0x7003_06, .u8, .ro, 0, 0, 1, 0, 255, 1⟩,  -- Flash log status
  ⟨0x7003_07, .u8, .ro, 0, 0, 1, 0, 255, 1⟩,  -- Twin log status
  ⟨0x7004_01, .octets, .ro, 0, 0, 16, 0, 0, 1⟩,  -- Slot A status
  ⟨0x7004_02, .octets, .ro, 0, 0, 16, 0, 0, 1⟩,  -- Slot B status
  ⟨0x7004_03, .u8, .ro, 0, 0, 1, 0, 255, 1⟩,  -- Running slot
  ⟨0x7004_04, .bool, .ro, 0, 0, 1, 0, 1, 1⟩]  -- Trial

/-- The objects of R376. -/
def catGroomB : List Obj := [
  ⟨0x7004_05, .u32, .rw, 0, 0, 4, 0, 4128768, 65536⟩,  -- Write offset
  ⟨0x7004_06, .octets, .wo, 0, 0, 65536, 0, 0, 1⟩,  -- Image chunk
  ⟨0x7004_07, .u8, .wo, 0, 0, 1, 1, 1, 1⟩,  -- Check slot
  ⟨0x7004_08, .u8, .wo, 0, 0, 1, 1, 1, 1⟩,  -- Activate
  ⟨0x7004_09, .octets, .const, 0, 0, 32, 0, 0, 1⟩,  -- Boot key digest
  ⟨0x7004_0A, .u8, .ro, 0, 0, 1, 0, 255, 1⟩,  -- Check result
  ⟨0x7005_01, .u16, .rw, 0, 65535, 2, 0, 65534, 1⟩,  -- Twin device id
  ⟨0x7005_02, .octets, .rw, 0, 0, 16, 0, 0, 1⟩,  -- Twin address
  ⟨0x7005_03, .u8, .wo, 0, 0, 1, 1, 1, 1⟩,  -- Pair
  ⟨0x7005_04, .u32, .rw, 0, 100000, 4, 10000, 1000000, 1⟩,  -- Heartbeat period
  ⟨0x7005_05, .u32, .rw, 0, 300000, 4, 30000, 10000000, 1⟩,  -- Twin silence limit
  ⟨0x7005_06, .u32, .rw, 0, 1000, 4, 10, 60000, 1⟩,  -- Pair timeout
  ⟨0x7005_07, .u8, .wo, 0, 0, 1, 1, 1, 1⟩,  -- Unpair
  ⟨0x7005_08, .u8, .ro, 0, 0, 1, 0, 255, 1⟩,  -- Twin status
  ⟨0x7005_09, .u8, .ro, 0, 0, 1, 0, 255, 1⟩,  -- Pairing refusal
  ⟨0x7005_0A, .u8, .ro, 0, 0, 1, 0, 255, 1⟩,  -- Shared levels
  ⟨0x7005_0B, .u8, .ro, 0, 0, 1, 0, 255, 1⟩,  -- Side strap
  ⟨0x7005_0C, .time64, .ro, 0, 0, 8, 0, 18446744073709551615, 1⟩]  -- Twin last heard

/-- The objects of R398. -/
def catPorts : List Obj := [
  ⟨0x7100_01, .octets, .ro, 0, 0, 64, 0, 0, 1⟩,  -- PCLK frequencies
  ⟨0x7100_02, .u16, .ro, 0, 0, 2, 0, 65535, 1⟩,  -- NCLK frequency
  ⟨0x7100_03, .u16, .ro, 0, 0, 2, 0, 65535, 1⟩,  -- FCLK frequency
  ⟨0x7100_04, .u16, .ro, 0, 0, 2, 0, 65535, 1⟩,  -- CCLK frequency
  ⟨0x7100_05, .u32, .rw, 0, 100000, 4, 10000, 1000000, 1⟩,  -- Stall limit
  ⟨0x7100_06, .u64, .ro, 0, 0, 8, 0, 18446744073709551615, 1⟩,  -- Port status
  ⟨0x7100_07, .u16, .const, 0, 256, 2, 0, 65535, 1⟩,  -- Hold queue depth
  ⟨0x7100_08, .u8, .ro, 0, 0, 1, 0, 255, 1⟩,  -- Time input status
  ⟨0x7100_09, .u32, .rws, 7, 792000, 4, 1000, 819200, 1⟩,  -- N-port payload rate
  ⟨0x7101_01, .u8, .ro, 0, 0, 1, 0, 255, 1⟩,  -- Pair status
  ⟨0x7101_02, .u8, .ro, 0, 0, 1, 0, 255, 1⟩,  -- Pair status
  ⟨0x7101_03, .u8, .ro, 0, 0, 1, 0, 255, 1⟩,  -- Pair status
  ⟨0x7101_04, .u8, .ro, 0, 0, 1, 0, 255, 1⟩,  -- Pair status
  ⟨0x7101_05, .u8, .ro, 0, 0, 1, 0, 255, 1⟩,  -- Pair status
  ⟨0x7101_06, .u8, .ro, 0, 0, 1, 0, 255, 1⟩,  -- Pair status
  ⟨0x7101_07, .u8, .ro, 0, 0, 1, 0, 255, 1⟩,  -- Pair status
  ⟨0x7101_08, .u8, .ro, 0, 0, 1, 0, 255, 1⟩,  -- Pair status
  ⟨0x7102_01, .octets, .rws, 7, 0, 256, 0, 0, 1⟩,  -- Interleave table
  ⟨0x7103_01, .octets, .rws, 7, 0, 16, 0, 0, 1⟩,  -- Own IPv6 address
  ⟨0x7103_02, .u32, .rws, 7, 0, 4, 0, 4294967295, 1⟩]  -- Own IPv4 address

/-- The objects of R412. -/
def catTest : List Obj := [
  ⟨0x7F00_01, .bool, .ro, 0, 0, 1, 0, 1, 1⟩,  -- Debug lock
  ⟨0x7F00_02, .u32, .ro, 0, 0, 4, 0, 4294967295, 1⟩,  -- Slice disable
  ⟨0x7F00_03, .u32, .const, 0, 0, 4, 0, 4294967295, 1⟩,  -- IDCODE
  ⟨0x7F00_04, .u8, .ro, 0, 0, 1, 0, 255, 1⟩,  -- Fuse read status
  ⟨0x7F00_05, .bool, .ro, 0, 0, 1, 0, 1, 1⟩,  -- Frozen before reset
  ⟨0x7F00_06, .time64, .ro, 0, 0, 8, 0, 18446744073709551615, 1⟩,  -- Freeze time
  ⟨0x7F00_07, .u8, .const, 0, 4, 1, 0, 255, 1⟩]  -- Minimum active slices

/-- The objects of the counter blocks 0x8100 to 0x87F0 (R329). -/
def catCountersA : List Obj := [
  ⟨0x8100_01, .u64, .ro, 0, 0, 8, 0, 18446744073709551615, 1⟩,  -- Frames received
  ⟨0x8100_02, .u32, .ro, 0, 0, 4, 0, 4294967295, 1⟩,  -- Malformed frames
  ⟨0x8100_03, .u32, .ro, 0, 0, 4, 0, 4294967295, 1⟩,  -- MAC failures
  ⟨0x8100_04, .u32, .ro, 0, 0, 4, 0, 4294967295, 1⟩,  -- Sessions opened
  ⟨0x8100_05, .u32, .ro, 0, 0, 4, 0, 4294967295, 1⟩,  -- Sessions refused
  ⟨0x8100_06, .u32, .ro, 0, 0, 4, 0, 4294967295, 1⟩,  -- Replies resent
  ⟨0x8100_07, .u32, .ro, 0, 0, 4, 0, 4294967295, 1⟩,  -- Sequence errors
  ⟨0x8100_08, .u32, .ro, 0, 0, 4, 0, 4294967295, 1⟩,  -- Block writes committed
  ⟨0x8100_09, .u32, .ro, 0, 0, 4, 0, 4294967295, 1⟩,  -- Block writes discarded
  ⟨0x8100_0A, .u64, .ro, 0, 0, 8, 0, 18446744073709551615, 1⟩,  -- Notifications sent
  ⟨0x8100_0B, .u64, .ro, 0, 0, 8, 0, 18446744073709551615, 1⟩,  -- Notifications held back
  ⟨0x8100_0C, .u64, .ro, 0, 0, 8, 0, 18446744073709551615, 1⟩,  -- C-port requests
  ⟨0x8100_0D, .u32, .ro, 0, 0, 4, 0, 4294967295, 1⟩,  -- C-port privilege refusals
  ⟨0x8120_01, .u32, .ro, 0, 0, 4, 0, 4294967295, 1⟩,  -- State changes
  ⟨0x8120_02, .u32, .ro, 0, 0, 4, 0, 4294967295, 1⟩,  -- Function starts
  ⟨0x8120_03, .u32, .ro, 0, 0, 4, 0, 4294967295, 1⟩,  -- Pending enables taken
  ⟨0x8120_04, .u32, .ro, 0, 0, 4, 0, 4294967295, 1⟩,  -- Drains completed
  ⟨0x8200_01, .u64, .ro, 0, 0, 8, 0, 18446744073709551615, 1⟩,  -- W64 clamps
  ⟨0x8200_02, .u64, .ro, 0, 0, 8, 0, 18446744073709551615, 1⟩,  -- M32 saturations
  ⟨0x8200_03, .u64, .ro, 0, 0, 8, 0, 18446744073709551615, 1⟩,  -- Log saturations
  ⟨0x8200_04, .u64, .ro, 0, 0, 8, 0, 18446744073709551615, 1⟩,  -- Non-finite gradients
  ⟨0x8200_05, .u64, .ro, 0, 0, 8, 0, 18446744073709551615, 1⟩,  -- Intake saturations
  ⟨0x8200_06, .u32, .ro, 0, 0, 4, 0, 4294967295, 1⟩,  -- Residue mismatches
  ⟨0x8200_07, .u32, .ro, 0, 0, 4, 0, 4294967295, 1⟩]  -- Host range writes

/-- The objects of the counter blocks 0x8100 to 0x87F0 (R329). -/
def catCountersB : List Obj := [
  ⟨0x8200_08, .u64, .ro, 0, 0, 8, 0, 18446744073709551615, 1⟩,  -- Malformed sketch words
  ⟨0x8200_09, .u32, .ro, 0, 0, 4, 0, 4294967295, 1⟩,  -- Refused imports
  ⟨0x8210_01, .u64, .ro, 0, 0, 8, 0, 18446744073709551615, 1⟩,  -- Elements updated
  ⟨0x8210_02, .u64, .ro, 0, 0, 8, 0, 18446744073709551615, 1⟩,  -- Step saturations
  ⟨0x8210_03, .u32, .ro, 0, 0, 4, 0, 4294967295, 1⟩,  -- List cuts
  ⟨0x8210_04, .u32, .ro, 0, 0, 4, 0, 4294967295, 1⟩,  -- List entries skipped
  ⟨0x8210_05, .u32, .ro, 0, 0, 4, 0, 4294967295, 1⟩,  -- Working-copy retries
  ⟨0x8210_06, .u64, .ro, 0, 0, 8, 0, 18446744073709551615, 1⟩,  -- Host writes held
  ⟨0x8210_07, .u64, .ro, 0, 0, 8, 0, 18446744073709551615, 1⟩,  -- Working writes discarded
  ⟨0x8210_08, .u32, .ro, 0, 0, 4, 0, 4294967295, 1⟩,  -- List writes during pass
  ⟨0x8220_01, .u64, .ro, 0, 0, 8, 0, 18446744073709551615, 1⟩,  -- Log tiles
  ⟨0x8220_02, .u64, .ro, 0, 0, 8, 0, 18446744073709551615, 1⟩,  -- Log underflows
  ⟨0x8220_03, .u64, .ro, 0, 0, 8, 0, 18446744073709551615, 1⟩,  -- Log cuts
  ⟨0x8220_04, .u64, .ro, 0, 0, 8, 0, 18446744073709551615, 1⟩,  -- MAC updates
  ⟨0x8220_05, .u32, .ro, 0, 0, 4, 0, 4294967295, 1⟩,  -- MAC pauses
  ⟨0x8220_06, .u32, .ro, 0, 0, 4, 0, 4294967295, 1⟩,  -- Check mismatches
  ⟨0x8220_07, .u32, .ro, 0, 0, 4, 0, 4294967295, 1⟩,  -- Ramp reversals
  ⟨0x8220_08, .u32, .ro, 0, 0, 4, 0, 4294967295, 1⟩,  -- Bank rebroadcasts
  ⟨0x8220_09, .u64, .ro, 0, 0, 8, 0, 18446744073709551615, 1⟩,  -- MAC jobs completed
  ⟨0x8300_01, .u32, .ro, 0, 0, 4, 0, 4294967295, 1⟩,  -- Placements computed
  ⟨0x8300_02, .u32, .ro, 0, 0, 4, 0, 4294967295, 1⟩,  -- Placement refusals
  ⟨0x8300_03, .u64, .ro, 0, 0, 8, 0, 18446744073709551615, 1⟩,  -- Parity terms applied
  ⟨0x8300_04, .u64, .ro, 0, 0, 8, 0, 18446744073709551615, 1⟩,  -- Felt lines filled
  ⟨0x8300_05, .u32, .ro, 0, 0, 4, 0, 4294967295, 1⟩]  -- Felt lines erased

/-- The objects of the counter blocks 0x8100 to 0x87F0 (R329). -/
def catCountersC : List Obj := [
  ⟨0x8300_06, .u32, .ro, 0, 0, 4, 0, 4294967295, 1⟩,  -- Fill restarts
  ⟨0x8300_07, .u64, .ro, 0, 0, 8, 0, 18446744073709551615, 1⟩,  -- Felt writes discarded
  ⟨0x8310_01, .u64, .ro, 0, 0, 8, 0, 18446744073709551615, 1⟩,  -- Entries captured
  ⟨0x8310_02, .u64, .ro, 0, 0, 8, 0, 18446744073709551615, 1⟩,  -- Writes coalesced
  ⟨0x8310_03, .u64, .ro, 0, 0, 8, 0, 18446744073709551615, 1⟩,  -- Rushes
  ⟨0x8310_04, .u64, .ro, 0, 0, 8, 0, 18446744073709551615, 1⟩,  -- Data frames sent
  ⟨0x8310_05, .u64, .ro, 0, 0, 8, 0, 18446744073709551615, 1⟩,  -- Retransmissions
  ⟨0x8310_06, .u64, .ro, 0, 0, 8, 0, 18446744073709551615, 1⟩,  -- Payload sent
  ⟨0x8310_07, .u32, .ro, 0, 0, 4, 0, 4294967295, 1⟩,  -- Malformed frames
  ⟨0x8310_08, .u32, .ro, 0, 0, 4, 0, 4294967295, 1⟩,  -- Check mismatches
  ⟨0x8310_09, .u32, .ro, 0, 0, 4, 0, 4294967295, 1⟩,  -- Overrun entries
  ⟨0x8310_0A, .u64, .ro, 0, 0, 8, 0, 18446744073709551615, 1⟩,  -- Overrun time
  ⟨0x8310_0B, .u32, .ro, 0, 0, 4, 0, 4294967295, 1⟩,  -- Outstanding holds
  ⟨0x8310_0C, .u32, .ro, 0, 0, 4, 0, 4294967295, 1⟩,  -- Reserve holds
  ⟨0x8310_0D, .u32, .ro, 0, 0, 4, 0, 4294967295, 1⟩,  -- Vat drops
  ⟨0x8310_0E, .u64, .ro, 0, 0, 8, 0, 18446744073709551615, 1⟩,  -- Commits
  ⟨0x8310_0F, .u32, .ro, 0, 0, 4, 0, 4294967295, 1⟩,  -- Commit holds
  ⟨0x8310_10, .u32, .ro, 0, 0, 4, 0, 4294967295, 1⟩,  -- Flushes
  ⟨0x8310_11, .u64, .ro, 0, 0, 8, 0, 18446744073709551615, 1⟩,  -- Duplicates
  ⟨0x8318_01, .u32, .ro, 0, 0, 4, 0, 4294967295, 1⟩,  -- Early marks
  ⟨0x8318_02, .u32, .ro, 0, 0, 4, 0, 4294967295, 1⟩,  -- Holdover entries
  ⟨0x8318_03, .u32, .ro, 0, 0, 4, 0, 4294967295, 1⟩,  -- Timebase unfit
  ⟨0x8318_04, .u32, .ro, 0, 0, 4, 0, 4294967295, 1⟩,  -- Marks outside MEMBER
  ⟨0x8318_05, .u64, .ro, 0, 0, 8, 0, 18446744073709551615, 1⟩]  -- Last pass time

/-- The objects of the counter blocks 0x8100 to 0x87F0 (R329). -/
def catCountersD : List Obj := [
  ⟨0x8318_06, .u64, .ro, 0, 0, 8, 0, 18446744073709551615, 1⟩,  -- Last pass memory time
  ⟨0x8318_07, .u32, .ro, 0, 0, 4, 0, 4294967295, 1⟩,  -- Paced epochs
  ⟨0x8320_01, .u32, .ro, 0, 0, 4, 0, 4294967295, 1⟩,  -- Changes
  ⟨0x8320_02, .u32, .ro, 0, 0, 4, 0, 4294967295, 1⟩,  -- Losses declared
  ⟨0x8320_03, .u32, .ro, 0, 0, 4, 0, 4294967295, 1⟩,  -- Paddock entries
  ⟨0x8320_04, .u32, .ro, 0, 0, 4, 0, 4294967295, 1⟩,  -- Stale notices sent
  ⟨0x8320_05, .u32, .ro, 0, 0, 4, 0, 4294967295, 1⟩,  -- Proposals repeated
  ⟨0x8320_06, .u64, .ro, 0, 0, 8, 0, 18446744073709551615, 1⟩,  -- Lines rolled back
  ⟨0x8320_07, .u64, .ro, 0, 0, 8, 0, 18446744073709551615, 1⟩,  -- Lines rebuilt
  ⟨0x8320_08, .u32, .ro, 0, 0, 4, 0, 4294967295, 1⟩,  -- Rebuild checks failed
  ⟨0x8320_09, .u32, .ro, 0, 0, 4, 0, 4294967295, 1⟩,  -- Re-striping restarts
  ⟨0x8320_0A, .u32, .ro, 0, 0, 4, 0, 4294967295, 1⟩,  -- Joins
  ⟨0x8320_0B, .u32, .ro, 0, 0, 4, 0, 4294967295, 1⟩,  -- Delta-log holds
  ⟨0x8320_0C, .u32, .ro, 0, 0, 4, 0, 4294967295, 1⟩,  -- Replay mismatches
  ⟨0x8320_0D, .u64, .ro, 0, 0, 8, 0, 18446744073709551615, 1⟩,  -- Last rebuild time
  ⟨0x8320_0E, .u64, .ro, 0, 0, 8, 0, 18446744073709551615, 1⟩,  -- Last change time
  ⟨0x8320_0F, .u32, .ro, 0, 0, 4, 0, 4294967295, 1⟩,  -- Marks outside membership
  ⟨0x8330_01, .u32, .ro, 0, 0, 4, 0, 4294967295, 1⟩,  -- Images complete
  ⟨0x8330_02, .u32, .ro, 0, 0, 4, 0, 4294967295, 1⟩,  -- Snapshots abandoned
  ⟨0x8330_03, .u64, .ro, 0, 0, 8, 0, 18446744073709551615, 1⟩,  -- Lines saved
  ⟨0x8330_04, .u32, .ro, 0, 0, 4, 0, 4294967295, 1⟩,  -- Copy-on-write holds
  ⟨0x8330_05, .u32, .ro, 0, 0, 4, 0, 4294967295, 1⟩,  -- Last seal pause
  ⟨0x8330_06, .u32, .ro, 0, 0, 4, 0, 4294967295, 1⟩,  -- Longest seal pause
  ⟨0x8330_07, .u64, .ro, 0, 0, 8, 0, 18446744073709551615, 1⟩]  -- Bytes written

/-- The objects of the counter blocks 0x8100 to 0x87F0 (R329). -/
def catCountersE : List Obj := [
  ⟨0x8330_08, .u32, .ro, 0, 0, 4, 0, 4294967295, 1⟩,  -- Exports complete
  ⟨0x8330_09, .u32, .ro, 0, 0, 4, 0, 4294967295, 1⟩,  -- Restores
  ⟨0x8330_0A, .u32, .ro, 0, 0, 4, 0, 4294967295, 1⟩,  -- Candidates rejected
  ⟨0x8400_01, .u64, .ro, 0, 0, 8, 0, 18446744073709551615, 1⟩,  -- Chunks sent
  ⟨0x8400_02, .u64, .ro, 0, 0, 8, 0, 18446744073709551615, 1⟩,  -- Results received
  ⟨0x8400_03, .u32, .ro, 0, 0, 4, 0, 4294967295, 1⟩,  -- Taints sent
  ⟨0x8400_04, .u32, .ro, 0, 0, 4, 0, 4294967295, 1⟩,  -- Taints received
  ⟨0x8400_05, .u32, .ro, 0, 0, 4, 0, 4294967295, 1⟩,  -- Resends
  ⟨0x8400_06, .u32, .ro, 0, 0, 4, 0, 4294967295, 1⟩,  -- Member-mode fallbacks
  ⟨0x8400_07, .u32, .ro, 0, 0, 4, 0, 4294967295, 1⟩,  -- Late taints
  ⟨0x8400_08, .u32, .ro, 0, 0, 4, 0, 4294967295, 1⟩,  -- Grain mismatches
  ⟨0x8400_09, .u32, .ro, 0, 0, 4, 0, 4294967295, 1⟩,  -- Intake holds
  ⟨0x8400_0A, .u64, .ro, 0, 0, 8, 0, 18446744073709551615, 1⟩,  -- Writes refused or discarded
  ⟨0x8400_0B, .u32, .ro, 0, 0, 4, 0, 4294967295, 1⟩,  -- Result timeouts
  ⟨0x8400_0C, .u32, .ro, 0, 0, 4, 0, 4294967295, 1⟩,  -- Tensors skipped
  ⟨0x8400_0D, .u64, .ro, 0, 0, 8, 0, 18446744073709551615, 1⟩,  -- Counts chunks sent
  ⟨0x8400_0E, .u64, .ro, 0, 0, 8, 0, 18446744073709551615, 1⟩,  -- Last reduction time
  ⟨0x8410_01, .u64, .ro, 0, 0, 8, 0, 18446744073709551615, 1⟩,  -- Calls allotted
  ⟨0x8410_02, .u64, .ro, 0, 0, 8, 0, 18446744073709551615, 1⟩,  -- Choices kept
  ⟨0x8410_03, .u64, .ro, 0, 0, 8, 0, 18446744073709551615, 1⟩,  -- Choices dropped full
  ⟨0x8410_04, .u64, .ro, 0, 0, 8, 0, 18446744073709551615, 1⟩,  -- NaN scores
  ⟨0x8410_05, .u64, .ro, 0, 0, 8, 0, 18446744073709551615, 1⟩,  -- Spills kept
  ⟨0x8410_06, .u32, .ro, 0, 0, 4, 0, 4294967295, 1⟩,  -- Calls refused
  ⟨0x8410_07, .u64, .ro, 0, 0, 8, 0, 18446744073709551615, 1⟩]  -- Combine elements missing

/-- The objects of the counter blocks 0x8100 to 0x87F0 (R329). -/
def catCountersF : List Obj := [
  ⟨0x8410_08, .u64, .ro, 0, 0, 8, 0, 18446744073709551615, 1⟩,  -- Return writes discarded
  ⟨0x8410_09, .u32, .ro, 0, 0, 4, 0, 4294967295, 1⟩,  -- Touch cuts
  ⟨0x8410_0A, .u32, .ro, 0, 0, 4, 0, 4294967295, 1⟩,  -- Untouched gradients
  ⟨0x8410_0B, .u32, .ro, 0, 0, 4, 0, 4294967295, 1⟩,  -- Score writes refused
  ⟨0x8410_0C, .u64, .ro, 0, 0, 8, 0, 18446744073709551615, 1⟩,  -- Non-finite outputs
  ⟨0x8420_01, .u64, .ro, 0, 0, 8, 0, 18446744073709551615, 1⟩,  -- Blocks swept
  ⟨0x8420_02, .u64, .ro, 0, 0, 8, 0, 18446744073709551615, 1⟩,  -- Payload sent
  ⟨0x8420_03, .u64, .ro, 0, 0, 8, 0, 18446744073709551615, 1⟩,  -- Packets sent
  ⟨0x8420_04, .u64, .ro, 0, 0, 8, 0, 18446744073709551615, 1⟩,  -- Sets recovered
  ⟨0x8420_05, .u32, .ro, 0, 0, 4, 0, 4294967295, 1⟩,  -- Repair requests
  ⟨0x8420_06, .u32, .ro, 0, 0, 4, 0, 4294967295, 1⟩,  -- Repairs answered
  ⟨0x8420_07, .u32, .ro, 0, 0, 4, 0, 4294967295, 1⟩,  -- Contributions complete
  ⟨0x8420_08, .u32, .ro, 0, 0, 4, 0, 4294967295, 1⟩,  -- Contributions lost to lateness
  ⟨0x8420_09, .u64, .ro, 0, 0, 8, 0, 18446744073709551615, 1⟩,  -- Hold time
  ⟨0x8420_0A, .u64, .ro, 0, 0, 8, 0, 18446744073709551615, 1⟩,  -- Lines held for the sweep
  ⟨0x8420_0B, .u64, .ro, 0, 0, 8, 0, 18446744073709551615, 1⟩,  -- Writes discarded
  ⟨0x8420_0C, .u32, .ro, 0, 0, 4, 0, 4294967295, 1⟩,  -- Malformed frames
  ⟨0x8420_0D, .u32, .ro, 0, 0, 4, 0, 4294967295, 1⟩,  -- Reserve drops
  ⟨0x8420_0E, .u64, .ro, 0, 0, 8, 0, 18446744073709551615, 1⟩,  -- Last sweep time
  ⟨0x8500_01, .u64, .ro, 0, 0, 8, 0, 18446744073709551615, 1⟩,  -- Loads served
  ⟨0x8500_02, .u64, .ro, 0, 0, 8, 0, 18446744073709551615, 1⟩,  -- Stores served
  ⟨0x8500_03, .u64, .ro, 0, 0, 8, 0, 18446744073709551615, 1⟩,  -- Atomics served
  ⟨0x8500_04, .u64, .ro, 0, 0, 8, 0, 18446744073709551615, 1⟩,  -- Requests combined
  ⟨0x8500_05, .u64, .ro, 0, 0, 8, 0, 18446744073709551615, 1⟩]  -- Retries sent

/-- The objects of the counter blocks 0x8100 to 0x87F0 (R329). -/
def catCountersG : List Obj := [
  ⟨0x8500_06, .u64, .ro, 0, 0, 8, 0, 18446744073709551615, 1⟩,  -- Receipt answers
  ⟨0x8500_07, .u32, .ro, 0, 0, 4, 0, 4294967295, 1⟩,  -- Indeterminate
  ⟨0x8500_08, .u32, .ro, 0, 0, 4, 0, 4294967295, 1⟩,  -- Rekeys
  ⟨0x8500_09, .u64, .ro, 0, 0, 8, 0, 18446744073709551615, 1⟩,  -- Pages promoted
  ⟨0x8500_0A, .u64, .ro, 0, 0, 8, 0, 18446744073709551615, 1⟩,  -- Pages demoted
  ⟨0x8500_0B, .u64, .ro, 0, 0, 8, 0, 18446744073709551615, 1⟩,  -- Accesses held for moves
  ⟨0x8500_0C, .u32, .ro, 0, 0, 4, 0, 4294967295, 1⟩,  -- Malformed frames
  ⟨0x8500_0D, .u64, .ro, 0, 0, 8, 0, 18446744073709551615, 1⟩,  -- Credit waits
  ⟨0x8500_0E, .u32, .ro, 0, 0, 4, 0, 4294967295, 1⟩,  -- No-room refusals
  ⟨0x8510_01, .u64, .ro, 0, 0, 8, 0, 18446744073709551615, 1⟩,  -- Single-bit corrections
  ⟨0x8510_02, .u64, .ro, 0, 0, 8, 0, 18446744073709551615, 1⟩,  -- Two-bit corrections
  ⟨0x8510_03, .u32, .ro, 0, 0, 4, 0, 4294967295, 1⟩,  -- SRAM rows unreadable
  ⟨0x8510_04, .u32, .ro, 0, 0, 4, 0, 4294967295, 1⟩,  -- Bad frees
  ⟨0x8510_05, .u32, .ro, 0, 0, 4, 0, 4294967295, 1⟩,  -- Stalls quarantined
  ⟨0x8510_06, .u32, .ro, 0, 0, 4, 0, 4294967295, 1⟩,  -- Lines repaired
  ⟨0x8510_07, .u32, .ro, 0, 0, 4, 0, 4294967295, 1⟩,  -- Poisoned writes refused
  ⟨0x8510_08, .u64, .ro, 0, 0, 8, 0, 18446744073709551615, 1⟩,  -- Waiters served
  ⟨0x8510_09, .u32, .ro, 0, 0, 4, 0, 4294967295, 1⟩,  -- Retirement entries lost
  ⟨0x8510_0A, .u32, .ro, 0, 0, 4, 0, 4294967295, 1⟩,  -- Lines poisoned
  ⟨0x8510_0B, .u32, .ro, 0, 0, 4, 0, 4294967295, 1⟩,  -- Rows remapped
  ⟨0x8600_01, .u32, .ro, 0, 0, 4, 0, 4294967295, 1⟩,  -- Comparisons
  ⟨0x8600_02, .u32, .ro, 0, 0, 4, 0, 4294967295, 1⟩,  -- Mismatches
  ⟨0x8600_03, .u64, .ro, 0, 0, 8, 0, 18446744073709551615, 1⟩,  -- Bisection queries
  ⟨0x8600_04, .u32, .ro, 0, 0, 4, 0, 4294967295, 1⟩]  -- Lines repaired

/-- The objects of the counter blocks 0x8100 to 0x87F0 (R329). -/
def catCountersH : List Obj := [
  ⟨0x8600_05, .u32, .ro, 0, 0, 4, 0, 4294967295, 1⟩,  -- Lines undecided
  ⟨0x8600_06, .u32, .ro, 0, 0, 4, 0, 4294967295, 1⟩,  -- Bisections ended early
  ⟨0x8600_07, .u32, .ro, 0, 0, 4, 0, 4294967295, 1⟩,  -- Malformed audit frames
  ⟨0x8600_08, .u32, .ro, 0, 0, 4, 0, 4294967295, 1⟩,  -- Stream queries
  ⟨0x8700_01, .u64, .ro, 0, 0, 8, 0, 18446744073709551615, 1⟩,  -- Heartbeats sent
  ⟨0x8700_02, .u32, .ro, 0, 0, 4, 0, 4294967295, 1⟩,  -- Twin silences
  ⟨0x8700_03, .u64, .ro, 0, 0, 8, 0, 18446744073709551615, 1⟩,  -- Log records
  ⟨0x8700_04, .u32, .ro, 0, 0, 4, 0, 4294967295, 1⟩,  -- Log records lost
  ⟨0x8700_05, .u32, .ro, 0, 0, 4, 0, 4294967295, 1⟩,  -- Thermal warnings
  ⟨0x8700_06, .u64, .ro, 0, 0, 8, 0, 18446744073709551615, 1⟩,  -- Droop events
  ⟨0x8700_07, .u32, .ro, 0, 0, 4, 0, 4294967295, 1⟩,  -- Feed declarations
  ⟨0x8700_08, .u32, .ro, 0, 0, 4, 0, 4294967295, 1⟩,  -- Feed wire faults
  ⟨0x8700_09, .u32, .ro, 0, 0, 4, 0, 4294967295, 1⟩,  -- Image chunks written
  ⟨0x8700_0A, .u32, .ro, 0, 0, 4, 0, 4294967295, 1⟩,  -- Pairing refusals
  ⟨0x8700_0B, .u32, .ro, 0, 0, 4, 0, 4294967295, 1⟩,  -- Cross-check mismatches
  ⟨0x8710_01, .u64, .ro, 0, 0, 8, 0, 18446744073709551615, 1⟩,  -- Pass-through requests
  ⟨0x8710_02, .u64, .ro, 0, 0, 8, 0, 18446744073709551615, 1⟩,  -- Served requests
  ⟨0x8710_03, .u64, .ro, 0, 0, 8, 0, 18446744073709551615, 1⟩,  -- Write-error responses
  ⟨0x8710_04, .u64, .ro, 0, 0, 8, 0, 18446744073709551615, 1⟩,  -- Error responses
  ⟨0x8710_05, .u64, .ro, 0, 0, 8, 0, 18446744073709551615, 1⟩,  -- Controller stalls
  ⟨0x8710_06, .u64, .ro, 0, 0, 8, 0, 18446744073709551615, 1⟩,  -- Stall time
  ⟨0x8710_07, .u32, .ro, 0, 0, 4, 0, 4294967295, 1⟩,  -- Long stalls
  ⟨0x8710_08, .u32, .ro, 0, 0, 4, 0, 4294967295, 1⟩,  -- Pair faults
  ⟨0x8710_09, .u64, .ro, 0, 0, 8, 0, 18446744073709551615, 1⟩]  -- CE marks received

/-- The objects of the counter blocks 0x8100 to 0x87F0 (R329). -/
def catCountersI : List Obj := [
  ⟨0x8710_0A, .u32, .ro, 0, 0, 4, 0, 4294967295, 1⟩,  -- Checksum drops
  ⟨0x8710_0B, .u32, .ro, 0, 0, 4, 0, 4294967295, 1⟩,  -- F-port errors
  ⟨0x8710_0C, .u64, .ro, 0, 0, 8, 0, 18446744073709551615, 1⟩,  -- Hold-queue waits
  ⟨0x8710_0D, .u64, .ro, 0, 0, 8, 0, 18446744073709551615, 1⟩,  -- Poisoned words passed
  ⟨0x87F0_01, .u32, .ro, 0, 0, 4, 0, 4294967295, 1⟩,  -- Locked refusals
  ⟨0x87F0_02, .u32, .ro, 0, 0, 4, 0, 4294967295, 1⟩]  -- Boundary instructions deferred
/-- Every object of the dictionary, by owning chapter, then the counters. -/
def catalog : List Obj :=
  catSlices ++ catFormats ++ catMoulds ++ catArrays ++
  catCodes ++ catCouching ++ catMembershipA ++ catMembershipB ++
  catTiersA ++ catTiersB ++ catReduction ++ catRouting ++
  catExchangeA ++ catExchangeB ++ catYardA ++ catYardB ++
  catStables ++ catAudit ++ catDictionaryA ++ catDictionaryB ++
  catDictionaryC ++ catDevice ++ catGroomA ++ catGroomB ++
  catPorts ++ catTest ++ catCountersA ++ catCountersB ++
  catCountersC ++ catCountersD ++ catCountersE ++ catCountersF ++
  catCountersG ++ catCountersH ++ catCountersI

/-- The row of a key; none for a subindex or index not in use. -/
def objOf (k : Nat) : Option Obj := catalog.find? (·.key == k)

/-- The scalar defaults that are not zero (R328). -/
def defaults : List (Nat × Nat) := [
  (0x1000_08, 65535), (0x1000_0A, 1), (0x1001_01, 16), (0x1001_02, 6),
  (0x1001_03, 16), (0x1001_04, 30000), (0x1001_05, 1000), (0x1001_06, 1024),
  (0x1001_07, 10000), (0x1001_08, 524288), (0x1200_01, 1), (0x1204_01, 1000),
  (0x2000_01, 7999), (0x2000_02, 48), (0x2106_03, 1048576), (0x2200_01, 2),
  (0x2200_02, 32), (0x2200_03, 32), (0x2200_04, 64), (0x2200_06, 131071),
  (0x3000_01, 9), (0x3000_02, 3), (0x3100_01, 1), (0x3100_02, 75),
  (0x3100_04, 8952), (0x3100_05, 100000), (0x3100_06, 712800000), (0x3100_09, 65536),
  (0x3100_0A, 131072), (0x3100_0B, 26), (0x3100_0C, 5), (0x3100_0D, 2000000),
  (0x3101_06, 1), (0x3180_01, 1000000), (0x3180_05, 2000), (0x3200_03, 65535),
  (0x3200_05, 1000000), (0x3200_06, 2000000), (0x3200_07, 50000000), (0x3200_08, 500000),
  (0x3202_04, 10), (0x3203_01, 262144), (0x3300_03, 3), (0x3300_05, 262144),
  (0x3300_06, 500000), (0x3301_01, 4), (0x3301_02, 300), (0x3301_03, 1000),
  (0x3301_05, 300), (0x4000_02, 200000), (0x4000_03, 2), (0x4000_04, 20000),
  (0x4000_05, 25), (0x4000_06, 34), (0x4000_07, 4), (0x4000_08, 256),
  (0x4000_09, 16384), (0x4100_02, 500000), (0x4100_03, 4096), (0x4200_02, 100),
  (0x4200_03, 32), (0x4200_04, 4), (0x4200_05, 65536), (0x4200_06, 1),
  (0x4200_07, 12), (0x4200_08, 2), (0x4200_09, 1400), (0x4200_0A, 5000),
  (0x4200_0B, 60000), (0x4200_0C, 50), (0x4200_0D, 10), (0x4200_0E, 10),
  (0x4200_0F, 2), (0x4200_10, 262144), (0x4200_11, 4), (0x5000_03, 6),
  (0x5000_04, 65535), (0x5000_09, 65536), (0x5000_0A, 32), (0x5000_0B, 200000),
  (0x5000_0C, 2000000), (0x5000_0D, 40), (0x5000_0E, 18), (0x5000_0F, 3),
  (0x5000_10, 150), (0x5000_11, 10000), (0x5000_12, 5), (0x5000_13, 50),
  (0x5102_01, 100), (0x5102_02, 10), (0x5102_06, 1000000), (0x6001_03, 1),
  (0x6001_04, 1000), (0x6001_05, 5), (0x7000_04, 100), (0x7001_02, 950),
  (0x7001_03, 1100), (0x7001_04, 100), (0x7002_02, 20), (0x7005_01, 65535),
  (0x7005_04, 100000), (0x7005_05, 300000), (0x7005_06, 1000), (0x7100_05, 100000),
  (0x7100_07, 256), (0x7100_09, 792000), (0x7F00_07, 4)]

/-- The default of byte off of an OCTETS or STR object (R328): an unused entry of 0x3202.01 has source id 0xFFFF
(Table 7-9), the placement objects read 0xFFFF throughout (Table 5-7), and the names are those of Table 15-13. DESIGN CHOICE: the
hyperparameter sets read zeros, as Table 3-10 says, though Table 3-4 gives a_λ and a_ε the reset value 0x1_0000. -/
def octDflt (k off : Nat) : Byte :=
  let text (t : List Nat) : Byte := BitVec.ofNat 8 (t.getD off 0)
  match k with
  | 0x3202_01 => if off % 16 < 2 then 0xFF else 0
  | 0x3003_01 => 0xFF
  | 0x3003_02 => 0xFF
  | 0x1000_01 => text [0x42, 0x6F, 0x66, 0x61, 0x74, 0x68, 0x61, 0x20, 0x53, 0x65, 0x6D, 0x69, 0x63, 0x6F, 0x6E, 0x64,
      0x75, 0x63, 0x74, 0x6F, 0x72]
  | 0x1000_02 => text [0x47, 0x61, 0x72, 0x70, 0x65, 0x6D, 0x62, 0x65]
  | 0x1000_03 => text [0x56, 0x65, 0x64, 0x65, 0x6C]
  | _ => 0

/-- The default of an object (R328); zero where its table row gives zeros or no value. -/
def dfltOf (k : Nat) : Nat := ((defaults.find? (·.1 == k)).map (·.2)).getD 0

/-- The greatest value of a counter: its type's largest value (R329). -/
def objMax (k : Nat) : Nat := match objOf k with
  | some o => 2 ^ (8 * o.size) - 1
  | none => 2 ^ 64 - 1

/-- An index in use (R347). -/
def indexInUse (i : Nat) : Bool := catalog.any (fun o => o.key / 256 == i)

/-- The rows of one index, in rising subindex (R323). -/
def rowsOf (i : Nat) : List Obj := catalog.filter (fun o => o.key / 256 == i)

end Sys2Proof.Machine
end

