-- ==== Sys2Proof/Machine/State.lean ====
section
/-!
DEFINITION. The state of one Vedel, its reset value, the faults and the refusals.

State is plain data. Every dictionary object has one home, the dictionary part (`dict` for scalars,
`oct` for OCTETS and STR bytes); what the spec gives a machine that no object shows stands in one
record per chapter. Each field's docstring names its rule, its file and its reset value; the reset
value is the field's default value.
-/

namespace Sys2Proof.Machine

/-- Why the machine stops. Safe: the machine stops where the hardware has nothing to answer. -/
inductive Fault where
  /-- A command names a slice that the build does not have (R1, 00_scope.md): raised by the commands
  that carry a slice number at or above the number of built slices. Safe: no such slice exists. -/
  | absentSlice
deriving DecidableEq, Repr

/-- Why the machine refuses a command. -/
inductive Refusal where
  /-- The command of this mnemonic has no meaning yet. Safe: nothing follows from it. -/
  | notModelled (mnemonic : String)
deriving DecidableEq, Repr

/-! ### Rows held in the state -/

/-- A frame handed to the N-port: R384 to R386, with the directive fields of Table 17-3. -/
structure Tx where
  stream : Nat
  /-- The destination: a device id of the job, or a 128-bit address when `byAddr`. -/
  dst : Nat
  byAddr : Bool
  port : Nat
  dscp : Nat
  prio : Nat
  flow : Nat
  f : Bytes
  /-- The ECN field, ECT(0) (RFC 3168). -/
  ecn : Nat := 2
  /-- The source port: that of the transport frames, or of the dictionary. -/
  srcPort : Nat := 45306
deriving DecidableEq, Repr

/-- One event record of Table 16-8 (R366). -/
structure EvRec where
  seq : Nat
  time : Nat
  code : Nat
  source : Nat
  halter : Nat
  payload : Bytes
deriving DecidableEq, Repr

/-- A C-port response: its 64-bit words (R342). -/
structure CResp where
  words : List Nat
deriving DecidableEq, Repr

/-- An F-port command (R387), with the bytes a write carries. -/
structure FCmd where
  tag : Nat
  stream : Nat
  write : Bool
  lba : Nat
  blocks : Nat
  data : Bytes
  /-- What it is for: 0 the event log, 1 an image, 2 an export, 3 a restore, 4 a yard page, 5 the firmware area, 6 a write of an image or export given up, 7 the
image read for an export, 8 the slots of the flash area as the deep tiers start, 9 the candidates of a restore. -/
  use : Nat
  /-- It has been repeated (R186). -/
  again : Bool
deriving DecidableEq, Repr

/-- A session of R336, with what Table 15-13 shows of it and its keys. -/
structure Session where
  id : Nat
  principal : Nat
  /-- 1 half-open; 2 open. -/
  st : Nat
  lastSeq : Nat
  addr : Nat
  port : Nat
  opened : Nat
  key : Bytes
  lastReq : Bytes
  lastRep : Bytes
  notifySeq : Nat
deriving DecidableEq, Repr

/-- An open block write (R339): the object, the session that opened it (0 the C-port), its staging copy. -/
structure Staging where
  key : Nat
  sess : Nat
  data : Bytes
deriving DecidableEq, Repr

/-- A frozen copy of a block read (R340). -/
structure Frozen where
  key : Nat
  sess : Nat
  data : Bytes
  change : Nat
deriving DecidableEq, Repr

/-- A subscription (R341). -/
structure Subscription where
  sess : Nat
  key : Nat
  mode : Nat
  period : Nat
  /-- The change count at the last notification. -/
  seen : Nat
deriving DecidableEq, Repr

/-! ### What the build fixes, and what a reset spares -/

/-- The build and its fuses. They survive every reset and the fall of the rails. -/
structure Hw where
  /-- Built slices S, one of 8, 16, 24 or 32 (R1, 00_scope.md); DESIGN CHOICE 8. -/
  slices : Nat := 8
  /-- The three DEBUG_LOCK fuse copies, bits 0 to 2 (R408, 18_freeze_test_and_fuses.md); DESIGN CHOICE 0, none blown. -/
  debugCopies : Nat := 0
  /-- The first copy of SLICE_DISABLE[31:0] (R408, 18_freeze_test_and_fuses.md); DESIGN CHOICE 0. -/
  disableA : Nat := 0
  /-- The second copy of SLICE_DISABLE[31:0] (R408, 18_freeze_test_and_fuses.md); DESIGN CHOICE 0. -/
  disableB : Nat := 0
  /-- The serial number fuses, 16 bytes as a number (R408, 18_freeze_test_and_fuses.md); DESIGN CHOICE 0. -/
  serial : Nat := 0
  /-- The silicon stepping of 0x1000.04, major in [15:8] (R348, 15_eciabo_dictionary.md); DESIGN CHOICE 0x0100. -/
  stepping : Nat := 0x0100
  /-- Bofatha's manufacturer code, IDCODE bits [11:1] (R403, 18_freeze_test_and_fuses.md); DESIGN CHOICE 0. -/
  mfr : Nat := 0
deriving DecidableEq, Repr

/-- The hub's sticky registers (R359, 16_groom_and_device_life.md; R402, 18_freeze_test_and_fuses.md):
they survive VRESET_N and a self-reset, and are lost when the rails fall. -/
structure Sticky where
  /-- The reset cause register, copied to 0x7000.03 (R359, 16_groom_and_device_life.md); reset 0, power-up. -/
  cause : Nat := 0
  /-- The sticky freeze flag (R402, 18_freeze_test_and_fuses.md); reset false (Table 18-6). -/
  frozen : Bool := false
  /-- The 1588 time of the freeze instant (R402, 18_freeze_test_and_fuses.md); reset 0. -/
  freezeTime : Nat := 0
  /-- The count of uses refused under R409 while FROZEN, stopping at 65,535 (R402, 18_freeze_test_and_fuses.md); reset 0. -/
  refused : Nat := 0
deriving DecidableEq, Repr

/-- The time input and the epoch timer's own state (R16 to R20, 01_slices_hub_and_ticks.md; R393, 17_ports_clocks_and_integration.md). -/
structure Clock where
  /-- The hub timer's view of 1588 time, ns (R17, 01_slices_hub_and_ticks.md); DESIGN CHOICE 0. -/
  now : Nat := 0
  /-- The TIME64 of the last strobe (R393, 17_ports_clocks_and_integration.md); DESIGN CHOICE 0. -/
  lastStrobe : Nat := 0
  /-- The 1588 time of the last locked value, carried by event 0x3180 (Table 1-12, 01_slices_hub_and_ticks.md); DESIGN CHOICE 0. -/
  lastLocked : Nat := 0
  /-- The hub time at which holdover began (R20, 01_slices_hub_and_ticks.md); DESIGN CHOICE 0. -/
  holdoverAt : Nat := 0
deriving DecidableEq, Repr

/-- The groom's event log (R366, 16_groom_and_device_life.md). -/
structure Log where
  /-- The newest 4,096 records, newest first (R366, 16_groom_and_device_life.md); reset none. -/
  recs : List EvRec := []
  /-- The sequence of the next record, from 0 at reset (Table 16-8, 16_groom_and_device_life.md); reset 0. -/
  next : Nat := 0
  /-- The blocks of 64 records handed to flash since reset (R366, 16_groom_and_device_life.md); reset 0. -/
  flashed : Nat := 0
  /-- The partner's mirrored records (R366, 16_groom_and_device_life.md), newest first; reset none. -/
  twin : List EvRec := []
  /-- Events reported at most once per second: the code, and the second in which it was last reported
  (R335, R344, R409); reset none. -/
  limited : List (Nat × Nat) := []
deriving DecidableEq, Repr

/-- What the dictionary server holds in hub SRAM (R333 to R345, 15_eciabo_dictionary.md). -/
structure Server where
  /-- The session table, in order of slot (R336, 15_eciabo_dictionary.md); reset none. -/
  sessions : List Session := []
  /-- The id the next CHALLENGE gives (Table 15-4, 15_eciabo_dictionary.md gives no rule); DESIGN CHOICE 1. -/
  nextId : Nat := 1
  /-- The open block writes (R339, 15_eciabo_dictionary.md); reset none. -/
  staging : List Staging := []
  /-- The frozen copies (R340, 15_eciabo_dictionary.md); reset none. -/
  frozen : List Frozen := []
  /-- The subscriptions (R341, 15_eciabo_dictionary.md); reset none. -/
  subs : List Subscription := []
  /-- The principals whose key has been written since reset (0x1100 + n.03, R348, 15_eciabo_dictionary.md); reset none. -/
  keyed : List Nat := []
  /-- REFUSE frames sent: address, second, count (R335, 15_eciabo_dictionary.md); reset none. -/
  refuses : List (Nat × Nat × Nat) := []
  /-- Notifications sent in the second now open: the second and the count (R341, 15_eciabo_dictionary.md); reset 0, 0. -/
  notified : Nat × Nat := (0, 0)
deriving DecidableEq, Repr

/-- Firmware state beside the objects of index 0x7004 (R368 to R371, 16_groom_and_device_life.md). -/
structure Firmware where
  /-- The idle slot's image has passed R369 since it was last written (R370, 16_groom_and_device_life.md); reset false. -/
  checked : Bool := false
  /-- The boot ROM runs alone (R352, 16_groom_and_device_life.md); reset false. -/
  romOnly : Bool := false
deriving DecidableEq, Repr

/-- Twin pairing (R372 to R375, 16_groom_and_device_life.md). -/
structure Twin where
  /-- The own incarnation, drawn at boot (Table 16-11, 16_groom_and_device_life.md); DESIGN CHOICE 0 until it is drawn. -/
  incarnation : Nat := 0
  /-- The partner's incarnation, as its Offer or Accept carried it (Table 16-11, 16_groom_and_device_life.md); DESIGN CHOICE 0. -/
  partner : Nat := 0
  /-- The partner's latest heartbeat body, bytes 16 onward (R374, 16_groom_and_device_life.md); reset none. -/
  beat : Option Bytes := none
  /-- A cross-check mismatch has been seen: heartbeat bit 2 (R374, 16_groom_and_device_life.md); reset false. -/
  mismatch : Bool := false
  /-- The departing flag of the own heartbeats (Table 16-11, 16_groom_and_device_life.md); reset false. -/
  departing : Bool := false
  /-- The failed flag of the own heartbeats (R358, 16_groom_and_device_life.md); reset false. -/
  failed : Bool := false
  /-- While the twin is silent, the first journal and log sequences not mirrored to it (R374, 16_groom_and_device_life.md);
  reset none. -/
  tail : Option (Nat × Nat) := none
deriving DecidableEq, Repr

/-- Sensors, feeds and clocks (R359 to R362, 16_groom_and_device_life.md; R395, 17_ports_clocks_and_integration.md). -/
structure Sensors where
  /-- The sensors above the warning threshold at the last sample (R360, 16_groom_and_device_life.md); reset none. -/
  warm : List Nat := []
  /-- The sensors above the trip threshold at the last sample (R360, 16_groom_and_device_life.md); reset none. -/
  tripped : List Nat := []
  /-- A trip has been acted on and some reading still lies above the warning threshold (R360, 16_groom_and_device_life.md); reset false. -/
  hot : Bool := false
  /-- The warning condition of the feed mode holds and its debounce runs (R362, 16_groom_and_device_life.md); reset false. -/
  debouncing : Bool := false
  /-- The watchdog has expired and the self-reset is due (R359, 16_groom_and_device_life.md); reset false. -/
  watchdog : Bool := false
  /-- An accepted 1 of STEPMARK makes no mark until a 0 has been accepted (R391, 17_ports_clocks_and_integration.md); reset false. -/
  markHeld : Bool := false
  /-- The STEPDONE level (R391, 17_ports_clocks_and_integration.md); reset 0. -/
  doneLevel : Nat := 0
  /-- The frames that level has held, at most 3 (R391, 17_ports_clocks_and_integration.md); DESIGN CHOICE 3. -/
  doneFrames : Nat := 3
  /-- The step whose D waits for the level (R391, 17_ports_clocks_and_integration.md); reset none. -/
  doneWaits : Option Nat := none
  /-- The C-port is stopped by a lost clock (R395, 17_ports_clocks_and_integration.md); reset false. -/
  cStopped : Bool := false
  /-- The F-port is stopped by a lost clock (R395, 17_ports_clocks_and_integration.md); reset false. -/
  fStopped : Bool := false
  /-- State writes are no longer accepted: R358, R359, R56 (16_groom_and_device_life.md); reset false. -/
  noWrites : Bool := false
deriving DecidableEq, Repr

/-- The test access port (R403 to R411, 18_freeze_test_and_fuses.md). It runs on D39, which VRESET_N does not reset (R396). -/
structure Tap where
  /-- The instruction register, IDCODE at Test-Logic-Reset (R403, 18_freeze_test_and_fuses.md); reset 0x01. -/
  ir : Nat := 0x01
  /-- The selected data register's captured value: the identification, loaded at Test-Logic-Reset (R403, R406, 18_freeze_test_and_fuses.md); reset the IDCODE of the build. -/
  dr : Nat := 0x17ED0001
  /-- Which reading of SRAM and flops a capture gives: they stand still from a freeze, or a memory test, to the next. The model's own field, no rule of the spec; DESIGN CHOICE 0. -/
  era : Nat := 0
  /-- The boundary register (R403, 18_freeze_test_and_fuses.md); DESIGN CHOICE 0. -/
  boundary : Nat := 0
  /-- The segment insertion bits: bit 0 hub, bit 1 groom, bit 2 + n slice n (R405, 18_freeze_test_and_fuses.md); DESIGN CHOICE 0. -/
  sibs : Nat := 0
  /-- The SRAM readout address register of each segment in use, keyed by segment (R406, 18_freeze_test_and_fuses.md); reset 0 (Table 18-5). -/
  readAddr : List (Nat × Nat) := []
deriving DecidableEq, Repr

/-! ### Steering (R10, 01_slices_hub_and_ticks.md) -/

/-- What a steering range holds. -/
inductive RKind where
  /-- State, first moment, row factors, column factors of a descriptor: coded (R62). -/
  | state | moment | rowF | colF
  /-- A working copy (R62). -/
  | working
  /-- The count line and the list of a list slot (R67). -/
  | count | list
  /-- A seed table (R80) and the completion area (R78). -/
  | seed | completion
  /-- The felt reservation, the elastic reserve, the felt spare (R114, R163, R170). -/
  | felt | reserve | spare
  /-- Intake windows, staging banks and result regions of a stream (R198). -/
  | intake | staging | result
  /-- The areas of a routing layer (R227): scores, dispatch and slot tables, combine output, return window. -/
  | scores | routeOut | combine | window
  /-- Anchor and sent regions of site exchange (R241). -/
  | anchor | sent
  /-- The yard: the aperture, near backing and the fence line (R258, R260, R272). -/
  | aperture | backing | fence
deriving DecidableEq, Repr

/-- A steering range: its place, what it holds, and the item it belongs to (descriptor, slot, stream, layer, entry or region). -/
structure Region where
  base : Nat
  size : Nat
  kind : RKind
  item : Nat
deriving DecidableEq, Repr

/-! ### The mould and the pass (03_moulds_and_the_optimiser_pass.md) -/

/-- A tensor descriptor in use (Table 3-2), taken apart. -/
structure Desc where
  num : Nat
  tid : Nat
  sfmt : Nat
  wfmt : Nat
  gfmt : Nat
  form : Nat
  f : Nat
  s1 : Int
  s2 : Int
  umode : Nat
  mmode : Nat
  wmode : Nat
  hset : Nat
  rows : Nat
  cols : Nat
  base : Nat
  mbase : Nat
  rbase : Nat
  cbase : Nat
  wbase : Nat
  sparse : Bool
  work : Bool
  decay : Bool
  stream : Nat
  amul : Int
deriving DecidableEq, Repr

/-- A hyperparameter set (Table 3-4). -/
structure HSet where
  b1 : Nat
  b2 : Nat
  aLam : Int
  aEps : Int
  sched : Nat
deriving DecidableEq, Repr

/-- A list slot in use (R67). -/
structure Slot where
  num : Nat
  count : Nat
  list : Nat
  max : Nat
deriving DecidableEq, Repr

/-- One operation: opcode, A, B (R65). -/
structure Op where
  code : Nat
  a : Nat
  b : Nat
deriving DecidableEq, Repr

/-- A loaded mould: what a load takes into use (R58, R59). -/
structure Mould where
  descs : List Desc
  sets : List HSet
  /-- Schedule entries (from step, learning-rate log) up to the one marked last. -/
  scheds : List (List (Nat × Int))
  slots : List Slot
  ops : List Op
  seedA : Nat
  seedB : Nat
  seedN : Nat
  compl : Nat
deriving DecidableEq, Repr

/-- One piece of the pass's work, in mould order: an update of a descriptor, an EMA, or a CURSOR. -/
inductive Work where
  | update (d : Nat)
  | ema (src dst : Nat)
  | cursor (d inc : Nat)
deriving DecidableEq, Repr

/-- A tensor whose optimiser work has started (R25, R70, R76). -/
structure TPass where
  work : Work
  /-- By slice, the position of its next line in the tensor's lines: the own ones, then those of adopted pieces (R165). -/
  cursors : List Nat
  /-- By slice, the working-copy partial sums of the lanes and of the write checker (R76). -/
  sums : List (Nat × Nat)
  /-- A form-2 tensor's turn among the form-2 updates of the step, from 1 (R86); 0 for any other work. -/
  turn : Nat
  /-- A CURSOR's words as one number, as its first line met them: member, number (Table 3-6). -/
  below : List (Nat × Nat)
deriving DecidableEq, Repr

/-- A report that a step makes once, with its count (R36, R54, R71, R72, R117): its event, what it is about (a tensor id, or the
first address), and the count so far. -/
structure Tally where
  code : Nat
  about : Nat
  count : Nat
deriving DecidableEq, Repr

/-- A line of a factor vector computed and not yet written: descriptor, address, words (R30, R75). -/
structure FLine where
  desc : Nat
  addr : Nat
  words : List Nat
deriving DecidableEq, Repr

/-- The pass (R23 to R31, 01_slices_hub_and_ticks.md; R66 to R78, 03_moulds_and_the_optimiser_pass.md). -/
structure Pass where
  /-- The loaded mould (R59, 03_moulds_and_the_optimiser_pass.md); reset none. -/
  mould : Option Mould := none
  /-- The pass of the step in 0x3181.01 runs (R23, 01_slices_hub_and_ticks.md); reset false. -/
  running : Bool := false
  /-- D of the step in 0x3181.02 counts as asserted and a mark may be accepted (R23, R24, 01_slices_hub_and_ticks.md); reset false. -/
  armed : Bool := false
  /-- A tick has come since D(s − 1), so the pass may write (R24, 01_slices_hub_and_ticks.md); reset false. -/
  ticked : Bool := false
  /-- The couch budget of the open epoch is reached (R30, 01_slices_hub_and_ticks.md); reset false. -/
  full : Bool := false
  /-- The couch payload charged in the open epoch (R30, 01_slices_hub_and_ticks.md); reset 0. -/
  charged : Nat := 0
  /-- The epochs of this pass in which the budget was reached (0x8318.07, 01_slices_hub_and_ticks.md); reset 0. -/
  paced : Nat := 0
  /-- The hub time at which the mark was accepted (0x8318.05, 01_slices_hub_and_ticks.md); reset 0. -/
  markAt : Nat := 0
  /-- The entries read from each list slot at the mark (R67, 03_moulds_and_the_optimiser_pass.md); reset none. -/
  lists : List (Nat × List Nat) := []
  /-- Work of the step not yet started, in mould order (R25, 01_slices_hub_and_ticks.md); reset none. -/
  todo : List Work := []
  /-- Tensors started and not yet complete (R70, R76, 03_moulds_and_the_optimiser_pass.md); reset none. -/
  live : List TPass := []
  /-- Tensors complete, whose completion word waits (R78, 03_moulds_and_the_optimiser_pass.md); reset none. -/
  done : List Nat := []
  /-- Descriptors whose completion word holds this step (R78, 03_moulds_and_the_optimiser_pass.md); reset none. -/
  worded : List Nat := []
  /-- Form-2 descriptors whose factors of this step are computed: number, LA17 rows, columns and total (R75, 03_moulds_and_the_optimiser_pass.md); reset none. -/
  factors : List (Nat × List Int × List Int × Int) := []
  /-- The row and column factors of this step's form-2 descriptors as they stood before it (R75, 03_moulds_and_the_optimiser_pass.md); reset none. -/
  factorOld : List (Nat × List Int × List Int) := []
  /-- Factor lines computed and not yet written (R30, 01_slices_hub_and_ticks.md; R75, 03_moulds_and_the_optimiser_pass.md); reset none. -/
  due : List FLine := []
  /-- The form-2 updates of this step that have started or been left out (R86, 04_outer_product_arrays.md); reset 0. -/
  turns : Nat := 0
  /-- Per descriptor the step that last derived its working copy (R296, 13_stables_and_stored_data.md); reset none, 0. -/
  derived : List (Nat × Nat) := []
  /-- The commit hold of R134 has been counted for this pass (06_couching_epochs_and_the_deckle.md); reset false. -/
  commitHeld : Bool := false
  /-- Events 0x2102, 0x2103, 0x2107 reported in this step (R68, R69): their codes; reset none. -/
  once : List Nat := []
  /-- What events 0x2001, 0x2004, 0x2104, 0x2108 and 0x3007 will report of this step at its end (R36, 02_state_and_number_formats.md; R71, 03_moulds_and_the_optimiser_pass.md; R117, 05_code_groups_and_placement.md); reset none. -/
  tally : List Tally := []
  /-- Per form-2 descriptor the square-sum accumulators: number, rows, columns (R74, 03_moulds_and_the_optimiser_pass.md); reset none. -/
  squares : List (Nat × List Nat × List Nat) := []
  /-- The weight import in progress: descriptor, format, source base (R419, 03_moulds_and_the_optimiser_pass.md); reset none. -/
  importing : Option (Nat × Nat × Nat) := none
deriving DecidableEq, Repr

/-! ### Outer-product arrays (04_outer_product_arrays.md) -/

/-- Where an array stands in its activity ramp (Table 4-5). -/
inductive Ramp where
  /-- The clock is gated, no column is enabled. -/
  | gated
  /-- 32 columns are enabled and work is in hand. -/
  | running
  /-- 32 columns are enabled, the hold of H cycles runs. -/
  | hold
  /-- The stop ramp runs. -/
  | stopping
deriving DecidableEq, Repr

/-- One outer-product array of a slice. -/
structure Arr where
  /-- The 48-bit accumulators, row-major, once a job has cleared them (R89, 04_outer_product_arrays.md); DESIGN CHOICE none. -/
  acc : List Int := []
  /-- The log result latches, row-major, once a tile has filled them (R84, 04_outer_product_arrays.md); DESIGN CHOICE none. -/
  lat : List Int := []
  /-- The check row, a residue mod 3 for each column (R93, 04_outer_product_arrays.md); DESIGN CHOICE none. -/
  chkRow : List Int := []
  /-- The check column, a residue mod 3 for each row (R93, 04_outer_product_arrays.md); DESIGN CHOICE none. -/
  chkCol : List Int := []
  /-- It stands in MAC mode, not in log mode (R91, 04_outer_product_arrays.md); DESIGN CHOICE false. -/
  mac : Bool := false
  /-- Where its clock stands (R92, 04_outer_product_arrays.md); reset gated. -/
  ramp : Ramp := .gated
  /-- The columns of cells enabled, 0 to 32 (R92, 04_outer_product_arrays.md); reset 0. -/
  cols : Nat := 0
deriving DecidableEq, Repr

/-- What a log bank in use holds: its words stand in the operand SRAM (Tables 4-1, 4-2). -/
structure Bank where
  desc : Nat
  /-- The turn of its tensor among the form-2 updates of the step, from 1 (R86). -/
  turn : Nat
deriving DecidableEq, Repr

/-- A MAC job, with the operand vectors that the exchange engine has given it and keeps until its readout (R90, R94). -/
structure MacJob where
  word : Nat
  x0 : List (List Int)
  x1 : List (List Int)
  y : List (List Int)
deriving DecidableEq, Repr

/-- A row of 32 results in the drain buffer, as LA17 words: the tensor's turn, the row, the column block (R87). -/
structure Drained where
  turn : Nat
  row : Nat
  cb : Nat
  words : List Nat
deriving DecidableEq, Repr

/-- The arrays of one slice. -/
structure ArraySlice where
  slice : Nat
  /-- Array 0. -/
  arr0 : Arr := {}
  /-- Array 1. -/
  arr1 : Arr := {}
  /-- Log banks 0 and 1, while in use (R85, R86, 04_outer_product_arrays.md); reset none. -/
  bank0 : Option Bank := none
  bank1 : Option Bank := none
  /-- The drain buffer, at most 64 rows (R87, 04_outer_product_arrays.md); reset none. -/
  drain : List Drained := []
  /-- The MAC jobs accepted and not read out, the first one in hand (R90, R91, 04_outer_product_arrays.md); reset none. -/
  jobs : List MacJob := []
  /-- The job in hand has started: its accumulators are cleared (R89, 04_outer_product_arrays.md); reset false. -/
  started : Bool := false
  /-- The updates that the job in hand has made (R89, 04_outer_product_arrays.md); reset 0. -/
  upd : Nat := 0
  /-- The job in hand is paused for log tiles (R91, 04_outer_product_arrays.md); reset false. -/
  paused : Bool := false
deriving DecidableEq, Repr

/-- The arrays of all slices. -/
structure Arrays where
  /-- The slices whose arrays hold anything, by slice (R83, 04_outer_product_arrays.md); reset none. -/
  slices : List ArraySlice := []
  /-- The second in which event 0x2202 was last reported, plus 1 (Table 4-6, 04_outer_product_arrays.md); reset 0. -/
  limited : Nat := 0
  /-- The tensor's cells counted in 0x8220.02 and 0x8220.03 at this step: tensor id, underflows, cuts (R84, 04_outer_product_arrays.md); reset none. -/
  ranges : List (Nat × Nat × Nat) := []
  /-- The form-2 updates of this step whose factors have been broadcast and which have not started: descriptor, turn (R86, 04_outer_product_arrays.md); reset none. -/
  cast : List (Nat × Nat) := []
  /-- What the slices have told the site-exchange engine, oldest first: slice, tag, and whether the job was refused (R90, 04_outer_product_arrays.md); reset none. -/
  told : List (Nat × Nat × Bool) := []
deriving DecidableEq, Repr

/-! ### Placement, couching and membership (05, 06, 07) -/

/-- Why a write is held (R380). -/
inductive Why where
  /-- The delta reserve is empty (R123). -/
  | reserve
  /-- A rushed entry has not left (R124). -/
  | rush
  /-- The sweep of a round has yet to pass the line (Table 11-2). -/
  | sweep
  /-- Overrun, outstanding limit, cut, accepted proposal or quiet commit (R139, R140, R142, R153). -/
  | couch
  /-- The delta log lacks room (R159). -/
  | dlog
  /-- The snapshot seal, until the hub releases it (R182). -/
  | seal
  /-- The copy-on-write reserve is empty (R184). -/
  | cow
  /-- An intake write that waits for t(s) or for its bank (R202, R203). -/
  | intake
  /-- A repair entry is open on the line (R295). -/
  | repair
  /-- It waits for room in the hold queue and keeps its credit (R380). -/
  | queue
deriving DecidableEq, Repr

/-- A write that is not a host request and waits at a line of memory: its slice, why it is held and since when (R123, R124, R139,
R159, R184): of the pass, of the yard, or of a correction. -/
structure Wait where
  addr : Nat
  slice : Nat
  why : Why
  since : Nat
deriving DecidableEq, Repr

/-- A piece that this member holds as stand-in (R163, 07_loss_rebuild_and_membership.md; object 0x3202.01). -/
structure Piece where
  /-- The lost member. -/
  src : Nat
  /-- 0 data, 1 parity. -/
  kind : Nat
  /-- Band or parity index. -/
  idx : Nat
  group : Nat
  /-- Offset within the elastic reserve. -/
  off : Nat
deriving DecidableEq, Repr

/-- A coded line: the member whose state it is, its space (0 W, 1 N), its line number (R102, R163). -/
structure LineId where
  src : Nat
  space : Nat
  line : Nat
deriving DecidableEq, Repr

/-- A capture entry (R122). -/
structure Entry where
  id : LineId
  epoch : Nat
  deltas : List Int
  /-- Bit 0 pass, bit 1 host S-port write, bit 2 yard store or atomic (Table 7-6). -/
  sources : Nat
  /-- Put at the head of the couch queue (R124). -/
  rushed : Bool
deriving DecidableEq, Repr

/-- A data frame of an own stream that some holder has not acknowledged (R127). -/
structure OutFrame where
  group : Nat
  role : Nat
  /-- It goes in a target stream of a re-striping (R171). -/
  tgt : Bool
  seq : Nat
  epoch : Nat
  f : Bytes
  fill : Bool
  eoe : Bool
  /-- Parity indices to which it has been sent. -/
  sent : List Nat
  /-- Parity indices that have acknowledged it. -/
  acked : List Nat
deriving DecidableEq, Repr

/-- An own stream (R127). -/
structure OutStream where
  group : Nat
  role : Nat
  tgt : Bool
  next : Nat
  /-- The next epoch whose end-of-epoch frame is to be sent. -/
  close : Nat
  /-- Per parity index, the hub time of the last acknowledgement (R141). -/
  heard : List Nat
deriving DecidableEq, Repr

/-- What a holder has applied of a stream (Table 6-3). -/
structure InStream where
  src : Nat
  group : Nat
  tgt : Bool
  /-- The sequence after the cumulative one. -/
  next : Nat
  /-- Bit b: the frame numbered next + b has been applied. -/
  bitmap : Nat
deriving DecidableEq, Repr

/-- A vat line (R131): of the felt that this holder keeps for a group. -/
structure VatLine where
  group : Nat
  tgt : Bool
  bank : Nat
  space : Nat
  line : Nat
  vals : List Nat
deriving DecidableEq, Repr

/-- The highest values received in epoch-done notices from a member (R132). -/
structure Notice where
  dev : Nat
  couched : Nat
  bstep : Nat
  bepoch : Nat
  departed : Bool
deriving DecidableEq, Repr

/-- Couching (06_couching_epochs_and_the_deckle.md). -/
structure Couch where
  /-- The capture entries (R122); reset none. -/
  entries : List Entry := []
  /-- Frames some holder has not acknowledged, oldest first (R127); reset none. -/
  out : List OutFrame := []
  /-- The own streams (R127); reset none. -/
  streams : List OutStream := []
  /-- The streams received as holder (R130); reset none. -/
  ins : List InStream := []
  /-- The vat lines (R131); reset none. -/
  vats : List VatLine := []
  /-- Notices by member (R132); reset none. -/
  notices : List Notice := []
  /-- The latest own epoch-done notice (R132); reset none. -/
  own : Option Bytes := none
  /-- The epoch of each recent own step-done: step, boundary epoch, newest first (R28, R132); reset none. -/
  bounds : List (Nat × Nat) := []
  /-- The commit whose fold runs (R133); reset none. -/
  folding : Option Nat := none
  /-- The member is in overrun, and since when (R139); reset none. -/
  overrun : Option Nat := none
  /-- New coded writes are held for outstanding payload (R140); reset false. -/
  limitHold : Bool := false
  /-- The own couched epoch plus 1, that is the number of epochs couched since epoch 0 (R132); reset 0. -/
  couchedTo : Nat := 0
  /-- The fill reads still due, space W then N, by extended own line (R118); reset none. -/
  fill : List LineId := []
  /-- The flush: its t0 and cut epoch, once begun (R143); reset none. -/
  flush : Option (Nat × Nat) := none
  /-- Frames dropped in the second last reported, by event code and source (R129); reset none. -/
  limited : List (Nat × Nat × Nat) := []
  /-- Deltas packed in their couch stream that their target stream still owes (R171, 07_loss_rebuild_and_membership.md); reset none. -/
  tgtDue : List Entry := []
  /-- 0x8310.06 at the beginning of the flush (R143); reset 0. -/
  paid : Nat := 0
  /-- The lines whose rushed entry has been handed over and whose frame has not left, with the entry's epoch (R124); reset none. -/
  rushing : List (LineId × Nat) := []
  /-- Data frames whose terms and acknowledgement wait for a fold or a repair, oldest first; true for a target stream (R133, R169);
  reset none. -/
  withheld : List (Bool × Bytes) := []
  /-- The writes of the pass, of the yard and of corrections that are held, at most one a line; reset none. -/
  waits : List Wait := []
deriving DecidableEq, Repr

/-- A delta-log record (R159, Table 7-6), with the window its epoch belongs to. -/
structure DRec where
  id : LineId
  epoch : Nat
  window : Nat
  sources : Nat
  deltas : List Int
deriving DecidableEq, Repr

/-- A control record of the journal (Table 7-4). -/
structure JRec where
  ty : Nat
  halter : Nat
  seq : Nat
  time : Nat
  body : Bytes
deriving DecidableEq, Repr

/-- What a Join request told of a unit (R173, R174, Table 7-2). -/
structure JoinReq where
  dev : Nat
  twin : Nat
  late : Bool
  linesW : Nat
  linesN : Nat
  free : Nat
deriving DecidableEq, Repr

/-- A proposal (R152, Table 7-2). -/
structure Proposal where
  num : Nat
  kind : Nat
  sender : Nat
  members : List Nat
  lost : List Nat
  quiet : Nat
deriving DecidableEq, Repr

/-- An Accept collected by the lead (Table 7-2). -/
structure AcceptRec where
  dev : Nat
  current : Nat
  committed : Nat
  lastDone : Nat
  free : Nat
deriving DecidableEq, Repr

/-- A Ready collected by the lead (Table 7-2). -/
structure ReadyRec where
  dev : Nat
  phase : Nat
  verdict : Nat
  window : Nat
  groups : Nat
deriving DecidableEq, Repr

/-- A suspect at the lead (R150, R151). -/
structure SuspectRec where
  dev : Nat
  /-- The cause of the report. -/
  cause : Nat
  /-- When it was reported, hub time. -/
  since : Nat
  /-- Twin waits still to pass before the third case of R151 declares it. -/
  waits : Nat
  /-- A twin report of status 1 has postponed it. -/
  postponed : Bool
deriving DecidableEq, Repr

/-- A role of a lost member and its stand-in (R164): the member lost, and the member whose shard the role is of, which is another
where the member lost was itself a stand-in. -/
structure StandIn where
  lost : Nat
  src : Nat
  group : Nat
  off : Nat
  dev : Nat
deriving DecidableEq, Repr

/-- A line image received for a rebuild (R166). -/
structure Image where
  group : Nat
  space : Nat
  stripe : Nat
  role : Nat
  vals : List Nat
deriving DecidableEq, Repr

/-- The lines of an adopted data piece that a switch has made lines of the own spaces (R170, R172). -/
structure Absorbed where
  space : Nat
  base : Nat
  size : Nat
  /-- The member whose state they were, and the number of the first of them in its space. -/
  src : Nat
  first : Nat
  /-- Where the working words of the first W line stand. -/
  work : Nat
deriving DecidableEq, Repr

/-- Membership, the journal and rebuild (07_loss_rebuild_and_membership.md). -/
structure Member where
  /-- The current members, ascending (R146; object 0x3200.04); reset none. -/
  members : List Nat := []
  /-- When each member was last heard (R150); reset none. -/
  heard : List (Nat × Nat) := []
  /-- The members this unit has itself reported as suspect (R147); reset none. -/
  suspected : List Nat := []
  /-- The suspects reported to this unit as lead (R151); reset none. -/
  suspects : List SuspectRec := []
  /-- The members declared lost and not yet out of the list (R151); reset none. -/
  lost : List Nat := []
  /-- Lost members whose shard stand-ins hold (R174); reset none. -/
  dead : List Nat := []
  /-- The Join requests received, by unit (R173); reset none. -/
  joins : List JoinReq := []
  /-- A Join request is repeated (R173, R174); reset false. -/
  joining : Bool := false
  /-- The proposal accepted (R153); reset none. -/
  accepted : Option Proposal := none
  /-- The hub time at which it was accepted (R157); reset 0. -/
  acceptedAt : Nat := 0
  /-- The own proposal as lead, and the hub time it was first sent (R152); reset none. -/
  proposal : Option Proposal := none
  /-- The hub time of the own proposal (0x8320.0E); reset 0. -/
  proposedAt : Nat := 0
  /-- The Accepts for the own proposal (R154); reset none. -/
  accepts : List AcceptRec := []
  /-- The Readys for the change in hand (R154, R157); reset none. -/
  readies : List ReadyRec := []
  /-- The line counts of each unit: id, space W, space N (R103); reset none. -/
  counts : List (Nat × Nat × Nat) := []
  /-- The deal order of the placement in use (R108); reset none. -/
  order : List Nat := []
  /-- The groups in use, in role order, stand-ins included (R108, R164); reset none. -/
  groups : List (List Nat) := []
  /-- The groups and the band lengths of the target of a re-striping (R170); reset none. -/
  target : List (List Nat) := []
  /-- The band lengths of that target in the two spaces (R170); reset 0. -/
  targetW : Nat := 0
  targetN : Nat := 0
  /-- The groups and the pieces as the last Release left them, from which stand-ins are chosen again after a further loss
  (Table 7-3); reset none. -/
  relGroups : List (List Nat) := []
  /-- The pieces of the elastic reserve as the last Release left them (Table 7-3); reset none. -/
  relPieces : List Piece := []
  /-- The stand-ins, the lost members whose shards they hold, the holders of the shards and the deal order as the last Release left
  them (Table 7-3); reset none. -/
  relStandIns : List StandIn := []
  /-- As relStandIns; reset none. -/
  relDead : List Nat := []
  /-- As relStandIns; reset none. -/
  relShards : List (Nat × Nat × List Nat) := []
  /-- As relStandIns; reset none. -/
  relOrder : List Nat := []
  /-- The members lost since the last Release (Table 7-3); reset none. -/
  lostNow : List Nat := []
  /-- Every role that a stand-in holds (R164); reset none. -/
  standIns : List StandIn := []
  /-- The pieces this unit holds (R163; object 0x3202.01); reset none. -/
  pieces : List Piece := []
  /-- The lines of adopted data pieces that a switch has made lines of the own spaces: space, base, bytes (R170, R172); reset none. -/
  absorbed : List Absorbed := []
  /-- The places of the elastic reserve that absorbed pieces take: offset, bytes (R172); reset none. -/
  kept : List (Nat × Nat) := []
  /-- The delta log, newest first (R159); reset none. -/
  dlog : List DRec := []
  /-- The newest control records, newest first (R158); reset none. -/
  journal : List JRec := []
  /-- The sequence of the next control record (Table 7-4 gives no first value); DESIGN CHOICE 0. -/
  jnext : Nat := 0
  /-- The partner's mirrored control records, newest first (R158); reset none. -/
  mirror : List JRec := []
  /-- The cut in force: its committed step, its change kind and when it was adopted (R156); reset none. -/
  cut : Option (Nat × Nat × Nat) := none
  /-- The fill of the first membership runs, until its Release (R118, R119, R173); reset false. -/
  filling : Bool := false
  /-- The last step done before the last cut (R162); reset 0. -/
  doneBeforeCut : Nat := 0
  /-- The undone extents of the last rollback (R161); reset none. -/
  undone : List (Nat × Nat) := []
  /-- Rollback still to finish (R161): the step it goes back to; reset none. -/
  rolling : Option Nat := none
  /-- Records of the rollback that wait for a stall to save their lines in (R161, R184); reset none. -/
  owed : List DRec := []
  /-- Rebuild reads that wait for the own rollback (R166): their frames; reset none. -/
  reads : List Bytes := []
  /-- As decode point: the stripes still to solve, as (group, space, stripe) (R166); reset none. -/
  decode : List (Nat × Nat × Nat) := []
  /-- The images received for them (R166); reset none. -/
  images : List Image := []
  /-- As stand-in or joiner: the lines still to come, as (group, space, stripe, role) (R168); reset none. -/
  awaited : List (Nat × Nat × Nat × Nat) := []
  /-- The groups with a failed stripe that this unit decoded (R168); reset 0. -/
  failed : Nat := 0
  /-- Lines this unit has rebuilt in the change in hand (Table 7-2); reset 0. -/
  rebuilt : Nat := 0
  /-- Re-striping fill reads still due (R171); reset none. -/
  refill : List LineId := []
  /-- The window of the last re-striping fill read (R171); reset 0. -/
  refillWindow : Nat := 0
  /-- Who holds each shard: shard id, the member whose data roles hold it, its holders, the stand-ins of that member's data roles in band order once it is lost (R197, R212); reset none. -/
  shards : List (Nat × Nat × List Nat) := []
  /-- Stale notices sent: to whom, when (R149); reset none. -/
  stale : List (Nat × Nat) := []
deriving DecidableEq, Repr

/-! ### The deep tiers (08_flash_and_shared_store.md) -/

/-- A snapshot at this member, from its order to its report (R181 to R185). -/
structure Snap where
  number : Nat
  step : Nat
  /-- 0 image only; 1 image and export; 2 evaluation export. -/
  export_ : Nat
  /-- 0 ordered; 1 sealing; 2 copying; 3 completing. -/
  phase : Nat
  bEpoch : Nat
  sealAt : Nat
  pause : Nat
  /-- The slices armed (R182). -/
  armed : List Nat
  /-- Per slice, the next line in space W then N (R183). -/
  cursors : List Nat
  /-- Saved lines: slice, space, line, the old bytes (R183). -/
  saved : List (Nat × Nat × Nat × Bytes)
  /-- Lines whose saved copy has been taken into the image ahead of the cursor. -/
  taken : List (Nat × Nat)
  /-- The time writes were held by R184, ns. -/
  heldNs : Nat
  /-- The image built so far, by byte offset from its header (R187). -/
  img : List Host.Cell
  /-- The slot written (R178). -/
  slot : Nat
  /-- What the header takes at the seal: halter number, service time, count, settings key, provenance digest, member list. -/
  head : Bytes
  /-- The line counts of spaces W and N at the seal, and their watermarks (R188). -/
  linesW : Nat
  linesN : Nat
  wmW : Nat
  wmN : Nat
  /-- The slot's step and state before this snapshot took it (R178). -/
  was : Nat × Nat
  /-- The mean pass time of the 8 steps before the seal, and the time by which later passes exceeded it, ns (R180). -/
  mean : Nat
  excess : Nat
  /-- The whole image in bytes, once the window sections are written (R185); 0 before. -/
  bytes : Nat
  /-- The header block, then the trailer block, with their places, while the blocks before them are still being written (R185). -/
  parts : List (Nat × Bytes)
deriving DecidableEq, Repr

/-- An export in progress (R189): the image it is taken from, its slot and bytes; it is written once the image has been read. -/
structure Export where
  snap : Snap
  slot : Nat
  bytes : Nat
  writing : Bool
deriving DecidableEq, Repr

/-- A restore candidate (R193). -/
structure Cand where
  dev : Nat
  shard : Nat
  /-- 0 memory, 1 flash, 2 staged export. -/
  src : Nat
  slot : Nat
  r : Nat
  step : Nat
  /-- The first 8 bytes of the member-list digest (Table 8-1). -/
  digest : Nat
deriving DecidableEq, Repr

/-- The deep-tier function. -/
structure Tiers where
  /-- The snapshot in hand (R181); reset none. -/
  snap : Option Snap := none
  /-- The export in progress (R189); reset none. -/
  exporting : Option Export := none
  /-- As lead: the last order's number, hub time and step counter (R179, R181); reset 0. -/
  orderNum : Nat := 0
  orderAt : Nat := 0
  orderStep : Nat := 0
  /-- As lead: members whose report of the last order is still to come (R179); reset none. -/
  awaited : List Nat := []
  /-- As lead: the largest cost of the order in hand, then of the last completed orders, newest first (R180); reset none. -/
  costs : List Nat := []
  /-- Deferred triggers, by reason, with the export field to order (R179, R191); reset none. -/
  deferred : List (Nat × Nat) := []
  /-- The last pass times, newest first (R180); reset none. -/
  passTimes : List Nat := []
  /-- The service time behind 0x3301.07, ns (R180, 08_flash_and_shared_store.md); reset 0. -/
  serviceNs : Nat := 0
  /-- Images complete since the function started, for the nth export (R189); reset 0. -/
  images : Nat := 0
  /-- The blocks that could not be read for the candidates of a restore: first block and count (R186, R192); reset none. -/
  missed : List (Nat × Nat) := []
  /-- Inventories held: unit, its candidates (R192); reset none. -/
  inventories : List (Nat × List Cand) := []
  /-- Candidates removed by a rejection (R194); reset none. -/
  removed : List Cand := []
  /-- The restore order in hand: T, outcome, the picks (R194); reset none. -/
  order : Option (Nat × Nat × List Cand) := none
  /-- Shards reported loaded (R194); reset none. -/
  loaded : List Nat := []
  /-- The service time and the beyond-tolerance count in the header of the image loaded (R194); reset 0. -/
  header : Nat × Nat := (0, 0)
  /-- The bytes read for the candidate being loaded, and how many are due (R194); reset none. -/
  reading : Option (Cand × Nat) := none
deriving DecidableEq, Repr

/-! ### Exact gradient reduction (09_exact_gradient_reduction.md) -/

/-- What names a chunk on the wire (Table 9-3): its step, its stream (0x100 + L for routing layer L), whether it belongs to a
counts phase, whether it is a stage-2 chunk, its number. -/
structure CKey where
  step : Nat
  stream : Nat
  counts : Bool
  stage2 : Bool
  chunk : Nat
deriving DecidableEq, Repr

/-- The contributions of a stream at a step (R199, R208, R216). -/
structure RStep where
  stream : Nat
  step : Nat
  /-- The grain tally of this contributor. -/
  tally : Nat
  /-- Chunks below it are released. -/
  released : Nat
  /-- The next chunk to send at attempt 0. -/
  next : Nat
  /-- A sparse stream's n_x, once its counts chunks are final. -/
  counts : Option (List Nat)
  /-- When the first chunk was released, hub time. -/
  firstAt : Nat
  /-- A sparse stream's counts phase has been sent (R216). -/
  asked : Bool
deriving DecidableEq, Repr

/-- The latest contribution sent for a chunk (R208, R217); `vals` for the counts phases, whose words no staging bank holds. -/
structure Sent where
  key : CKey
  attempt : Nat
  sentAt : Nat
  vals : List Int
deriving DecidableEq, Repr

/-- A chunk at a receiver (R213, R214, R218). -/
structure RRes where
  key : CKey
  /-- The latest attempt received or tainted. -/
  attempt : Nat
  /-- 0 waits for a later attempt; 1 checked; 2 final. -/
  st : Nat
  /-- A late taint waits for the next attempt (R219). -/
  late : Bool
  /-- The result is in its result bank (R204). -/
  banked : Bool
  /-- The result of an adopted segment stands in a stall of the member-mode reserve (R204). -/
  stall : Bool
  vals : List Int
  grains : Nat
  peak : Int
  sat : Nat
  nonfin : Nat
deriving DecidableEq, Repr

/-- A chunk that this unit sums as its home (R210). -/
structure HomeSlot where
  key : CKey
  attempt : Nat
  e : Nat
  fmt : Nat
  /-- Indices seen. -/
  seen : List Nat
  /-- The exact sum. -/
  sum : List Int
  grains : Nat
  peak : Int
  sat : Nat
  nonfin : Nat
  ra : Nat
  rb : Nat
  /-- Flag bit 0 of the contributions, ORed, and their c, added (R209). -/
  wrap : Bool
  c : Nat
deriving DecidableEq, Repr

/-- A peak notice held (Table 9-4). -/
structure PeakRec where
  step : Nat
  stream : Nat
  seg : Nat
  tid : Nat
  peak : Int
  nonfin : Nat
deriving DecidableEq, Repr

/-- The reduction function. -/
structure Red where
  /-- Grain tally and release cursor of the open intake step, by stream (R198, R199, 09_exact_gradient_reduction.md); reset none, both 0. -/
  ctl : List (Nat × Nat × Nat) := []
  /-- The contributions of steps not committed (R203, R208, 09_exact_gradient_reduction.md); reset none. -/
  steps : List RStep := []
  /-- The latest contribution sent for each chunk (R208, 09_exact_gradient_reduction.md); reset none. -/
  sent : List Sent := []
  /-- The chunks at this receiver (R213, 09_exact_gradient_reduction.md); reset none. -/
  res : List RRes := []
  /-- The chunks summed as home (R210, 09_exact_gradient_reduction.md); reset none. -/
  homes : List HomeSlot := []
  /-- Peak notices of steps not committed, the own ones included (R202, 09_exact_gradient_reduction.md); reset none. -/
  peaks : List PeakRec := []
  /-- Intake exponents: step, descriptor, t (R201, 09_exact_gradient_reduction.md); reset none. -/
  exps : List (Nat × Nat × Int) := []
  /-- Reduced peaks: step, descriptor, P (R202, 09_exact_gradient_reduction.md); reset none. -/
  pks : List (Nat × Nat × Int) := []
  /-- Tensors that the non-finite policy leaves out: step, descriptor (R215, 09_exact_gradient_reduction.md); reset none. -/
  skips : List (Nat × Nat) := []
  /-- Those whose skip has been counted (R215, 09_exact_gradient_reduction.md); reset none. -/
  counted : List (Nat × Nat) := []
  /-- The declared scopes in effect, as 0x4003.01 stood at the last accepted mark (R220, 09_exact_gradient_reduction.md); reset none. -/
  scope : Bytes := []
  /-- Frames to this unit itself, waiting to be taken (R210, R217, 09_exact_gradient_reduction.md); reset none. -/
  loop : List Bytes := []
deriving DecidableEq, Repr

/-! ### Expert routing (10_expert_routing_support.md) -/

/-- A choice of a call: local token, rank, the expert it now names, its slot, flags of Table 10-4. -/
structure Choice where
  tok : Nat
  rank : Nat
  expert : Nat
  /-- The slot, when kept. -/
  slot : Option Nat
  flags : Nat
  /-- The weight of R230, when kept. -/
  weight : Int
deriving DecidableEq, Repr

/-- A call from its release to its combine (R228 to R236). -/
structure Call where
  layer : Nat
  step : Nat
  num : Nat
  /-- Its place in the running count of the layer's calls in the job. -/
  idx : Nat
  /-- Token base and token count read at the release. -/
  base : Nat
  count : Nat
  /-- The round in hand; its counts are being reduced. -/
  round : Nat
  /-- Slots of each expert taken so far. -/
  used : List Nat
  /-- The choices, by token and rank. -/
  choices : List Choice
  /-- The choices of the round in hand: positions in `choices`. -/
  pend : List Nat
  /-- Experts that each token has chosen or tried: token, expert. -/
  tried : List (Nat × Nat)
  /-- The call is allotted. -/
  allotted : Bool
  /-- The combine cursor has passed it. -/
  passed : Bool
  /-- The combine has begun: the accumulators are zeroed. -/
  begun : Bool
  /-- Mode 0: the loads of rows not yet added: position of the choice, start and length within the row, the bytes once answered. -/
  loads : List (Nat × Nat × Nat × Option Bytes)
  /-- Mode 1: elements that have arrived, as (token × k_r + rank) × d_h + element. -/
  arrived : List Nat
  /-- Tokens whose row is written as NaN. -/
  nanRows : List Nat
  /-- Events of this call already reported. -/
  once : List Nat
  /-- The entry of its routing group under which it runs to its end (Table 10-6). -/
  group : Bytes
deriving DecidableEq, Repr

/-- A release whose call has not begun (R228): what the release read, the step and the number it fixed. -/
structure Released where
  layer : Nat
  base : Nat
  count : Nat
  step : Nat
  num : Nat
  /-- Its place in the running count of the layer's calls in the job. -/
  idx : Nat
  /-- The function was DRAINING: deferred for good (Table 16-3). -/
  never : Bool
deriving DecidableEq, Repr

/-- The routing function. -/
structure Route where
  /-- Calls released and not yet combined (R228, 10_expert_routing_support.md); reset none. -/
  calls : List Call := []
  /-- The release cursor last taken, by layer (R228, 10_expert_routing_support.md); reset none, 0. -/
  released : List (Nat × Nat) := []
  /-- The combine cursor last taken, by layer (R236, 10_expert_routing_support.md); reset none, 0. -/
  combineTo : List (Nat × Nat) := []
  /-- Releases deferred because their buffer is busy (R228, 10_expert_routing_support.md), in order; reset none. -/
  deferred : List Released := []
  /-- Calls released in the open step: layer, step, count (R228, 10_expert_routing_support.md); reset none. -/
  inStep : List (Nat × Nat × Nat) := []
  /-- Experts touched by calls of each step: layer, step, expert (R237, 10_expert_routing_support.md); reset none. -/
  touched : List (Nat × Nat × Nat) := []
  /-- The routing groups in effect, as 0x4102.01 stood at the last accepted mark (R225, 10_expert_routing_support.md); reset none. -/
  groups : Bytes := []
  /-- Calls allotted and combined of each layer at the last call of each step: layer, step, allotted, combined, release cursor,
  combine cursor (Table 10-6, 10_expert_routing_support.md); reset none. -/
  marks : List (Nat × Nat × Nat × Nat × Nat × Nat) := []
deriving DecidableEq, Repr

/-! ### Exchange between sites (11_site_exchange.md) -/

/-- A set of packets of a block not yet decoded (R247, R248); `anchor` for an anchor transfer (R256). -/
structure XSet where
  anchor : Bool
  site : Nat
  shard : Nat
  round : Nat
  block : Nat
  /-- Payload length in bytes. -/
  len : Nat
  set : Nat
  /-- k' data packets and m_l parity packets. -/
  k : Nat
  m : Nat
  /-- The packets held, by index, as symbols. -/
  packets : List (Nat × List Nat)
  /-- The data symbols, once k' packets are held. -/
  data : Option (List Nat)
deriving DecidableEq, Repr

/-- A block's payload held whole (R246, R249), of this or another site. -/
structure XPay where
  anchor : Bool
  site : Nat
  shard : Nat
  round : Nat
  block : Nat
  bytes : Bytes
deriving DecidableEq, Repr

/-- A shard summary (Table 11-5, kind 0x53), or what a lead holds of a shard complete (kind 0x56). -/
structure XSum where
  site : Nat
  shard : Nat
  round : Nat
  blocks : Nat
  cd : Bytes
  pd : Bytes
deriving DecidableEq, Repr

/-- The site-exchange function. -/
structure Exch where
  /-- The sweep in progress: its round, the next block, when it began (R243, 11_site_exchange.md); reset none. -/
  sweep : Option (Nat × Nat × Nat) := none
  /-- Sweeps have ended up to this round (R243, 11_site_exchange.md); reset 0. -/
  swept : Nat := 0
  /-- A loss cut released with this committed step, at which a sweep may begin before the next mark (R243, 11_site_exchange.md); reset none. -/
  released : Option Nat := none
  /-- The first round whose manifest this site applies (R245, R252, R256, 11_site_exchange.md); reset 0. -/
  first : Nat := 0
  /-- The sweep holds for a manifest or contributions, since when (R253, 11_site_exchange.md); reset none. -/
  holdAt : Option Nat := none
  /-- The site is detaching: the sweep ends with sent set to 0 (R253, 11_site_exchange.md), with its cause; reset none. -/
  detaching : Option Nat := none
  /-- Sets received and not whole (R248, 11_site_exchange.md); reset none. -/
  sets : List XSet := []
  /-- Payloads held: received, own and retained ones (R248, R249, 11_site_exchange.md); reset none. -/
  pays : List XPay := []
  /-- Summaries of peers' and own rounds (R249, 11_site_exchange.md); reset none. -/
  sums : List XSum := []
  /-- Contributions for which Shard complete has been sent: site, shard, round (R249, 11_site_exchange.md); reset none. -/
  told : List (Nat × Nat × Nat) := []
  /-- As lead, the shards complete (R249, 11_site_exchange.md); reset none. -/
  comps : List XSum := []
  /-- As the coordinator's lead, contributions that a manifest has included: site, round (R250, 11_site_exchange.md); reset none. -/
  included : List (Nat × Nat) := []
  /-- The last 8 manifests, newest first (R251, 11_site_exchange.md); reset none. -/
  manifests : List Bytes := []
  /-- As joiner: the first round and the digest of the manifest before it (R256, 11_site_exchange.md); reset none. -/
  joined : Option (Nat × Bytes) := none
  /-- As coordinator member: sites admitted, with the round at whose sweep the anchor goes (R256, 11_site_exchange.md); reset none. -/
  admitted : List (Nat × Nat) := []
  /-- Contribution digests sent: shard, round, digest (R254, 11_site_exchange.md); reset none. -/
  sent : List (Nat × Nat × Bytes) := []
  /-- Lines of the pass counted as held for the sweep in progress, by address (Table 11-2, 11_site_exchange.md); reset none. -/
  held : List Nat := []
deriving DecidableEq, Repr

/-! ### The yard (12_the_yard.md) -/

/-- A yard operation of this member, from its acceptance to its answer (R267, R270, R271, R275). -/
structure YOp where
  /-- The order of acceptance. -/
  ord : Nat
  home : Nat
  op : Nat
  off : Nat
  size : Nat
  operand : Nat
  cmp : Nat
  data : Bytes
  /-- The poison bits of the line's words that the request bore, for a store to this member's own yard. -/
  poison : Nat
  /-- Host requests not yet answered. -/
  reqs : List SReq
  /-- A routing load (R236): layer, call, row. -/
  tok : Option (Nat × Nat × Nat)
  credit : Bool
  /-- Its wait for a credit has been counted. -/
  waited : Bool
  sent : Bool
  seq : Nat
  /-- When it was first sent, hub time. -/
  first : Nat
deriving DecidableEq, Repr

/-- An entry of 0x5002.01 (R275, R276): bytes 24 to 63 of Table 12-7. -/
structure YEntry where
  home : Nat
  seq : Nat
  body : Bytes
  /-- A status of 2, 7 or 10 has come, so no query goes any more. -/
  closed : Bool
deriving DecidableEq, Repr

/-- A request stream heard as home (R274): the highest sequence seen, and the map values that are not 0. -/
structure YMap where
  src : Nat
  inc : Nat
  top : Nat
  vals : List (Nat × Nat)
deriving DecidableEq, Repr

/-- A receipt (R274). -/
structure YReceipt where
  src : Nat
  seq : Nat
  status : Nat
  window : Nat
  result : Nat
deriving DecidableEq, Repr

/-- A request at its home (Table 12-4). -/
structure YReq where
  src : Nat
  inc : Nat
  seq : Nat
  op : Nat
  size : Nat
  off : Nat
  operand : Nat
  cmp : Nat
  data : Bytes
  /-- Counted in 0x8500.0B as held for a move (R262). -/
  held : Bool
deriving DecidableEq, Repr

/-- A combining entry (R273): the line offset and its requests in order of arrival; a CAS stands alone. -/
structure YComb where
  line : Nat
  reqs : List YReq
  alone : Bool
deriving DecidableEq, Repr

/-- A page whose directory entry is not all zeros (Table 12-2). -/
structure YPage where
  region : Nat
  page : Nat
  /-- 1 near; 2 far; 3 moving. -/
  place : Nat
  ref : Bool
  retire : Bool
  /-- Near frame or far block. -/
  idx : Nat
  /-- The slice of the near frame, or of the home while far. -/
  slice : Nat
deriving DecidableEq, Repr

/-- A page move in flight on the F-port (R262): to what the page becomes when the transfer ends. -/
structure YMove where
  region : Nat
  page : Nat
  /-- 0 promotion; 1 demotion; 2 staging read; 3 write-back. -/
  what : Nat
  /-- The far block read or written. -/
  block : Nat
deriving DecidableEq, Repr

/-- The yard function. -/
structure Yard where
  /-- The operations not yet answered or listed, in order of acceptance (R271, 12_the_yard.md); reset none. -/
  ops : List YOp := []
  /-- The order of the next operation accepted; reset 0. -/
  nextOrd : Nat := 0
  /-- The next sequence number of each request stream, by home (R274, 12_the_yard.md); reset none, 0. -/
  seqs : List (Nat × Nat) := []
  /-- The incarnation last known of each member (Table 12-4, 12_the_yard.md); reset none, 0. -/
  incs : List (Nat × Nat) := []
  /-- The entries of 0x5002.01 (R275, 12_the_yard.md); reset none. -/
  listed : List YEntry := []
  /-- The last 16 rollback notices, newest last (0x5003.02, 12_the_yard.md); reset none. -/
  notices : List Bytes := []
  /-- Reads of the fence word that wait, with the order before which all must be answered or listed (R272, 12_the_yard.md); reset none. -/
  fences : List (SReq × Nat) := []
  /-- Answers of routing loads not yet taken: layer, call, row, status, data (R236, 10_expert_routing_support.md); reset none. -/
  answers : List (Nat × Nat × Nat × Nat × Bytes) := []
  /-- The request streams heard as home (R274, 12_the_yard.md); reset none. -/
  maps : List YMap := []
  /-- The receipts held (R274, 12_the_yard.md); reset none. -/
  receipts : List YReceipt := []
  /-- The combining entries, oldest first (R273, 12_the_yard.md); reset none. -/
  combs : List YComb := []
  /-- The round-robin pointer of each slice (R273, 12_the_yard.md); reset none, 0. -/
  ptrs : List (Nat × Nat) := []
  /-- The directory (R261, 12_the_yard.md); reset none, every page unbacked. -/
  pages : List YPage := []
  /-- The page moves in flight (R262, 12_the_yard.md); reset none. -/
  moves : List YMove := []
  /-- Staged pages of class 2, and whether they have changed: region, page, changed (R262, 12_the_yard.md); reset none. -/
  staged : List (Nat × Nat × Bool) := []
  /-- The clock hands: slice, region, page (R262, 12_the_yard.md); reset none, 0. -/
  hands : List (Nat × Nat × Nat) := []
  /-- The keys in use, by region (R264, 12_the_yard.md); reset none, 0 until they are drawn at boot. -/
  keys : List (Nat × Nat) := []
  /-- The region being rekeyed, its cursor and its new key (R265, R266, 12_the_yard.md); reset none. -/
  rehash : Option (Nat × Nat × Nat) := none
  /-- The end of each region's last migration, hub time (R265, 12_the_yard.md); reset none. -/
  rekeyed : List (Nat × Nat) := []
  /-- Migration has been reported as paused at its cursor (R266, 12_the_yard.md); reset false. -/
  paused : Bool := false
  /-- Near frames and far blocks retired: slice (256 for a far block), index (R301, 13_stables_and_stored_data.md); reset none. -/
  bad : List (Nat × Nat) := []
  /-- Bytes served since the last comparison: slice, region, bytes (R265, 12_the_yard.md); reset none. -/
  served : List (Nat × Nat × Nat) := []
  /-- Yard frames to this member itself, waiting to be taken (R259, 12_the_yard.md); reset none. -/
  loop : List Bytes := []
deriving DecidableEq, Repr

/-! ### Stables and stored-data protection (13_stables_and_stored_data.md) -/

/-- A stall that is not free: allocated, retired, or both (Table 13-1). -/
structure Stall where
  sram : Bool
  slice : Nat
  num : Nat
  /-- The owner code of Table 13-2; 0 when not allocated. -/
  owner : Nat
  retired : Bool
  /-- Its level-0 bit is 1 although the stall is not free: the allocator finds it inconsistent (R286). -/
  bit : Bool
deriving DecidableEq, Repr

/-- An open repair entry (R295). -/
structure Repair where
  addr : Nat
  cls : Nat
  slice : Nat
  /-- S-port reads that wait on the line. -/
  reqs : List SReq
  /-- Every waiter, whatever its source. -/
  waiters : Nat
  /-- When it was opened, hub time. -/
  since : Nat
deriving DecidableEq, Repr

/-- What the protection machinery holds. -/
structure Prot where
  /-- The stalls that are not free (R283, 13_stables_and_stored_data.md); reset none. -/
  stalls : List Stall := []
  /-- The open repair entries (R295, 13_stables_and_stored_data.md); reset none. -/
  repairs : List Repair := []
  /-- The rows remapped to spare rows: memory, slice, row (R290, 13_stables_and_stored_data.md); reset none. -/
  remaps : List (Nat × Nat × Nat) := []
  /-- Error injections not yet met by a read of their row, as written to 0x5102.04 (R302, 13_stables_and_stored_data.md); reset none. -/
  injected : List Nat := []
  /-- SRAM rows whose poison mark is set: memory, slice, row (R291, 13_stables_and_stored_data.md); reset none. -/
  poisonRows : List (Nat × Nat × Nat) := []
  /-- The data words of the SRAM rows whose contents the rules lay down, by row key, rising (R288, R291, 13_stables_and_stored_data.md); reset none. -/
  rows : List (Nat × Nat) := []
  /-- The retirement entries of 0x5103.01, in order (R300, 13_stables_and_stored_data.md); reset none. -/
  retired : List Bytes := []
  /-- Bad frees reported in the second last reported: owner, second (R286, 13_stables_and_stored_data.md); reset none. -/
  badFrees : List (Nat × Nat) := []
  /-- When the patrol pass in hand began, hub time (R299, 13_stables_and_stored_data.md); reset 0. -/
  patrolAt : Nat := 0
deriving DecidableEq, Repr

/-! ### Determinism and audit (14_determinism_and_audit.md) -/

/-- A replica's Watermark frame (Table 14-5, kind 0x70). -/
structure WmRec where
  dev : Nat
  commit : Nat
  wmW : Nat
  wmN : Nat
  linesW : Nat
  linesN : Nat
  key : Bytes
deriving DecidableEq, Repr

/-- A query of a bisection (Table 14-5, kind 0x71). -/
structure Query where
  num : Nat
  space : Nat
  first : Nat
  len : Nat
  parts : Nat
  per : Nat
deriving DecidableEq, Repr

/-- A Line frame held by the lead (Table 14-5, kind 0x73). -/
structure LineAns where
  dev : Nat
  verdict : Nat
  vals : List Nat
deriving DecidableEq, Repr

/-- A bisection in hand (R316 to R319). -/
structure Bisect where
  commit : Nat
  lead : Nat
  /-- Units still taking part, this one included. -/
  parts : List Nat
  /-- Spaces still to bisect, the one in hand first. -/
  spaces : List Nat
  /-- Suspect ranges of the level in hand, and those of the next level. -/
  todo : List (Nat × Nat)
  next : List (Nat × Nat)
  /-- Single lines still to decide. -/
  lines : List Nat
  /-- The query in hand and the answers to it, own included. -/
  query : Option Query
  answers : List (Nat × List Nat)
  /-- The line being decided, and the Line frames held for it. -/
  line : Option Nat
  lineAns : List LineAns
  /-- Suspect parts have been found whose line a member's own code has repaired. -/
  repaired : Bool
  undecided : Bool
deriving DecidableEq, Repr

/-- A majority correction of an own line that has been ordered and is not yet written: what is added to each word (R318). -/
structure Fix where
  space : Nat
  line : Nat
  commit : Nat
  add : List Int
deriving DecidableEq, Repr

/-- The job key and what the audit engine holds. -/
structure Audit where
  /-- The job key, 32 bytes as a big-endian number (R303, 14_determinism_and_audit.md); reset 0. -/
  key : Nat := 0
  /-- A job key has been written since reset (R303, 14_determinism_and_audit.md); reset false. -/
  keyed : Bool := false
  /-- Step watermarks of recent steps: step, space W, space N, newest first (R311, R315, 14_determinism_and_audit.md); reset none. -/
  own : List (Nat × Nat × Nat) := []
  /-- The commits compared: those own values are kept for, newest first (R315, 14_determinism_and_audit.md); reset none. -/
  compared : List Nat := []
  /-- Watermark frames held (R315, 14_determinism_and_audit.md); reset none. -/
  frames : List WmRec := []
  /-- The bisection in hand (R316, 14_determinism_and_audit.md); reset none. -/
  bisect : Option Bisect := none
  /-- The number of the last query sent (Table 14-4, 14_determinism_and_audit.md); DESIGN CHOICE 0. -/
  queries : Nat := 0
  /-- Events reported at most once per second: code and second (R314, 14_determinism_and_audit.md); reset none. -/
  limited : List (Nat × Nat) := []
  /-- Corrections of own lines ordered and still held (R318, 14_determinism_and_audit.md); reset none. -/
  fixes : List Fix := []
  /-- Queries whose lines await repair, with what the own code gives for the line (Table 14-7, 14_determinism_and_audit.md); reset none. -/
  waiting : List (Bytes × Option (List Nat)) := []
deriving DecidableEq, Repr

/-! ### The S-port (17_ports_clocks_and_integration.md) -/

/-- A response at the fabric face (Table 17-2), with the returned bytes. -/
structure SResp where
  slice : Nat
  kind : Nat
  status : Nat
  tag : Nat
  poison : Nat
  data : Bytes
deriving DecidableEq, Repr

/-- A held write (R380), with the hub time of the hold. -/
structure Held where
  req : SReq
  why : Why
  since : Nat
  /-- The step that intake belonged to when the write was accepted (R199). -/
  step : Nat
deriving DecidableEq, Repr

/-- A request issued to a controller and not yet answered. -/
structure CtrlReq where
  req : SReq
  /-- It lies in a steering range, so the slice acts on the response (R378). -/
  served : Bool
  /-- The slice has issued it: a controller credit was free and no stall held it (R379, R381). -/
  issued : Bool
deriving DecidableEq, Repr

/-- What the S-ports hold. -/
structure SPort where
  /-- The hold queues of every slice, in acceptance order (R380); reset none. -/
  held : List Held := []
  /-- Requests outstanding at the controllers, in order of issue (R379); reset none. -/
  ctrl : List CtrlReq := []
  /-- Responses returned at the fabric faces, oldest first (R379); reset none. -/
  resp : List SResp := []
  /-- The parts of requests split at a line that wait for their first part (R11, R259); reset none. -/
  second : List SReq := []
  /-- The credits each controller grants of each class, at least 32 (R379); DESIGN CHOICE 32. -/
  grant : Nat := 32
  /-- The stall indicators that are not 0: slice, kind, since (R381); reset none. -/
  stalls : List (Nat × Nat × Nat) := []
  /-- Stalls already counted as long (R381): slices; reset none. -/
  longStalls : List Nat := []
deriving DecidableEq, Repr

/-! ### The state -/

/-- One Vedel. -/
structure State where
  /-- The commands that wait, first in, first out (the queue of a block model, no rule of the spec); reset none. -/
  pending : List Instr := []
  /-- The build and its fuses; reset as the fields of its record say. -/
  hw : Hw := {}
  /-- The hub's sticky registers; reset as the fields of its record say. -/
  sticky : Sticky := {}
  /-- The time input and the epoch timer; reset as the fields of its record say. -/
  clock : Clock := {}
  /-- The scalar objects of the dictionary, an unlisted object holding its default (R328, 15_eciabo_dictionary.md); reset: every object at the default of its table. -/
  dict : List (Nat × Nat) := []
  /-- The bytes of OCTETS objects, byte i of the object with key k at k × 2^24 + i, an unlisted byte holding the default (R328, 15_eciabo_dictionary.md); reset: every object at its default. -/
  oct : List Host.Cell := []
  /-- The change counts (R331, 15_eciabo_dictionary.md); reset 0. -/
  changes : List (Nat × Nat) := []
  /-- Host memory behind the controllers, by byte address (R377, 17_ports_clocks_and_integration.md gives a 57-bit address); reset none listed, an unlisted byte reads 0 (DESIGN CHOICE). -/
  mem : List Host.Cell := []
  /-- The poisoned 8-byte words of host memory, by word index, rising (R293, 13_stables_and_stored_data.md); reset none. -/
  poison : List Nat := []
  /-- The storage behind the F-port, byte address 4,096 × LBA + offset (R387, 17_ports_clocks_and_integration.md); reset none listed, an unlisted byte reads 0 (DESIGN CHOICE). -/
  flash : List Host.Cell := []
  /-- Frames handed to the N-port, oldest first (R384, 17_ports_clocks_and_integration.md); reset none. -/
  tx : List Tx := []
  /-- C-port responses, oldest first (R342, 15_eciabo_dictionary.md); reset none. -/
  cOut : List CResp := []
  /-- F-port commands not yet completed, oldest first (R387, 17_ports_clocks_and_integration.md); reset none. -/
  fOut : List FCmd := []
  /-- Draws taken from the free values of Config; the model's own field, no rule of the spec; DESIGN CHOICE 0. -/
  draws : Nat := 0
  /-- The event log; reset as the fields of its record say. -/
  log : Log := {}
  /-- The dictionary server; reset as the fields of its record say. -/
  server : Server := {}
  /-- Firmware images; reset as the fields of its record say. -/
  firmware : Firmware := {}
  /-- The twin; reset as the fields of its record say. -/
  twin : Twin := {}
  /-- Sensors, feeds and clocks; reset as the fields of its record say. -/
  sensors : Sensors := {}
  /-- The test access port; reset as the fields of its record say. -/
  tap : Tap := {}
  /-- The mould and the optimiser pass; reset as the fields of its record say. -/
  pass : Pass := {}
  /-- Couching; reset as the fields of its record say. -/
  couch : Couch := {}
  /-- Membership; reset as the fields of its record say. -/
  member : Member := {}
  /-- The S-ports; reset as the fields of its record say. -/
  sport : SPort := {}
  /-- The steering ranges of every slice, which hold a range each for the lines they own (R10, 01_slices_hub_and_ticks.md); reset none. -/
  steer : List Region := []
  /-- The deep tiers; reset as the fields of its record say. -/
  tiers : Tiers := {}
  /-- The audit; reset as the fields of its record say. -/
  audit : Audit := {}
  /-- Stables and protection; reset as the fields of its record say. -/
  prot : Prot := {}
  /-- The arrays; reset as the fields of its record say. -/
  arrays : Arrays := {}
  /-- Reduction; reset as the fields of its record say. -/
  red : Red := {}
  /-- Routing; reset as the fields of its record say. -/
  route : Route := {}
  /-- The yard; reset as the fields of its record say. -/
  yard : Yard := {}
  /-- Site exchange; reset as the fields of its record say. -/
  exch : Exch := {}
deriving DecidableEq, Repr

/-- The record of the first change of device state, from OFF to SELFTEST (R353, Table 16-8). -/
def firstRecord : EvRec := ⟨0, 0, 0x1201, 0xFF, 0, [0, 1, 0, 0]⟩

/-- The Vedel right after reset release (R328, R353, R396): every object at its default, the device state SELFTEST, and
that change counted and reported. -/
def State.reset : State :=
  { dict := [(0x8120_01, 1), (0x8700_03, 1)]
    changes := [(0x1200_01, 1), (0x7003_03, 1), (0x7003_05, 1)]
    oct := [(0x7003_03 * 2 ^ 24 + 16, 0x01), (0x7003_03 * 2 ^ 24 + 17, 0x12), (0x7003_03 * 2 ^ 24 + 18, 0xFF), (0x7003_03 * 2 ^ 24 + 25, 1),
      (0x7003_05 * 2 ^ 24 + 16, 0x01), (0x7003_05 * 2 ^ 24 + 17, 0x12), (0x7003_05 * 2 ^ 24 + 18, 0xFF), (0x7003_05 * 2 ^ 24 + 25, 1)]
    log := { recs := [firstRecord], next := 1 } }

end Sys2Proof.Machine
end

