-- ==== Sys2Proof/Machine/Ops.lean ====
section
/-!
DEFINITION. The named operations every chapter uses: objects, counters, events, host memory, the address
interleave, frames, the device state, and a unit failure. A block takes no exception: what the spec
reports, it reports through these.
-/

namespace Sys2Proof.Machine

/-- What a meaning answers. -/
abbrev Out := Host.Outcome State Fault Refusal

/-! ### One record of the state changes -/

/-- The couch record changed by f. -/
def State.modCouch (s : State) (f : Couch → Couch) : State := { s with couch := f s.couch }

/-- The member record changed by f. -/
def State.modMember (s : State) (f : Member → Member) : State := { s with member := f s.member }

/-- The pass record changed by f. -/
def State.modPass (s : State) (f : Pass → Pass) : State := { s with pass := f s.pass }

/-- The tiers record changed by f. -/
def State.modTiers (s : State) (f : Tiers → Tiers) : State := { s with tiers := f s.tiers }

/-- The sport record changed by f. -/
def State.modSPort (s : State) (f : SPort → SPort) : State := { s with sport := f s.sport }

/-- The log record changed by f. -/
def State.modLog (s : State) (f : Log → Log) : State := { s with log := f s.log }

/-- The server record changed by f. -/
def State.modServer (s : State) (f : Server → Server) : State := { s with server := f s.server }

/-- The sensors record changed by f. -/
def State.modSensors (s : State) (f : Sensors → Sensors) : State := { s with sensors := f s.sensors }

/-- The twin record changed by f. -/
def State.modTwin (s : State) (f : Twin → Twin) : State := { s with twin := f s.twin }

/-- The clock record changed by f. -/
def State.modClock (s : State) (f : Clock → Clock) : State := { s with clock := f s.clock }

/-- The tap record changed by f. -/
def State.modTap (s : State) (f : Tap → Tap) : State := { s with tap := f s.tap }

/-- The audit record changed by f. -/
def State.modAudit (s : State) (f : Audit → Audit) : State := { s with audit := f s.audit }

/-- The prot record changed by f. -/
def State.modProt (s : State) (f : Prot → Prot) : State := { s with prot := f s.prot }

/-- The firmware record changed by f. -/
def State.modFirmware (s : State) (f : Firmware → Firmware) : State := { s with firmware := f s.firmware }

/-- The sticky record changed by f. -/
def State.modSticky (s : State) (f : Sticky → Sticky) : State := { s with sticky := f s.sticky }

/-- The arrays record changed by f. -/
def State.modArrays (s : State) (f : Arrays → Arrays) : State := { s with arrays := f s.arrays }

/-- The hw record changed by f. -/
def State.modHw (s : State) (f : Hw → Hw) : State := { s with hw := f s.hw }

/-! ### Objects (R323 to R331) -/

/-- The value of a scalar object. -/
def State.rd (s : State) (k : Nat) : Nat := Sparse.get (dfltOf k) s.dict k

/-- R331: an object below 0x8000 has its change count raised by 1, wrapping at 2^32. -/
def State.bump (s : State) (k : Nat) : State :=
  if k / 256 ≥ 0x8000 then s else
    { s with changes := Sparse.put 0 s.changes k ((Sparse.get 0 s.changes k + 1) % 2 ^ 32) }

/-- A scalar object takes the value v, from any source. -/
def State.wr (s : State) (k v : Nat) : State :=
  if s.rd k = v then s else State.bump { s with dict := Sparse.put (dfltOf k) s.dict k v } k

/-- R329: a counter rises by n and stops at its type's largest value. -/
def State.incBy (s : State) (k n : Nat) : State := s.wr k (min (s.rd k + n) (objMax k))

/-- A counter rises by 1. -/
def State.inc (s : State) (k : Nat) : State := s.incBy k 1

/-- A Boolean object as a Bool. -/
def State.flag (s : State) (k : Nat) : Bool := s.rd k != 0

/-- What the OCTETS byte with a key reads as when it is not listed. -/
def octAt (key : Nat) : Byte := octDflt (key / 2 ^ 24) (key % 2 ^ 24)

/-- n bytes of an OCTETS object from offset off. -/
def State.octs (s : State) (k off : Nat) : Nat → Bytes
  | 0 => []
  | n + 1 => Sparse.get (octAt (k * 2 ^ 24 + off)) s.oct (k * 2 ^ 24 + off) :: State.octs s k (off + 1) n

/-- A field of an OCTETS object, least significant byte first. -/
def State.ofld (s : State) (k off n : Nat) : Nat := leNat (s.octs k off n)

/-- Puts bytes into object k from offset off, one cell each. -/
def putOct (k : Nat) (m : List Host.Cell) (off : Nat) : Bytes → List Host.Cell
  | [] => m
  | b :: bs => putOct k (Sparse.put (octAt (k * 2 ^ 24 + off)) m (k * 2 ^ 24 + off) b) (off + 1) bs

/-- An OCTETS object takes the bytes bs from offset off. -/
def State.wrO (s : State) (k off : Nat) (bs : Bytes) : State :=
  if s.octs k off bs.length = bs then s else
    State.bump { s with oct := putOct k s.oct off bs } k

/-- A field of an OCTETS object takes the n-byte value v, least significant byte first. -/
def State.wrOf (s : State) (k off n v : Nat) : State := s.wrO k off (le n v)

/-- A received datagram's congestion mark is counted (R385). -/
def State.ce (s : State) (r : Rx) : State := if r.ecn = 3 then s.inc 0x8710_09 else s

/-! ### Names of the objects read everywhere -/

/-- The device state, a code of Table 16-2 (0x1200.01). -/
def State.dev (s : State) : Nat := s.rd 0x1200_01

/-- The own device id (0x1000.08). -/
def State.own (s : State) : Nat := s.rd 0x1000_08

/-- The job id (0x3200.09). -/
def State.job (s : State) : Nat := s.rd 0x3200_09

/-- The halter number (0x3200.01). -/
def State.halter (s : State) : Nat := s.rd 0x3200_01

/-- The number of the open epoch (0x3180.03). -/
def State.epoch (s : State) : Nat := s.rd 0x3180_03

/-- The step of the pass now running or last begun (0x3181.01). -/
def State.step (s : State) : Nat := s.rd 0x3181_01

/-- The last step done (0x3181.02). -/
def State.stepDone (s : State) : Nat := s.rd 0x3181_02

/-- The last commit folded at this member (0x3101.01). -/
def State.committed (s : State) : Nat := s.rd 0x3101_01

/-- The deckle G (0x3100.01). -/
def State.deckle (s : State) : Nat := s.rd 0x3100_01

/-- The hub's view of 1588 time. -/
def State.now (s : State) : Nat := s.clock.now

/-- The function code of Table 16-3. -/
def fnCode : Fn → Nat
  | .coding => 1 | .deepTiers => 2 | .reduction => 3 | .yard => 4 | .routing => 5 | .siteExchange => 6

/-- R16: the epoch that an instant of 1588 time lies in, never less than 0. -/
def State.epochAt (s : State) (t : Nat) : Nat := (t - s.rd 0x3180_02) / max 1 (s.rd 0x3180_01)

/-- The state of a function: 0 OFF, 1 STARTING, 2 ON, 3 DRAINING (0x1202). -/
def State.fn (s : State) (f : Fn) : Nat := s.rd (0x1202_00 + fnCode f)

/-- A function is ON. -/
def State.fnOn (s : State) (f : Fn) : Bool := s.fn f == 2

/-- The block runs: not OFF and not FROZEN, nor with its reset asserted (R353, R400). -/
def State.up (s : State) : Bool := s.dev != 0 && s.dev != 8

/-- A state in which transport frames and engines act: every state but OFF, SELFTEST, SAFE and FROZEN (R333, R351). -/
def State.serving (s : State) : Bool := s.up && s.dev != 1 && s.dev != 2

/-! ### Events (R366) -/

/-- A record of Table 16-8 as its 64 bytes. -/
def EvRec.bytes (r : EvRec) : Bytes :=
  le 8 r.time ++ le 8 r.seq ++ le 2 r.code ++ le 1 r.source ++ zeros 1 ++ le 4 r.halter ++ slice r.payload 0 40

/-- The same record as a Log mirror frame carries it, each field most significant byte first (R7). -/
def EvRec.wire (r : EvRec) : Bytes :=
  be 8 r.time ++ be 8 r.seq ++ be 2 r.code ++ be 1 r.source ++ zeros 1 ++ be 4 r.halter ++ slice r.payload 0 40

/-- R160: a unit in PADDOCK sends no frame but Join requests, until a proposal that admits it is accepted. -/
def State.muted (s : State) : Bool := s.dev == 7 && s.member.accepted.isNone && s.member.cut.isNone

/-- Hands a frame to the N-port (R384); of the transport's frames, in PADDOCK a Join request only (R160). Eciabo, with its own
source port, goes on (Table 15-3). -/
def State.send (s : State) (t : Tx) : State :=
  if s.muted ∧ t.srcPort = 45306 ∧ fld t.f 0 1 ≠ 0x28 then s else { s with tx := s.tx ++ [t] }

/-- R126, R148: the directive of a transport frame of this job, to a device, on a stream, with a flow label. -/
def State.sendDev (s : State) (dst stream flow : Nat) (f : Bytes) : State :=
  s.send { stream := stream, dst := dst, byAddr := false, port := 45306, dscp := s.rd 0x3100_0B,
           prio := s.rd 0x3100_0C, flow := flow, f := f }

/-- R148: a membership or twin frame. -/
def State.sendMember (s : State) (dst : Nat) (f : Bytes) : State :=
  s.sendDev dst (s.own % 8) s.own f

/-- The 16 bytes that begin every frame of a job (Tables 6-2, 7-1): kind, flags, own id, halter number, job id. -/
def State.header (s : State) (kind flags : Nat) : Bytes :=
  be 1 kind ++ be 1 flags ++ be 2 s.own ++ be 4 s.halter ++ be 8 s.job

/-- R372: a twin frame goes to the configured twin's address. -/
def State.sendTwin (s : State) (kind flags : Nat) (body : Bytes) : State :=
  s.send { stream := s.own % 8, dst := beNat (s.octs 0x7005_02 0 16), byAddr := true, port := 45306,
           dscp := s.rd 0x3100_0B, prio := s.rd 0x3100_0C, flow := s.own, f := s.header kind flags ++ body }

/-- A twin is paired (0x7005.08). -/
def State.paired (s : State) : Bool := s.rd 0x7005_08 == 2 || s.rd 0x7005_08 == 3

/-- The twin is paired and not silent, so records are mirrored to it as they are written (R158, R366, R374). -/
def State.mirroring (s : State) : Bool := s.rd 0x7005_08 == 2

/-- The next free tag of the F-port. -/
def State.fTag (s : State) : Nat := (s.fOut.foldl (fun t c => max t (c.tag + 1)) 0) % 65536

/-- R387: issues an F-port command on stream `st`, at most 256 blocks each. -/
def State.fIssue (s : State) (use st : Nat) (write : Bool) (lba blocks : Nat) (data : Bytes) : State :=
  { s with fOut := s.fOut ++ [⟨s.fTag, st, write, lba, blocks, data, use, false⟩] }

/-- R366: block b of the log, 64 records, as the newest 4,096 records hold it, goes to flash. -/
def State.logBlock (s : State) (b : Nat) : State :=
  let recs := ((s.log.recs.drop (s.log.next - 64 * (b + 1))).take 64).reverse
  let s := s.fIssue 0 0 true (2056 + b % 4096) 1 ((recs.map EvRec.bytes).flatten)
  { s with log := { s.log with flashed := b + 1 } }

/-- R367: the log window 0x7003.05 shows record `seq` if it is one of the 16 from 0x7003.04. -/
def State.windowSlot (s : State) (seq : Nat) (b : Bytes) : State :=
  let q := s.rd 0x7003_04
  if q ≤ seq ∧ seq < q + 16 then s.wrO 0x7003_05 (64 * (seq - q)) b else s

/-- R366: a record joins the newest 4,096. -/
def State.keepRec (s : State) (r : EvRec) : State :=
  { s with log := { s.log with recs := (r :: s.log.recs).take 4096, next := s.log.next + 1 } }

/-- R366: one event: the record joins the log window, the newest-record object, the ring on flash when its
block fills, and the twin's mirror. -/
def State.evFrom (s : State) (source code : Nat) (payload : Bytes) : State :=
  let r : EvRec := ⟨s.log.next, s.now, code, source, s.halter, payload⟩
  let s := s.keepRec r
  let s := s.wr 0x7003_01 r.seq
  let s := s.wr 0x7003_02 (r.seq + 1 - 262144)
  let s := s.wrO 0x7003_03 0 r.bytes
  let s := s.windowSlot r.seq r.bytes
  let s := if r.seq < 262144 then s else s.windowSlot (r.seq - 262144) (zeros 64)
  let s := s.inc 0x8700_03
  let s := if r.seq % 64 = 63 ∧ ¬ s.sensors.fStopped then s.logBlock (r.seq / 64) else s
  if s.mirroring then s.sendTwin 0x84 0 (be 8 r.seq ++ be 2 1 ++ zeros 6 ++ r.wire) else s

/-- The blocks of the groom's flash area, from LBA 0 (R365, Table 16-7). -/
def groomBlocks : Nat := 10248

/-- An event of the groom. -/
def State.ev (s : State) (code : Nat) (payload : Bytes) : State := s.evFrom 0xFF code payload

/-- An event of the hub. -/
def State.evHub (s : State) (code : Nat) (payload : Bytes) : State := s.evFrom 0xFE code payload

/-- An event of a slice. -/
def State.evSlice (s : State) (n code : Nat) (payload : Bytes) : State := s.evFrom n code payload

/-- An event reported at most once per second (R335, R344, R409). -/
def State.evSecond (s : State) (code : Nat) (payload : Bytes) : State :=
  let t := s.now / 1000000000
  if s.log.limited.any (fun p => p.1 == code && p.2 == t) then s else
    State.ev { s with log := { s.log with limited := (code, t) :: s.log.limited.filter (·.1 ≠ code) } } code payload

/-- The report of event `code` on `about` at the end of the step gains a count (R36, R54, R72). -/
def State.tally (s : State) (code about n : Nat) : State :=
  if n = 0 then s
  else if s.pass.tally.any (fun t => t.code == code && t.about == about) then
    s.modPass fun p => { p with tally := mapWhere (fun t : Tally => t.code == code && t.about == about) (fun t => { t with count := t.count + n }) p.tally }
  else s.modPass fun p => { p with tally := p.tally ++ [⟨code, about, n⟩] }

/-- The report of event `code` at the end of the step names the first address it met, with the count (R71, R117). -/
def State.tallyAt (s : State) (code a : Nat) : State :=
  s.tally code (((s.pass.tally.find? (·.code == code)).map (·.about)).getD a) 1

/-- An event reported at most once per step (R68, R69). -/
def State.evStep (s : State) (code : Nat) (payload : Bytes) : State :=
  if s.pass.once.contains code then s else
    State.ev { s with pass := { s.pass with once := code :: s.pass.once } } code payload

/-! ### Host memory -/

/-- n bytes of host memory from address a. -/
def State.mrd (s : State) (a n : Nat) : Bytes := Sparse.getBytes s.mem a n

/-- A little-endian number of n bytes in host memory (R7). -/
def State.mNat (s : State) (a n : Nat) : Nat := leNat (s.mrd a n)

/-- The words of a list that a write of n bytes from a covers whole are poisoned no longer (R293). -/
def unpoison (l : List Nat) (a n : Nat) : List Nat :=
  l.filter (fun w => ¬ (a ≤ 8 * w ∧ 8 * w + 8 ≤ a + n))

/-- Bytes written to host memory. -/
def State.mwr (s : State) (a : Nat) (bs : Bytes) : State :=
  { s with mem := Sparse.putBytes s.mem a bs, poison := unpoison s.poison a bs.length }

/-- A little-endian number of n bytes written to host memory. -/
def State.mwrNat (s : State) (a n v : Nat) : State := s.mwr a (le n v)

/-- Host memory from lo to below hi reads zero. -/
def State.mzero (s : State) (lo hi : Nat) : State :=
  { s with mem := Sparse.clear s.mem lo hi, poison := s.poison.filter (fun w => 8 * w + 8 ≤ lo ∨ hi ≤ 8 * w) }

/-- k words of n bytes each, from address a. -/
def State.mWords (s : State) (a n : Nat) : Nat → List Nat
  | 0 => []
  | k + 1 => s.mNat a n :: State.mWords s (a + n) n k

/-- Words of n bytes each as one run of bytes. -/
def wordsBytes (n : Nat) (ws : List Nat) : Bytes := (ws.map (le n)).flatten

/-- A word of n bytes at a overlaps a poisoned word. -/
def State.poisoned (s : State) (a n : Nat) : Bool := s.poison.any (fun w => 8 * w < a + n && a < 8 * w + 8)

/-! ### Slices and the address interleave (R1, R2, R383) -/

/-- The SLICE_DISABLE bits as read at the last reset (0x7F00.02), those of unbuilt slices ignored (R408, R411). -/
def State.disabled (s : State) : Nat := s.rd 0x7F00_02 % 2 ^ s.hw.slices

/-- R2: slice n is active. -/
def State.active (s : State) (n : Nat) : Bool := n < s.hw.slices && !(s.disabled.testBit n)

/-- The active slices, rising. -/
def State.actives (s : State) : List Nat := (List.range s.hw.slices).filter s.active

/-- One range of the interleave table (Table 17-8). -/
structure IRange where
  base : Nat
  size : Nat
  g : Nat
  mask : Nat
deriving DecidableEq, Repr

/-- Range i of an interleave table image. -/
def irangeAt (b : Bytes) (i : Nat) : IRange :=
  ⟨fldLe b (32 * i) 8, fldLe b (32 * i + 8) 8, fldLe b (32 * i + 16) 1, fldLe b (32 * i + 20) 4⟩

/-- The ranges in use. -/
def State.ranges (s : State) : List IRange :=
  let b := s.octs 0x7102_01 0 256
  ((List.range 8).map (irangeAt b)).filter (·.size ≠ 0)

/-- The n-th set bit of a mask. -/
def nthBit (mask n : Nat) : Nat := (setBits mask 32).getD n 0

/-- The controller that granule q of a range lies in (R383). -/
def IRange.ctrl (r : IRange) (q : Nat) : Nat := nthBit r.mask (q % popcount r.mask 32)

/-- Where the contents of the own yard are held: offset o at this address plus o, beyond every host address. A page's
near frame or far block is its place; its contents stand here. -/
def yardV : Nat := 2 ^ 58

/-- A region entry of 0x5001.01 (Table 12-1). -/
structure YRegion where
  num : Nat
  used : Bool
  coded : Bool
  cls : Nat
  quota : Nat
  base : Nat
  pages : Nat
deriving DecidableEq, Repr

/-- Entry r of the region table. -/
def State.yRegion (s : State) (r : Nat) : YRegion :=
  let w := s.ofld 0x5001_01 (32 * r) 32
  ⟨r, bit w 0, bit w 1, bits w 2 2, bits w 32 32, bits w 64 40, bits w 128 32⟩

/-- The regions in use. -/
def State.yRegions (s : State) : List YRegion := ((List.range 64).map s.yRegion).filter (·.used)

/-- The region of an offset, with the page within it. -/
def State.yPageAt (s : State) (off : Nat) : Option (YRegion × Nat) :=
  (s.yRegions.find? (fun r => r.base ≤ off && off < r.base + 4096 * r.pages)).map (fun r => (r, (off - r.base) / 4096))

/-- R264: the key by which set t of a region is placed. -/
def State.yKey (s : State) (r t : Nat) : Nat :=
  let cur := ((s.yard.keys.find? (·.1 == r)).map (·.2)).getD 0
  match s.yard.rehash with
  | some (x, cursor, new) => if x = r ∧ t < cursor then new else cur
  | none => cur

/-- R264: the home slice of a page under a key, and its set. -/
def State.yHomeBy (s : State) (key page : Nat) : Nat × Nat :=
  let act := s.actives
  let a := max 1 act.length
  let t := page / a
  (act.getD ((page % a + siphash24 key t % a) % a) 0, t)

/-- R264: the home slice of a page, and its set, which is its directory index there. -/
def State.yHome (s : State) (r page : Nat) : Nat × Nat := s.yHomeBy (s.yKey r (page / max 1 s.actives.length)) page

/-- R383, R264: the controller, and so the slice, in whose memory address a lies; for the yard's contents the home slice. -/
def State.sliceOf (s : State) (a : Nat) : Option Nat :=
  if a ≥ yardV then (s.yPageAt (a - yardV)).map (fun p => (s.yHome p.1.num p.2).1)
  else (s.ranges.find? (fun r => r.base ≤ a && a < r.base + r.size)).map (fun r => r.ctrl ((a - r.base) / 2 ^ r.g))

/-- The part of [lo, hi) inside a range lies in no mapped-out slice's memory. -/
def IRange.clean (s : State) (r : IRange) (lo hi : Nat) : Bool :=
  let lo := max lo r.base
  let hi := min hi (r.base + r.size)
  if hi ≤ lo then true else
    let q0 := (lo - r.base) / 2 ^ r.g
    let q1 := (hi - 1 - r.base) / 2 ^ r.g
    (List.range (min (q1 - q0 + 1) (popcount r.mask 32))).all (fun i => s.active (r.ctrl (q0 + i)))

/-- Some line of [lo, hi) inside a range lies in the memory of slice n. -/
def IRange.touches (r : IRange) (n lo hi : Nat) : Bool :=
  let lo := max lo r.base
  let hi := min hi (r.base + r.size)
  if hi ≤ lo then false else
    let q0 := (lo - r.base) / 2 ^ r.g
    let q1 := (hi - 1 - r.base) / 2 ^ r.g
    (List.range (min (q1 - q0 + 1) (popcount r.mask 32))).any (fun i => r.ctrl (q0 + i) == n)

/-- How many bytes of [lo, hi) lie in a range. -/
def IRange.cover (r : IRange) (lo hi : Nat) : Nat := min hi (r.base + r.size) - max lo r.base

/-- R12, R383: [base, base + size) lies wholly within ranges and in the memory of active slices. -/
def State.placed (s : State) (base size : Nat) : Bool :=
  sumN (s.ranges.map (fun r => r.cover base (base + size))) == size && s.ranges.all (fun r => r.clean s base (base + size))

/-- [a, a + n) and [b, b + m) share a byte. -/
def overlap (a n b m : Nat) : Bool := n != 0 && m != 0 && a < b + m && b < a + n

/-- The memory of slice n alone: every line of a range lies in it. -/
def State.inSlice (s : State) (n a : Nat) : Bool := s.sliceOf a == some n

/-! ### The N-port rate and the couch budget (R386, R137) -/

/-- R386: 512 B × f(NCLK), in MB/s; before NCLK is measured it does not bound. -/
def State.nRate (s : State) : Nat :=
  let f := s.rd 0x7100_02
  if f = 0 then s.rd 0x7100_09 else min (512 * f) (s.rd 0x7100_09)

/-- R137: share / 100 × R_N × period, in bytes; R_N in MB/s is bytes per µs. -/
def State.couchBudget (s : State) : Nat := s.rd 0x3100_02 * s.nRate * s.rd 0x3180_01 / 100000

/-- R140: 0.9 ms × R_N. -/
def State.outLimit (s : State) : Nat := 900 * s.nRate

/-! ### Free values -/

/-- A value the spec leaves open, fresh at this draw. -/
def State.draw (s : State) : Nat × State := (Config.freeValue s.draws, { s with draws := s.draws + 1 })

/-- A draw of the groom's random source. -/
def State.random (s : State) : Nat × State := (Config.random s.draws, { s with draws := s.draws + 1 })

/-! ### S-port answers -/

/-- A response at the fabric face; error statuses are counted (R378). -/
def State.answer (s : State) (r : SReq) (status poison : Nat) (data : Bytes) : State :=
  let s := { s with sport := { s.sport with resp := s.sport.resp ++ [⟨r.slice, r.kind, status, r.tag, poison, data⟩] } }
  if status = 1 then s.inc 0x8710_03 else if status = 2 then s.inc 0x8710_04 else s

/-- R378: the refusal of a request: status 1 of a write or an atomic, status 2 with every poison bit of a read. -/
def State.refuse (s : State) (r : SReq) : State :=
  if r.kind = 1 then s.answer r 2 (2 ^ 32 - 1) [] else s.answer r 1 0 []

/-- Every held write is completed with the write-error response (R143, R160, R358). -/
def State.failHeld (s : State) : State :=
  s.sport.held.foldl (fun s h => s.answer h.req 1 0 []) { s with sport := { s.sport with held := [] } }

/-! ### The device state and the functions (R353 to R356) -/

/-- R353: the device state changes, with its cause. -/
def State.setDev (s : State) (new cause : Nat) : State :=
  let old := s.dev
  if old = new then s else
    let s := s.wr 0x1200_01 new
    let s := s.wr 0x1200_02 s.now
    let s := s.wr 0x1200_03 cause
    let s := s.inc 0x8120_01
    s.ev 0x1201 (be 1 old ++ be 1 new ++ be 2 cause)

/-- R356: the state of a function changes. -/
def State.setFn (s : State) (f : Fn) (new : Nat) : State :=
  let old := s.fn f
  if old = new then s else
    let s := s.wr (0x1202_00 + fnCode f) new
    let s := if new = 1 then s.inc 0x8120_02 else s
    s.ev 0x1202 (be 1 (fnCode f) ++ be 1 old ++ be 1 new)

/-- The six functions in code order. -/
def fns : List Fn := [.coding, .deepTiers, .reduction, .yard, .routing, .siteExchange]

/-- R354: every function goes to OFF at once and every pending enable is cleared. -/
def State.allOff (s : State) : State :=
  fns.foldl (fun s f => (s.wr (0x1203_00 + fnCode f) 0).setFn f 0) s

/-- R355: a failed check returns a function that starts to OFF, with event 0x1203 naming the owning chapter's event. -/
def State.startRefused (s : State) (f : Fn) (code : Nat) : State := (s.setFn f 0).ev 0x1203 (be 1 (fnCode f) ++ be 2 code)

/-- R147: the lead in this unit's view. -/
def State.leadOf (s : State) : Nat :=
  (s.member.members.filter (fun d => ¬ s.member.suspected.contains d)).headD 0xFFFF

/-- R150: a Suspect report to the lead, the suspect itself passed over as lead (R147; Table 7-2, kind 0x20). -/
def State.sendSuspect (s : State) (dev cause : Nat) : State :=
  let heard := ((s.member.heard.find? (·.1 == dev)).map (·.2)).getD 0
  let lead := (s.member.members.filter (fun d => ¬ s.member.suspected.contains d ∧ d ≠ dev)).headD 0xFFFF
  if s.muted then s else
    let s := s.sendMember lead (s.header 0x20 0 ++ be 2 dev ++ be 1 cause ++ zeros 1 ++ be 8 heard)
    s.evHub 0x3201 (be 2 dev ++ be 1 cause)

/-- The heartbeat body of Table 16-11, from byte 16. -/
def State.beatBody (s : State) : Bytes :=
  let flags := (if s.twin.departing then 1 else 0) + (if s.twin.failed then 2 else 0) + (if s.twin.mismatch then 4 else 0)
  be 1 flags ++ be 1 s.dev ++ be 1 (s.rd 0x3200_02) ++ zeros 1 ++ be 8 s.committed ++ be 8 s.stepDone ++
    be 2 (s.rd 0x3200_03) ++ zeros 2 ++ be 8 (s.rd 0x3203_03) ++ be 8 (s.rd 0x7003_01)

/-- A heartbeat to the twin (R374). -/
def State.sendBeat (s : State) : State := if s.muted then s else (s.sendTwin 0x83 0 s.beatBody).inc 0x8700_01

/-- R358: a unit failed report, with the causing event and the slice. -/
def State.unitFailed (s : State) (code n : Nat) : State :=
  let s := { s with sensors := { s.sensors with noWrites := true }, twin := { s.twin with failed := true } }
  let s := s.failHeld
  let s := if s.member.members.isEmpty then s else s.sendSuspect s.own 3
  let s := if s.paired then s.sendBeat else s
  let s := s.ev 0x700E (be 2 code ++ be 1 n)
  let s := s.wr 0x7000_05 code
  let s := s.wr 0x1200_04 code
  let s := s.allOff
  s.setDev 2 code

end Sys2Proof.Machine
end

