-- ==== Sys2Proof/Machine/Moulds.lean ====
section
/-!
DEFINITION. Moulds: how the six mould objects are read, the checks of Table 3-1, the regions a mould
declares, and the arithmetic of one element (03_moulds_and_the_optimiser_pass.md).
-/

namespace Sys2Proof.Machine

/-! ### Reading the objects -/

/-- An i8 or other n-bit two's-complement field. -/
def sfield (w lo n : Nat) : Int := sgn n (bits w lo n)

/-- Table 3-2: the descriptor whose 64 bytes are the number w. `defF` and `defW` are 0x2000.02 and
0x2000.03, which the codes 63 and 3 take. -/
def readDesc (num w defF defW : Nat) : Desc :=
  let f := bits w 32 6
  let wm := bits w 58 2
  { num := num, tid := bits w 0 16, sfmt := bits w 16 4, wfmt := bits w 20 4, gfmt := bits w 24 4,
    form := bits w 28 4, f := if f = 63 then defF else f, s1 := sfield w 38 8, s2 := sfield w 46 8,
    umode := bits w 54 2, mmode := bits w 56 2, wmode := if wm = 3 then defW else wm, hset := bits w 60 4,
    rows := bits w 64 32, cols := bits w 96 32, base := bits w 128 64, mbase := bits w 192 64,
    rbase := bits w 256 64, cbase := bits w 320 64, wbase := bits w 384 64, sparse := bit w 448,
    work := bit w 449, decay := bit w 450, stream := bits w 464 16, amul := sfield w 480 17 }

/-- The number whose bits are the 64 bytes of descriptor d. -/
def State.descWord (s : State) (d : Nat) : Nat := s.ofld 0x2104_01 (64 * d) 64

/-- A descriptor is in use when its bit [451] is 1. -/
def descUsed (w : Nat) : Bool := bit w 451

/-- Table 3-4: the set whose 16 bytes are the number w. -/
def readSet (w : Nat) : HSet :=
  ⟨bits w 0 16, bits w 16 16, sfield w 32 17, sfield w 64 17, bits w 96 4⟩

/-- Table 3-5: the entry (from step, log, last) whose 16 bytes are the number w. -/
def readSched (w : Nat) : Nat × Int × Bool := (bits w 0 64, sfield w 64 17, bit w 127)

/-- The schedule entries up to and including the one marked last; whether one is. -/
def uptoLast : List (Nat × Int × Bool) → List (Nat × Int) × Bool
  | [] => ([], false)
  | (s, a, l) :: r => if l then ([(s, a)], true) else
      let (t, ok) := uptoLast r
      ((s, a) :: t, ok)

/-- The raw words of schedule n up to the entry marked last. -/
def State.schedWords (s : State) (n : Nat) : List Nat :=
  let all := (List.range 64).map (fun i => s.ofld 0x2102_01 (1024 * n + 16 * i) 16)
  all.take (uptoLast (all.map readSched)).1.length

/-- R67: list slot n, in use when its count address is not zero. -/
def State.slotAt (s : State) (n : Nat) : Slot :=
  ⟨n, s.ofld 0x2103_01 (32 * n) 8, s.ofld 0x2103_01 (32 * n + 8) 8, s.ofld 0x2103_01 (32 * n + 16) 2⟩

/-- Object 0x2105.01: operation i. -/
def State.opAt (s : State) (i : Nat) : Op :=
  let w := s.ofld 0x2105_01 (8 * i) 8
  ⟨bits w 0 8, bits w 8 16, bits w 24 40⟩

/-- The operations up to and including the first END; whether there is one. -/
def uptoEnd : List Op → List Op × Bool
  | [] => ([], false)
  | o :: r => if o.code = 0 then ([o], true) else
      let (t, ok) := uptoEnd r
      (o :: t, ok)

/-- R59: the mould that the objects now declare. -/
def State.declared (s : State) : Mould :=
  let ds := (List.range 4096).filterMap (fun d =>
    let w := s.descWord d
    if descUsed w then some (readDesc d w (s.rd 0x2000_02) (s.rd 0x2000_03)) else none)
  { descs := ds
    sets := (List.range 16).map (fun n => readSet (s.ofld 0x2101_01 (16 * n) 16))
    scheds := (List.range 16).map (fun n => (s.schedWords n).map (fun w => ((readSched w).1, (readSched w).2.1)))
    slots := ((List.range 8).map s.slotAt).filter (·.count ≠ 0)
    ops := (uptoEnd ((List.range 4096).map s.opAt)).1
    seedA := s.rd 0x2106_01, seedB := s.rd 0x2106_02, seedN := s.rd 0x2106_03, compl := s.rd 0x2106_04 }

/-! ### Sizes and regions -/

/-- A size rounded up to whole lines (R61). -/
def wholeLines (n : Nat) : Nat := ceilDiv n 256 * 256

/-- R61: the bytes of a region from offset off; where they end the region, its padding words follow as zeros. -/
def padLast (last : Bool) (off : Nat) (bs : Bytes) : Bytes := if last then bs ++ zeros ((256 - (off + bs.length) % 256) % 256) else bs

/-- The number of elements of a tensor. -/
def Desc.count (d : Desc) : Nat := d.rows * d.cols

/-- The width of a state word in bytes: 8 for W64, 4 for U32. -/
def Desc.width (d : Desc) : Nat := if d.sfmt = 0 then 8 else 4

/-- A form with a first moment (Table 3-3). -/
def Desc.hasMoment (d : Desc) : Bool := d.form == 1 || d.form == 2 || d.form == 3

/-- The regions of a descriptor in use, in the order of R102: state, first moment, row and column factors, working copy. -/
def Desc.regions (d : Desc) : List Region :=
  [⟨d.base, wholeLines (d.count * d.width), .state, d.num⟩] ++
  (if d.hasMoment then [⟨d.mbase, wholeLines (d.count * 4), .moment, d.num⟩] else []) ++
  (if d.form = 2 then [⟨d.rbase, wholeLines (d.rows * 4), .rowF, d.num⟩, ⟨d.cbase, wholeLines (d.cols * 4), .colF, d.num⟩] else []) ++
  (if d.work then [⟨d.wbase, wholeLines (d.count * fmtBytes d.wfmt), .working, d.num⟩] else [])

/-- R67: the regions of a list slot. -/
def Slot.regions (t : Slot) : List Region :=
  [⟨t.count, 256, .count, t.num⟩, ⟨t.list, wholeLines (2 * t.max), .list, t.num⟩]

/-- R80, R78: the seed tables and the completion area. -/
def Mould.fixed (m : Mould) : List Region :=
  [⟨m.seedA, wholeLines (16 * m.seedN), .seed, 0⟩, ⟨m.seedB, wholeLines (16 * m.seedN), .seed, 1⟩] ++
  (if m.compl = 0 then [] else [⟨m.compl, 32768, .completion, 0⟩])

/-- R62: every region of a mould. -/
def Mould.regions (m : Mould) : List Region :=
  (m.descs.map Desc.regions).flatten ++ (m.slots.map Slot.regions).flatten ++ m.fixed

/-- The kind and number under which event 0x2101 names a region's item (Table 3-13). -/
def Region.item2101 (r : Region) : Nat × Nat :=
  match r.kind with
  | .count => (4, r.item)
  | .list => (4, r.item)
  | .seed => (6, r.item)
  | .completion => (7, 0)
  | _ => (1, r.item)

/-- The tensor id of the descriptor whose coded regions hold an address. -/
def Mould.tidAt (m : Mould) (a : Nat) : Option Nat :=
  (m.descs.find? (fun d => d.regions.any (fun r => r.kind != .working && decide (r.base ≤ a) && decide (a < r.base + r.size)))).map (·.tid)

/-! ### The checks of Table 3-1 -/

/-- A finding: reason, item kind, item number. -/
abbrev Finding := Nat × Nat × Nat

/-- One finding when the condition holds. -/
def found (c : Bool) (r k i : Nat) : List Finding := if c then [(r, k, i)] else []

/-- Reasons 1, 2, 5 and 6 of a descriptor in use, from its raw word. A field that Table 3-2 gives the value 0 where a form does not use
it, or a few codes of Table 2-1, lies outside its range with any other (reason 2). -/
def checkDesc (w : Nat) (d : Desc) : List Finding :=
  let i := d.num
  let grad := d.form < 4
  found (¬ (d.sfmt = 0 ∨ d.sfmt = 0xC) ∧ ¬ fmtDefined d.sfmt ∨ d.form ≥ 5 ∨ d.umode ≥ 2 ∨ d.mmode ≥ 2 ∨
      bits w 58 2 = 2 ∨ (d.work ∧ ¬ fmtDefined d.wfmt) ∨ (grad ∧ ¬ fmtDefined d.gfmt) ∨
      bits w 452 12 ≠ 0 ∨ bits w 497 15 ≠ 0) 1 1 i ++
  found (bits w 32 6 = 61 ∨ bits w 32 6 = 62 ∨ d.s1 < -96 ∨ d.s1 > 32 ∨ d.s2 < -96 ∨ d.s2 > 32 ∨
      d.rows = 0 ∨ d.cols = 0 ∨ d.rows * d.cols > 2 ^ 36 ∨ d.amul = la17Zero ∨ ¬ (d.sfmt = 0 ∨ d.sfmt = 0xC) ∨
      (grad ∧ ¬ (d.gfmt = 2 ∨ d.gfmt = 3)) ∨ (d.work ∧ ¬ (d.wfmt = 8 ∨ d.wfmt = 9 ∨ d.wfmt = 0xA)) ∨
      (¬ d.hasMoment ∧ d.mbase ≠ 0) ∨ (d.form ≠ 2 ∧ (d.rbase ≠ 0 ∨ d.cbase ≠ 0))) 2 1 i ++
  found (if d.form = 4 then d.sfmt ≠ 0xC ∨ d.work
      else d.sfmt ≠ 0 ∨ ¬ (d.gfmt = 2 ∨ d.gfmt = 3) ∨ (d.work ∧ ¬ (d.wfmt = 8 ∨ d.wfmt = 9 ∨ d.wfmt = 0xA))) 5 1 i ++
  found (d.form = 2 ∧ (d.rows > 65536 ∨ d.cols > 65536)) 6 1 i

/-- Reasons 1 and 2 of a hyperparameter set, from its raw word. -/
def checkSet (w n : Nat) : List Finding :=
  found (bits w 49 15 ≠ 0 ∨ bits w 81 15 ≠ 0 ∨ bits w 100 28 ≠ 0) 1 2 n

/-- Reasons 1, 2 and 7 of the entries of a schedule, from their raw words. -/
def checkSched (n : Nat) (ws : List Nat) : List Finding :=
  let es := ws.map readSched
  ((List.range ws.length).map (fun k =>
    let w := ws.getD k 0
    let e := es.getD k (0, 0, false)
    found (bits w 81 46 ≠ 0) 1 3 (64 * n + k) ++
    found (e.2.1 = la17Zero) 2 3 (64 * n + k) ++
    found (if k = 0 then e.1 ≠ 0 else e.1 ≤ (es.getD (k - 1) (0, 0, false)).1) 7 3 (64 * n + k))).flatten ++
  found (¬ (uptoLast es).2) 7 3 (64 * n + (ws.length - 1))

/-- Reason 7: a schedule entry plus the multiplier of a descriptor that uses it. -/
def checkMul (m : Mould) : List Finding :=
  (m.descs.map (fun d =>
    if d.form ≥ 4 then [] else
      let n := (m.sets.getD d.hset ⟨0, 0, 0, 0, 0⟩).sched
      let es := m.scheds.getD n []
      ((List.range es.length).map (fun k =>
        let a := (es.getD k (0, 0)).2 + d.amul
        found (a < -65535 ∨ a > 65535) 7 3 (64 * n + k))).flatten)).flatten

/-- Reasons 1 and 2 of a list slot in use. -/
def State.checkSlot (s : State) (t : Slot) : List Finding :=
  found ((s.octs 0x2103_01 (32 * t.num + 18) 14).any (· ≠ 0)) 1 4 t.num ++
  found (t.max = 0 ∨ t.max > 4096) 2 4 t.num

/-- Reasons 1, 2 and 8 of operation i. -/
def checkOp (m : Mould) (i : Nat) (o : Op) : List Finding :=
  let used (d : Nat) : Option Desc := m.descs.find? (·.num == d)
  match o.code with
  | 0 => found (o.a ≠ 0 ∨ o.b ≠ 0) 1 5 i
  | 1 => found (o.b ≠ 0) 1 5 i ++ found ((used o.a).isNone) 8 5 i
  | 2 => found (o.b = 0 ∨ o.b > 4096 ∨ o.a + o.b > 4096) 2 5 i
  | 3 => found (o.b ≠ 0) 1 5 i ++ found (o.a > 7) 2 5 i ++ found (¬ m.slots.any (·.num == o.a)) 8 5 i
  | 4 =>
    found (match used o.a, used o.b with
      | some x, some y => x.sfmt ≠ 0 ∨ y.sfmt ≠ 0 ∨ x.count ≠ y.count ∨ x.f ≠ y.f
      | _, _ => true) 8 5 i
  | 5 =>
    found (match used o.a with | some x => x.form ≠ 4 | none => true) 8 5 i
  | _ => [(1, 5, i)]

/-- Reason 3: alignment and overlap of the regions, each pair named by its later item. -/
def checkOverlap : List Region → List Region → List Finding
  | _, [] => []
  | seen, r :: rest =>
    found (r.base % 256 ≠ 0 ∨ seen.any (fun q => overlap q.base q.size r.base r.size)) 3 r.item2101.1 r.item2101.2 ++
    checkOverlap (r :: seen) rest

/-- R59: every check of Table 3-1, with the findings that other chapters add (R196, R224, R241, reason 9). -/
def State.checkMould (s : State) (m : Mould) (extra : List Finding) : List Finding :=
  let ends := (uptoEnd ((List.range 4096).map s.opAt)).2
  let sets := ((m.descs.filter (·.form < 4)).map (·.hset)).eraseDups
  let scheds := (sets.map (fun n => (m.sets.getD n ⟨0, 0, 0, 0, 0⟩).sched)).eraseDups
  (m.descs.map (fun d => checkDesc (s.descWord d.num) d)).flatten ++
  (sets.map (fun n => checkSet (s.ofld 0x2101_01 (16 * n) 16) n)).flatten ++
  (scheds.map (fun n => checkSched n (s.schedWords n))).flatten ++
  checkMul m ++
  (m.slots.map s.checkSlot).flatten ++
  ((List.range m.ops.length).map (fun i => checkOp m i (m.ops.getD i ⟨0, 0, 0⟩))).flatten ++
  (m.descs.map (fun d => found (m.descs.any (fun e => e.num < d.num ∧ e.tid = d.tid)) 8 1 d.num)).flatten ++
  found (¬ ends) 8 12 0 ++
  checkOverlap [] m.regions ++
  (m.regions.map (fun r => found (¬ s.placed r.base r.size) 4 r.item2101.1 r.item2101.2)).flatten ++
  extra

/-- The lowest-numbered reason that applies, with its first offending item. -/
def lowest : List Finding → Option Finding
  | [] => none
  | f :: r => match lowest r with
    | none => some f
    | some g => if f.1 ≤ g.1 then some f else some g

/-- R59: the digest of the mould objects with every address field zeroed. -/
def State.mouldDigest (s : State) : Bytes :=
  let desc (d : Nat) : Bytes :=
    s.octs 0x2104_01 (64 * d) 16 ++ zeros 40 ++ s.octs 0x2104_01 (64 * d + 56) 8
  let slot (n : Nat) : Bytes := zeros 16 ++ s.octs 0x2103_01 (32 * n + 16) 16
  sha256 (s.octs 0x2101_01 0 256 ++ s.octs 0x2102_01 0 16384 ++ ((List.range 8).map slot).flatten ++
    ((List.range 4096).map desc).flatten ++ s.octs 0x2105_01 0 32768 ++
    zeros 8 ++ zeros 8 ++ be 4 (s.rd 0x2106_03) ++ zeros 8)

/-! ### The schedule and the per-tensor values -/

/-- R64: lr_log. -/
def lrLog (es : List (Nat × Int)) (st : Nat) : Int :=
  let ks := (List.range es.length).filter (fun i => (es.getD i (0, 0)).1 ≤ st)
  let k := ks.getLastD 0
  let e := es.getD k (0, 0)
  if k + 1 ≥ es.length then e.2 else
    let e' := es.getD (k + 1) (0, 0)
    let span : Nat := e'.1 - e.1
    let dlt : Int := (e'.2 - e.2) * ((st - e.1 : Nat) : Int)
    let q : Int := ((dlt.natAbs / span : Nat) : Int)
    e.2 + (if dlt ≥ 0 then q else -q)

/-- The set of a descriptor. -/
def Mould.set (m : Mould) (d : Desc) : HSet := m.sets.getD d.hset ⟨0, 0, 0, 0, 0⟩

/-- R64: a_η of a descriptor at step st. -/
def Mould.aEta (m : Mould) (d : Desc) (st : Nat) : Int := lrLog (m.scheds.getD (m.set d).sched []) st + d.amul

/-- The descriptor of number n. -/
def Mould.desc (m : Mould) (n : Nat) : Option Desc := m.descs.find? (·.num == n)

/-! ### The update of one element (R72, R73) -/

/-- The inputs of one element's update. -/
structure ElemIn where
  w : Int
  g : Int
  m : Int
  /-- The log of the second moment as expand gives it (form 2). -/
  av : Int
  t : Int
  aEta : Int
  r0 : Nat
  r1 : Nat
deriving DecidableEq, Repr

/-- What one element's update gives, with what it counts. -/
structure ElemOut where
  w : Int
  m : Int
  /-- How many results of scale_log were cut to 2^60 − 1 (0x8210.02); the step of form 3 is the tensor's, not the element's. -/
  cuts : Nat
  /-- The first moment saturated (0x8200.02). -/
  momSat : Bool
  /-- The state word was clamped (0x8200.01). -/
  clamped : Bool
deriving DecidableEq, Repr

/-- R72: the step of a form-3 tensor, computed once per tensor; the flag says that it was cut. -/
def step3 (d : Desc) (aEta : Int) : Int × Bool := scaleLog 1 (-(d.f : Int)) aEta d.f 0 0

/-- R72: the update of one element. -/
def updateElem (d : Desc) (h : HSet) (x : ElemIn) : ElemOut :=
  let d1 := -x.t - d.s1
  let dec : Int × Bool :=
    if d.decay ∧ h.aLam ≠ la17Zero then scaleLog (mag x.w) (-(d.f : Int)) (h.aLam + x.aEta) d.f 0 0 else (0, false)
  let out (sg : Int) (step : Int × Bool) (m : Int × Bool) : ElemOut :=
    let v := x.w - sg * step.1 - signI x.w * dec.1
    { w := clamp60 v, m := m.1, cuts := (if step.2 then 1 else 0) + (if dec.2 then 1 else 0), momSat := m.2, clamped := clamp60 v ≠ v }
  match d.form with
  | 0 => out (signI x.g) (scaleLog (mag x.g) (-x.t) x.aEta d.f d.umode x.r0) (x.m, false)
  | 1 =>
    let m := emaM x.m x.g d1 h.b1 d.mmode x.r1
    out (signI m.1) (scaleLog (mag m.1) d.s1 x.aEta d.f d.umode x.r0) m
  | 2 =>
    let m := emaM x.m x.g d1 h.b1 d.mmode x.r1
    let av := max x.av h.aEps
    out (signI m.1) (scaleLog (mag m.1) d.s1 (x.aEta - av / 2) d.f d.umode x.r0) m
  | _ =>
    let c := (mixM x.m x.g d1 h.b1).1
    let m := emaM x.m x.g d1 h.b2 d.mmode x.r1
    out (signI c) ((step3 d x.aEta).1, false) m

/-- R73: derive; the flag says that the code was cut to the greatest finite one (0x8200.03). -/
def derive (d : Desc) (v : Int) (r : Nat) : Nat × Bool :=
  match d.wfmt with
  | 0x8 => w64ToLog v d.f l16 d.wmode r
  | 0x9 => w64ToLog v d.f l8 d.wmode r
  | _ => (w64ToIeee v d.f 7 16 d.wmode r, false)

end Sys2Proof.Machine
end

