-- ==== Sys2Proof/Machine/Codes.lean ====
section
/-!
DEFINITION. Code groups: the placement procedure, the coded spaces and bands, felt addresses, and the
decode arithmetic (05_code_groups_and_placement.md; R164, R167 of 07_loss_rebuild_and_membership.md).
-/

namespace Sys2Proof.Machine

/-! ### Failure domains (R105) -/

/-- The label that shares a domain with nothing. -/
def noLabel : Nat := 0xFFFF

/-- An entry of the failure-domain table: device id, then five labels. -/
abbrev DomEntry := Nat × List Nat

/-- The used entries of 0x3001.01. -/
def State.domTable (s : State) : List DomEntry :=
  let b := s.octs 0x3001_01 0 768
  ((List.range 64).map (fun i => (fldLe b (12 * i) 2, (List.range 5).map (fun l => fldLe b (12 * i + 2 + 2 * l) 2)))).filter
    (·.1 ≠ 0xFFFF)

/-- The label of device c at level lv. DESIGN CHOICE: of two used entries with one device id, the first counts (R105 is silent). -/
def labelOf (t : List DomEntry) (c lv : Nat) : Nat :=
  ((t.find? (·.1 == c)).map (fun e => e.2.getD lv noLabel)).getD noLabel

/-! ### The placement procedure (R108) -/

/-- Insertion sort of naturals, rising. -/
def sortNat : List Nat → List Nat
  | [] => []
  | x :: l => insertSorted x (sortNat l)

/-- The index whose next taken fraction (2 taken + 1) / length is least, the lower index on a tie. -/
def leastLive (seqs : List (List Nat)) (taken : List Nat) : Option Nat :=
  (List.range seqs.length).foldl (fun best x =>
    let n := (seqs.getD x []).length
    let k := taken.getD x 0
    if k ≥ n then best else
      match best with
      | none => some x
      | some b =>
        if (2 * k + 1) * (seqs.getD b []).length < (2 * taken.getD b 0 + 1) * n then some x else some b) none

/-- The merge of R108: n further members taken from the sequences in turn. -/
def mergeSeqs (seqs : List (List Nat)) : Nat → List Nat → List Nat
  | 0, _ => []
  | n + 1, taken =>
    match leastLive seqs taken with
    | none => []
    | some b => (seqs.getD b []).getD (taken.getD b 0) 0 :: mergeSeqs seqs n (setAt taken b (taken.getD b 0 + 1))

/-- R108 deal: `n` levels remain, so the level now split is 5 − n. -/
def deal (t : List DomEntry) : Nat → List Nat → List Nat
  | 0, ms => sortNat ms
  | n + 1, ms =>
    let ls := sortNat (ms.map (fun c => labelOf t c (4 - n)))
    let seqs := ls.map (fun l => deal t n (ms.filter (fun c => labelOf t c (4 - n) = l)))
    mergeSeqs seqs ms.length (ls.map (fun _ => 0))

/-- R106 at one level: no label other than NONE is borne by more than m of the group. -/
def levelOk (t : List DomEntry) (m : Nat) (group : List Nat) (lv : Nat) : Bool :=
  group.all (fun c =>
    let l := labelOf t c lv
    l == noLabel || (group.filter (fun d => labelOf t d lv = l)).length ≤ m)

/-- R108 counts_ok. -/
def countsOk (t : List DomEntry) (m : Nat) (levels : List Nat) (group : List Nat) : Bool :=
  levels.all (levelOk t m group)

/-- R108: the loss unit of each role, joined over the overridden levels. -/
def lossUnits (t : List DomEntry) (waive : List Nat) (group : List Nat) : List Nat :=
  let n := group.length
  ((List.range n).map (fun a => ((List.range n).filter (a < ·)).map (fun b => (a, b)))).flatten.foldl (fun unit ab =>
    let ga := group.getD ab.1 0
    let gb := group.getD ab.2 0
    if waive.any (fun lv => labelOf t ga lv = labelOf t gb lv ∧ labelOf t ga lv ≠ noLabel) then
      let ua := unit.getD ab.1 0
      let ub := unit.getD ab.2 0
      unit.map (fun x => if x = max ua ub then min ua ub else x)
    else unit) (List.range n)

/-- How many of the sizes, greatest first, stay within m together. -/
def countWithin (m : Nat) : List Nat → Nat → Nat
  | [], _ => 0
  | x :: l, lost => if lost + x ≤ m then countWithin m l (lost + x) + 1 else 0

/-- A list in falling order, repeats kept. -/
def sortDown : List Nat → List Nat
  | [] => []
  | x :: l =>
    let r := sortDown l
    (r.takeWhile (x ≤ ·)) ++ x :: (r.dropWhile (x ≤ ·))

/-- R108 tolerance. -/
def tolerance (t : List DomEntry) (m : Nat) (waive : List Nat) (group : List Nat) : Nat :=
  let unit := lossUnits t waive group
  countWithin m (sortDown ((unit.eraseDups).map (fun u => unit.count u))) 0

/-- The groups of stride d (R108). -/
def strideGroups (order : List Nat) (km d : Nat) : List (List Nat) :=
  let n := order.length
  (List.range n).map (fun g => (List.range km).map (fun r => order.getD ((g + d * r) % n) 0))

/-- A placement: groups in role order, stride, unit tolerance, status. -/
structure Placement where
  groups : List (List Nat)
  stride : Nat
  tol : Nat
  status : Nat
deriving DecidableEq, Repr

/-- The least of a list of naturals, d for none. -/
def minN (d : Nat) : List Nat → Nat
  | [] => d
  | x :: l => l.foldl min x

/-- R108: the search over strides, given those still to try and the best override so far. -/
def placeAux (t : List DomEntry) (order : List Nat) (k m : Nat) (waive kept : List Nat) :
    List Nat → Option Placement → Option Placement
  | [], best => best
  | d :: ds, best =>
    if Nat.gcd d order.length ≠ 1 then placeAux t order k m waive kept ds best else
      let gs := strideGroups order (k + m) d
      if gs.all (countsOk t m (List.range 5)) then
        some ⟨gs, d, minN 0 (gs.map (tolerance t m waive)), 1⟩
      else if ¬ waive.isEmpty ∧ gs.all (countsOk t m kept) then
        let tu := minN 0 (gs.map (tolerance t m waive))
        placeAux t order k m waive kept ds
          (match best with
           | none => some ⟨gs, d, tu, 2⟩
           | some p => if tu > p.tol then some ⟨gs, d, tu, 2⟩ else some p)
      else placeAux t order k m waive kept ds best

/-- R108 place, after the deal. -/
def placeOrder (t : List DomEntry) (order : List Nat) (k m waive : Nat) : Option Placement :=
  let ov := setBits waive 5
  placeAux t order k m ov ((List.range 5).filter (fun l => ¬ ov.contains l))
    ((List.range order.length).filter (0 < ·)) none

/-- R110: why a placement of the members is refused: reason, level, label. -/
def refusal (t : List DomEntry) (ms order : List Nat) (k m waive : Nat) : Option (Nat × Nat × Nat) :=
  if k = 0 ∨ k > 30 ∨ m = 0 ∨ m > 3 then some (1, 0, 0)
  else if ms.length < k + m then some (2, 0, 0)
  else match (sortNat ms).find? (fun c => ¬ t.any (·.1 == c)) with
    | some c => some (3, 0xFF, c)
    | none =>
      match placeOrder t order k m waive with
      | some _ => none
      | none =>
        let kept := (List.range 5).filter (fun l => ¬ (waive.testBit l))
        let d := ((List.range order.length).filter (fun d => 0 < d ∧ Nat.gcd d order.length = 1)).headD 1
        match (strideGroups order (k + m) d).find? (fun g => ¬ countsOk t m kept g) with
        | none => some (4, 0, 0)
        | some g =>
          let lv := (kept.find? (fun l => ¬ levelOk t m g l)).getD 0
          let lab := (List.range g.length).find? (fun i =>
            let l := labelOf t (g.getD i 0) lv
            l ≠ noLabel ∧ ((g.take (i + 1)).filter (fun c => labelOf t c lv = l)).length > m)
          some (4, lv, labelOf t (g.getD (lab.getD 0) 0) lv)

/-- R112: bit lv is set when some group holds more than m members bearing one label at level lv. -/
def exposure (t : List DomEntry) (m : Nat) (gs : List (List Nat)) : Nat :=
  sumN ((List.range 5).map (fun lv => if gs.all (fun g => levelOk t m g lv) then 0 else 2 ^ lv))

/-! ### k, m and the groups in use -/

/-- k (0x3000.01). -/
def State.k (s : State) : Nat := s.rd 0x3000_01

/-- m (0x3000.02). -/
def State.m (s : State) : Nat := s.rd 0x3000_02

/-- The members of group g in role order: the placement in use, or the target of a re-striping. -/
def State.groupOf (s : State) (tgt : Bool) (g : Nat) : List Nat :=
  (if tgt then s.member.target else s.member.groups).getD g []

/-- The parity holders of a group, by parity index. -/
def State.holders (s : State) (tgt : Bool) (g : Nat) : List Nat := (s.groupOf tgt g).drop s.k

/-- The group in which device c plays offset t of the base placement or target. -/
def groupAt (gs : List (List Nat)) (c t : Nat) : Option Nat := gs.findIdx? (fun g => g.getD t 0xFFFF == c)

/-- The band length of a space (R103): in use, or of the target. -/
def State.band (s : State) (tgt : Bool) (sp : Nat) : Nat :=
  if tgt then (if sp = 0 then s.member.targetW else s.member.targetN)
  else (if sp = 0 then s.rd 0x3002_04 else s.rd 0x3002_05)

/-! ### The coded spaces (R102, R163, R170) -/

/-- The regions of space W or N that the mould declares, in descriptor order (R102). -/
def Mould.space (m : Mould) (sp : Nat) : List Region :=
  (m.descs.map (fun d =>
    if sp = 0 then (if d.sfmt = 0 then [(⟨d.base, wholeLines (d.count * 8), .state, d.num⟩ : Region)] else [])
    else (d.regions.filter (fun r => r.kind = .moment ∨ r.kind = .rowF ∨ r.kind = .colF)) ++
      (if d.form = 4 then [⟨d.base, wholeLines (d.count * 4), .state, d.num⟩] else []))).flatten

/-- R260: the coded yard regions in entry order, whose lines follow the mould's in space N; they lie at `yardV`. -/
def State.codedYard (s : State) : List Region :=
  (s.yRegions.filter (·.coded)).map (fun r => ⟨yardV + r.base, 4096 * r.pages, .backing, 0x100 + r.num⟩)

/-- The regions of an own space, in order (R102), with the adopted lines that a switch has made own lines (R172). -/
def State.space (s : State) (sp : Nat) : List Region :=
  (match s.pass.mould with | some m => m.space sp | none => []) ++ (if sp = 0 then [] else s.codedYard) ++
    (s.member.absorbed.filter (·.space = sp)).map (fun a => ⟨a.base, a.size, .reserve, 0⟩)

/-- The own line count of a space, without absorbed pieces. -/
def State.ownLines (s : State) (sp : Nat) : Nat := sumN ((s.space sp).map (fun r => r.size / 256))

/-- The address of line n of a list of regions. -/
def lineIn : List Region → Nat → Option Nat
  | [], _ => none
  | r :: rs, n => if n < r.size / 256 then some (r.base + 256 * n) else lineIn rs (n - r.size / 256)

/-- The line number of address a in a list of regions, from n0 on. -/
def lineNumber : List Region → Nat → Nat → Option Nat
  | [], _, _ => none
  | r :: rs, n0, a =>
    if r.base ≤ a ∧ a < r.base + r.size then some (n0 + (a - r.base) / 256) else lineNumber rs (n0 + r.size / 256) a

/-- The base of the elastic reserve. -/
def State.reserveBase (s : State) : Nat := s.rd 0x3201_01

/-- R163: the offset in a data piece of its line x of a space. -/
def State.pieceLine (s : State) (sp x : Nat) : Nat :=
  if sp = 0 then 256 * x else 256 * s.rd 0x3002_04 + 256 * x

/-- R163: the offset in a data piece of the working words of W line x. -/
def State.pieceWork (s : State) (x : Nat) : Nat := 256 * (s.rd 0x3002_04 + s.rd 0x3002_05) + 64 * x

/-- The size of a piece, rounded up to 4,096 bytes (R163, R164). -/
def State.pieceSize (s : State) (kind : Nat) : Nat :=
  let w := s.rd 0x3002_04
  let n := s.rd 0x3002_05
  let raw := if kind = 0 then 320 * w + 256 * n else 256 * w + 512 * n
  ceilDiv raw 4096 * 4096

/-- The data pieces held, not absorbed. -/
def State.dataPieces (s : State) : List Piece := s.member.pieces.filter (·.kind = 0)

/-- The address in host memory of a coded line; none for a zero line (R103). -/
def State.lineAddr (s : State) (l : LineId) : Option Nat :=
  if l.src = s.own then lineIn (s.space l.space) l.line
  else
    let lb := s.band false l.space
    match s.member.pieces.find? (fun p => p.kind = 0 ∧ p.src = l.src ∧ p.idx = l.line / max lb 1) with
    | some p => some (s.reserveBase + p.off + s.pieceLine l.space (l.line % max lb 1))
    | none => none

/-- The coded line that holds address a: of the own spaces, or of a data piece held. -/
def State.lineAt (s : State) (a : Nat) : Option LineId :=
  match lineNumber (s.space 0) 0 a with
  | some n => some ⟨s.own, 0, n⟩
  | none =>
    match lineNumber (s.space 1) 0 a with
    | some n => some ⟨s.own, 1, n⟩
    | none =>
      let w := s.rd 0x3002_04
      let n := s.rd 0x3002_05
      match s.dataPieces.find? (fun p =>
        let b := s.reserveBase + p.off
        b ≤ a ∧ a < b + 256 * (w + n)) with
      | some p =>
        let x := (a - (s.reserveBase + p.off)) / 256
        some (if x < w then ⟨p.src, 0, p.idx * w + x⟩ else ⟨p.src, 1, p.idx * n + (x - w)⟩)
      | none => none

/-- The elements of a line of a space (Table 5-2): 32 or 64. -/
def elems (sp : Nat) : Nat := if sp = 0 then 32 else 64

/-- The width of a coded word of a space, in bytes. -/
def wordW (sp : Nat) : Nat := if sp = 0 then 8 else 4

/-- A U32 line of space N: a counter tensor's state or a yard line (R102); other lines of space N hold M32 words. -/
def State.isU32 (s : State) (a : Nat) : Bool :=
  (match s.pass.mould with
   | some m => m.descs.any (fun d => d.form = 4 ∧ d.base ≤ a ∧ a < d.base + wholeLines (d.count * 4))
   | none => false) || s.codedYard.any (fun r => r.base ≤ a ∧ a < r.base + r.size)

/-- The value of a coded word (R35, R39, R100). -/
def State.wordVal (s : State) (sp a w : Nat) : Int :=
  if sp = 0 then sgn 64 w else if s.isU32 a then (w : Int) else sgn 32 w

/-- The values of the words of the line at address a. -/
def State.lineVals (s : State) (sp a : Nat) : List Int :=
  (s.mWords a (wordW sp) (elems sp)).map (s.wordVal sp a)

/-- The words of values, as bytes of a line. -/
def valsBytes (sp : Nat) (vs : List Int) : Bytes := wordsBytes (wordW sp) (vs.map (pat (8 * wordW sp)))

/-- The stream of a coded line: its group and data index at the placement in use, and its stripe (R104). -/
def State.lineRole (s : State) (l : LineId) : Option (Nat × Nat × Nat) :=
  let lb := max (s.band false l.space) 1
  let b := l.line / lb
  let g := if l.src = s.own then s.ofld 0x3003_02 (2 * b) 2
    else ((s.member.pieces.find? (fun p => p.kind = 0 ∧ p.src = l.src ∧ p.idx = b)).map (·.group)).getD 0xFFFF
  if b < s.k ∧ g ≠ 0xFFFF then some (g, b, l.line % lb) else none

/-- The number of lines of a space at a member, as its Join request or Accept told (R103). -/
def State.lineCount (s : State) (dev sp : Nat) : Nat :=
  match s.member.counts.find? (·.1 == dev) with
  | some c => if sp = 0 then c.2.1 else c.2.2
  | none => s.ownLines sp

/-- The lines of a space that band `idx` of member `src` holds; the rest of the band are zero lines (R103). -/
def State.bandLines (s : State) (src idx sp : Nat) : Nat := min (s.band false sp) (s.lineCount src sp - idx * s.band false sp)

/-- R170: the number of a coded line in the extended own spaces: own lines, then those of the data pieces in the order of R163. A
piece adds the lines that its member has, no zero lines. -/
def State.extLine (s : State) (l : LineId) : Nat :=
  if l.src = s.own then l.line
  else
    let lb := max (s.band false l.space) 1
    let before := s.dataPieces.takeWhile (fun p => ¬ (p.src = l.src ∧ p.idx = l.line / lb))
    s.ownLines l.space + sumN (before.map (fun p => s.bandLines p.src p.idx l.space)) + l.line % lb

/-- The stream of a coded line in the target placement of a re-striping (R170, R171). -/
def State.targetRole (s : State) (l : LineId) : Option (Nat × Nat × Nat) :=
  let lb := max (s.band true l.space) 1
  let n := s.extLine l
  let b := n / lb
  match groupAt s.member.target s.own b with
  | some g => if b < s.k then some (g, b, n % lb) else none
  | none => none

/-! ### Felts (R114, R115) -/

/-- The size of one felt segment. -/
def segSize (w n : Nat) : Nat := 256 * w + 512 * n

/-- R115, R163: where the felt segment of a group begins at this holder: in the active felt area by its parity
index, in the other area for a target, or in a parity piece. -/
def State.segment (s : State) (tgt : Bool) (g : Nat) : Option Nat :=
  let active := s.rd 0x3201_05
  let area (a : Nat) : Nat := if a = 0 then s.rd 0x3002_01 else s.rd 0x3201_03
  if tgt then
    match (s.holders true g).findIdx? (· == s.own) with
    | some j => some (area (1 - active) + j * segSize s.member.targetW s.member.targetN)
    | none => none
  else
    match s.member.pieces.find? (fun p => p.kind = 1 ∧ p.group = g) with
    | some p => some (s.reserveBase + p.off)
    | none =>
      match (s.holders false g).findIdx? (· == s.own) with
      | some j => some (area active + j * segSize (s.rd 0x3002_04) (s.rd 0x3002_05))
      | none => none

/-- R115: the address of the felt line of a stripe. -/
def State.feltAddr (s : State) (tgt : Bool) (g sp stripe : Nat) : Option Nat :=
  (s.segment tgt g).map (fun b => if sp = 0 then b + 256 * stripe else b + 256 * s.band tgt 0 + 512 * stripe)

/-- The P61 words of a felt line. -/
def State.feltWords (s : State) (a sp : Nat) : List Nat := s.mWords a 8 (elems sp)

/-- The parity index this member holds in a group. -/
def State.parityIn (s : State) (tgt : Bool) (g : Nat) : Option Nat := (s.holders tgt g).findIdx? (· == s.own)

/-- R98, R99: the term of a delta for parity j of data index i. -/
def term (j i : Nat) (d : Int) : Nat := rotmul (toField d) (j * i)

/-- Two lists of field elements added element by element. -/
def addLists : List Nat → List Nat → List Nat
  | a :: as, b :: bs => addP a b :: addLists as bs
  | as, [] => as
  | [], bs => bs

/-! ### Rebuild arithmetic (R167) -/

/-- Row operations of Gauss–Jordan over the field: the pivot of column c is brought up and normalised, and the
column cleared elsewhere. -/
def pivot (rows : List (List Nat)) (c : Nat) : List (List Nat) :=
  match (List.range rows.length).find? (fun r => c ≤ r ∧ (rows.getD r []).getD c 0 ≠ 0) with
  | none => rows
  | some r =>
    let pr := rows.getD r []
    let rows := setAt (setAt rows r (rows.getD c [])) c pr
    let iv := invP (pr.getD c 0)
    let pr := pr.map (mulP iv)
    (List.range rows.length).map (fun i =>
      if i = c then pr else
        let ro := rows.getD i []
        let f := ro.getD c 0
        (List.range ro.length).map (fun x => subP (ro.getD x 0) (mulP f (pr.getD x 0))))

/-- R167: solves A x = σ over the field for the lost data indices and the parities used. -/
def solveField (lost J : List Nat) (sig : List Nat) : List Nat :=
  let rows := (List.range J.length).map (fun r => lost.map (fun a => rotmul 1 (J.getD r 0 * a)) ++ [sig.getD r 0])
  let out := (List.range lost.length).foldl pivot rows
  (List.range lost.length).map (fun r => (out.getD r []).getD lost.length 0)

/-- R167 rebuild_element: the lost data images, from the surviving ones (index, image) and the parities (index, felt). -/
def rebuildElement (lost : List Nat) (x felt : List (Nat × Nat)) : List Nat :=
  let sig := felt.map (fun jf => x.foldl (fun acc ix => subP acc (rotmul ix.2 (jf.1 * ix.1))) jf.2)
  solveField lost (felt.map (·.1)) sig

/-- R167 parity_element. -/
def parityElement (j : Nat) (x : List (Nat × Nat)) : Nat :=
  x.foldl (fun acc ix => addP acc (rotmul ix.2 (j * ix.1))) 0

end Sys2Proof.Machine
end

