-- ==== Sys2Proof/Machine/PageOps.lean ====
section
/-!
DEFINITION. The pages of the yard: directory, near frames, far blocks, and the acts of other functions on a far page
(R261 to R263, 12_the_yard.md).

A page's contents stand at `yardV`, whatever its place; its directory entry and its near frame or far block record the place.
-/

namespace Sys2Proof.Machine

/-- The yard record changed by f. -/
def State.modYard (s : State) (f : Yard → Yard) : State := { s with yard := f s.yard }

/-- The lowest number from k on that is not listed. -/
def lowestFree (taken : List Nat) : Nat → Nat → Option Nat
  | 0, _ => none
  | fuel + 1, k => if taken.contains k then lowestFree taken fuel (k + 1) else some k

/-! ### Shares of a region (R261, R281) -/

/-- Bytes of [0, x) in granules of residue i, of `p` residues and granule size g. -/
def residueBytes (g p i x : Nat) : Nat := x / (g * p) * g + min (x % (g * p) - i * g) g

/-- The bytes of [lo, hi) of a range that lie in controller c. -/
def IRange.bytesIn (r : IRange) (c lo hi : Nat) : Nat :=
  let lo := max lo r.base
  let hi := min hi (r.base + r.size)
  if hi ≤ lo then 0 else
    let p := popcount r.mask 32
    match (List.range p).find? (fun i => nthBit r.mask i = c) with
    | some i => residueBytes (2 ^ r.g) p i (hi - r.base) - residueBytes (2 ^ r.g) p i (lo - r.base)
    | none => 0

/-- The bytes of a region that fall to slice n (R281). -/
def State.shareOf (s : State) (n base size : Nat) : Nat := sumN (s.ranges.map (fun r => r.bytesIn n base (base + size)))

/-! ### The directory and the frames -/

/-- The directory entry of a page that is not all zeros. -/
def State.yPage (s : State) (r page : Nat) : Option YPage := s.yard.pages.find? (fun p => p.region == r && p.page == page)

/-- The largest d below acc + 2^fuel with no more than x of the bytes from base to base + d at slice n, found bit by bit. -/
def State.shareSeek (s : State) (n base x : Nat) : Nat → Nat → Nat
  | 0, acc => acc
  | k + 1, acc => State.shareSeek s n base x k (if s.shareOf n base (acc + 2 ^ k) ≤ x then acc + 2 ^ k else acc)

/-- The address of byte x of slice n's share of a region, whose bytes ascend in address (R261, R281). -/
def State.shareAddr (s : State) (n base size x : Nat) : Option Nat :=
  if x < s.shareOf n base size then some (base + s.shareSeek n base x 57 0) else none

/-- The line k of slice n's share of the near backing (R261). -/
def State.yShareLine (s : State) (n k : Nat) : Option Nat := s.shareAddr n (s.rd 0x5000_05) (s.rd 0x5000_06) (256 * k)

/-- The directory entries of a slice before region r's, and after the last region when r is none. -/
def State.yDirBefore (s : State) (r : Option Nat) : Nat :=
  let a := max 1 s.actives.length
  sumN ((s.yRegions.filter (fun x => match r with | some k => decide (x.num < k) | none => true)).map (fun x => ceilDiv x.pages a))

/-- The directory lines at the front of each share. -/
def State.yDirLines (s : State) : Nat := ceilDiv (8 * s.yDirBefore none) 256

/-- The near frames of a share: the lines after the directory, 16 a frame. -/
def State.yFrames (s : State) : Nat :=
  (s.rd 0x5000_06 / 256 / max 1 s.actives.length - s.yDirLines) / 16

/-- The address of the directory entry of a page at its home slice. -/
def State.yDirAddr (s : State) (r page : Nat) : Option Nat :=
  let (n, t) := s.yHome r page
  let i := s.yDirBefore (some r) + t
  (s.yShareLine n (8 * i / 256)).map (fun a => a + 8 * i % 256)

/-- Table 12-2: a directory entry as 8 bytes. -/
def dirWord (p : YPage) : Nat :=
  p.place + (if p.ref then 4 else 0) + (if p.retire then 8 else 0) + p.idx * 256

/-- The directory entry of a page is written to memory. -/
def State.yShowDir (s : State) (r page : Nat) : State :=
  match s.yDirAddr r page with
  | none => s
  | some a => s.mwrNat a 8 ((s.yPage r page).elim 0 dirWord)

/-- The entry of a page is replaced. -/
def State.yPutPage (s : State) (p : YPage) : State :=
  (s.modYard fun y => { y with pages := y.pages.filter (fun q => ¬ (q.region = p.region ∧ q.page = p.page)) ++ [p] }).yShowDir p.region p.page

/-- The near frame of a yard line's page, with the address of line x of the frame. -/
def State.frameLine (s : State) (a x : Nat) : Option (YPage × Nat) :=
  match s.yPageAt (a - yardV) with
  | none => none
  | some (r, page) =>
    match s.yPage r.num page with
    | some p => if p.place = 1 then (s.yShareLine p.slice (s.yDirLines + 16 * p.idx + x)).map (fun b => (p, b)) else none
    | none => none

/-- R258, R261: the physical address of a line: of the yard, its near frame's line, else its place in the aperture. -/
def State.physAddr (s : State) (a : Nat) : Nat :=
  if a < yardV then a else match s.frameLine a ((a - yardV) / 256 % 16) with
    | some (_, b) => b + a % 256
    | none => s.rd 0x5000_02 + s.rd 0x5000_04 * 2 ^ 40 + (a - yardV)

/-- R258: the aperture's address of a yard line; any other address as it is. -/
def State.hostAddr (s : State) (a : Nat) : Nat := if a < yardV then a else s.rd 0x5000_02 + s.rd 0x5000_04 * 2 ^ 40 + (a - yardV)

/-- R261: where the contents at an address of the near backing are held: a frame in use shows its page. -/
def State.viewAddr (s : State) (a : Nat) : Nat :=
  if a < s.rd 0x5000_05 ∨ s.rd 0x5000_05 + s.rd 0x5000_06 ≤ a ∨ s.yard.pages.isEmpty then a else
    match s.sliceOf a with
    | none => a
    | some n =>
      let i := s.shareOf n (s.rd 0x5000_05) (a - s.rd 0x5000_05) / 256
      match s.yard.pages.find? (fun p => decide (s.yDirLines ≤ i) && p.slice == n && p.place == 1 && p.idx == (i - s.yDirLines) / 16) with
      | some p => yardV + (s.yRegion p.region).base + 4096 * p.page + 256 * ((i - s.yDirLines) % 16) + a % 256
      | none => a

/-- R261: an address of the near backing lies in a share's directory. -/
def State.inDirectory (s : State) (a : Nat) : Bool :=
  match s.sliceOf a with
  | some n => decide (s.shareOf n (s.rd 0x5000_05) (a - s.rd 0x5000_05) < 256 * s.yDirLines)
  | none => false

/-- The move in flight of a page. -/
def State.yMoving (s : State) (r page : Nat) : Option YMove := s.yard.moves.find? (fun m => m.region == r && m.page == page && m.what ≤ 2)

/-- A page holds a near frame: it is near, or moves into or out of one. -/
def State.yFramed (s : State) (p : YPage) : Bool :=
  p.place == 1 || (p.place == 3 && (match s.yMoving p.region p.page with | some m => decide (m.what ≤ 1) | none => true))

/-- Near pages of a region at a slice. -/
def State.yNear (s : State) (r n : Nat) : List YPage :=
  s.yard.pages.filter (fun p => p.region == r && p.slice == n && s.yFramed p)

/-- The near frames of a slice that pages hold, or that are used no more. -/
def State.yFramesHeld (s : State) (n : Nat) : List Nat :=
  (s.yard.pages.filter (fun p => p.slice == n && s.yFramed p)).map (·.idx) ++ (s.yard.bad.filter (·.1 == n)).map (·.2)

/-- The lowest free near frame of a slice. -/
def State.yFreeFrame (s : State) (n : Nat) : Option Nat :=
  let taken := s.yFramesHeld n
  match lowestFree taken (taken.length + 1) 0 with
  | some f => if f < s.yFrames then some f else none
  | none => none

/-- The far blocks that pages hold or moves use, or that are used no more. -/
def State.yBlocksHeld (s : State) : List Nat :=
  ((s.yard.pages.filter (·.place == 2)).map (·.idx) ++ s.yard.moves.map (·.block) ++ (s.yard.bad.filter (·.1 == 256)).map (·.2)).eraseDups

/-- The lowest free far block. -/
def State.yFreeBlock (s : State) : Option Nat :=
  let taken := s.yBlocksHeld
  match lowestFree taken (taken.length + 1) 0 with
  | some f => if f < s.rd 0x5000_08 then some f else none
  | none => none

/-- The LBA of a far block. -/
def State.yLba (s : State) (block : Nat) : Nat := s.rd 0x5000_07 + block

/-- The contents of a page. -/
def State.yBytes (s : State) (r : YRegion) (page : Nat) : Bytes := s.mrd (yardV + r.base + 4096 * page) 4096

/-- R262: each slice's bound of near pages of a class-1 region. -/
def State.yBound (s : State) (r : YRegion) : Nat := ceilDiv r.quota (max 1 s.actives.length)

/-- A page of class 2, or of class 1 where the slice may hold no near page, is served staged. -/
def State.yStaged (s : State) (r : YRegion) : Bool := r.cls == 2 || (r.cls == 1 && s.yBound r == 0)

/-- A page stands in a stall of the yard reserve. -/
def State.yInStall (s : State) (r page : Nat) : Bool := s.yard.staged.any (fun x => x.1 == r && x.2.1 == page)

/-- R261, R270: the stalls of the yard reserve in use at slice n: its staged pages, and 320 bytes for each request that waits there. -/
def State.yardStalls (s : State) (n : Nat) : Nat :=
  let here (r page : Nat) : Bool := (s.yHome r page).1 == n
  let reqs := sumN ((s.yard.combs.filter (fun c => match s.yPageAt c.line with | some (r, page) => here r.num page | none => false)).map (·.reqs.length))
  (s.yard.staged.filter (fun x => here x.1 x.2.1)).length + (s.yard.moves.filter (fun m => m.what == 2 && here m.region m.page)).length +
    ceilDiv (320 * reqs) 4096

/-- A staged page has changed since it was last written back. -/
def State.yChanged (s : State) (r page : Nat) : Bool := s.yard.staged.any (fun x => x.1 == r && x.2.1 == page && x.2.2)

/-- A page stands in a stall, changed or not. -/
def State.yStage (s : State) (r page : Nat) (changed : Bool) : State :=
  s.modYard fun y => { y with staged := y.staged.filter (fun x => ¬ (x.1 = r ∧ x.2.1 = page)) ++ [(r, page, changed)] }

/-- R262: a staged page leaves its stall: a changed one is written back first, one write at a time. -/
def State.yUnstage (s : State) (r : YRegion) (page : Nat) (changed : Bool) : State :=
  match s.yPage r.num page with
  | none => s
  | some p =>
    let writing : Bool := s.yard.moves.any (fun m => m.region == r.num && m.page == page && m.what == 3)
    if writing then (if changed then s.yStage r.num page true else s)
    else if changed ∨ s.yChanged r.num page then
      ((s.yStage r.num page false).modYard fun y => { y with moves := y.moves ++ [⟨r.num, page, 3, p.idx⟩] }).fIssue 4 (p.idx % 2) true (s.yLba p.idx) 1
        (s.yBytes r page)
    else s.modYard fun y => { y with staged := y.staged.filter (fun x => ¬ (x.1 = r.num ∧ x.2.1 = page)) }

/-- R263: another function has changed a line of the yard: its page is backed where it was not, and a page that stands far, or
that leaves its frame, is written back. -/
def State.touchPage (s : State) (a : Nat) : State :=
  if a < yardV then s else
    match s.yPageAt (a - yardV) with
    | none => s
    | some (r, page) =>
      let n := (s.yHome r.num page).1
      match s.yPage r.num page with
      | some p =>
        if p.place = 1 then s
        else if p.place = 3 ∨ s.yInStall r.num page then s.yStage r.num page true
        else s.yUnstage r page true
      | none =>
        let near : Bool := !s.yStaged r && (r.cls == 0 || decide ((s.yNear r.num n).length < s.yBound r))
        match (if near then s.yFreeFrame n else none), s.yFreeBlock with
        | some f, _ => s.yPutPage ⟨r.num, page, 1, true, false, f, n⟩
        | none, some b => if r.cls = 0 then s else (s.yPutPage ⟨r.num, page, 2, true, false, b, n⟩).yUnstage r page true
        | none, none => s

end Sys2Proof.Machine
end

