-- ==== Sys2Proof/Machine/CouchOps.lean ====
section
/-!
DEFINITION. The shared operations of couching: epoch steps and windows, capture and packing, the delta log,
sending and acknowledging, vats and folds, and the holds on coded writes
(06_couching_epochs_and_the_deckle.md; R149, R158, R159 of 07_loss_rebuild_and_membership.md; the copy-on-write
save of R183 in 08_flash_and_shared_store.md).
-/

namespace Sys2Proof.Machine

/-! ### Epoch steps and windows -/

/-- s(e): the last step whose step-done came before the tick of e, plus 1, from the boundary epochs newest first. DESIGN CHOICE:
an epoch for which no step-done came before, such as the one in which a Release falls, and one older than every boundary held, has
the oldest boundary's step plus 1 (R132 names no step for it). -/
def epochStep (bounds : List (Nat × Nat)) (e : Nat) : Nat :=
  match bounds.find? (fun b => b.2 < e) with
  | some b => b.1 + 1
  | none => ((bounds.getLast?).map (fun b => b.1 + 1)).getD 1

/-- The epoch step of epoch e at this member. -/
def State.stepOf (s : State) (e : Nat) : Nat := epochStep s.couch.bounds e

/-- R132: the window of a step, G × ceil(step / G). -/
def windowOf (g st : Nat) : Nat := g * ceilDiv st (max g 1)

/-- The window of a delta of epoch e. -/
def State.window (s : State) (e : Nat) : Nat := windowOf s.deckle (s.stepOf e)

/-- R132: the vat bank of a window. -/
def State.bankOf (s : State) (c : Nat) : Nat := c / max s.deckle 1 % 2

/-- Coding takes part: STARTING, ON or DRAINING. -/
def State.coding (s : State) : Bool := s.fn .coding != 0

/-- A power-fail flush has begun (R143). -/
def State.flushing (s : State) : Bool := s.couch.flush.isSome

/-! ### The journal and the delta log (R158, R159) -/

/-- A control record as Table 7-4 holds it, least significant byte first. -/
def JRec.bytes (r : JRec) : Bytes :=
  let body := padTo 8 r.body
  le 1 r.ty ++ zeros 1 ++ le 2 (24 + body.length) ++ le 4 r.halter ++ le 8 r.seq ++ le 8 r.time ++ body

/-- The sizes of the fields of a record body of n bytes (Tables 7-5 and 12-7). -/
def bodyShape (ty n : Nat) : List Nat :=
  match ty with
  | 3 => [4, 1, 1, 2, 8, 8] ++ List.replicate ((n - 24) / 2) 2
  | 4 => [8, 8, 4, 4]
  | 7 => [1, 1, 2, 2, 2, 4, 4, 8, 8, 8]
  | 8 => [4, 4] ++ List.replicate 8 1
  | _ => List.replicate (n / 8) 8

/-- Each field of a body reversed: memory order to wire order and back. -/
def flipFields : List Nat → Bytes → Bytes
  | [], bs => bs
  | n :: ns, bs => (bs.take n).reverse ++ flipFields ns (bs.drop n)

/-- A record body in the other byte order. -/
def flipBody (ty : Nat) (body : Bytes) : Bytes := flipFields (bodyShape ty body.length) body

/-- A control record as a mirror frame carries it, each field most significant byte first (Table 7-2). -/
def JRec.wire (r : JRec) : Bytes :=
  let body := padTo 8 r.body
  be 1 r.ty ++ zeros 1 ++ be 2 (24 + body.length) ++ be 4 r.halter ++ be 8 r.seq ++ be 8 r.time ++ flipBody r.ty body

/-- The records that fit a ring of 16 MiB, newest first. -/
def ringFit : Nat → List JRec → List JRec
  | _, [] => []
  | room, r :: rs => if r.bytes.length ≤ room then r :: ringFit (room - r.bytes.length) rs else []

/-- R158: a control record joins the ring, the journal head moves, and the record goes to the twin. -/
def State.journal (s : State) (ty : Nat) (body : Bytes) : State :=
  let r : JRec := ⟨ty, s.halter, s.member.jnext, s.now, body⟩
  let ring := ringFit (2 ^ 24) (r :: s.member.journal)
  let s := { s with member := { s.member with journal := ring, jnext := s.member.jnext + 1 } }
  let s := s.wr 0x3203_03 r.seq
  let s := s.wr 0x3203_04 ((ring.getLast?.map (·.seq)).getD r.seq)
  if s.mirroring then s.sendTwin 0x2B 0 (be 8 r.seq ++ be 2 1 ++ zeros 6 ++ r.wire) else s

/-- R374, R144: the journal and log records that a silent twin has missed go to it, as far as the rings hold them; log records
no longer held are lost to it (R366). -/
def State.sendTail (s : State) : State :=
  match s.twin.tail with
  | none => s
  | some (j, l) =>
    let lost := s.log.next - s.log.recs.length - l
    let js := (s.member.journal.filter (fun r => decide (j ≤ r.seq))).reverse
    let ls := (s.log.recs.filter (fun r => decide (l ≤ r.seq))).reverse
    let s := s.modTwin fun t => { t with tail := if s.mirroring then none else some (s.member.jnext, s.log.next) }
    let s := js.foldl (fun (s : State) r => s.sendTwin 0x2B 0 (be 8 r.seq ++ be 2 1 ++ zeros 6 ++ r.wire)) s
    let s := ls.foldl (fun (s : State) r => s.sendTwin 0x84 0 (be 8 r.seq ++ be 2 1 ++ zeros 6 ++ r.wire)) s
    if lost = 0 then s else (s.incBy 0x8700_04 lost).ev 0x700F (be 1 1 ++ be 4 lost)

/-- The bytes of the record of some deltas (Table 7-6). -/
def recSize (d : List Int) : Nat := ceilDiv (16 + packedSize d.length (packWidth d)) 8 * 8

/-- Table 7-6: a delta-log record as bytes. -/
def DRec.bytes (r : DRec) : Bytes :=
  padTo 8 (le 1 r.id.space ++ le 1 r.sources ++ zeros 2 ++ le 4 r.id.line ++ le 8 r.epoch ++ packLine r.deltas)

/-- The stalls that the chains of a slice take, one chain a window. -/
def State.dlogStalls (s : State) (n : Nat) : Nat :=
  let recs := s.member.dlog.filter (fun r => (s.lineAddr r.id).bind s.sliceOf = some n)
  sumN ((recs.map (·.window)).eraseDups.map (fun w =>
    ceilDiv (sumN ((recs.filter (·.window = w)).map (fun r => recSize r.deltas))) 4096))

/-- The capture entries of a slice. -/
def State.entriesAt (s : State) (n : Nat) : List Entry :=
  s.couch.entries.filter (fun e => (s.lineAddr e.id).bind s.sliceOf = some n)

/-- R159: the stalls that the chains of slice n would take with the open entries as records, each in its window's chain. -/
def State.dlogNeed (s : State) (n : Nat) : Nat :=
  let recs := (s.member.dlog.filter (fun r => (s.lineAddr r.id).bind s.sliceOf = some n)).map (fun r => (r.window, recSize r.deltas))
  let open_ := (s.entriesAt n).map (fun e => (s.window e.epoch, recSize e.deltas))
  let all := recs ++ open_
  sumN ((all.map (·.1)).eraseDups.map (fun w => ceilDiv (sumN ((all.filter (·.1 = w)).map (·.2))) 4096))

/-- R159: the delta-log reserve of slice n has room for every open entry as a record; while coding is STARTING none is kept (R138). -/
def State.dlogFits (s : State) (n : Nat) : Bool := decide (s.fn .coding ≤ 1) || decide (s.dlogNeed n ≤ s.rd 0x3203_01)

/-- R123: slice n can hold one more entry of a space. -/
def State.entryRoom (s : State) (n sp : Nat) : Bool :=
  let es := s.entriesAt n
  let w := (es.filter (·.id.space = 0)).length + (if sp = 0 then 1 else 0)
  let m := (es.filter (·.id.space = 1)).length + (if sp = 0 then 0 else 1)
  ceilDiv w 16 + ceilDiv m 8 ≤ s.rd 0x3100_09

/-- Appends the delta-log record of an entry (R159); while coding is STARTING no window exists (R138). -/
def State.logEntry (s : State) (e : Entry) : State :=
  if s.fn .coding = 1 ∨ e.deltas.all (· == 0) then s else
    { s with member := { s.member with dlog := ⟨e.id, e.epoch, s.window e.epoch, e.sources, e.deltas⟩ :: s.member.dlog } }

/-! ### Outstanding payload (R140) -/

/-- The packed size of every entry not sent, times m, plus the bytes of every copy not acknowledged. -/
def State.outstanding (s : State) : Nat :=
  s.m * sumN ((s.couch.entries ++ s.couch.tgtDue).map (fun e => entrySize e.deltas)) +
  sumN (s.couch.out.map (fun f => (s.m - f.acked.length) * f.f.length))

/-- 0x3100.07 follows, and the outstanding hold of R140 begins or ends; an overrun, a flush or a cut keeps 0x3101.05. DESIGN CHOICE:
0x8310.0B counts each time that the hold begins, not each write it holds. -/
def State.refreshOut (s : State) : State :=
  let n := s.outstanding
  let s := s.wr 0x3100_07 n
  let full := n ≥ s.rd 0x3100_06
  if full ∧ ¬ s.couch.limitHold then
    let s := { s with couch := { s.couch with limitHold := true } }
    let s := s.inc 0x8310_0B
    let s := if s.rd 0x3101_05 = 0 then s.wr 0x3101_05 2 else s
    s.evSecond 0x3108 (be 8 n)
  else if ¬ full ∧ s.couch.limitHold then
    let s := { s with couch := { s.couch with limitHold := false } }
    if s.rd 0x3101_05 = 2 then s.wr 0x3101_05 0 else s
  else s

/-! ### Capture (R121, R122) -/

/-- Element-wise sum of deltas. -/
def addDeltas : List Int → List Int → List Int
  | a :: as, b :: bs => (a + b) :: addDeltas as bs
  | as, [] => as
  | [], bs => bs

/-- Element-wise difference. -/
def subDeltas : List Int → List Int → List Int
  | a :: as, b :: bs => (a - b) :: subDeltas as bs
  | as, [] => as
  | [], bs => bs.map (fun x => -x)

/-- The capture entry of a line. -/
def State.entry (s : State) (l : LineId) : Option Entry := s.couch.entries.find? (·.id = l)

/-- R30: the pass is charged m times the growth of the packed size. -/
def State.charge (s : State) (old new : List Int) : State :=
  let n := s.pass.charged + s.m * (entrySize new - entrySize old)
  let s := { s with pass := { s.pass with charged := n } }
  if n ≥ s.rd 0x3100_03 ∧ ¬ s.pass.full ∧ 0 < n then
    let s := { s with pass := { s.pass with full := true, paced := s.pass.paced + 1 } }
    s.wr 0x3181_04 1
  else s

/-- R122: the deltas of a write to line l in epoch ep join the line's entry, or open one; an entry whose
elements have all returned to zero is freed. A line whose fill is still due captures nothing (Table 5-4). -/
def State.capture (s : State) (l : LineId) (ep : Nat) (d : List Int) (src : Nat) (byPass : Bool) : State :=
  if ¬ s.coding ∨ d.all (· == 0) ∨ s.couch.fill.contains l then s else
    match s.entry l with
    | some e =>
      let d' := addDeltas e.deltas d
      let rest := s.couch.entries.filter (fun x => ¬ (x.id = l))
      let s := s.inc 0x8310_02
      let grown := mapWhere (fun x => decide (x.id = l)) (fun x => { x with deltas := d', sources := x.sources ||| src }) s.couch.entries
      let s := s.modCouch fun c => { c with entries := if d'.all (· == 0) then rest else grown }
      if byPass then s.charge e.deltas d' else s
    | none =>
      let s := s.inc 0x8310_01
      let s := { s with couch := { s.couch with entries := s.couch.entries ++ [⟨l, ep, d, src, false⟩] } }
      if byPass then s.charge [] d else s

/-! ### Copy-on-write (R183) -/

/-- The place of a line in the copy order: space W, then space N. -/
def Snap.copyIndex (c : Snap) (sp n : Nat) : Nat := if sp = 0 then n else c.linesW + n

/-- The snapshot copies and this line is neither saved nor past its slice's cursor. -/
def State.cowDue (s : State) (l : LineId) (n : Nat) : Bool :=
  match s.tiers.snap with
  | none => false
  | some c =>
    (c.phase == 1 || c.phase == 2) && l.src == s.own &&
    !(c.saved.any (fun v => v.2.1 == l.space && v.2.2.1 == l.line)) && !(c.taken.contains (l.space, l.line)) &&
    decide (c.cursors.getD n 0 ≤ c.copyIndex l.space l.line) &&
    decide (l.line < if l.space = 0 then c.linesW else c.linesN)

/-- The stalls of the copy-on-write reserve that slice n uses: 16 lines a stall. -/
def Snap.stalls (c : Snap) (n : Nat) : Nat := ceilDiv (c.saved.filter (·.1 = n)).length 16

/-- R183: a write to an unsaved line first saves the old line. -/
def State.cowSave (s : State) (l : LineId) (a n : Nat) : State :=
  if s.cowDue l n then
    let old := s.mrd a 256
    let snap := s.tiers.snap.map (fun c => { c with saved := c.saved ++ [(n, l.space, l.line, old)] })
    let s := s.modTiers fun t => { t with snap := snap }
    s.inc 0x8330_03
  else s

/-- R184: a save of line l would find the copy-on-write reserve of slice n empty. -/
def State.cowFull (s : State) (l : LineId) (n : Nat) : Bool :=
  s.cowDue l n && (match s.tiers.snap with
    | some c => decide (ceilDiv ((c.saved.filter (·.1 = n)).length + 1) 16 > s.rd 0x3300_05)
    | none => false)

/-- The time since which some write has been held for the copy-on-write reserve, when one is. -/
def State.cowSince (s : State) : Option Nat :=
  match (s.sport.held.filter (fun h => h.why = .cow)).map (·.since) ++ (s.couch.waits.filter (fun w => w.why = .cow)).map (·.since) with
  | [] => none
  | x :: xs => some (minN x xs)

/-- R180: the time a snapshot held writes, when the oldest hold was of time t0 and is now of t1. -/
def Snap.heldFrom (c : Snap) (t0 t1 : Option Nat) (now : Nat) : Snap :=
  match t0 with
  | none => c
  | some a => { c with heldNs := c.heldNs + (t1.getD now - a) }

/-- R180: holds for the reserve that have ended since the oldest was of time t0 count in the snapshot's cost. -/
def State.countCow (s : State) (t0 : Option Nat) : State :=
  s.modTiers fun t => { t with snap := t.snap.map (fun c => c.heldFrom t0 s.cowSince s.now) }

/-! ### Coded writes and their holds -/

/-- The write at address a waits no more. -/
def State.goAt (s : State) (a : Nat) : State :=
  (s.modCouch fun c => { c with waits := c.waits.filter (fun w => w.addr != a) }).countCow s.cowSince

/-- R184: writes that waited for the reserve and whose save now has a stall wait no more. -/
def State.freeCow (s : State) : State :=
  s.modCouch fun c => { c with waits := c.waits.filter (fun w => w.why != .cow || (s.lineAt w.addr).any (s.cowFull · w.slice)) }

/-- A write to a coded line: the save, the words, the capture. -/
def State.codedWrite (s : State) (l : LineId) (a off : Nat) (bs : Bytes) (ep src : Nat) (byPass : Bool) : State :=
  let old := s.lineVals l.space a
  let s := s.cowSave l a ((s.sliceOf a).getD 0)
  let s := (s.mwr (a + off) bs).touchPage a
  ((s.capture l ep (subDeltas (s.lineVals l.space a) old) src byPass).refreshOut).goAt a

/-- R139: an overrun ends, by acknowledgements or by a cut: its time is counted and reported. -/
def State.endOverrun (s : State) : State :=
  match s.couch.overrun with
  | some t0 =>
    let s := s.modCouch fun c => { c with overrun := none }
    let s := if s.rd 0x3101_05 = 1 then s.wr 0x3101_05 (if s.couch.limitHold then 2 else 0) else s
    (s.incBy 0x8310_0A (s.now - t0)).evHub 0x3102 (be 8 (s.now - t0))
  | none => s

/-- R139, R140, R142, R153: new coded writes of every source but the pass are held. -/
def State.couchHeld (s : State) : Bool :=
  s.couch.overrun.isSome || s.couch.limitHold || s.member.cut.isSome ||
  (match s.member.accepted with
   | some p => p.kind == 1 || decide (s.window s.epoch > p.quiet)
   | none => false)

/-- R124: the line has an unpacked entry of an earlier epoch. -/
def State.mustRush (s : State) (l : LineId) : Bool :=
  match s.entry l with
  | some e => decide (e.epoch < s.epoch)
  | none => false

/-- R124: a rushed entry of the line has been handed over and the last beat of its frame has not left. -/
def State.rushes (s : State) (l : LineId) : Bool := s.couch.rushing.any (fun p => p.1 == l)

/-- R159: a write to a coded line of slice n is held for room in the delta log; the one that waits at address a apart. -/
def State.dlogHeld (s : State) (n a : Nat) : Bool :=
  s.sport.held.any (fun h => h.why == .dlog && h.req.slice == n) ||
    s.couch.waits.any (fun w => w.why == .dlog && w.slice == n && w.addr != a)

/-- R182: writes to coded lines are held while a snapshot seals. -/
def State.sealing (s : State) : Bool :=
  match s.tiers.snap with
  | some c => c.phase == 1
  | none => false

/-- Why a write to a coded line of slice n at address a is held, the first cause that applies (R380). `again`: the write itself waits
for a rushed entry of the line; a new write to a line whose entry has been packed is not held for it (Table 6-1). Whether a write
fits the delta log shows only with its deltas (`dlogFits`); behind one that does not, every write to the slice's coded lines is held
(R159). -/
def State.holdWhy (s : State) (l : LineId) (n a : Nat) (again : Bool) : Option Why :=
  if ¬ s.coding then none
  else if s.sealing then some .seal
  else if s.couchHeld then some .couch
  else if s.mustRush l || (again && s.rushes l) then some .rush
  else if s.cowFull l n then some .cow
  else if (s.entry l).isNone ∧ ¬ s.entryRoom n l.space then some .reserve
  else if s.dlogHeld n a then some .dlog
  else none

/-- What a hold counts and reports (R123, R159, R184). -/
def State.noteHold (s : State) (n : Nat) : Why → State
  | .reserve => (s.inc 0x8310_0C).evSlice n 0x3105 (be 1 n)
  | .dlog => (s.inc 0x8320_0B).evSlice n 0x320B (be 1 n)
  | .cow => (s.inc 0x8330_04).evSecond 0x3305 (be 1 n)
  | _ => s

/-- R143, R160, R358: coded writes are completed with the write-error response. -/
def State.writesFail (s : State) : Bool := s.sensors.noWrites || s.flushing || s.dev == 7 || s.dev == 2

/-- R124: the line's entry goes to the head of the couch queue. -/
def State.rush (s : State) (l : LineId) : State :=
  match s.couch.entries.find? (fun e => e.id = l ∧ ¬ e.rushed) with
  | none => s
  | some x => (s.inc 0x8310_03).modCouch fun c => { c with
      entries := mapWhere (fun e => decide (e.id = l)) (fun e => { e with rushed := true }) c.entries
      rushing := (l, x.epoch) :: c.rushing.filter (fun p => ¬ (p.1 = l)) }

/-- R124: the last beats of the frames that carry rushed entries of slice n have left; an entry not yet packed goes on waiting. -/
def State.endRush (s : State) (n : Nat) : State :=
  s.modCouch fun c => { c with rushing := c.rushing.filter (fun p =>
    decide ((s.lineAddr p.1).bind s.sliceOf ≠ some n) || c.entries.any (fun e => e.id == p.1 && e.rushed)) }

/-- R124: from the tick that ends the epoch after an entry's own, the write waits under the overrun rule instead. -/
def State.tickRush (s : State) : State := s.modCouch fun c => { c with rushing := c.rushing.filter (fun p => decide (s.epoch < p.2 + 2)) }

/-- A write of the pass, of the yard or of a correction waits at address a: what the hold counts is counted once. -/
def State.holdAt (s : State) (a n : Nat) (why : Why) : State :=
  match s.couch.waits.find? (·.addr == a) with
  | some w => if w.why = why then s else (s.noteHold n why).modCouch fun c => { c with waits := mapWhere (fun x => x.addr == a) (fun x => { x with why := why }) c.waits }
  | none => (s.noteHold n why).modCouch fun c => { c with waits := c.waits ++ [⟨a, n, why, s.now⟩] }

/-- Why a write of the pass, of the yard or of a correction to the coded line at address a is held. -/
def State.waitWhy (s : State) (l : LineId) (n a : Nat) : Option Why :=
  s.holdWhy l n a (s.couch.waits.any (fun w => w.addr == a && w.why == .rush))

/-- Such a write is held: its entry is rushed where that is the cause. -/
def State.waitFor (s : State) (l : LineId) (n a : Nat) (why : Why) : State := (if why = .rush then s.rush l else s).holdAt a n why

/-! ### Packing and sending (R125 to R128) -/

/-- The first epoch that is not yet closed: a flush closes the open one (R143). -/
def State.openEpoch (s : State) : Nat :=
  match s.couch.flush with
  | some (_, f) => f + 1
  | none => s.epoch

/-- One line to pack: its stripe, its deltas. -/
abbrev PackLine := Nat × List Int

/-- The lines that fit one frame: within 64 stripes of the first and within `room` payload bytes. -/
def fitLines (first : Nat) : Nat → List PackLine → List PackLine
  | _, [] => []
  | room, (n, d) :: r =>
    let b := packedSize d.length (packWidth d)
    if n < first + 64 ∧ b ≤ room then (n, d) :: fitLines first (room - b) r else []

/-- Table 6-2: a data frame. -/
def State.dataFrame (s : State) (tgt : Bool) (flags sp ep group role seq : Nat) (lines : List PackLine) : Bytes :=
  let first := (lines.map (·.1)).headD 0
  let bitmap := sumN (lines.map (fun l => 2 ^ (l.1 - first)))
  let body := (lines.map (fun l => packLine l.2)).flatten
  let chk := couchCheck (elems sp) (lines.map (fun l => (l.1 - first, l.2)))
  s.header (if tgt then 0x2C else 0x10) (flags + sp) ++ be 8 ep ++ be 8 (s.stepOf ep) ++ be 2 group ++ be 1 role ++
    zeros 1 ++ be 4 seq ++ be 4 first ++ be 8 bitmap ++ be 2 body.length ++ zeros 2 ++ be 8 chk ++ body

/-- Hands a data frame to one holder: couch streams by R126, target streams as membership frames (R148). -/
def State.sendData (s : State) (tgt : Bool) (dst group role : Nat) (f : Bytes) : State :=
  if tgt then s.sendMember dst f
  else s.sendDev dst ((group * 32 + role) % 8) (group * 32 + role) f

/-- The next sequence of a stream rises, modulo 2^32 (R127). -/
def bumpStream (g r : Nat) (tgt : Bool) (l : List OutStream) : List OutStream :=
  mapWhere (fun t => t.group == g && t.role == r && t.tgt == tgt) (fun t => { t with next := (t.next + 1) % 2 ^ 32 }) l

/-- The next epoch that a stream has to close rises. -/
def closeStream (g r : Nat) (tgt : Bool) (e : Nat) (l : List OutStream) : List OutStream :=
  mapWhere (fun t => t.group == g && t.role == r && t.tgt == tgt) (fun t => { t with close := e + 1 }) l

/-- A frame joins its stream and goes, the same bytes, to every holder of the group (R127); a re-striping's fill terms go on top
of the budget (R171). -/
def State.emit (s : State) (tgt : Bool) (group role ep : Nat) (f : Bytes) (fill eoe : Bool) (seq : Nat) : State :=
  let hs := s.holders tgt group
  let o : OutFrame := ⟨group, role, tgt, seq, ep, f, fill, eoe, List.range hs.length, []⟩
  let s := s.modCouch fun c => { c with out := c.out ++ [o] }
  let s := s.modCouch fun c => { c with streams := bumpStream group role tgt c.streams }
  let s := s.incBy 0x8310_04 hs.length
  let s := s.incBy 0x8310_06 (if tgt && fill then 0 else hs.length * f.length)
  hs.foldl (fun s h => s.sendData tgt h group role f) s

/-- Flag bits every frame now carries: bit 4 while flushing (Table 6-2). -/
def State.flushFlag (s : State) : Nat := if s.flushing then 16 else 0

/-- R127, R143: a frame goes again to one holder, with flag bit 3 set, and bit 4 while flushing. -/
def State.resendTo (s : State) (o : OutFrame) (h : Nat) : State :=
  (s.sendData o.tgt h o.group o.role (patch o.f 1 (be 1 (fld o.f 1 1 ||| 8 ||| s.flushFlag)))).inc 0x8310_05

/-- R143: at the start of a flush every copy not yet acknowledged goes again, its frame with flag bit 4 set. -/
def State.resendAll (s : State) : State :=
  s.couch.out.foldl (fun s o =>
    let hs := s.holders o.tgt o.group
    ((List.range hs.length).filter (fun j => ¬ o.acked.contains j)).foldl (fun s j => s.resendTo o (hs.getD j 0xFFFF)) s) s

/-- The role of an entry in a stream, when it belongs to that stream. -/
def State.entryStripe (s : State) (st : OutStream) (e : Entry) : Option Nat :=
  match if st.tgt then s.targetRole e.id else s.lineRole e.id with
  | some (g, i, n) => if g = st.group ∧ i = st.role then some n else none
  | none => none

/-- Sorts pack lines by stripe. -/
def insertLine (x : PackLine × LineId) : List (PackLine × LineId) → List (PackLine × LineId)
  | [] => [x]
  | y :: l => if x.1.1 ≤ y.1.1 then x :: y :: l else y :: insertLine x l

/-- The lines of a stream's closed epoch still unpacked in one space, by rising stripe. -/
def State.closedLines (s : State) (st : OutStream) (ep sp : Nat) : List (PackLine × LineId) :=
  (if st.tgt then s.couch.tgtDue else s.couch.entries).foldl (fun acc e =>
    if e.epoch = ep ∧ e.id.space = sp then
      match s.entryStripe st e with
      | some n => insertLine ((n, e.deltas), e.id) acc
      | none => acc
    else acc) []

/-- The entries among these whose lines have been read for a re-striping: they go in a target stream too (R171). -/
def State.owedToTarget (s : State) (es : List Entry) : List Entry :=
  if s.rd 0x3202_02 ≠ 2 then [] else es.filter (fun e => !(s.member.refill.contains e.id) && (s.targetRole e.id).isSome)

/-- The next sequence number of a stream. -/
def State.nextSeq (s : State) (st : OutStream) : Nat :=
  ((s.couch.streams.find? (fun t => t.group == st.group && t.role == st.role && t.tgt == st.tgt)).map (·.next)).getD 0

/-- Packs entries of a couch stream: they leave the entry list and join the delta log, and one frame carries them. -/
def State.packBase (s : State) (st : OutStream) (ep sp : Nat) (ls : List (PackLine × LineId)) : State :=
  let ids := ls.map (·.2)
  let es := s.couch.entries.filter (fun e => ids.contains e.id)
  let s := es.foldl (fun s e => s.logEntry e) s
  let due := s.owedToTarget es
  let s := s.modCouch fun c => { c with entries := c.entries.filter (fun e => ¬ ids.contains e.id), tgtDue := c.tgtDue ++ due }
  let f := s.dataFrame st.tgt s.flushFlag sp ep st.group st.role (s.nextSeq st) (ls.map (·.1))
  s.emit st.tgt st.group st.role ep f false false (s.nextSeq st)

/-- Packs the deltas that a target stream owes. -/
def State.packTarget (s : State) (st : OutStream) (ep sp : Nat) (ls : List (PackLine × LineId)) : State :=
  let ids := ls.map (·.2)
  let s := s.modCouch fun c => { c with tgtDue := c.tgtDue.filter (fun e => ¬ (e.epoch = ep ∧ ids.contains e.id)) }
  let f := s.dataFrame st.tgt s.flushFlag sp ep st.group st.role (s.nextSeq st) (ls.map (·.1))
  s.emit st.tgt st.group st.role ep f false false (s.nextSeq st)

/-- One frame of packed lines of a stream. -/
def State.packFrame (s : State) (st : OutStream) (ep sp : Nat) (ls : List (PackLine × LineId)) : State :=
  if st.tgt then s.packTarget st ep sp ls else s.packBase st ep sp ls

/-- The frames of a stream that some holder has not acknowledged. -/
def State.unacked (s : State) (st : OutStream) : Nat :=
  (s.couch.out.filter (fun f => f.group == st.group && f.role == st.role && f.tgt == st.tgt)).length

/-- One frame of a stream, if one is due and fewer than 64 are unacknowledged (R127): a rushed entry first, then the
closed epochs in order, each ended by its end-of-epoch frame. A target stream ends an epoch once the couch streams have packed
what it is to carry (R171). -/
def State.pumpOne (s : State) (st : OutStream) : Option State :=
  if s.unacked st ≥ 64 then none else
    match s.couch.entries.find? (fun e => e.rushed && (s.entryStripe st e).isSome && !st.tgt) with
    | some e =>
      some (s.packFrame st e.epoch e.id.space [(((s.entryStripe st e).getD 0, e.deltas), e.id)])
    | none =>
      if st.close ≥ s.openEpoch then none else
        let room := s.rd 0x3100_04 - 64
        let w := s.closedLines st st.close 0
        let n := s.closedLines st st.close 1
        match w, n with
        | x :: _, _ =>
          let k := (fitLines x.1.1 room (w.map (·.1))).length
          some (s.packFrame st st.close 0 (w.take (max k 1)))
        | [], y :: _ =>
          let k := (fitLines y.1.1 room (n.map (·.1))).length
          some (s.packFrame st st.close 1 (n.take (max k 1)))
        | [], [] =>
          if st.tgt ∧ s.couch.entries.any (fun e => e.epoch == st.close && (s.entryStripe st e).isSome) then none else
          let f := s.dataFrame st.tgt (s.flushFlag + 4) 0 st.close st.group st.role st.next []
          let s := s.emit st.tgt st.group st.role st.close f false true st.next
          some (s.modCouch fun c => { c with streams := closeStream st.group st.role st.tgt st.close c.streams })

/-- Frames of one stream while they are due, at most `fuel`. -/
def State.pumpStream (g r : Nat) (tgt : Bool) : Nat → State → State
  | 0, s => s
  | fuel + 1, s =>
    match s.couch.streams.find? (fun t => t.group == g && t.role == r && t.tgt == tgt) with
    | none => s
    | some st =>
      match s.pumpOne st with
      | some s' => State.pumpStream g r tgt fuel s'
      | none => s

/-- Every own stream sends what is due (at most 64 frames each are ever unacknowledged). -/
def State.pump (s : State) : State :=
  (s.couch.streams.foldl (fun s st => State.pumpStream st.group st.role st.tgt 65 s) s).refreshOut

/-! ### The couched epoch and notices (R132) -/

/-- The epochs that a stream has had acknowledged whole, as the first epoch that is not. -/
def State.streamTo (s : State) (st : OutStream) : Nat :=
  (s.couch.out.filter (fun f => f.group == st.group && f.role == st.role && f.tgt == st.tgt)).foldl
    (fun e f => min e f.epoch) st.close

/-- R132: the first epoch not yet couched. -/
def State.couchedTo (s : State) : Nat := minN s.openEpoch (s.couch.streams.map s.streamTo)

/-- Table 6-4: the epoch-done notice for the highest couched epoch e. -/
def State.noticeFrame (s : State) (flags e : Nat) : Bytes :=
  let b := (s.couch.bounds.find? (fun b => b.2 ≤ e)).getD (s.stepDone, s.rd 0x3181_03)
  s.header 0x12 flags ++ be 8 e ++ be 8 (s.stepOf e) ++ be 8 b.1 ++ be 8 b.2

/-- A frame to every other member. DESIGN CHOICE: an epoch-done notice, which has no group and no role, goes on N-port stream 0 with
flow label 0 (R126 states both by group and role). -/
def State.toMembers (s : State) (f : Bytes) : State :=
  (s.member.members.filter (· ≠ s.own)).foldl (fun s d => s.sendDev d 0 0 f) s

/-- The highest values of a member's notices (R132). -/
def noteNotice (l : List Notice) (n : Notice) : List Notice :=
  match l.find? (·.dev = n.dev) with
  | none => l ++ [n]
  | some o => mapWhere (fun x => x.dev == n.dev) (fun _ =>
      ⟨n.dev, max o.couched n.couched, max o.bstep n.bstep, max o.bepoch n.bepoch, o.departed || n.departed⟩) l

/-- R133: the sealed epoch and the commit, from the notices of every member; the fold starts when a window commits, but not during a
flush (Table 6-8). -/
def State.sealCommit (s : State) : State :=
  let ns := s.member.members.map (fun d => s.couch.notices.find? (·.dev = d))
  if s.member.members.isEmpty ∨ ns.any (·.isNone) ∨ s.fn .coding = 1 then s else
    let sealed := minN 0 (ns.map (fun n => (n.map (·.couched)).getD 0))
    let b := minN 0 (ns.map (fun n => (n.map (·.bstep)).getD 0))
    let s := if sealed > s.rd 0x3101_02 then s.wr 0x3101_02 sealed else s
    let g := max s.deckle 1
    let next := (s.committed / g + 1) * g
    if b ≥ next ∧ s.couch.folding.isNone ∧ s.member.cut.isNone ∧ s.couch.flush.isNone then
      { s with couch := { s.couch with folding := some next } }
    else s

/-- R132: when the couched epoch has advanced, a notice goes to every member and the own values count. -/
def State.advance (s : State) : State :=
  if s.couch.streams.isEmpty then s else
    let c := s.couchedTo
    if c ≤ s.couch.couchedTo then s else
      let e := c - 1
      let f := s.noticeFrame 0 e
      let ns := noteNotice s.couch.notices ⟨s.own, e, fld f 32 8, fld f 40 8, false⟩
      let s := s.modCouch fun k => { k with couchedTo := c, own := some f, notices := ns }
      let s := s.wr 0x3100_08 e
      (s.toMembers f).sealCommit

/-! ### The gate of job frames (R149, R150) -/

/-- R149: a stale notice to a frame's sender, at most once in any 100 µs. -/
def State.staleNotice (s : State) (f : Bytes) : State :=
  let dev := fld f 2 2
  if s.muted || s.member.stale.any (fun p => p.1 == dev && s.now < p.2 + 100000) then s else
    let s := { s with member := { s.member with stale := (dev, s.now) :: s.member.stale.filter (·.1 ≠ dev) } }
    let s := s.sendMember dev (s.header 0x26 0 ++ be 4 s.halter ++ be 2 dev ++ be 1 (fld f 0 1) ++ zeros 1)
    let s := s.inc 0x8320_04
    s.evHub 0x3209 (be 2 dev ++ be 1 (fld f 0 1) ++ be 4 (fld f 4 4))

/-- R150: a member is heard. -/
def State.hear (s : State) (dev : Nat) : State :=
  { s with member := { s.member with heard := (dev, s.now) :: s.member.heard.filter (·.1 ≠ dev) } }

/-- R150: a frame of the job that bears the own halter number shows that its sender lives. -/
def State.hearFrame (s : State) (f : Bytes) : State :=
  if fld f 8 8 = s.job ∧ fld f 4 4 = s.halter ∧ s.member.members.contains (fld f 2 2) then s.hear (fld f 2 2) else s

/-- R149: whether a frame of a job passes: its job is the own one and its halter number the own one. A lower number
is answered with a stale notice; a higher one and another job's frame are dropped without answer. -/
def State.gate (s : State) (f : Bytes) : Bool × State :=
  if fld f 8 8 ≠ s.job then (false, s)
  else if fld f 4 4 < s.halter then (false, s.staleNotice f)
  else if fld f 4 4 > s.halter then (false, s)
  else (true, if s.member.members.contains (fld f 2 2) then s.hear (fld f 2 2) else s)

/-- A frame of this job at this halter number, in a serving state; else the drop of R149. -/
def State.gated (s : State) (f : Bytes) (k : State → State) : State :=
  let (ok, s) := s.gate f
  if ok then k s else s

/-! ### Repair entries (R295) -/

/-- The open repair entry of a line. -/
def State.repairOf (s : State) (a : Nat) : Option Repair := s.prot.repairs.find? (fun r => r.addr == a / 256 * 256)

/-- A line of host memory holds a poisoned word, so a read of it finds it unreadable (R295). -/
def State.unreadable (s : State) (a : Nat) : Bool := s.poisoned (a / 256 * 256) 256

/-- R295: a repair entry is opened on the line of a, or a further waiter joins it; `reqs` are the reads that wait at an S-port. -/
def State.openRepair (s : State) (a cls slice : Nat) (reqs : List SReq) : State :=
  match s.repairOf a with
  | some _ =>
    let s := s.inc 0x8510_08
    s.modProt fun p => { p with repairs := mapWhere (fun r => r.addr == a / 256 * 256) (fun r => { r with waiters := r.waiters + 1, reqs := r.reqs ++ reqs }) p.repairs }
  | none => s.modProt fun p => { p with repairs := p.repairs ++ [⟨a / 256 * 256, cls, slice, reqs, 1, s.now⟩] }

/-- The 8-byte words of [a, a + n) become poisoned (R293). -/
def State.spoil (s : State) (a n : Nat) : State :=
  { s with poison := (List.range ((a + n + 7) / 8 - a / 8)).foldl (fun l i => insertSorted (a / 8 + i) l) s.poison }

/-- Writes of the pass, of the yard or of a correction at these lines wait: for a repair of an unreadable line (Table 13-4), for a
rushed entry (R124), or for another hold. none: they may go. -/
def State.linesHeld (s : State) (as : List Nat) : Option State :=
  let ids := as.filterMap (fun a => (s.lineAt a).map (fun l => (l, (s.sliceOf a).getD 0, a / 256 * 256)))
  let bad := if s.coding then ids.filter (fun p => s.unreadable p.2.2) else []
  let whys := ids.filterMap (fun p => (s.waitWhy p.1 p.2.1 p.2.2).map (fun w => (p, w)))
  if ¬ bad.isEmpty then
    some (bad.foldl (fun s p => if (s.repairOf p.2.2).isSome then s else s.openRepair p.2.2 0 p.2.1 []) s)
  else if whys.isEmpty then none
  else some (whys.foldl (fun s x => s.waitFor x.1.1 x.1.2.1 x.1.2.2 x.2) s)

/-- R159: writes at these lines go if the delta logs then have room for every open entry; else they wait. -/
def State.ifRoom (s : State) (as : List Nat) (write : State → State) : State :=
  let t := write s
  match as.find? (fun a => (s.lineAt a).isSome && !(t.dlogFits ((s.sliceOf a).getD 0))) with
  | some a => s.holdAt (a / 256 * 256) ((s.sliceOf a).getD 0) .dlog
  | none => t

/-- R116: why a felt line read is taken as erased: 1 a word that is not canonical, 2 an uncorrectable read. -/
def State.feltFault (s : State) (a sp : Nat) : Option Nat :=
  if s.poisoned a (8 * elems sp) then some 2 else if (s.feltWords a sp).any (fun w => !canonical w) then some 1 else none

/-- R116: a felt line is erased, and recovered as a lost parity line of its group; the segment is its parity index. -/
def State.eraseFelt (s : State) (seg sp n a cause : Nat) : State :=
  if (s.repairOf a).isSome then s else
    let x := (s.sliceOf a).getD 0
    (((s.spoil a (8 * elems sp)).openRepair a 1 x []).inc 0x8300_05).evSlice x 0x3004 (be 1 seg ++ be 1 sp ++ be 4 n ++ be 1 cause)

/-! ### Vats and felts (R130, R131, R133) -/

/-- A felt line gains terms, canonical words only (R116). -/
def State.feltAdd (s : State) (tgt : Bool) (g sp n : Nat) (ts : List Nat) : State :=
  match s.feltAddr tgt g sp n with
  | none => s
  | some a => s.mwr a (wordsBytes 8 (addLists (s.feltWords a sp) ts))

/-- The stalls of the vat reserve that slice n uses with `more` further lines of a space: 16 W lines or 8 N lines a stall (R131). -/
def State.vatStalls (s : State) (n sp more : Nat) : Nat :=
  let vs := s.couch.vats.filter (fun v => (s.feltAddr v.tgt v.group v.space v.line).bind s.sliceOf = some n)
  ceilDiv ((vs.filter (·.space = 0)).length + (if sp = 0 then more else 0)) 16 +
    ceilDiv ((vs.filter (·.space = 1)).length + (if sp = 0 then 0 else more)) 8

/-- The vat line of a felt line and bank. -/
def VatLine.is (v : VatLine) (tgt : Bool) (g b sp n : Nat) : Bool :=
  v.tgt == tgt && v.group == g && v.bank == b && v.space == sp && v.line == n

/-- R130, R131: terms join a vat line, allocated zeroed on its first term. -/
def State.vatAdd (s : State) (tgt : Bool) (g b sp n : Nat) (ts : List Nat) : State :=
  if s.couch.vats.any (·.is tgt g b sp n) then
    { s with couch := { s.couch with vats := mapWhere (·.is tgt g b sp n) (fun v => { v with vals := addLists v.vals ts }) s.couch.vats } }
  else { s with couch := { s.couch with vats := s.couch.vats ++ [⟨g, tgt, b, sp, n, ts⟩] } }

/-- R133, R116: one vat line is folded into its felt and freed; it is kept while the felt line is erased. -/
def State.foldVat (s : State) (v : VatLine) : State :=
  match s.feltAddr v.tgt v.group v.space v.line with
  | none => { s with couch := { s.couch with vats := s.couch.vats.filter (fun x => ¬ (x = v)) } }
  | some a =>
    match s.feltFault a v.space with
    | some cause => s.eraseFelt ((s.parityIn v.tgt v.group).getD 0xFF) v.space v.line a cause
    | none => State.feltAdd { s with couch := { s.couch with vats := s.couch.vats.filter (fun x => ¬ (x = v)) } } v.tgt v.group v.space v.line v.vals

/-- R133: folds the vat lines of a bank into their felts and frees them. -/
def State.foldBank (s : State) (b : Nat) : State := (s.couch.vats.filter (·.bank = b)).foldl State.foldVat s

/-! ### Retained delta-log windows (R159, R185) -/

/-- Frees the chains of windows that are folded, not among the newest retained, and not pinned by a snapshot. -/
def State.freeChains (s : State) : State :=
  let g := max s.deckle 1
  let keep := s.rd 0x3203_02
  let low := s.committed - keep * g
  let pin := match s.tiers.snap with
    | some c => if c.phase = 0 then s.committed + 1 else c.step - keep * g
    | none => s.committed + 1
  let audit := match s.audit.bisect with
    | some b => b.commit
    | none => s.committed + 1
  let s := s.modCouch fun c => { c with waits := c.waits.filter (fun w => w.why != .dlog) }
  { s with member := { s.member with
      dlog := s.member.dlog.filter (fun r => r.window > s.committed || r.window > low || r.window > pin || r.window > audit) } }

end Sys2Proof.Machine
end

