-- ==== Sys2Proof/Machine/SnapOps.lean ====
section
/-!
DEFINITION. Snapshot reports and what they alter: the adaptive interval, and the end of a snapshot that is abandoned
(R180, R181, R184 and Table 8-6 of 08_flash_and_shared_store.md).
-/

namespace Sys2Proof.Machine

/-- Sets slot i of 0x3300.04 or 0x3303.04. -/
def State.slotStatus (s : State) (k i step st : Nat) : State := s.wrO k (16 * i) (le 8 step ++ le 1 st ++ zeros 7)

/-- R180: the measured cost of a member's snapshot: seal pause, held writes, and the excess of its passes, ns. -/
def Snap.cost (c : Snap) : Nat := c.pause + c.heldNs + c.excess

/-- R180: the mean time between failures M, in seconds; none while nothing gives it. -/
def State.meanFailure (s : State) : Option Nat :=
  if s.rd 0x3301_08 ≥ 3 then some (s.rd 0x3301_07 / s.rd 0x3301_08)
  else if s.rd 0x3301_06 ≠ 0 then some (s.rd 0x3301_06)
  else none

/-- R180: the adaptive interval from C in ns and M in seconds: clamp(√(2 C M), 60, 3,600). -/
def adaptive (c m : Nat) : Nat := min 3600 (max 60 (iroot (2 * c * m / 1000000000) 2))

/-- R180: C and the adaptive interval are computed again. DESIGN CHOICE: an order is completed once every member has reported it
complete, abandoned or too late; one that a cut cancels is not (assumption log). -/
def State.refreshAdaptive (s : State) : State :=
  let done := if s.tiers.awaited.isEmpty then s.tiers.costs else s.tiers.costs.drop 1
  let c := maxN (done.take 8)
  let s := s.wr 0x3301_09 (min (c / 1000) (2 ^ 32 - 1))
  s.wr 0x3301_05 (match s.meanFailure with | some m => adaptive c m | none => 300)

/-- R180, R181: the lead takes a report of its last order: the cost counts, and outcomes 1 to 3 end the member's part. -/
def State.takeSnapReport (s : State) (dev outcome number cost : Nat) : State :=
  if number ≠ s.tiers.orderNum ∨ ¬ s.tiers.awaited.contains dev then s else
    let s := s.modTiers fun t => { t with
      costs := match t.costs with | [] => [cost] | c :: cs => max c cost :: cs
      awaited := if outcome = 0 then t.awaited else t.awaited.filter (· ≠ dev) }
    s.refreshAdaptive

/-- Table 8-1: a Snapshot report goes to the lead; the lead takes its own at once. -/
def State.snapReport (s : State) (step outcome reason number cost size : Nat) : State :=
  if s.leadOf = s.own then s.takeSnapReport s.own outcome number cost
  else s.sendMember s.leadOf (s.header 0x31 0 ++ be 8 step ++ be 1 outcome ++ be 1 reason ++ zeros 2 ++ be 4 number ++
    be 8 cost ++ be 8 size)

/-- R178, R180, R184: a snapshot is abandoned: what it held is held no more, its stalls are freed, its chains are pinned no longer, its slot reads invalid
(for reason 5 it keeps its earlier contents), and the report goes to the lead. An order not yet sealed is dropped. -/
def State.abandonSnap (s : State) (reason : Nat) : State :=
  match s.tiers.snap with
  | none => s
  | some c =>
    if c.phase = 0 then s.modTiers fun t => { t with snap := none }
    else
      let c := c.heldFrom s.cowSince none s.now
      let s := (s.modTiers fun t => { t with snap := none }).freeCow
      let s := { s with fOut := mapWhere (fun x => x.use == 1) (fun x => { x with use := 6 }) s.fOut }
      let s := if reason = 5 then s.slotStatus 0x3300_04 c.slot c.was.1 c.was.2 else s.slotStatus 0x3300_04 c.slot c.step 3
      let s := s.wr 0x3300_07 0
      let s := s.inc 0x8330_02
      let s := s.evHub 0x3302 (be 8 c.step ++ be 1 reason)
      s.freeChains.snapReport c.step 2 reason c.number c.cost 0

end Sys2Proof.Machine
end

