-- ==== Sys2Proof/Machine/MemberOps.lean ====
section
/-!
DEFINITION. The shared operations of membership: placement at this member, bands, stand-ins and pieces, rollback,
working copies of rolled-back lines, cuts, paddock, rebuild and the coding function's start
(05_code_groups_and_placement.md, 07_loss_rebuild_and_membership.md).
-/

namespace Sys2Proof.Machine

/-- The job key as bytes. -/
def State.jobKey (s : State) : Bytes := be 32 s.audit.key

/-! ### Placement at this member (R109, R110, R112) -/

/-- The ids of groups as Table 5-7 holds them. -/
def groupIds (gs : List (List Nat)) : Bytes := (gs.map (fun g => (g.map (le 2)).flatten)).flatten

/-- R109, R110, R112: the placement of a member list is computed at a change of halter number, and its result recorded. -/
def State.notePlacement (s : State) (ms : List Nat) : Option Placement × State :=
  let t := s.domTable
  let order := deal t 5 ms
  let s := (s.inc 0x8300_01).wr 0x3000_03 ms.length
  match refusal t ms order s.k s.m (s.rd 0x3001_02) with
  | some (r, lv, lab) =>
    let s := ((s.wr 0x3000_05 3).wr 0x3000_06 r).inc 0x8300_02
    (none, s.evHub 0x3001 (be 1 r ++ be 1 lv ++ be 2 lab))
  | none =>
    match placeOrder t order s.k s.m (s.rd 0x3001_02) with
    | none => (none, s)
    | some p =>
      let s := (((s.wr 0x3000_04 p.stride).wr 0x3000_05 p.status).wr 0x3000_06 0).wr 0x3000_0A s.halter
      let s := if p.status = 2 then s.evHub 0x3002 (be 1 p.tol ++ be 1 (exposure t s.m p.groups) ++ be 1 p.stride) else s
      (some p, s.evHub 0x3006 (be 4 s.halter ++ be 1 p.stride ++ (sha256 (groupIds p.groups)).take 8))

/-- The groups in use change, with their objects (Table 5-7). -/
def State.showGroups (s : State) (gs : List (List Nat)) : State :=
  let ids := groupIds gs
  let s := s.modMember fun m => { m with groups := gs }
  let s := s.wrO 0x3003_01 0 (ids ++ List.replicate (4224 - ids.length) 0xFF)
  let s := s.wrO 0x3000_09 0 (sha256 ids)
  s.wr 0x3000_0A s.halter

/-- The own roles in the groups of a placement (0x3003.02). -/
def State.showRoles (s : State) (gs : List (List Nat)) : State :=
  let km := s.k + s.m
  let roles := (List.range km).map (fun t => (groupAt gs s.own t).getD 0xFFFF)
  s.wrO 0x3003_02 0 ((roles.map (le 2)).flatten ++ List.replicate (66 - 2 * km) 0xFF)

/-- R112, R165: the unit tolerance and the exposure of the groups in use. -/
def State.showTolerance (s : State) (gs : List (List Nat)) : State :=
  let t := s.domTable
  let s := s.wr 0x3000_07 (minN 0 (gs.map (tolerance t s.m (setBits (s.rd 0x3001_02) 5))))
  s.wr 0x3000_08 (exposure t s.m gs)

/-- Puts a placement into use (Table 5-7). -/
def State.usePlacement (s : State) (order : List Nat) (p : Placement) : State :=
  (((s.modMember fun m => { m with order := order }).showGroups p.groups).showRoles p.groups).showTolerance p.groups

/-- R109: the placement of a member list is computed and put into use; whether it is placed. -/
def State.computePlacement (s : State) (ms : List Nat) : Bool × State :=
  match s.notePlacement ms with
  | (some p, s) => (true, s.usePlacement (deal s.domTable 5 ms) p)
  | (none, s) => (false, s)

/-- R103: the band lengths from the line counts of the members. -/
def State.setBands (s : State) (ms : List Nat) : State :=
  let of_ (f : Nat × Nat × Nat → Nat) := maxN ((s.member.counts.filter (fun c => ms.contains c.1)).map f)
  let w := ceilDiv (of_ (fun c => c.2.1)) (max s.k 1)
  let n := ceilDiv (of_ (fun c => c.2.2)) (max s.k 1)
  let s := s.wr 0x3002_04 w
  let s := s.wr 0x3002_05 n
  s.wr 0x3002_03 (s.m * segSize w n)

/-! ### Areas: felt reservation, elastic reserve, felt spare (R114, R163, R170) -/

/-- Regions that an area must not overlap: the mould's, streams' and the other steered ones, and the yard's declared backing, which
is steered only while the yard is not OFF. -/
def State.otherRegions (s : State) : List Region :=
  (s.steer.filter (fun r => r.kind ≠ .felt ∧ r.kind ≠ .reserve ∧ r.kind ≠ .spare)) ++ [⟨s.rd 0x5000_05, s.rd 0x5000_06, .backing, 0⟩]

/-- The HBM stable of slice n: base and size (0x5100.01 and .02 give one base and size for each slice's stable). -/
def State.stableRegion (s : State) : Nat × Nat := (s.rd 0x5100_01, s.rd 0x5100_02)

/-- R114: the first reason against an area, of event 0x3003; `need` is the required size. -/
def State.areaRefusal (s : State) (base size al need : Nat) (others : List (Nat × Nat)) : Option Nat :=
  if base % al ≠ 0 then some 1
  else if size < need then some 2
  else if ¬ s.placed base (wholeLines size) then some 3
  else if others.any (fun o => overlap base size o.1 o.2) ∨ s.otherRegions.any (fun r => overlap base size r.base r.size) then some 4
  else none

/-- R114: the felt bytes that the own line counts alone require; L_max of the domain is known at the first Cut (R103). -/
def State.ownFeltNeed (s : State) : Nat :=
  s.m * segSize (ceilDiv (s.ownLines 0) (max s.k 1)) (ceilDiv (s.ownLines 1) (max s.k 1))

/-- R114, R163: the three areas at STARTING; the first refusal as (area, reason, required size). -/
def State.areasRefusal (s : State) (need : Nat) : Option (Nat × Nat × Nat) :=
  let st := s.stableRegion
  let felt := (s.rd 0x3002_01, s.rd 0x3002_02)
  let res := (s.rd 0x3201_01, s.rd 0x3201_02)
  let spare := (s.rd 0x3201_03, s.rd 0x3201_04)
  match s.areaRefusal felt.1 felt.2 256 need [st] with
  | some r => some (0, r, need)
  | none =>
    match if res.2 = 0 then none else s.areaRefusal res.1 res.2 4096 0 [st, felt] with
    | some r => some (1, r, 0)
    | none =>
      match if spare.2 = 0 then none else s.areaRefusal spare.1 spare.2 256 0 [st, felt, res] with
      | some r => some (2, r, 0)
      | none => none

/-- Replaces the steering ranges of some kinds. -/
def State.resteer (s : State) (ks : List RKind) (rs : List Region) : State :=
  { s with steer := s.steer.filter (fun r => ¬ ks.contains r.kind) ++ rs }

/-- The areas enter the steering tables (R114, R163, R170). -/
def State.steerAreas (s : State) : State :=
  let one (k : RKind) (b n : Nat) : List Region := if n = 0 then [] else [⟨b, n, k, 0⟩]
  s.resteer [.felt, .reserve, .spare]
    (one .felt (s.rd 0x3002_01) (s.rd 0x3002_02) ++ one .reserve (s.rd 0x3201_01) (s.rd 0x3201_02) ++
      one .spare (s.rd 0x3201_03) (s.rd 0x3201_04))

/-! ### Working copies (R73, R76, R161) -/

/-- The random word of an element, 0 where its rounding is not stochastic (R53). -/
def State.rword (s : State) (mode tid kappa st i : Nat) : Nat :=
  if mode = 0 then 0 else randomWord (roundingKey s.jobKey tid kappa st) i

/-- The working words of elements i0 .. i0 + n − 1, from state values, at step st; how many were cut. -/
def State.deriveLine (s : State) (d : Desc) (i0 st : Nat) (vs : List Int) : List Nat × Nat :=
  let rs := (List.range vs.length).map (fun x => derive d (vs.getD x 0) (s.rword d.wmode d.tid 2 st (i0 + x)))
  (rs.map (·.1), (rs.filter (·.2)).length)

/-- The state line x of descriptor d has its working words written anew from memory, at step st. -/
def State.rederiveLine (s : State) (d : Desc) (x st : Nat) : State :=
  let i0 := 32 * x
  let n := min 32 (d.count - i0)
  let vs := (s.mWords (d.base + 256 * x) 8 n).map (sgn 64)
  let (ws, cut) := s.deriveLine d i0 st vs
  (s.mwr (d.wbase + fmtBytes d.wfmt * i0) (padLast (decide (d.count ≤ i0 + 32)) (fmtBytes d.wfmt * i0) (wordsBytes (fmtBytes d.wfmt) ws))).incBy 0x8200_03 cut

/-- The W64 descriptor whose state region holds address a, and the line of the region. -/
def State.wDesc (s : State) (a : Nat) : Option (Desc × Nat) :=
  match s.pass.mould with
  | none => none
  | some m => (m.descs.find? (fun d => d.sfmt = 0 ∧ d.base ≤ a ∧ a < d.base + wholeLines (d.count * 8))).map
      (fun d => (d, (a - d.base) / 256))

/-- The descriptor, and the line of its state region, that W line n of any member's space W belongs to: the mould
layout is the same at every member (R168). -/
def State.wDescOfLine (s : State) (n : Nat) : Option (Desc × Nat) :=
  match s.pass.mould with
  | none => none
  | some m => (lineIn (m.space 0) n).bind s.wDesc

/-- Where this unit holds line n of a space of member `src`: its own, a data piece, or lines that a switch absorbed. -/
def State.heldAddr (s : State) (src sp n : Nat) : Option Nat :=
  match s.lineAddr ⟨src, sp, n⟩ with
  | some a => some a
  | none => (s.member.absorbed.find? (fun a => a.space == sp && a.src == src && decide (a.first ≤ n) && decide (n < a.first + a.size / 256))).map
      (fun a => a.base + 256 * (n - a.first))

/-- Where this unit holds the working words of an adopted W line (R163). -/
def State.heldWork (s : State) (src n : Nat) : Option Nat :=
  let lb := max (s.band false 0) 1
  match s.member.pieces.find? (fun p => p.kind = 0 ∧ p.src = src ∧ p.idx = n / lb) with
  | some p => some (s.reserveBase + p.off + s.pieceWork (n % lb))
  | none => (s.member.absorbed.find? (fun a => a.space == 0 && a.src == src && decide (a.first ≤ n) && decide (n < a.first + a.size / 256))).map
      (fun a => a.work + 64 * (n - a.first))

/-- The member and the line of its space that a held line is: an absorbed line keeps its first name. -/
def State.bornAs (s : State) (l : LineId) (a : Nat) : Nat × Nat :=
  match s.member.absorbed.find? (fun x => x.space == l.space && decide (x.base ≤ a) && decide (a < x.base + x.size)) with
  | some x => (x.src, x.first + (a - x.base) / 256)
  | none => (l.src, l.line)

/-- R161, R163: a coded W line's working words are derived anew: in the mould's region, or with the adopted lines. -/
def State.rederive (s : State) (l : LineId) (st : Nat) : State :=
  if l.space ≠ 0 then s else
    match s.lineAddr l with
    | none => s
    | some a =>
      let (src, n) := s.bornAs l a
      match s.wDescOfLine n with
      | none => s
      | some (d, x) =>
        if ¬ d.work then s
        else if src = s.own then s.rederiveLine d x st
        else
          let vs := (s.lineVals 0 a).take (min 32 (d.count - 32 * x))
          let (ws, cut) := s.deriveLine d (32 * x) st vs
          match s.heldWork src n with
          | some w => (s.mwr w (wordsBytes (fmtBytes d.wfmt) ws)).incBy 0x8200_03 cut
          | none => s

/-! ### Seed tables (R80, R81) -/

/-- Every line of the seed table of step u is written. -/
def State.writeSeeds (s : State) (u : Nat) : State :=
  match s.pass.mould with
  | none => s
  | some m =>
    let base := if u % 2 = 0 then m.seedA else m.seedB
    s.mwr base (((List.range m.seedN).map (seedOf s.jobKey u)).flatten)

/-! ### Rollback (R161) -/

/-- One delta-log record subtracted from its line, exactly and with no clamp. -/
def State.undo (s : State) (r : DRec) : State :=
  match s.lineAddr r.id with
  | none => s
  | some a =>
    let s := s.cowSave r.id a ((s.sliceOf a).getD 0)
    (s.mwr a (valsBytes r.id.space (subDeltas (s.lineVals r.id.space a) r.deltas))).touchPage a

/-- R161, R184: a record is undone, or waits until the reserve has a stall to save its line in (Table 8-2). -/
def State.undoRec (s : State) (r : DRec) : State :=
  match s.lineAddr r.id with
  | none => s
  | some a =>
    let n := (s.sliceOf a).getD 0
    if s.cowFull r.id n then (s.holdAt a n .cow).modMember fun m => { m with owed := m.owed ++ [r] }
    else (s.undo r).goAt a

/-- The records that waited are tried again. -/
def State.undoOwed (s : State) : State := s.member.owed.foldl State.undoRec (s.modMember fun m => { m with owed := [] })

/-- Neighbouring lines joined into extents, from rising addresses. -/
def joinExtents : List Nat → List (Nat × Nat)
  | [] => []
  | a :: rest =>
    match joinExtents rest with
    | (b, n) :: es => if a + 256 = b then (a, n + 256) :: es else (a, 256) :: (b, n) :: es
    | [] => [(a, 256)]

/-- The image of 0x3203.05: up to 4,096 entries of address and bytes. -/
def extentBytes (es : List (Nat × Nat)) : Bytes :=
  let b := ((es.take 4096).map (fun e => le 8 e.1 ++ le 8 e.2)).flatten
  b ++ zeros (65536 - b.length)

/-- R161: every coded line, own or adopted, goes back to its value at C. The chains stay until ROLLBACK_COMPLETE. A member whose
rollback runs already has nothing further to subtract (Table 7-3). -/
def State.rollback (s : State) (c : Nat) : State :=
  let rs := if s.member.rolling.isSome then [] else s.member.dlog.filter (·.window > c)
  let s := rs.foldl State.undoRec s
  s.modMember fun m => { m with rolling := some c }

/-- R161: what ends a rollback: working copies, freed chains, the Rollback record and the undone extents. -/
def State.endRollback (s : State) (c : Nat) : State :=
  let rs := s.member.dlog.filter (·.window > c)
  let ids := (rs.map (·.id)).eraseDups
  let s := ids.foldl (fun s l => s.rederive l c) s
  let addrs := ((rs.filter (fun r => r.sources / 2 ≠ 0)).filterMap (fun r => s.lineAddr r.id))
  let es := joinExtents (sortNat addrs)
  let s := s.modMember fun m => { m with dlog := m.dlog.filter (·.window ≤ c), rolling := none, undone := es }
  let s := s.wrO 0x3203_05 0 (extentBytes (es.map (fun e => (s.hostAddr e.1, e.2))))
  let s := s.incBy 0x8320_06 ids.length
  let s := s.journal 4 (le 8 c ++ le 8 ids.length ++ le 4 es.length ++ zeros 4)
  s.evHub 0x3204 (be 8 ids.length ++ be 4 es.length)


/-! ### Paddock (R160) -/

/-- 0x3202.01: an entry for each piece, unused ones with source id 0xFFFF. -/
def piecesBytes (ps : List Piece) : Bytes :=
  ((List.range 1024).map (fun i =>
    match ps[i]? with
    | some p => le 2 p.src ++ le 1 p.kind ++ le 1 p.idx ++ le 2 p.group ++ zeros 2 ++ le 8 p.off
    | none => le 2 0xFFFF ++ zeros 14)).flatten

/-- The log banks and the drain buffers of every slice stand free, and no broadcast is out (R86). -/
def State.freeBanks (s : State) : State :=
  s.modArrays fun a => { a with cast := [], slices := a.slices.map (fun x => { x with bank0 := none, bank1 := none, drain := [] }) }

/-- The pass ends between lines and asserts no step-done. -/
def State.stopPass (s : State) : State :=
  ((s.modCouch fun c => { c with waits := [] }).modPass fun p => { p with
    running := false, armed := false, todo := [], live := [], done := [], full := false, factors := [], factorOld := [], due := [], turns := 0 }).freeBanks

/-- Everything couching and membership hold of the coded state is discarded (R160, R357). -/
def State.discardCoding (s : State) : State :=
  let s := s.endOverrun.modCouch fun _ => {}
  let s := s.modAudit fun a => { a with fixes := [] }
  let s := s.modMember fun m => { m with
    dlog := [], pieces := [], absorbed := [], kept := [], standIns := [], target := [], groups := []
    relStandIns := [], relDead := [], relShards := [], relOrder := []
    images := [], decode := [], awaited := [], refill := [], accepted := none, proposal := none, cut := none
    rolling := none, owed := [], accepts := [], readies := [], suspects := [], lost := [], suspected := [], joining := false, filling := false }
  let s := s.wr 0x3100_07 0
  let s := s.wr 0x3201_06 0
  let s := s.wrO 0x3202_01 0 (piecesBytes [])
  s.resteer [.felt, .reserve, .spare] []

/-- R357: the unit has left the job: its coded state's records go, halter number and membership status read 0. While the
domain waits for repair (status 5) the delta log and the status stay, for the restore that reads them (R192). -/
def State.leaveJob (s : State) : State :=
  let waits : Bool := s.rd 0x3200_02 == 5
  let log := s.member.dlog
  let s := s.discardCoding
  let s := s.modMember fun m => { m with
    members := [], heard := [], lostNow := [], dead := [], relGroups := [], relPieces := [], joins := [], reads := []
    dlog := if waits then log else [] }
  let s := s.modTiers fun t => { t with snap := none, awaited := [], deferred := [] }
  let s := s.wrO 0x3200_04 0 (zeros 128)
  let s := s.wr 0x3200_01 0
  let s := (s.wr 0x3202_02 0).wr 0x3200_03 0xFFFF
  if waits then s else s.wr 0x3200_02 0

/-- R160: entry into PADDOCK. -/
def State.enterPaddock (s : State) (cause seen : Nat) : State :=
  if s.dev = 7 then s else
    let s := s.failHeld
    let s := s.stopPass
    let s := s.discardCoding
    let s := s.modTiers fun t => { t with snap := none }
    let s := s.wr 0x3200_02 6
    let s := s.inc 0x8320_03
    let s := s.allOff
    let s := s.setDev 7 0x3208
    s.evHub 0x3208 (be 1 cause ++ be 4 seen)

/-! ### Stand-ins and pieces (R163, R164) -/

/-- The free reserve bytes that a unit reports: the reserve less the pieces held (Table 7-2). -/
def State.reserveFree (s : State) : Nat := s.rd 0x3201_02 - s.rd 0x3201_06

/-- A role of a lost member that needs a stand-in: lost id, group, offset. -/
def lostRoles (gs : List (List Nat)) (lost : List Nat) : List (Nat × Nat × Nat) :=
  ((sortNat lost).map (fun l => ((List.range gs.length).map (fun g =>
    ((List.range (gs.getD g []).length).filter (fun t => (gs.getD g []).getD t 0xFFFF = l)).map (fun t => (l, g, t)))).flatten)).flatten

/-- R164: the positions after L in the deal order, going forward cyclically. -/
def after (order : List Nat) (l : Nat) : List Nat :=
  match order.findIdx? (· == l) with
  | some p => order.drop (p + 1) ++ order.take p
  | none => order

/-- R164: chooses stand-ins role by role. `free` and `held` are the bytes free and the pieces held, by member;
`size` the rounded piece size of an offset; `shard` names the member whose shard a role is of. The roles no member takes come
second. -/
def chooseStandIns (order new : List Nat) (size : Nat → Nat) (shard : Nat × Nat × Nat → Nat) :
    List (Nat × Nat × Nat) → List (List Nat) → List (Nat × Nat) → List (Nat × Nat) →
    List StandIn → List (Nat × Nat) → List StandIn × List (List Nat) × List (Nat × Nat)
  | [], gs, _, _, acc, bad => (acc.reverse, gs, bad.reverse)
  | (l, g, t) :: rest, gs, free, held, acc, bad =>
    let ok (c : Nat) : Bool :=
      new.contains c && !((gs.getD g []).contains c) &&
      decide (((held.find? (·.1 == c)).map (·.2)).getD 0 < 1024) &&
      decide (size t ≤ ((free.find? (·.1 == c)).map (·.2)).getD 0)
    match (after order l).find? ok with
    | some c =>
      let free' := mapWhere (fun f : Nat × Nat => f.1 == c) (fun f => (f.1, f.2 - size t)) free
      let held' := if held.any (·.1 == c) then mapWhere (fun h : Nat × Nat => h.1 == c) (fun h => (h.1, h.2 + 1)) held else (c, 1) :: held
      let gs' := setAt gs g (setAt (gs.getD g []) t c)
      chooseStandIns order new size shard rest gs' free' held' (⟨l, shard (l, g, t), g, t, c⟩ :: acc) bad
    | none => chooseStandIns order new size shard rest gs free held acc ((l, g) :: bad)

/-- Orders new pieces by (source device id, kind, index) (R163). -/
def insertPiece (p : Piece) : List Piece → List Piece
  | [] => [p]
  | q :: l =>
    if p.src < q.src ∨ (p.src = q.src ∧ (p.kind < q.kind ∨ (p.kind = q.kind ∧ p.idx ≤ q.idx))) then p :: q :: l
    else q :: insertPiece p l

/-- The lowest place of n bytes in the reserve that overlaps none of those taken (offset, bytes, all multiples of 4,096). DESIGN
CHOICE: R163 asks for the next aligned space and does not say whether one that a piece has given up is taken again; it is. -/
def nextPlace (taken : List (Nat × Nat)) (n : Nat) : Nat :=
  ((sortNat (0 :: taken.map (fun o => o.1 + o.2))).find? (fun x => taken.all (fun o => x + n ≤ o.1 || o.1 + o.2 ≤ x))).getD 0

/-- R163: new pieces take the next places of the reserve, in their order. -/
def placePieces (size : Nat → Nat) : List (Nat × Nat) → List Piece → List Piece
  | _, [] => []
  | taken, p :: l =>
    let off := nextPlace taken (size p.kind)
    { p with off := off } :: placePieces size ((off, size p.kind) :: taken) l

/-- The pieces held and their objects; the places of absorbed pieces count as used (R172). -/
def State.showPieces (s : State) (ps : List Piece) : State :=
  let s := s.modMember fun m => { m with pieces := ps }
  let s := s.wr 0x3201_06 (sumN (ps.map (fun p => s.pieceSize p.kind)) + sumN (s.member.kept.map (·.2)))
  s.wrO 0x3202_01 0 (piecesBytes ps)

/-- The pieces this member takes as stand-in. -/
def State.takePieces (s : State) (sis : List StandIn) : State :=
  let mine := (sis.filter (·.dev = s.own)).foldl (fun acc x =>
    insertPiece ⟨x.src, (if x.off < s.k then 0 else 1), (if x.off < s.k then x.off else x.off - s.k), x.group, 0⟩ acc) []
  let taken := s.member.pieces.map (fun p => (p.off, s.pieceSize p.kind)) ++ s.member.kept
  s.showPieces (s.member.pieces ++ placePieces s.pieceSize taken mine)

/-- The digest of a placement in use, stand-ins included (Table 7-2). -/
def placementDigest (gs : List (List Nat)) : Bytes := sha256 ((gs.map (fun g => (g.map (le 2)).flatten)).flatten)

/-! ### Streams of this member (R127) -/

/-- The data roles this member plays in a list of groups: group and data index. -/
def State.dataRoles (s : State) (gs : List (List Nat)) : List (Nat × Nat) :=
  ((List.range gs.length).map (fun g =>
    ((List.range (min s.k (gs.getD g []).length)).filter (fun t => (gs.getD g []).getD t 0xFFFF = s.own)).map (fun t => (g, t)))).flatten

/-- The streams begin at sequence 0, closing epochs from the open one (R127, R157). -/
def State.startStreams (s : State) : State :=
  let st (tgt : Bool) (r : Nat × Nat) : OutStream := ⟨r.1, r.2, tgt, 0, s.epoch, List.replicate s.m s.now⟩
  let a := (s.dataRoles s.member.groups).map (st false)
  let b := if s.rd 0x3202_02 = 2 then (s.dataRoles s.member.target).map (st true) else []
  s.modCouch fun c => { c with streams := a ++ b, ins := [], out := [], couchedTo := s.epoch }

/-! ### The cut (R142) -/

/-- R142: the couch cut at committed step c, under the number already adopted. What notices said of steps beyond c counts no
more, since those steps run again (R162). -/
def State.couchCut (s : State) (c : Nat) : State :=
  let s := s.couch.entries.foldl (fun s e => s.logEntry e) s.endOverrun
  let s := if s.committed < c then s.foldBank (s.bankOf c) else s
  let s := s.modCouch fun k => { k with
    vats := [], entries := [], tgtDue := [], out := [], ins := [], streams := [], folding := none, own := none
    overrun := none, limitHold := false, rushing := [], withheld := [], waits := [], fill := [], notices := k.notices.map (fun n => { n with bstep := min n.bstep c }) }
  let s := s.wr 0x3100_07 0
  let s := s.wr 0x3101_05 5
  let s := s.evHub 0x310D (be 4 s.halter ++ be 8 c)
  s.wr 0x3101_01 c

/-! ### Ready (Table 7-2) -/

/-- A Ready of a phase to the lead; the lead's own joins its collection when the frame is taken (R154, R157). -/
def State.sendReady (s : State) (phase verdict lines groups : Nat) : State :=
  let f := s.header 0x24 0 ++ be 4 s.halter ++ be 1 phase ++ be 1 verdict ++ zeros 2 ++ be 8 lines ++ be 8 groups
  if s.leadOf = s.own then
    s.modMember fun m => { m with readies := m.readies.filter (fun r => ¬ (r.dev = s.own ∧ r.phase = phase)) ++ [⟨s.own, phase, verdict, lines, groups⟩] }
  else s.sendMember s.leadOf f

/-! ### The fill (R118) -/

/-- Every band line that is not a zero line: own lines, space W then N. -/
def State.ownLineIds (s : State) : List LineId :=
  (List.range (s.ownLines 0)).map (fun n => ⟨s.own, 0, n⟩) ++ (List.range (s.ownLines 1)).map (fun n => ⟨s.own, 1, n⟩)

/-- The felt segments of this holder read zero. -/
def State.zeroFelts (s : State) : State :=
  (List.range s.member.groups.length).foldl (fun s g =>
    match s.segment false g with
    | some b => s.mzero b (b + segSize (s.rd 0x3002_04) (s.rd 0x3002_05))
    | none => s) s

/-- R118: the fill begins under the placement in use. -/
def State.beginFill (s : State) : State :=
  let s := s.zeroFelts
  let ids := s.ownLineIds
  let s := s.modCouch fun c => { c with fill := ids, vats := [], entries := [] }
  let s := s.wr 0x3000_0B ids.length
  s.startStreams

/-! ### Proposals (R151 to R154) -/

/-- The settings key (0x6000.03). -/
def State.settingsKey (s : State) : Bytes := s.octs 0x6000_03 0 32

/-- R152: the quiet commit step of a join or a switch. -/
def State.quietStep (s : State) : Nat := s.deckle * (s.step / max s.deckle 1 + 2)

/-- Table 7-2: the Propose frame. -/
def State.proposeFrame (s : State) (p : Proposal) : Bytes :=
  s.header 0x21 0 ++ be 4 p.num ++ be 1 p.kind ++ be 1 p.members.length ++ be 1 p.lost.length ++ zeros 1 ++ be 8 p.quiet ++
    (p.members.map (be 2)).flatten ++ (p.lost.map (be 2)).flatten

/-- Table 7-2: the own Accept of a proposal. -/
def State.acceptFrame (s : State) (num : Nat) : Bytes :=
  s.header 0x22 0 ++ be 4 num ++ be 4 s.halter ++ be 8 s.committed ++ be 8 s.stepDone ++ be 4 (s.rd 0x3002_06) ++
    be 4 (s.rd 0x3002_07) ++ be 8 s.reserveFree ++ s.settingsKey

/-- R153: a proposal is taken: the unit answers Accept and holds writes as the kind requires. A loss holds it
(status 3) at once; under kinds 2 and 3 steps go on until the quiet commit is folded. -/
def State.takeProposal (s : State) (p : Proposal) : State :=
  let s := s.modMember fun m => { m with accepted := some p, acceptedAt := s.now }
  let s := if p.kind = 1 then s.wr 0x3200_02 3 else if s.halter = 0 then s.wr 0x3200_02 1 else s
  let s := if p.sender = s.own then
      s.modMember fun m => { m with accepts := m.accepts.filter (·.dev ≠ s.own) ++ [⟨s.own, s.halter, s.committed, s.stepDone, s.reserveFree⟩] }
    else s.sendMember p.sender (s.acceptFrame p.num)
  if p.kind ≠ 1 ∧ s.halter ≠ 0 ∧ s.committed ≥ p.quiet then
    s.sendReady 3 0 0 0
  else s

/-- R152: the lead proposes a change at a number. -/
def State.proposeAt (s : State) (num kind : Nat) (ms lost : List Nat) (quiet : Nat) : State :=
  let p : Proposal := ⟨num, kind, s.own, ms, lost, quiet⟩
  let s := s.modMember fun m => { m with proposal := some p, accepts := [], readies := [], proposedAt := s.now }
  let s := (ms.filter (· ≠ s.own)).foldl (fun s d => s.sendMember d (s.proposeFrame p)) s
  if ms.contains s.own then s.takeProposal p else s

/-- R146: the halter number can rise no further. -/
def State.lastNumber (s : State) : Bool := s.halter == 0xFFFF_FFFF

/-- R146, R152, Table 7-3: a loss change over the members declared lost, at the number of the proposal in hand or at the next one.
DESIGN CHOICE: at the last number the loss is cut at that number, which does not rise: no rule says how else the members come to C
and to status 5 (R175). -/
def State.proposeLoss (s : State) : State :=
  let ms := s.member.members.filter (fun d => ¬ s.member.lost.contains d)
  let num := match s.member.proposal with | some p => p.num | none => if s.lastNumber then s.halter else s.halter + 1
  s.proposeAt num 1 ms (sortNat s.member.lost) 0

/-- R151: the lead declares a suspect lost and proposes a loss change. -/
def State.declareLost (s : State) (dev cause : Nat) : State :=
  if s.member.lost.contains dev ∨ ¬ s.member.members.contains dev then s else
    let s := s.modMember fun m => { m with lost := insertSorted dev m.lost, suspects := m.suspects.filter (·.dev ≠ dev) }
    let s := s.inc 0x8320_02
    let s := s.evHub 0x3202 (be 2 dev ++ be 1 cause)
    s.proposeLoss

/-- R374: the partner's status, from the latest heartbeat. -/
def State.twinStatus (s : State) : Nat :=
  match s.twin.beat with
  | none => if s.rd 0x7005_08 = 3 then 2 else 1
  | some b => if bit (fld b 0 1) 0 then 3 else if bit (fld b 0 1) 1 then 4 else if s.rd 0x7005_08 = 3 then 2 else 1

/-- R151: what a twin report's status does at the lead. -/
def State.twinVerdict (s : State) (dev status : Nat) : State :=
  match s.member.suspects.find? (·.dev = dev) with
  | none => s
  | some x =>
    if status = 2 ∨ status = 3 ∨ status = 4 then s.declareLost dev x.cause
    else if status = 1 ∧ ¬ x.postponed then
      s.modMember fun m => { m with suspects := mapWhere (fun y => y.dev == dev) (fun y => { y with waits := y.waits + 1, postponed := true }) m.suspects }
    else s

/-- R150, R151: the lead takes a Suspect report: it forwards it to the suspect's twin, or declares the loss. A lead that is that twin
judges the partner's status itself. -/
def State.leadSuspect (s : State) (dev cause : Nat) : State :=
  if ¬ s.member.members.contains dev then s else
    let heard := ((s.member.heard.find? (·.1 == dev)).map (·.2)).getD 0
    let mine := s.paired && decide (dev = s.rd 0x7005_01)
    let s := match s.member.joins.find? (·.dev = dev) with
      | some j => if mine then s else s.sendMember j.twin (s.header 0x20 0 ++ be 2 dev ++ be 1 cause ++ zeros 1 ++ be 8 heard)
      | none => s
    if cause = 3 ∨ cause = 4 then s.declareLost dev cause
    else
      let s := if s.member.suspects.any (·.dev = dev) then s
        else s.modMember fun m => { m with suspects := m.suspects ++ [⟨dev, cause, s.now, 1, false⟩] }
      if mine then s.twinVerdict dev s.twinStatus else s

/-- R150: this member reports a suspect to its lead, and no longer counts it as lead (R147). -/
def State.report (s : State) (dev cause : Nat) : State :=
  if s.muted then s else
  let s := s.modMember fun m => { m with suspected := if dev = s.own then m.suspected else insertSorted dev m.suspected }
  let s := s.wr 0x3200_03 s.leadOf
  if s.leadOf = s.own then (s.evHub 0x3201 (be 2 dev ++ be 1 cause)).leadSuspect dev cause
  else s.sendSuspect dev cause

end Sys2Proof.Machine
end

