-- ==== Sys2Proof/Machine/StallOps.lean ====
section
/-!
DEFINITION. The stables: shares, stalls, reserves, the retirement list and the opening of repairs
(13_stables_and_stored_data.md).

Which stall holds what is state of the stall table only: no value depends on it (R285). The stalls that each owner
holds at a slice follow the rows the owner holds, through `settle`.
-/

namespace Sys2Proof.Machine

/-! ### The HBM stable's shares (R282) -/

/-- The three parts of a share of n stalls, in bytes. -/
def shareBytes (n : Nat) : Nat := 4096 * ceilDiv n 4096 + 4096 * ceilDiv n 32768 + 4096 * n

/-- The largest n below acc + 2^fuel whose three parts fit B bytes, found bit by bit. -/
def stallsFit (b : Nat) : Nat → Nat → Nat
  | 0, acc => acc
  | k + 1, acc => stallsFit b k (if shareBytes (acc + 2 ^ k) ≤ b then acc + 2 ^ k else acc)

/-- R282: n for a share of b bytes, at most 2^22. -/
def stallsOf (b : Nat) : Nat := min (2 ^ 22) (stallsFit b 23 0)

/-- R282, R283: the address lies in the stall table or the level-0 bitmap of slice n's share of the HBM stable. -/
def State.inStallTable (s : State) (n a : Nat) : Bool :=
  let sb := s.rd 0x5100_01
  decide (sb ≤ a) && decide (a < sb + s.rd 0x5100_02) && s.inSlice n a &&
    decide (s.shareOf n sb (a - sb) < shareBytes (s.rd 0x5100_03) - 4096 * s.rd 0x5100_03)

/-- R282: the stalls of a share; shares of active slices that differ give the least. -/
def State.stableCount (s : State) (base size : Nat) : Nat :=
  match s.actives.map (fun n => stallsOf (s.shareOf n base size)) with
  | [] => 0
  | x :: l => l.foldl min x

/-! ### The stall table (R283 to R286) -/

/-- The stalls of slice n in a stable. -/
def State.stallTotal (s : State) (sram : Bool) : Nat := if sram then 1024 else s.rd 0x5100_03

/-- The stalls an owner holds at a slice. -/
def State.used (s : State) (sl owner : Nat) : Nat :=
  (s.prot.stalls.filter (fun t => t.slice == sl && t.owner == owner && owner != 0)).length

/-- The reserve of an owner (0x5101.01). -/
def State.reserve (s : State) (owner : Nat) : Nat := s.ofld 0x5101_01 (16 * owner) 4

/-- R286: an inconsistent stall is quarantined: retired, its level-0 bit cleared, counted and reported. -/
def State.quarantine (s : State) (sl num : Nat) : State :=
  let s := s.modProt fun p => { p with stalls := mapWhere (fun t => t.slice == sl && t.num == num && !t.sram) (fun t => { t with retired := true, bit := false }) p.stalls }
  (s.inc 0x8510_05).evSlice sl 0x5102 (be 1 sl ++ be 4 num)

/-- R285: the lowest-numbered free stall goes to the owner, after the inconsistent ones that the search meets on its way are
quarantined; none past its reserve, when the refusal is counted. -/
def State.alloc (s : State) (sl owner : Nat) : State :=
  let mine := s.prot.stalls.filter (fun t => t.slice == sl && !t.sram)
  if s.used sl owner ≥ s.reserve owner then
    s.wrOf 0x5101_01 (16 * owner + 8) 4 (min (s.ofld 0x5101_01 (16 * owner + 8) 4 + 1) (2 ^ 32 - 1))
  else match lowestFree (mine.map (·.num)) (mine.length + 1) 0 with
    | none => s
    | some n =>
      let met := sortNat ((mine.filter (fun t => t.bit && decide (t.num < n))).map (·.num))
      let s := met.foldl (fun s k => s.quarantine sl k) s
      if n ≥ s.stallTotal false then s else
        let s := s.modProt fun p => { p with stalls := p.stalls ++ [⟨false, sl, n, owner, false, false⟩] }
        let hi := max (s.ofld 0x5101_01 (16 * owner + 4) 4) (s.used sl owner)
        s.wrOf 0x5101_01 (16 * owner + 4) 4 hi

/-- R286: a free by an owner: proper, which sets the level-0 bit, that of a retired stall too; or double or foreign, which
changes nothing but is counted and reported. -/
def State.freeStall (s : State) (sl num owner : Nat) : State :=
  match s.prot.stalls.find? (fun t => t.slice == sl && t.num == num && !t.sram) with
  | some t =>
    if t.owner = owner ∧ owner ≠ 0 then
      s.modProt fun p => { p with stalls := p.stalls.filter (fun x => ¬ (x = t)) ++ (if t.retired then [{ t with owner := 0, bit := true }] else []) }
    else badFree s sl num owner t.owner
  | none => badFree s sl num owner 0
where
  /-- The count and the event of a bad free, at most once per second per owner. -/
  badFree (s : State) (sl num owner rec_ : Nat) : State :=
    let s := s.inc 0x8510_04
    let t := s.now / 1000000000
    if s.prot.badFrees.contains (owner, t) then s else
      State.evSlice (s.modProt fun p => { p with badFrees := (owner, t) :: p.badFrees.filter (·.1 ≠ owner) }) sl 0x5103
        (be 1 sl ++ be 4 num ++ be 1 owner ++ be 1 rec_)

/-- Allocations up to a count. -/
def State.allocN (s : State) (sl owner : Nat) : Nat → State
  | 0 => s
  | n + 1 => State.allocN (s.alloc sl owner) sl owner n

/-- Frees of the owner's stalls, the last taken first. -/
def State.freeN (s : State) (sl owner : Nat) : Nat → State
  | 0 => s
  | n + 1 =>
    match (s.prot.stalls.filter (fun t => t.slice == sl && t.owner == owner)).getLast? with
    | some t => State.freeN (s.freeStall sl t.num owner) sl owner n
    | none => s

/-- The objects that count stalls (Table 13-9). -/
def State.refreshStalls (s : State) : State :=
  let a := s.actives
  let n := s.rd 0x5100_03
  let hbm := s.prot.stalls.filter (fun t => !t.sram && a.contains t.slice)
  let ret := (hbm.filter (·.retired)).length
  let res := sumN ((List.range 10).map s.reserve)
  let s := s.wr 0x5100_04 (a.length * n - hbm.length)
  let s := s.wr 0x5100_05 (a.length * n - ret - a.length * res)
  let s := s.wr 0x5100_06 (1024 * a.length - (s.prot.stalls.filter (·.sram)).length)
  s.wr 0x5100_07 (s.prot.stalls.filter (·.retired)).length

/-- The slice whose member-mode reserve takes chunk x. DESIGN CHOICE: the spec names no slice; the active ones take turns by chunk. -/
def State.chunkSlice (s : State) (x : Nat) : Nat := s.actives.getD (x % max 1 s.actives.length) 0

/-- R204, R210: the member-mode reserve's stalls in use at slice n, one for each chunk that is summed or held there. -/
def State.redStalls (s : State) (n : Nat) : Nat :=
  (s.red.homes.filter (fun h => s.chunkSlice h.key.chunk == n)).length +
    (s.red.res.filter (fun r => r.stall && s.chunkSlice r.key.chunk == n)).length

/-- The slice to which a block is given (R242). -/
def State.blockSlice (s : State) (b : Nat) : Nat := s.actives.getD (b % max 1 s.actives.length) 0

/-- The bytes of the exchange reserve in use at a slice. -/
def State.xUsed (s : State) (n : Nat) : Nat :=
  sumN ((s.exch.pays.filter (fun p => s.blockSlice p.block == n)).map (·.bytes.length)) +
    sumN ((s.exch.sets.filter (fun t => s.blockSlice t.block == n)).map (fun t => sumN (t.packets.map (fun p => 8 * p.2.length))))

/-- The stalls that an owner's rows need at slice n. The square-sum accumulators and the twin's ring stand in the whole of their
reserve. -/
def State.stallsNeeded (s : State) (owner n : Nat) : Nat :=
  match owner with
  | 1 => ceilDiv ((s.entriesAt n).filter (·.id.space = 0)).length 16 + ceilDiv ((s.entriesAt n).filter (·.id.space = 1)).length 8
  | 2 => s.vatStalls n 0 0
  | 3 => s.dlogStalls n
  | 5 => match s.tiers.snap with | some c => c.stalls n | none => 0
  | 6 => s.redStalls n
  | 7 => ceilDiv (s.xUsed n) 4096
  | 8 => s.yardStalls n
  | 4 => s.reserve 4
  | 9 => s.reserve 9
  | _ => s.used n owner

/-- An owner that holds a reserve takes or frees stalls at a slice until it holds what its rows need. -/
def State.settleOne (s : State) (n owner : Nat) : State :=
  if s.reserve owner = 0 then s else
  let need := s.stallsNeeded owner n
  let have_ := s.used n owner
  if have_ < need then s.allocN n owner (need - have_) else s.freeN n owner (have_ - need)

/-! ### What the share holds (R282, R283) -/

/-- Table 13-1: the stall-table byte of a stall of the HBM stable. -/
def State.stallByte (s : State) (n num : Nat) : Nat :=
  match s.prot.stalls.find? (fun t => !t.sram && t.slice == n && t.num == num) with
  | some t => (if t.owner = 0 then 0 else 1) + 2 * t.owner + (if t.retired then 32 else 0)
  | none => 0

/-- The level-0 bit of a stall: free, or set although the stall is not (R285, R286). -/
def State.stallBit (s : State) (n num : Nat) : Bool :=
  decide (num < s.rd 0x5100_03) && (match s.prot.stalls.find? (fun t => !t.sram && t.slice == n && t.num == num) with | some t => t.bit | none => true)

/-- R282: byte a of memory as a read finds it: the stall table and the level-0 bitmap stand in the share of the HBM stable. -/
def State.plainByte (s : State) (a : Nat) : Byte :=
  match s.sliceOf a with
  | some n =>
    if s.inStallTable n a then
      let x := s.shareOf n (s.rd 0x5100_01) (a - s.rd 0x5100_01)
      let t := 4096 * ceilDiv (s.rd 0x5100_03) 4096
      if x < t then BitVec.ofNat 8 (s.stallByte n x)
      else BitVec.ofNat 8 (sumN ((List.range 8).map (fun i => if s.stallBit n (8 * (x - t) + i) then 2 ^ i else 0)))
    else (s.mrd a 1).getD 0 0
  | none => (s.mrd a 1).getD 0 0

/-- The bytes that a pass-through read finds. -/
def State.plainRead (s : State) (a n : Nat) : Bytes :=
  if s.rd 0x5100_03 = 0 then s.mrd a n else (List.range n).map (fun i => s.plainByte (a + i))

/-! ### Reserves (R284) -/

/-- The stalls at slice n that are neither reserved nor retired. -/
def State.unreserved (s : State) (n : Nat) : Nat :=
  s.rd 0x5100_03 - (s.prot.stalls.filter (fun t => !t.sram && t.slice == n && t.retired)).length - sumN ((List.range 10).map s.reserve)

/-- R284: a reserve is granted when every active slice has room; else event 0x5101. -/
def State.grant (s : State) (owner need : Nat) : Bool × State :=
  let free := minN 0 (s.actives.map s.unreserved)
  if need ≤ free then (true, (s.wrOf 0x5101_01 (16 * owner) 4 need).refreshStalls)
  else (false, s.ev 0x5101 (be 1 owner ++ be 4 need ++ be 4 free))

/-- R284: a reserve is returned, with the stalls of its owner. -/
def State.ungrant (s : State) (owner : Nat) : State :=
  let s := s.modProt fun p => { p with stalls := mapWhere (fun t => t.owner == owner) (fun t => { t with owner := 0, bit := true }) (p.stalls.filter (fun t => ¬ (t.owner = owner ∧ ¬ t.retired))) }
  (s.wrOf 0x5101_01 (16 * owner) 4 0).refreshStalls

/-! ### Functions that are OFF (R284, R10) -/

/-- The stable owners of a function (Table 13-2). -/
def fnOwners : Fn → List Nat
  | .coding => [1, 2, 3]
  | .deepTiers => [5]
  | .reduction => [6]
  | .siteExchange => [7]
  | .yard => [8]
  | .routing => []

/-- The kinds of steering range that a function declares. -/
def fnKinds : Fn → List RKind
  | .coding => [.felt, .reserve, .spare]
  | .reduction => [.intake, .staging, .result]
  | .yard => [.aperture, .backing, .fence]
  | .routing => [.scores, .routeOut, .combine, .window]
  | _ => []

/-- The answer of a function that is gone to a request it still held: the write-error response of a write, else the error response (R378). -/
def State.giveUp (s : State) (q : SReq) : State := if q.kind = 2 then s.answer q 1 0 [] else s.answer q 2 (2 ^ 32 - 1) []

/-- What a function that is OFF no longer holds: reductions, calls (not the scopes and groups that the last mark took), and host requests to the yard not yet answered. -/
def State.forget (s : State) : Fn → State
  | .reduction => { s with red := { scope := s.red.scope } }
  | .routing => { s with route := { groups := s.route.groups } }
  | .yard =>
    let s := ((s.yard.ops.map (·.reqs)).flatten ++ s.yard.fences.map (·.1)).foldl State.giveUp s
    { s with yard := { s.yard with ops := [], fences := [], answers := [], combs := [], loop := [] } }
  | _ => s

/-- A function that has reached OFF has returned its reserves, holds nothing, and its steering ranges are gone. -/
def State.tidyFn (s : State) (f : Fn) : State :=
  if s.fn f ≠ 0 then s else
    let s := State.forget { s with steer := s.steer.filter (fun r => ¬ (fnKinds f).contains r.kind) } f
    (fnOwners f).foldl (fun s o => if s.reserve o = 0 then s else s.ungrant o) s

/-- The own line counts as Table 5-7 shows them. -/
def State.showCounts (s : State) : State := (s.wr 0x3002_06 (s.ownLines 0)).wr 0x3002_07 (s.ownLines 1)

/-- What every command ends with: functions that are OFF hold nothing, line counts are shown, and every owner takes or frees stalls until it holds what its rows need (R285, R286). -/
def State.settle (s : State) : State :=
  let s := (fns.foldl State.tidyFn s).showCounts
  if s.rd 0x5100_03 = 0 then s else
    let s := s.actives.foldl (fun s n => [1, 2, 3, 4, 5, 6, 7, 8, 9].foldl (fun s o => s.settleOne n o) s) s
    s.refreshStalls

/-! ### Retirement (R300, R301) -/

/-- Table 13-7: an entry. -/
def retireBytes (addr kind cause cls outcome waiters byVedel seen count : Nat) : Bytes :=
  le 8 addr ++ le 1 kind ++ le 1 cause ++ le 1 cls ++ le 1 outcome ++ le 2 (min waiters 65535) ++ le 1 byVedel ++ zeros 1 ++
    le 8 seen ++ le 4 count ++ zeros 4

/-- The list object follows the entries. -/
def State.showRetired (s : State) : State :=
  let b := s.prot.retired.flatten
  let s := s.wrO 0x5103_01 0 (b ++ zeros (32768 - b.length))
  s.wr 0x5103_02 s.prot.retired.length

/-- R300: a retirement entry is added, or the count of the entry at the address rises. -/
def State.retirePlace (s : State) (addr kind cause cls outcome waiters byVedel : Nat) : State :=
  let same (e : Bytes) : Bool := fldLe e 0 8 == addr && fldLe e 8 1 == kind
  if s.prot.retired.any same then
    (s.modProt fun p => { p with retired := mapWhere same (fun e => patch e 24 (le 4 (fldLe e 24 4 + 1))) p.retired }).showRetired
  else if s.prot.retired.length ≥ 1024 then (s.inc 0x8510_09).ev 0x510A (be 8 addr)
  else
    (s.modProt fun p => { p with retired := p.retired ++ [retireBytes addr kind cause cls outcome waiters byVedel s.now 1] }).showRetired

end Sys2Proof.Machine
end

