-- ==== Sys2Proof/Machine/Shapes.lean ====
section
/-!
DEFINITION. The shapes of a meaning: in which device states a command has an effect, and the stalls settled after it.
-/

namespace Sys2Proof.Machine

/-- A command that has its effect only in the states in which the block serves; else nothing happens. -/
def whenServing (s : State) (k : State → State) : Out := .next (if s.serving then (k s).settle else s)

/-- A command that has its effect only while the block runs; else nothing happens. -/
def whenUp (s : State) (k : State → State) : Out := .next (if s.up then (k s).settle else s)

/-- A command that names a slice: absent slices fault (R1). -/
def onSlice (n : Nat) (s : State) (k : State → State) : Out :=
  if n < s.hw.slices then .next (k s) else .fault .absentSlice

/-- A command of a slice: it has its effect at an active slice alone (R2). -/
def onActive (n : Nat) (s : State) (k : State → State) : Out := onSlice n s fun s => if s.active n then k s else s

/-- A command of an active slice, with its effect only in the states in which the block serves. -/
def sliceServing (n : Nat) (s : State) (k : State → State) : Out :=
  onActive n s fun s => if s.serving then (k s).settle else s

/-! ### Frames (R422, Table 1-4a) -/

/-- The kinds that the chapters assign: every other kind is reserved (R422). -/
def assignedKinds : List Nat :=
  [0x10, 0x11, 0x12] ++ (List.range 14).map (0x20 + ·) ++ (List.range 5).map (0x30 + ·) ++ (List.range 4).map (0x40 + ·) ++
    (List.range 7).map (0x50 + ·) ++ (List.range 5).map (0x60 + ·) ++ (List.range 4).map (0x70 + ·) ++ (List.range 6).map (0x80 + ·)

/-- The kind of a transport frame, its byte 0 (R422). -/
def frameKind (r : Rx) : Nat := fld r.f 0 1

/-- A frame of one of the kinds that the receiver assigns. -/
def knownKind (r : Rx) : Bool := assignedKinds.contains (frameKind r)

/-- A frame command: it acts in the states in which transport frames are taken (R351, R400), on a frame of one of its own
kinds; a frame of a reserved kind is dropped and not even its congestion mark is counted (R422). -/
def frameRow (kinds : List Nat) (r : Rx) (s : State) (k : State → State) : Out :=
  whenServing s fun s => if knownKind r && kinds.contains (frameKind r) then k (s.ce r) else s

end Sys2Proof.Machine
end

