-- ==== Sys2Proof/Machine/AuditOps.lean ====
section
/-!
DEFINITION. The shared operations of determinism and audit: the settings key, watermarks, provenance, and a line's value
at a commit (14_determinism_and_audit.md).
-/

namespace Sys2Proof.Machine

/-! ### The settings key (R307) -/

/-- An OCTETS table of n entries of `len` bytes, with bytes [lo, hi) of every entry zeroed. -/
def State.zeroedTable (s : State) (k n len lo hi : Nat) : Bytes :=
  ((List.range n).map (fun i => s.octs k (i * len) lo ++ zeros (hi - lo) ++ s.octs k (i * len + hi) (len - hi))).flatten

/-- A scalar object at its type's width, most significant byte first. -/
def State.beObj (s : State) (k : Nat) : Bytes :=
  match objOf k with
  | some o => be o.size (s.rd k)
  | none => []

/-- The bytes of an OCTETS object. -/
def State.whole (s : State) (k : Nat) : Bytes :=
  match objOf k with
  | some o => s.octs k 0 o.size
  | none => []

/-- Table 14-2: the settings block, 240 bytes. -/
def State.settingsBlock (s : State) : Bytes :=
  let stream := sha256 (s.zeroedTable 0x4001_01 (((objOf 0x4001_01).map (·.size / 128)).getD 0) 128 16 112)
  let route := sha256 (s.zeroedTable 0x4101_01 (((objOf 0x4101_01).map (·.size / 128)).getD 0) 128 16 96)
  let exch := sha256 (([0x4200_02, 0x4200_03, 0x4200_04, 0x4200_05, 0x4200_06, 0x4200_07, 0x4200_08, 0x4200_09, 0x4200_11].map s.beObj).flatten ++
    s.whole 0x4201_01)
  be 4 0x47534554 ++ be 2 1 ++ zeros 2 ++ be 8 p61 ++ be 4 q31 ++ be 1 (s.rd 0x3000_01) ++ be 1 (s.rd 0x3000_02) ++
    be 1 (s.rd 0x3001_02) ++ be 1 (s.rd 0x3100_01) ++ be 4 (s.rd 0x2001_01) ++ s.octs 0x2001_02 0 32 ++
    be 4 (s.rd 0x2100_01) ++ s.octs 0x2100_06 0 32 ++ be 1 (s.rd 0x2000_02) ++ be 1 (s.rd 0x2000_03) ++ zeros 2 ++
    s.octs 0x3001_03 0 32 ++ stream ++ route ++ exch ++ be 8 (s.rd 0x6000_02) ++ zeros 4

/-- R307, R309: the settings key is computed again; a change while coding is ON is reported. -/
def State.refreshSettings (s : State) : State :=
  let old := s.settingsKey
  let new := sha256 s.settingsBlock
  if old = new then s else
    let s := s.wrO 0x6000_03 0 new
    if s.fnOn .coding then s.ev 0x6009 (new.take 8) else s

/-- The objects whose change alters the settings key (Table 14-2). -/
def settingsInputs : List Nat :=
  [0x3000_01, 0x3000_02, 0x3001_01, 0x3001_02, 0x3100_01, 0x2100_01, 0x2000_02, 0x2000_03, 0x4001_01, 0x4101_01,
   0x4200_02, 0x4200_03, 0x4200_04, 0x4200_05, 0x4200_06, 0x4200_07, 0x4200_08, 0x4200_09, 0x4200_11, 0x4201_01]

/-! ### Watermarks (R310 to R312) -/

/-- The watermark key r of the job key in use (R305). -/
def State.wmKey (s : State) : Nat := watermarkKey s.jobKey

/-- R310 h: the hash of a line's field images. -/
def lineHash (e : List Nat) : Nat :=
  (List.range e.length).foldl (fun acc j => addP acc (rotmul (e.getD j 0) (j % 61))) 0

/-- R310 range_wm over the images of lines first, first + 1, …. -/
def rangeWm (r first : Nat) (lines : List (List Nat)) : Nat :=
  (List.range lines.length).foldl (fun acc x => addP acc (mulP (powP r (first + x)) (lineHash (lines.getD x [])))) 0

/-- R310 shard_wm. -/
def shardWm (r w n : Nat) : Nat := addP w (mulP (powP r (2 ^ 32)) n)

/-- The field images of the own line n of a space. -/
def State.lineImage (s : State) (sp n : Nat) : List Nat :=
  match s.lineAddr ⟨s.own, sp, n⟩ with
  | some a => (s.lineVals sp a).map toField
  | none => List.replicate (elems sp) 0

/-- R310: the watermark of an own space. -/
def State.spaceWm (s : State) (sp : Nat) : Nat :=
  rangeWm s.wmKey 0 ((List.range (s.ownLines sp)).map (s.lineImage sp))

/-- R162: the watermark of an earlier Step-done record of step st. -/
def State.earlierWm (s : State) (st : Nat) : Option Nat :=
  (s.member.journal.find? (fun r => r.ty = 1 ∧ fldLe r.body 0 8 = st)).map (fun r => fldLe r.body 16 8)

/-- R311, R162: the step watermark of step st with boundary epoch b, at the tick that ends b: the Step-done record, the
watermark objects, and the comparison with the journal of a step run again. -/
def State.stepWatermark (s : State) (st b : Nat) : State :=
  let w := s.spaceWm 0
  let n := s.spaceWm 1
  let x := shardWm s.wmKey w n
  let differs := st ≤ s.member.doneBeforeCut ∧ (s.earlierWm st).any (· ≠ x)
  let s := if differs then (s.inc 0x8320_0C).evHub 0x320F (be 8 st) else s
  let s := s.journal 1 (le 8 st ++ le 8 b ++ le 8 x)
  let s := s.modAudit fun a => { a with own := ((st, w, n) :: a.own.filter (·.1 ≠ st)).take 192 }
  let s := s.wr 0x6000_04 st
  let s := s.wr 0x6000_05 w
  let s := s.wr 0x6000_06 n
  s.wr 0x6000_07 x

/-! ### Provenance (R320) -/

/-- Table 14-8: the provenance digest. -/
def State.provenance (s : State) (kind round st wmW wmN : Nat) (bound : Bytes) : Bytes :=
  sha256 (be 4 0x47505652 ++ be 1 kind ++ zeros 3 ++ be 8 s.job ++ be 2 (s.rd 0x4200_01) ++ be 2 s.own ++ be 4 round ++
    be 8 st ++ s.octs 0x2100_06 0 32 ++ s.settingsKey ++ be 8 wmW ++ be 8 wmN ++ s.octs 0x3303_07 0 32 ++ slice bound 0 32)

/-! ### The value of a line at a commit (R316) -/

/-- R316: the words of an own line, less its open entry, less every delta-log record of a window later than c. -/
def State.lineAt_ (s : State) (c sp n : Nat) : List Int :=
  let l : LineId := ⟨s.own, sp, n⟩
  let now : List Int := match s.lineAddr l with
    | some a => s.lineVals sp a
    | none => List.replicate (elems sp) 0
  let now := match s.entry l with
    | some e => subDeltas now e.deltas
    | none => now
  (s.member.dlog.filter (fun r => r.id = l ∧ r.window > c)).foldl (fun v r => subDeltas v r.deltas) now

/-- The watermark of a part at c: lines a .. a + size − 1, those beyond the own lines counting nothing. -/
def State.partWm (s : State) (c sp a size : Nat) : Nat :=
  let top := s.ownLines sp
  rangeWm s.wmKey a ((List.range (min size (top - a))).map (fun x => (s.lineAt_ c sp (a + x)).map toField))

end Sys2Proof.Machine
end

