-- ==== Sys2Proof/Machine/SramOps.lean ====
section
/-!
DEFINITION. SRAM rows: what a syndrome costs, and what a write does to a row (R288 to R291, R302, 13_stables_and_stored_data.md).
The model holds the contents of the rows that the rules lay down; of any other row nothing is known.
-/

namespace Sys2Proof.Machine

/-! ### Reading a row (R289, R290, R302) -/

/-- The spare rows already taken in the 4,096-row block of a row: 2 are left at first (R290). -/
def State.sparesUsed (s : State) (mem slice row : Nat) : Nat :=
  (s.prot.remaps.filter (fun x => x.1 == mem && x.2.1 == slice && x.2.2 / 4096 == row / 4096)).length

/-- R290, R300: the row is still in error after its write-back: it is remapped, or its stall is retired, or the fault is
raised; the list of retirements takes an entry in each case. -/
def State.hardRow (s : State) (mem slice row cls : Nat) : State :=
  let used := s.sparesUsed mem slice row
  let place := mem + slice * 2 ^ 8 + row * 2 ^ 16
  if used < 2 then
    let s := s.modProt fun p => { p with remaps := p.remaps ++ [(mem, slice, row)] }
    ((s.inc 0x8510_0B).wr 0x5102_05 (min (s.rd 0x5102_05) (1 - used))).retirePlace place 2 2 cls 0 0 0
  else if mem = 0 then
    let num := row / 512
    let s := s.modProt fun p => { p with
      stalls := if p.stalls.any (fun t => t.sram && t.slice == slice && t.num == num)
        then mapWhere (fun t => t.sram && t.slice == slice && t.num == num) (fun t => { t with retired := true }) p.stalls
        else p.stalls ++ [⟨true, slice, num, 0, true, true⟩] }
    s.refreshStalls.retirePlace place 2 2 cls 0 0 1
  else (s.evSlice slice 0x5105 (be 1 mem ++ be 1 slice ++ be 4 row)).retirePlace place 2 2 cls 0 0 0

/-- R289: a row read with a syndrome of `n` flipped bits; three or more are no correctable pattern. `hard`: the row is still
in error when it is read again after the write-back. -/
def State.sramRead (s : State) (mem slice row n : Nat) (hard : Bool) (cls : Nat) : State :=
  let body := be 1 mem ++ be 1 slice ++ be 4 row
  let s := match n with
    | 0 => s
    | 1 => s.inc 0x8510_01
    | 2 => (s.inc 0x8510_02).evSecond 0x5104 body
    | _ => State.evSlice (s.inc 0x8510_03) slice 0x5105 body
  if n = 0 then s
  else if hard then s.hardRow mem slice row cls
  else s

/-- R302: the bits that an injection on a row flips at its next read; the injection is then spent. -/
def State.takeInjection (s : State) (mem slice row : Nat) : Nat × State :=
  match s.prot.injected.find? (fun w => bits w 0 8 == mem && (bits w 8 5 == slice || decide (mem ≥ 3)) && bits w 16 32 == row) with
  | some w => (bits w 13 2, s.modProt fun p => { p with injected := p.injected.filter (· ≠ w) })
  | none => (0, s)

/-- R289, R296: what an unreadable SRAM row costs, by the class of its contents. -/
def State.sramLost (s : State) (mem slice row cls : Nat) : State :=
  match cls with
  | 6 => s.unitFailed 0x5105 slice
  | 7 => s.abandonSnap 4
  | 8 => s
  | _ => s.modProt fun p => { p with poisonRows := (mem, slice, row) :: p.poisonRows.filter (· ≠ (mem, slice, row)) }

/-! ### Writing a row (R291) -/

/-- The key of a row: memory (as in 0x5102.04), slice, row. -/
def rowKey (mem slice row : Nat) : Nat := (mem * 32 + slice) * 2 ^ 32 + row

/-- The data word of a row; of a row that no rule has laid down, a value that no rule gives. -/
def State.rowWord (s : State) (mem slice row : Nat) : Nat :=
  (Sparse.find s.prot.rows (rowKey mem slice row)).getD (Config.sramRow mem slice row s.tap.era % 2 ^ 64)

/-- A row takes a data word, and its poison mark. -/
def State.putRow (s : State) (mem slice row word : Nat) (poison : Bool) : State :=
  s.modProt fun p => { p with
    rows := Sparse.insert p.rows (rowKey mem slice row) word
    poisonRows := (if poison then [(mem, slice, row)] else []) ++ p.poisonRows.filter (· ≠ (mem, slice, row)) }

/-- R291: a write of fewer than 8 bytes: the row is read and corrected, the bytes merged and the row written, with poison set
where the read found it unreadable. -/
def State.narrowRow (s : State) (mem slice row off : Nat) (bs : Bytes) : State :=
  let (k, s) := s.takeInjection mem slice row
  let s := s.sramRead mem slice row k false 8
  let bad := decide (k ≥ 3) || s.prot.poisonRows.contains (mem, slice, row)
  s.putRow mem slice row (leNat (patch (le 8 (s.rowWord mem slice row)) off bs)) bad

/-- R291: bytes written to an SRAM from byte address a, row by row: a whole 8-byte word is never read and clears the poison mark. -/
def State.sramWrite (s : State) (mem slice a : Nat) (bs : Bytes) : State :=
  (List.range ((a % 8 + bs.length + 7) / 8)).foldl (fun s i =>
    let r := a / 8 + i
    let lo := max a (8 * r)
    let part := Sys2Proof.Machine.slice bs (lo - a) (min (a + bs.length) (8 * r + 8) - lo)
    if part.length = 8 then s.putRow mem slice r (leNat part) false
    else s.narrowRow mem slice r (lo % 8) part) s

end Sys2Proof.Machine
end

