-- ==== Sys2Proof/Machine/ArrayOps.lean ====
section
/-!
DEFINITION. The shared operations of the outer-product arrays: the operand store, expand, tiles and their checks, MAC jobs and
the activity ramp (04_outer_product_arrays.md). Which tiles a slice needs, and the broadcast, stand with the pass.
-/

namespace Sys2Proof.Machine

/-! ### The arrays of a slice -/

/-- The arrays of slice n. -/
def State.arr (s : State) (n : Nat) : ArraySlice := (s.arrays.slices.find? (·.slice == n)).getD { slice := n }

/-- The arrays of slice n changed by f. -/
def State.modArr (s : State) (n : Nat) (f : ArraySlice → ArraySlice) : State :=
  let a := f (s.arr n)
  s.modArrays fun x => { x with slices := x.slices.filter (·.slice ≠ n) ++ [a] }

/-- Array a of a slice. -/
def ArraySlice.get (x : ArraySlice) (a : Nat) : Arr := if a = 0 then x.arr0 else x.arr1

/-- Array a of a slice changed by f. -/
def ArraySlice.set (x : ArraySlice) (a : Nat) (f : Arr → Arr) : ArraySlice :=
  if a = 0 then { x with arr0 := f x.arr0 } else { x with arr1 := f x.arr1 }

/-- An array of a slice is in service (0x2200.05). -/
def State.inService (s : State) (n a : Nat) : Bool := (s.rd 0x2200_05).testBit (2 * n + a)

/-- R94: the array that does the work of array a: itself, or the other one once it has left service. -/
def State.physical (s : State) (n a : Nat) : Nat := if s.inService n a then a else 1 - a

/-! ### The operand store (R85, Tables 4-1 and 4-2) -/

/-- The byte offset of log bank i within the operand SRAM. -/
def bankOff (i : Nat) : Nat := if i = 0 then 0 else 0x6_0000

/-- The byte offset of a MAC ring: 0 and 1 the x rings, 2 the y ring. -/
def ringOff (r : Nat) : Nat := if r = 0 then 0xC_0000 else if r = 1 then 0xC_C000 else 0xD_8000

/-- The byte offset of the readout area of array a. -/
def readOff (a : Nat) : Nat := if a = 0 then 0xE_4000 else 0xE_6000

/-- A word of LA17 values from index 3j of a vector: bits [16:0], [37:21] and [58:42]. -/
def packLa (v : List Int) (j : Nat) : Nat :=
  sumN ((List.range 3).map (fun f => match v[3 * j + f]? with | some a => pat 17 a * 2 ^ (21 * f) | none => 0))

/-- Table 4-2: the words of a log bank. -/
def bankWords (tid : Nat) (aT : Int) (aC aR : List Int) : List Nat :=
  (pat 17 aT + tid % 65536 * 2 ^ 32) :: ((List.range (ceilDiv aC.length 3)).map (packLa aC) ++ (List.range (ceilDiv aR.length 3)).map (packLa aR))

/-- R85: the hub's broadcast lands in log bank i of slice n. -/
def State.writeBank (s : State) (n i tid : Nat) (aT : Int) (aC aR : List Int) : State :=
  s.sramWrite 2 n (bankOff i) (wordsBytes 8 (bankWords tid aT aC aR))

/-- Field f of word w of log bank i of slice n. -/
def State.bankField (s : State) (n i w f : Nat) : Int := sgn 17 (bits (s.rowWord 2 n (bankOff i / 8 + w)) (21 * f) 17)

/-- The tensor's total a_T in a bank. -/
def State.bankT (s : State) (n i : Nat) : Int := s.bankField n i 0 0

/-- a_C[j] of a tensor of C columns, ZERO beyond them (R87). -/
def State.bankC (s : State) (n i C j : Nat) : Int := if j < C then s.bankField n i (1 + j / 3) (j % 3) else la17Zero

/-- a_R[r] of a tensor of R rows and C columns, ZERO beyond them (R87). -/
def State.bankR (s : State) (n i C R r : Nat) : Int := if r < R then s.bankField n i (1 + ceilDiv C 3 + r / 3) (r % 3) else la17Zero

/-! ### Tiles (R84, R87) -/

/-- R84 expand from a raw sum u: the result; 1 an underflow, 2 a cut, 0 neither. -/
def expandU (aR aC aT u : Int) : Int × Nat :=
  if aR = la17Zero ∨ aC = la17Zero ∨ aT = la17Zero then (la17Zero, 0)
  else if u < -65535 then (la17Zero, 1) else if u > 65535 then (65535, 2) else (u, 0)

/-- R84 expand. -/
def expand (aR aC aT : Int) : Int × Nat := expandU aR aC aT (aR + aC - aT)

/-- R87: the operand of row or column i, ZERO beyond the tensor. -/
def operand (l : List Int) (i : Nat) : Int := l.getD i la17Zero

/-- The operands of a tile: a_T, its 32 row operands, its 32 column operands. -/
structure TileIn where
  t : Int
  r : List Int
  y : List Int
deriving DecidableEq, Repr

/-- Tile (rb, cb) of a tensor of R rows and C columns, loaded from log bank i of slice n. -/
def State.tileIn (s : State) (n i R C rb cb : Nat) : TileIn :=
  { t := s.bankT n i, r := (List.range 32).map (fun k => s.bankR n i C R (32 * rb + k)), y := (List.range 32).map (fun k => s.bankC n i C (32 * cb + k)) }

/-- What upsets add at place c of array a. -/
def upset (e : List (Nat × Nat × Int)) (a c : Nat) : Int := sumI ((e.filter (fun x => x.1 == a && x.2.1 == c)).map (·.2.2))

/-- The 1,024 raw sums u of a tile on array a, row-major. -/
def TileIn.raw (x : TileIn) (e : List (Nat × Nat × Int)) (a : Nat) : List Int :=
  ((List.range 32).map (fun i => (List.range 32).map (fun j => x.r.getD i 0 + x.y.getD j 0 - x.t + upset e a (32 * i + j)))).flatten

/-- The latched results of a tile, each with its range mark. -/
def TileIn.results (x : TileIn) (raw : List Int) : List (Int × Nat) :=
  (List.range 1024).map (fun c => expandU (x.r.getD (c / 32) 0) (x.y.getD (c % 32) 0) x.t (raw.getD c 0))

/-! ### The residue checks (R93) -/

/-- The sum of row i of 1,024 cells. -/
def rowSum (v : List Int) (i : Nat) : Int := sumI ((v.drop (32 * i)).take 32)

/-- The sum of column j of 1,024 cells. -/
def colSum (v : List Int) (j : Nat) : Int := sumI ((List.range 32).map (fun i => v.getD (32 * i + j) 0))

/-- R93: the cell at which 1,024 values miss the check row and the check column mod 3; none where every check passes. Where checks of
one kind alone fail, the cell named is in row 0 or column 0 (DESIGN CHOICE, log entry 119). -/
def faultyCell (v chkRow chkCol : List Int) : Option Nat :=
  let rows := (List.range 32).filter (fun i => (rowSum v i - chkCol.getD i 0) % 3 ≠ 0)
  let cols := (List.range 32).filter (fun j => (colSum v j - chkRow.getD j 0) % 3 ≠ 0)
  if rows.isEmpty && cols.isEmpty then none else some (32 * rows.headD 0 + cols.headD 0)

/-- R93, log mode: the check row of a tile. -/
def TileIn.chkRow (x : TileIn) : List Int := (List.range 32).map (fun j => (sumI x.r + 32 * x.y.getD j 0 - 32 * x.t) % 3)

/-- R93, log mode: the check column of a tile. -/
def TileIn.chkCol (x : TileIn) : List Int := (List.range 32).map (fun i => (32 * x.r.getD i 0 + sumI x.y - 32 * x.t) % 3)

/-- What upsets make of 32 check residues of array a. -/
def upsetResidues (e : List (Nat × Nat × Int)) (a : Nat) (v : List Int) : List Int := (List.range 32).map (fun i => (v.getD i 0 + upset e a i) % 3)

/-- R94: an array leaves service; with both gone the unit fails. -/
def State.arrayOut (s : State) (n a cell : Nat) : State :=
  let s := s.wr 0x2200_05 (setBit (s.rd 0x2200_05) (2 * n + a) false)
  let s := s.evSlice n 0x2203 (be 1 n ++ be 1 a ++ be 2 cell)
  if s.inService n 0 || s.inService n 1 then s
  else (s.evSlice n 0x2204 (be 1 n)).unitFailed 0x2204 n

/-- R94: a first mismatch in a tile or job is counted and reported. `mode` is 0 for log mode and 1 for MAC mode (DESIGN CHOICE:
Table 4-10 gives the mode no number). -/
def State.arrayMiss (s : State) (n a mode cell : Nat) : State :=
  let s := s.inc 0x8220_06
  let t := s.now / 1000000000 + 1
  if s.arrays.limited = t then s
  else (s.modArrays fun x => { x with limited := t }).evSlice n 0x2202 (be 1 n ++ be 1 a ++ be 2 cell ++ be 1 mode)

/-! ### The activity ramp (R92) -/

/-- R92: work arrives at array a of slice n: its columns rise to 32; a stop ramp reverses, which is counted. -/
def State.arrayWork (s : State) (n a : Nat) (mac : Bool) : State :=
  let s := if ((s.arr n).get a).ramp = .stopping then s.inc 0x8220_07 else s
  s.modArr n fun x => x.set a fun y => { y with ramp := .running, cols := 32, mac := mac }

/-- The last real operation of array a has issued, and its hold begins. -/
def State.arrayRest (s : State) (n a : Nat) : State :=
  s.modArr n fun x => x.set a fun y => if y.ramp = .running then { y with ramp := .hold } else y

/-- R84: cells counted in 0x8220.02 and 0x8220.03, kept by tensor for event 0x2201 at the end of the step. -/
def State.countRange (s : State) (tid under cut : Nat) : State :=
  if under + cut = 0 then s else
    let s := (s.incBy 0x8220_02 under).incBy 0x8220_03 cut
    if s.arrays.ranges.any (·.1 == tid) then
      s.modArrays fun x => { x with ranges := mapWhere (fun r : Nat × Nat × Nat => r.1 == tid) (fun r => (r.1, r.2.1 + under, r.2.2 + cut)) x.ranges }
    else s.modArrays fun x => { x with ranges := x.ranges ++ [(tid, under, cut)] }

/-- One tile on array a of slice n, with its check: once more after a mismatch, and after a second one on the other array (R93,
R94). none where no array is left. `e1` and `e2` are the upsets of the first and of the repeated computation. -/
def State.runTile (s : State) (n a : Nat) (x : TileIn) (e1 e2 : Upsets) : Option (List (Int × Nat)) × State :=
  let latch (s : State) (p : Nat) (vs : List (Int × Nat)) : State :=
    s.modArr n fun y => y.set p fun z => { z with lat := vs.map (·.1), chkRow := x.chkRow, chkCol := x.chkCol }
  let p := s.physical n a
  let s := s.arrayWork n p false
  let u1 := x.raw e1.cells p
  match faultyCell u1 (upsetResidues e1.row p x.chkRow) (upsetResidues e1.col p x.chkCol) with
  | none => (some (x.results u1), latch s p (x.results u1))
  | some c =>
    let s := s.arrayMiss n p 0 c
    let u2 := x.raw e2.cells p
    match faultyCell u2 (upsetResidues e2.row p x.chkRow) (upsetResidues e2.col p x.chkCol) with
    | none => (some (x.results u2), latch s p (x.results u2))
    | some c2 =>
      let s := s.arrayOut n p c2
      if ¬ s.inService n (1 - p) then (none, s)
      else
        let s := s.arrayWork n (1 - p) false
        let vs := x.results (x.raw [] (1 - p))
        (some vs, latch s (1 - p) vs)

/-! ### MAC jobs (R89 to R91, R93, R94) -/

/-- The length L of a MAC job word (Table 4-3). -/
def macLen (w : Nat) : Nat := bits w 0 17

/-- Array use of a MAC job word. -/
def macUse (w : Nat) : Nat := bits w 17 2

/-- The tag of a MAC job word. -/
def macTag (w : Nat) : Nat := bits w 32 32

/-- A MAC job uses array a (Table 4-3). -/
def macUses (w a : Nat) : Bool := macUse w == 2 || macUse w == a

/-- R90: the job word is refused. -/
def macRefused (w : Nat) : Bool := macLen w == 0 || macUse w == 3 || bits w 19 13 != 0 || bits w 64 64 != 0 || decide (w ≥ 2 ^ 128)

/-- R89: a vector of 32 int16 elements. -/
def vec16 (v : List Int) : List Int := (List.range 32).map (fun k => sgn 16 (pat 16 (v.getD k 0)))

/-- R89: a vector as it stands in a ring, each element least significant byte first. -/
def vecBytes (v : List Int) : Bytes := ((vec16 v).map (fun e => le 2 (pat 16 e))).flatten

/-- The x vectors that a job gives array a. -/
def MacJob.x (j : MacJob) (a : Nat) : List (List Int) := if a = 0 then j.x0 else j.x1

/-- The updates for which the engine has given every vector, at most L. -/
def MacJob.ready (j : MacJob) : Nat :=
  min (macLen j.word) (min j.y.length (min (if macUses j.word 0 then j.x0.length else j.y.length) (if macUses j.word 1 then j.x1.length else j.y.length)))

/-- More vectors of a job from the engine. -/
def MacJob.more (j : MacJob) (v : MacVecs) : MacJob := { j with x0 := j.x0 ++ v.x0, x1 := j.x1 ++ v.x1, y := j.y ++ v.y }

/-- R89: the accumulators after L updates, row-major, and what an upset adds. -/
def macAcc (L : Nat) (x y : List (List Int)) : List Int :=
  ((List.range 32).map (fun i => (List.range 32).map (fun j =>
    sumI ((List.range L).map (fun n => (vec16 (x.getD n [])).getD i 0 * (vec16 (y.getD n [])).getD j 0))))).flatten

/-- R93, MAC mode: the check row after L updates. -/
def macChkRow (L : Nat) (x y : List (List Int)) : List Int :=
  (List.range 32).map (fun j => sumI ((List.range L).map (fun n => sumI (vec16 (x.getD n [])) % 3 * (vec16 (y.getD n [])).getD j 0 % 3)) % 3)

/-- R93, MAC mode: the check column after L updates. -/
def macChkCol (L : Nat) (x y : List (List Int)) : List Int :=
  (List.range 32).map (fun i => sumI ((List.range L).map (fun n => (vec16 (x.getD n [])).getD i 0 * (sumI (vec16 (y.getD n [])) % 3) % 3)) % 3)

/-- The engine's vector k of a job goes into the rings that the job uses, at vector k mod 768 (R90, Table 4-1). -/
def State.fillRings (s : State) (n k : Nat) (j : MacJob) : State :=
  let put (s : State) (r : Nat) (v : List Int) : State := s.sramWrite 2 n (ringOff r + 64 * (k % 768)) (vecBytes v)
  let s := if macUses j.word 0 then put s 0 (j.x0.getD k []) else s
  let s := if macUses j.word 1 then put s 1 (j.x1.getD k []) else s
  put s 2 (j.y.getD k [])

/-- The accumulators and checks of array a of a job after L updates stand in the array that does its work. -/
def State.macHold (s : State) (n a L : Nat) (j : MacJob) : State :=
  s.modArr n fun x => x.set (s.physical n a) fun y => { y with acc := macAcc L (j.x a) j.y, chkRow := macChkRow L (j.x a) j.y, chkCol := macChkCol L (j.x a) j.y }

/-- R89, R90: the job in hand makes every update whose vectors are there; then, short of vectors, the arrays wait and hold. -/
def State.macUpdates (s : State) (n : Nat) (j : MacJob) : State :=
  let r := j.ready
  let u := (s.arr n).upd
  let start := ¬ (s.arr n).started
  let s := s.modArr n fun x => { x with started := true, upd := r }
  let s := (List.range (r - u)).foldl (fun s k => s.fillRings n (u + k) j) s
  if r ≤ u ∧ ¬ start then s
  else
    (([0, 1].filter (fun a => macUses j.word a))).foldl (fun s a =>
      let s := s.arrayWork n (s.physical n a) true
      ((s.macHold n a r j).incBy 0x8220_04 (r - u)).arrayRest n (s.physical n a)) s

/-- R89, R93, R94: the readout of array a of a job: the sums are checked, the job is run again after a mismatch, and after a second
one on the other array; the sums reach the readout area. -/
def State.macReadArray (s : State) (n : Nat) (j : MacJob) (e1 e2 : Upsets) (a : Nat) : State :=
  let L := macLen j.word
  let put (s : State) (v : List Int) : State := s.sramWrite 2 n (readOff a) (wordsBytes 8 (v.map (pat 64)))
  let sums (e : List (Nat × Nat × Int)) : List Int := (List.range 1024).map (fun c => (macAcc L (j.x a) j.y).getD c 0 + upset e a c)
  let r := macChkRow L (j.x a) j.y
  let c := macChkCol L (j.x a) j.y
  match faultyCell (sums e1.cells) (upsetResidues e1.row a r) (upsetResidues e1.col a c) with
  | none => put s (sums e1.cells)
  | some cell =>
    let s := (s.arrayMiss n (s.physical n a) 1 cell).incBy 0x8220_04 L
    match faultyCell (sums e2.cells) (upsetResidues e2.row a r) (upsetResidues e2.col a c) with
    | none => put s (sums e2.cells)
    | some cell2 =>
      let s := s.arrayOut n (s.physical n a) cell2
      if ¬ s.inService n 0 ∧ ¬ s.inService n 1 then s
      else put ((s.macHold n a L j).incBy 0x8220_04 L) (sums [])

/-- R89, R90: the job in hand is read out; the engine is told of its completion, with its tag. -/
def State.macReadout (s : State) (n : Nat) (j : MacJob) (e1 e2 : Upsets) : State :=
  let s := ([0, 1].filter (fun a => macUses j.word a)).foldl (fun s a => s.macReadArray n j e1 e2 a) s
  let s := s.modArr n fun x => { x with jobs := x.jobs.drop 1, started := false, upd := 0, paused := false }
  (s.modArrays fun x => { x with told := x.told ++ [(n, macTag j.word, false)] }).inc 0x8220_09

/-- R90: a refused job word: event 0x2206, and the engine is told. The word goes most significant byte first (log 12). -/
def State.macRefuse (s : State) (n w : Nat) : State :=
  (s.evSlice n 0x2206 (be 16 w)).modArrays fun x => { x with told := x.told ++ [(n, macTag w, true)] }

end Sys2Proof.Machine
end

