-- ==== Sys2Proof/Machine/Declared.lean ====
section
/-!
DEFINITION. What the dictionary declares to reduction and routing: stream entries, declared scopes, layer entries and
routing groups, their regions, and their checks (09_exact_gradient_reduction.md, 10_expert_routing_support.md).
-/

namespace Sys2Proof.Machine

/-! ### Streams (R196, R197) -/

/-- Table 9-1: a stream entry. -/
structure RStream where
  num : Nat
  /-- 0 unused; 1 all-reduce; 2 reduce-scatter. -/
  kind : Nat
  /-- 0 switch; 1 member. -/
  mode : Nat
  sparse : Bool
  two : Bool
  wfmt : Nat
  hfmt : Nat
  u : Nat
  policy : Nat
  t0 : Int
  ng : Nat
  intake : Nat
  staging : Nat
  result : Nat
  agg : Nat
  res : Nat
  agg2 : Nat
  res2 : Nat
deriving DecidableEq, Repr

/-- The first 64 bytes of an entry of an OCTETS table as a number. -/
def State.entryWord (s : State) (k len i : Nat) : Nat := s.ofld k (len * i) 64

/-- R196: entry n of 0x4001.01. Address fields hold their bytes in network order. DESIGN CHOICE: Table 9-1 resets u to 2 and Table 9-7
the whole object to zeros; the object resets to zeros (assumption log). -/
def State.streamAt (s : State) (n : Nat) : RStream :=
  let w := s.entryWord 0x4001_01 128 n
  let addr (off : Nat) : Nat := beNat (s.octs 0x4001_01 (128 * n + off) 16)
  { num := n, kind := bits w 0 2, mode := bits w 2 2, sparse := bit w 4, two := bit w 5, wfmt := bits w 8 4, hfmt := bits w 12 4,
    u := bits w 16 3, policy := bits w 19 2, t0 := sfield w 32 16, ng := bits w 64 32, intake := bits w 128 64
    staging := bits w 192 64, result := bits w 256 64, agg := addr 48, res := addr 64, agg2 := addr 80, res2 := addr 96 }

/-- The streams in use. -/
def State.streamsUsed (s : State) : List RStream := ((List.range 64).map s.streamAt).filter (·.kind ≠ 0)

/-- The width of a reduction word in bytes: 8 for G64, 4 for G32 and U32. -/
def gWidth (fmt : Nat) : Nat := if fmt = 2 then 8 else 4

/-- R201: the intake bound B. -/
def RStream.bound (t : RStream) : Int := (if t.wfmt = 2 then 63 else 31) - (ceilLog2 t.ng : Int)

/-- The chunks of a tensor (R196). -/
def Desc.chunks (d : Desc) : Nat := ceilDiv d.count 512

/-- R196: the tensors of stream n, each with its first chunk in the shard. -/
def tensorsFrom (n : Nat) : Nat → List Desc → List (Desc × Nat)
  | _, [] => []
  | x, d :: ds => if d.form < 4 ∧ d.stream = n then (d, x) :: tensorsFrom n (x + d.chunks) ds else tensorsFrom n x ds

/-- R196: the tensors of a stream under a mould. -/
def Mould.tensors (m : Mould) (n : Nat) : List (Desc × Nat) := tensorsFrom n 0 m.descs

/-- The tensors of stream n under the loaded mould. -/
def State.tensors (s : State) (n : Nat) : List (Desc × Nat) :=
  match s.pass.mould with
  | some m => m.tensors n
  | none => []

/-- R196: the shard chunk count under a mould. -/
def Mould.shardChunks (m : Mould) (n : Nat) : Nat := sumN ((m.tensors n).map (fun x => x.1.chunks))

/-- R196: the shard chunk count C_s. -/
def State.shardChunks (s : State) (n : Nat) : Nat := sumN ((s.tensors n).map (fun x => x.1.chunks))

/-- R197: the segments of a stream. -/
def State.segments (s : State) (t : RStream) : Nat := if t.kind = 2 then s.rd 0x3200_0B else 1

/-- R197: D, the chunks of a stream. -/
def State.chunkCount (s : State) (t : RStream) : Nat := s.segments t * s.shardChunks t.num

/-- The tensor of chunk x of a stream, with the chunk's place in the tensor. -/
def State.tensorAt (s : State) (t : RStream) (x : Nat) : Option (Desc × Nat) :=
  let y := x % max 1 (s.shardChunks t.num)
  ((s.tensors t.num).find? (fun p => p.2 ≤ y && y < p.2 + p.1.chunks)).map (fun p => (p.1, y - p.2))

/-- R203: the bytes of a staging bank of D chunks. -/
def RStream.bankBytes (t : RStream) (d : Nat) : Nat := wholeLines (d * 512 * gWidth t.wfmt + 16 * d)

/-- R198, R203, R204: the regions of a stream of D chunks in all and C_s a shard. -/
def RStream.regions (t : RStream) (g d cs : Nat) : List Region :=
  [⟨t.intake, wholeLines (256 + d * 512 * fmtBytes t.hfmt), .intake, t.num⟩,
   ⟨t.staging, (g + 1) * t.bankBytes d, .staging, t.num⟩,
   ⟨t.result, wholeLines (2 * cs * 512 * gWidth t.wfmt), .result, t.num⟩]

/-- The regions of the streams in use under a mould. -/
def State.streamRegions (s : State) (m : Mould) : List Region :=
  (s.streamsUsed.map (fun t =>
    let cs := m.shardChunks t.num
    t.regions s.deckle (s.segments t * cs) cs)).flatten

/-! ### Scopes (0x4003.01, R208, R220; R225) -/

/-- Who contributes to a stream: the generation, E, the own index, for two levels E2, group and leader, and the device ids. -/
structure RScope where
  domain : Bool
  gen : Nat
  e : Nat
  idx : Nat
  e2 : Nat
  group : Nat
  leader : Nat
  devs : List Nat
deriving DecidableEq, Repr

/-- The place of the own device in a list. -/
def State.placeIn (s : State) (l : List Nat) : Nat := (l.findIdx? (· == s.own)).getD l.length

/-- The coding domain as a scope. -/
def State.domainScope (s : State) : RScope :=
  ⟨true, s.halter, s.member.members.length, s.placeIn s.member.members, 0, 0, 0xFFFF, s.member.members⟩

/-- The scope of reduction stream n: the entry of 0x4003.01 in effect; E1 = 0 names the coding domain, whose second stage is the
entry's own (R211). The entry lists no device ids, so frames to the contributors of a declared scope go to the members. -/
def State.streamScope (s : State) (n : Nat) : RScope :=
  let b := s.red.scope
  let o := 16 * n
  if fldLe b o 2 = 0 then { s.domainScope with e2 := fldLe b (o + 4) 2, group := fldLe b (o + 6) 2, leader := fldLe b (o + 8) 2 }
  else ⟨false, fldLe b (o + 12) 4, fldLe b o 2, fldLe b (o + 2) 2, fldLe b (o + 4) 2, fldLe b (o + 6) 2, fldLe b (o + 8) 2, s.member.members⟩

/-- R225: the entry of routing group g in effect. -/
def State.groupEntry (s : State) (g : Nat) : Bytes := slice s.route.groups (144 * g) 144

/-- R225: the scope that a group entry names. -/
def State.scopeOf (s : State) (b : Bytes) : RScope :=
  let e := fldLe b 0 1
  if e = 0 then s.domainScope
  else ⟨false, fldLe b 4 4, e, fldLe b 1 1, 0, 0, 0xFFFF, (List.range e).map (fun i => fldLe b (16 + 2 * i) 2)⟩

/-- R225: routing group g in effect. -/
def State.groupScope (s : State) (g : Nat) : RScope := s.scopeOf (s.groupEntry g)

/-! ### Layers (R224 to R227) -/

/-- Table 10-1: a routing layer entry. -/
structure RLayer where
  num : Nat
  used : Bool
  /-- 0 inverse permutation; 1 arrival. -/
  mode : Nat
  zmax : Nat
  sfmt : Nat
  ofmt : Nat
  cfmt : Nat
  kr : Nat
  group : Nat
  ne : Nat
  cap : Nat
  dh : Nat
  tc : Int
  slot : Nat
  touch : Bool
  nd : Nat
  d0 : Nat
  nt : Nat
  scores : Nat
  disp : Nat
  comb : Nat
  acc : Nat
  outOff : Nat
  winOff : Nat
  tabOff : Nat
  agg : Nat
  res : Nat
deriving DecidableEq, Repr

/-- R224: entry L of 0x4101.01. -/
def State.layerAt (s : State) (l : Nat) : RLayer :=
  let w := s.entryWord 0x4101_01 128 l
  let addr (off : Nat) : Nat := beNat (s.octs 0x4101_01 (128 * l + off) 16)
  { num := l, used := bit w 0, mode := bits w 1 1, zmax := bits w 2 2, sfmt := bits w 4 4, ofmt := bits w 8 4, cfmt := bits w 12 4
    kr := bits w 16 3 + 1, group := bits w 19 3, ne := bits w 32 16, cap := bits w 48 16, dh := bits w 64 16, tc := sfield w 80 8
    slot := bits w 88 3, touch := bit w 91, nd := bits w 92 4, d0 := bits w 96 16, nt := bits w 112 16, scores := bits w 128 64
    disp := bits w 192 64, comb := bits w 256 64, acc := bits w 320 64, outOff := bits w 384 40, winOff := bits w 424 40
    tabOff := bits w 464 40, agg := addr 64, res := addr 80 }

/-- The layers in use. -/
def State.layersUsed (s : State) : List RLayer := ((List.range 64).map s.layerAt).filter (·.used)

/-- R227: the physical areas of a layer. -/
def RLayer.regions (y : RLayer) : List Region :=
  [⟨y.scores, wholeLines (256 + 2 * y.nt * y.ne * fmtBytes y.sfmt), .scores, y.num⟩,
   ⟨y.disp, wholeLines (2 * y.nt * y.kr * 16), .routeOut, y.num⟩,
   ⟨y.comb, wholeLines (2 * y.nt * y.dh * fmtBytes y.cfmt), .combine, y.num⟩,
   ⟨y.acc, wholeLines (2 * y.nt * y.dh * 8), .routeOut, y.num⟩]

/-- The areas of every layer in use. -/
def State.layerRegions (s : State) : List Region := (s.layersUsed.map RLayer.regions).flatten

/-- R226: the home index of expert e among E_r members. -/
def RLayer.home (y : RLayer) (er e : Nat) : Nat := e * er / max 1 y.ne

/-- R226: the local index of expert e at its home. -/
def RLayer.localIdx (y : RLayer) (er e : Nat) : Nat :=
  e - ((List.range y.ne).find? (fun x => y.home er x == y.home er e)).getD e

/-- R227: X, the largest number of local experts at any home. -/
def RLayer.locals (y : RLayer) (er : Nat) : Nat := ceilDiv y.ne (max 1 er)

/-! ### Areas that no declared region may overlap -/

/-- The areas that coding, the stables and the yard declare: felt, reserve, spare, HBM stable, near backing, fence line. -/
def State.fixedAreas (s : State) : List (Nat × Nat) :=
  [(s.rd 0x3002_01, s.rd 0x3002_02), (s.rd 0x3201_01, s.rd 0x3201_02), (s.rd 0x3201_03, s.rd 0x3201_04), s.stableRegion,
   (s.rd 0x5000_05, s.rd 0x5000_06), (s.rd 0x5000_18, if s.rd 0x5000_18 = 0 then 0 else 256)]

/-- A region is clear of a list of areas. -/
def Region.clear (r : Region) (l : List (Nat × Nat)) : Bool := l.all (fun a => !(overlap r.base r.size a.1 a.2))

/-! ### The stream check (R196, Table 9-9) -/

/-- Bits [lo, lo + n) of the whole entry are zero. -/
def State.entryZero (s : State) (k i lo n : Nat) : Bool := bits (s.ofld k (128 * i) 128) lo n == 0

/-- Table 9-9: the lowest reason against a stream under a mould. -/
def State.streamRefusal (s : State) (m : Mould) (t : RStream) : Option Nat :=
  let z (lo n : Nat) : Bool := s.entryZero 0x4001_01 t.num lo n
  let cs := m.shardChunks t.num
  let rs := t.regions s.deckle (s.segments t * cs) cs
  let others := s.fixedAreas ++ (m.regions ++ (s.streamRegions m).filter (·.item ≠ t.num) ++ s.layerRegions).map (fun r => (r.base, r.size))
  let pairs := (rs.map (fun r => (rs.filter (· ≠ r)).any (fun q => overlap r.base r.size q.base q.size)))
  let sc := s.octs 0x4003_01 (16 * t.num) 16
  if t.kind = 3 ∨ t.mode ≥ 2 ∨ ¬ z 6 2 ∨ ¬ (t.wfmt = 2 ∨ t.wfmt = 3) ∨ t.hfmt < 8 ∨ t.hfmt > 0xB ∨ t.policy = 3 ∨ ¬ z 21 11 ∨
      t.t0 < -135 ∨ t.t0 > 211 ∨ ¬ z 48 16 ∨ ¬ z 96 32 ∨ t.ng = 0 ∨ t.ng > 2 ^ 30 ∨ ¬ z 320 64 ∨ ¬ z 896 128 then some 1
  else if t.bound < 8 then some 2
  else if rs.any (fun r => r.base % 256 ≠ 0 ∨ ¬ s.placed r.base r.size ∨ ¬ r.clear others) ∨ pairs.any id then some 3
  else if m.descs.any (fun d => d.form < 4 ∧ d.stream = t.num ∧ d.gfmt ≠ t.wfmt) then some 4
  else if t.two ∧ fldLe sc 4 2 = 0 ∨ fldLe sc 0 2 ≠ 0 ∧ fldLe sc 2 2 ≥ fldLe sc 0 2 ∨ t.two ∧ fldLe sc 6 2 ≥ fldLe sc 4 2 then some 5
  else none

/-- R196: the first refused stream, with its reason. A descriptor that names an unused stream is reason 4 of that stream. -/
def State.streamsRefusal (s : State) (m : Mould) : Option (Nat × Nat) :=
  match s.streamsUsed.findSome? (fun t => (s.streamRefusal m t).map (fun r => (t.num, r))) with
  | some x => some x
  | none => (m.descs.find? (fun d => d.form < 4 ∧ (d.stream ≥ 64 ∨ (s.streamAt d.stream).kind = 0))).map (fun d => (d.stream, 4))

/-! ### The layer check (R224, Table 10-5) -/

/-- Descriptor n is in use and sparse, and a LIST operation on the slot reaches it (R238). -/
def touchable (m : Mould) (slot n : Nat) : Bool :=
  m.descs.any (fun d => d.num == n && d.sparse) && m.ops.any (fun o => o.code == 3 && o.a == slot)

/-- R227: the areas of a layer in the yard, by offset: expert outputs, slot table, and in mode 1 the return window. The size of the
coding domain is that of the member list, or the job's shard count where there is no list yet. -/
def State.layerYard (s : State) (y : RLayer) : List (Nat × Nat) :=
  let e := s.ofld 0x4102_01 (144 * y.group) 1
  let er := if e ≠ 0 then e else if s.member.members.isEmpty then s.rd 0x3200_0B else s.member.members.length
  [(y.outOff, 2 * y.locals er * y.cap * y.dh * fmtBytes y.ofmt), (y.tabOff, 2 * y.locals er * y.cap * 8)] ++
    (if y.mode = 1 then [(y.winOff, 2 * (y.nt * y.kr * y.dh * fmtBytes y.ofmt))] else [])

/-- A yard area of a layer overlaps another of its own or of another layer's, or leaves a member's 2^40 offsets (R227, R258). -/
def State.yardClash (s : State) (y : RLayer) : Bool :=
  let mine := s.layerYard y
  let others := ((s.layersUsed.filter (·.num ≠ y.num)).map s.layerYard).flatten
  mine.any (fun a => decide (a.1 + a.2 > 2 ^ 40) || (others ++ mine.filter (· ≠ a)).any (fun b => overlap a.1 a.2 b.1 b.2)) ||
    decide (mine.eraseDups.length < mine.length)

/-- Table 10-5: the lowest reason against a layer under a mould. -/
def State.layerRefusal (s : State) (m : Mould) (y : RLayer) : Option Nat :=
  let z (lo n : Nat) : Bool := s.entryZero 0x4101_01 y.num lo n
  let fmt (f : Nat) : Bool := decide (8 ≤ f) && decide (f ≤ 0xB)
  let others := s.fixedAreas ++ (m.regions ++ s.streamRegions m ++ s.layerRegions.filter (·.item ≠ y.num)).map (fun r => (r.base, r.size))
  let rs := y.regions
  let pairs := (rs.map (fun r => (rs.filter (· ≠ r)).any (fun q => overlap r.base r.size q.base q.size)))
  let e := s.ofld 0x4102_01 (144 * y.group) 1
  let p := s.ofld 0x4102_01 (144 * y.group + 1) 1
  if ¬ z 22 10 ∨ ¬ fmt y.sfmt ∨ ¬ fmt y.ofmt ∨ ¬ fmt y.cfmt ∨ ¬ z 504 8 ∨ ¬ z 768 256 then some 1
  else if y.ne < 2 ∨ y.ne > 1024 ∨ y.cap = 0 ∨ y.dh = 0 ∨ y.tc < -95 ∨ y.tc > 96 ∨ y.nt = 0 ∨ (y.touch ∧ y.nd = 0) then some 2
  else if rs.any (fun r => r.base % 256 ≠ 0 ∨ ¬ s.placed r.base r.size ∨ ¬ r.clear others) ∨ pairs.any id ∨ s.yardClash y then some 3
  else if y.touch ∧ (y.d0 + y.nd * y.ne > 4096 ∨ (List.range (y.nd * y.ne)).any (fun i => ¬ touchable m y.slot (y.d0 + i))) then some 4
  else if e > 64 ∨ (e ≠ 0 ∧ p ≥ e) then some 5
  else none

/-- R224: the first refused layer, with its reason. -/
def State.layersRefusal (s : State) (m : Mould) : Option (Nat × Nat) :=
  s.layersUsed.findSome? (fun y => (s.layerRefusal m y).map (fun r => (y.num, r)))

end Sys2Proof.Machine
end

