-- ==== Sys2Proof/Machine/RedOps.lean ====
section
/-!
DEFINITION. The shared operations of exact gradient reduction: staging, contributions, homes, results, taints, peaks and
exponents (09_exact_gradient_reduction.md).

A frame that this unit sends to itself waits in the loop of the reduction record and is taken by `redLoop`.
-/

namespace Sys2Proof.Machine

/-- The reduction record changed by f. -/
def State.modRed (s : State) (f : Red → Red) : State := { s with red := f s.red }

/-! ### What a key names -/

/-- The layer that a routing stream number names. -/
def CKey.layer (k : CKey) : Nat := k.stream - 0x100

/-- The reduction function takes part: ON or DRAINING. -/
def State.redOn (s : State) : Bool := s.fn .reduction == 2 || s.fn .reduction == 3

/-- The routing function takes part: ON or DRAINING. -/
def State.routeOn (s : State) : Bool := s.fn .routing == 2 || s.fn .routing == 3

/-- The key names a stream in use, or a layer in use of the routing function. -/
def State.keyKnown (s : State) (k : CKey) : Bool :=
  if k.stream < 64 then s.redOn && (s.streamAt k.stream).kind != 0
  else k.counts && decide (0x100 ≤ k.stream) && decide (k.stream < 0x140) && s.routeOn && (s.layerAt k.layer).used

/-- The key is one of a call's rounds (R231). -/
def CKey.ofCall (k : CKey) (c : Call) : Bool :=
  k.stream == 0x100 + c.layer && k.step == c.step && k.chunk / 4096 == c.num % 2 ^ 20

/-- The scope of a call: it runs under the group entry it began with (Table 10-6). -/
def State.callScope (s : State) (c : Call) : RScope := s.scopeOf c.group

/-- The scope of a key (R208, R231). -/
def State.keyScope (s : State) (k : CKey) : RScope :=
  if k.stream < 64 then s.streamScope k.stream
  else match s.route.calls.find? k.ofCall with
    | some c => s.callScope c
    | none => s.groupScope (s.layerAt k.layer).group

/-- The wire format of a key. -/
def State.keyFmt (s : State) (k : CKey) : Nat := if k.counts then 0xC else (s.streamAt k.stream).wfmt

/-- The segment of a chunk (R197); the counts of a phase are addressed to 0xFFFF (R216, R231). -/
def State.keySeg (s : State) (k : CKey) : Nat :=
  if k.counts then 0xFFFF
  else if (s.streamAt k.stream).kind = 2 then k.chunk / max 1 (s.shardChunks k.stream) else 0

/-- Every contributor receives: counts and all-reduce streams. -/
def State.keyAll (s : State) (k : CKey) : Bool := k.counts || (s.streamAt k.stream).kind != 2

/-- The holders of a segment: its shard's member, or the stand-ins of a lost one (R197, R212). -/
def State.segHolders (s : State) (seg : Nat) : List Nat := ((s.member.shards.getD seg (0, 0, [])).2.2)

/-- The shard of a segment is lost (R212). -/
def State.segLost (s : State) (seg : Nat) : Bool :=
  match s.member.shards[seg]? with
  | some x => !(s.member.members.contains x.2.1)
  | none => false

/-- The receivers of a chunk (R197, R211, R212). -/
def State.receivers (s : State) (k : CKey) : List Nat :=
  let c := s.keyScope k
  if (s.streamAt k.stream).two && !k.counts && !k.stage2 && decide (k.stream < 64) then [c.leader]
  else if s.keyAll k then c.devs else s.segHolders (s.keySeg k)

/-- This unit receives the chunk. -/
def State.receives (s : State) (k : CKey) : Bool :=
  if (s.streamAt k.stream).two && !k.counts && !k.stage2 && decide (k.stream < 64) then (s.keyScope k).leader == s.own
  else s.keyAll k || (s.segHolders (s.keySeg k)).contains s.own

/-- The segments of which this unit is a receiver. -/
def State.ownSegs (s : State) (t : RStream) : List Nat :=
  if t.kind = 2 then (List.range (s.segments t)).filter (fun j => (s.segHolders j).contains s.own) else [0]

/-- The segment of this unit's own shard. -/
def State.ownSeg (s : State) (t : RStream) (seg : Nat) : Bool :=
  t.kind != 2 || (match s.member.shards[seg]? with | some x => x.2.1 == s.own | none => false)

/-- The record of a stream at a step. -/
def State.rstep (s : State) (n st : Nat) : Option RStep := s.red.steps.find? (fun r => r.stream == n && r.step == st)

/-- The record of a stream at a step changed by f. -/
def State.modStep (s : State) (n st : Nat) (f : RStep → RStep) : State :=
  s.modRed fun r => { r with steps := mapWhere (fun x => x.stream == n && x.step == st) f r.steps }

/-- n_x of a chunk of a sparse stream, once the counts are final (R216). -/
def State.nx (s : State) (n st x : Nat) : Option Nat := ((s.rstep n st).bind (·.counts)).map (fun l => l.getD x 0)

/-- The expected E (R208, R211, R216, R231); none while it is not known. -/
def State.expectE (s : State) (k : CKey) : Option Nat :=
  let c := s.keyScope k
  if k.stage2 then some c.e2
  else if ¬ k.counts ∧ (s.streamAt k.stream).sparse then s.nx k.stream k.step k.chunk
  else some c.e

/-- The home of a chunk in member mode: for all-reduce the contributor at index x mod E, of stage 2 a group's leader (R210 to R212).
The entry of 0x4003.01 names the own group's leader alone. -/
def State.homeOf (s : State) (k : CKey) : Nat :=
  let c := s.keyScope k
  let i := k.chunk % max 1 ((s.expectE k).getD c.e)
  if ¬ s.keyAll k then (s.segHolders (s.keySeg k)).headD 0xFFFF
  else if k.stage2 ∧ i = c.group then c.leader
  else c.devs.getD i 0xFFFF

/-- The attempt travels in member mode (R210, R212, R217). -/
def State.memberMode (s : State) (k : CKey) (attempt : Nat) : Bool :=
  (decide (k.stream < 64) && (s.streamAt k.stream).mode == 1) || decide (attempt > s.rd 0x4000_03) ||
  (!(s.keyAll k) && s.segLost (s.keySeg k))

/-! ### Staging (R200, R203) -/

/-- The base of the staging bank of a step. -/
def State.bankBase (s : State) (t : RStream) (st : Nat) : Nat :=
  t.staging + st % (s.deckle + 1) * t.bankBytes (s.chunkCount t)

/-- The staging words of a chunk. -/
def State.stagingWords (s : State) (t : RStream) (st x : Nat) : List Int :=
  let w := gWidth t.wfmt
  (s.mWords (s.bankBase t st + 512 * x * w) w 512).map (sgn (8 * w))

/-- The metadata address of a chunk (R203). -/
def State.metaAddr (s : State) (t : RStream) (st x : Nat) : Nat :=
  s.bankBase t st + s.chunkCount t * 512 * gWidth t.wfmt + 16 * x

/-- The peak of a chunk's metadata: with nothing touched there is none. -/
def State.metaPeak (s : State) (t : RStream) (st x : Nat) : Int :=
  let a := s.metaAddr t st x
  if s.mNat (a + 6) 1 = 0 then -32768 else sgn 16 (s.mNat a 2)

/-- The staging bank of a step is free for it: the step G + 1 before has committed (R203). -/
def State.bankFree (s : State) (st : Nat) : Bool := decide (st ≤ s.committed + s.deckle + 1)

/-- The staging and result banks of a step read zero. -/
def State.zeroBanks (s : State) (st : Nat) : State :=
  s.streamsUsed.foldl (fun s t =>
    let b := s.bankBase t st
    s.mzero b (b + t.bankBytes (s.chunkCount t))) s

/-- The result bank of a step reads zero. -/
def State.zeroResults (s : State) (st : Nat) : State :=
  s.streamsUsed.foldl (fun s t =>
    let n := s.shardChunks t.num * 512 * gWidth t.wfmt
    let b := t.result + st % 2 * n
    s.mzero b (b + n)) s

/-! ### Frames (R206, R207) -/

/-- R207: the residues of a chunk. -/
def residues (vs : List Int) : Nat × Nat :=
  (List.range vs.length).foldl (fun a x =>
    let v := vs.getD x 0
    ((a.1 + (v % (q31 : Int)).toNat) % q31, (a.2 + (((x + 1 : Nat) : Int) * v % (q31 : Int)).toNat) % q31)) (0, 0)

/-- Elements on the wire, most significant byte first. -/
def elemBytes (fmt : Nat) (vs : List Int) : Bytes :=
  let w := gWidth fmt
  (vs.map (fun v => be w (pat (8 * w) v))).flatten

/-- Elements read from the wire. -/
def elemVals (fmt : Nat) (f : Bytes) : List Int :=
  let w := gWidth fmt
  (List.range 512).map (fun i =>
    let v := fld f (64 + w * i) w
    if fmt = 0xC then (v : Int) else sgn (8 * w) v)

/-- A value lies in its format's range (R209 step 4, R213). -/
def elemOk (fmt : Nat) (v : Int) : Bool :=
  match fmt with
  | 2 => decide (v.natAbs < 2 ^ 63)
  | 3 => decide (v.natAbs < 2 ^ 31)
  | _ => decide (0 ≤ v) && decide (v < 2 ^ 32)

/-- Table 9-3: a reduction frame. -/
def State.redFrame (s : State) (kind flags sender : Nat) (k : CKey) (attempt e c grains : Nat) (peak : Int) (idx sat nonfin ra rb reason : Nat)
    (body : Bytes) : Bytes :=
  be 1 kind ++ be 1 (flags + (if k.counts then 2 else 0) + (if k.stage2 then 4 else 0)) ++ be 2 sender ++ be 4 (s.keyScope k).gen ++
    be 8 s.job ++ be 8 k.step ++ be 2 k.stream ++ be 1 (s.keyFmt k) ++ be 1 attempt ++ be 4 k.chunk ++ be 2 e ++ be 2 c ++ be 4 grains ++
    be 2 (pat 16 peak) ++ be 2 idx ++ be 2 sat ++ be 2 nonfin ++ be 4 ra ++ be 4 rb ++ be 1 reason ++ zeros 7 ++ body

/-- The key that a frame names. -/
def keyOf (f : Bytes) : CKey := ⟨fld f 16 8, fld f 24 2, (fld f 1 1).testBit 1, (fld f 1 1).testBit 2, fld f 28 4⟩

/-- A reduction frame to an address or a device, on the chunk's N-port stream (R205); none while a flush runs (R220). -/
def State.redSend (s : State) (k : CKey) (dst : Nat) (byAddr : Bool) (f : Bytes) : State :=
  if s.flushing then s
  else if ¬ byAddr ∧ dst = s.own then s.modRed fun r => { r with loop := r.loop ++ [f] }
  else s.send { stream := k.chunk % 8, dst := dst, byAddr := byAddr, port := 45306, dscp := s.rd 0x4000_06, prio := s.rd 0x4000_07,
                flow := k.stream, f := f }

/-- A prefix with its low 16 bits set (R208). -/
def withLow (prefix_ low : Nat) : Nat := prefix_ / 65536 * 65536 + low

/-! ### Contributing (R208, R211, R216, R217) -/

/-- The chunk at a receiver. -/
def State.resOf (s : State) (k : CKey) : Option RRes := s.red.res.find? (·.key = k)

/-- The latest contribution for a chunk. -/
def State.sentOf (s : State) (k : CKey) : Option Sent := s.red.sent.find? (·.key = k)

/-- What this unit contributes to a chunk: words, grains, peak, saturations, non-finite count. -/
def State.payload (s : State) (k : CKey) : Option (List Int × Nat × Int × Nat × Nat) :=
  let tally := ((s.rstep k.stream k.step).map (·.tally)).getD 0
  if k.stage2 then
    match s.resOf { k with stage2 := false } with
    | some r => if r.st = 2 then some (r.vals, r.grains, r.peak, r.sat, r.nonfin) else none
    | none => none
  else if k.counts then (s.sentOf k).map (fun x => (x.vals, tally, -32768, 0, 0))
  else
    let t := s.streamAt k.stream
    let a := s.metaAddr t k.step k.chunk
    some (s.stagingWords t k.step k.chunk, tally, s.metaPeak t k.step k.chunk, s.mNat (a + 2) 2, s.mNat (a + 4) 2)

/-- The contribution of an attempt is recorded as the latest. -/
def State.noteSent (s : State) (k : CKey) (attempt : Nat) : State :=
  let vals := ((s.sentOf k).map (·.vals)).getD []
  s.modRed fun r => { r with sent := r.sent.filter (fun x => ¬ (x.key = k)) ++ [⟨k, attempt, s.now, vals⟩] }

/-- R208, R210, R211, R217: sends an attempt of a chunk. -/
def State.contribute (s : State) (k : CKey) (attempt : Nat) : State :=
  match s.payload k, s.expectE k with
  | some (vs, grains, peak, sat, nonfin), some e =>
    if e = 0 then s else
      let c := s.keyScope k
      let t := s.streamAt k.stream
      let y := s.layerAt k.layer
      let (ra, rb) := residues vs
      let member := s.memberMode k attempt
      let f := s.redFrame 0x40 (if member then 8 else 0) s.own k attempt e 1 grains peak (if k.stage2 then c.group else c.idx) sat nonfin ra rb 0
        (elemBytes (s.keyFmt k) vs)
      let prefix_ := if k.stream ≥ 64 then y.agg else if k.stage2 then t.agg2 else t.agg
      let s := s.noteSent k attempt
      let s := if attempt > 0 then s.inc 0x8400_05 else if k.counts then s.inc 0x8400_0D else s.inc 0x8400_01
      if member then s.redSend k (s.homeOf k) false f else s.redSend k (withLow prefix_ (s.keySeg k)) true f
  | _, _ => s

/-- The result by which this unit learns that its contribution to a chunk is resolved: of two levels the stage-2 result, where it
receives that one (R211). -/
def State.answerKey (s : State) (k : CKey) : CKey :=
  let k2 := { k with stage2 := true }
  if (s.streamAt k.stream).two && !k.counts && s.receives k2 then k2 else k

/-- A chunk of a stream that this unit sent, and whose result it receives, is unresolved until that result has passed R213. -/
def State.unresolved (s : State) (n : Nat) : Nat :=
  (s.red.sent.filter (fun x => x.key.stream == n && !x.key.counts && !x.key.stage2 &&
    (let k := s.answerKey x.key
     s.receives k && !(match s.resOf k with | some r => r.st ≥ 1 | none => false)))).length

/-- A write to chunk x that belongs to step st is held: the chunk waits for it (R199, R202). -/
def State.heldIntake (s : State) (t : RStream) (st x n : Nat) : Bool :=
  let w := 512 * fmtBytes t.hfmt
  s.sport.held.any (fun h => h.step == st && h.req.kind == 2 && overlap h.req.addr h.req.size (t.intake + 256 + x * w) (n * w))

/-- The next released chunk of a stream at a step goes, when one is due and the limit of R208 admits it. -/
def State.pumpStep (s : State) (n st : Nat) : Option State :=
  match s.rstep n st with
  | none => none
  | some r =>
    let t := s.streamAt n
    let c := s.streamScope n
    if r.next ≥ min r.released (s.chunkCount t) ∨ c.e = 0 ∨ s.flushing ∨ (c.domain ∧ s.member.members.isEmpty) then none
    else if t.sparse ∧ r.counts.isNone then none
    else if s.unresolved n ≥ s.rd 0x4000_08 ∨ s.heldIntake t st r.next 1 then none
    else
      let x := r.next
      let touched : Bool := !t.sparse || s.mNat (s.metaAddr t st x + 6) 1 != 0
      let s := s.modStep n st fun r => { r with next := x + 1 }
      some (if touched then s.contribute ⟨st, n, false, false, x⟩ 0 else s)

/-- R216: the counts phase of a sparse stream. -/
def State.countsPhase (s : State) (n st : Nat) : State :=
  let t := s.streamAt n
  let d := s.chunkCount t
  let s := s.modStep n st fun r => { r with asked := true }
  let touched := (List.range d).map (fun x => if s.mNat (s.metaAddr t st x + 6) 1 = 0 then (0 : Int) else 1)
  (List.range (ceilDiv d 512)).foldl (fun s i =>
    let k : CKey := ⟨st, n, true, false, i⟩
    let vs := (List.range 512).map (fun j => touched.getD (512 * i + j) 0)
    let s := s.modRed fun r => { r with sent := r.sent.filter (fun x => ¬ (x.key = k)) ++ [⟨k, 0, s.now, vs⟩] }
    s.contribute k 0) s

/-- R216: the counts phase of a sparse stream is sent once M(s) has released the step and no write of it is held. -/
def State.askCounts (s : State) (x : RStep) : State :=
  let t := s.streamAt x.stream
  if t.sparse ∧ ¬ x.asked ∧ x.released > 0 ∧ ¬ s.heldIntake t x.step 0 (s.chunkCount t) then s.countsPhase x.stream x.step else s

/-- Chunks of one stream at one step, at most `fuel`. -/
def State.pumpStepN (n st : Nat) : Nat → State → State
  | 0, s => s
  | fuel + 1, s =>
    match s.pumpStep n st with
    | some s' => State.pumpStepN n st fuel s'
    | none => s

/-- Every released chunk that may go goes, in ascending chunk order (R208), the counts phases first (R216). -/
def State.pumpRed (s : State) : State :=
  let s := s.red.steps.foldl State.askCounts s
  s.red.steps.foldl (fun s r => State.pumpStepN r.stream r.step (s.chunkCount (s.streamAt r.stream) + 1) s) s

/-- The record of a stream at a step, opened where there is none. -/
def State.openStep (s : State) (n st : Nat) : State :=
  if (s.rstep n st).isSome then s else
    s.modRed fun r => { r with steps := r.steps ++ [⟨n, st, 0, 0, 0, none, s.now, false⟩] }

/-! ### Exponents and peaks (R201, R202) -/

/-- Object 0x4002.01 takes t of a descriptor when the step is the open intake step. -/
def State.showExp (s : State) (st d : Nat) (t : Int) : State :=
  if st = s.step + 1 then s.wrOf 0x4002_01 (2 * d) 2 (pat 16 t) else s

/-- An exponent is recorded. -/
def State.setExp (s : State) (st d : Nat) (t : Int) : State :=
  (s.modRed fun r => { r with exps := (st, d, t) :: r.exps.filter (fun x => ¬ (x.1 = st ∧ x.2.1 = d)) }).showExp st d t

/-- R201: t(s) of a tensor; t0 at the first step of a job; none while P(s − 1) is not known. -/
def State.texp (s : State) (t : RStream) (st d : Nat) : Option Int :=
  match s.red.exps.find? (fun x => x.1 == st && x.2.1 == d) with
  | some x => some x.2.2
  | none => if s.red.exps.any (fun x => x.2.1 == d) then none else some t.t0

/-- Object 0x4002.01 takes the exponents known of the open intake step (Table 9-7). -/
def State.showExps (s : State) : State :=
  let st := s.step + 1
  (if s.fn .reduction = 0 then [] else s.streamsUsed).foldl (fun s t => (s.tensors t.num).foldl (fun s p =>
    match s.texp t st p.1.num with
    | some x => s.showExp st p.1.num x
    | none => s) s) s

/-- R201, R202: the reduced peak of a tensor is formed, and with it the next exponent. -/
def State.setPeak (s : State) (t : RStream) (st d : Nat) (p : Int) : State :=
  let s := s.modRed fun r => { r with pks := (st, d, p) :: r.pks.filter (fun x => ¬ (x.1 = st ∧ x.2.1 = d)) }
  let s := s.wrOf 0x4002_02 (2 * d) 2 (pat 16 p)
  if p ≠ -32768 then s.setExp (st + 1) d (t.bound - 1 - (t.u : Int) - p)
  else match s.texp t st d with
    | some x => s.setExp (st + 1) d x
    | none => s

/-! ### Completion of a tensor (R214, R215) -/

/-- A chunk of a stream is final here: its result is, or no one sends it (R216). -/
def State.chunkFinal (s : State) (t : RStream) (st x : Nat) : Bool :=
  (t.sparse && s.nx t.num st x == some 0) ||
  (match s.resOf ⟨st, t.num, false, t.two, x⟩ with
   | some r => r.st == 2 && !r.late
   | none => false)

/-- The chunk numbers of a tensor in a segment. -/
def State.tensorChunks (s : State) (t : RStream) (seg : Nat) (d : Desc) (first : Nat) : List Nat :=
  (List.range d.chunks).map (fun i => seg * s.shardChunks t.num + first + i)

/-- Every chunk of a tensor in a segment is final. -/
def State.tensorFinal (s : State) (t : RStream) (st seg : Nat) (d : Desc) (first : Nat) : Bool :=
  (s.tensorChunks t seg d first).all (s.chunkFinal t st)

/-- The greatest result peak and the non-finite sum of a tensor's final chunks in a segment. -/
def State.tensorSums (s : State) (t : RStream) (st seg : Nat) (d : Desc) (first : Nat) : Int × Nat :=
  let rs := (s.tensorChunks t seg d first).filterMap (fun x => s.resOf ⟨st, t.num, false, t.two, x⟩)
  (rs.foldl (fun p r => max p r.peak) (-32768), min 65535 (sumN (rs.map (·.nonfin))))

/-- The peak notice held of a segment for a tensor. -/
def State.noticeOf (s : State) (t : RStream) (st seg tid : Nat) : Option PeakRec :=
  s.red.peaks.find? (fun p => p.step == st && p.stream == t.num && p.seg == seg && p.tid == tid)

/-- The non-finite sums of a tensor over all segments, once they are known. -/
def State.nonfinOf (s : State) (t : RStream) (st : Nat) (d : Desc) (first : Nat) : Option Nat :=
  if t.kind = 2 then
    let l := (List.range (s.segments t)).map (fun j => s.noticeOf t st j d.tid)
    if l.all (·.isSome) then some (sumN (l.map (fun x => (x.map (·.nonfin)).getD 0))) else none
  else if s.tensorFinal t st 0 d first then some (s.tensorSums t st 0 d first).2 else none

/-- R214: a tensor is complete at this receiver; under policy 2 the sums of every tensor of the stream are known. -/
def State.tensorReady (s : State) (t : RStream) (st : Nat) (d : Desc) (first : Nat) : Bool :=
  (s.ownSegs t).all (fun j => s.tensorFinal t st j d first) &&
  (match t.policy with
   | 0 => true
   | 1 => (s.nonfinOf t st d first).isSome
   | _ => (s.tensors t.num).all (fun p => (s.nonfinOf t st p.1 p.2).isSome))

/-- R215: the policy leaves a complete tensor out. -/
def State.tensorSkipped (s : State) (t : RStream) (st : Nat) (d : Desc) (first : Nat) : Bool :=
  match t.policy with
  | 0 => false
  | 1 => ((s.nonfinOf t st d first).getD 0) != 0
  | _ => (s.tensors t.num).any (fun p => ((s.nonfinOf t st p.1 p.2).getD 0) != 0)

/-- The accumulators of a descriptor: those of an adopted segment stand apart from the own shard's. -/
def State.sqKey (s : State) (t : RStream) (seg d : Nat) : Nat := if s.ownSeg t seg then d else d + 65536 * (seg + 1)

/-- R215: a skip is counted once, and the square sums of a skipped tensor, which are those of the step after the last one done, are
cleared; `squareChunk` adds none for a step whose skip is known. -/
def State.countSkips (s : State) (t : RStream) (st : Nat) : State :=
  (s.tensors t.num).foldl (fun s p =>
    let d := p.1
    if s.tensorReady t st d p.2 ∧ s.tensorSkipped t st d p.2 ∧ ¬ s.red.skips.contains (st, d.num) then
      let s := s.modRed fun r => { r with skips := (st, d.num) :: r.skips }
      let s := if st = s.stepDone + 1 then s.modPass fun q => { q with squares := q.squares.filter (fun x => x.1 % 65536 ≠ d.num) } else s
      if s.red.counted.contains (st, d.num) then s else
      let s := s.modRed fun r => { r with counted := (st, d.num) :: r.counted }
      (s.inc 0x8400_0C).evHub 0x4008 (be 8 st ++ be 2 t.num ++ be 2 d.tid ++ be 4 ((s.nonfinOf t st d p.2).getD 0))
    else s) s

/-- R202: the reduced peak is formed once the notices of every segment are held. -/
def State.formPeak (s : State) (t : RStream) (st : Nat) (d : Desc) : State :=
  let l := (List.range (s.segments t)).map (fun j => s.noticeOf t st j d.tid)
  if l.all (·.isSome) then s.setPeak t st d.num (l.foldl (fun p x => max p ((x.map (·.peak)).getD (-32768))) (-32768)) else s

/-- A peak notice is held, in place of an earlier one. -/
def State.noteNoticePeak (s : State) (p : PeakRec) : State :=
  s.modRed fun r => { r with peaks := r.peaks.filter (fun x => ¬ (x.step = p.step ∧ x.stream = p.stream ∧ x.seg = p.seg ∧ x.tid = p.tid)) ++ [p] }

/-- Table 9-4: a peak notice with one entry. -/
def State.peakFrame (s : State) (k : CKey) (seg tid : Nat) (peak : Int) (nonfin : Nat) : Bytes :=
  be 1 0x43 ++ zeros 1 ++ be 2 s.own ++ be 4 (s.keyScope k).gen ++ be 8 s.job ++ be 8 k.step ++ be 2 k.stream ++ zeros 2 ++ be 4 seg ++
    be 2 1 ++ zeros 6 ++ be 2 tid ++ be 2 (pat 16 peak) ++ be 2 nonfin

/-- R202, R214: a tensor has become complete in a segment: its peak, and the notice of a reduce-scatter receiver or home. -/
def State.tensorComplete (s : State) (t : RStream) (st seg : Nat) (d : Desc) (first : Nat) : State :=
  let (p, nf) := s.tensorSums t st seg d first
  if t.kind ≠ 2 then s.setPeak t st d.num p
  else if (s.segHolders seg).headD 0xFFFF ≠ s.own then s
  else
    let k : CKey := ⟨st, t.num, false, false, seg * s.shardChunks t.num⟩
    let f := s.peakFrame k seg d.tid p nf
    let s := s.noteNoticePeak ⟨st, t.num, seg, d.tid, p, nf⟩
    let s := ((s.keyScope k).devs.filter (· ≠ s.own)).foldl (fun s x => s.redSend k x false f) s
    s.formPeak t st d

/-! ### Square sums (R74) -/

/-- The square sums of a chunk added to, or taken from, the accumulators of its tensor: they belong to the step after the
last one done, and those of a later step follow at D(s). -/
def State.squareChunk (s : State) (k : CKey) (vals : List Int) (take : Bool) : State :=
  let t := s.streamAt k.stream
  if k.step ≠ s.stepDone + 1 then s else
  match s.tensorAt t k.chunk with
  | none => s
  | some (d, c) =>
    if d.form ≠ 2 ∨ s.red.skips.contains (k.step, d.num) then s else
      let key := s.sqKey t (s.keySeg k) d.num
      let old := (s.pass.squares.find? (·.1 == key)).getD (key, List.replicate d.rows 0, List.replicate d.cols 0)
      let upd (l : List Nat) (i v : Nat) : List Nat := setAt l i (if take then l.getD i 0 - v else l.getD i 0 + v)
      let new := (List.range vals.length).foldl (fun (a : List Nat × List Nat) e =>
        let i := 512 * c + e
        if i ≥ d.count then a else
          let v := (vals.getD e 0).natAbs ^ 2
          (upd a.1 (i / d.cols) v, upd a.2 (i % d.cols) v)) old.2
      s.modPass fun p => { p with squares := p.squares.filter (fun x => x.1 ≠ key) ++ [(key, new)] }

/-! ### Results (R204, R213, R214) -/

/-- A record at the receiver replaces the earlier one of its key. -/
def State.putRes (s : State) (r : RRes) : State :=
  s.modRed fun x => { x with res := x.res.filter (fun y => ¬ (y.key = r.key)) ++ [r] }

/-- R204: a result of the own segment enters its bank, which is open for step s after D(s − 1). -/
def State.bankResult (s : State) (r : RRes) : State :=
  let k := r.key
  let t := s.streamAt k.stream
  if k.counts ∨ k.stream ≥ 64 ∨ r.st = 0 ∨ r.banked ∨ k.step > s.stepDone + 1 ∨ ¬ s.ownSeg t (s.keySeg k) ∨ (t.two ∧ ¬ k.stage2) then s
  else
    let cs := s.shardChunks t.num
    let w := gWidth t.wfmt
    let a := t.result + (k.step % 2 * cs + k.chunk % max 1 cs) * 512 * w
    let s := s.mwr a (wordsBytes w (r.vals.map (pat (8 * w))))
    s.putRes { r with banked := true }

/-- Results that wait for their bank enter it once D has come (R204). -/
def State.bankWaiting (s : State) : State := s.red.res.foldl (fun s r => s.bankResult r) s

/-- R219: the result bank still holds the step. -/
def State.bankHolds (s : State) (k : CKey) : Bool :=
  !(s.red.res.any (fun r => r.key.stream == k.stream && r.key.step == k.step + 2 && r.banked))

/-- This member has begun updating the tensor of a chunk (R219). -/
def State.updateBegun (s : State) (k : CKey) : Bool :=
  match s.tensorAt (s.streamAt k.stream) k.chunk with
  | none => decide (k.step ≤ s.stepDone)
  | some (d, _) =>
    decide (k.step ≤ s.stepDone) ||
    (k.step == s.step && (s.pass.live.any (fun w => w.work == .update d.num) || s.pass.done.contains d.num || s.pass.worded.contains d.num))

/-- R238: a chunk of an expert's tensor that no call touched. -/
def State.untouchedChunk (s : State) (k : CKey) : Option Desc :=
  match s.tensorAt (s.streamAt k.stream) k.chunk with
  | none => none
  | some (d, _) =>
    let ys := s.layersUsed.filter (fun y => y.touch && decide (y.d0 ≤ d.num) && decide (d.num < y.d0 + y.nd * y.ne))
    if s.routeOn ∧ ¬ ys.isEmpty ∧ k.step = s.step ∧ ys.all (fun y => ¬ s.pass.lists.any (fun l => l.1 == y.slot && l.2.contains d.num))
    then some d else none

/-- R214: what finality brings to a data chunk: squares, completion of its tensor, the last reduction time. -/
def State.finalData (s : State) (k : CKey) (vals : List Int) : State :=
  let t := s.streamAt k.stream
  let s := s.squareChunk k vals false
  let s := match s.untouchedChunk k with
    | some d => (s.inc 0x8410_0A).evHub 0x4107 (be 8 k.step ++ be 2 d.tid)
    | none => s
  let seg := s.keySeg k
  let s := match s.tensorAt t k.chunk with
    | some (d, c) =>
      let first := k.chunk % max 1 (s.shardChunks t.num) - c
      if s.tensorFinal t k.step seg d first then s.tensorComplete t k.step seg d first else s
    | none => s
  let s := s.countSkips t k.step
  let all := (s.ownSegs t).all (fun j => (s.tensors t.num).all (fun p => s.tensorFinal t k.step j p.1 p.2))
  match s.rstep t.num k.step with
  | some r => if all then s.wr 0x8400_0E (s.now - r.firstAt) else s
  | none => s

/-- R216: a chunk that no one sends is taken as zeros with no peak; its bank takes the zeros too (R204). -/
def State.zeroResult (s : State) (k : CKey) : State :=
  let r : RRes := ⟨k, 7, 2, false, false, false, List.replicate 512 0, 0, -32768, 0, 0⟩
  (s.putRes r).bankResult r

/-- R216: once every counts chunk of a sparse stream is final, the data phase follows. -/
def State.finalCounts (s : State) (k : CKey) : State :=
  if k.stream ≥ 64 then s else
    let t := s.streamAt k.stream
    let d := s.chunkCount t
    let rs := (List.range (ceilDiv d 512)).map (fun i => s.resOf ⟨k.step, k.stream, true, false, i⟩)
    if rs.all (fun r => match r with | some x => x.st == 2 | none => false) then
      let nx := ((rs.map (fun r => match r with | some x => x.vals.map Int.toNat | none => [])).flatten).take d
      let s := s.modStep k.stream k.step fun r => { r with counts := some nx }
      let none_ := ((List.range d).filter (fun x => nx.getD x 0 = 0)).map (fun x => (⟨k.step, k.stream, false, t.two, x⟩ : CKey))
      let s := (none_.filter (s.receives ·)).foldl State.zeroResult s
      (s.tensors t.num).foldl (fun s p => (s.ownSegs t).foldl (fun s j =>
        if s.tensorFinal t k.step j p.1 p.2 then s.tensorComplete t k.step j p.1 p.2 else s) s) s
    else s

/-- R214: a checked chunk becomes final; a stage-1 result goes on to stage 2 (R211). -/
def State.finalize (s : State) (k : CKey) : State :=
  match s.resOf k with
  | none => s
  | some r =>
    if r.st ≠ 1 then s else
      let s := s.putRes { r with st := 2 }
      if k.counts then s.finalCounts k
      else if (s.streamAt k.stream).two ∧ ¬ k.stage2 then
        let k2 := { k with stage2 := true }
        s.contribute k2 (match s.sentOf k2 with | some x => x.attempt + 1 | none => 0)
      else s.finalData k r.vals

/-- R213: an accepted result's grain count. -/
def State.checkGrains (s : State) (k : CKey) (grains : Nat) : State :=
  let t := s.streamAt k.stream
  if k.stream ≥ 64 ∨ (t.sparse ∧ ¬ k.counts) ∨ (t.two ∧ ¬ k.counts ∧ ¬ k.stage2) ∨ grains = t.ng then s
  else
    let s := s.inc 0x8400_08
    let s := s.wr 0x4000_0A 1
    let s := s.wr 0x4000_0B k.step
    s.evHub 0x4006 (be 8 k.step ++ be 2 k.stream ++ be 4 grains ++ be 4 t.ng)

/-! ### Taints (R217 to R219) -/

/-- R217: a contributor whose latest attempt is tainted sends the next one from what it retains. -/
def State.resend (s : State) (k : CKey) (a : Nat) : State :=
  match s.sentOf k with
  | none => s
  | some x =>
    if x.attempt ≠ a ∨ a ≥ 7 then s else
      let first := decide (a = s.rd 0x4000_03) && !(decide (k.stream < 64) && (s.streamAt k.stream).mode == 1)
      let s := if first then (s.inc 0x8400_06).evHub 0x4003 (be 8 k.step ++ be 2 k.stream ++ be 4 k.chunk) else s
      s.contribute k (a + 1)

/-- A taint frame of an attempt. -/
def State.taintFrame (s : State) (k : CKey) (a reason : Nat) : Bytes :=
  s.redFrame 0x42 0 s.own k a ((s.expectE k).getD 0) 0 0 (-32768) 0xFFFF 0 0 0 0 reason []

/-- A taint goes to every contributor and every other receiver. -/
def State.spreadTaint (s : State) (k : CKey) (a reason : Nat) : State :=
  let f := s.taintFrame k a reason
  let devs := (((s.keyScope k).devs ++ s.receivers k).eraseDups).filter (fun d => d ≠ s.own ∧ d ≠ 0xFFFF)
  devs.foldl (fun s d => s.redSend k d false f) s

/-- R213, R217: this receiver taints an attempt; the failure of attempt 7 is a unit failure. -/
def State.taintChunk (s : State) (k : CKey) (a reason : Nat) : State :=
  let s := match s.resOf k with
    | some r => s.putRes { r with attempt := a, st := if r.late then r.st else 0 }
    | none => s.putRes ⟨k, a, 0, false, false, false, [], 0, -32768, 0, 0⟩
  let s := s.inc 0x8400_03
  let s := if reason = 4 then s.inc 0x8400_0B else s
  let s := s.evSecond 0x4002 (be 8 k.step ++ be 2 k.stream ++ be 4 k.chunk ++ be 1 a ++ be 1 reason)
  if a ≥ 7 then (s.evHub 0x4004 (be 8 k.step ++ be 2 k.stream ++ be 4 k.chunk)).unitFailed 0x4004 0xFE
  else (s.spreadTaint k a reason).resend k a

/-- R215, R218: the skips of a stream at a step are to be judged again: the squares of the final chunks that they kept out are added. -/
def State.unskip (s : State) (t : RStream) (st : Nat) : State :=
  let ds := ((s.tensors t.num).map (·.1.num)).filter (fun d => s.red.skips.contains (st, d))
  let s := s.modRed fun r => { r with skips := r.skips.filter (fun x => ¬ (x.1 = st ∧ ds.contains x.2)) }
  (s.red.res.filter (fun r => r.st == 2 && r.key.stream == t.num && r.key.step == st && !r.key.counts && r.key.stage2 == t.two &&
    (s.tensorAt t r.key.chunk).any (fun x => ds.contains x.1.num))).foldl (fun s r => s.squareChunk r.key r.vals false) s

/-- R218, Table 9-5: a used result is taken back: its squares, and what was formed of its tensor. -/
def State.takeBack (s : State) (r : RRes) : State :=
  let k := r.key
  if k.counts then s
  else
    let t := s.streamAt k.stream
    let s := (s.unskip t k.step).squareChunk k r.vals true
    match s.tensorAt t k.chunk with
    | none => s
    | some (d, _) =>
      let seg := s.keySeg k
      let s := s.modPass fun p => { p with factors := p.factors.filter (fun x => x.1 % 65536 ≠ d.num) }
      let s := s.modArrays fun a =>
        let gone := (a.cast.filter (·.1 == d.num)).map (·.2)
        { a with
          cast := a.cast.filter (fun c => ¬ (c.1 = d.num))
          slices := a.slices.map (fun x => { x with
            bank0 := x.bank0.filter (fun b => !gone.contains b.turn), bank1 := x.bank1.filter (fun b => !gone.contains b.turn)
            drain := x.drain.filter (fun r => !gone.contains r.turn) }) }
      s.modRed fun x => { x with
        pks := x.pks.filter (fun y => ¬ (y.1 = k.step ∧ y.2.1 = d.num))
        peaks := x.peaks.filter (fun y => ¬ (y.step = k.step ∧ y.stream = k.stream ∧ y.seg = seg ∧ y.tid = d.tid)) }

/-- A taint of a forward of this unit's: a stage-2 contribution's, or a lost shard's (R218). -/
def State.taintForward (s : State) (k : CKey) (a : Nat) (devs : List Nat) : State :=
  let f := s.taintFrame k a 1
  (devs.filter (fun d => d ≠ s.own ∧ d ≠ 0xFFFF)).foldl (fun s d => s.redSend k d false f) (s.inc 0x8400_03)

/-- A counts result that has been used, of a stream or of a layer's round (Table 9-5). -/
def State.countsUsed (s : State) (k : CKey) : Bool :=
  if k.stream < 64 then ((s.rstep k.stream k.step).bind (·.counts)).isSome
  else !(s.route.calls.any (fun c => k.ofCall c && decide (k.chunk / 256 % 16 ≥ c.round) && !c.allotted))

/-- R218, R219, Table 9-5: a taint of an attempt meets this receiver's state of a chunk whose result goes no further than this unit.
A taint of a later attempt than the one held tells that the held one was tainted too. -/
def State.meetTaint (s : State) (k : CKey) (a : Nat) : State :=
  if ¬ s.receives k then s else
    match s.resOf k with
    | none => s.putRes ⟨k, a, 0, false, false, false, [], 0, -32768, 0, 0⟩
    | some r =>
      if a < r.attempt then s
      else if r.st = 0 ∨ r.late then s.putRes { r with attempt := a }
      else
        let r := { r with attempt := a }
        let s := if s.keyAll k ∨ s.homeOf k ≠ s.own ∨ ¬ s.segLost (s.keySeg k) then s else s.taintForward k a (s.receivers k)
        if r.st = 1 then s.putRes { r with st := 0, banked := false }
        else if (if k.counts then s.countsUsed k else s.updateBegun k) then s.putRes { r with late := true }
        else (s.takeBack r).putRes { r with st := 0, banked := false }

/-- R218, Table 9-5: a taint meets this receiver's state. Of a stage-1 result that its leader has sent on, the leader taints that stage-2
attempt, at the others and at itself. -/
def State.receiverTaint (s : State) (k : CKey) (a : Nat) : State :=
  if ¬ ((s.streamAt k.stream).two ∧ ¬ k.counts ∧ ¬ k.stage2) then s.meetTaint k a
  else if ¬ s.receives k then s
  else match s.resOf k with
    | none => s.putRes ⟨k, a, 0, false, false, false, [], 0, -32768, 0, 0⟩
    | some r =>
      if a < r.attempt then s else
        let k2 := { k with stage2 := true }
        let s := s.putRes { r with attempt := a, st := 0 }
        match if r.st = 2 then s.sentOf k2 else none with
        | some x => (s.taintForward k2 x.attempt ((s.keyScope k2).devs ++ s.receivers k2).eraseDups).meetTaint k2 x.attempt
        | none => s

/-- Every chunk of a step that this unit receives is final, and its own are all sent (Table 16-3). -/
def State.stepFinal (s : State) (r : RStep) : Bool :=
  let t := s.streamAt r.stream
  decide (r.next ≥ s.chunkCount t) && (s.ownSegs t).all (fun j => (s.tensors t.num).all (fun p => s.tensorFinal t r.step j p.1 p.2))

/-- R219: the end of a late taint: 0 the results are equal; 1 they differ; 2 the time has passed, or the bank holds a later step. -/
def State.lateEnd (s : State) (k : CKey) (outcome : Nat) : State :=
  let s := (s.inc 0x8400_07).evHub 0x4005 (be 8 k.step ++ be 2 k.stream ++ be 4 k.chunk ++ be 1 outcome)
  if outcome = 0 then s else s.unitFailed 0x4005 0xFE

/-- R149, R220: the generation of a frame is the own one; a coding-domain frame passes the gate of R149. -/
def State.redGate (s : State) (f : Bytes) (k : CKey) : Bool × State :=
  let c := s.keyScope k
  if c.domain then s.gate f else (fld f 8 8 == s.job && fld f 4 4 == c.gen, s)

/-! ### Taking frames -/

/-- R213: the first reason of Table 9-6 against a result, in the order 5, 2, 3, 1. -/
def State.resultFault (s : State) (k : CKey) (f : Bytes) : Option Nat :=
  let fmt := s.keyFmt k
  let vs := elemVals fmt f
  let e := s.expectE k
  if fld f 26 1 ≠ fmt ∨ f.length ≠ 64 + 512 * gWidth fmt ∨ vs.any (fun v => ¬ elemOk fmt v) then some 5
  else if (fld f 1 1).testBit 0 then some 2
  else if some (fld f 32 2) ≠ e ∨ fld f 34 2 ≠ fld f 32 2 then some 3
  else if residues vs ≠ (fld f 48 4, fld f 52 4) then some 1
  else none

/-- The member-mode reserve has a stall for one more chunk at its slice (R204, R210). -/
def State.redRoom (s : State) (k : CKey) : Bool := decide (s.redStalls (s.chunkSlice k.chunk) < s.rd 0x4000_09)

/-- A result that passed R213. DESIGN CHOICE: a result of an adopted segment that finds no stall is dropped, as a contribution is that
finds no slot (R209); its timeout taints it. -/
def State.acceptResult (s : State) (k : CKey) (f : Bytes) (late : Option RRes) : State :=
  let stall := !k.counts && !(s.ownSeg (s.streamAt k.stream) (s.keySeg k))
  let r : RRes := ⟨k, fld f 27 1, 1, false, false, stall, elemVals (s.keyFmt k) f, fld f 36 4, sgn 16 (fld f 40 2), fld f 44 2, fld f 46 2⟩
  match late with
  | some old =>
    let s := s.inc 0x8400_02
    let same := decide (old.vals = r.vals ∧ old.grains = r.grains ∧ old.peak = r.peak ∧ old.sat = r.sat ∧ old.nonfin = r.nonfin)
    let held := k.counts || s.bankHolds k
    let s := s.putRes { old with attempt := r.attempt, late := false }
    s.lateEnd k (if ¬ held then 2 else if same then 0 else 1)
  | none =>
    if stall ∧ (s.resOf k).all (!·.stall) ∧ ¬ s.redRoom k then s else
    let s := s.inc 0x8400_02
    let s := (s.putRes r).checkGrains k r.grains
    let s := s.bankResult r
    if (s.receivers k).length ≤ 1 then s.finalize k else s

/-- A result of a later attempt than the one held tells that the held one was tainted, though its taint has not come (R218). -/
def State.tellTaint (s : State) (k : CKey) : State :=
  match s.resOf k with
  | some r => if r.st = 0 ∨ r.late then s else s.receiverTaint k r.attempt
  | none => s

/-- R213: a result reaches this unit. -/
def State.takeResult (s : State) (f : Bytes) : State :=
  let k := keyOf f
  if ¬ s.keyKnown k ∨ ¬ s.receives k ∨ k.step ≤ s.committed then s else
    let (ok, s) := s.redGate f k
    if ¬ ok then s else
      let a := fld f 27 1
      if (s.resOf k).any (fun r => a ≤ r.attempt) then s else
        let s := s.tellTaint k
        let old := s.resOf k
        match s.resultFault k f with
        | some why => s.taintChunk k a why
        | none => s.acceptResult k f (match old with | some r => if r.late then some r else none | none => none)

/-- Table 9-5: a taint reaches this unit; every one is counted, one that is dropped too (Table 9-8). -/
def State.takeTaint (s : State) (f : Bytes) : State :=
  let k := keyOf f
  let s := s.inc 0x8400_04
  if ¬ s.keyKnown k ∨ s.flushing then s else
    let (ok, s) := s.redGate f k
    if ¬ ok then s else
      if k.step ≤ s.committed then s else
        let a := fld f 27 1
        (s.receiverTaint k a).resend k a

/-- R209 step 5, R210: the home's sum is complete: the result goes to every receiver. -/
def State.homeResult (s : State) (h : HomeSlot) : State :=
  let k := h.key
  let w := gWidth h.fmt
  let wrapped := h.sum.any (fun v => ¬ elemOk h.fmt v)
  let vs := h.sum.map (fun v => if h.fmt = 0xC then v % 2 ^ 32 else sgn (8 * w) (pat (8 * w) v))
  let f := s.redFrame 0x41 (8 + (if wrapped ∨ h.wrap then 1 else 0)) 0xFFFF k h.attempt h.e h.c h.grains h.peak 0xFFFF h.sat h.nonfin h.ra h.rb 0
    (elemBytes h.fmt vs)
  let s := s.modRed fun r => { r with homes := r.homes.filter (fun x => ¬ (x.key = k ∧ x.attempt = h.attempt)) }
  (s.receivers k).foldl (fun s d => s.redSend k d false f) s

/-- R209 step 4: one contribution added to a slot. -/
def HomeSlot.add (h : HomeSlot) (f : Bytes) : HomeSlot :=
  let vs := elemVals h.fmt f
  { h with
    seen := h.seen ++ [fld f 42 2]
    sum := (List.range 512).map (fun i => h.sum.getD i 0 + vs.getD i 0)
    grains := (h.grains + fld f 36 4) % 2 ^ 32
    peak := max h.peak (sgn 16 (fld f 40 2))
    sat := min 65535 (h.sat + fld f 44 2)
    nonfin := min 65535 (h.nonfin + fld f 46 2)
    ra := (h.ra + fld f 48 4) % q31
    rb := (h.rb + fld f 52 4) % q31
    wrap := h.wrap || (fld f 1 1).testBit 0
    c := h.c + fld f 34 2 }

/-- R210: a member-mode contribution reaches its home, which admits it as R209 step 3 states. -/
def State.takeContribution (s : State) (f : Bytes) : State :=
  let k := keyOf f
  if ¬ (fld f 1 1).testBit 3 ∨ ¬ s.keyKnown k ∨ s.homeOf k ≠ s.own ∨ k.step ≤ s.committed then s else
    let (ok, s) := s.redGate f k
    let fmt := fld f 26 1
    let e := fld f 32 2
    let a := fld f 27 1
    let idx := fld f 42 2
    if ¬ ok ∨ ¬ (fmt = 2 ∨ fmt = 3 ∨ fmt = 0xC) ∨ idx ≥ e ∨ f.length ≠ 64 + 512 * gWidth fmt then s else
      match s.red.homes.find? (fun h => h.key = k ∧ h.attempt = a) with
      | some h =>
        if h.e ≠ e ∨ h.fmt ≠ fmt ∨ h.seen.contains idx then s else
          let h := h.add f
          if h.c = e then s.homeResult h
          else s.modRed fun r => { r with homes := mapWhere (fun x => decide (x.key = k ∧ x.attempt = a)) (fun _ => h) r.homes }
      | none =>
        if ¬ s.redRoom k then s else
          let h := HomeSlot.add ⟨k, a, e, fmt, [], [], 0, -32768, 0, 0, 0, 0, false, 0⟩ f
          if h.c = e then s.homeResult h else s.modRed fun r => { r with homes := r.homes ++ [h] }

/-- The entries of a peak notice. -/
def noticeEntries (f : Bytes) : List (Nat × Int × Nat) :=
  (List.range (fld f 32 2)).map (fun i => (fld f (40 + 6 * i) 2, sgn 16 (fld f (42 + 6 * i) 2), fld f (44 + 6 * i) 2))

/-- R202: a peak notice reaches a contributor. -/
def State.takePeak (s : State) (f : Bytes) : State :=
  let k : CKey := ⟨fld f 16 8, fld f 24 2, false, false, 0⟩
  let n := fld f 32 2
  if ¬ s.keyKnown k ∨ n = 0 ∨ n > 1024 ∨ f.length < 40 + 6 * n then s else
    let (ok, s) := s.redGate f k
    if ¬ ok ∨ k.step ≤ s.committed then s else
      let t := s.streamAt k.stream
      let seg := fld f 28 4
      let s := (noticeEntries f).foldl (fun s x =>
        let s := s.noteNoticePeak ⟨k.step, k.stream, seg, x.1, x.2.1, x.2.2⟩
        match (s.tensors k.stream).find? (fun p => p.1.tid == x.1) with
        | some p => s.formPeak t k.step p.1
        | none => s) s
      s.countSkips t k.step

/-- A reduction frame by its kind. -/
def State.takeRed (s : State) (f : Bytes) : State :=
  match fld f 0 1 with
  | 0x40 => s.takeContribution f
  | 0x41 => s.takeResult f
  | 0x42 => s.takeTaint f
  | 0x43 => s.takePeak f
  | _ => s

/-- The frames that this unit sent to itself are taken, oldest first, and what may then be sent goes. -/
def State.redLoop : Nat → State → State
  | 0, s => s
  | fuel + 1, s =>
    match s.red.loop with
    | [] => s
    | f :: rest => State.redLoop fuel ((State.takeRed (s.modRed fun r => { r with loop := rest }) f).pumpRed)

/-- What every reduction command ends with: chunks that may go go, and the loop is emptied. -/
def State.redSettle (s : State) : State := State.redLoop 65536 s.pumpRed

/-! ### Intake (R198 to R200, R202, R203) -/

/-- The step to which intake now belongs (R199). -/
def State.intakeStep (s : State) : Nat := s.step + 1

/-- Grain tally and release cursor of a stream for the intake step. -/
def State.ctlOf (s : State) (n : Nat) : Nat × Nat := ((s.red.ctl.find? (·.1 == n)).map (·.2)).getD (0, 0)

/-- R199: chunks below the cursor are released; a cursor no greater changes nothing. -/
def State.releaseChunks (s : State) (n cursor : Nat) : State :=
  let (tally, cur) := s.ctlOf n
  if cursor ≤ cur then s else
    let st := s.intakeStep
    let s := s.modRed fun r => { r with ctl := (n, tally, cursor) :: r.ctl.filter (·.1 ≠ n) }
    if (s.streamAt n).sparse then s else
      let s := s.openStep n st
      (s.modStep n st fun r => { r with tally := tally, released := min cursor (s.chunkCount (s.streamAt n)) }).redSettle

/-- A write of the control line: bytes 0 to 3 the tally, 4 to 7 the cursor; the rest is reserved. -/
def State.controlWrite (s : State) (n off : Nat) (data : Bytes) : State :=
  let (tally, cur) := s.ctlOf n
  let b := (le 4 tally ++ le 4 cur ++ zeros 248)
  let b := b.take off ++ data ++ b.drop (off + data.length)
  let tally := fldLe b 0 4
  let s := s.modRed fun r => { r with ctl := (n, tally, cur) :: r.ctl.filter (·.1 ≠ n) }
  let s := s.modStep n s.intakeStep fun r => { r with tally := tally }
  s.releaseChunks n (fldLe b 4 4)

/-- Why an intake write is not applied now: refused with a cause of event 0x4007, held with a cause of event 0x4009 and its tensor. -/
inductive Intake where
  | go
  | refuse (cause : Nat)
  | hold (cause tid : Nat)
deriving DecidableEq, Repr

/-- R199, R200, R202, R203: the judgement of an intake write of n bytes at an offset of the window, for the step it belongs to; `held`:
it was accepted before its chunks were released, and has waited since. -/
def State.judgeIntake (s : State) (t : RStream) (st : Nat) (held : Bool) (off n : Nat) : Intake :=
  let w := fmtBytes t.hfmt
  let e0 := (off - 256) / w
  let es := n / w
  let cur := if t.sparse ∨ held then 0 else (s.ctlOf t.num).2
  let descs := (List.range es).filterMap (fun i => (s.tensorAt t ((e0 + i) / 512)).map (·.1))
  if s.fn .reduction = 3 ∧ ¬ held then .refuse 4
  else if (off - 256) % w ≠ 0 ∨ n % w ≠ 0 then .refuse 1
  else if e0 / 512 < cur then .refuse 2
  else match descs.find? (fun d => (s.texp t st d.num).isNone) with
    | some d => .hold 1 d.tid
    | none => if s.bankFree st then .go else .hold 2 ((descs.map (·.tid)).headD 0)

/-- R200: one intake element is converted and added, and its chunk's metadata follow. -/
def State.intakeElem (s : State) (t : RStream) (st e code : Nat) : State :=
  let x := e / 512
  match s.tensorAt t x with
  | none => s
  | some (d, _) =>
    let w := gWidth t.wfmt
    let (v, sat, nonfin) := intakeConvert t.hfmt code ((s.texp t st d.num).getD t.t0) t.bound.toNat
    let a := s.bankBase t st + e * w
    let m := s.metaAddr t st x
    let peak := s.metaPeak t st x
    let peak' := match inputExponent t.hfmt code with | some p => max peak p | none => peak
    let s := s.mwrNat a w (pat (8 * w) (sgn (8 * w) (s.mNat a w) + v))
    let s := s.mwr m (le 2 (pat 16 peak') ++ le 2 (min 65535 (s.mNat (m + 2) 2 + (if sat then 1 else 0))) ++
      le 2 (min 65535 (s.mNat (m + 4) 2 + (if nonfin then 1 else 0))) ++ le 1 1)
    let s := if sat then s.inc 0x8200_05 else s
    if nonfin then (s.inc 0x8200_04).evHub 0x2005 (be 2 d.tid ++ be 8 st ++ be 4 (s.mNat (m + 4) 2)) else s

/-- R200: the elements of an intake write. -/
def State.intakeApply (s : State) (t : RStream) (st off : Nat) (data : Bytes) : State :=
  let w := fmtBytes t.hfmt
  (List.range (data.length / w)).foldl (fun s i => s.intakeElem t st ((off - 256) / w + i) (fldLe data (w * i) w)) s

/-- R199: the acceptance of M(s): every chunk of the step is released and the control line returns to 0; declared scopes and
groups take effect; sparse streams begin their counts phase (R216, R220). A function that is DRAINING releases the open step too, whose
chunks it waits for (Table 16-3). -/
def State.redMark (s : State) : State :=
  let st := s.step
  let s := s.modRed fun r => { r with scope := s.octs 0x4003_01 0 1024 }
  let s := { s with route := { s.route with groups := s.octs 0x4102_01 0 1152 } }
  if ¬ s.redOn then s.modRed fun r => { r with ctl := [] } else
    let s := s.streamsUsed.foldl (fun s t =>
      let (tally, _) := s.ctlOf t.num
      let s := s.openStep t.num st
      let s := (s.tensors t.num).foldl (fun s p =>
        match s.texp t st p.1.num with
        | some x => s.setExp st p.1.num x
        | none => s) s
      s.modStep t.num st fun r => { r with tally := tally, released := s.chunkCount t }) s
    ((s.modRed fun r => { r with ctl := [] }).showExps).redSettle

/-! ### Commits and cuts (R203, R220) -/

/-- R203: the staging banks of the steps up to a commit are zeroed and their records freed. -/
def State.redCommit (s : State) (c : Nat) : State :=
  let done := (s.red.steps.filter (·.step ≤ c)).map (·.step)
  let s := done.eraseDups.foldl (fun s st => s.zeroBanks st) s
  s.modRed fun r => { r with
    steps := r.steps.filter (·.step > c), sent := r.sent.filter (·.key.step > c), res := r.res.filter (·.key.step > c)
    homes := r.homes.filter (·.key.step > c), peaks := r.peaks.filter (·.step > c), exps := r.exps.filter (·.1 ≥ c)
    pks := r.pks.filter (·.1 ≥ c), skips := r.skips.filter (·.1 > c), counted := r.counted.filter (·.1 > c) }

/-- R220: a loss cut naming c zeroes the banks of every later step and forgets what they sent and received. -/
def State.redLossCut (s : State) (c : Nat) : State :=
  let later := (List.range (s.deckle + 2)).map (· + c + 1)
  let s := later.foldl (fun s st => s.zeroBanks st) s
  let s := [c + 1, c + 2].foldl (fun s st => s.zeroResults st) s
  let s := s.modPass fun p => { p with squares := [] }
  s.modRed fun r => { r with
    ctl := [], steps := r.steps.filter (·.step ≤ c), sent := r.sent.filter (·.key.step ≤ c), res := r.res.filter (·.key.step ≤ c)
    homes := [], peaks := r.peaks.filter (·.step ≤ c), exps := r.exps.filter (·.1 ≤ c + 1), pks := r.pks.filter (·.1 ≤ c)
    skips := r.skips.filter (·.1 ≤ c), counted := r.counted.filter (·.1 ≤ c), loop := [] }

/-- R220: at a join or switch cut the reductions of the steps after c restart at attempt 0: what they sent, received and formed is
forgotten, the square sums of the step after c too. -/
def State.redRestart (s : State) (c : Nat) : State :=
  let s := s.modRed fun r => { r with
    sent := r.sent.filter (·.key.step ≤ c), res := r.res.filter (·.key.step ≤ c), homes := [], peaks := r.peaks.filter (·.step ≤ c)
    exps := r.exps.filter (·.1 ≤ c + 1), pks := r.pks.filter (·.1 ≤ c), skips := r.skips.filter (·.1 ≤ c)
    counted := r.counted.filter (·.1 ≤ c)
    steps := mapWhere (fun (x : RStep) => x.step > c) (fun x => { x with next := 0, counts := none, asked := false }) r.steps, loop := [] }
  let s := s.modPass fun p => { p with squares := if s.stepDone ≥ c then [] else p.squares }
  s.redSettle

/-- R220: a joiner contributes zeros with a grain tally of 0 to the step after c. The exponent of that step, which its pass needs (R75,
R79), is a free value of each tensor: the spec does not say how a joiner learns it (assumption log). -/
def State.redJoiner (s : State) (c : Nat) : State :=
  if s.fn .reduction ≠ 2 then s else
    (s.streamsUsed.foldl (fun s t =>
      let s := (s.tensors t.num).foldl (fun s p =>
        let (v, s) := s.draw
        s.setExp (c + 1) p.1.num (sgn 16 (v % 65536))) s
      let s := s.openStep t.num (c + 1)
      s.modStep t.num (c + 1) fun r => { r with released := s.chunkCount t }) s).redSettle

/-- The staging and result banks of every stream read zero. -/
def State.redZero (s : State) : State :=
  s.streamsUsed.foldl (fun s t =>
    let d := s.chunkCount t
    let s := s.mzero t.staging (t.staging + (s.deckle + 1) * t.bankBytes d)
    s.mzero t.result (t.result + 2 * s.shardChunks t.num * 512 * gWidth t.wfmt)) s

/-- The reduction function forgets everything: a new job, or the function OFF. -/
def State.redClear (s : State) : State := State.showExps { s.redZero with red := { scope := s.red.scope } }

/-- R196: a mould load while reduction is ON: every stream has its new layout, and every bank is zeroed. The exponents of a tensor that
the new mould still declares under the same descriptor go on (R201). -/
def State.redLayout (s : State) (was : Option Mould) : State :=
  let same (d : Nat) : Bool := match (was.bind (·.desc d)).map (·.tid), (s.pass.mould.bind (·.desc d)).map (·.tid) with
    | some x, some y => x == y
    | _, _ => false
  let known (d : Nat) : Bool := same d && s.red.exps.any (fun x => x.2.1 == d && x.1 == s.intakeStep)
  State.showExps { s.redZero with red := {
    scope := s.red.scope
    exps := s.red.exps.filter (fun x => known x.2.1), pks := s.red.pks.filter (fun x => same x.2.1) } }

/-- R214: D(s) waits for every chunk that the pass used to be final. -/
def State.redSettledFor (s : State) (st : Nat) : Bool := !(s.red.res.any (fun r => r.key.step == st && r.late))

/-- Whether the update of a descriptor may start (R25): none while its reduction is not complete; else whether it is updated. -/
def State.reduced (s : State) (st : Nat) (d : Desc) : Option Bool :=
  let t := s.streamAt d.stream
  if s.fn .reduction ≠ 2 ∨ d.stream ≥ 64 ∨ t.kind = 0 then some false
  else match (s.tensors d.stream).find? (fun p => p.1.num == d.num) with
    | none => some false
    | some p => if s.tensorReady t st d p.2 then some (!(s.tensorSkipped t st d p.2)) else none

/-- The reduced gradient of element i of a descriptor in a segment (R204). -/
def State.gradAt (s : State) (st seg : Nat) (d : Desc) (i : Nat) : Int :=
  let t := s.streamAt d.stream
  match (s.tensors d.stream).find? (fun p => p.1.num == d.num) with
  | none => 0
  | some p =>
    let x := seg * s.shardChunks d.stream + p.2 + i / 512
    match s.resOf ⟨st, d.stream, false, t.two, x⟩ with
    | some r => r.vals.getD (i % 512) 0
    | none => 0

end Sys2Proof.Machine
end

