-- ==== Sys2Proof/Machine/PassOps.lean ====
section
/-!
DEFINITION. The shared operations of the optimiser pass: the step's work, its lines, the holds between lines, the update
of one line, the factors, and the working-copy check (01_slices_hub_and_ticks.md, 03_moulds_and_the_optimiser_pass.md).
-/

namespace Sys2Proof.Machine

/-! ### The work of a step (R65 to R68) -/

/-- The entries of a list slot that govern a step: descriptors in use and marked sparse, ascending, each once (R68). -/
def listWork (m : Mould) (entries : List Nat) : List Nat :=
  sortNat ((entries.filter (fun d => (m.desc d).any (·.sparse))).eraseDups)

/-- A descriptor that an update reaches: in use, of a form that has a step (Table 3-6). -/
def updatable (m : Mould) (n : Nat) : Bool := (m.desc n).any (fun d => d.form != 4)

/-- The work of one operation. DESIGN CHOICE: an UPDATE that names a sparse descriptor updates it, as Table 3-6 says, though Table 3-2
says of a sparse one that only a LIST updates it. -/
def opWork (m : Mould) (lists : List (Nat × List Nat)) (o : Op) : List Work :=
  match o.code with
  | 1 => if updatable m o.a then [.update o.a] else []
  | 2 => (((List.range o.b).map (· + o.a)).filter (fun n => updatable m n && (m.desc n).any (fun d => !d.sparse))).map .update
  | 3 => ((listWork m (((lists.find? (·.1 == o.a)).map (·.2)).getD [])).filter (updatable m)).map .update
  | 4 => [.ema o.a o.b]
  | 5 => [.cursor o.a o.b]
  | _ => []

/-- The work of a step, in mould order (R25). -/
def Mould.work (m : Mould) (lists : List (Nat × List Nat)) : List Work := (m.ops.map (opWork m lists)).flatten

/-- The descriptor that a piece of work writes. -/
def Work.desc : Work → Nat
  | .update d => d
  | .ema _ d => d
  | .cursor d _ => d

/-- R68: the entries of a list that are skipped: those not in use or not sparse, and repeats of an earlier entry. -/
def skipped (m : Mould) (es : List Nat) : List Nat :=
  (List.range es.length).filterMap (fun i => if (m.desc (es.getD i 0)).any (·.sparse) && !(es.take i).contains (es.getD i 0) then none else es[i]?)

/-- R67, R68: the hub reads the slots in use once; cuts and entries skipped are counted and reported once per step. DESIGN CHOICE:
they are counted as the slot is read, whether or not a LIST operation of the mould names it. -/
def State.readLists (s : State) (m : Mould) : State :=
  m.slots.foldl (fun s t =>
    let n := s.mNat t.count 4
    let es := s.mWords t.list 2 (min n t.max)
    let s := if n > t.max then (s.inc 0x8210_03).evStep 0x2102 (be 8 s.step ++ be 1 t.num ++ be 4 n) else s
    let bad := skipped m es
    let s := if bad.isEmpty then s
      else (s.incBy 0x8210_04 bad.length).evStep 0x2103 (be 8 s.step ++ be 1 t.num ++ be 2 (bad.headD 0) ++ be 4 bad.length)
    s.modPass fun p => { p with lists := p.lists ++ [(t.num, es)] }) (s.modPass fun p => { p with lists := [] })

/-! ### The lines of a tensor, own and adopted (R165) -/

/-- The state lines of a descriptor. -/
def Desc.lines (d : Desc) : Nat := ceilDiv (d.count * d.width) 256

/-- The members whose adopted data lines this unit holds. -/
def State.heldSrcs (s : State) : List Nat :=
  sortNat (((s.dataPieces.map (·.src)) ++ s.member.absorbed.map (·.src)).eraseDups)

/-- A state line x of descriptor d of member `src` as this unit holds it. -/
def State.stateAt (s : State) (m : Mould) (d : Desc) (src x : Nat) : Option Nat :=
  let sp := if d.sfmt = 0 then 0 else 1
  if src = s.own then some (d.base + 256 * x)
  else (lineNumber (m.space sp) 0 (d.base + 256 * x)).bind (fun n => s.heldAddr src sp n)

/-- The first moments of the elements of state line x. -/
def State.momAt (s : State) (m : Mould) (d : Desc) (src x : Nat) : Option Nat :=
  if ¬ d.hasMoment then none
  else if src = s.own then some (d.mbase + 128 * x)
  else ((lineNumber (m.space 1) 0 (d.mbase + 128 * x)).bind (fun n => s.heldAddr src 1 n)).map (· + 128 * (x % 2))

/-- The working words of the elements of state line x. -/
def State.workAt (s : State) (m : Mould) (d : Desc) (src x : Nat) : Option Nat :=
  if ¬ d.work then none
  else if src = s.own then some (d.wbase + fmtBytes d.wfmt * 32 * x)
  else (lineNumber (m.space 0) 0 (d.base + 256 * x)).bind (fun n => s.heldWork src n)

/-- A word of a factor vector of a member, row factors at `base`. -/
def State.factorAt (s : State) (m : Mould) (base src i : Nat) : Option Nat :=
  if src = s.own then some (base + 4 * i)
  else ((lineNumber (m.space 1) 0 (base + 4 * i)).bind (fun n => s.heldAddr src 1 n)).map (· + 4 * i % 256)

/-- The lines that a piece of work visits: the own ones, then the adopted ones whose state or moments are held. -/
def State.workLines (s : State) (m : Mould) (w : Work) : List (Nat × Nat) :=
  match m.desc w.desc with
  | none => []
  | some d =>
    (List.range d.lines).map (fun x => (s.own, x)) ++
      (s.heldSrcs.map (fun src => ((List.range d.lines).filter (fun x => (s.stateAt m d src x).isSome || (s.momAt m d src x).isSome)).map (fun x => (src, x)))).flatten

/-- The slice at which a line of the work is issued. -/
def State.lineSlice (s : State) (m : Mould) (d : Desc) (u : Nat × Nat) : Option Nat :=
  match s.stateAt m d u.1 u.2 with
  | some a => s.sliceOf a
  | none => (s.momAt m d u.1 u.2).bind s.sliceOf

/-- The next line of a tensor at slice n, with its position. -/
def State.nextLine (s : State) (m : Mould) (t : TPass) (n : Nat) : Option (Nat × Nat × Nat) :=
  match m.desc t.work.desc with
  | none => none
  | some d =>
    let l := s.workLines m t.work
    let c := t.cursors.getD n 0
    ((List.range (l.length - c)).find? (fun i => ((l[c + i]?).bind (s.lineSlice m d)) == some n)).bind (fun i => (l[c + i]?).map (fun u => (c + i, u)))

/-- No slice has a line of the tensor left. -/
def State.linesDone (s : State) (m : Mould) (t : TPass) : Bool := s.actives.all (fun n => (s.nextLine m t n).isNone)

/-! ### What the sweep of a round asks of the pass (R243, Table 11-2) -/

/-- Site exchange runs. -/
def State.exchOn (s : State) : Bool := s.fn .siteExchange == 2 || s.fn .siteExchange == 3

/-- The entries in use of the exchange table: number, master, anchor, sent (Table 11-1). -/
def State.xEntries (s : State) : List (Nat × Nat × Nat × Nat) :=
  (List.range 1024).filterMap (fun n =>
    let w := s.ofld 0x4201_01 (8 * n) 8
    if bit w 48 then some (n, bits w 0 16, bits w 16 16, bits w 32 16) else none)

/-- The shards that this unit exchanges: its own, and those of lost members whose exchange role R212 and R255 give it. -/
def State.xShards (s : State) : List Nat :=
  s.own :: (s.member.shards.filter (fun x => x.2.1 != s.own && !(s.member.members.contains x.2.1) && x.2.2.headD 0xFFFF == s.own)).map (·.2.1)

/-- The blocks of a sweep: shard, block number, entry, block of the entry's tensor (R242). -/
def State.xBlocks (s : State) : List (Nat × Nat × Nat × Nat) :=
  let one := (s.xEntries.map (fun e =>
    let n := match s.pass.mould.bind (fun m => m.desc e.2.1) with | some d => ceilDiv d.count 65536 | none => 0
    (List.range n).map (fun b => (e.1, b)))).flatten
  (s.xShards.map (fun sh => (List.range one.length).map (fun i => let x := one.getD i (0, 0); (sh, i, x.1, x.2)))).flatten

/-- The exchange state lets the site sweep round k (R243, R256). -/
def State.xMaySweep (s : State) (k : Nat) : Bool :=
  match s.rd 0x4200_14 with
  | 1 => (match s.exch.joined with | some j => decide (j.1 ≤ k) | none => false)
  | 2 => true
  | 3 => true
  | 4 => true
  | _ => false

/-- The round whose sweep belongs to the present step: that of the pass which runs, or of a step to come after a loss cut. -/
def State.xRound (s : State) : Option Nat :=
  let h := max 1 (s.rd 0x4200_02)
  let k := if s.pass.running then (if (s.step - 1) % h = 0 then (s.step - 1) / h else 0)
    else (if s.exch.released = some s.step ∧ s.step % h = 0 then s.step / h else 0)
  if s.exchOn ∧ k ≥ 1 ∧ s.exch.swept < k ∧ s.xMaySweep k then some k else none

/-- The pass may not yet write a line: the sweep has not passed it. -/
def State.sweepHolds (s : State) (d src x : Nat) : Bool :=
  match s.xRound with
  | none => false
  | some k =>
    let next := match s.exch.sweep with | some (r, b, _) => if r = k then b else 0 | none => 0
    let i := s.xBlocks.findIdx? (fun b => b.1 == src && b.2.2.2 == 32 * x / 65536 &&
      s.xEntries.any (fun e => e.1 == b.2.2.1 && (e.2.1 == d || e.2.2.1 == d || e.2.2.2 == d)))
    match i with
    | some i => decide (next ≤ i)
    | none => false

/-! ### Holds between lines (R24, R30, R124, R134) -/

/-- The pass may write: a tick has come since D(s − 1), the previous window has committed here, the couch budget is not
reached. -/
def State.passMayWrite (s : State) : Bool :=
  s.pass.ticked && !s.pass.full && decide (s.deckle * ((s.step - 1) / max 1 s.deckle) ≤ s.committed) && !s.writesFail

/-- R134: the hold of a window's first step is counted once. -/
def State.countCommitHold (s : State) : State :=
  if s.pass.ticked ∧ ¬ s.pass.commitHeld ∧ s.deckle * ((s.step - 1) / max 1 s.deckle) > s.committed then
    (s.modPass fun p => { p with commitHeld := true }).inc 0x8310_0F
  else s

/-- A write of the pass to a coded line (R70), or to plain memory where no coded line lies. -/
def State.passWrite (s : State) (a : Nat) (bs : Bytes) : State :=
  match s.lineAt a with
  | some l => s.codedWrite l (a / 256 * 256) (a % 256) bs s.epoch 1 true
  | none => s.mwr a bs

/-! ### The update of one line (R70, R72, R73, R76) -/

/-- n M32 words at a place, or values that no rule gives where the place is not held. -/
def State.readMoments (s : State) (a : Option Nat) (n : Nat) : List Int × State :=
  match a with
  | some a => ((s.mWords a 4 n).map (sgn 32), s)
  | none => ((List.range n).map (fun i => sat31 (sgn 32 (Config.freeValue (s.draws + i) % 2 ^ 32))), { s with draws := s.draws + n })

/-- n W64 words at a place, or values that no rule gives where the place is not held. -/
def State.readStates (s : State) (a : Option Nat) (n : Nat) : List Int × State :=
  match a with
  | some a => ((s.mWords a 8 n).map (sgn 64), s)
  | none => ((List.range n).map (fun i => clamp60 (sgn 64 (Config.freeValue (s.draws + i) % 2 ^ 64))), { s with draws := s.draws + n })

/-! ### The rows of the drain buffer that lines need (R86 to R88) -/

/-- The rows of results that line x of a form-2 tensor takes: row of the tensor, column block (R87, R88). -/
def Desc.parts (d : Desc) (x : Nat) : List (Nat × Nat) :=
  ((List.range (min 32 (d.count - 32 * x))).map (fun j => ((32 * x + j) / d.cols, (32 * x + j) % d.cols / 32))).eraseDups

/-- The form-2 updates whose factors have been broadcast: descriptor, turn, the position of slice n's next line. -/
def State.form2s (s : State) (n : Nat) : List (Nat × Nat × Nat) :=
  (s.pass.live.filterMap (fun t => if t.turn = 0 then none else some (t.work.desc, t.turn, t.cursors.getD n 0))) ++
    s.arrays.cast.map (fun c => (c.1, c.2, 0))

/-- The rows that the own lines of slice n still need, in the order of the lines: turn, row, column block (R88). -/
def State.wanted (s : State) (m : Mould) (n : Nat) : List (Nat × Nat × Nat) :=
  ((s.form2s n).map (fun u => match m.desc u.1 with
    | none => []
    | some d =>
      let xs := (List.range d.lines).filter (fun x => decide (u.2.2 ≤ x) && s.sliceOf (d.base + 256 * x) == some n)
      (((xs.map d.parts).flatten).eraseDups).map (fun p => (u.2.1, p.1, p.2)))).flatten

/-- A row stands in the drain buffer of slice n. -/
def State.drainRow (s : State) (n : Nat) (k : Nat × Nat × Nat) : Option Drained :=
  (s.arr n).drain.find? (fun r => r.turn == k.1 && r.row == k.2.1 && r.cb == k.2.2)

/-- R87, R88: the rows that the drain buffer has room for, the first 64 wanted, and that do not stand in it. -/
def State.missing (s : State) (m : Mould) (n : Nat) : List (Nat × Nat × Nat) :=
  ((s.wanted m n).take 64).filter (fun k => (s.drainRow n k).isNone)

/-- R91: a log tile is needed at slice n. -/
def State.tileNeeded (s : State) (n : Nat) : Bool :=
  match s.pass.mould with | some m => !(s.missing m n).isEmpty | none => false

/-- The drain buffer lets go of rows that no line needs; a bank all of whose wanted rows are drained is free (R86). -/
def State.trimSlice (s : State) (m : Mould) (n : Nat) : State :=
  let w := s.wanted m n
  let open_ (b : Bank) : Bool := w.any (fun k => k.1 == b.turn && (s.drainRow n k).isNone)
  let s := s.modArr n fun x => { x with
    bank0 := x.bank0.filter open_, bank1 := x.bank1.filter open_, drain := x.drain.filter (fun r => w.contains (r.turn, r.row, r.cb)) }
  if s.tileNeeded n then s else s.modArr n fun x => { x with
    arr0 := if x.arr0.mac then x.arr0 else { x.arr0 with ramp := if x.arr0.ramp = .running then .hold else x.arr0.ramp }
    arr1 := if x.arr1.mac then x.arr1 else { x.arr1 with ramp := if x.arr1.ramp = .running then .hold else x.arr1.ramp } }

/-- The LA17 second moments that the lanes take for the elements of a line: from the drain buffer for own ones (R87), from the
factors for an adopted line; none while a row is not there. A malformed word reads as zero and is counted (R42). -/
def State.lineAv (s : State) (d : Desc) (turn n src x : Nat) : Option (List Int × State) :=
  let cnt := min 32 (d.count - 32 * x)
  let es := (List.range cnt).map (fun j => ((32 * x + j) / d.cols, (32 * x + j) % d.cols))
  if src = s.own then
    if (d.parts x).any (fun p => (s.drainRow n (turn, p.1, p.2)).isNone) then none
    else
      let ws := es.map (fun e => la17OfWord (((s.drainRow n (turn, e.1, e.2 / 32)).map (fun r => r.words.getD (e.2 % 32) 0)).getD 0))
      some (ws.map (·.1), s.incBy 0x8200_08 (ws.filter (·.2)).length)
  else
    match s.pass.factors.find? (·.1 == d.num + 65536 * (src + 1)) with
    | none => none
    | some (_, r, c, t) =>
      let vs := es.map (fun e => expand (operand r e.1) (operand c e.2) t)
      some (vs.map (·.1), s.countRange d.tid (vs.filter (·.2 = 1)).length (vs.filter (·.2 = 2)).length)

/-- The segment of a descriptor's stream that carries a member's elements (R197). -/
def State.segOf (s : State) (d : Desc) (src : Nat) : Nat :=
  if (s.streamAt d.stream).kind = 2 then (s.member.shards.findIdx? (·.2.1 == src)).getD 0 else 0

/-- One line's working words written, padding words with the last, with the share of each of the two watermarks (R76): `bad` flips bits of words that the
lanes write, `chk` upsets the checker's own sum. -/
def State.writeWorking (s : State) (d : Desc) (x : Nat) (at_ : Nat) (vs : List Int) (bad : List (Nat × Nat)) (chk : Nat) : State × Nat × Nat :=
  let (ws, cut) := s.deriveLine d (32 * x) s.step vs
  let w := fmtBytes d.wfmt
  let lanes := (List.range ws.length).map (fun j =>
    (ws.getD j 0) ^^^ (((bad.filter (·.1 = j)).foldl (fun a b => a ^^^ b.2) 0) % 2 ^ (8 * w)))
  let line (l : List Nat) : Nat :=
    mulP (powP s.wmKey x) ((List.range l.length).foldl (fun acc j => addP acc (rotmul (l.getD j 0 % p61) (j % 61))) 0)
  ((s.mwr at_ (padLast (decide (d.count ≤ 32 * x + 32) && at_ == d.wbase + w * 32 * x) (w * 32 * x) (wordsBytes w lanes))).incBy 0x8200_03 cut, line lanes, addP (line ws) (chk % p61))

/-- The record of a tensor in work after a line: the cursor of the slice, and its partial sums. -/
def TPass.after (t : TPass) (n pos a b : Nat) : TPass :=
  let old := t.sums.getD n (0, 0)
  { t with cursors := setAt t.cursors n (pos + 1), sums := setAt t.sums n (addP old.1 a, addP old.2 b) }

/-- A tensor in work replaced. -/
def State.putTensor (s : State) (t : TPass) : State :=
  s.modPass fun p => { p with live := mapWhere (fun (x : TPass) => decide (x.work = t.work)) (fun _ => t) p.live }

/-- R72: one line of an update at slice n, over the second moments `avs` that a form-2 line takes. -/
def State.updateLine (s : State) (m : Mould) (t : TPass) (d : Desc) (n pos src x : Nat) (avs : List Int) (bad : List (Nat × Nat)) (chk : Nat) : State :=
  let cnt := min 32 (d.count - 32 * x)
  let sa := s.stateAt m d src x
  let ma := s.momAt m d src x
  let (ws, s) := s.readStates sa cnt
  let (ms, s) := if d.hasMoment then s.readMoments ma cnt else (List.replicate cnt 0, s)
  let tx := (s.texp (s.streamAt d.stream) s.step d.num).getD 0
  let seg := s.segOf d src
  let outs : List ElemOut := (List.range cnt).map (fun j =>
    let i := 32 * x + j
    updateElem d (m.set d) {
      w := ws.getD j 0, g := s.gradAt s.step seg d i, m := ms.getD j 0, av := avs.getD j la17Zero, t := tx, aEta := m.aEta d s.step
      r0 := s.rword d.umode d.tid 0 s.step i, r1 := s.rword d.mmode d.tid 1 s.step i })
  let sat := sumN (outs.map (·.cuts))
  let clamps := (outs.filter (·.clamped)).length
  let momSat := (outs.filter (·.momSat)).length
  let s := match sa with | some a => s.passWrite a (padLast (decide (d.count ≤ 32 * x + 32)) 0 (wordsBytes 8 (outs.map (fun (o : ElemOut) => pat 64 o.w)))) | none => s
  let s := match ma with | some a => s.passWrite a (padLast (decide (d.count ≤ 32 * x + 32)) (128 * x) (wordsBytes 4 (outs.map (fun (o : ElemOut) => pat 32 o.m)))) | none => s
  let s := (((s.incBy 0x8210_01 cnt).incBy 0x8210_02 sat).incBy 0x8200_01 clamps).incBy 0x8200_02 momSat
  let s := ((s.tally 0x2104 d.tid sat).tally 0x2001 d.tid clamps).tally 0x2004 d.tid momSat
  match s.workAt m d src x with
  | some a =>
    let (s, la, lb) := s.writeWorking d x a (outs.map (fun (o : ElemOut) => o.w)) bad chk
    s.putTensor (t.after n pos la lb)
  | none => s.putTensor (t.after n pos 0 0)

/-- Table 3-6, EMA: one line of the destination. -/
def State.emaLine (s : State) (m : Mould) (t : TPass) (sd d : Desc) (n pos src x : Nat) (bad : List (Nat × Nat)) (chk : Nat) : State :=
  let cnt := min 32 (d.count - 32 * x)
  let da := s.stateAt m d src x
  let (as, s) := s.readStates (s.stateAt m sd src x) cnt
  let (bs, s) := s.readStates da cnt
  let b1 : Int := 65536 - ((m.set d).b1 : Int)
  let raw := (List.range cnt).map (fun j => bs.getD j 0 + roundShift ((as.getD j 0 - bs.getD j 0) * b1) 16 0 0)
  let clamps := (raw.filter (fun v => clamp60 v ≠ v)).length
  let vs := raw.map clamp60
  let s := match da with | some a => s.passWrite a (padLast (decide (d.count ≤ 32 * x + 32)) 0 (wordsBytes 8 (vs.map (pat 64)))) | none => s
  let s := (s.incBy 0x8200_01 clamps).tally 0x2001 d.tid clamps
  match s.workAt m d src x with
  | some a =>
    let (s, la, lb) := s.writeWorking d x a vs bad chk
    s.putTensor (t.after n pos la lb)
  | none => s.putTensor (t.after n pos 0 0)

/-- The words of a form-4 descriptor of a member as one unsigned number, least significant word first; of words not held, values
that no rule gives. -/
def State.cursorWord (s : State) (m : Mould) (d : Desc) (src : Nat) : Nat :=
  sumN ((List.range d.count).map (fun i => (match s.stateAt m d src (i / 64) with
    | some a => s.mNat (a + 4 * (i % 64)) 4
    | none => Config.freeValue (s.draws + i) % 2 ^ 32) * 2 ^ (32 * i)))

/-- Table 3-6, CURSOR: one line of the descriptor gains what the increment carries into it; the carry is that of the words as the
first line met them. -/
def State.cursorLine (s : State) (m : Mould) (t : TPass) (d : Desc) (inc n pos src x : Nat) : State :=
  let old := ((t.below.find? (·.1 == src)).map (·.2)).getD (s.cursorWord m d src)
  let s : State := if src = s.own ∨ t.below.any (·.1 == src) then s else { s with draws := s.draws + d.count }
  let cnt := min 64 (d.count - 64 * x)
  let carry := (old % 2 ^ (2048 * x) + inc) / 2 ^ (2048 * x)
  let s := match s.stateAt m d src x with
    | some a =>
      let v := (s.mNat a (4 * cnt) + carry) % 2 ^ (32 * cnt)
      s.passWrite a (padLast (decide (d.count ≤ 64 * x + 64)) 0 (le (4 * cnt) v))
    | none => s
  s.putTensor { (t.after n pos 0 0) with below := (src, old) :: t.below.filter (·.1 ≠ src) }

/-- The places of coded words that a line of work writes. -/
def State.linePlaces (s : State) (m : Mould) (w : Work) (d : Desc) (src x : Nat) : List Nat :=
  match w with
  | .update _ => (s.stateAt m d src x).toList ++ (s.momAt m d src x).toList
  | .ema _ _ => (s.stateAt m d src x).toList
  | .cursor _ _ => (s.stateAt m d src x).toList

/-- An event of a slice, at most once per second. -/
def State.evSliceSecond (s : State) (n code : Nat) (payload : Bytes) : State :=
  let t := s.now / 1000000000
  if s.log.limited.any (fun p => p.1 == code && p.2 == t) then s else
    State.evSlice { s with log := { s.log with limited := (code, t) :: s.log.limited.filter (·.1 ≠ code) } } n code payload

/-! ### The end of a tensor (R76 to R78, R86) -/

/-- A tensor leaves the work in hand complete. -/
def State.tensorDone (s : State) (t : TPass) : State :=
  s.modPass fun p => { p with live := p.live.filter (fun x => ¬ (x.work = t.work)), done := p.done ++ [t.work.desc] }

/-- What follows a line: the drain buffer and the banks of the slice let go of what no line needs; a tensor without a working copy is
complete once every line is written. -/
def State.afterLine (s : State) (m : Mould) (w : Work) (n : Nat) : State :=
  let s := s.trimSlice m n
  match s.pass.live.find? (fun t => decide (t.work = w)), m.desc w.desc with
  | some t, some d => if s.linesDone m t ∧ ¬ d.work then s.tensorDone t else s
  | _, _ => s

/-- R77: the whole working copy of a tensor derived again from the state in memory. -/
def State.rederiveTensor (s : State) (m : Mould) (d : Desc) : State :=
  (s.workLines m (.update d.num)).foldl (fun s u =>
    match s.stateAt m d u.1 u.2, s.workAt m d u.1 u.2 with
    | some a, some w =>
      let vs := (s.mWords a 8 (min 32 (d.count - 32 * u.2))).map (sgn 64)
      (s.writeWorking d u.2 w vs [] 0).1
    | _, _ => s) s

/-- R76: the two watermarks of a tensor, and every slice's two partial sums, are equal. -/
def TPass.agrees (t : TPass) : Bool := t.sums.all (fun p => p.1 == p.2)

/-! ### Factors (R75) -/

/-- R75: factors() over old words and square sums: the new words, how many saturated. -/
def newFactors (d : Desc) (h : HSet) (t : Int) (old : List Int) (sq : List Nat) : List Int × Nat :=
  let rs := (List.range old.length).map (fun i => emaM (old.getD i 0) ((sq.getD i 0 : Nat) : Int) (-2 * t - d.s2) h.b2 0 0)
  (rs.map (·.1), (rs.filter (·.2)).length)

/-- The old words of a factor vector; words of adopted lines not held are values that no rule gives. -/
def State.readFactors (s : State) (m : Mould) (base src n : Nat) : List Int × State :=
  ((List.range n).map (fun i => match s.factorAt m base src i with
    | some a => sgn 32 (s.mNat a 4)
    | none => ((Config.freeValue (s.draws + i) % 2 ^ 31 : Nat) : Int)),
   if src = s.own then s else { s with draws := s.draws + n })

/-- The lines of a factor vector of a member's, with the words they are to take (R75, R61). -/
def State.factorLines (s : State) (m : Mould) (n base src : Nat) (vs : List Int) : List FLine :=
  (List.range (ceilDiv vs.length 64)).filterMap (fun x =>
    (s.factorAt m base src (64 * x)).map (fun a => ⟨n, a, ((vs.drop (64 * x)).take 64).map (pat 32)⟩))

/-- R75: the factors of a form-2 descriptor for one member's elements. They are formed from the factors as they stood before the
step, so that factors formed again after a taint (Table 9-5) replace the first ones; their lines are to be written. -/
def State.factorsOf (s : State) (m : Mould) (d : Desc) (src : Nat) : State :=
  let t := s.streamAt d.stream
  let tx := (s.texp t s.step d.num).getD 0
  let seg := s.segOf d src
  let key := if src = s.own then d.num else s.sqKey t seg d.num
  let sq := ((s.pass.squares.find? (·.1 == key)).map (·.2)).getD (List.replicate d.rows 0, List.replicate d.cols 0)
  let num := if src = s.own then d.num else d.num + 65536 * (src + 1)
  let old := (s.pass.factorOld.find? (·.1 == num)).map (·.2)
  let (r, s) := match old with | some o => (o.1, s) | none => s.readFactors m d.rbase src d.rows
  let (c, s) := match old with | some o => (o.2, s) | none => s.readFactors m d.cbase src d.cols
  let (r', n1) := newFactors d (m.set d) tx r sq.1
  let (c', n2) := newFactors d (m.set d) tx c sq.2
  let s := (s.incBy 0x8200_02 (n1 + n2)).tally 0x2004 d.tid (n1 + n2)
  let neg := (r' ++ c').filter (· < 0)
  let s := s.incBy 0x8200_08 neg.length
  let lines := s.factorLines m d.num d.rbase src r' ++ s.factorLines m d.num d.cbase src c'
  s.modPass fun p => { p with
    factors := p.factors.filter (·.1 ≠ num) ++ [(num, r'.map (la17 · d.s2), c'.map (la17 · d.s2), la17 (sumI r') d.s2)]
    factorOld := p.factorOld.filter (·.1 ≠ num) ++ [(num, r, c)]
    due := p.due.filter (fun l => ¬ lines.any (·.addr == l.addr)) ++ lines }

/-- R30, R70, R75: the factor lines of a descriptor are written as coded state, each as soon as a line of the pass may go. -/
def State.writeDue (s : State) (n : Nat) : State :=
  (s.pass.due.filter (·.desc == n)).foldl (fun s l =>
    let s := s.countCommitHold
    if ¬ s.passMayWrite then s
    else match s.linesHeld [l.addr] with
      | some s => s
      | none => s.ifRoom [l.addr] fun s =>
        (s.modPass fun p => { p with due := p.due.filter (fun x => ¬ (x.addr = l.addr)) }).passWrite l.addr (padLast true 0 (wordsBytes 4 l.words))) s

/-- A tensor is left out after its factors had been formed (R215): their lines take the words from before the step again. -/
def State.dropFactors (s : State) (m : Mould) (d : Desc) : State :=
  let held := s.pass.factorOld.filter (fun x => x.1 % 65536 == d.num)
  let src (k : Nat) : Nat := if k < 65536 then s.own else k / 65536 - 1
  let lines := (held.map (fun x => s.factorLines m d.num d.rbase (src x.1) x.2.1 ++ s.factorLines m d.num d.cbase (src x.1) x.2.2)).flatten
  let done := lines.filter (fun l => ¬ s.pass.due.any (·.addr == l.addr))
  s.modPass fun p => { p with
    due := p.due.filter (fun l => ¬ (l.desc = d.num)) ++ done
    factorOld := p.factorOld.filter (fun x => ¬ (x.1 % 65536 = d.num)) }

/-! ### The step's end (R24, R26, R28) -/

/-- The conditions of D(s) that the pass itself decides: no work left, no chunk awaited, the sweep of its round ended. -/
def State.stepReady (s : State) : Bool :=
  s.pass.running && s.pass.todo.isEmpty && s.pass.live.isEmpty && s.pass.due.isEmpty && s.redSettledFor s.step && s.xRound.isNone

/-- The completion word of a descriptor (R78). -/
def State.wordDone (s : State) (m : Mould) (d : Nat) : State :=
  let s := if m.compl = 0 then s else s.mwrNat (m.compl + 8 * d) 8 s.step
  s.modPass fun p => { p with
    done := p.done.filter (· ≠ d), worded := p.worded ++ [d], derived := (d, s.step) :: p.derived.filter (·.1 ≠ d) }

/-- The loaded mould; before any load, one with nothing in it. -/
def State.theMould (s : State) : Mould := s.pass.mould.getD ⟨[], [], [], [], [], 0, 0, 0, 0⟩

/-- The reports that a step makes once, each with its count over the step: tensor by tensor (R36, R54, R72, R84), and of writes
discarded, with the first address (R71, R117). -/
def State.reportStep (s : State) : State :=
  let s := s.pass.tally.foldl (fun s t =>
    if t.code = 0x2108 ∨ t.code = 0x3007 then s.ev t.code (be 8 t.about ++ be 4 t.count)
    else s.evHub t.code (be 2 t.about ++ be 8 s.step ++ be 4 t.count)) s
  let s := s.arrays.ranges.foldl (fun s r => s.evHub 0x2201 (be 2 r.1 ++ be 8 s.step ++ be 4 r.2.1 ++ be 4 r.2.2)) s
  (s.modPass fun p => { p with tally := [] }).modArrays fun a => { a with ranges := [] }

/-- R26, R28: D(s) is asserted. -/
def State.assertDone (s : State) : State :=
  let m := s.theMould
  let s := s.reportStep
  let s := (m.descs.filter (fun d => ¬ s.pass.worded.contains d.num)).foldl (fun s d => s.wordDone m d.num) s
  let st := s.step
  let e := s.epoch
  let time := s.now - s.pass.markAt
  let s := ((s.wr 0x3181_02 st).wr 0x3181_03 e).wr 0x3181_04 (if s.pass.paced > 0 then 1 else 0)
  let (mem, s) := s.draw
  let s := ((s.wr 0x8318_05 time).wr 0x8318_06 (mem % 2 ^ 64)).wr 0x8318_07 s.pass.paced
  let s := s.modCouch fun c => { c with bounds := ((st, e) :: c.bounds.filter (·.1 ≠ st)).take 4096 }
  let s := s.modTiers fun t => { t with
    passTimes := (time :: t.passTimes).take 64
    snap := t.snap.map (fun c => if c.phase = 0 then c else { c with excess := c.excess + (time - c.mean) }) }
  let s := s.freeBanks
  let s := s.modPass fun p => { p with
    running := false, armed := true, ticked := false, full := p.full, paced := 0, done := [], worded := [], factors := [], factorOld := []
    turns := 0, lists := [], once := [], squares := [], commitHeld := false }
  let next := s.red.res.filter (fun r => r.st == 2 && r.key.step == st + 1 && !r.key.counts && decide (r.key.stream < 64) &&
    (!(s.streamAt r.key.stream).two || r.key.stage2))
  (next.foldl (fun s r => s.squareChunk r.key r.vals false) s).bankWaiting

/-! ### Starting tensors, factors and their broadcast (R25, R75, R86) -/

/-- The form-2 updates of the step that have not started, in mould order, each with its turn (R86). -/
def State.turnsDue (s : State) (m : Mould) : List (Nat × Nat) :=
  let ds := s.pass.todo.filterMap (fun w => match w with | .update n => if (m.desc n).any (·.form == 2) then some n else none | _ => none)
  (List.range ds.length).map (fun i => (ds.getD i 0, s.pass.turns + i + 1))

/-- R25: the next tensor of the step's work starts, or is left out. A form-2 tensor starts once its factors are written and
broadcast. -/
def State.startTensor (s : State) (m : Mould) : State :=
  match s.pass.todo with
  | [] => s
  | w :: rest =>
    let t : TPass := { work := w, cursors := List.replicate s.hw.slices 0, sums := List.replicate s.hw.slices (0, 0), turn := 0, below := [] }
    let leave (s : State) : State := s.modPass fun p => { p with todo := rest }
    let start (s : State) (t : TPass) : State := s.modPass fun p => { p with todo := rest, live := p.live ++ [t] }
    if s.pass.live.any (fun x => decide (x.work = w)) then s
    else match w, m.desc w.desc with
      | _, none => leave s
      | .update _, some d =>
        if d.form = 2 then
          let turn := s.pass.turns + 1
          let next (s : State) : State := (s.modPass fun p => { p with turns := turn }).modArrays fun a => { a with cast := a.cast.filter (fun c => ¬ (c.2 = turn)) }
          match s.reduced s.step d with
          | none => s
          | some false => s.actives.foldl (fun s n => s.trimSlice m n) (leave (next (s.dropFactors m d)))
          | some true => if s.arrays.cast.any (·.2 == turn) then start (next s) { t with turn := turn } else s
        else
          match s.reduced s.step d with
          | none => s
          | some false => leave s
          | some true => if d.form = 3 ∧ (step3 d (m.aEta d s.step)).2 then (start (s.inc 0x8210_02) t).tally 0x2104 d.tid 1 else start s t
      | _, some _ => if s.pass.live.all (fun x => s.linesDone m x) then start s t else s

/-- R75: the factors of a form-2 descriptor whose reduction is complete, for the own elements and for adopted ones; then their lines
are written, as far as the pass may write (R30, R134). -/
def State.computeFactors (s : State) (m : Mould) (n : Nat) : State :=
  match m.desc n with
  | none => s
  | some d =>
    let held := s.heldSrcs.filter (fun src => (s.workLines m (.update n)).any (·.1 == src))
    let s := if d.form ≠ 2 ∨ ¬ s.pass.todo.contains (.update n) ∨ s.pass.factors.any (·.1 == n) ∨ s.reduced s.step d ≠ some true then s
      else (s.own :: held).foldl (fun s src => s.factorsOf m d src) s
    s.writeDue n

/-- The next form-2 update whose factors are to be broadcast, in mould order, with its turn (R86). -/
def State.nextCast (s : State) (m : Mould) : Option (Nat × Nat) :=
  (s.turnsDue m).find? (fun u => !(s.arrays.cast.any (·.2 == u.2)) &&
    (match m.desc u.1 with | some d => s.reduced s.step d != some false | none => false))

/-- A slice's log bank of an index. -/
def ArraySlice.bank (a : ArraySlice) (i : Nat) : Option Bank := if i = 0 then a.bank0 else a.bank1

/-- The tensor's factors as the hub broadcasts them, into log bank i of slice k. -/
def State.castTo (s : State) (d : Desc) (i k : Nat) : State :=
  match s.pass.factors.find? (·.1 == d.num) with
  | some (_, r, c, t) => s.writeBank k i d.tid t c r
  | none => s

/-- R85, R86: the factors of the next form-2 update land in the bank whose turn it is, at every active slice, once each has freed it. -/
def State.castFactors (s : State) (m : Mould) (n : Nat) : State :=
  match m.desc n, s.nextCast m with
  | some d, some (k, turn) =>
    let i := (turn - 1) % 2
    if k ≠ n ∨ ¬ s.pass.factors.any (·.1 == n) ∨ s.pass.due.any (·.desc == n) ∨ s.actives.any (fun x => ((s.arr x).bank i).isSome) then s
    else
      let b : Bank := { desc := n, turn := turn }
      let s := s.modArrays fun a => { a with cast := a.cast ++ [(n, turn)] }
      s.actives.foldl (fun s x =>
        ((s.castTo d i x).modArr x fun a => if i = 0 then { a with bank0 := some b } else { a with bank1 := some b }).trimSlice m x) s
  | _, _ => s

/-! ### One log tile (R84, R87, R88, R91, R94) -/

/-- The first two tiles that slice n needs, in order: turn, row block, column block (R88). -/
def State.nextTiles (s : State) (m : Mould) (n : Nat) : List (Nat × Nat × Nat) :=
  (((s.missing m n).map (fun k => (k.1, k.2.1 / 32, k.2.2))).eraseDups).take 2

/-- R88, R92: the tiles of the next cycle with the array of each: a pair where the next two share a column block and both arrays
stand in service at 32 columns, else the next one alone. -/
def State.tileSet (s : State) (m : Mould) (n : Nat) : List (Nat × (Nat × Nat × Nat)) :=
  match s.nextTiles m n with
  | u :: v :: _ =>
    if u.1 = v.1 ∧ u.2.2 = v.2.2 ∧ s.inService n 0 ∧ s.inService n 1 ∧ (s.arr n).arr0.cols = 32 ∧ (s.arr n).arr1.cols = 32 then
      (if u.2.1 ≤ v.2.1 then [(0, u), (1, v)] else [(0, v), (1, u)])
    else [(0, u)]
  | [u] => [(0, u)]
  | [] => []

/-- The bank in use of a turn, with its index. -/
def ArraySlice.bankOfTurn (x : ArraySlice) (turn : Nat) : Option (Nat × Bank) :=
  match x.bank0.filter (·.turn == turn) with
  | some b => some (0, b)
  | none => (x.bank1.filter (·.turn == turn)).map (fun b => (1, b))

/-- R84, R87: one tile is computed on array a, and its rows that own lines need are drained. -/
def State.oneTile (s : State) (m : Mould) (n a : Nat) (u : Nat × Nat × Nat) (e1 e2 : Upsets) : State :=
  match (s.arr n).bankOfTurn u.1 with
  | none => s
  | some (i, b) =>
    match m.desc b.desc with
    | none => s
    | some d =>
      let keys := (s.missing m n).filter (fun k => k.1 == u.1 && k.2.1 / 32 == u.2.1 && k.2.2 == u.2.2)
      let (vs, s) := s.runTile n a (s.tileIn n i d.rows d.cols u.2.1 u.2.2) e1 e2
      match vs with
      | none => s
      | some vs =>
        let row (k : Nat × Nat × Nat) : Drained := ⟨k.1, k.2.1, k.2.2, ((vs.drop (32 * (k.2.1 % 32))).take 32).map (fun v => wordOfLa17 v.1)⟩
        let s := (s.modArr n fun x => { x with drain := x.drain ++ keys.map row }).inc 0x8220_01
        s.countRange d.tid (vs.filter (·.2 = 1)).length (vs.filter (·.2 = 2)).length

/-- R91: the MAC job in hand pauses when a log tile needs an array it uses; the pause is counted. -/
def State.macPause (s : State) (n : Nat) (arrays : List Nat) : State :=
  match (s.arr n).jobs with
  | j :: _ =>
    if (s.arr n).started ∧ ¬ (s.arr n).paused ∧ [0, 1].any (fun a => macUses j.word a && arrays.contains (s.physical n a)) then
      (s.modArr n fun x => { x with paused := true }).inc 0x8220_05
    else s
  | [] => s

/-- R90, R91: the job in hand starts, goes on or resumes, unless a log tile is needed. -/
def State.macGo (s : State) (n : Nat) : State :=
  if s.tileNeeded n then s else
    let s := s.modArr n fun x => { x with paused := false }
    match (s.arr n).jobs with
    | j :: _ => s.macUpdates n j
    | [] => s

/-- The SRAM rows of the bank words that a tile of a tensor with C columns reads, from the bank's first row (Table 4-2). -/
def tileRows (C rb cb : Nat) : List Nat :=
  0 :: ((List.range 12).map (fun i => 1 + 32 * cb / 3 + i) ++ (List.range 12).map (fun i => 1 + ceilDiv C 3 + 32 * rb / 3 + i))

/-- R289, R302: injected errors on the bank words that a tile reads are met; the word, when one cannot be read. -/
def State.bankErrors (s : State) (n i C rb cb : Nat) : Option Nat × State :=
  (tileRows C rb cb).foldl (fun p w =>
    let (k, s) := p.2.takeInjection 2 n (bankOff i / 8 + w)
    (if k ≥ 3 then some w else p.1, s.sramRead 2 n (bankOff i / 8 + w) k false 8)) (none, s)

/-- R86, Table 4-6: a bank word that cannot be read: the tile is discarded and the hub broadcasts the factors to the slice again. -/
def State.recast (s : State) (m : Mould) (n i : Nat) (b : Bank) : Option Nat → State
  | none => s
  | some w =>
    let s := (s.inc 0x8220_08).evSlice n 0x2205 (be 1 n ++ be 1 i ++ be 4 w)
    match m.desc b.desc with
    | some d => s.castTo d i n
    | none => s

/-- R84, R87, R88, R91, R94: slice n computes the tiles of the next cycle; once no tile is needed a paused job resumes. `bad` is a bank
word that cannot be read; `e1` and `e2` are the upsets of the first and of the repeated computation. -/
def State.logTile (s : State) (m : Mould) (n : Nat) (bad : Option Nat) (e1 e2 : Upsets) : State :=
  let ts := s.tileSet m n
  match ts with
  | [] => s
  | (_, u) :: _ =>
    match (s.arr n).bankOfTurn u.1 with
    | none => s
    | some (i, b) =>
      let (hit, s) := s.bankErrors n i (((m.desc b.desc).map (·.cols)).getD 0) u.2.1 u.2.2
      let s := s.recast m n i b (bad.orElse fun _ => hit)
      let s := s.macPause n (ts.map (fun t => s.physical n t.1))
      let s := ts.foldl (fun s t => s.oneTile m n t.1 t.2 e1 e2) s
      let s := if (s.nextTiles m n).length ≥ 2 ∧ s.inService n 1 then s.arrayWork n 1 false else s
      let s := s.trimSlice m n
      s.macGo n

/-! ### One line (R70) -/

/-- R56: what the lane residue check finds: none; one mismatch, and the operation is repeated; two, and the slice fails. -/
def State.laneCheck (s : State) (n a : Nat) : List Nat → Bool × State
  | [] => (true, s)
  | [l] => (true, (s.inc 0x8200_06).evSliceSecond n 0x2006 (be 1 n ++ be 1 l))
  | l :: l' :: _ =>
    let s := (s.inc 0x8200_06).evSliceSecond n 0x2006 (be 1 n ++ be 1 l)
    (false, (s.evSlice n 0x2007 (be 1 n ++ be 1 l' ++ be 8 (s.physAddr a))).unitFailed 0x2007 n)

/-- A line that meets the sweep of a round waits, and is counted once (Table 11-2). -/
def State.countSwept (s : State) (a : Nat) : State :=
  if s.exch.held.contains a then s else
    State.inc { s with exch := { s.exch with held := a :: s.exch.held } } 0x8420_0A

/-- Table 13-4: what a line computes from poisoned words, outside coded state, is marked. -/
def State.markResult (s : State) (as : List Nat) (work : Option (Nat × Nat)) : State :=
  let s := as.foldl (fun s a => s.spoil a 256) s
  match work with
  | some (a, n) => s.spoil a n
  | none => s

/-- R70: the next line of slice n, in mould order. -/
def State.passLine (s : State) (m : Mould) (n : Nat) (lanes : List Nat) (bad : List (Nat × Nat)) (chk : Nat) : State :=
  match s.pass.live.find? (fun t => (s.nextLine m t n).isSome) with
  | none => s
  | some t =>
    match s.nextLine m t n, m.desc t.work.desc with
    | some (pos, src, x), some d =>
      let places := s.linePlaces m t.work d src x
      let a := places.headD 0
      if s.sweepHolds d.num src x then s.countSwept a
      else match (if d.form = 2 ∧ t.work = .update d.num then s.lineAv d t.turn n src x else some ([], s)), s.linesHeld places with
        | none, _ => s
        | _, some s => s
        | some (avs, s), none => s.ifRoom places fun s =>
          let (ok, s) := s.laneCheck n a lanes
          if ¬ ok then s
          else
            let marked := places.filter s.unreadable
            let s := match t.work with
              | .update _ => s.updateLine m t d n pos src x avs bad chk
              | .ema sd _ => match m.desc sd with
                | some e => s.emaLine m t e d n pos src x bad chk
                | none => s
              | .cursor _ inc => s.cursorLine m t d inc n pos src x
            let s := if marked.isEmpty then s else s.markResult places ((s.workAt m d src x).map (fun w => (w, 32 * fmtBytes d.wfmt)))
            s.afterLine m t.work n
    | _, _ => s

/-- R76, R77: the check of a tensor whose lines are all written; `again` are the slices whose sums differ a second time. -/
def State.checkWorking (s : State) (m : Mould) (n : Nat) (again : List Nat) : State :=
  match s.pass.live.find? (fun t => t.work.desc == n && s.linesDone m t), m.desc n with
  | some t, some d =>
    if ¬ d.work then s
    else if t.agrees then s.tensorDone t
    else
      let s := (s.inc 0x8210_05).evHub 0x2105 (be 2 d.tid ++ be 8 s.step)
      let s := s.rederiveTensor m d
      match again with
      | [] => s.tensorDone t
      | k :: _ => (again.foldl (fun s j => s.evHub 0x2106 (be 2 d.tid ++ be 8 s.step ++ be 1 j)) s).unitFailed 0x2106 k
  | _, _ => s

/-! ### The mark and D(s) (R23, R26, R391) -/

/-- R23: an accepted mark: the counter, the lists, the work, the seed table of step s + 2. -/
def State.takeMark (s : State) : State :=
  let m := s.theMould
  let s := s.wr 0x3181_01 (s.step + 1)
  let s := s.readLists m
  let s := s.modPass fun p => { p with
    running := true, armed := false, todo := m.work p.lists, live := [], done := [], worded := [], factors := [], factorOld := [], due := [], turns := 0, markAt := s.now
    paced := 0, once := p.once, commitHeld := false }
  let s := { s with exch := { s.exch with released := none, held := [] } }
  s.writeSeeds (s.step + 2)

/-- R391: D(s) at the frame in hand, where 3 frames of 0 have passed; else it waits for them. -/
def State.driveDone (s : State) : State :=
  if s.sensors.doneLevel = 0 ∧ s.sensors.doneFrames ≥ 3 then
    (s.modSensors fun x => { x with doneLevel := 1, doneFrames := 0, doneWaits := none }).assertDone
  else s.modSensors fun x => { x with doneWaits := some s.step }

/-- R391: a sideband frame of STEPDONE passes. -/
def State.doneFrame (s : State) : State :=
  let f := min 3 (s.sensors.doneFrames + 1)
  let s := s.modSensors fun x => { x with doneFrames := f }
  if s.sensors.doneLevel = 1 then
    if f = 3 then s.modSensors fun x => { x with doneLevel := 0, doneFrames := 0 } else s
  else match s.sensors.doneWaits with
    | some _ => if f = 3 then s.driveDone else s
    | none => s

/-! ### Weight import (R419) -/

/-- R419: the import request; 16 bytes. Coding is OFF, as the common rules have checked (R325). -/
def State.importAsk (s : State) (b : Bytes) : Nat × State :=
  let n := fldLe b 0 2
  let fmt := fldLe b 2 1
  let src := fldLe b 8 8
  if fldLe b 3 5 ≠ 0 then (14, s)
  else if ¬ [8, 9, 0xA, 0xB].contains fmt ∨ src % 256 ≠ 0 then (6, s)
  else match s.pass.mould.bind (fun m => m.desc n) with
    | some d =>
      if s.rd 0x2100_02 ≠ 1 ∨ d.sfmt ≠ 0 ∨ s.rd 0x2107_02 = 1 then (13, s)
      else (0, (s.modPass fun p => { p with importing := some (n, fmt, src) }).wr 0x2107_02 1)
    | none => (13, s)

/-- The values of an import, or the first offending element with its reason. -/
def importAll (fmt f : Nat) : Nat → List Nat → Except (Nat × Nat) (List Int)
  | _, [] => .ok []
  | i, c :: cs =>
    match importConvert fmt c f with
    | .error r => .error (i, r)
    | .ok v => match importAll fmt f (i + 1) cs with
      | .error e => .error e
      | .ok l => .ok (v :: l)

/-- R419: the import ends. -/
def State.importEnd (s : State) : State :=
  match s.pass.importing with
  | none => s
  | some (n, fmt, src) =>
    let s := s.modPass fun p => { p with importing := none }
    match s.pass.mould.bind (fun m => m.desc n) with
    | none => s.wr 0x2107_02 3
    | some d =>
      match importAll fmt d.f 0 (s.mWords src (fmtBytes fmt) d.count) with
      | .error (i, r) => ((s.wr 0x2107_02 3).inc 0x8200_09).evHub 0x2003 (be 2 d.tid ++ be 8 i ++ be 1 r)
      | .ok vs =>
        let s := s.mzero (d.base + 8 * d.count) (d.base + wholeLines (8 * d.count))
        let s := s.mwr d.base (wordsBytes 8 (vs.map (pat 64)))
        let s := if d.work then (List.range d.lines).foldl (fun s x => s.rederiveLine d x s.stepDone) s else s
        s.wr 0x2107_02 2

end Sys2Proof.Machine
end

