-- ==== Sys2Proof/Machine/Arrays.lean ====
section
/-!
DEFINITION. The commands of the outer-product arrays: tiles, MAC jobs and the activity ramp (04_outer_product_arrays.md).
The factors and their broadcast stand with the pass.
-/

namespace Sys2Proof.Machine

/-- LOG_TILE (R83, R84, R87, R88, R91 to R94): slice n computes its next needed tile, or the next two of a pair, from its log bank,
latches the results and drains the rows that its own lines need; nothing happens while no tile is needed or the drain buffer is
full. `cells`, `row` and `col` are the upsets of the first computation, the others those of the repeated one; `bad` names a bank
word that could not be read, for which the tile is discarded and the factors are broadcast again before it runs. -/
def execLogTile (n : Nat) (bad : Option Nat) (cells row col cells2 row2 col2 : List (Nat × Nat × Int)) (s : State) : Out :=
  sliceServing n s fun s =>
    match s.pass.mould with
    | some m => s.logTile m n bad ⟨cells, row, col⟩ ⟨cells2, row2, col2⟩
    | none => s

/-- MAC_JOB (R90, R91, R92): the exchange engine issues a job word with the operand vectors it has; it is refused, or queued and
started once it is first and no log tile is needed. -/
def execMacJob (n word : Nat) (x0 x1 y : List (List Int)) (s : State) : Out :=
  sliceServing n s fun s =>
    if macRefused word then s.macRefuse n word
    else
      ((s.wrO 0x2201_01 0 (le 16 word)).modArr n fun a => { a with jobs := a.jobs ++ [⟨word, x0, x1, y⟩] }).macGo n

/-- MAC_JOB_READOUT (R89, R91, R93, R94): the engine gives the job in hand further vectors; once it has made all L updates, with no
log tile needed, its accumulators reach the readout areas, the engine is told, and the next job starts. `up` holds the upsets of the
first and of the repeated run. -/
def execMacJobReadout (n : Nat) (more : MacVecs) (up : Upsets × Upsets) (s : State) : Out :=
  sliceServing n s fun s =>
    match (s.arr n).jobs with
    | [] => s
    | j :: rest =>
      let j := j.more more
      let s := (s.modArr n fun a => { a with jobs := j :: rest }).macGo n
      if (s.arr n).paused ∨ s.tileNeeded n ∨ (s.arr n).upd < macLen j.word then s
      else (s.macReadout n j up.1 up.2).macGo n

/-- ARRAY_HOLD_EXPIRY (R92): the hold ends with no work, and the stop ramp begins: the first column goes. -/
def execArrayHoldExpiry (n a : Nat) (s : State) : Out :=
  sliceServing n s fun s =>
    s.modArr n fun x => x.set a fun y => if y.ramp = .hold then { y with ramp := .stopping, cols := 31 } else y

/-- ARRAY_STOP_RAMP_END (R92): the stop ramp ends and the array's clock is gated. -/
def execArrayStopRampEnd (n a : Nat) (s : State) : Out :=
  sliceServing n s fun s =>
    s.modArr n fun x => x.set a fun y => if y.ramp = .stopping then { y with ramp := .gated, cols := 0 } else y

end Sys2Proof.Machine
end

