-- ==== Sys2Proof/Machine/BisectOps.lean ====
section
/-!
DEFINITION. The comparison of replicas and the bisection (14_determinism_and_audit.md, R313 to R319).
-/

namespace Sys2Proof.Machine

/-! ### Frames (R313, R314) -/

/-- The replicas in use of 0x6001.01: device id and address. -/
def State.replicas (s : State) : List (Nat × Nat) :=
  (List.range 7).filterMap (fun i =>
    if bit (s.ofld 0x6001_01 (20 * i + 2) 2) 0 then some (s.ofld 0x6001_01 (20 * i) 2, beNat (s.octs 0x6001_01 (20 * i + 4) 16)) else none)

/-- Tables 14-4 and 14-5: an audit frame. -/
def State.auditFrame (s : State) (kind flags query commit : Nat) (body : Bytes) : Bytes :=
  be 1 kind ++ be 1 flags ++ be 2 s.own ++ be 4 (s.rd 0x6001_02) ++ be 4 query ++ zeros 4 ++ be 8 commit ++ be 8 (wordCheck (beWords body 0)) ++ body

/-- An audit frame to a replica; none goes while a flush runs (R143), or from a member at its cut (Table 14-7). -/
def State.auditSend (s : State) (dev : Nat) (f : Bytes) : State :=
  match s.replicas.find? (·.1 == dev) with
  | some x => if s.flushing ∨ s.member.cut.isSome then s else
      s.send { stream := s.own % 8, dst := x.2, byAddr := true, port := 45306, dscp := s.rd 0x5000_0E, prio := s.rd 0x5000_0F
               flow := s.rd 0x6001_02 % 2 ^ 20, f := f }
  | none => s

/-- The fields of a frame lie in range, and its field words are canonical (R43). -/
def auditFields (f : Bytes) : Bool :=
  match fld f 0 1 with
  | 0x70 => decide (f.length = 88) && canonical (fld f 32 8) && canonical (fld f 40 8)
  | 0x71 => decide (f.length = 48) && decide (fld f 32 1 ≤ 1) && decide (1 ≤ fld f 33 1) && decide (fld f 33 1 ≤ 64) && decide (1 ≤ fld f 40 4) &&
      decide (1 ≤ fld f 44 4)
  | 0x72 => decide (fld f 32 1 ≤ 1) && decide (1 ≤ fld f 33 1) && decide (fld f 33 1 ≤ 64) && decide (f.length = 48 + 8 * fld f 33 1) &&
      (beWords f 48).all canonical
  | 0x73 => decide (fld f 32 1 ≤ 1) && decide (fld f 33 1 ≤ 2) && decide (f.length = 40 + 8 * elems (fld f 32 1)) &&
      (beWords f 40).all canonical
  | _ => false

/-- R314: the first reason to drop an audit frame: 1 set id, 2 sender, 3 check, 4 a field; 0 none. -/
def State.auditDrop (s : State) (f : Bytes) : Nat :=
  if fld f 4 4 ≠ s.rd 0x6001_02 then 1
  else if ¬ s.replicas.any (·.1 == fld f 2 2) then 2
  else if fld f 24 8 ≠ wordCheck (beWords f 32) then 3
  else if ¬ auditFields f then 4
  else 0

/-- An audit frame that passes R314 is taken; else the drop is counted and reported at most once a second. -/
def State.auditTake (s : State) (f : Bytes) (k : State → State) : State :=
  let why := s.auditDrop f
  if why = 0 then k s else (s.inc 0x8600_07).evSecond 0x6007 (be 2 (fld f 2 2) ++ be 1 (fld f 0 1) ++ be 1 why)

/-! ### Comparison (R315) -/

/-- The own watermarks at the tick that ended b(c). -/
def State.ownWm (s : State) (c : Nat) : Option (Nat × Nat) := (s.audit.own.find? (·.1 == c)).map (·.2)

/-- A watermark frame read. -/
def wmOf (f : Bytes) : WmRec := ⟨fld f 2 2, fld f 16 8, fld f 32 8, fld f 40 8, fld f 48 4, fld f 52 4, slice f 56 32⟩

/-- A replica is comparable: the same settings key and line counts. -/
def State.comparable (s : State) (x : WmRec) : Bool :=
  x.key == s.settingsKey && decide (x.linesW = s.rd 0x3002_06) && decide (x.linesN = s.rd 0x3002_07)

/-- Held frames of a commit from comparable replicas. -/
def State.wmHeld (s : State) (c : Nat) : List WmRec := s.audit.frames.filter (fun x => x.commit == c && s.comparable x)

/-- The spaces in which the held frames of a commit differ from the own values. -/
def State.wmSpaces (s : State) (c : Nat) : List Nat :=
  match s.ownWm c with
  | none => []
  | some (w, n) => (if (s.wmHeld c).any (·.wmW ≠ w) then [0] else []) ++ (if (s.wmHeld c).any (·.wmN ≠ n) then [1] else [])

/-- The lead of a bisection of commit c (R315). -/
def State.wmLead (s : State) (c : Nat) : Nat := minN s.own (s.own :: (s.wmHeld c).map (·.dev))

/-- R315, R316: a bisection is in hand from the first mismatch. -/
def State.pinChains (s : State) (c lead : Nat) : State :=
  if s.audit.bisect.isSome then s else
    (s.modAudit fun a => { a with bisect := some {
      commit := c, lead := lead, parts := [], spaces := [], todo := [], next := [], lines := [], query := none, answers := [], line := none
      lineAns := [], repaired := false, undecided := false } }).wr 0x6001_06 2

/-- R315: one held frame is compared with the own values of its commit. -/
def State.compareWith (s : State) (x : WmRec) : State :=
  match s.ownWm x.commit with
  | none => s
  | some (w, n) =>
    if ¬ s.comparable x then (s.wr 0x6001_06 7).ev 0x6001 (be 2 x.dev ++ be 1 (if x.key = s.settingsKey then 2 else 1))
    else if x.wmW = w ∧ x.wmN = n then (if s.audit.bisect.isSome then s else s.wr 0x6001_06 1)
    else
      let s := if x.wmW = w then s else (s.inc 0x8600_02).ev 0x6002 (be 8 x.commit ++ be 2 x.dev ++ be 1 0)
      let s := if x.wmN = n then s else (s.inc 0x8600_02).ev 0x6002 (be 8 x.commit ++ be 2 x.dev ++ be 1 1)
      s.pinChains x.commit (s.wmLead x.commit)

/-- R315: this member has folded commit c; its frames go, and held ones are compared, at once or when a bisection has ended. -/
def State.compareCommit (s : State) (c : Nat) : State :=
  let every := s.rd 0x6001_03
  if every = 0 ∨ s.replicas.isEmpty ∨ c / max 1 s.deckle % every ≠ 0 then s
  else match s.ownWm c with
    | none => s
    | some (w, n) =>
      let body := be 8 w ++ be 8 n ++ be 4 (s.rd 0x3002_06) ++ be 4 (s.rd 0x3002_07) ++ slice s.settingsKey 0 32
      let s := s.replicas.foldl (fun s x => s.auditSend x.1 (s.auditFrame 0x70 0 0 c body)) s
      let s := (s.modAudit fun a => { a with compared := (c :: a.compared).take 2 }).wr 0x6001_07 c
      let s := s.inc 0x8600_01
      let s := s.modAudit fun a => { a with frames := a.frames.filter (fun x => x.commit ≥ (a.compared.getLastD c)) }
      if s.audit.bisect.isSome then s else (s.audit.frames.filter (·.commit = c)).foldl (fun s x => s.compareWith x) s

/-- R315: a watermark frame arrives. -/
def State.takeWatermark (s : State) (f : Bytes) : State :=
  let x := wmOf f
  let s := s.modAudit fun a => { a with frames := a.frames.filter (fun y => ¬ (y.dev = x.dev ∧ y.commit = x.commit)) ++ [x] }
  if s.audit.compared.contains x.commit ∧ s.audit.bisect.isNone then s.compareWith x else s

/-! ### The lead's bisection (R316, R317) -/

/-- A bisection changed. -/
def State.modBisect (s : State) (f : Bisect → Bisect) : State := s.modAudit fun a => { a with bisect := a.bisect.map f }

/-- R316, R319: a bisection ends; the chains it pinned are released, and the next compared commit is compared. -/
def State.endBisect (s : State) (status : Nat) : State :=
  let c := match s.audit.bisect with | some b => b.commit | none => 0
  let s := ((s.modAudit fun a => { a with bisect := none, waiting := [] }).wr 0x6001_06 status).freeChains
  match s.audit.compared with
  | n :: _ => if n > c then (s.audit.frames.filter (·.commit = n)).foldl (fun s x => s.compareWith x) s else s
  | [] => s

/-- R319: a bisection is abandoned. -/
def State.abandonBisect (s : State) (cause : Nat) : State :=
  match s.audit.bisect with
  | none => s
  | some b => ((s.inc 0x8600_06).ev 0x6006 (be 8 b.commit ++ be 1 cause)).endBisect 6

/-- Table 14-7: a write needs a stall of the delta log, and none is free while chains are pinned: the bisection is abandoned. -/
def State.yieldLog (s : State) : State :=
  if s.couch.waits.any (fun w => w.why == .dlog) then s.abandonBisect 3 else s

/-- The part watermarks of this unit for a query. -/
def State.partsOf (s : State) (c : Nat) (q : Query) : List Nat :=
  (List.range q.parts).map (fun t => s.partWm c q.space (q.first + t * q.per) (min q.per (q.len - t * q.per)))

/-- Table 14-7: the own lines of a range that await repair, or must be repaired before they are read (R295). -/
def State.unreadLines (s : State) (sp first n : Nat) : List Nat :=
  (List.range (min n (s.ownLines sp - first))).filterMap (fun x =>
    match s.lineAddr ⟨s.own, sp, first + x⟩ with
    | some a => if s.unreadable a ∨ (s.repairOf a).isSome then some a else none
    | none => none)

/-- The bisection read joins the repair of each line as a waiter. -/
def State.joinRepairs (s : State) (as : List Nat) : State := as.foldl (fun s a => s.openRepair a 0 ((s.sliceOf a).getD 0) []) s

/-- A query goes to every other participant; one of a single line asks for a Line frame (R318). -/
def State.sendQuery (s : State) (b : Bisect) (q : Query) : State :=
  let body := be 1 q.space ++ be 1 q.parts ++ zeros 2 ++ be 4 q.first ++ be 4 q.len ++ be 4 q.per
  let s := s.modAudit fun a => { a with queries := q.num }
  let s := s.inc 0x8600_03
  (b.parts.filter (· ≠ s.own)).foldl (fun s d => s.auditSend d (s.auditFrame 0x71 0 q.num b.commit body)) s

/-- R317: the bisection goes on: the next line to decide, the next range to ask, the next level, the next space, or its end. -/
def State.bisectNext : Nat → State → State
  | 0, s => s
  | fuel + 1, s =>
    match s.audit.bisect with
    | none => s
    | some b =>
      if b.lead ≠ s.own ∨ b.query.isSome ∨ b.line.isSome then s
      else
        match b.lines, b.todo, b.next, b.spaces with
        | x :: rest, _, _, sp :: _ =>
          let q : Query := ⟨s.audit.queries + 1, sp, x, 1, 1, 1⟩
          let s := s.modBisect fun b => { b with lines := rest, line := some x, lineAns := [] }
          s.sendQuery b q
        | [], (a, len) :: rest, _, sp :: _ =>
          if len = 1 then State.bisectNext fuel (s.modBisect fun b => { b with todo := rest, lines := [a] })
          else
            let n := min 64 len
            let q : Query := ⟨s.audit.queries + 1, sp, a, len, n, ceilDiv len n⟩
            let late := s.unreadLines sp a len
            let own := if late.isEmpty then [(s.own, s.partsOf b.commit q)] else []
            let s := (s.modBisect fun b => { b with todo := rest, query := some q, answers := own }).joinRepairs late
            s.sendQuery b q
        | [], [], y :: ys, _ =>
          if b.next.length > 16 then
            ((s.inc 0x8600_06).ev 0x6005 (be 8 b.commit ++ be 4 b.next.length)).endBisect 5
          else
            let l := y :: ys
            State.bisectNext fuel (s.modBisect fun b => { b with next := [], lines := (l.filter (·.2 = 1)).map (·.1), todo := l.filter (·.2 > 1) })
        | [], [], [], _ :: sp :: more =>
          State.bisectNext fuel (s.modBisect fun b => { b with spaces := sp :: more, todo := [(0, s.ownLines sp)] })
        | _, _, _, _ => s.endBisect (if b.undecided then 4 else if b.repaired then 3 else 1)

/-- R315: the lead begins: the participants are the replicas whose frames it holds. -/
def State.startBisect (s : State) (c : Nat) : State :=
  match s.audit.bisect with
  | none => s
  | some b =>
    let sps := s.wmSpaces c
    if b.commit ≠ c ∨ ¬ b.parts.isEmpty ∨ s.wmLead c ≠ s.own ∨ sps.isEmpty then s
    else
      let parts := s.own :: (s.wmHeld c).map (·.dev)
      State.bisectNext 64 (s.modBisect fun b => { b with lead := s.own, parts := parts, spaces := sps, todo := [(0, s.ownLines (sps.headD 0))] })

/-- R317: every answer of the query in hand is here: parts that differ are suspect. -/
def State.judgeQuery (s : State) : State :=
  match s.audit.bisect with
  | none => s
  | some b =>
    match b.query with
    | none => s
    | some q =>
      if b.parts.any (fun d => ¬ b.answers.any (·.1 == d)) then s
      else
        let ans := b.answers.filter (fun a => b.parts.contains a.1)
        let bad := (List.range q.parts).filterMap (fun t =>
          let size := min q.per (q.len - t * q.per)
          let vs := ans.map (fun a => a.2.getD t 0)
          if size ≠ 0 ∧ vs.any (· ≠ vs.headD 0) then some (q.first + t * q.per, size) else none)
        State.bisectNext 64 (s.modBisect fun b => { b with query := none, answers := [], next := b.next ++ bad })

/-! ### Deciding a line (R318, Table 14-6) -/

/-- 0x6001.08 names a line with its outcome. -/
def State.nameLine (s : State) (sp line c outcome : Nat) : State := s.wrO 0x6001_08 0 (le 1 sp ++ le 1 outcome ++ zeros 2 ++ le 4 line ++ le 8 c)

/-- A repaired line: counted, named and reported. -/
def State.lineRepaired (s : State) (sp line c basis : Nat) : State :=
  (((s.inc 0x8600_04).nameLine sp line c 3).ev 0x6003 (be 1 sp ++ be 4 line ++ be 8 c ++ be 1 basis))

/-- R169, R318: an own line takes the words its own code gives; the parity already reflects them, so nothing is captured. -/
def State.repairOwn (s : State) (sp line : Nat) (img : List Nat) : State :=
  let l : LineId := ⟨s.own, sp, line⟩
  match s.lineAddr l with
  | some a => (((s.mwr a (valsBytes sp (img.map ofField))).touchPage a).rederive l s.stepDone).inc 0x8320_07
  | none => s

/-- R318: this unit's own Line answer: `own` is the line's images as its own code gives them, none where it cannot be solved.
A line that differs is repaired before anything else. -/
def State.ownLine (s : State) (c sp line : Nat) (own : Option (List Nat)) : State × Nat × List Nat :=
  let verdict := match own with
    | none => 2
    | some img => if ¬ s.fnOn .coding then 2 else if img = s.lineImage sp line then 0 else 1
  let s := match own, verdict with
    | some img, 1 => (s.repairOwn sp line img).lineRepaired sp line c 0
    | _, _ => s
  (s, verdict, (s.lineAt_ c sp line).map toField)

/-- R318: the correction of an own line is written: what it adds goes into the current words, captured as a pass write, and clamped
or saturated as every write of the Vedel is (R36, R39). -/
def State.writeFix (s : State) (x : Fix) (a : Nat) : State :=
  let l : LineId := ⟨s.own, x.space, x.line⟩
  let now := s.lineVals x.space a
  let fix (v : Int) : Int := if x.space = 0 then clamp60 v else if s.isU32 a then (pat 32 v : Int) else sat31 v
  let raw := (List.range now.length).map (fun i => now.getD i 0 + x.add.getD i 0)
  let new := raw.map fix
  let cut := if x.space ≠ 0 ∧ s.isU32 a then 0 else (raw.filter (fun v => fix v ≠ v)).length
  let tid := (s.pass.mould.bind (fun m => m.tidAt a)).getD 0
  let s := if x.space = 0 then (s.incBy 0x8200_01 cut).tally 0x2001 tid cut else (s.incBy 0x8200_02 cut).tally 0x2004 tid cut
  ((s.passWrite a (valsBytes x.space new)).rederive l s.stepDone).lineRepaired x.space x.line x.commit 1

/-- A correction in hand is written once its line may be: it takes the lock of R70 as a pass write does, and waits as one does. -/
def State.tryFix (s : State) (x : Fix) : State :=
  let keep (s : State) : State := s.modAudit fun u => { u with fixes := u.fixes ++ [x] }
  match s.lineAddr ⟨s.own, x.space, x.line⟩ with
  | none => s
  | some a =>
    if s.writesFail then keep s
    else match s.linesHeld [a] with
      | some s => keep s
      | none =>
        let t := s.writeFix x a
        if t.dlogFits ((s.sliceOf a).getD 0) then t else keep (s.holdAt a ((s.sliceOf a).getD 0) .dlog)

/-- The corrections held are tried again, in their order. -/
def State.tryFixes (s : State) : State := s.audit.fixes.foldl State.tryFix (s.modAudit fun u => { u with fixes := [] })

/-- R318: the correction of an own line is ordered: the majority value less the own value at c is to be added to its words. -/
def State.correctLine (s : State) (c sp line : Nat) (img : List Nat) : State :=
  let at_ := s.lineAt_ c sp line
  s.tryFix ⟨sp, line, c, (List.range at_.length).map (fun i => ofField (img.getD i 0) - at_.getD i 0)⟩

/-- Table 14-6: the line is decided once every participant has answered. -/
def State.decideLine (s : State) : State :=
  match s.audit.bisect with
  | none => s
  | some b =>
    match b.line, b.spaces with
    | some line, sp :: _ =>
      if b.parts.any (fun d => ¬ b.lineAns.any (·.dev == d)) then s
      else
        let ans := b.lineAns.filter (fun a => b.parts.contains a.dev)
        let vals := ans.map (·.vals)
        let count (v : List Nat) : Nat := (vals.filter (· = v)).length
        let major := vals.find? (fun v => decide (ans.length ≥ 3) && decide (2 * count v > ans.length))
        let s := s.modBisect fun b => { b with line := none, lineAns := [], repaired := b.repaired || ans.any (·.verdict == 1) }
        let s := if vals.all (fun v => v = vals.headD []) then s
          else match major with
            | some v =>
              let s := s.modBisect fun b => { b with repaired := true }
              let body := be 1 sp ++ be 1 0 ++ zeros 2 ++ be 4 line ++ (v.map (be 8)).flatten
              (ans.filter (fun a => a.vals ≠ v)).foldl (fun s a =>
                if a.dev = s.own then s.correctLine b.commit sp line v
                else s.auditSend a.dev (s.auditFrame 0x73 1 s.audit.queries b.commit body)) s
            | none =>
              (((s.modBisect fun b => { b with undecided := true }).inc 0x8600_05).nameLine sp line b.commit 4).ev 0x6004
                (be 1 sp ++ be 4 line ++ be 8 b.commit)
        State.bisectNext 64 s
    | _, _ => s

/-- R317, R318: the answer of a member to a query. -/
def State.answerQuery (s : State) (f : Bytes) (own : Option (List Nat)) : State :=
  let c := fld f 16 8
  let q : Query := ⟨fld f 8 4, fld f 32 1, fld f 36 4, fld f 40 4, fld f 33 1, fld f 44 4⟩
  let lead := fld f 2 2
  if q.len = 1 then
    let (s, verdict, img) := s.ownLine c q.space q.first own
    s.auditSend lead (s.auditFrame 0x73 0 q.num c (be 1 q.space ++ be 1 verdict ++ zeros 2 ++ be 4 q.first ++ (img.map (be 8)).flatten))
  else
    let body := slice f 32 2 ++ zeros 2 ++ slice f 36 12 ++ ((s.partsOf c q).map (be 8)).flatten
    s.auditSend lead (s.auditFrame 0x72 0 q.num c body)

/-- R317, R318: a query arrives at a member, which keeps its values for its last two compared commits (R315). Lines under repair are
waited for (Table 14-7). -/
def State.takeQuery (s : State) (f : Bytes) (own : Option (List Nat)) : State :=
  let c := fld f 16 8
  if s.member.cut.isSome ∨ ¬ s.audit.compared.contains c then s
  else
    let s := (s.pinChains c (fld f 2 2)).inc 0x8600_03
    match s.unreadLines (fld f 32 1) (fld f 36 4) (fld f 40 4) with
    | [] => s.answerQuery f own
    | as => (s.joinRepairs as).modAudit fun a => { a with waiting := a.waiting ++ [(f, own)] }

/-- R317: an answer arrives at the lead. -/
def State.takeBisectAnswer (s : State) (f : Bytes) : State :=
  match s.audit.bisect with
  | none => s
  | some b =>
    match b.query with
    | none => s
    | some q =>
      if q.num ≠ fld f 8 4 ∨ b.commit ≠ fld f 16 8 ∨ ¬ b.parts.contains (fld f 2 2) ∨ fld f 33 1 ≠ q.parts ∨ b.answers.any (·.1 == fld f 2 2) then s
      else (s.modBisect fun b => { b with answers := b.answers ++ [(fld f 2 2, beWords f 48)] }).judgeQuery

/-- R317: a member that has not answered is left out; with fewer than two left the bisection is abandoned, with a cause that no
rule states. -/
def State.dropAnswer (s : State) (dev : Nat) : State :=
  match s.audit.bisect with
  | none => s
  | some b =>
    let late : Bool := b.parts.contains dev && dev != s.own &&
      ((b.query.isSome && !(b.answers.any (·.1 == dev))) || (b.line.isSome && !(b.lineAns.any (·.dev == dev))))
    if ¬ late ∨ b.lead ≠ s.own then s
    else
      let s := s.modBisect fun b => { b with parts := b.parts.filter (· ≠ dev) }
      if b.parts.length ≤ 2 then
        let (v, s) := s.draw
        s.abandonBisect (v % 256)
      else (s.judgeQuery).decideLine

/-- R318: a Line frame: an order at a member of the minority, or a verdict at the lead; `own` is what the lead's own code gives
for the line in hand. -/
def State.takeLine (s : State) (f : Bytes) (own : Option (List Nat)) : State :=
  let c := fld f 16 8
  if (fld f 1 1).testBit 0 then
    match s.audit.bisect with
    | some b => if b.commit = c ∧ b.lead = fld f 2 2 then s.correctLine c (fld f 32 1) (fld f 36 4) (beWords f 40) else s
    | none => s
  else
    match s.audit.bisect with
    | none => s
    | some b =>
      if b.line ≠ some (fld f 36 4) ∨ b.spaces.head? ≠ some (fld f 32 1) ∨ fld f 8 4 ≠ s.audit.queries ∨ b.commit ≠ c ∨ ¬ b.parts.contains (fld f 2 2) ∨ b.lineAns.any (·.dev == fld f 2 2) then s
      else
        let s := if b.lineAns.any (·.dev == s.own) ∨ ¬ (s.unreadLines (fld f 32 1) (fld f 36 4) 1).isEmpty then s
          else
            let (s, v, img) := s.ownLine c (fld f 32 1) (fld f 36 4) own
            s.modBisect fun b => { b with lineAns := b.lineAns ++ [⟨s.own, v, img⟩] }
        (s.modBisect fun b => { b with lineAns := b.lineAns ++ [⟨fld f 2 2, fld f 33 1, beWords f 40⟩] }).decideLine

/-- Table 14-7: the reads of a bisection that waited for repairs are made once their lines can be read. -/
def State.askWaiting (s : State) : State :=
  let s := s.audit.waiting.foldl (fun s x =>
    if (s.unreadLines (fld x.1 32 1) (fld x.1 36 4) (fld x.1 40 4)).isEmpty then s.answerQuery x.1 x.2
    else s.modAudit fun a => { a with waiting := a.waiting ++ [x] }) (s.modAudit fun a => { a with waiting := [] })
  match s.audit.bisect with
  | none => s
  | some b =>
    match b.query, b.line, b.spaces with
    | some q, _, _ =>
      if b.answers.any (·.1 == s.own) ∨ ¬ (s.unreadLines q.space q.first q.len).isEmpty then s
      else (s.modBisect fun b => { b with answers := b.answers ++ [(s.own, s.partsOf b.commit q)] }).judgeQuery
    | none, some line, sp :: _ =>
      if b.lineAns.isEmpty ∨ b.lineAns.any (·.dev == s.own) ∨ ¬ (s.unreadLines sp line 1).isEmpty then s
      else
        let (s, v, img) := s.ownLine b.commit sp line (some (s.lineImage sp line))
        (s.modBisect fun b => { b with lineAns := b.lineAns ++ [⟨s.own, v, img⟩] }).decideLine
    | _, _, _ => s

/-! ### The job key and stream queries (R303, R305, R306) -/

/-- R306: a stream query; 16 bytes. -/
def State.askStream (s : State) (b : Bytes) : Nat × State :=
  let st := fldLe b 0 8
  let i := fldLe b 8 4
  let sigma := fldLe b 12 4
  if sigma > 1 ∨ (sigma = 1 ∧ i % 4 = 3) then (14, s)
  else if ¬ s.audit.keyed then (13, s)
  else
    let a := if sigma = 0 then slice (seedOf s.jobKey st i) 0 16 ++ zeros 16 else slice (roundingKey s.jobKey (i / 4) (i % 4) st) 0 32
    (0, (s.wrO 0x6002_02 0 a).inc 0x8600_08)

/-- R303: the job key is written; coding is OFF, as the common rules have checked (R325). -/
def State.takeJobKey (s : State) (b : Bytes) : Nat × State :=
  let s := s.modAudit fun a => { a with key := beNat (slice b 0 32), keyed := true }
  (0, ((s.wr 0x6000_02 (keyCheck s.jobKey)).wr 0x6000_08 1).refreshSettings)

end Sys2Proof.Machine
end

