-- ==== Sys2Proof/Machine/ExchangeOps.lean ====
section
/-!
DEFINITION. The shared operations of exchange between sites: the compression of a block, payloads and packets, the sweep,
rounds and manifests (11_site_exchange.md).
-/

namespace Sys2Proof.Machine

/-- The exchange record changed by f. -/
def State.modExch (s : State) (f : Exch → Exch) : State := { s with exch := f s.exch }

/-! ### The group (R240) -/

/-- The sites in use of 0x4201.02: id and prefix. -/
def State.sites (s : State) : List (Nat × Nat) :=
  (List.range 32).filterMap (fun i =>
    if bit (s.ofld 0x4201_02 (20 * i + 2) 2) 0 then some (s.ofld 0x4201_02 (20 * i) 2, beNat (s.octs 0x4201_02 (20 * i + 4) 16)) else none)

/-- The own site id. -/
def State.site (s : State) : Nat := s.rd 0x4200_01

/-- The coordinator: the lowest site id of the table. -/
def State.coordinator (s : State) : Nat := minN 0xFFFF (s.sites.map (·.1))

/-- A long-haul frame to the peer of a shard at a site (R247); none goes while a flush runs (R143). -/
def State.haul (s : State) (site shard : Nat) (f : Bytes) : State :=
  match s.sites.find? (·.1 == site) with
  | some x => if s.flushing then s else
      s.send { stream := shard % 8, dst := withLow x.2 shard, byAddr := true, port := 45306, dscp := s.rd 0x4200_0E, prio := s.rd 0x4200_0F
               flow := shard, f := f }
  | none => s

/-- A long-haul frame to the peers of a shard at every other site. -/
def State.haulAll (s : State) (shard : Nat) (f : Bytes) : State :=
  (s.sites.filter (fun x => x.1 ≠ s.site)).foldl (fun s x => s.haul x.1 shard f) s

/-! ### The compression of a block (R244) -/

/-- Sylvester's order: the sign of element (n, j). -/
def walsh (n j : Nat) : Int := if popcount (n &&& j) 10 % 2 = 1 then -1 else 1

/-- A shift left, or a rounding shift right. -/
def shiftB (x n : Int) : Int := if n ≥ 0 then x * 2 ^ n.toNat else roundShift x (-n).toNat 0 0

/-- A value cut to b bits of magnitude. -/
def clampB (x : Int) (b : Nat) : Int := clampI (-(2 ^ b - 1)) (2 ^ b - 1) x

/-- The compressed form of a block: sD, sP, the columns, Ph as 64 rows, Rh as 64 rows of 1,024. -/
structure Packed where
  sD : Int
  sP : Int
  qR : Nat
  cols : List Nat
  ph : List (List Int)
  rh : List (List Int)
deriving DecidableEq, Repr

/-- Element (i, j) of a matrix. -/
def mat (a : List (List Int)) (i j : Nat) : Int := (a.getD i []).getD j 0

/-- R244 rebuild: the low-rank part. -/
def rebuildA (ph : List (List Int)) (cols : List Nat) (sP sD : Int) : List (List Int) :=
  (List.range 64).map (fun i => (List.range 1024).map (fun j =>
    shiftB (sumI ((List.range cols.length).map (fun t => mat ph i t * walsh (cols.getD t 0) j))) (sP + sD - 10)))

/-- The scale of the largest of some values over 15 bits. -/
def scaleOf (vs : List Int) : Int := max 0 ((bitLength (maxN (vs.map mag)) : Int) - 15)

/-- R244: what a block's packed form carries, C. -/
def Packed.carried (p : Packed) : List (List Int) :=
  let a := rebuildA p.ph p.cols p.sP p.sD
  (List.range 64).map (fun i => (List.range 1024).map (fun j => mat a i j + mat p.rh i j * 2 ^ (p.sD + p.qR).toNat))

/-- R244 compress. -/
def compressBlock (d : List (List Int)) (r qR : Nat) : Packed :=
  let sD := scaleOf d.flatten
  let dq := d.map (·.map (fun v => clampB (shiftB v (-sD)) 15))
  let p := (List.range 64).map (fun i => (List.range 1024).map (fun j => sumI ((List.range 1024).map (fun n => mat dq i n * walsh n j))))
  let energy := (List.range 1024).map (fun j => sumI ((List.range 64).map (fun i => mat p i j * mat p i j)))
  let ranked := (List.range 1024).mergeSort (fun a b => energy.getD a 0 > energy.getD b 0 || (energy.getD a 0 == energy.getD b 0 && decide (a ≤ b)))
  let cols := sortNat (ranked.take r)
  let kept := (List.range 64).map (fun i => cols.map (fun j => mat p i j))
  let sP := scaleOf kept.flatten
  let ph := kept.map (·.map (fun v => clampB (shiftB v (-sP)) 15))
  let a := rebuildA ph cols sP sD
  let rh := (List.range 64).map (fun i => (List.range 1024).map (fun j => clampB (shiftB (mat d i j - mat a i j) (-(sD + qR))) 7))
  ⟨sD, sP, qR, cols, ph, rh⟩

/-! ### Payloads (R246, Table 11-3) -/

/-- The remainder lines of a packed block. -/
def Packed.lines (p : Packed) : List (List Int) := (List.range 2048).map (fun b => ((p.rh.getD (b / 32) []).drop (32 * (b % 32))).take 32)

/-- The payload of a block. -/
def Packed.bytes (p : Packed) : Bytes :=
  let ls := p.lines
  let present := ls.map (fun l => l.any (· ≠ 0))
  let bitmap := (List.range 256).map (fun k => BitVec.ofNat 8 (sumN ((List.range 8).map (fun b => if present.getD (8 * k + b) false then 2 ^ b else 0))))
  be 1 p.sD.toNat ++ be 1 p.sP.toNat ++ be 1 p.cols.length ++ be 1 p.qR ++ zeros 4 ++ (p.cols.map (be 2)).flatten ++
    (p.ph.flatten.map (fun v => be 2 (pat 16 v))).flatten ++ bitmap ++ ((ls.filter (fun l => l.any (· ≠ 0))).map packLine).flatten

/-- The remainder lines read from the packed area. -/
def readLines (present : List Bool) (bs : Bytes) : List (List Int) :=
  (present.foldl (fun (a : List (List Int) × Bytes) p =>
    if p then match unpackLine 32 a.2 with
      | some (l, rest) => (a.1 ++ [l], rest)
      | none => (a.1 ++ [List.replicate 32 0], [])
    else (a.1 ++ [List.replicate 32 0], a.2)) ([], bs)).1

/-- A payload read back. -/
def Packed.read (f : Bytes) : Packed :=
  let r := fld f 2 1
  let cols := (List.range r).map (fun i => fld f (8 + 2 * i) 2)
  let o := 8 + 2 * r
  let ph := (List.range 64).map (fun i => (List.range r).map (fun t => sgn 16 (fld f (o + 2 * (r * i + t)) 2)))
  let o := o + 128 * r
  let present := (List.range 2048).map (fun b => (fld f (o + b / 8) 1).testBit (b % 8))
  let ls := readLines present (f.drop (o + 256))
  ⟨(fld f 0 1 : Nat), (fld f 1 1 : Nat), fld f 3 1, cols, ph, (List.range 64).map (fun i => ((ls.drop (32 * i)).take 32).flatten)⟩

/-! ### Packets (R247) -/

/-- The symbols of a payload: 7 bytes each, padded with zero bytes. -/
def symbols (bs : Bytes) : List Nat := (chunks 7 (padTo 7 bs).length (padTo 7 bs)).map beNat

/-- Symbols a packet carries at most. -/
def State.nSym (s : State) : Nat := (s.rd 0x4200_09 - 64) / 8

/-- A list cut into pieces of n. -/
def piecesOf {α : Type} (n : Nat) (l : List α) : List (List α) := (List.range (ceilDiv l.length (max 1 n))).map (fun i => (l.drop (max 1 n * i)).take (max 1 n))

/-- The data packets of a payload, in sets. -/
def State.xSets (s : State) (bs : Bytes) : List (List (List Nat)) := piecesOf (s.rd 0x4200_07) (piecesOf s.nSym (symbols bs))

/-- Parity packet j of a set. -/
def parityPacket (data : List (List Nat)) (j : Nat) : List Nat :=
  (List.range (maxN (data.map (·.length)))).map (fun e =>
    parityElement j ((List.range data.length).map (fun i => (i, (data.getD i []).getD e 0))))

/-- Table 11-4: a packet. -/
def State.packet (s : State) (flags site shard round block len set idx k m : Nat) (syms : List Nat) : Bytes :=
  let check := (List.range syms.length).foldl (fun acc e => addP acc (rotmul (syms.getD e 0 % p61) (e % 61))) 0
  let w := if flags.testBit 0 then 8 else 7
  be 1 0x50 ++ be 1 flags ++ be 2 site ++ be 2 shard ++ zeros 2 ++ be 8 s.job ++ be 4 round ++ be 4 block ++ be 4 len ++ be 2 set ++ be 1 idx ++
    be 1 k ++ be 1 m ++ zeros 1 ++ be 2 syms.length ++ zeros 4 ++ be 8 check ++ zeros 16 ++ (syms.map (be w)).flatten

/-- R247: the packets of a payload to the peers of a shard, or to one site's; returned bytes and packets are counted by the caller. -/
def State.packets (s : State) (flags site shard round block : Nat) (bs : Bytes) : List Bytes :=
  let sets := s.xSets bs
  ((List.range sets.length).map (fun t =>
    let data := sets.getD t []
    let k := data.length
    let m := s.rd 0x4200_08
    (List.range k).map (fun i => s.packet flags site shard round block bs.length t i k m (data.getD i [])) ++
      (List.range m).map (fun j => s.packet (flags + 1) site shard round block bs.length t (k + j) k m (parityPacket data j)))).flatten

/-! ### The contributions held (R248, R249) -/

/-- A payload held. -/
def State.payOf (s : State) (anchor : Bool) (site shard round block : Nat) : Option Bytes :=
  (s.exch.pays.find? (fun p => p.anchor == anchor && p.site == site && p.shard == shard && p.round == round && p.block == block)).map (·.bytes)

/-- The blocks of a shard. -/
def State.xCount (s : State) : Nat := (s.xBlocks.filter (·.1 == s.own)).length

/-- Every block of a contribution is held. -/
def State.holdsAll (s : State) (site shard round : Nat) : Bool :=
  (List.range s.xCount).all (fun b => (s.payOf false site shard round b).isSome)

/-- R249: the contribution digest of a shard whose blocks are all held. -/
def State.shardDigest (s : State) (site shard round : Nat) : Bytes :=
  sha256 (((List.range s.xCount).map (fun b => (s.payOf false site shard round b).getD [])).flatten)

/-- A payload joins those held, in place of an earlier one. -/
def State.putPay (s : State) (p : XPay) : State :=
  s.modExch fun x => { x with pays := x.pays.filter (fun q => ¬ (q.anchor = p.anchor ∧ q.site = p.site ∧ q.shard = p.shard ∧ q.round = p.round ∧ q.block = p.block)) ++ [p] }

/-- The contribution of a summary joins the lead's list (R249), at the lead itself or by a frame. -/
def State.tellLead (s : State) (x : XSum) : State :=
  if s.exch.told.contains (x.site, x.shard, x.round) then s
  else
    let s := s.modExch fun e => { e with told := (x.site, x.shard, x.round) :: e.told }
    if s.leadOf = s.own then s.modExch fun e => { e with comps := e.comps ++ [x] }
    else s.sendMember s.leadOf (s.header 0x56 0 ++ be 2 x.site ++ be 4 x.round ++ be 2 x.shard ++ slice x.cd 0 32 ++ slice x.pd 0 32)

/-- R249: a peer's contribution whose blocks and matching summary are held is complete. -/
def State.tryComplete (s : State) (site shard round : Nat) : State :=
  match s.exch.sums.find? (fun x => x.site == site && x.shard == shard && x.round == round) with
  | some x =>
    if s.exch.told.contains (site, shard, round) ∨ ¬ s.holdsAll site shard round ∨ s.shardDigest site shard round ≠ x.cd then s
    else (s.tellLead x).inc 0x8420_07
  | none => s

/-! ### Receiving packets (R248) -/

/-- A malformed long-haul frame: dropped, counted and reported. -/
def State.xDrop (s : State) (origin kind reason : Nat) : State := (s.inc 0x8420_0C).evHub 0x420A (be 2 origin ++ be 1 kind ++ be 1 reason)

/-- A repair request of the data indices wanted (Table 11-5, kind 0x52). -/
def State.askRepair (s : State) (site shard round block set bitmap : Nat) : State :=
  let s := (s.inc 0x8420_05).evHub 0x4204 (be 2 site ++ be 4 round ++ be 4 block ++ be 2 set)
  s.haul site shard (s.header 0x52 0 ++ be 2 site ++ be 2 shard ++ be 4 round ++ be 4 block ++ be 2 set ++ be 4 bitmap)

/-- The data symbols of a set from k' of its packets (R167, R247); none when a decoded data symbol is too large. -/
def XSet.decode (t : XSet) (nSym total : Nat) (first : Nat) : Option (List Nat) :=
  let size (i : Nat) : Nat := min nSym (total - nSym * (first + i))
  let have_ := t.packets.filter (·.1 < t.k)
  let lost := (List.range t.k).filter (fun i => ¬ have_.any (·.1 == i))
  let par := (t.packets.filter (·.1 ≥ t.k)).take lost.length
  let wide := maxN ((List.range t.k).map size)
  let got (e : Nat) : List Nat :=
    rebuildElement lost (have_.map (fun p => (p.1, p.2.getD e 0))) (par.map (fun p => (p.1 - t.k, p.2.getD e 0)))
  let sol := (List.range wide).map got
  let packetOf (i : Nat) : List Nat :=
    match have_.find? (·.1 == i) with
    | some p => p.2.take (size i)
    | none =>
      let pos := (lost.findIdx? (· == i)).getD 0
      (List.range (size i)).map (fun e => (sol.getD e []).getD pos 0)
  let all := ((List.range t.k).map packetOf).flatten
  if all.all (· < 2 ^ 56) then some all else none

/-- A set of the list replaced. -/
def State.putSet (s : State) (t : XSet) : State :=
  s.modExch fun x => { x with sets := x.sets.filter (fun q => ¬ (q.anchor = t.anchor ∧ q.site = t.site ∧ q.shard = t.shard ∧ q.round = t.round ∧
    q.block = t.block ∧ q.set = t.set)) ++ [t] }

/-- Every set of a block is decoded: its payload is whole. -/
def State.joinSets (s : State) (t : XSet) : State :=
  let mine := s.exch.sets.filter (fun q => q.anchor == t.anchor && q.site == t.site && q.shard == t.shard && q.round == t.round && q.block == t.block)
  let total := ceilDiv t.len 7
  let n := ceilDiv (ceilDiv total (max 1 s.nSym)) (max 1 (s.rd 0x4200_07))
  let parts := (List.range n).map (fun i => (mine.find? (·.set == i)).bind (·.data))
  if parts.all (·.isSome) then
    let bs := (((parts.map (·.getD [])).flatten).map (be 7)).flatten
    let s := s.modExch fun x => { x with sets := x.sets.filter (fun q => ¬ (q.anchor = t.anchor ∧ q.site = t.site ∧ q.shard = t.shard ∧ q.round = t.round ∧ q.block = t.block)) }
    let s := s.putPay ⟨t.anchor, t.site, t.shard, t.round, t.block, bs.take t.len⟩
    if t.anchor then s else s.tryComplete t.site t.shard t.round
  else s

/-- R248: the first check that a packet fails, 0 for none. DEDUCED: to a joiner that has its answer the current round is at least the one
it joins at, or no anchor would be taken (R256; assumption log). -/
def State.packetDrop (s : State) (f : Bytes) : Nat :=
  let parity := (fld f 1 1).testBit 0
  let n := fld f 34 2
  let w := if parity then 8 else 7
  let syms := (List.range n).map (fun e => fld f (64 + w * e) w)
  let round := fld f 16 4
  let cur := match s.exch.joined with
    | some j => if s.rd 0x4200_14 = 1 then max (s.rd 0x4200_13) j.1 else s.rd 0x4200_13
    | none => s.rd 0x4200_13
  if fld f 8 8 ≠ s.job then 1
  else if ¬ s.sites.any (·.1 == fld f 2 2) then 2
  else if ¬ s.xShards.contains (fld f 4 2) then 3
  else if round + s.rd 0x4200_06 + 1 < cur ∨ round > cur + 1 then 4
  else if n > s.nSym ∨ f.length ≠ 64 + w * n then 5
  else if syms.any (fun y => ¬ canonical y) then 6
  else if fld f 40 8 ≠ (List.range n).foldl (fun acc e => addP acc (rotmul (syms.getD e 0) (e % 61))) 0 then 7
  else 0

/-- R248: a packet is taken. -/
def State.takePacket (s : State) (f : Bytes) : State :=
  let why := s.packetDrop f
  if why ≠ 0 then s.xDrop (fld f 2 2) 0x50 why
  else
    let anchor := (fld f 1 1).testBit 1
    let w := if (fld f 1 1).testBit 0 then 8 else 7
    let syms := (List.range (fld f 34 2)).map (fun e => fld f (64 + w * e) w)
    let key : XSet := ⟨anchor, fld f 2 2, fld f 4 2, fld f 16 4, fld f 20 4, fld f 24 4, fld f 28 2, fld f 31 1, fld f 32 1, [], none⟩
    let t := (s.exch.sets.find? (fun q => q.anchor == key.anchor && q.site == key.site && q.shard == key.shard && q.round == key.round &&
      q.block == key.block && q.set == key.set)).getD key
    let n := s.blockSlice key.block
    if (s.payOf anchor key.site key.shard key.round key.block).isSome ∨ t.data.isSome ∨ t.packets.any (·.1 == fld f 30 1) then s
    else if s.xUsed n + 8 * syms.length > 4096 * s.rd 0x4200_10 then (s.inc 0x8420_0D).evHub 0x420B (be 1 n)
    else
      let t := { t with packets := t.packets ++ [(fld f 30 1, syms)] }
      if t.packets.length < t.k then s.putSet t
      else
        match t.decode s.nSym (ceilDiv t.len 7) (t.set * s.rd 0x4200_07) with
        | some d =>
          let s := if t.packets.any (·.1 ≥ t.k) then s.inc 0x8420_04 else s
          let t := { t with data := some d, packets := [] }
          (s.putSet t).joinSets t
        | none => (s.putSet { t with packets := [] }).evHub 0x4204 (be 2 t.site ++ be 4 t.round ++ be 4 t.block ++ be 2 t.set)

/-- R248: the origin answers a repair request from what it retains; a lost shard's stand-in answers for it. -/
def State.answerRepair (s : State) (f : Bytes) (toSite : Nat) : State :=
  let shard := fld f 18 2
  match s.payOf false (fld f 16 2) shard (fld f 20 4) (fld f 24 4) with
  | some bs =>
    let data := (s.xSets bs).getD (fld f 28 2) []
    let want := (List.range data.length).filter (fun i => (fld f 30 4).testBit i)
    let s := s.inc 0x8420_06
    want.foldl (fun s i => s.haul toSite shard
      (s.packet 4 (fld f 16 2) shard (fld f 20 4) (fld f 24 4) bs.length (fld f 28 2) i data.length (s.rd 0x4200_08) (data.getD i []))) s
  | none => s

/-! ### Manifests (R250, R251) -/

/-- An entry of a manifest (Table 11-6). -/
structure MEntry where
  site : Nat
  late : Nat
  round : Nat
deriving DecidableEq, Repr

/-- The entries of a manifest. -/
def manifestEntries (f : Bytes) : List MEntry :=
  (List.range (fld f 18 2)).map (fun i => ⟨fld f (64 + 80 * i) 2, fld f (66 + 80 * i) 1, fld f (68 + 80 * i) 4⟩)

/-- The digest of a manifest. -/
def manifestDigest (f : Bytes) : Bytes := slice f (64 + 80 * fld f 18 2) 32

/-- The manifest of a round, when held. -/
def State.manifestOf (s : State) (k : Nat) : Option Bytes := s.exch.manifests.find? (fun f => fld f 20 4 == k)

/-- Contributions that a manifest names and of which this unit lacks blocks. -/
def State.lacking (s : State) (f : Bytes) : List (MEntry × Nat) :=
  ((manifestEntries f).map (fun e => (s.xShards.filter (fun sh => ¬ s.holdsAll e.site sh e.round)).map (fun sh => (e, sh)))).flatten

/-- R251: repair requests for the blocks of named contributions that are lacking. -/
def State.askLacking (s : State) (f : Bytes) : State :=
  (s.lacking f).foldl (fun s x =>
    ((List.range s.xCount).filter (fun b => (s.payOf false x.1.site x.2 x.1.round b).isNone)).foldl (fun s b =>
      s.askRepair x.1.site x.2 x.1.round b 0 (2 ^ s.rd 0x4200_07 - 1)) s) s

/-- R251: whether a manifest is accepted. -/
def State.manifestOk (s : State) (f : Bytes) : Bool :=
  let k := fld f 20 4
  let n := fld f 18 2
  let prev := slice f 32 32
  let chain : Bool := match s.manifestOf (k - 1) with
    | some p => decide (k ≥ 1) && prev == manifestDigest p
    | none => match s.exch.joined with
      | some j => (j.1 == k || j.1 == k + 1) && prev == j.2
      | none => s.exch.manifests.isEmpty && prev == zeros 32
  fld f 8 8 == s.job && fld f 16 2 == s.coordinator && decide (n ≤ 96) && decide (f.length = 96 + 80 * n) &&
    sha256 (f.take (64 + 80 * n)) == manifestDigest f && (s.manifestOf k).isNone && chain

/-- R251: a manifest joins the last 8; a coordinator's member passes its lead's manifest on to its peers. -/
def State.keepManifest (s : State) (f : Bytes) : State :=
  let k := fld f 20 4
  let s := s.modExch fun x => { x with manifests := (f :: x.manifests).take 8, included := x.included ++ (manifestEntries f).map (fun e => (e.site, e.round)) }
  let s := s.wrO 0x4202_01 (8192 * (k % 8)) (f ++ zeros (8192 - f.length))
  let s := s.wrO 0x4202_02 0 (manifestDigest f)
  let s := if s.site = s.coordinator then s.xShards.foldl (fun s sh => s.haulAll sh f) s else s
  s.askLacking f

/-- R251: a manifest frame arrives. -/
def State.takeManifest (s : State) (f : Bytes) : State := if s.manifestOk f then s.keepManifest f else s

/-- The shards of a site's job, as the lead knows them. -/
def State.shardIds (s : State) : List Nat := sortNat (s.member.shards.map (·.2.1))

/-- A site's contribution of a round is complete at this lead (R249). -/
def State.siteComplete (s : State) (site round : Nat) : Bool :=
  s.shardIds.all (fun sh => s.exch.comps.any (fun x => x.site == site && x.round == round && x.shard == sh))

/-- A digest over a site's shard digests, in ascending shard id. -/
def State.siteDigest (s : State) (site round : Nat) (f : XSum → Bytes) : Bytes :=
  sha256 ((s.shardIds.map (fun sh => ((s.exch.comps.find? (fun x => x.site == site && x.round == round && x.shard == sh)).map f).getD (zeros 32))).flatten)

/-- R250, Table 11-6: the manifest of round k, with the contributions that it includes. -/
def State.makeManifest (s : State) (k : Nat) : Bytes :=
  let lim := s.rd 0x4200_06
  let rounds := (List.range (lim + 1)).filterMap (fun i => if lim - i ≤ k then some (k - (lim - i)) else none)
  let es := ((sortNat (s.sites.map (·.1))).map (fun x => (rounds.filter (fun j => s.siteComplete x j ∧ ¬ s.exch.included.contains (x, j))).map (fun j => (x, j)))).flatten
  let prev := match s.exch.manifests with | f :: _ => manifestDigest f | [] => zeros 32
  let entry (e : Nat × Nat) : Bytes :=
    be 2 e.1 ++ be 1 (k - e.2) ++ zeros 1 ++ be 4 e.2 ++ be 4 s.xCount ++ zeros 4 ++ s.siteDigest e.1 e.2 (·.cd) ++ s.siteDigest e.1 e.2 (·.pd)
  let body := s.header 0x51 0 ++ be 2 s.site ++ be 2 es.length ++ be 4 k ++ be 8 s.now ++ slice prev 0 32 ++ (es.map entry).flatten
  body ++ sha256 body

/-- R250: contributions that can no longer be included are counted and reported. -/
def State.countLate (s : State) (k : Nat) : State :=
  let j := k - s.rd 0x4200_06
  if k < s.rd 0x4200_06 ∨ j = 0 then s else
    (s.sites.filter (fun x => ¬ s.exch.included.contains (x.1, j) ∧
        (s.exch.comps.any (fun c => c.site == x.1 && c.round == j) || s.exch.sums.any (fun c => c.site == x.1 && c.round == j) ||
          s.exch.pays.any (fun p => p.site == x.1 && p.round == j)))).foldl (fun s x =>
      (s.inc 0x8420_08).evHub 0x4205 (be 2 x.1 ++ be 4 j)) s

/-- R250: the coordinator's lead closes round k. -/
def State.closeRound (s : State) (k : Nat) : State :=
  if s.site ≠ s.coordinator ∨ s.leadOf ≠ s.own ∨ s.rd 0x4200_13 < k ∨ (s.manifestOf k).isSome then s
  else
    let f := s.makeManifest k
    let s := (s.member.members.filter (· ≠ s.own)).foldl (fun s d => s.sendMember d f) s
    (s.keepManifest f).countLate k

/-! ### The sweep (R243 to R245, R252 to R254, R256) -/

/-- R252 div_rne. -/
def divRne (n : Int) (d : Int) : Int :=
  let q := n / d
  let r := n - q * d
  if 2 * r > d ∨ (2 * r = d ∧ q % 2 = 1) then q + 1 else q

/-- R252: the merged difference of one element, from (lateness, C) of every entry. -/
def mergedDelta (es : List (Nat × Int)) (eta : Nat) : Int :=
  if es.isEmpty then 0
  else
    let num := sumI (es.map (fun e => ((256 / 2 ^ e.1 : Nat) : Int) * e.2))
    let den : Int := 65536 * ((sumN (es.map (fun e => 256 / 2 ^ e.1)) : Nat) : Int)
    divRne (num * (eta : Int)) den

/-- What a block needs of the round before: none when nothing is to be applied; the manifest otherwise. -/
def State.needsManifest (s : State) (k : Nat) : Bool := decide (k ≥ 1) && decide (s.exch.first ≤ k - 1) && decide (k - 1 ≥ 1)

/-- R253: the manifest of round k − 1 and the payloads of a block are at hand. -/
def State.blockReady (s : State) (k shard block : Nat) : Bool :=
  if ¬ s.needsManifest k then true
  else match s.manifestOf (k - 1) with
    | none => false
    | some f => (manifestEntries f).all (fun e => (s.payOf false e.site shard e.round block).isSome)

/-- R252: Δ over a block. -/
def State.blockDelta (s : State) (k shard block : Nat) : List (List Int) :=
  if ¬ s.needsManifest k then []
  else match s.manifestOf (k - 1) with
    | none => []
    | some f =>
      let cs := (manifestEntries f).map (fun e => (e.late, (Packed.read ((s.payOf false e.site shard e.round block).getD [])).carried))
      (List.range 64).map (fun i => (List.range 1024).map (fun j => mergedDelta (cs.map (fun c => (c.1, mat c.2 i j))) (s.rd 0x4200_05)))

/-- The words of a block of a descriptor, as 64 rows; elements beyond the tensor count as 0. The words of a lost shard's
lines that other stand-ins hold are values that no rule gives here (R255). -/
def State.blockWords (s : State) (m : Mould) (d : Desc) (src b : Nat) : List (List Int) :=
  let line (x : Nat) : List Int :=
    let n := min 32 (d.count - 32 * x)
    match s.stateAt m d src x with
    | some a => ((s.mWords a 8 n).map (sgn 64)) ++ List.replicate (32 - n) 0
    | none => ((List.range n).map (fun j => clamp60 (sgn 64 (Config.freeValue (s.draws + 32 * x + j) % 2 ^ 64)))) ++ List.replicate (32 - n) 0
  (List.range 64).map (fun i => ((List.range 32).map (fun q => if 65536 * b + 1024 * i + 32 * q < d.count then line (2048 * b + 32 * i + q) else List.replicate 32 0)).flatten)

/-- The lines of a block that exist. -/
def Desc.blockLines (d : Desc) (b : Nat) : List Nat := (List.range 2048).filterMap (fun q => if 32 * (2048 * b + q) < d.count then some (2048 * b + q) else none)

/-- A block of a descriptor takes new words, line by line, each through clamp60 (R36, R245). -/
def State.writeBlock (s : State) (m : Mould) (d : Desc) (src b : Nat) (v : List (List Int)) : State :=
  let clamps := (v.flatten.filter (fun x => clamp60 x ≠ x)).length
  let s := (s.incBy 0x8200_01 clamps).tally 0x2001 d.tid clamps
  (d.blockLines b).foldl (fun s x =>
    match s.stateAt m d src x with
    | some a =>
      let q := x - 2048 * b
      let ws := ((v.getD (q / 32) []).drop (32 * (q % 32))).take (min 32 (d.count - 32 * x))
      s.passWrite a (wordsBytes 8 (ws.map (fun w => pat 64 (clamp60 w))))
    | none => s) s

/-- The coded places that a block's visit writes. -/
def State.blockPlaces (s : State) (m : Mould) (ds : List Desc) (src b : Nat) : List Nat :=
  (ds.map (fun d => (d.blockLines b).filterMap (fun x => s.stateAt m d src x))).flatten

/-- Two matrices joined element by element. -/
def matMap (f : Int → Int → Int) (a b : List (List Int)) : List (List Int) :=
  (List.range 64).map (fun i => (List.range 1024).map (fun j => f (mat a i j) (mat b i j)))

/-- R256: the anchor of a block, to the sites admitted at this round, as raw W64 lines. -/
def State.sendAnchors (s : State) (m : Mould) (anchor : Desc) (shard block b k : Nat) : State :=
  let bs := ((anchor.blockLines b).map (fun x => match s.stateAt m anchor shard x with | some a => s.mrd a 256 | none => zeros 256)).flatten
  (s.exch.admitted.filter (·.2 = k)).foldl (fun s x => (s.packets 2 s.site shard k block bs).foldl (fun s f => s.haul x.1 shard f) s) s

/-- The end of a sweep's own contribution: digests, summary, Shard complete, and the comparison of a replay (R249, R254). -/
def State.endShard (s : State) (k shard : Nat) : State :=
  let cd := s.shardDigest s.site shard k
  let st := k * s.rd 0x4200_02
  let (w, n) := ((s.audit.own.find? (·.1 == st)).map (·.2)).getD (0, 0)
  let pd := s.provenance 3 k st w n cd
  match s.exch.sent.find? (fun x => x.1 == shard && x.2.1 == k) with
  | some x => if x.2.2 = cd then s else
      (s.modExch fun e => { e with detaching := some 0x4206 }).evHub 0x4206 (be 4 k ++ be 2 shard)
  | none =>
    let s := s.modExch fun e => { e with sent := (shard, k, cd) :: e.sent }
    let s := s.haulAll shard (s.header 0x53 0 ++ be 2 s.site ++ be 4 k ++ be 4 s.xCount ++ zeros 2 ++ cd ++ pd)
    s.tellLead ⟨s.site, shard, k, s.xCount, cd, pd⟩

/-- R248: what is retained after a sweep: the last 0x4200.11 rounds, and what a merge may still need. -/
def State.trimRounds (s : State) (k : Nat) : State :=
  let keep := max (s.rd 0x4200_11) (s.rd 0x4200_06 + 2)
  s.modExch fun x => { x with
    pays := x.pays.filter (fun p => p.round + keep > k), sets := x.sets.filter (fun p => p.round + keep > k)
    sums := x.sums.filter (fun p => p.round + keep > k), comps := x.comps.filter (fun p => p.round + keep > k)
    sent := x.sent.filter (fun p => p.2.1 + keep > k), included := x.included.filter (fun p => p.2 + keep > k) }

/-- The report of a detachment: event 0x4206 has reported one for a replay already (R253, R254). -/
def State.tellDetached (s : State) (k c : Nat) : State := if c = 0x4206 then s else s.evHub 0x4203 (be 4 k ++ be 2 c)

/-- The sweep has visited every block. -/
def State.endSweep (s : State) (k at_ : Nat) : State :=
  let joining : Bool := s.rd 0x4200_14 == 1 && s.exch.joined.any (fun j => j.1 == k)
  let s := s.wr 0x8420_0E (s.now - at_)
  let s := if joining ∨ s.exch.detaching.isSome then s else s.xShards.foldl (fun s sh => s.endShard k sh) s
  let s := s.modExch fun x => { x with sweep := none, swept := k, holdAt := none, held := [], released := none }
  let s := match s.exch.detaching with
    | some c => ((s.modExch fun x => { x with detaching := none }).wr 0x4200_14 5).tellDetached k c
    | none => if joining then s else s.wr 0x4200_14 2
  let s := s.modExch fun x => { x with admitted := x.admitted.filter (·.2 > k), pays := x.pays.filter (fun p => !p.anchor) }
  s.trimRounds k

/-- R243: the sweep of the round that is due begins. -/
def State.startSweep (s : State) : State :=
  match s.xRound with
  | none => s
  | some k =>
    let early := s.exch.released == some s.step && !s.pass.running && s.member.cut.isNone
    if s.exch.sweep.isSome ∨ ¬ (early ∨ s.passMayWrite) then s
    else
      let s := s.wr 0x4200_13 k
      let s := s.modExch fun x => { x with sweep := some (k, 0, s.now) }
      if s.rd 0x4200_14 = 1 then
        match s.exch.joined with
        | some j => if j.1 < k then
            (((s.modExch fun x => { x with joined := none }).wr 0x4200_15 j.1).evHub 0x4209 (be 4 j.1)).wr 0x4200_14 3
          else s
        | none => s
      else s.wr 0x4200_14 3

/-- The hold of a sweep ends; its time is counted. -/
def State.unholdSweep (s : State) : State :=
  match s.exch.holdAt with
  | some t => ((s.modExch fun x => { x with holdAt := none }).incBy 0x8420_09 (s.now - t)).wr 0x4200_14 3
  | none => s

/-- What a waiting block lacks: 1 the manifest, 2 contributions. -/
def State.sweepLacks (s : State) (k : Nat) : Nat := if (s.manifestOf (k - 1)).isNone then 1 else 2

/-- R254: a sweep that runs a second time cannot have the manifest, or a named contribution that its origin retains no more. -/
def State.replayGone (s : State) (k shard block : Nat) : Bool :=
  let newest := maxN (s.exch.manifests.map (fun f => fld f 20 4))
  s.exch.sent.any (fun x => x.1 == shard && x.2.1 == k) &&
  (match s.manifestOf (k - 1) with
   | none => decide (k - 1 < newest)
   | some f => (manifestEntries f).any (fun e => (s.payOf false e.site shard e.round block).isNone && decide (e.round + s.rd 0x4200_11 ≤ newest)))

/-- The contributions that the manifest of round k − 1 names. -/
def State.named (s : State) (k : Nat) : List MEntry := ((s.manifestOf (k - 1)).map manifestEntries).getD []

/-- R253, R254: a block waits for the manifest or for contributions, which are asked for; a replay that can have them no more detaches
the site. -/
def State.holdSweep (s : State) (k shard block : Nat) : State :=
  if s.replayGone k shard block then
    ((s.unholdSweep).modExch fun x => { x with detaching := some 0x4206 }).evHub 0x4206 (be 4 k ++ be 2 shard)
  else if s.exch.holdAt.isSome then s
  else
    let what := s.sweepLacks k
    let s := (s.named k).foldl (fun s e =>
      if (s.payOf false e.site shard e.round block).isNone then s.askRepair e.site shard e.round block 0 (2 ^ s.rd 0x4200_07 - 1) else s) s
    ((s.modExch fun x => { x with holdAt := some s.now }).wr 0x4200_14 4).evHub 0x4202 (be 4 k ++ be 1 what)

/-- The next block of the sweep. -/
def State.nextBlock (s : State) (k b at_ : Nat) : State :=
  let s := (s.inc 0x8420_01).modExch fun x => { x with sweep := some (k, b + 1, at_) }
  if b + 1 ≥ s.xBlocks.length then s.endSweep k at_ else s

/-- R244 to R246: one block of a shard is visited. -/
def State.visitBlock (s : State) (m : Mould) (k shard block b : Nat) (dm da ds : Desc) : State :=
  if s.exch.detaching.isSome then s.writeBlock m ds shard b []
  else if s.rd 0x4200_14 = 1 then
    let raw := (s.payOf true s.coordinator shard k block).getD []
    let v := (List.range 64).map (fun i => (List.range 1024).map (fun j => sgn 64 (fldLe raw (8 * (1024 * i + j)) 8)))
    ((s.writeBlock m dm shard b v).writeBlock m da shard b v).writeBlock m ds shard b []
  else
    let wm := s.blockWords m dm shard b
    let wa := s.blockWords m da shard b
    let ws := s.blockWords m ds shard b
    let p := compressBlock (matMap (fun x y => x - y) (matMap (fun x y => x - y) wm wa) ws) (s.rd 0x4200_03) (s.rd 0x4200_04)
    let delta := s.blockDelta k shard block
    let s : State := if shard = s.own then s else { s with draws := s.draws + dm.count + 65536 }
    let s := s.writeBlock m dm shard b (matMap (fun x y => x - y) (matMap (fun x y => x + y) wm delta) ws)
    let s := s.writeBlock m da shard b (matMap (fun x y => x + y) wa delta)
    let s := s.writeBlock m ds shard b p.carried
    let s := s.putPay ⟨false, s.site, shard, k, block, p.bytes⟩
    let again := s.exch.sent.any (fun x => x.1 == shard && x.2.1 == k)
    let fs := s.packets 0 s.site shard k block p.bytes
    let s := if again then s else
      ((fs.foldl (fun s f => s.haulAll shard f) s).incBy 0x8420_02 p.bytes.length).incBy 0x8420_03 fs.length
    s.sendAnchors m da shard block b k

/-- R245, R253: the next block of the sweep, where nothing holds it. -/
def State.sweepBlock (s : State) : State :=
  match s.exch.sweep, s.pass.mould with
  | some (k, i, at_), some m =>
    match s.xBlocks[i]? with
    | none => s.endSweep k at_
    | some (shard, block, e, b) =>
      let ent := (s.xEntries.find? (·.1 == e)).getD (0, 0, 0, 0)
      match m.desc ent.2.1, m.desc ent.2.2.1, m.desc ent.2.2.2 with
      | some dm, some da, some ds =>
        let joining := s.rd 0x4200_14 == 1
        let ready : Bool := if s.exch.detaching.isSome then true
          else if joining then (s.payOf true s.coordinator shard k block).isSome else s.blockReady k shard block
        let places := s.blockPlaces m (if s.exch.detaching.isSome then [ds] else [dm, da, ds]) shard b
        if s.pass.running ∧ ¬ s.passMayWrite then s
        else if ¬ ready then (if joining then s else s.holdSweep k shard block)
        else match s.linesHeld places with
          | some s => s
          | none => s.ifRoom places fun s => ((s.unholdSweep).visitBlock m k shard block b dm da ds).nextBlock k i at_
      | _, _, _ => s.nextBlock k i at_
  | _, _ => s

/-- R253: the hold has lasted 0x4200.0B; the site detaches. -/
def State.detachSite (s : State) : State :=
  if s.exch.holdAt.isNone then s else
    (s.unholdSweep).modExch fun x => { x with detaching := some (s.sweepLacks (s.exch.sweep.elim 0 (·.1))) }

/-! ### Joining a group (R256) -/

/-- R256: the join request of this member, to its coordinator peer. -/
def State.askSite (s : State) : Nat × State :=
  if ¬ s.exchOn then (13, s)
  else (0, (s.haul s.coordinator s.own (s.header 0x54 0 ++ be 2 s.site ++ zeros 2 ++ s.settingsKey)).wr 0x4200_14 1)

/-- The first round whose sweep begins after now. -/
def State.nextRound (s : State) : Nat :=
  let h := max 1 (s.rd 0x4200_02)
  match s.xRound with
  | some k => if s.exch.sweep.isSome then k + 1 else k
  | none => if s.step = 0 then 1 else (s.step - 1) / h + 1

/-- A site is in the group: the last manifest names it, or it is admitted at a round to come. -/
def State.inGroup (s : State) (site : Nat) : Bool :=
  s.exch.admitted.any (fun x => x.1 == site && decide (x.2 ≥ s.rd 0x4200_13)) ||
  (match s.exch.manifests with | f :: _ => (manifestEntries f).any (·.site == site) | [] => false)

/-- R256: a join request at a coordinator's member: its verdict goes back to the peer. -/
def State.judgeSite (s : State) (f : Bytes) : State :=
  let site := fld f 16 2
  let shard := fld f 2 2
  let verdict := if slice f 20 32 ≠ s.settingsKey then 1 else if ¬ s.sites.any (·.1 == site) then 2 else if s.inGroup site then 3 else 0
  let k := s.nextRound
  let dig := match s.exch.manifests with | g :: _ => manifestDigest g | [] => zeros 32
  let s := if verdict = 0 then s.modExch fun x => { x with admitted := (site, k) :: x.admitted.filter (·.1 ≠ site) } else s
  s.haul site shard (s.header 0x55 0 ++ be 2 s.site ++ be 1 verdict ++ zeros 1 ++ be 4 k ++ dig)

/-- R256: the answer at the joiner. -/
def State.takeAnswer (s : State) (f : Bytes) : State :=
  if s.rd 0x4200_14 ≠ 1 ∨ fld f 16 2 ≠ s.coordinator then s
  else if fld f 18 1 ≠ 0 then (s.wr 0x4200_14 0).evHub 0x4208 (be 1 (fld f 18 1))
  else s.modExch fun x => { x with joined := some (fld f 20 4, slice f 24 32), first := fld f 20 4, manifests := [] }

/-- R249: a shard summary arrives from a peer. -/
def State.takeSummary (s : State) (f : Bytes) : State :=
  let sender := fld f 2 2
  let shard := if s.xShards.contains sender then sender else s.own
  let site := fld f 16 2
  if fld f 8 8 ≠ s.job then s.xDrop site 0x53 1
  else if ¬ s.sites.any (·.1 == site) then s.xDrop site 0x53 2
  else
    let x : XSum := ⟨site, shard, fld f 18 4, fld f 22 4, slice f 28 32, slice f 60 32⟩
    let s := s.modExch fun e => { e with sums := e.sums.filter (fun y => ¬ (y.site = site ∧ y.shard = shard ∧ y.round = x.round)) ++ [x] }
    s.tryComplete site shard x.round

/-- R249: Shard complete reaches the lead. -/
def State.takeComplete (s : State) (f : Bytes) : State :=
  let x : XSum := ⟨fld f 16 2, fld f 22 2, fld f 18 4, s.xCount, slice f 24 32, slice f 56 32⟩
  if s.leadOf ≠ s.own then s
  else s.modExch fun e => { e with comps := e.comps.filter (fun y => ¬ (y.site = x.site ∧ y.shard = x.shard ∧ y.round = x.round)) ++ [x] }

/-- The site from whose peer a frame came. -/
def State.siteFrom (s : State) (addr : Nat) : Option Nat := (s.sites.find? (fun x => withLow x.2 0 == withLow addr 0)).map (·.1)

/-- R248: the repair wait of a set has passed. -/
def State.waitRepair (s : State) (site shard round block set : Nat) : State :=
  if (s.payOf false site shard round block).isSome then s
  else match s.exch.sets.find? (fun q => !q.anchor && q.site == site && q.shard == shard && q.round == round && q.block == block && q.set == set) with
    | some t =>
      if t.data.isSome then s
      else s.askRepair site shard round block set (sumN (((List.range t.k).filter (fun i => ¬ t.packets.any (·.1 == i))).map (fun i => 2 ^ i)))
    | none => if s.exch.sets.any (fun q => !q.anchor && q.site == site && q.shard == shard && q.round == round && q.block == block) then
        s.askRepair site shard round block set (2 ^ s.rd 0x4200_07 - 1) else s

/-! ### The function (R241, R255, Table 11-7, Table 16-3) -/

/-- R241, R65 to R67: a descriptor that an operation reaches: a SPAN leaves sparse descriptors out, and a LIST may name any of those. -/
def reachable (m : Mould) (d : Desc) : Bool :=
  let n := d.num
  m.ops.any (fun o => match o.code with
    | 1 => o.a == n
    | 2 => !d.sparse && decide (o.a ≤ n) && decide (n < o.a + o.b)
    | 3 => d.sparse
    | 4 => o.b == n
    | 5 => o.a == n
    | _ => false)

/-- Table 11-7, reasons 1, 3 and 4: why an entry does not fit a mould. -/
def State.entryRefusal (s : State) (m : Mould) (e : Nat × Nat × Nat × Nat) : Option Nat :=
  match m.desc e.2.1, m.desc e.2.2.1, m.desc e.2.2.2 with
  | some a, some b, some c =>
    if s.ofld 0x4201_01 (8 * e.1) 8 / 2 ^ 49 ≠ 0 then some 1
    else if [a, b, c].any (fun d => d.sfmt ≠ 0 ∨ d.form ≠ 0 ∨ d.rows ≠ a.rows ∨ d.cols ≠ a.cols ∨ d.f ≠ a.f) ∨ b.work ∨ c.work ∨
        reachable m b ∨ reachable m c then some 3
    else if s.ofld 0x3303_05 (8 * a.num) 8 % 65536 ≠ 0 then some 4
    else none
  | _, _, _ => some 1

/-- R241: the first entry in use that does not fit a mould, with its reason. -/
def State.entriesRefusal (s : State) (m : Mould) : Option (Nat × Nat) :=
  s.xEntries.findSome? (fun e => (s.entryRefusal m e).map (fun r => (e.1, r)))

/-- Table 11-7: the first refused entry with its reason. -/
def State.exchRefusal (s : State) (m : Mould) : Option (Nat × Nat) :=
  let h := s.rd 0x4200_02
  let ids := s.sites.map (·.1)
  let rep (l : List Nat) : Bool := l.length != l.eraseDups.length
  if h % max 1 s.deckle ≠ 0 ∨ h < 10 ∨ h > 1000 then some (0, 2)
  else match s.entriesRefusal m with
    | some e => some e
    | none => if ¬ ids.contains s.site ∨ rep ids ∨ ids.contains 0xFFFF then some (0, 5) else none

/-- The function starts: a site that is not detached stands in its group from the next round on. -/
def State.exchStart (s : State) : State :=
  if s.rd 0x4200_14 = 5 then s
  else (s.modExch fun x => { x with first := s.nextRound, swept := s.nextRound - 1 }).wr 0x4200_14 2

/-- Table 11-2: a loss cut stops a sweep; rounds whose writes it rolls back are swept again. -/
def State.exchLossCut (s : State) (c : Nat) : State :=
  let h := max 1 (s.rd 0x4200_02)
  let s := s.modExch fun x => { x with sweep := none, swept := min x.swept ((c - 1) / h), holdAt := none, held := [], released := none }
  if s.rd 0x4200_14 = 3 ∨ s.rd 0x4200_14 = 4 then s.wr 0x4200_14 2 else s

/-- R255: the routes of lost shards, 0x4202.03. -/
def State.exchRoutes (s : State) : State :=
  let lost := (s.member.shards.filter (fun x => ¬ s.member.members.contains x.2.1 ∧ x.2.2 ≠ [])).take 64
  let b := (lost.map (fun x => le 2 x.2.1 ++ le 2 (x.2.2.headD 0xFFFF))).flatten
  s.wrO 0x4202_03 0 (b ++ zeros (256 - b.length))

/-- The function forgets what it holds: OFF. -/
def State.exchClear (s : State) : State := { s with exch := { swept := s.exch.swept, manifests := s.exch.manifests, sent := s.exch.sent, pays := s.exch.pays, first := s.exch.first } }

end Sys2Proof.Machine
end

