-- ==== Sys2Proof/Machine/YardOps.lean ====
section
/-!
DEFINITION. The shared operations of the yard: addresses, pages, requester and home (12_the_yard.md).

Page contents stand at `yardV`; the directory and the frames record places. A frame that this member sends to itself
waits in the loop of the yard record.
-/

namespace Sys2Proof.Machine

/-! ### Objects (R258, R268) -/

/-- The own member id. -/
def State.yOwn (s : State) : Nat := s.rd 0x5000_04

/-- The span of the aperture. -/
def State.ySpan (s : State) : Nat := 2 ^ (40 + s.rd 0x5000_03)

/-- Address a lies in the aperture of a running yard (R258). -/
def State.inAperture (s : State) (a : Nat) : Bool :=
  s.fn .yard ≥ 2 && decide (s.rd 0x5000_02 ≤ a) && decide (a < s.rd 0x5000_02 + s.ySpan)

/-- Member y is in use in 0x5003.01. -/
def State.yKnown (s : State) (y : Nat) : Bool := y < 4096 && bit (s.ofld 0x5003_01 (20 * y + 2) 2) 0

/-- The members in use. -/
def State.yMembers (s : State) : List Nat := (List.range 4096).filter s.yKnown

/-- A region of a coded kind at an offset. -/
def State.yCoded (s : State) (off : Nat) : Bool := match s.yPageAt off with | some p => p.1.coded | none => false

/-! ### Pages (R261, R262) -/

/-- The objects that count pages: 0x5000.15 to .17 and 0x5001.02. -/
def State.yRefresh (s : State) : State :=
  let near := s.yard.pages.filter (·.place == 1)
  let far := s.yard.pages.filter (·.place == 2)
  let s := s.wr 0x5000_15 (sumN (s.actives.map (fun n => s.yFrames - (s.yFramesHeld n).length)))
  let s := s.wr 0x5000_16 (s.rd 0x5000_08 - s.yBlocksHeld.length)
  let s := s.wr 0x5000_17 (8 * s.yDirBefore none)
  s.yRegions.foldl (fun s r =>
    let cur := match s.yard.rehash with | some (x, c, _) => if x = r.num then c else 2 ^ 32 - 1 | none => 2 ^ 32 - 1
    let s := s.wrO 0x5001_02 (24 * r.num) (le 8 (near.filter (·.region == r.num)).length ++ le 8 (far.filter (·.region == r.num)).length)
    s.wrOf 0x5001_02 (24 * r.num + 20) 4 cur) s

/-- The page at the clock hand whose referenced bit is clear; the hand clears the bits it passes (R262). -/
def yClock : Nat → List YPage → Nat → List Nat → Option (YPage × List Nat)
  | 0, _, _, _ => none
  | fuel + 1, ps, i, cleared =>
    match ps[i % max 1 ps.length]? with
    | none => none
    | some p => if p.ref ∧ ¬ cleared.contains p.page then yClock fuel ps (i + 1) (p.page :: cleared) else some (p, cleared)

/-- R262: a near page begins to move to the lowest free far block. -/
def State.yDemotePage (s : State) (r : YRegion) (v : YPage) : Option State :=
  s.yFreeBlock.map (fun b =>
    let s := (s.modYard fun y => { y with moves := y.moves ++ [⟨r.num, v.page, 1, b⟩] }).yPutPage { v with place := 3, ref := false }
    (s.inc 0x8500_0A).fIssue 4 (b % 2) true (s.yLba b) 1 (s.yBytes r v.page))

/-- R262: demotes the near page of a region at a slice that its clock hand chooses. -/
def State.yDemote (s : State) (r : YRegion) (n : Nat) : Option State :=
  let ps := (s.yard.pages.filter (fun p => p.region == r.num && p.slice == n && p.place == 1)).mergeSort (fun a b => a.page ≤ b.page)
  let hand := ((s.yard.hands.find? (fun h => h.1 == n && h.2.1 == r.num)).map (·.2.2)).getD 0
  let i := (ps.findIdx? (fun p => p.page ≥ hand)).getD 0
  match yClock (2 * ps.length + 1) ps i [] with
  | some (v, cleared) =>
    let hands := (n, r.num, v.page + 1) :: s.yard.hands.filter (fun h => ¬ (h.1 = n ∧ h.2.1 = r.num))
    let t := s.modYard fun y => { y with hands := hands }
    let t := (ps.filter (fun p => cleared.contains p.page)).foldl (fun t p => t.yPutPage { p with ref := false }) t
    t.yDemotePage r v
  | none => none

/-- A demotion of a region's page at a slice is in flight. -/
def State.yDemoting (s : State) (r n : Nat) : Bool :=
  s.yard.moves.any (fun m => m.region == r && m.what == 1 && (match s.yPage r m.page with | some p => p.slice == n | none => false))

/-- A slice may take one more near page of a region, and has a free frame. -/
def State.yFrameFor (s : State) (r : YRegion) (n : Nat) : Option Nat :=
  if r.cls = 1 ∧ (s.yNear r.num n).length ≥ s.yBound r then none else s.yFreeFrame n

/-- R262: room is made for a near page of a class-1 region at a slice: what is demoted already is awaited. -/
def State.yMakeRoom (s : State) (r : YRegion) (n : Nat) : Option State := if s.yDemoting r.num n then some s else s.yDemote r n

/-- Status 8 for want of room: counted and reported (R262). -/
def State.yNoRoom (s : State) (r n : Nat) : State := (s.inc 0x8500_0E).evHub 0x5005 (be 1 r ++ be 1 n)

/-- R262: an access reaches a page that stands far: a promotion, or a staging read, begins; a class-1 page first demotes another
where the slice is at its bound or has no free frame. none: there is no room. -/
def State.yFetch (s : State) (r : YRegion) (page : Nat) : Option State :=
  match s.yPage r.num page with
  | some p =>
    if p.place ≠ 2 ∨ s.yInStall r.num page then some s
    else if s.yStaged r then
      if s.yardStalls (s.yHome r.num page).1 ≥ s.reserve 8 then some s else
      let s := s.modYard fun y => { y with moves := y.moves ++ [⟨r.num, page, 2, p.idx⟩] }
      some ((s.yPutPage { p with place := 3 }).fIssue 4 (p.idx % 2) false (s.yLba p.idx) 1 [])
    else
      let n := (s.yHome r.num page).1
      match s.yFrameFor r n with
      | none => s.yMakeRoom r n
      | some f =>
        let s := (s.modYard fun y => { y with moves := y.moves ++ [⟨r.num, page, 0, p.idx⟩] }).inc 0x8500_09
        some ((s.yPutPage { p with place := 3, idx := f, slice := n }).fIssue 4 (p.idx % 2) false (s.yLba p.idx) 1 [])
  | none => some s

/-- R262: the first store to an unbacked page backs it. none: no room; some (s, true): it may be written now. -/
def State.yBack (s : State) (r : YRegion) (page : Nat) : Option (State × Bool) :=
  let n := (s.yHome r.num page).1
  let v := yardV + r.base + 4096 * page
  if s.yStaged r then
    s.yFreeBlock.map (fun b => (((s.yPutPage ⟨r.num, page, 2, true, false, b, n⟩).yStage r.num page true).mzero v (v + 4096), true))
  else match s.yFrameFor r n with
    | some f => some ((s.yPutPage ⟨r.num, page, 1, true, false, f, n⟩).mzero v (v + 4096), true)
    | none => if r.cls = 1 then (s.yMakeRoom r n).map (fun s => (s, false)) else none

/-! ### Frames (R268, R269) -/

/-- A request or answer record of 32 bytes and its data (Table 12-4). -/
def yRecord (op size b2 seq off operand cmp : Nat) (data : Bytes) : Bytes :=
  be 1 op ++ be 1 (size - 1) ++ be 1 b2 ++ zeros 1 ++ be 4 seq ++ be 8 off ++ be 8 operand ++ be 8 cmp ++ padTo 8 data

/-- A yard frame with its check. -/
def State.yFrame (s : State) (kind dst n credits : Nat) (body : Bytes) : Bytes :=
  let inc := ((s.yard.incs.find? (·.1 == dst)).map (·.2)).getD 0
  let h (c : Nat) : Bytes := be 1 kind ++ zeros 1 ++ be 2 s.yOwn ++ be 2 dst ++ be 2 n ++ be 4 (s.rd 0x5000_01) ++ be 4 s.twin.incarnation ++
    be 4 inc ++ be 4 credits ++ be 8 c
  h (frameCheck (h 0 ++ body)) ++ body

/-- R268: hands a yard frame over; a member's own frames stay inside (R259). None goes while a flush runs (R143). -/
def State.ySend (s : State) (dst : Nat) (f : Bytes) : State :=
  if dst = s.yOwn then s.modYard fun y => { y with loop := y.loop ++ [f] }
  else if s.flushing then s
  else s.send { stream := dst % 8, dst := beNat (s.octs 0x5003_01 (20 * dst + 4) 16), byAddr := true, port := 45306, dscp := s.rd 0x5000_0E,
                prio := s.rd 0x5000_0F, flow := dst, f := f }

/-- Whether an operation of Table 12-3 is an atomic. -/
def yAtomic (op : Nat) : Bool := decide (3 ≤ op) && decide (op ≤ 0xC)

/-- The fields of a record lie in range: its size within its line; an atomic of 4 or 8 bytes, naturally aligned (R267). -/
def yFieldsOk (op size off : Nat) : Bool :=
  decide (off < 2 ^ 40) && decide (off % 256 + size ≤ 256) && (!(yAtomic op) || ((size == 4 || size == 8) && off % size == 0))

/-- The records of a request or answer frame: each as (op, size, byte 2, sequence, offset or window, operand or result, compare, data). -/
def yRecords (answer : Bool) : Nat → Bytes → Option (List (Nat × Nat × Nat × Nat × Nat × Nat × Nat × Bytes))
  | 0, f => if f.isEmpty then some [] else none
  | n + 1, f =>
    let op := fld f 0 1
    let size := fld f 1 1 + 1
    let st := fld f 2 1
    let len := if answer then (if op = 1 ∧ (st = 0 ∨ st = 1 ∨ st = 5) then ceilDiv size 8 * 8 else 0) else if op = 2 then ceilDiv size 8 * 8 else 0
    if f.length < 32 + len then none
    else (yRecords answer n (f.drop (32 + len))).map (fun l =>
      (op, size, st, fld f 4 4, fld f 8 8, fld f 16 8, fld f 24 8, slice f 32 size) :: l)

/-- R269: the position of the first reason to drop a yard frame: 1 yard id, 2 receiver, 3 sender, 4 check, 5 a field; 0 none. -/
def State.yDrop (s : State) (f : Bytes) : Nat :=
  let n := fld f 6 2
  let body := f.drop 32
  if fld f 8 4 ≠ s.rd 0x5000_01 then 1
  else if fld f 4 2 ≠ s.yOwn then 2
  else if ¬ s.yKnown (fld f 2 2) then 3
  else if fld f 24 8 ≠ frameCheck f then 4
  else if n = 0 ∨ n > 32 then 5
  else match fld f 0 1 with
    | 0x60 => match yRecords false n body with
      | some l => if l.all (fun r => yFieldsOk r.1 r.2.1 r.2.2.2.2.1) then 0 else 5
      | none => 5
    | 0x61 => if (yRecords true n body).isSome then 0 else 5
    | 0x64 => if n = 1 ∧ fld body 8 2 ≤ 64 ∧ body.length = 16 + 16 * fld body 8 2 then 0 else 5
    | _ => if body.length = 8 * n then 0 else 5

/-- A yard frame that passes R269 is taken; else the drop is counted and reported at most once a second. -/
def State.yTake (s : State) (f : Bytes) (k : State → State) : State :=
  let why := s.yDrop f
  if why ≠ 0 then (s.inc 0x8500_0C).evSecond 0x500A (be 2 (fld f 2 2) ++ be 1 (fld f 0 1) ++ be 1 why)
  else k (s.modYard fun y => { y with incs := (fld f 2 2, fld f 12 4) :: y.incs.filter (·.1 ≠ fld f 2 2) })

/-! ### The requester (R267, R270, R271) -/

/-- R378: the error response: status 2 on a read or an atomic, status 1 on a write. -/
def State.errorResp (s : State) (q : SReq) : State :=
  if q.kind = 2 then s.answer q 1 0 [] else s.answer q 2 (2 ^ 32 - 1) []

/-- Sends the record of an operation (R268). -/
def State.yEmit (s : State) (o : YOp) (retry : Bool) : State :=
  let rec_ := yRecord o.op o.size (if retry then 1 else 0) o.seq o.off o.operand o.cmp (if o.op = 2 then o.data else [])
  s.ySend o.home (s.yFrame 0x60 o.home 1 0 rec_)

/-- An operation of the list replaced. -/
def State.yPutOp (s : State) (o : YOp) : State :=
  s.modYard fun y => { y with ops := mapWhere (fun (x : YOp) => x.ord == o.ord) (fun _ => o) y.ops }

/-- R270, R271: one operation moves on: it takes a credit, when a store completes at its S-port, and is sent once its line is free. -/
def State.yPumpOne (s : State) (ord : Nat) : State :=
  match s.yard.ops.find? (·.ord == ord) with
  | none => s
  | some o =>
    let used := (s.yard.ops.filter (fun x => x.home == o.home && x.credit)).length
    let take := !o.credit && decide (used < s.rd 0x5000_0A)
    let s := if o.credit ∨ take ∨ o.waited then s else s.inc 0x8500_0D
    let o := { o with credit := o.credit || take, waited := true }
    let s := if o.credit ∧ o.op = 2 then o.reqs.foldl (fun s q => s.answer q 0 0 []) s else s
    let o := if o.credit ∧ o.op = 2 then { o with reqs := [] } else o
    let busy : Bool := s.yard.ops.any (fun x => x.home == o.home && x.off / 256 == o.off / 256 && decide (x.ord < o.ord))
    if !o.credit || o.sent || busy then s.yPutOp o
    else
      let seq := ((s.yard.seqs.find? (·.1 == o.home)).map (·.2)).getD 0
      let s := s.modYard fun y => { y with seqs := (o.home, (seq + 1) % 2 ^ 32) :: y.seqs.filter (·.1 ≠ o.home) }
      let o := { o with sent := true, seq := seq, first := s.now }
      (s.yPutOp o).yEmit o false

/-- Every operation moves on where it can, oldest first. -/
def State.yPump (s : State) : State := s.yard.ops.foldl (fun s o => s.yPumpOne o.ord) s

/-- Two runs of one line share a byte or touch, so that a merged store is one run (R271). -/
def yTouch (a n b m : Nat) : Bool := decide (a ≤ b + m) && decide (b ≤ a + n)

/-- A run of bytes over another: the later bytes win. -/
def yMerge (a : Nat) (x : Bytes) (b : Nat) (y : Bytes) : Nat × Bytes :=
  let lo := min a b
  let hi := max (a + x.length) (b + y.length)
  (lo, (List.range (hi - lo)).map (fun i =>
    let p := lo + i
    if b ≤ p ∧ p < b + y.length then y.getD (p - b) 0 else x.getD (p - a) 0))

/-- R267, R271: an operation is accepted: a store merges into an unsent store of its line, or the operation joins the list. -/
def State.yAccept (s : State) (o : YOp) : State :=
  let into := if o.op ≠ 2 then none else
    s.yard.ops.find? (fun x => x.op == 2 && !x.sent && x.home == o.home && x.off / 256 == o.off / 256 && x.tok.isNone &&
      yTouch x.off x.data.length o.off o.data.length && !(s.yard.ops.any (fun y => y.home == o.home && y.off / 256 == o.off / 256 && decide (x.ord < y.ord))))
  match into with
  | some x =>
    let (lo, d) := yMerge x.off x.data o.off o.data
    (s.yPutOp { x with off := lo, data := d, size := d.length, poison := x.poison ||| o.poison, reqs := x.reqs ++ o.reqs }).yPump
  | none =>
    let o := { o with ord := s.yard.nextOrd }
    (s.modYard fun y => { y with ops := y.ops ++ [o], nextOrd := y.nextOrd + 1 }).yPump

/-- R294: a host write that bears poison to a coded line or felt is refused, counted and reported. -/
def State.refusePoison (s : State) (q : SReq) : State := (((s.inc 0x8510_07).ev 0x5108 (be 8 q.addr)).refuse q)

/-- R258, R267, R356: a host request to the aperture. -/
def State.yHost (s : State) (q : SReq) : State :=
  let y := q.addr - s.rd 0x5000_02
  let home := y / 2 ^ 40
  let off := y % 2 ^ 40
  let op := if q.kind = 1 then 1 else if q.kind = 2 then 2 else q.kind
  if s.fn .yard = 3 ∨ s.flushing ∨ ¬ s.yKnown home ∨ ¬ yFieldsOk op q.size off ∨ (q.kind = 2 ∧ q.poison ≠ 0 ∧ home ≠ s.yOwn) then s.errorResp q
  else if q.kind = 2 ∧ q.poison ≠ 0 ∧ s.yCoded off then s.refusePoison q
  else
    s.yAccept { ord := 0, home := home, op := op, off := off, size := q.size, operand := if yAtomic op then fldLe q.data 0 q.size else 0
                cmp := if op = 0xC then fldLe q.data 8 q.size else 0, data := if op = 2 then slice q.data 0 q.size else [], poison := q.poison
                reqs := [q], tok := none, credit := false, waited := false, sent := false, seq := 0, first := 0 }

/-! ### The indeterminate list and the fence (R272, R275, R276) -/

/-- Table 12-7, bytes 24 to 63. -/
def yBody (kind op home src seq off operand cmp : Nat) : Bytes :=
  le 1 kind ++ le 1 op ++ zeros 2 ++ le 2 home ++ le 2 src ++ le 4 seq ++ zeros 4 ++ le 8 off ++ le 8 operand ++ le 8 cmp

/-- The list object follows the entries. -/
def State.yShowListed (s : State) : State :=
  let b := (s.yard.listed.map (·.body)).flatten
  let s := s.wrO 0x5002_01 0 (b ++ zeros (10240 - b.length))
  s.wr 0x5002_02 s.yard.listed.length

/-- Reads of the fence word whose earlier requests are all answered or listed complete (R272). -/
def State.yFences (s : State) : State :=
  let free := s.yard.fences.filter (fun x => ¬ s.yard.ops.any (fun o => o.ord < x.2 ∧ (o.tok.isNone)))
  let s := s.modYard fun y => { y with fences := y.fences.filter (fun x => ¬ free.contains x) }
  free.foldl (fun s x => s.answer x.1 0 0 (slice (le 8 (s.rd 0x5002_02)) (x.1.addr % 256) x.1.size)) s

/-- An operation is listed, at most 256 entries (R275, Table 12-11). -/
def State.yList (s : State) (o : YOp) (kind : Nat) : State :=
  if s.yard.listed.length ≥ 256 then s else
    let b := yBody kind o.op o.home s.yOwn o.seq o.off o.operand o.cmp
    (s.modYard fun y => { y with listed := y.listed ++ [⟨o.home, o.seq, b, false⟩] }).yShowListed

/-- R275: an operation becomes indeterminate: it is listed, journalled and reported; the host gets the error response. -/
def State.yIndeterminate (s : State) (o : YOp) : State :=
  let s := s.modYard fun y => { y with ops := y.ops.filter (fun x => x.ord ≠ o.ord) }
  let s := s.yList o 1
  let s := s.journal 7 (yBody 1 o.op o.home s.yOwn o.seq o.off o.operand o.cmp)
  let s := (s.inc 0x8500_07).evHub 0x5002 (be 2 o.home ++ be 4 o.seq ++ be 1 o.op)
  let s := o.reqs.foldl (fun s q => s.errorResp q) s
  let s := match o.tok with
    | some (l, c, r) => s.modYard fun y => { y with answers := y.answers ++ [(l, c, r, 6, [])] }
    | none => s
  s.yPump.yFences

/-- The poison bits of a line's words from a mask over the words of the data at an offset. -/
def yPoisonBits (off mask : Nat) : Nat := mask * 2 ^ (off % 256 / 8) % 2 ^ 32

/-- R267, R275, Table 12-5: an answer ends an operation. -/
def State.yAnswered (s : State) (o : YOp) (status result : Nat) (data : Bytes) : State :=
  let drop (s : State) : State := s.modYard fun y => { y with ops := y.ops.filter (fun x => x.ord ≠ o.ord) }
  let done (s : State) (poison : Nat) (d : Bytes) : State := o.reqs.foldl (fun s q => s.answer q 0 poison d) s
  let fail (s : State) : State := o.reqs.foldl (fun s q => s.errorResp q) s
  match o.tok with
  | some (l, c, r) => ((drop s).modYard fun y => { y with answers := y.answers ++ [(l, c, r, status, data)] }).yPump.yFences
  | none =>
    if o.op = 2 then
      let s := drop s
      let s := if status ≤ 2 then s
        else (s.yList o 1).evHub 0x5003 (be 2 o.home ++ be 4 o.seq ++ be 1 status)
      s.yPump.yFences
    else
      let s := match status with
        | 0 => done (drop s) 0 (if o.op = 1 then data else le o.size result)
        | 1 => done (drop s) 0 (if o.op = 1 then data else le o.size result)
        | 5 => if o.op = 1 then done (drop s) (yPoisonBits o.off (result % 2 ^ 32)) data else done (drop s) (2 ^ 32 - 1) (le o.size 0)
        | 2 => fail ((drop s).yList o 1)
        | 3 => fail ((drop s).yList o 1)
        | 6 => fail ((drop s).yList o 1)
        | _ => fail (drop s)
      s.yPump.yFences

/-- An answer frame reaches the requester. -/
def State.yTakeAnswers (s : State) (f : Bytes) : State :=
  let home := fld f 2 2
  ((yRecords true (fld f 6 2) (f.drop 32)).getD []).foldl (fun s r =>
    match s.yard.ops.find? (fun o => o.sent && o.home == home && o.seq == r.2.2.2.1) with
    | some o => s.yAnswered o r.2.2.1 r.2.2.2.2.2.1 (slice r.2.2.2.2.2.2.2 0 o.size)
    | none => s) s

/-! ### The home: execution map and receipts (R274, R275) -/

/-- The map of a stream, cleared by a new incarnation. -/
def State.yMap (s : State) (src inc seq : Nat) : YMap :=
  match s.yard.maps.find? (·.src == src) with
  | some m => if m.inc = inc then m else ⟨src, inc, seq, []⟩
  | none => ⟨src, inc, seq, []⟩

/-- How far a sequence number lies below the highest seen; none when it lies above. -/
def YMap.below (m : YMap) (seq : Nat) : Option Nat :=
  let d := (m.top + 2 ^ 32 - seq) % 2 ^ 32
  if d < 2 ^ 31 then some d else none

/-- The map value of a sequence number: 0 unseen, 1 queued, 2 executed, 3 cancelled, 4 below the horizon. -/
def YMap.val (m : YMap) (seq : Nat) : Nat :=
  match m.below seq with
  | none => 0
  | some d => if d > 65536 then 4 else ((m.vals.find? (·.1 == seq)).map (·.2)).getD 0

/-- A sequence number takes a value; the highest rises, and what falls below the horizon is forgotten. -/
def YMap.put (m : YMap) (seq v : Nat) : YMap :=
  let top := if (m.below seq).isNone then seq else m.top
  let keep (q : Nat) : Bool := (top + 2 ^ 32 - q) % 2 ^ 32 ≤ 65536
  { m with top := top, vals := (seq, v) :: m.vals.filter (fun x => x.1 ≠ seq ∧ keep x.1) }

/-- A map is put back, and with a new incarnation the receipts of the old one go. -/
def State.yPutMap (s : State) (m : YMap) : State :=
  let fresh := s.yard.maps.any (fun x => x.src == m.src && x.inc != m.inc)
  s.modYard fun y => { y with
    maps := y.maps.filter (·.src ≠ m.src) ++ [m], receipts := if fresh then y.receipts.filter (·.src ≠ m.src) else y.receipts }

/-- The map value of a request that its stream still numbers: a newer incarnation has cleared the stream's map (R274). -/
def State.yMark (s : State) (q : YReq) (v : Nat) : State :=
  if s.yard.maps.any (fun m => m.src == q.src && m.inc != q.inc) then s else s.yPutMap ((s.yMap q.src q.inc q.seq).put q.seq v)

/-- An answer to one request goes to its source, with its credit (R270). -/
def State.yReply (s : State) (q : YReq) (status window result : Nat) (data : Bytes) : State :=
  let rec_ := yRecord q.op q.size status q.seq window result 0 (if q.op = 1 ∧ (status = 0 ∨ status = 1 ∨ status = 5) then data else [])
  s.ySend q.src (s.yFrame 0x61 q.src 1 1 rec_)

/-- R273: a request joins the open entry of its line, or opens one; a CAS is served alone. -/
def State.yEnqueue (s : State) (q : YReq) : State :=
  let line := q.off / 256 * 256
  let mine := s.yard.combs.filter (·.line = line)
  match mine.getLast? with
  | some c =>
    if c.alone ∨ q.op = 0xC ∨ c.reqs.length ≥ 64 then s.modYard fun y => { y with combs := y.combs ++ [⟨line, [q], q.op == 0xC⟩] }
    else
      let i := s.yard.combs.length - 1 - (s.yard.combs.reverse.findIdx (fun x => x.line = line))
      (s.modYard fun y => { y with combs := setAt y.combs i { c with reqs := c.reqs ++ [q] } }).inc 0x8500_04
  | none => s.modYard fun y => { y with combs := y.combs ++ [⟨line, [q], q.op == 0xC⟩] }

/-- The own operations are all answered or listed, so a draining home refuses (Table 16-3). -/
def State.yDrained (s : State) : Bool := s.fn .yard == 3 && s.yard.ops.isEmpty

/-- R262, R264: a page moves, or its set is in motion. -/
def State.yMoves (s : State) (r page : Nat) : Bool :=
  (match s.yard.rehash with | some (x, cur, _) => x == r && cur == page / max 1 s.actives.length | none => false) ||
    (match s.yPage r page with | some p => p.place == 3 | none => false)

/-- The line of a request. -/
def YReq.line (q : YReq) : Nat := q.off / 256 * 256

/-- R262: the requests of a line that a move holds are counted, each once. -/
def State.yCountHeld (s : State) (line : Nat) : State :=
  let new (c : YComb) : Nat := if c.line = line then (c.reqs.filter (fun q => !q.held)).length else 0
  let all := sumN (s.yard.combs.map new)
  (s.modYard fun y => { y with
    combs := mapWhere (fun (c : YComb) => c.line == line) (fun c => { c with reqs := c.reqs.map (fun q => { q with held := true }) }) y.combs }).incBy 0x8500_0B all

/-- R262, R273, R275: a request at its home. -/
def State.yRequest (s : State) (q : YReq) : State :=
  let m := s.yMap q.src q.inc q.seq
  match m.val q.seq with
  | 4 => s.yReply q 6 0 0 []
  | 1 => s
  | 3 => s.yReply q 7 0 0 []
  | 2 =>
    match s.yard.receipts.find? (fun r => r.src == q.src && r.seq == q.seq) with
    | some r => (if r.status = 0 then s.inc 0x8500_06 else s).yReply q (if r.status = 0 then 1 else r.status) r.window r.result []
    | none => (s.inc 0x8500_06).yReply q 2 0 0 []
  | _ =>
    let fail (status : Nat) : State := (s.yPutMap (m.put q.seq 3)).yReply q status 0 0 []
    if q.op = 0 ∨ q.op > 0xC then fail 4
    else match s.yPageAt q.off with
      | none => fail 4
      | some (r, page) =>
        if s.yDrained ∨ s.fn .yard < 2 ∨ (r.coded ∧ s.dev = 7) then fail 8
        else
          let s := (s.yPutMap (m.put q.seq 1)).yEnqueue q
          if s.yMoves r.num page then s.yCountHeld q.line else (s.yFetch r page).getD s

/-- A request frame at the home: its records, in order. -/
def State.yTakeRequests (s : State) (f : Bytes) : State :=
  ((yRecords false (fld f 6 2) (f.drop 32)).getD []).foldl (fun s r =>
    s.yRequest ⟨fld f 2 2, fld f 12 4, r.2.2.2.1, r.1, r.2.1, r.2.2.2.2.1, r.2.2.2.2.2.1, r.2.2.2.2.2.2.1, r.2.2.2.2.2.2.2, false⟩) s

/-! ### Queries (R276) -/

/-- The records of a query or status frame. -/
def yPairs (f : Bytes) : List (Nat × Nat) := (List.range (fld f 6 2)).map (fun i => (fld f (32 + 8 * i) 4, fld f (36 + 8 * i) 1))

/-- R276: a receipt query at the home: an unseen entry is cancelled. -/
def State.yTakeQuery (s : State) (f : Bytes) : State :=
  let src := fld f 2 2
  let inc := fld f 12 4
  let other := fld f 16 4 ≠ 0 ∧ fld f 16 4 ≠ s.twin.incarnation
  (yPairs f).foldl (fun s x =>
    let m := s.yMap src inc x.1
    let v := m.val x.1
    let s := if ¬ other ∧ v = 0 then s.yPutMap (m.put x.1 3) else s
    let st := if other then 10 else match v with | 0 => 7 | 1 => 9 | 2 => 2 | 3 => 7 | _ => 6
    s.ySend src (s.yFrame 0x63 src 1 0 (be 4 x.1 ++ be 1 st ++ zeros 3))) s

/-- R276: a receipt status at the requester: the outcome is recorded in the entry and the journal. -/
def State.yTakeStatus (s : State) (f : Bytes) : State :=
  let home := fld f 2 2
  (yPairs f).foldl (fun s x =>
    match s.yard.listed.find? (fun e => e.home == home && e.seq == x.1 && !e.closed) with
    | none => s
    | some e =>
      let put (kind : Nat) : State :=
        let b := le 1 kind ++ e.body.drop 1
        (s.modYard fun y => { y with listed := mapWhere (fun z => decide (z = e)) (fun z => { z with body := b, closed := true }) y.listed }).yShowListed
      match x.2 with
      | 2 => (put 2).journal 7 (le 1 2 ++ e.body.drop 1)
      | 7 => (put 3).journal 7 (le 1 3 ++ e.body.drop 1)
      | 10 => put (fldLe e.body 0 1)
      | _ => s) s

/-! ### Rollback notices (R277) -/

/-- A rollback notice is received. -/
def State.yTakeNotice (s : State) (f : Bytes) : State :=
  let home := fld f 2 2
  let c := fld f 32 8
  let n := fld f 40 2
  let s := s.modYard fun y => { y with notices := (y.notices ++ [padTo 1056 (f.drop 16)]).drop (y.notices.length + 1 - 16) }
  let b := s.yard.notices.flatten
  let s := s.wrO 0x5003_02 0 (b ++ zeros (((objOf 0x5003_02).map (·.size)).getD b.length - b.length))
  let s := s.journal 7 (yBody 4 0 home s.yOwn 0 0 0 c)
  s.evHub 0x5007 (be 2 home ++ be 8 c ++ be 2 n)

/-- A list in parts of n. -/
def inParts {α : Type} (n : Nat) : Nat → List α → List (List α)
  | 0, _ => []
  | fuel + 1, l => if l.length ≤ n then [l] else l.take n :: inParts n fuel (l.drop n)

/-- R277, Table 12-8: a loss cut naming C at a home: receipts of later windows are undone, and every member is told. The extents are
those of the own coded yard lines, as offsets; a notice holds 64 of them. -/
def State.yLossCut (s : State) (c : Nat) (extents : List (Nat × Nat)) : State :=
  if s.fn .yard < 2 then s else
    let s := s.modYard fun y => { y with receipts := mapWhere (fun (r : YReceipt) => decide (r.window > c)) (fun r => { r with status := 3 }) y.receipts }
    let es := extents.filter (·.1 ≥ yardV)
    (inParts 64 (es.length + 1) es).foldl (fun s es =>
      let body := be 8 c ++ be 2 es.length ++ zeros 6 ++ (es.map (fun e => be 8 (e.1 - yardV) ++ be 8 e.2)).flatten
      let s := s.yMembers.foldl (fun s d => s.ySend d (s.yFrame 0x64 d 1 0 body)) s
      s.journal 7 (yBody 5 0 s.yOwn s.yOwn 0 0 0 c)) s

/-- Table 12-8: a power-fail flush at a requester: requests not yet sent complete with the error response, and what has no answer
is journalled as indeterminate. -/
def State.yFlush (s : State) : State :=
  let s := (s.yard.ops.filter (fun o => !o.sent)).foldl (fun s o =>
    (o.reqs.foldl State.errorResp s).modYard fun y => { y with ops := mapWhere (fun (x : YOp) => x.ord == o.ord) (fun x => { x with reqs := [] }) y.ops }) s
  (s.yard.ops.filter (fun o => o.sent || o.credit)).foldl (fun s o => s.journal 7 (yBody 1 o.op o.home s.yOwn o.seq o.off o.operand o.cmp)) s

/-- A yard frame by its kind. -/
def State.yTakeAny (s : State) (f : Bytes) : State :=
  match fld f 0 1 with
  | 0x60 => s.yTakeRequests f
  | 0x61 => s.yTakeAnswers f
  | 0x62 => s.yTakeQuery f
  | 0x63 => s.yTakeStatus f
  | 0x64 => s.yTakeNotice f
  | _ => s

/-- The frames that this member sent to itself are taken, oldest first. -/
def State.yLoop : Nat → State → State
  | 0, s => s
  | fuel + 1, s =>
    match s.yard.loop with
    | [] => s
    | f :: rest => State.yLoop fuel (State.yTakeAny (s.modYard fun y => { y with loop := rest }) f)

/-- What every yard command ends with. -/
def State.ySettle (s : State) : State := (State.yLoop 65536 s.yPump).yRefresh

/-! ### The configuration check (R270, R278, Table 12-10) -/

/-- A list of numbers repeats one. -/
def hasRepeat : List Nat → Bool
  | [] => false
  | x :: l => l.contains x || hasRepeat l

/-- The regions of the yard that steering takes: aperture, near backing, fence line. -/
def State.yardRegions (s : State) : List Region :=
  [⟨s.rd 0x5000_02, s.ySpan, .aperture, 0⟩] ++
  (if s.rd 0x5000_06 = 0 then [] else [⟨s.rd 0x5000_05, s.rd 0x5000_06, .backing, 0⟩]) ++
  (if s.rd 0x5000_18 = 0 then [] else [⟨s.rd 0x5000_18, 256, .fence, 0⟩])

/-- Table 12-10: the first reason against the yard's configuration. -/
def State.yardRefusal (s : State) : Option Nat :=
  let ms := s.yMembers
  let rs := s.yRegions
  let addrs := ms.map (fun y => beNat (s.octs 0x5003_01 (20 * y + 4) 16))
  let devs := ms.map (fun y => s.ofld 0x5003_01 (20 * y) 2)
  let b := s.rd 0x5000_05
  let n := s.rd 0x5000_06
  let a := max 1 s.actives.length
  let others := (s.rd 0x3002_01, s.rd 0x3002_02) :: (s.rd 0x3201_01, s.rd 0x3201_02) :: (s.rd 0x3201_03, s.rd 0x3201_04) :: s.stableRegion ::
    (((match s.pass.mould with | some m => m.regions ++ s.streamRegions m | none => []) ++ s.layerRegions).map (fun r => (r.base, r.size)))
  let extents := [(0, groomBlocks), (s.rd 0x3300_01, s.rd 0x3300_02), (s.rd 0x3303_02, s.rd 0x3303_03), (s.rd 0x3303_09, s.rd 0x3303_0A)]
  let slow := if ms.any (fun y => bit (s.ofld 0x5003_01 (20 * y + 2) 2) 1) then 3 * s.rd 0x5000_0B else s.rd 0x5000_0B
  if s.rd 0x5000_02 % s.ySpan ≠ 0 ∨ s.rd 0x5000_03 > 12 then some 1
  else if ¬ s.yKnown s.yOwn ∨ hasRepeat addrs ∨ hasRepeat devs then some 2
  else if rs.any (fun r => r.cls = 3 ∨ (r.coded ∧ r.cls = 2) ∨ r.base % 4096 ≠ 0 ∨ r.pages = 0 ∨ r.pages > 2 ^ 28 ∨ r.base + 4096 * r.pages > 2 ^ 40 ∨
      (r.cls = 1 ∧ r.quota > r.pages) ∨ (bits (s.ofld 0x5001_01 (32 * r.num) 32) 4 28) ≠ 0 ∨ (bits (s.ofld 0x5001_01 (32 * r.num) 32) 104 24) ≠ 0 ∨
      (bits (s.ofld 0x5001_01 (32 * r.num) 32) 160 96) ≠ 0 ∨
      rs.any (fun q => q.num ≠ r.num ∧ overlap r.base (4096 * r.pages) q.base (4096 * q.pages))) then some 3
  else if b % 256 ≠ 0 ∨ n % (256 * a) ≠ 0 ∨ ¬ s.placed b n ∨ s.actives.any (fun i => s.shareOf i b n ≠ n / a) ∨ others.any (fun o => overlap b n o.1 o.2) then some 4
  else if extents.any (fun e => overlap (s.rd 0x5000_07) (s.rd 0x5000_08) e.1 e.2) then some 5
  else if 256 * s.yDirLines > n / a then some 6
  else if s.rd 0x5000_0C < 4 * slow then some 7
  else if s.rd 0x5000_09 * 4096 * a < ms.length * s.rd 0x5000_0A * 320 then some 8
  else none

/-- R261: the directory at a start of the function: what no region in use holds is forgotten, and each share's directory is written
anew. Moves in flight end as they would. -/
def State.yStart (s : State) : State :=
  let ok (p : YPage) : Bool := let r := s.yRegion p.region; r.used && decide (p.page < r.pages)
  let s := s.modYard fun y => { y with
    pages := y.pages.filter ok, staged := y.staged.filter (fun x => (y.pages.filter ok).any (fun p => p.region == x.1 && p.page == x.2.1))
    combs := [], rehash := none, served := [], paused := false }
  let s := s.actives.foldl (fun s n => ((List.range s.yDirLines).filterMap (s.yShareLine n)).foldl (fun s a => s.mzero a (a + 256)) s) s
  (s.yard.pages.foldl (fun s p => s.yShowDir p.region p.page) s).yRefresh

end Sys2Proof.Machine
end

