-- ==== Sys2Proof/Machine/RouteOps.lean ====
section
/-!
DEFINITION. The shared operations of expert routing: ranking, rounds, dispatch, combine and the touched list
(10_expert_routing_support.md).
-/

namespace Sys2Proof.Machine

/-- The routing record changed by f. -/
def State.modRoute (s : State) (f : Route → Route) : State := { s with route := f s.route }

/-- A call of a layer by its number within its step. -/
def State.callOf (s : State) (l st c : Nat) : Option Call := s.route.calls.find? (fun x => x.layer == l && x.step == st && x.num == c)

/-- A call replaced. -/
def State.putCall (s : State) (c : Call) : State :=
  s.modRoute fun r => { r with calls := mapWhere (fun (x : Call) => x.layer == c.layer && x.step == c.step && x.num == c.num) (fun _ => c) r.calls }

/-! ### Places (Table 10-2) -/

/-- The scores of token j of a call, one code per expert. -/
def State.scoresOf (s : State) (y : RLayer) (c j : Nat) : List Nat :=
  let w := fmtBytes y.sfmt
  s.mWords (y.scores + 256 + c % 2 * (y.nt * y.ne * w) + j * y.ne * w) w y.ne

/-- The address of a dispatch record. -/
def RLayer.dispAt (y : RLayer) (c j r : Nat) : Nat := y.disp + c % 2 * (y.nt * y.kr * 16) + (j * y.kr + r) * 16

/-- The address of an accumulator. -/
def RLayer.accAt (y : RLayer) (c j x : Nat) : Nat := y.acc + c % 2 * (y.nt * y.dh * 8) + (j * y.dh + x) * 8

/-- The address of a combine output element. -/
def RLayer.combAt (y : RLayer) (c j x : Nat) : Nat :=
  y.comb + c % 2 * (y.nt * y.dh * fmtBytes y.cfmt) + (j * y.dh + x) * fmtBytes y.cfmt

/-- The yard offset of the row of local expert l, slot u, at its home. -/
def RLayer.outAt (y : RLayer) (er c l u : Nat) : Nat :=
  y.outOff + c % 2 * (y.locals er * y.cap * y.dh * fmtBytes y.ofmt) + (l * y.cap + u) * y.dh * fmtBytes y.ofmt

/-- The yard offset of a slot-table record at its home. -/
def RLayer.tabAt (y : RLayer) (er c l u : Nat) : Nat := y.tabOff + c % 2 * (y.locals er * y.cap * 8) + (l * y.cap + u) * 8

/-- The size of one buffer of the return window. -/
def RLayer.winBytes (y : RLayer) : Nat := y.nt * y.kr * y.dh * fmtBytes y.ofmt

/-- The NaN code of a host format. -/
def nanCode (fmt : Nat) : Nat := match fmt with | 8 => 0x7FFE | 9 => 0x7E | 0xA => 0x7FC0 | _ => 0x7FC00000

/-! ### Ranking (R229, R230) -/

/-- Inserts an expert into a ranked list, best first, lower index first among equals. -/
def rankInsert (key : Nat → Int) (e : Nat) : List Nat → List Nat
  | [] => [e]
  | x :: l => if key e > key x ∨ (key e = key x ∧ e < x) then e :: x :: l else x :: rankInsert key e l

/-- R229: the ranked experts of a token, and how many of its scores are NaN. -/
def ranked (y : RLayer) (codes : List Nat) : List Nat × Nat :=
  let es := (List.range y.ne).filter (fun e => ¬ isNan y.sfmt (codes.getD e 0))
  let w := fmtBits y.sfmt
  (es.foldr (rankInsert (fun e => orderKey (codes.getD e 0) w)) [], y.ne - es.length)

/-- R230: the weight of a kept choice: its expert's score with c = 30 and B = 30, with the flags of that conversion; a dropped
choice has none. -/
def State.weightOf (s : State) (y : RLayer) (c : Call) (h : Choice) : Int × Bool × Bool :=
  if h.slot.isSome then intakeConvert y.sfmt ((s.scoresOf y c.num h.tok).getD h.expert 0) 30 30 else (0, false, false)

/-- R230: the choices of a call take their weights, and the conversions are counted as Table 2-5 counts them. DESIGN CHOICE: event
0x2005, which names a tensor, carries the tensor id 0xFFFF (assumption log). -/
def State.takeWeights (s : State) (y : RLayer) (c : Call) : Call × State :=
  let ws := c.choices.map (s.weightOf y c)
  let bad := (ws.filter (·.2.2)).length
  let s := (s.incBy 0x8200_05 (ws.filter (·.2.1)).length).incBy 0x8200_04 bad
  ({ c with choices := (c.choices.zip ws).map (fun x => { x.1 with weight := x.2.1 }) },
    if bad = 0 then s else s.evHub 0x2005 (be 2 0xFFFF ++ be 8 c.step ++ be 4 bad))

/-! ### Rounds (R231 to R233) -/

/-- The key of a chunk of a call's round. -/
def roundKey (c : Call) (i : Nat) : CKey := ⟨c.step, 0x100 + c.layer, true, false, c.num % 2 ^ 20 * 4096 + c.round * 256 + i⟩

/-- The chunks of a round's vector: E_r rows of n_e + 4 words. -/
def RLayer.roundChunks (y : RLayer) (er : Nat) : Nat := ceilDiv (er * (y.ne + 4)) 512

/-- R231: the vector of a round goes, only its own row not zero. -/
def State.sendRound (s : State) (c : Call) : State :=
  let y := s.layerAt c.layer
  let g := s.callScope c
  let count (e : Nat) : Nat := (c.pend.filter (fun i => ((c.choices[i]?).map (·.expert)) == some e)).length
  let row : List Int := [((c.base % 2 ^ 32 : Nat) : Int), ((c.base / 2 ^ 32 % 2 ^ 32 : Nat) : Int), (c.count : Int), 0] ++ (List.range y.ne).map (fun e => (count e : Int))
  let at_ (n : Nat) : Int := if n / (y.ne + 4) = g.idx then row.getD (n % (y.ne + 4)) 0 else 0
  ((List.range (y.roundChunks g.e)).foldl (fun s i =>
    let k := roundKey c i
    let s := s.modRed fun r => { r with sent := r.sent.filter (fun x => ¬ (x.key = k)) ++ [⟨k, 0, s.now, (List.range 512).map (fun j => at_ (512 * i + j))⟩] }
    s.contribute k 0) s).redSettle

/-- The row of every member in a round's result, once every chunk is final. -/
def State.roundRows (s : State) (c : Call) : Option (List (List Nat)) :=
  let y := s.layerAt c.layer
  let g := s.callScope c
  let rs := (List.range (y.roundChunks g.e)).map (fun i => s.resOf (roundKey c i))
  if rs.all (fun r => match r with | some x => x.st == 2 && !x.late | none => false) then
    let ws := (rs.map (fun r => match r with | some x => x.vals.map Int.toNat | none => [])).flatten
    some ((List.range g.e).map (fun q => (List.range (y.ne + 4)).map (fun j => ws.getD (q * (y.ne + 4) + j) 0)))
  else none

/-- R232: the token runs do not ascend in group index. -/
def badRuns (rows : List (List Nat)) : Bool :=
  let run (r : List Nat) : Nat × Nat := (r.getD 0 0 + r.getD 1 0 * 2 ^ 32, r.getD 2 0)
  let rs := rows.map run
  (List.range rs.length).any (fun q => (List.range rs.length).any (fun q' =>
    let a := rs.getD q (0, 0)
    let b := rs.getD q' (0, 0)
    decide (q < q') && a.2 != 0 && b.2 != 0 && decide (a.1 + a.2 > b.1)))

/-- R232: assign: each choice of the round with its slot when kept, and the slots used after it. -/
def assign (cap p ne : Nat) (cnt : List (List Nat)) (used : List Nat) (pend : List (Nat × Nat)) : List (Nat × Option Nat) × List Nat :=
  let of_ (q e : Nat) : Nat := (cnt.getD q []).getD (e + 4) 0
  let before (e : Nat) : Nat := used.getD e 0 + sumN ((List.range p).map (fun q => of_ q e))
  let (out, _) := pend.foldl (fun (a : List (Nat × Option Nat) × List Nat) (x : Nat × Nat) =>
    let u := a.2.getD x.2 0
    (a.1 ++ [(x.1, if u < cap then some u else none)], setAt a.2 x.2 (u + 1))) ([], (List.range ne).map before)
  (out, (List.range ne).map (fun e => min cap (used.getD e 0 + sumN ((List.range cnt.length).map (fun q => of_ q e)))))

/-- R233: the spill target of a token: the first ranked expert it has neither chosen nor tried. -/
def spillTarget (order : List Nat) (tried : List (Nat × Nat)) (tok : Nat) : Option Nat :=
  order.find? (fun e => ¬ tried.contains (tok, e))

/-! ### Touched experts (R237) -/

/-- The touched experts of a layer at a step, a bitmap of 128 bytes. -/
def State.touchBits (s : State) (l st : Nat) : Nat :=
  sumN ((((s.route.touched.filter (fun t => t.1 == l && t.2.1 == st)).map (·.2.2)).eraseDups).map (fun e => 2 ^ e))

/-- R237: a slot's list and count follow the touched experts of every layer that shares the slot. -/
def State.writeTouch (s : State) (slot st : Nat) : State :=
  match (s.pass.mould.map (·.slots)).bind (·.find? (·.num == slot)) with
  | none => s
  | some t =>
    let ys := s.layersUsed.filter (fun y => y.touch && y.slot == slot)
    let ds := sortNat ((ys.map (fun y => ((s.route.touched.filter (fun x => x.1 == y.num && x.2.1 == st)).map (fun x =>
      (List.range y.nd).map (fun i => y.d0 + y.nd * x.2.2 + i))).flatten)).flatten.eraseDups)
    let bound := s.rd 0x4100_03
    let s := if ds.length > bound then (s.inc 0x8410_09).evHub 0x4106 (be 1 slot ++ be 8 st ++ be 2 ds.length) else s
    let kept := ds.take bound
    let s := s.mwr t.list (((kept.take t.max).map (le 2)).flatten)
    s.mwrNat t.count 4 kept.length

/-- R237: at the acceptance of M(s), after the slots are read: the bitmaps of step s are shown, the set is emptied. -/
def State.touchMark (s : State) : State :=
  let st := s.step
  let ys := s.layersUsed.filter (·.touch)
  if ¬ s.routeOn then s else
    let s := ys.foldl (fun s y => s.wrO 0x4103_01 (128 * y.num) (le 128 (s.touchBits y.num st))) s
    let s := s.modRoute fun r => { r with touched := r.touched.filter (·.2.1 > st) }
    (ys.map (·.slot)).eraseDups.foldl (fun s slot =>
      match (s.pass.mould.map (·.slots)).bind (·.find? (·.num == slot)) with
      | some t => s.mwrNat t.count 4 0
      | none => s) s

/-! ### Yard traffic of a call (R234, R236) -/

/-- The yard member id of a device. -/
def State.yOfDev (s : State) (dev : Nat) : Nat :=
  ((List.range 4096).find? (fun y => s.yKnown y && s.ofld 0x5003_01 (20 * y) 2 == dev)).getD 0xFFFF

/-- An operation of the routing function on the yard. -/
def routeOp (home op off size : Nat) (data : Bytes) (tok : Option (Nat × Nat × Nat)) : YOp :=
  { ord := 0, home := home, op := op, off := off, size := size, operand := 0, cmp := 0, data := data, poison := 0, reqs := [], tok := tok
    credit := false, waited := false, sent := false, seq := 0, first := 0 }

/-- R236: an operation of the routing function; one to a home that the yard does not know is answered with status 4. -/
def State.routeAccept (s : State) (o : YOp) : State :=
  if s.yKnown o.home then s.yAccept o else s.yAnswered o 4 0 []

/-- The runs of a row within single lines: start and length. -/
def lineRuns (off : Nat) : Nat → Nat → List (Nat × Nat)
  | 0, _ => []
  | fuel + 1, n => if n = 0 then [] else
      let k := min n (256 - off % 256)
      (0, k) :: (lineRuns (off + k) fuel (n - k)).map (fun r => (r.1 + k, r.2))

/-- The runs of a row of n bytes. -/
def rowRuns (off n : Nat) : List (Nat × Nat) := lineRuns off (n / 256 + 2) n

/-- R234: the slot-table record of a kept choice, to its home. -/
def State.sendSlot (s : State) (y : RLayer) (c : Call) (h : Choice) : State :=
  let g := s.callScope c
  let home := y.home g.e h.expert
  let b := le 2 s.own ++ le 1 h.rank ++ le 1 (bits h.flags 1 1) ++ le 4 h.tok
  s.routeAccept (routeOp (s.yOfDev (g.devs.getD home 0xFFFF)) 2 (y.tabAt g.e c.num (y.localIdx g.e h.expert) (h.slot.getD 0)) 8 b none)

/-- R234: a home writes owner 0xFFFF into the slots of its experts that no choice took. -/
def State.fillSlots (s : State) (y : RLayer) (c : Call) : State :=
  let g := s.callScope c
  let mine := (List.range y.ne).filter (fun e => y.home g.e e = g.idx)
  mine.foldl (fun s e =>
    (List.range (y.cap - c.used.getD e 0)).foldl (fun s i =>
      s.yAccept (routeOp s.yOwn 2 (y.tabAt g.e c.num (y.localIdx g.e e) (c.used.getD e 0 + i)) 8 (le 2 0xFFFF ++ zeros 6) none)) s) s

/-! ### Combine (R235, R236) -/

/-- The accumulators of a call read zero. -/
def State.zeroAcc (s : State) (y : RLayer) (c : Nat) : State := s.mzero (y.accAt c 0 0) (y.accAt c 0 0 + y.nt * y.dh * 8)

/-- R235: w × y is added into an accumulator. -/
def State.addProduct (s : State) (y : RLayer) (c : Call) (h : Choice) (x code : Nat) : State :=
  let (v, sat, nonfin) := intakeConvert y.ofmt code y.tc 28
  let a := y.accAt c.num h.tok x
  let s := if nonfin then s.inc 0x8410_0C else if sat then s.inc 0x8200_05 else s
  s.mwrNat a 8 (pat 64 (sgn 64 (s.mNat a 8) + h.weight * v))

/-- The kept choices of a call, by position. -/
def Call.kept (c : Call) : List (Nat × Choice) :=
  (List.range c.choices.length).filterMap (fun i => (c.choices[i]?).bind (fun h => if h.slot.isSome then some (i, h) else none))

/-- R236: the combine of a call begins: mode 0 zeroes the accumulators and loads every kept row. -/
def State.beginCombine (s : State) (c : Call) : State :=
  let y := s.layerAt c.layer
  if c.begun ∨ ¬ c.allotted ∨ ¬ c.passed ∨ y.mode ≠ 0 then s
  else
    let g := s.callScope c
    let n := y.dh * fmtBytes y.ofmt
    let parts := (c.kept.map (fun p =>
      let off := y.outAt g.e c.num (y.localIdx g.e p.2.expert) (p.2.slot.getD 0)
      (rowRuns off n).map (fun r => (p.1, s.yOfDev (g.devs.getD (y.home g.e p.2.expert) 0xFFFF), off, r)))).flatten
    let s := s.zeroAcc y c.num
    let s := s.putCall { c with begun := true, loads := parts.map (fun p => (p.1, p.2.2.2.1, p.2.2.2.2, none)) }
    (List.range parts.length).foldl (fun s i =>
      match parts[i]? with
      | some (_, home, off, r) => s.routeAccept (routeOp home 1 (off + r.1) r.2 [] (some (c.layer, c.step * 2 ^ 32 + c.num, i)))
      | none => s) s

/-- R236: event 0x4104 once per call, with the elements missing. -/
def State.combineMissing (s : State) (c : Call) (toks : List Nat) (n : Nat) : State :=
  if n = 0 then s else
    let s := s.incBy 0x8410_07 n
    let s := if c.once.contains 0x4104 then s else s.evHub 0x4104 (be 1 c.layer ++ be 4 c.num ++ be 4 n)
    match s.callOf c.layer c.step c.num with
    | some x => s.putCall { x with nanRows := (x.nanRows ++ toks).eraseDups, once := 0x4104 :: x.once }
    | none => s

/-- R236: one answered load of a call: a row whose parts are all in is added; a failed load makes the row NaN. -/
def State.takeLoad (s : State) (c : Call) (i status : Nat) (data : Bytes) : State :=
  match c.loads[i]? with
  | none => s
  | some (pos, start, len, _) =>
    let y := s.layerAt c.layer
    let h := c.choices.getD pos ⟨0, 0, 0, none, 0, 0⟩
    let w := fmtBytes y.ofmt
    let c := { c with loads := setAt c.loads i (pos, start, len, some (if status ≥ 2 then [] else data)) }
    let s := s.putCall c
    if status ≥ 2 then s.combineMissing c [h.tok] (len / w)
    else
      let mine := c.loads.filter (·.1 = pos)
      if mine.all (fun l => l.2.2.2.isSome) then
        let row := (mine.map (fun l => l.2.2.2.getD [])).flatten
        if row.length ≠ y.dh * w then s else (List.range y.dh).foldl (fun s x => s.addProduct y c h x (fldLe row (w * x) w)) s
      else s

/-- The answers that the yard holds for routing loads are taken. -/
def State.routeAnswers (s : State) : State :=
  let l := s.yard.answers
  let s := s.modYard fun y => { y with answers := [] }
  l.foldl (fun s a =>
    match s.callOf a.1 (a.2.1 / 2 ^ 32) (a.2.1 % 2 ^ 32) with
    | some c => s.takeLoad c a.2.2.1 a.2.2.2.1 a.2.2.2.2
    | none => s) s

/-- The accumulators of a call are complete (R235, R236). -/
def State.accComplete (s : State) (c : Call) : Bool :=
  let y := s.layerAt c.layer
  c.allotted &&
  (if y.mode = 0 then c.begun && c.loads.all (fun l => l.2.2.2.isSome)
   else (c.kept.all (fun p => c.nanRows.contains p.2.tok || (List.range y.dh).all (fun x => c.arrived.contains ((p.2.tok * y.kr + p.2.rank) * y.dh + x)))))

/-- R235: one output element, and whether the conversion cut it (0x8200.03, Table 2-5). -/
def combineCode (y : RLayer) (acc : Int) : Nat × Bool :=
  let f : Int := y.tc + 30
  match y.cfmt with
  | 8 => w64ToLog acc f l16 0 0
  | 9 => w64ToLog acc f l8 0 0
  | 0xA => (w64ToIeee acc f 7 16 0 0, false)
  | _ => (w64ToIeee acc f 23 32 0 0, false)

/-- R235, R236: the combine output of a complete call is written, calls combined is raised, its buffer is free. -/
def State.writeCombine (s : State) (c : Call) : State :=
  let y := s.layerAt c.layer
  let w := fmtBytes y.cfmt
  let code (j x : Nat) : Nat × Bool :=
    if c.nanRows.contains j then (nanCode y.cfmt, false) else combineCode y (sgn 64 (s.mNat (y.accAt c.num j x) 8))
  let row (j : Nat) : Bytes := ((List.range y.dh).map (fun x => le w (code j x).1)).flatten
  let cuts := sumN ((List.range c.count).map (fun j => ((List.range y.dh).filter (fun x => (code j x).2)).length))
  let s := s.incBy 0x8200_03 cuts
  let s := (List.range c.count).foldl (fun s j => s.mwr (y.combAt c.num j 0) (row j)) s
  let s := s.mwrNat (y.scores + 36) 4 (s.mNat (y.scores + 36) 4 + 1)
  s.modRoute fun r => { r with calls := r.calls.filter (fun x => ¬ (x.layer = c.layer ∧ x.step = c.step ∧ x.num = c.num)) }

/-! ### Releases (R228, R229, R231) -/

/-- The steps to which a call released now belongs (R228). -/
def State.callStep (s : State) : Nat := s.step + 1

/-- R229: a released call begins: its tokens are ranked, its choices made, its round-0 counts sent. -/
def State.startCall (s : State) (d : Released) : State :=
  let y := s.layerAt d.layer
  let count := min d.count y.nt
  let toks := (List.range count).map (fun j => ranked y (s.scoresOf y d.num j))
  let nans := sumN (toks.map (·.2))
  let choices := ((List.range count).map (fun j =>
    let order := (toks.getD j ([], 0)).1
    (List.range y.kr).map (fun r => if r < order.length then (⟨j, r, order.getD r 0, none, 0, 0⟩ : Choice) else ⟨j, r, 0xFFFF, none, 8, 0⟩))).flatten
  let pend := (List.range choices.length).filter (fun i => ((choices[i]?).map (·.flags)) == some 0)
  let c : Call := { layer := d.layer, step := d.step, num := d.num, idx := d.idx, base := d.base, count := count, round := 0
                    used := List.replicate y.ne 0, choices := choices, pend := pend
                    tried := (choices.filter (·.flags = 0)).map (fun h => (h.tok, h.expert)), allotted := false
                    passed := decide (((s.route.combineTo.find? (·.1 == d.layer)).map (·.2)).getD 0 > d.idx), begun := false, loads := []
                    arrived := [], nanRows := [], once := [], group := s.groupEntry y.group }
  let s := s.modRoute fun r => { r with calls := r.calls ++ [c] }
  let s := if nans = 0 then s else (s.incBy 0x8410_04 nans).evHub 0x4103 (be 1 d.layer ++ be 8 d.step ++ be 4 d.num ++ be 4 nans)
  s.sendRound c

/-- R228: the buffer of a released call still holds a call not combined. -/
def State.bufferBusy (s : State) (d : Released) : Bool := s.route.calls.any (fun c => c.layer == d.layer && c.num % 2 == d.num % 2)

/-- Deferred releases whose buffer is free begin, in order; a DRAINING function completes the calls released before (Table 16-3). -/
def State.runDeferred : Nat → State → State
  | 0, s => s
  | fuel + 1, s =>
    if ¬ s.routeOn then s else
      match s.route.deferred.find? (fun d => !d.never && !s.bufferBusy d) with
      | none => s
      | some d => State.runDeferred fuel ((s.modRoute fun r => { r with deferred := r.deferred.filter (· ≠ d) }).startCall d)

/-- Deferred releases and routing answers are taken; what every routing command ends with. -/
def State.routeSettle (s : State) : State := ((State.runDeferred 64 s.routeAnswers).redSettle).ySettle.routeAnswers

/-- The calls of a layer released in a step. -/
def State.releasedIn (s : State) (l st : Nat) : Nat := ((s.route.inStep.find? (fun x => x.1 == l && x.2.1 == st)).map (·.2.2)).getD 0

/-- R228: the release cursor is raised: one call for each unit of the raise, whose token base and count, step and number the release
fixes. -/
def State.raiseRelease (s : State) (y : RLayer) : State :=
  let new := s.mNat (y.scores + 12) 4
  let old := ((s.route.released.find? (·.1 == y.num)).map (·.2)).getD 0
  if new ≤ old then s else
    let base := s.mNat y.scores 8
    let count := s.mNat (y.scores + 8) 4
    let st := s.callStep
    let first := s.releasedIn y.num st
    let never := decide (s.fn .routing ≠ 2)
    let calls := (List.range (new - old)).map (fun i => (⟨y.num, base, count, st, first + i, old + i, never⟩ : Released))
    s.modRoute fun r => { r with
      released := (y.num, new) :: r.released.filter (·.1 ≠ y.num), deferred := r.deferred ++ calls
      inStep := (y.num, st, first + (new - old)) :: r.inStep.filter (fun x => ¬ (x.1 = y.num ∧ x.2.1 = st)) }

/-- R236: the combine cursor is raised: calls that it passes begin their combine. -/
def State.raiseCombine (s : State) (y : RLayer) : State :=
  let new := s.mNat (y.scores + 16) 4
  let old := ((s.route.combineTo.find? (·.1 == y.num)).map (·.2)).getD 0
  if new ≤ old then s else
    let s := s.modRoute fun r => { r with
      combineTo := (y.num, new) :: r.combineTo.filter (·.1 ≠ y.num)
      calls := mapWhere (fun (c : Call) => c.layer == y.num && decide (c.idx < new)) (fun c => { c with passed := true }) r.calls }
    s.route.calls.foldl (fun s c => if c.layer = y.num then s.beginCombine c else s) s

/-- A host write to a layer's control line: bytes 0 to 19 are the host's; the cursors then act. -/
def State.layerControl (s : State) (y : RLayer) (off : Nat) (data : Bytes) : State :=
  let s := s.mwr (y.scores + off) (data.take (20 - off))
  ((s.raiseRelease y).raiseCombine y).routeSettle

/-! ### Allotment (R232 to R234) -/

/-- R234: the last round of a call is done: records, slot tables, touched list, calls allotted. DESIGN CHOICE: a call that ends after
the mark of its own step has been accepted leaves the list slot, which then is that of a later step, as it is (assumption log). -/
def State.finishCall (s : State) (c : Call) (refused : Bool) : State :=
  let y := s.layerAt c.layer
  let (c, s) := s.takeWeights y c
  let g := s.callScope c
  let rec_ (h : Choice) : Bytes :=
    le 2 (if bit h.flags 3 then 0xFFFF else h.expert) ++ le 1 h.rank ++ le 1 h.flags ++ le 4 (h.slot.getD (2 ^ 32 - 1)) ++
      le 4 (pat 32 h.weight) ++ le 2 (g.devs.getD (y.home g.e h.expert) 0xFFFF) ++ zeros 2
  let s := c.choices.foldl (fun s h => s.mwr (y.dispAt c.num h.tok h.rank) (rec_ h)) s
  let s := c.kept.foldl (fun s p => s.sendSlot y c p.2) s
  let s := s.fillSlots y c
  let s := if y.touch ∧ ¬ refused then
      let es := (List.range y.ne).filter (fun e => c.used.getD e 0 > 0)
      let s := s.modRoute fun r => { r with touched := (r.touched ++ es.map (fun e => (c.layer, c.step, e))).eraseDups }
      if c.step > s.step then s.writeTouch y.slot c.step else s
    else s
  let s := s.mwrNat (y.scores + 32) 4 (s.mNat (y.scores + 32) 4 + 1)
  let s := s.inc 0x8410_01
  let s := s.incBy 0x8410_02 c.kept.length
  let s := s.incBy 0x8410_03 (c.choices.filter (fun h => bit h.flags 2)).length
  let s := s.incBy 0x8410_05 (c.kept.filter (fun p => bit p.2.flags 1)).length
  let c := { c with allotted := true, pend := [] }
  let s := if y.mode = 1 then (s.zeroAcc y c.num).putCall { c with begun := true } else s.putCall c
  s.beginCombine c

/-- R232, R233: a round whose counts are final assigns its slots; spills go to the next round. -/
def State.allotRound (s : State) (c : Call) : State :=
  match s.roundRows c with
  | none => s
  | some rows =>
    let y := s.layerAt c.layer
    let g := s.callScope c
    if c.round = 0 ∧ badRuns rows then
      let s := (s.inc 0x8410_06).evHub 0x4102 (be 1 c.layer ++ be 8 c.step ++ be 4 c.num)
      s.finishCall { c with choices := c.choices.map (fun h => { h with flags := setBit h.flags 4 true }), pend := [] } true
    else
      let pend := c.pend.map (fun i => (i, ((c.choices[i]?).map (·.expert)).getD 0))
      let (out, used) := assign y.cap g.idx y.ne rows c.used pend
      let last := decide (c.round ≥ y.zmax)
      let step (a : List Choice × List (Nat × Nat) × List Nat) (x : Nat × Option Nat) : List Choice × List (Nat × Nat) × List Nat :=
        match a.1[x.1]? with
        | none => a
        | some h =>
          match x.2 with
          | some u => (setAt a.1 x.1 { h with slot := some u, flags := 1 + (if c.round > 0 then 2 else 0) }, a.2.1, a.2.2)
          | none =>
            if last then (setAt a.1 x.1 { h with flags := 4 }, a.2.1, a.2.2) else
              match spillTarget (ranked y (s.scoresOf y c.num h.tok)).1 a.2.1 h.tok with
              | some e => (setAt a.1 x.1 { h with expert := e }, a.2.1 ++ [(h.tok, e)], a.2.2 ++ [x.1])
              | none => (setAt a.1 x.1 { h with flags := 4 }, a.2.1, a.2.2)
      let (choices, tried, next) := out.foldl step (c.choices, c.tried, [])
      let c := { c with choices := choices, tried := tried, pend := next, used := used }
      if last then s.finishCall c false
      else
        let c := { c with round := c.round + 1 }
        (s.putCall c).sendRound c

/-! ### The return window (R236, Table 10-6) -/

/-- The layer and element that a return-window byte belongs to: layer, buffer, token, rank, element. -/
def State.windowAt (s : State) (off : Nat) : Option (RLayer × Nat × Nat × Nat × Nat) :=
  (s.layersUsed.find? (fun y => y.mode == 1 && decide (y.winOff ≤ off) && decide (off < y.winOff + 2 * y.winBytes))).map (fun y =>
    let o := off - y.winOff
    let e := o % y.winBytes / fmtBytes y.ofmt
    (y, o / y.winBytes, e / y.dh / y.kr, e / y.dh % y.kr, e % y.dh))

/-- R236: one whole element arrives in the return window: it is added, or discarded. The flag says that it was taken. -/
def State.windowElem (s : State) (off code : Nat) : Bool × State :=
  match s.windowAt off with
  | none => (true, s)
  | some (y, b, j, r, x) =>
    let phys := s.rd 0x5000_02 + s.yOwn * 2 ^ 40 + off
    let key := (j * y.kr + r) * y.dh + x
    match s.route.calls.find? (fun c => c.layer == y.num && c.num % 2 == b) with
    | none => (false, (s.inc 0x8410_08).evSecond 0x4105 (be 8 phys ++ be 1 y.num))
    | some c =>
      match c.choices.find? (fun h => h.tok == j && h.rank == r && h.slot.isSome) with
      | some h =>
        if c.allotted ∧ ¬ c.arrived.contains key ∧ ¬ c.nanRows.contains j then
          let s := s.putCall { c with arrived := key :: c.arrived }
          (true, s.addProduct y c h x code)
        else (false, drop s c phys)
      | none => (false, drop s c phys)
where
  /-- A discard is counted, and reported once per call. -/
  drop (s : State) (c : Call) (phys : Nat) : State :=
    let s := s.inc 0x8410_08
    if c.once.contains 0x4105 then s
    else (s.putCall { c with once := 0x4105 :: c.once }).evHub 0x4105 (be 8 phys ++ be 1 c.layer)

/-- R236: a store's bytes from a yard offset on: whole elements of a return window are taken one by one; the runs that stay in
memory are all but the elements discarded. An element that a store covers only in part adds nothing. -/
def State.windowTake : Nat → State → Nat → Bytes → List (Nat × Bytes) → List (Nat × Bytes) × State
  | 0, s, _, _, runs => (runs, s)
  | fuel + 1, s, off, data, runs =>
    if data.isEmpty then (runs, s) else
      match s.windowAt off with
      | none => State.windowTake fuel s (off + 1) (data.drop 1) (runs ++ [(off, data.take 1)])
      | some x =>
        let w := fmtBytes x.1.ofmt
        let k := (off - x.1.winOff) % w
        if k = 0 ∧ w ≤ data.length then
          let (ok, s) := s.windowElem off (fldLe data 0 w)
          State.windowTake fuel s (off + w) (data.drop w) (if ok then runs ++ [(off, data.take w)] else runs)
        else State.windowTake fuel s (off + (w - k)) (data.drop (w - k)) (runs ++ [(off, data.take (w - k))])

/-! ### Cuts (Table 10-6) -/

/-- The counters of every layer at a mark, for a loss cut that names the step. -/
def State.routeMarks (s : State) (st : Nat) : State :=
  s.layersUsed.foldl (fun s y =>
    let rel := ((s.route.released.find? (·.1 == y.num)).map (·.2)).getD 0
    let cmb := ((s.route.combineTo.find? (·.1 == y.num)).map (·.2)).getD 0
    s.modRoute fun r => { r with
      marks := ((y.num, st, rel, rel, rel, cmb) :: r.marks.filter (fun m => ¬ (m.1 = y.num ∧ m.2.1 = st))).take 8192 }) s

/-- Table 10-6: at a loss cut naming c, calls of later steps are abandoned, and the counters are set back to the values at the last call
of step c: of the calls released up to then, those still open are not yet allotted, or not yet combined. -/
def State.routeLossCut (s : State) (c : Nat) : State :=
  let s := s.modRoute fun r => { r with
    calls := r.calls.filter (·.step ≤ c), deferred := r.deferred.filter (·.step ≤ c), inStep := r.inStep.filter (·.2.1 ≤ c)
    touched := r.touched.filter (·.2.1 ≤ c) }
  s.layersUsed.foldl (fun s y =>
    let rel := match s.route.marks.find? (fun m => m.1 == y.num && m.2.1 == c) with | some m => m.2.2.1 | none => 0
    let cmb := min rel (((s.route.combineTo.find? (·.1 == y.num)).map (·.2)).getD 0)
    let waiting := (s.route.deferred.filter (·.layer = y.num)).length
    let open_ := s.route.calls.filter (·.layer = y.num)
    let s := s.modRoute fun r => { r with
      released := (y.num, rel) :: r.released.filter (·.1 ≠ y.num), combineTo := (y.num, cmb) :: r.combineTo.filter (·.1 ≠ y.num) }
    let s := s.mwr (y.scores + 12) (le 4 rel ++ le 4 cmb)
    s.mwr (y.scores + 32) (le 4 (rel - waiting - (open_.filter (!·.allotted)).length) ++ le 4 (rel - waiting - open_.length))) s

/-- R228: the number of a released call that is not yet allotted and whose scores a write reaches. -/
def State.scoreCall (s : State) (y : RLayer) (off n : Nat) : Option Nat :=
  let size := y.nt * y.ne * fmtBytes y.sfmt
  let hit (num : Nat) : Bool := overlap (256 + num % 2 * size) size off n
  (((s.route.calls.filter (fun c => c.layer == y.num && !c.allotted)).map (·.num) ++
    (s.route.deferred.filter (·.layer = y.num)).map (·.num)).filter hit).head?

end Sys2Proof.Machine
end

