-- ==== Sys2Proof/Machine/YardHome.lean ====
section
/-!
DEFINITION. The yard's home: applying a combining entry, page transfers, rekeying and migration (12_the_yard.md).
-/

namespace Sys2Proof.Machine

/-! ### Operations on a word (R267, Table 12-3) -/

/-- The new value of a word of n bytes. -/
def yardOp (op n w a cmp : Nat) : Nat :=
  let b := 8 * n
  match op with
  | 3 => (w + a) % 2 ^ b
  | 4 => if sgn b a < sgn b w then a else w
  | 5 => if sgn b a > sgn b w then a else w
  | 6 => if a < w then a else w
  | 7 => if a > w then a else w
  | 8 => w &&& a
  | 9 => w ||| a
  | 0xA => w ^^^ a
  | 0xB => a
  | 0xC => if w = cmp then a else w
  | _ => w

/-- One request applied to the bytes of its line: the new bytes, and the previous value of an atomic's word. -/
def applyReq (line : Bytes) (q : YReq) : Bytes × Nat :=
  let o := q.off % 256
  if q.op = 2 then (patch line o (slice q.data 0 q.size), 0)
  else if q.op = 1 then (line, 0)
  else
    let w := fldLe line o q.size
    (patch line o (le q.size (yardOp q.op q.size w (q.operand % 2 ^ (8 * q.size)) (q.cmp % 2 ^ (8 * q.size)))), w)

/-- R273: the serialisation order: ascending member id, cyclically from the pointer. -/
def serial (ptr : Nat) (qs : List YReq) : List YReq :=
  qs.mergeSort (fun a b => (a.src + 4096 - ptr % 4096) % 4096 ≤ (b.src + 4096 - ptr % 4096) % 4096)

/-! ### Closing an entry (R262, R264, R273) -/

/-- The oldest entry of a line leaves. -/
def State.yDropComb (s : State) (line : Nat) : State :=
  let i := s.yard.combs.findIdx (fun c => c.line == line)
  s.modYard fun y => { y with combs := y.combs.take i ++ y.combs.drop (i + 1) }

/-- An executed request: its map value, its receipt, its counters. -/
def State.yExecuted (s : State) (q : YReq) (window result : Nat) : State :=
  let s := s.yMark q 2
  if q.op = 1 then s.inc 0x8500_01
  else
    let s := s.modYard fun y => { y with receipts := ⟨q.src, q.seq, 0, window, result⟩ :: y.receipts.filter (fun r => ¬ (r.src = q.src ∧ r.seq = q.seq)) }
    if q.op = 2 then s.inc 0x8500_02 else s.inc 0x8500_03

/-- A request refused with a status and never executed. -/
def State.yRefuse (s : State) (q : YReq) (status : Nat) : State :=
  (s.yMark q 3).yReply q status 0 0 []

/-- The poisoned words of a line, as bits. -/
def State.poisonBits (s : State) (a : Nat) : Nat :=
  sumN ((List.range 32).map (fun i => if s.poison.contains (a / 256 * 32 + i) then 2 ^ i else 0))

/-- The words of a line in a mask become poisoned (R293). -/
def State.markPoison (s : State) (a mask : Nat) : State :=
  { s with poison := (setBits mask 32).foldl (fun l i => insertSorted (a / 256 * 32 + i) l) s.poison }

/-- The mask of an answer of status 5, over the words of its data (R293). -/
def answerMask (bits_ off size : Nat) : Nat :=
  bits_ / 2 ^ (off % 256 / 8) % 2 ^ ((off % 256 + size + 7) / 8 - off % 256 / 8)

/-- The bytes served at a slice are noted for R265. -/
def State.yNoteServed (s : State) (n r bytes : Nat) : State :=
  let old := ((s.yard.served.find? (fun x => x.1 == n && x.2.1 == r)).map (·.2.2)).getD 0
  s.modYard fun y => { y with served := (n, r, old + bytes) :: y.served.filter (fun x => ¬ (x.1 = n ∧ x.2.1 = r)) }

/-- The poison bits that a store of this member's own host carries. -/
def State.ownPoison (s : State) (q : YReq) : Nat :=
  if q.src = s.yOwn ∧ q.op = 2 then ((s.yard.ops.find? (fun o => o.sent && o.home == s.yOwn && o.seq == q.seq)).map (·.poison)).getD 0 else 0

/-- What a store of a request leaves in memory, as runs: the elements that a return window discards are left out (R236). -/
def State.storeRuns (s : State) (q : YReq) : List (Nat × Bytes) × State :=
  if q.op = 2 then s.windowTake (q.size + 1) q.off (slice q.data 0 q.size) [] else ([], s)

/-- R273: the requests of an entry are applied in their order, the line is written once, each requester is answered. -/
def State.yApply (s : State) (r : YRegion) (n line : Nat) (qs : List YReq) : State :=
  let a := yardV + line
  let old := s.mrd a 256
  let bad := s.poisonBits a
  let atomicBad (q : YReq) : Bool := yAtomic q.op && s.poisoned (a + q.off % 256) q.size
  let (runs, t) := qs.foldl (fun (acc : List (List (Nat × Bytes)) × State) q =>
    let (l, t) := acc.2.storeRuns q
    (acc.1 ++ [l], t)) (([] : List (List (Nat × Bytes))), s)
  let (new, outs) := (List.range qs.length).foldl (fun (acc : Bytes × List (YReq × Nat × Bytes)) i =>
    match qs[i]? with
    | none => acc
    | some q =>
      if atomicBad q then (acc.1, acc.2 ++ [(q, 0, [])])
      else if q.op = 2 then ((runs.getD i []).foldl (fun b x => patch b (x.1 % 256) x.2) acc.1, acc.2 ++ [(q, 0, [])])
      else
        let (b, v) := applyReq acc.1 q
        (b, acc.2 ++ [(q, v, slice acc.1 (q.off % 256) q.size)])) (old, [])
  let changed := decide (new ≠ old)
  let s := t
  let s := match (if r.coded && s.coding && changed then s.lineAt a else none : Option LineId) with
    | some l => s.codedWrite l a 0 new s.epoch 4 false
    | none => runs.flatten.foldl (fun s x => s.mwr (a + x.1 % 256) x.2) (if changed then { s with mem := Sparse.putBytes s.mem a new } else s)
  let s := qs.foldl (fun s q => s.markPoison a (s.ownPoison q)) s
  let window : Nat := if (r.coded && s.coding) = true then s.window s.epoch else 0
  outs.foldl (fun s o =>
    let q := o.1
    let s := s.yNoteServed n r.num q.size
    let s := s.yExecuted q (if q.op = 1 then 0 else window) o.2.1
    let mask := answerMask bad q.off q.size
    if atomicBad q then s.yReply q 5 0 (2 ^ 32 - 1) []
    else if q.op = 1 ∧ mask ≠ 0 then s.yReply q 5 0 mask o.2.2
    else s.yReply q 0 (if q.op = 1 then 0 else window) o.2.1 o.2.2) s

/-- A near page whose frame is marked moves to another free frame at the next access; the old frame is used no more (R301). -/
def State.yMoveRetired (s : State) (r page : Nat) : State :=
  match s.yPage r page with
  | some p =>
    if ¬ (p.retire ∧ p.place = 1) then s else
      match s.yFreeFrame p.slice with
      | some f =>
        let s := s.modYard fun y => { y with bad := (p.slice, p.idx) :: y.bad }
        s.yPutPage { p with idx := f, retire := false }
      | none => s
  | none => s

/-- R273: the read of a line has returned: its oldest entry closes, unless its page moves, its set is in motion, its line
awaits repair, or a write to it is held (Table 12-6). -/
def State.yClose (s : State) (line : Nat) : State :=
  match s.yard.combs.find? (·.line == line) with
  | none => s
  | some c =>
    match s.yPageAt line with
    | none => c.reqs.foldl (fun s q => s.yRefuse q 4) (s.yDropComb line)
    | some (r, page) =>
      let n := (s.yHome r.num page).1
      let writes := c.reqs.any (fun q => q.op ≠ 1)
      let a := yardV + line
      let held := if r.coded ∧ s.coding ∧ (writes ∨ s.unreadable a) then s.linesHeld [a] else none
      let noRoom (s : State) (qs : List YReq) : State := qs.foldl (fun s q => (s.yNoRoom r.num n).yRefuse q 8) s
      if r.coded ∧ s.dev = 7 then c.reqs.foldl (fun s q => s.yRefuse q 8) (s.yDropComb line)
      else if s.yMoves r.num page then s.yCountHeld line
      else if r.coded ∧ writes ∧ s.writesFail then s
      else match held with
        | some s => s
        | none =>
          if r.coded ∧ writes ∧ ¬ (s.yApply r n line c.reqs).dlogFits n then s.holdAt a n .dlog else
          let ptr := ((s.yard.ptrs.find? (·.1 == n)).map (·.2)).getD 0
          let qs := serial ptr c.reqs
          let go (s : State) (qs : List YReq) : State :=
            let s := s.yDropComb line
            let s := s.modYard fun y => { y with ptrs := (n, (((qs.head?).map (·.src)).getD ptr + 1) % 4096) :: y.ptrs.filter (·.1 ≠ n) }
            s.yApply r n line qs
          match s.yPage r.num page with
          | none =>
            if ¬ writes then go s qs
            else match s.yBack r page with
              | some (s, true) => let s := go s qs; if s.yInStall r.num page then s.yUnstage r page true else s
              | some (s, false) => s
              | none =>
                let s := noRoom s (qs.filter (fun q => q.op ≠ 1))
                let loads := qs.filter (fun q => q.op = 1)
                if loads.isEmpty then s.yDropComb line else go s loads
          | some p =>
            if p.place = 2 ∧ ¬ s.yInStall r.num page then
              match s.yFetch r page with
              | some s => if s.yMoves r.num page then s.yCountHeld line else s
              | none => noRoom (s.yDropComb line) qs
            else
              let s := s.yMoveRetired r.num page
              let s := match s.yPage r.num page with | some p => if p.ref ∨ p.place ≠ 1 then s else s.yPutPage { p with ref := true } | none => s
              let s := go s qs
              if s.yInStall r.num page then s.yUnstage r page writes else s

/-! ### Elements that arrive in a return window (R236) -/

/-- Bytes of one line of a region are written: a coded line captures its delta (R121). -/
def State.yardPut (s : State) (r : YRegion) (off : Nat) (bs : Bytes) : State :=
  let a := yardV + off
  match (if r.coded && s.coding then s.lineAt a else none : Option LineId) with
  | some l => s.codedWrite l (a / 256 * 256) (a % 256) bs s.epoch 4 false
  | none => s.mwr a bs

/-- The elements are taken, and what stays is written, line by line. -/
def State.windowWrite (s : State) (r : YRegion) (off : Nat) (data : Bytes) : State :=
  let (runs, s) := s.windowTake (data.length + 1) off data []
  runs.foldl (fun s x => (rowRuns x.1 x.2.length).foldl (fun s k => s.yardPut r (x.1 + k.1) (slice x.2 k.1 k.2)) s) s

/-- The coded lines that elements at a yard offset reach. -/
def State.windowLines (s : State) (r : YRegion) (off n : Nat) : List Nat :=
  if r.coded && s.coding then (List.range ((off + n + 255) / 256 - off / 256)).map (fun i => yardV + 256 * (off / 256 + i)) else []

/-- R121, R236, R262: elements arrive at a yard offset of this member: they wait as every write to a coded line does, and while the
page moves; an unbacked page is backed, and without room they are refused. -/
def State.windowStore (s : State) (off : Nat) (data : Bytes) : State :=
  match s.yPageAt off with
  | none => s
  | some (r, page) =>
    let lines := s.windowLines r off data.length
    if ¬ lines.isEmpty ∧ s.writesFail then s
    else match s.linesHeld lines with
    | some s => s
    | none => s.ifRoom lines fun s =>
    match s.yPage r.num page with
    | none =>
      match s.yBack r page with
      | some (s, true) => let s := s.windowWrite r off data; if s.yInStall r.num page then s.yUnstage r page true else s
      | some (s, false) => s
      | none => s.yNoRoom r.num (s.yHome r.num page).1
    | some p =>
      if s.yMoves r.num page then s.inc 0x8500_0B
      else if p.place = 2 ∧ ¬ s.yInStall r.num page then (s.yFetch r page).getD (s.yNoRoom r.num (s.yHome r.num page).1)
      else
        let s := if p.ref ∨ p.place ≠ 1 then s else s.yPutPage { p with ref := true }
        let s := s.windowWrite r off data
        if s.yInStall r.num page then s.yUnstage r page true else s

/-! ### Page transfers (R262, R295, R301) -/

/-- The move that an F-port command of use 4 serves. -/
def State.yMoveOf (s : State) (c : FCmd) : Option YMove :=
  s.yard.moves.find? (fun m => s.yLba m.block == c.lba && (m.what == 1 || m.what == 3) == c.write)

/-- A transfer of a page has ended. A read that fails after its repeat leaves every word of the page unknown, and its
block is used no more; a write that fails goes to another block. -/
def State.yTransferred (s : State) (c : FCmd) (ok : Bool) (data : Bytes) : State :=
  match s.yMoveOf c with
  | none => s
  | some m =>
    let r := s.yRegion m.region
    let v := yardV + r.base + 4096 * m.page
    let s := s.modYard fun y => { y with moves := y.moves.filter (· ≠ m) }
    let retire (s : State) : State :=
      let s := s.modYard fun y => { y with bad := (256, m.block) :: y.bad }
      s.retirePlace c.lba 1 1 (if r.coded then 0 else 5) (if r.coded then 0 else 1) 0 1
    let after (s : State) : State := if s.yChanged m.region m.page then s.yUnstage r m.page true else s
    match s.yPage m.region m.page with
    | none => s
    | some p =>
      match m.what with
      | 1 =>
        if ok then after (s.yPutPage { p with place := 2, idx := m.block, retire := false })
        else
          let s := retire s
          match s.yFreeBlock with
          | some b =>
            let s := s.modYard fun y => { y with moves := y.moves ++ [{ m with block := b }] }
            s.fIssue 4 (b % 2) true (s.yLba b) 1 (s.yBytes r m.page)
          | none => s.yPutPage { p with place := 1 }
      | 3 =>
        if ok then s.yUnstage r m.page false
        else
          let s := retire s
          match s.yFreeBlock with
          | some b => (s.yPutPage { p with idx := b }).yUnstage r m.page true
          | none => s
      | _ =>
        let kept := s.yChanged m.region m.page
        let s := if kept then s
          else if ok then { s with mem := Sparse.putBytes s.mem v (slice data 0 4096) }
          else (List.range 16).foldl (fun s i => s.markPoison (v + 256 * i) (2 ^ 32 - 1)) s
        let s := if ok then s else retire s
        if m.what = 0 then
          (s.yPutPage { p with place := 1, ref := true }).modYard fun y => { y with staged := y.staged.filter (fun x => ¬ (x.1 = m.region ∧ x.2.1 = m.page)) }
        else (s.yPutPage { p with place := 2, idx := m.block }).yStage m.region m.page kept

/-! ### Rekeying and migration (R265, R266) -/

/-- R265: the region to rekey: a slice served more than the threshold share of the mean, and its busiest region. -/
def State.hotRegion (s : State) : Option Nat :=
  let acts := s.actives
  let at_ (n : Nat) : Nat := sumN ((s.yard.served.filter (·.1 == n)).map (·.2.2))
  let total := sumN (acts.map at_)
  let hot := acts.find? (fun n => at_ n * acts.length * 100 > s.rd 0x5000_10 * total)
  hot.bind (fun n =>
    let l := s.yard.served.filter (·.1 == n)
    let top := maxN (l.map (·.2.2))
    (l.find? (fun x => x.2.2 == top)).map (·.2.1))

/-- R265: the comparison over the dwell; one region at a time is rekeyed, and none again within the dwell. -/
def State.rekeyCheck (s : State) : State :=
  let hot := s.hotRegion
  let s := s.modYard fun y => { y with served := [] }
  match hot with
  | none => s
  | some r =>
    let again := (s.yard.rekeyed.find? (·.1 == r)).any (fun x => s.now < x.2 + s.rd 0x5000_11 * 1000000)
    if s.yard.rehash.isSome ∨ again then s
    else
      let (k, s) := s.random
      (s.modYard fun y => { y with rehash := some (r, 0, k % 2 ^ 128), paused := false }).inc 0x8500_08

/-- What a page of the set in motion can do. -/
inductive Migrated where
  /-- It is at its new slice. -/
  | done (s : State)
  /-- It moves between tiers. -/
  | wait
  /-- A near page has no free frame at its new slice. -/
  | noFrame (p : YPage)

/-- R266: one page of set t moves its directory entry, and a near page its frame. A class-1 page keeps to the bound of its new slice. -/
def State.migratePage (s : State) (r : YRegion) (t page new : Nat) : Migrated :=
  match s.yPage r.num page with
  | none => .done s
  | some p =>
    let to_ := (s.yHomeBy new page).1
    let put (f : Nat) : State :=
      s.modYard fun y => { y with pages := mapWhere (fun (q : YPage) => q.region == r.num && q.page == page) (fun q => { q with slice := to_, idx := f }) y.pages }
    let others := ((s.yNear r.num to_).filter (fun q => q.page / max 1 s.actives.length ≠ t)).length
    if p.place = 3 then .wait
    else if p.slice = to_ then .done s
    else if p.place ≠ 1 then .done (put p.idx)
    else if r.cls = 1 ∧ others ≥ s.yBound r then .noFrame p
    else match s.yFreeFrame to_ with
      | some f => .done (put f)
      | none => .noFrame p

/-- R266: the pages of a set, up to the first that must wait; whether all have moved, and the page that has no frame. -/
def State.migrateAll (s : State) (r : YRegion) (t new : Nat) : List Nat → State × Bool × Option YPage
  | [] => (s, true, none)
  | p :: ps =>
    match s.migratePage r t p new with
    | .done s' => State.migrateAll s' r t new ps
    | .wait => (s, false, none)
    | .noFrame v => (s, false, some v)

/-- R266: the directory entries of a set are written anew at every active slice. -/
def State.showSet (s : State) (rn t : Nat) (pages : List Nat) : State :=
  let i := s.yDirBefore (some rn) + t
  let s := s.actives.foldl (fun s n => match s.yShareLine n (8 * i / 256) with | some a => s.mwrNat (a + 8 * i % 256) 8 0 | none => s) s
  pages.foldl (fun s p => s.yShowDir rn p) s

/-- R266: migration takes the next set. -/
def State.migrateSet (s : State) : State :=
  match s.yard.rehash with
  | none => s
  | some (rn, t, new) =>
    let r := s.yRegion rn
    let a := max 1 s.actives.length
    let pages := (List.range a).filterMap (fun j => if t * a + j < r.pages then some (t * a + j) else none)
    match s.migrateAll r t new pages with
    | (s, false, some v) =>
      if r.cls = 1 then (s.yDemotePage r v).getD s
      else if s.yard.paused then s
      else (s.modYard fun y => { y with paused := true }).evHub 0x5006 (be 1 rn ++ be 4 t)
    | (s, false, none) => s
    | (s, true, _) =>
      let done := decide ((t + 1) * a ≥ r.pages)
      let s := (s.modYard fun y => { y with rehash := some (rn, t + 1, new), paused := false }).showSet rn t pages
      if ¬ done then s
      else
        let s := s.modYard fun y => { y with
          rehash := none, keys := (rn, new) :: y.keys.filter (·.1 ≠ rn), rekeyed := (rn, s.now) :: y.rekeyed.filter (·.1 ≠ rn) }
        let g := (s.ofld 0x5001_02 (24 * rn + 16) 4 + 1) % 2 ^ 32
        (s.wrOf 0x5001_02 (24 * rn + 16) 4 g).evHub 0x5004 (be 1 rn ++ be 4 g)

/-! ### The fence, retries, queries, receipts (R272, R274 to R276) -/

/-- R272: a read of the fence line waits for every yard request accepted before it. -/
def State.yFenceRead (s : State) (q : SReq) : State :=
  (s.modYard fun y => { y with fences := y.fences ++ [(q, y.nextOrd)] }).yFences

/-- An operation sent to a home under a sequence number and not yet answered. -/
def State.ySentOp (s : State) (home seq : Nat) : Option YOp :=
  s.yard.ops.find? (fun o => o.sent && o.home == home && o.seq == seq)

/-- R275: the record is sent again, with flag bit 0. -/
def State.yRetry (s : State) (home seq : Nat) : State :=
  match s.ySentOp home seq with
  | some o => (s.inc 0x8500_05).yEmit o true
  | none => s

/-- R276: a receipt query for a listed operation whose outcome is open. -/
def State.yQuery (s : State) (home seq : Nat) : State :=
  if s.yard.listed.any (fun e => e.home == home && e.seq == seq && !e.closed) then
    s.ySend home (s.yFrame 0x62 home 1 0 (be 4 seq ++ zeros 4))
  else s

/-- R274: a receipt goes when the receipt window has passed. -/
def State.yExpire (s : State) (src seq : Nat) : State :=
  s.modYard fun y => { y with receipts := y.receipts.filter (fun r => ¬ (r.src = src ∧ r.seq = seq)) }

/-- R276: host software removes the entry of an index; an index beyond the list removes nothing. -/
def State.yRemove (s : State) (i : Nat) : State :=
  (s.modYard fun y => { y with listed := y.listed.take i ++ y.listed.drop (i + 1) }).yShowListed

/-! ### Return window and combine (R235, R236) -/

/-- R236: every element of a call that the cursor has passed and that has not arrived is missing; its token's row is NaN. -/
def State.combineLate (s : State) (c : Call) : State :=
  let y := s.layerAt c.layer
  let open_ := (c.kept.map (fun p => (p.2.tok, ((List.range y.dh).filter (fun x => ¬ c.arrived.contains ((p.2.tok * y.kr + p.2.rank) * y.dh + x))).length))).filter
    (fun t => t.2 ≠ 0 ∧ ¬ c.nanRows.contains t.1)
  s.combineMissing c (open_.map (·.1)).eraseDups (sumN (open_.map (·.2)))

end Sys2Proof.Machine
end

