-- ==== Sys2Proof/Machine/RepairOps.lean ====
section
/-!
DEFINITION. Repair of unreadable lines, the patrols and SRAM errors (13_stables_and_stored_data.md, R288 to R301; R169 of
07_loss_rebuild_and_membership.md).
-/

namespace Sys2Proof.Machine

/-! ### What a line is (Table 13-5) -/

/-- R10: the declared range that address a lies in. -/
def State.rangeAt (s : State) (a : Nat) : Option Region := s.steer.find? (fun r => r.base ≤ a && a < r.base + r.size)

/-- A declared range concerns slice n: one of its lines lies in the slice's memory; the aperture and the fence line lie in no
controller's memory and are served by every slice (R258, R272). -/
def State.concerns (s : State) (n : Nat) (r : Region) : Bool :=
  r.kind == .aperture || r.kind == .fence || s.ranges.any (fun i => i.touches n r.base (r.base + r.size))

/-- R10: the steering table of slice n, of 1,024 ranges: those declared first, of the ranges that concern it. -/
def State.steerTable (s : State) (n : Nat) : List Region := (s.steer.filter (s.concerns n)).take 1024

/-- R10: the range of slice n's steering table that address a lies in. -/
def State.served (s : State) (n a : Nat) : Option Region := (s.steerTable n).find? (fun r => r.base ≤ a && a < r.base + r.size)

/-- The line of a lies in a parity piece that this member holds (R163). -/
def State.inParityPiece (s : State) (a : Nat) : Bool :=
  s.member.pieces.any (fun p => p.kind == 1 && decide (s.reserveBase + p.off ≤ a) && decide (a < s.reserveBase + p.off + segSize (s.rd 0x3002_04) (s.rd 0x3002_05)))

/-- Table 13-5: the class of a line. State that no function codes is memory without a repair, class 5. -/
def State.lineClass (s : State) (a : Nat) : Nat :=
  let coded := if s.coding then 0 else 5
  if (s.lineAt a).isSome then coded
  else match s.rangeAt a with
    | none => 5
    | some r =>
      match r.kind with
      | .state | .moment | .rowF | .colF => coded
      | .working => 2
      | .felt | .spare => if s.coding then 1 else 5
      | .reserve => if s.inParityPiece a then (if s.coding then 1 else 5) else 2
      | .seed => 3
      | .result => 4
      | .staging => 6
      | .backing => if s.inDirectory a then 6 else 5
      | _ => 5

/-! ### The solve of R169 -/

/-- The present stripes and deltas of an own data frame. -/
def frameLines (E first : Nat) : List Nat → Bytes → List (Nat × List Int)
  | [], _ => []
  | b :: bs, body =>
    match unpackLine E body with
    | some (d, rest) => (first + b, d) :: frameLines E first bs rest
    | none => []

/-- pend: the captured deltas of an own line that parity holder j has not acknowledged. -/
def State.pendOf (s : State) (l : LineId) (g i n j : Nat) : List Int :=
  let open_ := match s.entry l with | some e => e.deltas | none => []
  let frames := s.couch.out.filter (fun f => !f.tgt && f.group == g && f.role == i && !(f.acked.contains j) && bits (fld f.f 1 1) 0 1 == l.space)
  frames.foldl (fun acc f =>
    match (frameLines (elems l.space) (fld f.f 40 4) (setBits (fld f.f 44 8) 64) (f.f.drop 64)).find? (·.1 == n) with
    | some x => addDeltas acc x.2
    | none => acc) open_

/-- What the other members of a stripe answered: for parity j, data index i, the field images of x_i − pend_i. -/
abbrev StripeAnswers := List (Nat × Nat × List Nat)

/-- The answer of data index i for parity j. -/
def answerOf (as : StripeAnswers) (j i : Nat) : Option (List Nat) := (as.find? (fun x => x.1 == j && x.2.1 == i)).map (·.2.2)

/-- R169: the values x of unreadable data lines of a stripe, element `x`, from as many parities `js`: each parity's felt and vats less
the answers of the other lines, an unreadable line's answer being its pend alone, negated. `pend` gives what the line at own index
adds back for a parity, where this unit holds it. -/
def solveElems (k : Nat) (unknown js : List Nat) (answers : StripeAnswers) (parity : List (Nat × List Nat)) (pend : Nat → Nat → Nat) (x : Nat) :
    List Nat :=
  let eqs := js.map (fun j =>
    let felt := ((parity.find? (·.1 == j)).map (·.2.getD x 0)).getD 0
    let known := (List.range k).foldl (fun acc o => subP acc (rotmul (((answerOf answers j o).getD []).getD x 0) (j * o))) felt
    addP known (pend j x))
  solveField unknown js eqs

/-- R169: the words of an own data line at index i, with the other unreadable data indices `lost` as further unknowns. `parity` holds
felt plus both vat lines of each readable parity. The solve fails when fewer parities are readable than data lines are unreadable. -/
def State.solveLine (s : State) (l : LineId) (answers : StripeAnswers) (parity : List (Nat × List Nat)) (lost : List Nat) : Option (List Nat) :=
  match s.lineRole l with
  | none => none
  | some (g, i, n) =>
    let js := (sortNat (parity.map (·.1)).eraseDups).take (lost.length + 1)
    let others := (List.range s.k).filter (· ≠ i)
    if lost.contains i ∨ lost.length + 1 > s.m ∨ js.length < lost.length + 1 ∨ js.any (fun j => j ≥ s.m ∨ others.any (fun o => (answerOf answers j o).isNone)) then none
    else
      let mine := answers.filter (fun a => a.2.1 ≠ i)
      let pend (j x : Nat) : Nat := rotmul (toField ((s.pendOf l g i n j).getD x 0)) (j * i)
      some ((List.range (elems l.space)).map (fun x => (solveElems s.k (i :: lost) js mine parity pend x).headD 0))

/-- R169: an erased felt line of a group at parity j: the sum of every data member's x − pend, less both vat lines. Data lines `lost` that
are unreadable too are solved first, from the lowest other parities that are readable. -/
def State.solveFelt (s : State) (g sp n j : Nat) (answers : StripeAnswers) (parity : List (Nat × List Nat)) (lost : List Nat) : Option (List Nat) :=
  let is := List.range s.k
  let js := (sortNat ((parity.map (·.1)).filter (· ≠ j)).eraseDups).take lost.length
  if lost.length + 1 > s.m ∨ js.length < lost.length ∨ (j :: js).any (fun q => q ≥ s.m ∨ is.any (fun i => (answerOf answers q i).isNone)) then none
  else
    let vats := s.couch.vats.filter (fun v => v.group == g && !v.tgt && v.space == sp && v.line == n)
    some ((List.range (elems sp)).map (fun x =>
      let all := is.foldl (fun acc i => addP acc (rotmul (((answerOf answers j i).getD []).getD x 0) (j * i))) 0
      let ys := solveElems s.k lost js answers parity (fun _ _ => 0) x
      let all := (List.range lost.length).foldl (fun acc r => addP acc (rotmul (ys.getD r 0) (j * lost.getD r 0))) all
      vats.foldl (fun acc v => subP acc (v.vals.getD x 0)) all))

/-- The felt line that address a lies in: its group, space, stripe, first address and parity index. -/
def State.feltAt (s : State) (a : Nat) : Option (Nat × Nat × Nat × Nat × Nat) :=
  let w := s.rd 0x3002_04
  let n := s.rd 0x3002_05
  (List.range s.member.groups.length).findSome? (fun g =>
    match s.segment false g with
    | none => none
    | some b =>
      let j := (s.parityIn false g).getD ((((s.member.pieces.find? (fun p => p.kind = 1 ∧ p.group = g)).map (·.idx))).getD 0)
      if a < b ∨ a ≥ b + segSize w n then none
      else if a < b + 256 * w then some (g, 0, (a - b) / 256, b + (a - b) / 256 * 256, j)
      else
        let x := (a - b - 256 * w) / 512
        some (g, 1, x, b + 256 * w + 512 * x, j))

/-! ### What each repair restores (R296) -/

/-- The step whose rounding keys a working line of descriptor d was derived with: the open step for a tensor whose lines of this
step are written, else that of its last update. -/
def State.derivedAt (s : State) (m : Mould) (d : Desc) (x : Nat) : Nat :=
  let last := ((s.pass.derived.find? (·.1 == d.num)).map (·.2)).getD 0
  match s.pass.live.find? (fun t => t.work.desc == d.num) with
  | none => if s.pass.done.contains d.num then s.step else last
  | some t =>
    let us := s.workLines m t.work
    let passed := s.actives.any (fun n => match s.lineSlice m d (s.own, x) with
      | some q => q == n && (match us.findIdx? (· == (s.own, x)) with | some i => decide (i < t.cursors.getD n 0) | none => false)
      | none => false)
    if passed then s.step else last

/-- R296 class 2: the working words of a line are derived again from their master. -/
def State.repairWorking (s : State) (a : Nat) : Option State :=
  match s.pass.mould with
  | none => none
  | some m =>
    match m.descs.find? (fun d => d.work && decide (d.wbase ≤ a) && decide (a < d.wbase + wholeLines (d.count * fmtBytes d.wfmt))) with
    | some d =>
      let per := 32 * fmtBytes d.wfmt
      let x0 := (a - d.wbase) / per
      some ((List.range (256 / max 1 per)).foldl (fun s i => if 32 * (x0 + i) < d.count then s.rederiveLine d (x0 + i) (s.derivedAt m d (x0 + i)) else s)
        { s with poison := unpoison s.poison a 256 })
    | none => none

/-- R296 class 3: the seeds of the line's table are generated again: the tables hold those of the next two steps. -/
def State.repairSeeds (s : State) (a : Nat) : Option State :=
  match s.pass.mould with
  | none => none
  | some m =>
    let inA := decide (m.seedA ≤ a) && decide (a < m.seedA + wholeLines (16 * m.seedN))
    let u := s.step + 1
    let u := if (u % 2 = 0) = (inA = true) then u else u + 1
    some (State.writeSeeds { s with poison := unpoison s.poison a 256 } u)

/-- R296 class 4: the chunk of a result bank's line is tainted by this receiver, with reason 5. -/
def State.taintBank (s : State) (a : Nat) : State :=
  match s.rangeAt a with
  | none => s
  | some r =>
    let t := s.streamAt r.item
    let size := 512 * gWidth t.wfmt
    let cs := max 1 (s.shardChunks t.num)
    let x := (a - t.result) / size
    match s.red.res.find? (fun q => q.key.stream == t.num && !q.key.counts && q.banked && q.key.step % 2 == x / cs && q.key.chunk % cs == x % cs) with
    | some q => ((s.receiverTaint q.key q.attempt).taintChunk q.key q.attempt 5).redSettle
    | none => s

/-- R296 class 0: the line takes the solved words, and counts as rebuilt (R169). -/
def State.repairCoded (s : State) (l : LineId) (a : Nat) (ws : List Nat) : State :=
  ((s.mwr a (valsBytes l.space (ws.map ofField))).touchPage a).inc 0x8320_07

/-- R296 class 1: the felt line takes the solved words, and counts as rebuilt (R169); a vat line whose commit has been folded follows (R116). -/
def State.repairFelt (s : State) (g sp n a : Nat) (ws : List Nat) : State :=
  let s := (s.mwr a (wordsBytes 8 ws)).inc 0x8320_07
  (s.couch.vats.filter (fun v => v.group == g && !v.tgt && v.space == sp && v.line == n && v.bank == s.bankOf s.committed)).foldl State.foldVat s

/-! ### The end of a repair (R297, R300, R301) -/

/-- R300, R301: the retirement entry of a repaired or poisoned line; a near frame gets its retire mark. -/
def State.retireLine (s : State) (a cls outcome waiters : Nat) : State :=
  if a < yardV then s.retirePlace (a / 4096 * 4096) 0 1 cls outcome waiters 0
  else match s.frameLine a 0 with
    | some (p, x) => (s.yPutPage { p with retire := true }).retirePlace x 0 1 cls outcome waiters 1
    | none => s

/-- R297: every waiting read is answered with the line as it now stands, its unreadable words marked. -/
def State.answerWaiters (s : State) (reqs : List SReq) : State :=
  reqs.foldl (fun s q =>
    let mask := s.poisonBits (s.viewAddr q.addr)
    s.answer q 0 (answerMask mask q.addr q.size * 2 ^ (q.addr % 256 / 8) % 2 ^ 32) (s.mrd (s.viewAddr q.addr) q.size)) s

/-- R297: a repair has ended; a failed repair of classes 0, 1 and 6 fails the unit. -/
def State.endRepair (s : State) (a : Nat) (ok : Bool) : State :=
  match s.repairOf a with
  | none => s
  | some r =>
    let s := s.modProt fun p => { p with repairs := p.repairs.filter (fun x => ¬ (x.addr = r.addr)) }
    let fails := !ok && (r.cls == 0 || r.cls == 1 || r.cls == 6)
    let s := s.retireLine r.addr r.cls (if ok then 0 else if fails then 2 else 1) r.waiters
    let s := s.answerWaiters r.reqs
    let body := be 8 (s.physAddr r.addr) ++ be 1 r.cls ++ be 2 (min 65535 r.waiters)
    if ok then (s.inc 0x8510_06).evSlice r.slice 0x5106 body
    else
      let s := (s.inc 0x8510_0A).evSlice r.slice 0x5107 body
      if fails then s.unitFailed 0x5107 r.slice else s

/-- R296: a repair is carried out with what the members of the stripe answered. -/
def State.repair (s : State) (a : Nat) (answers : StripeAnswers) (parity : List (Nat × List Nat)) (lost : List Nat) : State :=
  match s.repairOf a with
  | none => s
  | some r =>
    match r.cls with
    | 0 =>
      match s.lineAt r.addr with
      | none => s.endRepair a false
      | some l =>
        match if s.fn .coding = 2 then s.solveLine l answers parity lost else none with
        | some ws => (s.repairCoded l r.addr ws).endRepair a true
        | none => s.endRepair a false
    | 1 =>
      match s.feltAt r.addr with
      | none => s.endRepair a false
      | some (g, sp, n, b, j) =>
        match if s.fn .coding = 2 then s.solveFelt g sp n j answers parity lost else none with
        | some ws => (s.repairFelt g sp n b ws).endRepair a true
        | none => s.endRepair a false
    | 2 => match s.repairWorking r.addr with | some s => s.endRepair a true | none => s.endRepair a false
    | 3 => match s.repairSeeds r.addr with | some s => s.endRepair a true | none => s.endRepair a false
    | 4 => if s.unreadable r.addr then s.taintBank r.addr else s.endRepair a true
    | _ => s.endRepair a false

/-- Table 13-6: a loss cut abandons repairs: those off coded lines end as failures. -/
def State.repairCut (s : State) : State :=
  (s.prot.repairs.filter (fun r => r.cls ≥ 2)).foldl (fun s r => s.endRepair r.addr false) s

/-- Table 13-6: after the release, waiters on coded lines are served from the line as it then stands. -/
def State.repairRelease (s : State) : State :=
  let rs := s.prot.repairs
  let s := s.modProt fun p => { p with repairs := [] }
  rs.foldl (fun s r => s.modSPort fun p => { p with ctrl := p.ctrl ++ r.reqs.map (fun q => ⟨q, true, false⟩) }) s

/-! ### The patrol of SRAM (R298) -/

/-- R298, R289: the patrol reads a row, in which `n` bits are flipped beside those of an injection. -/
def State.patrolRow (s : State) (mem slice row n : Nat) (hard : Bool) (cls : Nat) : State :=
  let (k, s) := s.takeInjection mem slice row
  let s := s.sramRead mem slice row (n + k) hard cls
  if n + k ≥ 3 then s.sramLost mem slice row cls else s

/-- R302: an error injection is held until its row is read. -/
def State.injectError (s : State) (w : Nat) : Nat × State := (0, s.modProt fun p => { p with injected := p.injected ++ [w] })

/-- R301: host software acknowledges a retirement entry; an index beyond the list removes nothing. -/
def State.ackRetirement (s : State) (i : Nat) : Nat × State :=
  (0, (s.modProt fun p => { p with retired := p.retired.take i ++ p.retired.drop (i + 1) }).showRetired)

/-! ### The patrol of host memory (R299, R287) -/

/-- R299: slice n's patrol reads the line at a; `bad` when the controller reports it uncorrectable, `fin` when the pass over
every line has ended with it. Of the stable, stall tables and bitmaps are patrolled. -/
def State.patrolLine (s : State) (n a : Nat) (bad fin : Bool) : State :=
  if s.rd 0x5102_02 = 0 then s else
    let (sb, sn) := s.stableRegion
    let a := s.viewAddr a
    let s := match (if a < yardV then none else s.yPageAt (a - yardV) : Option (YRegion × Nat)) with | some (r, page) => s.yMoveRetired r.num page | none => s
    let cls := s.lineClass a
    let s :=
      if sb ≤ a ∧ a < sb + sn then
        if bad ∧ s.inStallTable n a = true then (s.evSlice n 0x5109 (be 1 n)).unitFailed 0x5109 n else s
      else if cls > 1 ∨ ¬ s.inSlice n a ∨ (s.repairOf a).isSome then s
      else
        let s := if bad then s.spoil (a / 256 * 256) 256 else s
        if cls = 1 then
          match s.feltAt a with
          | some (_, sp, x, b, j) => match s.feltFault b sp with | some c => s.eraseFelt j sp x b c | none => s
          | none => s
        else if s.unreadable a then s.openRepair a 0 n []
        else s
    if fin then (s.wr 0x5102_03 (s.now - s.prot.patrolAt)).modProt fun p => { p with patrolAt := s.now } else s

end Sys2Proof.Machine
end

