-- ==== Sys2Proof/Machine/HookOps.lean ====
section
/-!
DEFINITION. What a cut and its release do to the functions beside coding: reduction (R220), routing (Table 10-6), the yard
(Table 12-8), site exchange (Table 11-2, R255) and a bisection (Table 14-7).
-/

namespace Sys2Proof.Machine

/-- R277: the extents that a rollback to c undoes and that carry source bit 2, the yard's. -/
def State.yUndone (s : State) (c : Nat) : List (Nat × Nat) :=
  joinExtents (sortNat ((s.member.dlog.filter (fun r => decide (r.window > c) && r.sources.testBit 2)).filterMap (fun r => s.lineAddr r.id)).eraseDups)

/-- R220, R231: the rounds that wait for their counts restart with the reductions of their step. -/
def State.routeRestart (s : State) (c : Nat) : State :=
  (s.route.calls.filter (fun x => decide (x.step > c) && !x.allotted)).foldl State.sendRound s

/-- R133, R203, R315: what a fold that is complete brings: its count, its Commit record (Table 7-5), the staging banks of its
steps freed, and the watermark comparison. -/
def State.foldDone (s : State) (c : Nat) : State :=
  let s := s.inc 0x8310_0E
  let s := s.journal 2 (le 8 c ++ le 8 (s.rd 0x3101_02))
  (s.redCommit c).compareCommit c

/-- What a cut naming c does: kind 0 the job start, 1 a loss, 2 a join, 3 a switch. -/
def State.atCut (s : State) (kind c : Nat) (_lost : List Nat) : State :=
  let s := (s.abandonBisect 2).modAudit fun a => { a with fixes := if kind = 1 then [] else a.fixes }
  match kind with
  | 0 => s.redClear
  | 1 => (((s.repairCut.redLossCut c).routeLossCut c).yLossCut c (s.yUndone c)).exchLossCut c
  | _ => if s.member.joining then s.redJoiner c else (s.redRestart c).routeRestart c

/-- R220: the intake writes held at a loss cut are completed with the write-error response. -/
def State.failIntake (s : State) : State :=
  let mine := s.sport.held.filter (fun h => decide (h.why = .intake))
  let s := s.modSPort fun p => { p with held := p.held.filter (fun h => decide (h.why ≠ .intake)) }
  mine.foldl (fun s h => s.answer h.req 1 0 []) s

/-- What the release of a cut does. -/
def State.atRelease (s : State) (kind : Nat) : State :=
  let s := if kind = 1 then (s.failIntake.repairRelease).modExch fun x => { x with released := some s.step } else s
  if s.rd 0x3202_02 ≠ 0 then s.exchRoutes else s.wrO 0x4202_03 0 (zeros 256)

end Sys2Proof.Machine
end

