-- ==== Sys2Proof/Machine/SportOps.lean ====
section
/-!
DEFINITION. The S-port: requests at the fabric face, credits, the hold queue, and the controller face (R377 to R382 of
17_ports_clocks_and_integration.md), with what each steering range does to a host request.
-/

namespace Sys2Proof.Machine

/-! ### Requests and what is outstanding (R377, R379) -/

/-- The class of a request: reads 0; writes and atomics 1. -/
def reqCls (q : SReq) : Nat := if q.kind = 1 then 0 else 1

/-- The 8-byte words of its line that a request touches, as bits. -/
def spanMask (a n : Nat) : Nat := (2 ^ ((a % 256 + n + 7) / 8 - a % 256 / 8) - 1) * 2 ^ (a % 256 / 8) % 2 ^ 32

/-- The requests of a slice that have no response and keep their credit. -/
def State.openReqs (s : State) (n : Nat) : List SReq :=
  ((s.sport.ctrl.map (·.req)) ++ ((s.sport.held.filter (·.why = .queue)).map (·.req)) ++ s.sport.second ++ ((s.yard.ops.map (·.reqs)).flatten) ++
    (s.yard.fences.map (·.1)) ++ ((s.prot.repairs.map (·.reqs)).flatten)).filter (·.slice = n)

/-- Credits of a class that the fabric has spent at slice n (R379). -/
def State.creditsSpent (s : State) (n cls : Nat) : Nat := ((s.openReqs n).filter (fun q => reqCls q = cls)).length

/-- The writes in the hold queue of slice n (R380). -/
def State.queued (s : State) (n : Nat) : Nat := (s.sport.held.filter (fun h => decide (h.req.slice = n) && decide (h.why ≠ .queue))).length

/-- The stall indicator of a controller (R381). -/
def State.stallOf (s : State) (n : Nat) : Nat := ((s.sport.stalls.find? (·.1 == n)).map (·.2.1)).getD 0

/-- R379, R381: requests go to each controller in arrival order within their class, while it grants a credit and is not stalled. -/
def State.pumpCtrl (s : State) : State :=
  let go (done : List CtrlReq) (c : CtrlReq) : List CtrlReq :=
    let mine := done.filter (fun x => x.req.slice == c.req.slice && reqCls x.req == reqCls c.req)
    let may := s.stallOf c.req.slice == 0 && mine.all (·.issued) && decide (mine.length < s.sport.grant)
    done ++ [if c.issued then c else { c with issued := may }]
  s.modSPort fun p => { p with ctrl := p.ctrl.foldl go [] }

/-- A request joins those for its controller. -/
def State.toCtrl (s : State) (q : SReq) (served : Bool) : State :=
  (s.modSPort fun p => { p with ctrl := p.ctrl ++ [⟨q, served, false⟩] }).pumpCtrl

/-! ### Holding a write (R380) -/

/-- A write is held, for a cause that is counted when it is new. `old` is the write as it was held before. -/
def State.hold (s : State) (q : SReq) (why : Why) (old : Option Held) : State :=
  let same : Bool := match old with | some h => decide (h.why = why) | none => false
  let fresh : Bool := match old with | some h => decide (h.why = .queue) | none => true
  let why := if fresh ∧ why ≠ .queue ∧ s.queued q.slice ≥ 256 then .queue else why
  let s := if same then s else if why = .queue then s.inc 0x8710_0C else s.noteHold q.slice why
  s.modSPort fun p => { p with held := p.held ++ [⟨q, why, match old with | some h => h.since | none => s.now, match old with | some h => h.step | none => s.intakeStep⟩] }

/-- The cause for which an earlier write to the same line is held (R379: one line's requests complete in order). -/
def State.heldBefore (s : State) (a : Nat) : Option Why := (s.sport.held.find? (fun h => decide (h.req.addr / 256 = a / 256))).map (·.why)

/-- R37, R39: the words that a host write leaves out of range are stored clamped; their addresses. -/
def State.clampWords (s : State) (sp a : Nat) (line : Bytes) : List (Nat × Nat) :=
  let w := wordW sp
  (List.range (elems sp)).filterMap (fun i =>
    let x := fldLe line (w * i) w
    if sp = 0 then (let v := sgn 64 x; if clamp60 v = v then none else some (i, pat 64 (clamp60 v)))
    else if s.isU32 a then none
    else if x = 2 ^ 31 then some (i, 2 ^ 31 + 1) else none)

/-! ### Writes by steering range -/

/-- The bytes of a write. -/
def reqBytes (q : SReq) : Bytes := slice q.data 0 q.size

/-- A write to memory that is steered and not coded: stored with its marks (Table 13-4), and completed. -/
def State.storePlain (s : State) (q : SReq) : State := ((s.mwr q.addr (reqBytes q)).markPoison q.addr q.poison).answer q 0 0 []

/-- The descriptor and line of an exchange region that address a lies in: true for an anchor or sent region (R241), false for a
master. -/
def State.exchLine (s : State) (a : Nat) : Option (Bool × Nat × Nat) :=
  match s.wDesc a with
  | none => none
  | some (d, x) =>
    match s.xEntries.find? (fun e => e.2.1 == d.num || e.2.2.1 == d.num || e.2.2.2 == d.num) with
    | some e => some (e.2.1 != d.num, d.num, x)
    | none => none

/-- A write to a coded line that nothing holds (R37, R39, R121, R122, R292). -/
def State.applyCoded (s : State) (q : SReq) (l : LineId) : State :=
  let a := q.addr / 256 * 256
  let new := patch (s.mrd a 256) (q.addr % 256) (reqBytes q)
  let bad := (s.clampWords l.space a new).filter (fun c => overlap (a + wordW l.space * c.1) (wordW l.space) q.addr q.size)
  let new := bad.foldl (fun b c => patch b (wordW l.space * c.1) (le (wordW l.space) c.2)) new
  let s := bad.foldl (fun s c => (s.inc 0x8200_07).evSlice q.slice 0x2002 (be 8 (a + wordW l.space * c.1) ++ be 1 l.space)) s
  let off := q.addr % 256 / wordW l.space * wordW l.space
  let top := ceilDiv (q.addr % 256 + q.size) (wordW l.space) * wordW l.space
  (s.codedWrite l a off (slice new off (top - off)) s.epoch 2 false).answer q 0 0 []

/-- R159, Table 14-7: the write goes if the delta log then has room for every open entry; a bisection that pins chains gives way. -/
def State.applyInRoom (s : State) (q : SReq) (l : LineId) (old : Option Held) : State :=
  let t := s.applyCoded q l
  if t.dlogFits q.slice then t
  else
    let s := s.abandonBisect 3
    let t := s.applyCoded q l
    if t.dlogFits q.slice then t else s.hold q .dlog old

/-- A host write to a coded line: refused, discarded, held, or applied. -/
def State.writeCoded (s : State) (q : SReq) (l : LineId) (old : Option Held) : State :=
  let a := q.addr / 256 * 256
  let x := if l.src = s.own ∧ s.exchOn then s.exchLine a else none
  let repairing := s.coding && ((s.repairOf a).isSome || (s.poisonBits a &&& spanMask q.addr q.size) != 0)
  if q.poison ≠ 0 ∧ s.coding then s.refusePoison q
  else if s.writesFail then s.refuse q
  else if (match x with | some (true, _, _) => true | _ => false) then ((s.inc 0x8420_0B).evSlice q.slice 0x4207 (be 8 q.addr)).answer q 0 0 []
  else match s.heldBefore q.addr with
    | some w => s.hold q w old
    | none =>
      if (match x with | some (_, d, y) => s.sweepHolds d s.own y | none => false) then s.hold q .sweep old
      else if repairing then
        let s := if (s.repairOf a).isSome ∧ old.isSome then s else s.openRepair a 0 q.slice []
        s.hold q .repair old
      else
        match s.holdWhy l q.slice a (match old with | some h => h.why == .rush | none => false) with
        | some .rush => (s.rush l).hold q .rush old
        | some w => s.hold q w old
        | none => if s.coding then s.applyInRoom q l old else (s.applyCoded { q with poison := 0 } l).markPoison q.addr q.poison

/-- R294: an element whose words bear poison is taken as a NaN. -/
def poisonElems (fmt a mask : Nat) (b : Bytes) : Bytes :=
  let w := fmtBytes fmt
  ((List.range (b.length / w)).map (fun i =>
    if (spanMask (a + w * i) w &&& mask) != 0 then le w (nanCode fmt) else slice b (w * i) w)).flatten

/-- R198 to R203: a write to an intake window. -/
def State.writeIntake (s : State) (q : SReq) (base n : Nat) (old : Option Held) : State :=
  let t := s.streamAt n
  let off := q.addr - base
  let st := match old with | some h => h.step | none => s.intakeStep
  let held : Bool := match old with | some h => h.why == .intake || h.step != s.intakeStep | none => false
  if off < 256 then (s.controlWrite n off (reqBytes q)).answer q 0 0 []
  else match s.judgeIntake t st held off q.size with
    | .refuse c => ((s.inc 0x8400_0A).evSlice q.slice 0x4007 (be 8 q.addr ++ be 1 c)).refuse q
    | .hold c tid =>
      let s := if old.any (·.why == .intake) then s else (s.inc 0x8400_09).evSlice q.slice 0x4009 (be 2 n ++ be 2 tid ++ be 1 c)
      s.hold q .intake old
    | .go => (s.intakeApply t st off (poisonElems t.hfmt q.addr q.poison (reqBytes q))).answer q 0 0 []

/-- R227, R228: a write to the control line or the scores of a layer. -/
def State.writeScores (s : State) (q : SReq) (base n : Nat) : State :=
  let y := s.layerAt n
  let off := q.addr - base
  if off < 256 then (s.layerControl y off (reqBytes q)).answer q 0 0 []
  else match s.scoreCall y off q.size with
    | some c => ((s.inc 0x8410_0B).evSlice q.slice 0x4108 (be 1 n ++ be 4 c)).refuse q
    | none => s.storePlain q

/-- A write that the region discards, completed as if done. -/
def State.discard (s : State) (q : SReq) : State := s.answer q 0 0 []

/-- A host write to a felt line (R117, Table 13-4). -/
def State.writeFelt (s : State) (q : SReq) : State :=
  if q.poison ≠ 0 then s.refusePoison q else ((s.inc 0x8300_07).tallyAt 0x3007 q.addr).discard q

/-- A served write by its range. -/
def State.serveWrite (s : State) (q : SReq) (r : Region) (old : Option Held) : State :=
  match s.lineAt q.addr with
  | some l => s.writeCoded q l old
  | none =>
    match r.kind with
    | .working | .completion => ((s.inc 0x8210_07).tallyAt 0x2108 q.addr).discard q
    | .list => (if s.pass.running then (s.inc 0x8210_08).evStep 0x2107 (be 8 s.step ++ be 1 r.item ++ be 8 q.addr) else s).storePlain q
    | .felt | .spare | .reserve => s.writeFelt q
    | .intake => s.writeIntake q r.base r.item old
    | .staging | .result => ((s.inc 0x8400_0A).evSlice q.slice 0x4007 (be 8 q.addr ++ be 1 3)).discard q
    | .scores => s.writeScores q r.base r.item
    | .backing | .fence => s.discard q
    | .aperture => (s.yHost q).routeSettle
    | _ => s.storePlain q

/-- A served atomic: the yard executes it; no other range does. -/
def State.serveAtomic (s : State) (q : SReq) (r : Region) : State :=
  match r.kind with
  | .aperture => (s.yHost q).routeSettle
  | _ => s.refuse q

/-- A served read: an intake window reads as zeros (R198), the aperture and the fence word are the yard's, the rest is read from
its controller. -/
def State.serveRead (s : State) (q : SReq) (r : Region) : State :=
  match r.kind with
  | .intake => s.answer q 0 0 (zeros q.size)
  | .aperture => (s.yHost q).routeSettle
  | .fence => s.yFenceRead q
  | _ =>
    let a := s.viewAddr q.addr
    if (s.repairOf a).isSome then s.openRepair a (s.lineClass a) q.slice [q] else s.toCtrl q true

/-! ### The fabric face (R10, R11, R382) -/

/-- A whole request, steered or passed through (R10). A full hold queue makes every write wait (R380). -/
def State.accept (s : State) (q : SReq) (old : Option Held) : State :=
  let wait : Bool := reqCls q == 1 && (match old with | some h => decide (h.why = .queue) | none => true) &&
    (decide (s.queued q.slice ≥ 256) || s.sport.held.any (fun h => decide (h.why = .queue) && h.req.slice == q.slice))
  if wait then s.hold q .queue old
  else match s.served q.slice q.addr with
    | none => (if old.isSome then s else s.inc 0x8710_01).toCtrl q false
    | some r =>
      let s := if old.isSome then s else s.inc 0x8710_02
      if q.kind = 1 then s.serveRead q r else if q.kind = 2 then s.serveWrite q r old else s.serveAtomic q r

/-- A response at the fabric face; in FROZEN, and at the bypass of a mapped-out slice, no count moves (R400, R15). -/
def State.reply (s : State) (q : SReq) (status poison : Nat) (data : Bytes) : State :=
  if s.dev = 8 ∨ s.active q.slice = false then s.modSPort fun p => { p with resp := p.resp ++ [⟨q.slice, q.kind, status, q.tag, poison, data⟩] }
  else s.answer q status poison data

/-- R400: a request in FROZEN: pass-through goes on, and a request that hits a range has its error response. No count moves. -/
def State.frozenRequest (s : State) (q : SReq) : State :=
  if (s.served q.slice q.addr).isSome then
    if q.kind = 1 then s.reply q 2 (2 ^ 32 - 1) [] else s.reply q 1 0 []
  else s.toCtrl q false

/-- A request that lies on one side of every edge of the steering table. -/
def State.acceptWhole (s : State) (q : SReq) : State := if s.dev = 8 then s.frozenRequest q else s.accept q none

/-- The second part of a split request follows once its first part has its response (R11). -/
def State.runSecond (s : State) : State :=
  s.sport.second.foldl (fun s q =>
    let rest := s.sport.second.filter (· ≠ q)
    let s' := s.modSPort fun p => { p with second := rest }
    if (s'.openReqs q.slice).any (·.tag = q.tag) ∨ s'.sport.held.any (fun h => h.req.slice == q.slice && h.req.tag == q.tag) then s
    else s'.acceptWhole q) s

/-- The end of the line that a request begins in is an edge of the steering table, or lies in the aperture (R11, R259). -/
def State.atEdge (s : State) (q : SReq) : Bool :=
  s.served q.slice q.addr != s.served q.slice (q.addr / 256 * 256 + 256) || s.inAperture q.addr

/-- R11: a request that leaves its line at an edge is served as two requests, split there; they complete in address order. -/
def State.acceptParts (s : State) (raw : Nat) (q : SReq) : State :=
  let n := 256 - q.addr % 256
  if q.size ≤ n ∨ s.atEdge q = false then (s.acceptWhole q).runSecond
  else
    let second : SReq := { q with addr := q.addr + n, size := q.size - n, data := q.data.drop n, poison := if q.kind = 2 then raw &&& spanMask 0 (q.size - n) else 0 }
    let s := s.modSPort fun p => { p with second := p.second ++ [second] }
    (s.acceptWhole { q with size := n, data := q.data.take n }).runSecond

/-- R380: the hold queue is drained in acceptance order: each write is judged again, and those that still wait stay in order.
What a rollback still owes (R161) and the corrections held (R318) are tried again first. -/
def State.drainHeld (s : State) : State :=
  let since := s.cowSince
  let s := s.undoOwed.freeCow.tryFixes.askWaiting
  ((s.sport.held.foldl (fun s h => s.accept h.req (some h)) (s.modSPort fun p => { p with held := [] })).runSecond).countCow since |>.redSettle

/-- The cause of a protocol error at the fabric face (R382): 1 kind, 2 size, 3 tag, 4 credit. -/
def State.protocolFault (s : State) (q : SReq) : Option Nat :=
  let edge := s.atEdge q
  let crosses := decide (q.addr % 256 + q.size > 256)
  if q.kind = 0 ∨ q.kind > 0xC then some 1
  else if q.size = 0 ∨ q.size > 256 ∨ (q.kind ≥ 3 ∧ q.size ≠ 4 ∧ q.size ≠ 8) ∨ (crosses ∧ (q.kind ≥ 3 ∨ ¬ edge)) then some 2
  else if (s.openReqs q.slice).any (·.tag = q.tag) ∨ s.sport.held.any (fun h => h.req.slice == q.slice && h.req.tag == q.tag) then some 3
  else if s.creditsSpent q.slice (reqCls q) ≥ 128 then some 4
  else none

/-- A request within the widths of Table 17-1. -/
def reqTrim (q : SReq) : SReq :=
  let a := q.addr % 2 ^ 57
  { q with addr := a, tag := q.tag % 4096, poison := if q.kind = 2 then q.poison &&& spanMask a (min q.size (256 - a % 256)) else 0 }

/-- R15: the bypass of a mapped-out slice passes a request on as it is. -/
def State.bypass (s : State) (q : SReq) : State := s.modSPort fun p => { p with ctrl := p.ctrl ++ [⟨q, false, true⟩] }

/-- R10, R11, R259, R382: a request arrives at the fabric face. -/
def State.request (s : State) (q : SReq) : State :=
  let raw := q.poison
  let q := reqTrim q
  if s.dev = 0 then s
  else if s.active q.slice = false then s.bypass q
  else if s.dev = 8 then s.acceptParts raw q
  else match s.protocolFault q with
    | some c => (s.evSlice q.slice 0x7106 (be 1 q.slice ++ be 1 0 ++ be 1 c)).errorResp q
    | none => s.acceptParts raw q

/-! ### The controller face (R378, R381, R382) -/

/-- The number of poisoned words in a mask. -/
def poisonCount (mask : Nat) : Nat := popcount mask 32

/-- R378: the response of a pass-through request goes on unchanged; its effect on memory is the controller's. -/
def State.passResponse (s : State) (q : SReq) (status poison : Nat) : State :=
  let s := if s.dev = 8 ∨ s.active q.slice = false then s else s.incBy 0x8710_0D (poisonCount poison)
  if q.kind = 1 then s.reply q status (poison % 2 ^ 32) (s.plainRead q.addr q.size)
  else if status ≠ 0 then s.reply q status 0 []
  else if q.kind = 2 then ((s.mwr q.addr (reqBytes q)).markPoison q.addr q.poison).reply q 0 0 []
  else
    let w := s.mNat q.addr q.size
    (s.mwrNat q.addr q.size (yardOp q.kind q.size w (fldLe q.data 0 q.size) (fldLe q.data 8 q.size))).reply q 0 0 (le q.size w)

/-- R295, Table 13-4: the response of a read that the slice serves. A line with a repair waits for it; other lines are returned
with their marks. -/
def State.servedResponse (s : State) (q : SReq) : State :=
  let a := s.viewAddr q.addr
  let mask := s.poisonBits a &&& spanMask a q.size
  let cls := s.lineClass a
  let felt := if cls = 1 then (s.feltAt a).bind (fun f => (s.feltFault f.2.2.2.1 f.2.1).map (fun c => (f, c))) else none
  match felt with
  | some (f, c) =>
    let s := s.eraseFelt f.2.2.2.2 f.2.1 f.2.2.1 f.2.2.2.1 c
    s.openRepair f.2.2.2.1 1 q.slice [q]
  | none =>
    if mask ≠ 0 ∧ (cls ≤ 4 ∨ cls = 6) then s.openRepair a cls q.slice [q]
    else if mask ≠ 0 then ((s.openRepair a cls q.slice [q]).endRepair a false)
    else s.answer q 0 0 (s.mrd a q.size)

/-- R378, R382: a response arrives at the controller face of slice n. `poison` marks words that the controller reports. The bypass
of a mapped-out slice passes on even a response that answers nothing (R15). -/
def State.response (s : State) (n kind tag status poison : Nat) : State :=
  match s.sport.ctrl.find? (fun c => c.issued && c.req.slice == n && c.req.tag == tag && c.req.kind == kind), decide (status ≤ 2) with
  | some c, true =>
    let q := c.req
    let s := s.modSPort fun p => { p with ctrl := p.ctrl.filter (· ≠ c) }
    let told := if status = 2 then spanMask q.addr q.size else poison &&& spanMask q.addr q.size
    let s := if q.kind = 1 then s.markPoison (s.viewAddr q.addr) told else s
    let mask := (s.poisonBits q.addr &&& spanMask q.addr q.size) ||| poison
    let s := if c.served then s.servedResponse q else s.passResponse q status mask
    s.pumpCtrl
  | _, _ =>
    if s.active n = false then s.modSPort fun p => { p with resp := p.resp ++ [⟨n, kind, status, tag, poison, []⟩] }
    else if s.dev = 8 then s
    else (s.evSlice n 0x7106 (be 1 n ++ be 1 1 ++ be 1 (if status ≤ 2 then 3 else 1))).unitFailed 0x7106 n

/-- A stall of a controller begins (R381). -/
def State.beginStall (s : State) (n kind : Nat) : State :=
  if kind = 0 ∨ kind > 3 ∨ s.stallOf n ≠ 0 then s
  else (s.modSPort fun p => { p with stalls := p.stalls ++ [(n, kind, s.now)] }).inc 0x8710_05

/-- A stall has lasted 0x7100.05 (R381). -/
def State.longStall (s : State) (n : Nat) : State :=
  match s.sport.stalls.find? (·.1 == n) with
  | some (_, kind, t) =>
    if s.sport.longStalls.contains n then s
    else ((s.modSPort fun p => { p with longStalls := n :: p.longStalls }).inc 0x8710_07).evSlice n 0x7103 (be 1 n ++ be 1 kind ++ be 8 (s.now - t))
  | none => s

/-- The stall indicator returns to 0 (R381). -/
def State.endStall (s : State) (n : Nat) : State :=
  match s.sport.stalls.find? (·.1 == n) with
  | some (_, _, t) =>
    ((s.modSPort fun p => { p with stalls := p.stalls.filter (·.1 ≠ n), longStalls := p.longStalls.filter (· ≠ n) }).incBy 0x8710_06 (s.now - t)).pumpCtrl
  | none => s

end Sys2Proof.Machine
end

