-- ==== Sys2Proof/Machine/Audit.lean ====
section
/-!
DEFINITION. The commands of the comparison of replicas and of the bisection (14_determinism_and_audit.md). The job key and
the stream query are writes of the dictionary.
-/

namespace Sys2Proof.Machine

/-- WATERMARK (R314, R315): a replica's watermark frame arrives. -/
def execWatermark (r : Rx) (s : State) : Out := frameRow [0x70] r s fun s => s.auditTake r.f fun s => s.takeWatermark r.f

/-- BISECTION_START (R315 to R317): the lead holds every replica's frame for a commit, or 1 ms has passed since its fold. -/
def execBisectionStart (commit : Nat) (s : State) : Out := whenServing s fun s => s.startBisect commit

/-- BISECT_QUERY (R317, R318): a query arrives; `own` is the line as this member's own code gives it, where it can be solved. -/
def execBisectQuery (r : Rx) (own : Option (List Nat)) (s : State) : Out :=
  frameRow [0x71] r s fun s => s.auditTake r.f fun s => s.takeQuery r.f own

/-- BISECT_ANSWER (R317): an answer arrives at the lead. -/
def execBisectAnswer (r : Rx) (s : State) : Out := frameRow [0x72] r s fun s => s.auditTake r.f fun s => s.takeBisectAnswer r.f

/-- BISECT_ANSWER_TIMEOUT (R317): 1 ms has passed since a query and a member has not answered. -/
def execBisectAnswerTimeout (dev : Nat) (s : State) : Out := whenServing s fun s => s.dropAnswer dev

/-- LINE (R318): a Line frame arrives, a verdict or a correction; `own` is the lead's own line as its code gives it. -/
def execLine (r : Rx) (own : Option (List Nat)) (s : State) : Out :=
  frameRow [0x73] r s fun s => s.auditTake r.f fun s => s.takeLine r.f own

/-- BISECTION_LIMIT (Table 14-7): 0x6001.04 has passed since the bisection began. -/
def execBisectionLimit (s : State) : Out := whenServing s fun s => s.abandonBisect 1

end Sys2Proof.Machine
end

