-- ==== Sys2Proof/Machine/CutOps.lean ====
section
/-!
DEFINITION. The shared operations of membership changes: the collections of the lead, the cut, rebuild, the release, re-striping and
joining (07_loss_rebuild_and_membership.md).
-/

namespace Sys2Proof.Machine

/-! ### Gates (R149, R173, R174) -/

/-- The frame is of the own job. -/
def State.ourJob (s : State) (f : Bytes) : Bool := fld f 8 8 == s.job

/-- R149 for a frame of a membership change: a lower number from a unit that the change does not name is answered with a
stale notice; a higher number passes, since the sender may have changed already. A unit that flushes takes no part in a change: its
flush runs under the old number to completion (Table 6-6). -/
def State.gateChange (s : State) (f : Bytes) (named : List Nat) (k : State → State) : State :=
  if ¬ s.ourJob f then s
  else if fld f 4 4 < s.halter ∧ ¬ named.contains (fld f 2 2) then s.staleNotice f
  else
    let s := if fld f 4 4 = s.halter ∧ s.member.members.contains (fld f 2 2) then s.hear (fld f 2 2) else s
    if s.flushing then s else k s

/-! ### Taking a proposal (R153) -/

/-- n device ids from offset off of a frame. -/
def idsAt (f : Bytes) (off n : Nat) : List Nat := (List.range n).map (fun i => fld f (off + 2 * i) 2)

/-- R153: a proposal counts against the one accepted before. -/
def State.preferred (s : State) (num sender : Nat) : Bool :=
  match s.member.accepted with
  | none => true
  | some p => decide (num > p.num) || (num == p.num && decide (sender ≤ p.sender))

/-! ### The lead collects Accepts and Readys (R154, R155) -/

/-- Bit g for every group in which more members than m are lost, or a role has no stand-in. -/
def groupBits (gs : List Nat) : Nat := sumN ((gs.eraseDups.filter (· < 64)).map (fun g => 2 ^ g))

/-- The groups that lose more than m members to a lost list. -/
def State.overLost (s : State) (gs : List (List Nat)) (lost : List Nat) : List Nat :=
  (List.range gs.length).filter (fun g => ((gs.getD g []).filter (fun d => lost.contains d)).length > s.m)

/-- The member whose shard role t of group g is, which its member l holds: another's where l is a stand-in (R164). -/
def State.roleShard (s : State) (x : Nat × Nat × Nat) : Nat :=
  ((s.member.relStandIns.find? (fun y => y.group == x.2.1 && y.off == x.2.2 && y.dev == x.1)).map (·.src)).getD x.1

/-- What a loss cut makes of the groups: the stand-ins, the interim groups, and roles with none. -/
def State.interim (s : State) (new lost : List Nat) (free : List (Nat × Nat)) : List StandIn × List (List Nat) × List (Nat × Nat) :=
  let held := (new.map (fun d => (d, (s.member.relStandIns.filter (·.dev = d)).length)))
  chooseStandIns s.member.relOrder new (fun t => s.pieceSize (if t < s.k then 0 else 1)) s.roleShard (lostRoles s.member.relGroups lost)
    s.member.relGroups free held [] []

/-- R110: a placement of the members is refused. -/
def State.unplaceable (s : State) (ms : List Nat) : Bool :=
  (refusal s.domTable ms (deal s.domTable 5 ms) s.k s.m (s.rd 0x3001_02)).isSome

/-- R155, R175: the failing groups of a change, none when it is within tolerance: every group when the placement is refused or R146
forbids the change. While the fill runs the felts hold no parity to lose, and the placement is computed again (Table 5-4). -/
def State.failing (s : State) (kind : Nat) (new lost : List Nat) (free : List (Nat × Nat)) : Nat :=
  if s.lastNumber ∨ s.unplaceable new then 2 ^ 64 - 1
  else if s.member.filling ∨ kind ≠ 1 then 0
  else
    let (_, _, bad) := s.interim new lost free
    groupBits (s.overLost s.member.relGroups lost ++ bad.map (·.2))

/-- Table 7-2: the Cut frame. -/
def State.cutFrame (s : State) (p : Proposal) (c verdict : Nat) (digest : Bytes) (free : List Nat) : Bytes :=
  s.header 0x23 0 ++ be 4 p.num ++ be 8 c ++ digest ++ be 1 verdict ++ be 1 p.kind ++ zeros 2 ++ be 1 p.members.length ++ zeros 7 ++
    (free.map (be 8)).flatten

/-- R174: the shard a joiner takes: that of its own id if stand-ins hold it, else that of the lowest lost id. -/
def joinShard (dead : List Nat) (j : Nat) : Nat := if dead.contains j then j else (sortNat dead).headD j

/-- R166: the groups once the joiner has the roles that stand-ins hold of a shard. -/
def joinGroups (gs : List (List Nat)) (sis : List StandIn) (shard j : Nat) : List (List Nat) :=
  (List.range gs.length).map (fun g =>
    let gr := gs.getD g []
    (List.range gr.length).map (fun t => if sis.any (fun x => x.src = shard ∧ x.group = g ∧ x.off = t) then j else gr.getD t 0xFFFF))

/-- The groups after a change at a member: base, interim, joined, or switched. -/
def State.groupsAfter (s : State) (p : Proposal) (free : List (Nat × Nat)) : List (List Nat) :=
  if p.kind = 1 ∧ ¬ s.member.filling then (s.interim p.members (sortNat (s.member.lostNow ++ p.lost)) free).2.1
  else if p.kind = 3 then s.member.target
  else if s.halter = 0 ∨ s.member.filling then
    ((placeOrder s.domTable (deal s.domTable 5 p.members) s.k s.m (s.rd 0x3001_02)).map (·.groups)).getD []
  else
    match p.members.find? (fun d => ¬ s.member.members.contains d) with
    | none => s.member.groups
    | some j => joinGroups s.member.groups s.member.standIns (joinShard s.member.dead j) j

/-- R154: the list holds more than half of the current members, or half with the lowest of them. -/
def State.quorum (s : State) (ms : List Nat) : Bool :=
  let cur := s.member.members
  let n := (ms.filter (fun d => cur.contains d)).length
  2 * n > cur.length || (2 * n == cur.length && (cur.isEmpty || ms.contains (cur.headD 0)))

/-! ### Rebuild at the stand-ins (R163 to R168) -/

/-- The identity of the data line of role t in a group at this member: its own, or of a piece. -/
def State.roleLine (s : State) (g t sp stripe : Nat) : Option LineId :=
  let lb := s.band false sp
  match s.member.pieces.find? (fun p => p.kind = 0 ∧ p.group = g ∧ p.idx = t) with
  | some p => some ⟨p.src, sp, t * lb + stripe⟩
  | none => if s.ofld 0x3003_02 (2 * t) 2 = g then some ⟨s.own, sp, t * lb + stripe⟩ else none

/-- This member holds parity j of a group, by its role or in a piece (R163). -/
def State.holdsParity (s : State) (g j : Nat) : Bool :=
  s.parityIn false g == some j || s.member.pieces.any (fun p => p.kind == 1 && p.group == g && p.idx == j)

/-- The images at C of `n` lines of role t from a stripe on, as far as the lines exist (R166). -/
def State.roleImages (s : State) (g t sp first : Nat) : Nat → List (List Nat)
  | 0 => []
  | n + 1 =>
    let e := elems sp
    let img : Option (List Nat) :=
      if t < s.k then
        match s.roleLine g t sp first with
        | some l => if l.line < s.lineCount l.src sp then (s.lineAddr l).map (fun a => (s.lineVals sp a).map toField) else none
        | none => none
      else if s.holdsParity g (t - s.k) then (s.feltAddr false g sp first).map (fun a => s.mWords a 8 e)
      else none
    match img with
    | some ws => ws :: State.roleImages s g t sp (first + 1) n
    | none => []

/-- Table 7-2: a Rebuild data frame. -/
def State.rebuildFrame (s : State) (g sp first t : Nat) (lines : List (List Nat)) : Bytes :=
  let chk := couchCheck (elems sp) ((List.range lines.length).map (fun i => (i, ((lines.getD i []).map Int.ofNat))))
  s.header 0x2A 0 ++ be 2 g ++ be 1 sp ++ be 1 lines.length ++ be 4 first ++ be 1 t ++ zeros 7 ++ be 8 chk ++
    (lines.map (fun ws => (ws.map (be 8)).flatten)).flatten

/-- R116, Table 13-4: a line that a Rebuild read asks for and that is unreadable, or a felt line that is erased, is repaired first.
none when stripe `n` of the role can be read. -/
def State.readBlocked (s : State) (g t sp n : Nat) : Option State :=
  if t < s.k then
    match (s.roleLine g t sp n).bind s.lineAddr with
    | some a => if s.unreadable a then some (if (s.repairOf a).isSome then s else s.openRepair a 0 ((s.sliceOf a).getD 0) []) else none
    | none => none
  else if s.holdsParity g (t - s.k) then
    match s.feltAddr false g sp n with
    | some a => (s.feltFault a sp).map (fun cause => s.eraseFelt (t - s.k) sp n a cause)
    | none => none
  else none

/-- R166: a Rebuild read is answered, after the own rollback and once every line it asks for can be read. -/
def State.takeRead (s : State) (f : Bytes) : State :=
  let g := fld f 16 2
  let sp := fld f 18 1
  let t := fld f 24 1
  let first := fld f 20 4
  let n := min (fld f 19 1) (s.band false sp - first)
  let wait (s : State) : State := s.modMember fun m => { m with reads := m.reads ++ [f] }
  if s.member.rolling.isSome then wait s
  else match (List.range n).findSome? (fun i => s.readBlocked g t sp (first + i)) with
    | some s => wait s
    | none =>
      let lines := s.roleImages g t sp first n
      if lines.isEmpty then s else s.sendMember (fld f 2 2) (s.rebuildFrame g sp first t lines)

/-- The Rebuild reads that waited are taken again. -/
def State.takeReads (s : State) : State := s.member.reads.foldl State.takeRead (s.modMember fun m => { m with reads := [] })

/-- The lost roles of a group in the change in hand. -/
def State.lostIn (s : State) (g : Nat) : List StandIn :=
  s.member.standIns.filter (fun x => x.group = g ∧ s.member.lostNow.contains x.lost)

/-- R166: the groups whose decode point this member is. -/
def State.decodeGroups (s : State) : List Nat :=
  (List.range s.member.groups.length).filter (fun g =>
    let ls := s.lostIn g
    match (sortNat (ls.map (·.off))).head? with
    | some t => ls.any (fun x => x.off = t ∧ x.dev = s.own)
    | none => false)

/-- The surviving data indices, the parities used and the check parity of a group (R166). -/
def State.decodePlan (s : State) (g : Nat) : List Nat × List Nat × List Nat × Option Nat :=
  let off := (s.lostIn g).map (·.off)
  let lostD := (List.range s.k).filter (fun t => off.contains t)
  let live := (List.range s.k).filter (fun t => ¬ off.contains t)
  let par := (List.range s.m).filter (fun j => ¬ off.contains (s.k + j))
  let use := par.take (max 1 lostD.length)
  (lostD, live, use, (par.drop use.length).head?)

/-- The stripes of both spaces of a group. -/
def State.stripes (s : State) (g : Nat) : List (Nat × Nat × Nat) :=
  (List.range (s.band false 0)).map (fun n => (g, 0, n)) ++ (List.range (s.band false 1)).map (fun n => (g, 1, n))

/-- R166: the Rebuild read frames of a group for one role and space. -/
def State.readRole (s : State) (g t sp : Nat) : State :=
  let per := if sp = 0 then 32 else 16
  let n := s.band false sp
  let dev := (s.groupOf false g).getD t 0xFFFF
  (List.range (ceilDiv n per)).foldl (fun s i =>
    s.sendMember dev (s.header 0x29 0 ++ be 2 g ++ be 1 sp ++ be 1 (min per (n - per * i)) ++ be 4 (per * i) ++ be 1 t ++ zeros 7)) s

/-- R156, R166: as decode point this member asks for what it needs; as stand-in it awaits its lines. -/
def State.startRebuild (s : State) : State :=
  let gs := s.decodeGroups
  let mine := s.member.standIns.filter (fun x => x.dev = s.own ∧ s.member.lostNow.contains x.lost ∧ ¬ gs.contains x.group)
  let due (x : StandIn) : List (Nat × Nat × Nat × Nat) :=
    ((s.stripes x.group).filter (fun y => x.off ≥ s.k ∨ x.off * s.band false y.2.1 + y.2.2 < s.lineCount x.src y.2.1)).map
      (fun y => (y.1, y.2.1, y.2.2, x.off))
  let s := s.modMember fun m => { m with
    decode := (gs.map s.stripes).flatten, images := [], awaited := (mine.map due).flatten, failed := 0, rebuilt := 0 }
  gs.foldl (fun s g =>
    let (_, live, use, chk) := s.decodePlan g
    let roles := live ++ use.map (s.k + ·) ++ (match chk with | some j => [s.k + j] | none => [])
    roles.foldl (fun s t => (s.readRole g t 0).readRole g t 1) s) s

/-- A rebuilt line is written at this member (R168): a data piece, a parity piece, or, at a joiner, its own regions. -/
def State.storeRebuilt (s : State) (g t sp stripe : Nat) (ws : List Nat) : State :=
  let s := s.modMember fun m => { m with rebuilt := m.rebuilt + 1 }
  let s := s.inc 0x8320_07
  if t < s.k then
    match s.roleLine g t sp stripe with
    | some l =>
      match s.lineAddr l with
      | some a => (s.mwr a (wordsBytes (wordW sp) (ws.map (fun w => pat (8 * wordW sp) (ofField w))))).touchPage a |>.rederive l s.committed
      | none => s
    | none => s
  else match s.feltAddr false g sp stripe with
    | some a => s.mwr a (wordsBytes 8 ws)
    | none => s

/-- R156 step 6: the rebuild or transfer of this member is done. -/
def State.rebuildDone (s : State) : State :=
  if ¬ (s.member.decode.isEmpty ∧ s.member.awaited.isEmpty ∧ s.member.reads.isEmpty) ∨ s.member.rolling.isSome then s else
    match s.member.cut with
    | none => s
    | some (_, _, at_) =>
      if s.member.readies.any (fun r => r.dev = s.own ∧ r.phase = 2) ∨ s.member.filling then s else
        let dt := s.now - at_
        let s := s.wr 0x8320_0D dt
        let s := s.journal 5 (le 8 s.member.rebuilt ++ le 8 dt)
        let s := s.evHub 0x3205 (be 8 s.member.rebuilt ++ be 8 dt)
        s.sendReady 2 (if s.member.failed = 0 then 0 else 1) s.member.rebuilt s.member.failed

/-- The image of role t for a stripe: received, or zero where the line does not exist (R166). -/
def State.imageOf (s : State) (g sp stripe t : Nat) : Option (List Nat) :=
  match s.member.images.find? (fun i => i.group = g ∧ i.space = sp ∧ i.stripe = stripe ∧ i.role = t) with
  | some i => some i.vals
  | none =>
    if t < s.k then
      let lb := s.band false sp
      let dev := (s.member.relGroups.getD g []).getD t 0xFFFF
      let src := ((s.member.standIns.find? (fun x => x.group = g ∧ x.off = t)).map (·.src)).getD dev
      if t * lb + stripe ≥ s.lineCount src sp then some (List.replicate (elems sp) 0) else none
    else none

/-- R168: a rebuilt data element maps back into range. -/
def inRange (sp : Nat) (u32 : Bool) (y : Nat) : Bool :=
  let v := ofField y
  if sp = 0 then decide (-w64Max ≤ v ∧ v ≤ w64Max)
  else if u32 then decide (0 ≤ v ∧ v < 2 ^ 32) else decide (-m32Max ≤ v ∧ v ≤ m32Max)

/-- The line number of a space holds U32 words in the mould layout (R102, R168). -/
def State.lineIsU32 (s : State) (n : Nat) : Bool :=
  match lineIn (s.space 1) n with
  | some a => s.isU32 a
  | none => false

/-- R167, R168: one stripe solved and checked: the images of the lost roles, or none when it fails. -/
def State.solveStripe (s : State) (g sp stripe : Nat) : Option (List (Nat × List Nat)) :=
  let (lostD, live, use, chk) := s.decodePlan g
  let img (t : Nat) : List Nat := (s.imageOf g sp stripe t).getD (List.replicate (elems sp) 0)
  let used := use.take lostD.length
  let checks := use.drop lostD.length ++ (match chk with | some j => [j] | none => [])
  let cols := (List.range (elems sp)).map (fun e =>
    let x := live.map (fun i => (i, (img i).getD e 0))
    let ys := rebuildElement lostD x (used.map (fun j => (j, (img (s.k + j)).getD e 0)))
    let full := x ++ (List.range lostD.length).map (fun r => (lostD.getD r 0, ys.getD r 0))
    let good := checks.all (fun j => parityElement j full = (img (s.k + j)).getD e 0)
    (full, good))
  let lb := s.band false sp
  let dataOk := lostD.all (fun a =>
    let n := a * lb + stripe
    let src := ((s.lostIn g).find? (·.off = a)).map (·.src)
    let ys := cols.map (fun c => ((c.1.find? (·.1 == a)).map (·.2)).getD 0)
    if n ≥ s.lineCount (src.getD 0) sp then ys.all (· == 0) else ys.all (inRange sp (s.lineIsU32 n)))
  if cols.all (·.2) ∧ dataOk then
    some ((s.lostIn g).map (fun x => (x.off, cols.map (fun c =>
      if x.off < s.k then ((c.1.find? (·.1 == x.off)).map (·.2)).getD 0 else parityElement (x.off - s.k) c.1))))
  else none

/-- R168: a stripe all of whose images are held is solved; a good one goes to its stand-ins, a bad one is reported. DESIGN CHOICE: the
other stand-ins of a failed stripe are told by a Rebuild data frame that carries no line, since no rule says how else their part of
the rebuild ends. -/
def State.tryStripe (s : State) (g sp stripe : Nat) : State :=
  let (_, live, use, chk) := s.decodePlan g
  let roles := live ++ use.map (s.k + ·) ++ (match chk with | some j => [s.k + j] | none => [])
  if ¬ s.member.decode.contains (g, sp, stripe) ∨ roles.any (fun t => (s.imageOf g sp stripe t).isNone) then s else
    let out := s.solveStripe g sp stripe
    let ls := s.lostIn g
    let s := s.modMember fun m => { m with
      decode := m.decode.filter (fun d => ¬ (d = (g, sp, stripe)))
      images := m.images.filter (fun i => ¬ (i.group = g ∧ i.space = sp ∧ i.stripe = stripe)) }
    match out with
    | none =>
      let s := s.modMember fun m => { m with failed := m.failed ||| groupBits [g] }
      let s := (s.inc 0x8320_08).evHub 0x320A (be 2 g ++ be 1 sp ++ be 4 stripe)
      (ls.filter (fun x => x.dev ≠ s.own)).foldl (fun s x => s.sendMember x.dev (s.rebuildFrame g sp stripe x.off [])) s
    | some rs => rs.foldl (fun s r =>
        match ls.find? (·.off = r.1) with
        | none => s
        | some x =>
          if r.1 < s.k ∧ r.1 * s.band false sp + stripe ≥ s.lineCount x.src sp then s
          else if x.dev = s.own then s.storeRebuilt g r.1 sp stripe r.2
          else s.sendMember x.dev (s.rebuildFrame g sp stripe r.1 [r.2])) s

/-! ### The cut (R156) -/

/-- R157, R175: the own view of a change that is beyond tolerance. -/
def State.beyond (s : State) (groups : Nat) : State :=
  let s := s.wr 0x3200_02 5
  let s := s.wr 0x3301_08 (min (s.rd 0x3301_08 + 1) (2 ^ 32 - 1))
  if s.leadOf = s.own then s.evHub 0x3206 (be 4 s.halter ++ be 8 groups) else s

/-- A stand-in's transfer to a joiner (R166): every line of its pieces of the shard goes; the pieces are given up at the Release. -/
def State.handOver (s : State) (j shard : Nat) : State :=
  (s.member.pieces.filter (·.src = shard)).foldl (fun s p =>
    let t := if p.kind = 0 then p.idx else s.k + p.idx
    [0, 1].foldl (fun s sp =>
      let per := if sp = 0 then 32 else 16
      let n := s.band false sp
      (List.range (ceilDiv n per)).foldl (fun s i =>
        s.takeRead (zeros 2 ++ be 2 j ++ zeros 12 ++ be 2 p.group ++ be 1 sp ++ be 1 (min per (n - per * i)) ++ be 4 (per * i) ++ be 1 t ++ zeros 7)) s) s) s

/-- R166: a stand-in gives up the pieces whose role it has no more. -/
def State.dropPieces (s : State) : State :=
  s.showPieces (s.member.pieces.filter (fun p => s.member.standIns.any (fun x =>
    x.dev == s.own && x.src == p.src && x.group == p.group && x.off == (if p.kind = 0 then p.idx else s.k + p.idx))))

/-- R212: the holders of every shard whose member is lost: the stand-ins of its data roles, band 0 first, each once. -/
def State.shareOut (s : State) : State :=
  let of_ (l : Nat) : List Nat := ((List.range s.k).filterMap (fun i => (s.member.standIns.find? (fun x => x.src == l && x.off == i)).map (·.dev))).eraseDups
  s.modMember fun m => { m with shards := m.shards.map (fun x => if m.members.contains x.2.1 then x else (x.1, x.2.1, of_ x.2.1)) }

/-- The part of a loss cut after the cut of R142: interim groups and rollback (R156 step 4, R161, R164). A re-striping in hand starts
over (R171). -/
def State.lossCut (s : State) (p : Proposal) (c verdict failing : Nat) (free : List (Nat × Nat)) : State :=
  let lost := sortNat ((s.member.lostNow ++ p.lost).eraseDups)
  let (sis, gs, bad) := s.interim p.members lost free
  let s := if s.rd 0x3202_02 = 2 then (s.inc 0x8320_09).evHub 0x320D (be 1 3) else s
  let s := s.modMember fun m => { m with
    lostNow := lost, dead := sortNat ((m.relDead ++ lost).eraseDups), standIns := m.relStandIns, pieces := m.relPieces, order := m.relOrder
    shards := m.relShards, target := [], refill := [], reads := [] }
  let s := bad.foldl (fun s b => s.evHub 0x3211 (be 2 b.1 ++ be 2 b.2)) s
  let s := if s.rd 0x3202_02 = 0 then s else s.wr 0x3202_02 1
  let s := if verdict = 0 then
      let s := s.modMember fun m => { m with standIns := m.standIns.filter (fun x => ¬ lost.contains x.dev) ++ sis }
      let s := s.showGroups gs
      let s := s.takePieces sis
      let s := s.shareOut
      let s := s.showTolerance gs
      s.wr 0x3202_02 1
    else ((s.showGroups s.member.relGroups).showPieces s.member.pieces).beyond failing
  s.rollback c

/-- R118, R173: the fill of this member's lines is complete: Ready of phase 2 follows. -/
def State.fillComplete (s : State) : State :=
  if s.member.filling ∧ s.couch.fill.isEmpty ∧ s.rd 0x3000_0B = 0 ∧ s.member.cut.isSome ∧ s.member.rolling.isNone ∧
      ¬ s.member.readies.any (fun r => r.dev = s.own ∧ r.phase = 2) then
    s.sendReady 2 0 s.member.rebuilt 0
  else s

/-- R119, Table 5-4: a loss cut that meets the fill: the fill is abandoned, the placement is computed again over the
survivors, and the fill begins again; a placement refused is beyond tolerance (R175). -/
def State.restartFill (s : State) (p : Proposal) (c failing : Nat) : State :=
  let s := s.modMember fun m => { m with
    lostNow := sortNat ((m.lostNow ++ p.lost).eraseDups), shards := (sortNat p.members).map (fun d => (d, d, [d])) }
  let s := (s.inc 0x8300_06).evHub 0x3005 (be 4 s.halter)
  let (ok, s) := s.computePlacement p.members
  let s := s.rollback c
  if ok then
    let s := s.setBands p.members
    let s := s.modMember fun m => { m with relGroups := m.groups, relShards := m.shards, relOrder := m.order }
    s.beginFill
  else s.beyond failing

/-- R163: the band lengths, the placement and the fill of a job start (R109, R118, R173); the coding start fails when
the placement or the area is refused (R110, R114). -/
def State.startCut (s : State) (ms : List Nat) (c : Nat) : State :=
  let (ok, s) := s.computePlacement ms
  let s := s.setBands ms
  let s := s.modMember fun m => { m with shards := (sortNat ms).map (fun d => (d, d, [d])) }
  let s := s.wr 0x3181_01 c
  let s := s.wr 0x3181_02 c
  match if ok then s.areasRefusal (s.rd 0x3002_03) else some (0, 0, 0) with
  | some (area, why, need) =>
    let s := if ok then s.evHub 0x3003 (be 1 area ++ be 1 why ++ be 8 need) else s
    s.leaveJob.startRefused .coding (if ok then 0x3003 else 0x3001)
  | none =>
    let s := s.steerAreas
    let s := s.modMember fun m => { m with
      relGroups := m.groups, relPieces := m.pieces, relShards := m.shards, relOrder := m.order, lostNow := [], filling := true }
    s.beginFill.fillComplete

/-- R166, R174: a late admission at a member: the stand-ins give the shard to the joiner, whose roles are then its own. -/
def State.giveShard (s : State) (j : Nat) (gs : List (List Nat)) : State :=
  let shard := joinShard s.member.dead j
  let again := decide (s.rd 0x3202_02 = 2)
  let s := s.handOver j shard
  let s := s.modMember fun m => { m with
    standIns := m.standIns.filter (·.src ≠ shard), dead := m.dead.filter (· ≠ shard), order := m.order.map (fun d => if d = shard then j else d)
    shards := m.shards.map (fun x => if x.2.1 = shard then (x.1, j, [j]) else x), target := [], refill := []
    counts := if m.counts.any (·.1 == j) then m.counts else
      ((m.counts.filter (·.1 == shard)).map (fun c => (j, c.2.1, c.2.2))) ++ m.counts }
  let s := (s.showGroups gs).showTolerance gs
  s.wr 0x3202_02 (if again ∨ ¬ s.member.dead.isEmpty then 1 else 0)

/-- R174: the joiner's view of the placement: the placement of the members before the losses, which the Propose names, with the own id
in the place of the shard it takes, and stand-ins that no rule tells it in the places of the other lost members. -/
def State.joinerGroups (s : State) (p : Proposal) : List StandIn × List (List Nat) × List Nat :=
  let shard := joinShard p.lost s.own
  let base := sortNat ((p.members.filter (· ≠ s.own)) ++ p.lost).eraseDups
  let order := deal s.domTable 5 base
  let gs := ((placeOrder s.domTable order s.k s.m (s.rd 0x3001_02)).map (·.groups)).getD []
  let roles := lostRoles gs (p.lost.filter (· ≠ shard))
  let sis := (List.range roles.length).map (fun i =>
    let x := roles.getD i (0, 0, 0)
    (⟨x.1, x.1, x.2.1, x.2.2, Config.freeValue (s.draws + i) % 2 ^ 16⟩ : StandIn))
  let all (g t d : Nat) : Nat := if d = shard then s.own else ((sis.find? (fun x => x.group == g && x.off == t)).map (·.dev)).getD d
  (sis, (List.range gs.length).map (fun g => let gr := gs.getD g []; (List.range gr.length).map (fun t => all g t (gr.getD t 0xFFFF))),
    order.map (fun d => if d = shard then s.own else d))

/-- R163, R166, R174: the joiner's part: its areas are checked and steered, and it awaits the lines of every role of the shard. The
band lengths come from the line counts it has been told, its own among them (R103). -/
def State.joinPropose (s : State) (p : Proposal) : State :=
  let shard := joinShard p.lost s.own
  let (sis, gs, order) := s.joinerGroups p
  let s := { s with draws := s.draws + sis.length }
  let base := sortNat ((p.members.filter (· ≠ s.own)) ++ p.lost).eraseDups
  let s := s.modMember fun m => { m with
    standIns := sis, dead := p.lost.filter (· ≠ shard), order := order
    shards := base.map (fun d => if d = shard then (d, s.own, [s.own]) else (d, d, [d]))
    counts := m.counts.filter (·.1 ≠ s.own) ++ [(s.own, s.ownLines 0, s.ownLines 1)] }
  let s := (s.setBands p.members).shareOut
  match s.areasRefusal (s.rd 0x3002_03) with
  | some (area, why, need) => ((s.evHub 0x3003 (be 1 area ++ be 1 why ++ be 8 need)).leaveJob).startRefused .coding 0x3003
  | none =>
    let s := ((s.showGroups gs).showRoles gs).showTolerance gs
    let s := (s.steerAreas).wr 0x3202_02 (if sis.isEmpty then 0 else 1)
    let roles := ((List.range gs.length).map (fun g =>
      ((List.range (s.k + s.m)).filter (fun t => (gs.getD g []).getD t 0xFFFF = s.own)).map (fun t => (g, t)))).flatten
    s.modMember fun m => { m with
      awaited := (roles.map (fun r => ((s.stripes r.1).filter (fun y => r.2 ≥ s.k ∨ r.2 * s.band false y.2.1 + y.2.2 < s.ownLines y.2.1)).map
        (fun y => (y.1, y.2.1, y.2.2, r.2)))).flatten, rebuilt := 0, failed := 0 }

/-- R166, R174: a late admission, at the joiner or at a member. -/
def State.joinCut (s : State) (p : Proposal) (was : List Nat) (gs : List (List Nat)) : State :=
  if s.member.joining then s.joinPropose p
  else match p.members.find? (fun d => ¬ was.contains d) with
    | none => s
    | some j => s.giveShard j gs

/-- R170: the lines of a space at a member once its adopted data pieces are appended. -/
def State.extCount (s : State) (d sp : Nat) : Nat :=
  s.lineCount d sp + sumN ((s.member.standIns.filter (fun x => x.dev = d ∧ x.off < s.k)).map (fun x => s.bandLines x.src x.off sp))

/-- R172: the switch: the target becomes the placement in use. -/
def State.switchCut (s : State) : State :=
  let gs := s.member.target
  let data := s.dataPieces
  let w := s.rd 0x3002_04
  let n := s.rd 0x3002_05
  let base := s.reserveBase
  let size := s.pieceSize 0
  let lines (p : Piece) : List Absorbed :=
    let work := base + p.off + 256 * (w + n)
    [⟨0, base + p.off, 256 * s.bandLines p.src p.idx 0, p.src, p.idx * w, work⟩,
     ⟨1, base + p.off + 256 * w, 256 * s.bandLines p.src p.idx 1, p.src, p.idx * n, work⟩]
  let told := s.member.members.map (fun d => (d, s.extCount d 0, s.extCount d 1))
  let s := s.modMember fun m => { m with
    absorbed := m.absorbed ++ (data.map lines).flatten, kept := m.kept ++ data.map (fun p => (p.off, size)), standIns := [], dead := []
    counts := told ++ m.counts.filter (fun c => ¬ m.members.contains c.1), order := deal s.domTable 5 m.members, target := [], refill := [] }
  let s := s.wr 0x3002_04 s.member.targetW
  let s := s.wr 0x3002_05 s.member.targetN
  let s := s.wr 0x3002_03 (s.m * segSize s.member.targetW s.member.targetN)
  let s := ((s.showGroups gs).showTolerance gs).showRoles gs
  let s := s.wr 0x3201_05 (1 - s.rd 0x3201_05)
  let s := s.showPieces []
  let s := s.wr 0x3202_02 0
  let s := s.journal 8 (le 4 s.halter ++ zeros 4 ++ (s.octs 0x3000_09 0 8))
  s.evHub 0x320C (be 4 s.halter ++ be 1 (s.rd 0x3000_04))

/-- The event, the journal record and the objects of a cut adopted (R156 step 1, Table 7-5). -/
def State.cutRecord (s : State) (p : Proposal) (c verdict : Nat) : State :=
  let s := s.wr 0x3200_0D c
  let s := s.wr 0x3200_0E (s.stepDone - c)
  let lost := if p.kind = 1 then p.lost else []
  let s := s.journal 3 (le 4 p.num ++ le 1 p.kind ++ le 1 verdict ++ le 2 lost.length ++ le 8 c ++ le 8 s.stepDone ++
    padTo 8 ((lost.map (le 2)).flatten))
  s.evHub 0x3203 (be 4 p.num ++ be 8 c ++ be 1 p.kind)

/-- R156 steps 1 to 3: the number and the list are adopted, and the cut of R142 is made. A cut at the last number adopts neither
(R146). -/
def State.adoptList (s : State) (p : Proposal) (c verdict : Nat) : State :=
  let done := s.stepDone
  let t := s.now
  let ms := if s.lastNumber then s.member.members else p.members
  let s := if s.lastNumber then s else (s.wr 0x3200_01 p.num).inc 0x8320_01
  let s := s.modMember fun m => { m with
    members := ms, accepted := none, proposal := none, accepts := [], readies := [], doneBeforeCut := done
    cut := some (c, p.kind, t), suspected := m.suspected.filter (fun d => p.members.contains d)
    suspects := m.suspects.filter (fun x => p.members.contains x.dev), lost := m.lost.filter (fun d => p.members.contains d) }
  let b := (ms.map (le 2)).flatten
  let s := s.wrO 0x3200_04 0 (b ++ zeros (128 - b.length))
  let s := s.wr 0x3200_03 s.leadOf
  let s := s.modCouch fun k => { k with notices := k.notices.filter (fun n => p.members.contains n.dev) }
  let late := p.kind == 1 && decide (s.committed < c)
  let s := s.couchCut c
  let s := if late then s.foldDone c else s
  let s := s.cutRecord p c verdict
  s.wr 0x3200_02 4

/-- Table 7-3: an order not yet sealed is cancelled, a snapshot sealed at a later step is abandoned (R181). -/
def State.cutSnapshot (s : State) (c : Nat) : State :=
  match s.tiers.snap with
  | some x => if x.phase = 0 then s.modTiers (fun t => { t with snap := none }) else if c < x.step then s.abandonSnap 1 else s
  | none => s

/-- As lead: an order that the cut has cancelled or had abandoned awaits no report any more (R181). -/
def State.cutOrder (s : State) (c : Nat) : State :=
  if c < s.deckle * (s.tiers.orderStep / max s.deckle 1 + 3) ∧ s.tiers.awaited ≠ [] then
    s.modTiers (fun t => { t with awaited := [], costs := t.costs.drop 1 })
  else s

/-- What a cut does to the placement: its kind, and whether the change is within tolerance (R156, R175). -/
def State.placeCut (s : State) (p : Proposal) (c verdict failing : Nat) (free : List (Nat × Nat)) (was : List Nat) (gs : List (List Nat)) : State :=
  if p.kind = 1 then s.lossCut p c verdict failing free
  else if verdict ≠ 0 then s.beyond failing
  else if p.kind = 3 then s.switchCut
  else s.joinCut p was gs

/-- R156: the member adopts a cut. `free` holds the free reserve bytes in the order of the list. -/
def State.adoptCut (s : State) (p : Proposal) (c verdict failing : Nat) (free : List Nat) : State :=
  let was := s.member.members
  let last := s.lastNumber
  let start := decide (s.halter = 0) && !s.member.joining
  let frees := (List.range p.members.length).map (fun i => (p.members.getD i 0, free.getD i 0))
  let gs := s.groupsAfter p frees
  let s := ((s.adoptList p c verdict).cutSnapshot c).cutOrder c
  let s := if p.kind = 1 then s.stopPass else s
  let s := s.atCut (if start then 0 else p.kind) c p.lost
  let s := if start then s.startCut p.members c
    else if p.kind = 1 ∧ s.member.filling then s.restartFill p c failing
    else (if last then s else (s.notePlacement p.members).2).placeCut p c verdict failing frees was gs
  let s := if s.fn .coding = 0 then s else (s.writeSeeds (c + 1)).writeSeeds (c + 2)
  let s := s.modMember fun m => { m with joining := false }
  if p.kind = 1 ∨ start then s else s.rebuildDone

/-- R154, R155: the lead sends Cut, to every other member and to itself. -/
def State.sendCut (s : State) (p : Proposal) : State :=
  let free := p.members.map (fun d => ((s.member.accepts.find? (·.dev = d)).map (·.free)).getD 0)
  let frees := (List.range p.members.length).map (fun i => (p.members.getD i 0, free.getD i 0))
  let c := if p.kind = 1 then maxN (s.member.accepts.map (·.committed))
    else if s.halter = 0 then s.rd 0x3200_0A else p.quiet
  let failing := if s.halter = 0 then 0 else s.failing p.kind p.members (sortNat ((s.member.lostNow ++ p.lost).eraseDups)) frees
  let verdict := if failing = 0 then 0 else 1
  let f := s.cutFrame p c verdict (placementDigest (s.groupsAfter p frees)) free
  let s := (p.members.filter (· ≠ s.own)).foldl (fun s d => s.sendMember d f) s
  s.adoptCut p c verdict failing free

/-- R154: the lead sends Cut once every Accept, every Ready of phase 3 and the quorum are in. -/
def State.tryCut (s : State) : State :=
  match s.member.proposal with
  | none => s
  | some p =>
    let all := p.members.all (fun d => s.member.accepts.any (·.dev = d))
    let quiet := p.kind = 1 ∨ s.halter = 0 ∨ (p.members.filter (fun d => s.member.members.contains d)).all
      (fun d => s.member.readies.any (fun r => r.dev = d ∧ r.phase = 3))
    if ¬ (all ∧ quiet) then s
    else if ¬ s.quorum p.members then
      s.evHub 0x3210 (be 1 p.members.length)
    else s.sendCut p

/-! ### Release and re-striping (R157, R170 to R172) -/

/-- R170: the target placement of a re-striping, when it is placed and fits the felt spare. -/
def State.beginRestripe (s : State) : State :=
  let t := s.domTable
  let ms := s.member.members
  match placeOrder t (deal t 5 ms) s.k s.m (s.rd 0x3001_02) with
  | none => s.evHub 0x320D (be 1 1)
  | some p =>
    let w := ceilDiv (maxN (ms.map (fun d => s.extCount d 0))) (max s.k 1)
    let n := ceilDiv (maxN (ms.map (fun d => s.extCount d 1))) (max s.k 1)
    if s.m * segSize w n > (if s.rd 0x3201_05 = 0 then s.rd 0x3201_04 else s.rd 0x3002_02) then s.evHub 0x320D (be 1 2)
    else
      let s := s.modMember fun m => { m with target := p.groups, targetW := w, targetN := n, refillWindow := 0 }
      let s := (List.range p.groups.length).foldl (fun s g =>
        match s.segment true g with
        | some b => s.mzero b (b + segSize w n)
        | none => s) s
      let pieceIds (sp : Nat) : List LineId := (s.dataPieces.map (fun p =>
        (List.range (s.bandLines p.src p.idx sp)).map (fun x => (⟨p.src, sp, p.idx * s.band false sp + x⟩ : LineId)))).flatten
      let own (sp : Nat) : List LineId := (List.range (s.ownLines sp)).map (fun x => ⟨s.own, sp, x⟩)
      let ids := own 0 ++ pieceIds 0 ++ own 1 ++ pieceIds 1
      let s := s.modMember fun m => { m with refill := ids }
      let s := s.wr 0x3202_03 ids.length
      let s := s.wr 0x3202_02 2
      s.startStreams

/-- R157: a Release: the cut ends and the job goes on. The Release that ends the fill tells every member that every line of
every member is filled: coding becomes ON with the committed step set (R118, R138). -/
def State.takeRelease (s : State) (verdict : Nat) : State :=
  match s.member.cut with
  | none => s
  | some (c, kind, at_) =>
    let wait := verdict = 1 ∨ s.rd 0x3200_02 = 5
    let filled := s.member.filling
    let s := if kind = 2 ∧ ¬ filled then (if wait then s else s.inc 0x8320_0A).dropPieces else s
    let s := s.modMember fun m => { m with
      cut := none, readies := [], accepts := [], relGroups := m.groups, relPieces := m.pieces, relStandIns := m.standIns, relDead := m.dead
      relShards := m.shards, relOrder := m.order, lostNow := [], proposal := none }
    let s := if verdict = 1 ∧ s.rd 0x3200_02 ≠ 5 then s.wr 0x3301_08 (min (s.rd 0x3301_08 + 1) (2 ^ 32 - 1)) else s
    let s := s.wr 0x3200_02 (if wait then 5 else 2)
    let s := s.wr 0x8320_0E (s.now - min at_ s.member.acceptedAt)
    let s := if kind = 1 then (s.wr 0x3181_01 c).wr 0x3181_02 c else s
    let s := s.modPass fun p => { p with ticked := false }
    let s := if kind = 1 ∨ s.rd 0x3181_01 = c then
        (s.modPass fun p => { p with armed := true }).modCouch fun k => { k with bounds := [(s.stepDone, s.epoch)] }
      else s
    let s := if filled ∧ ¬ wait then s.wr 0x3101_01 s.step else s
    let s := if s.fn .coding = 1 ∧ ¬ (filled ∧ wait) then s.setFn .coding 2 else s
    let s := s.startStreams
    let s := s.modMember fun m => { m with filling := false }
    let s := s.wr 0x3101_05 0
    let s := if s.dev = 4 ∨ s.dev = 7 then s.setDev 5 0x3203 else s
    let s := s.atRelease kind
    let s := if kind = 3 ∨ wait ∨ s.rd 0x3202_02 = 0 then s else s.beginRestripe
    s.drainHeld

/-- Table 7-2: a Release, to every other member and to the lead itself. -/
def State.sendRelease (s : State) (verdict groups : Nat) : State :=
  match s.member.cut with
  | none => s
  | some (c, _, _) =>
    let f := s.header 0x25 0 ++ be 4 s.halter ++ be 8 c ++ be 1 verdict ++ zeros 3
    let s := (s.member.members.filter (· ≠ s.own)).foldl (fun s d => s.sendMember d f) s
    let s := if verdict = 1 then s.evHub 0x3206 (be 4 s.halter ++ be 8 groups) else s
    s.takeRelease verdict

/-- What the lead does with the Readys held: the Cut of a quiet change, a Release, or the proposal of a switch. -/
def State.judgeReadies (s : State) : State :=
  if s.leadOf ≠ s.own then s else
    let ph (n : Nat) : List ReadyRec := s.member.readies.filter (·.phase = n)
    let all (n : Nat) : Bool := s.member.members.all (fun d => (ph n).any (·.dev = d))
    if s.member.cut.isSome then
      if all 2 then
        let v := if (ph 2).any (·.verdict = 1) then 1 else 0
        s.sendRelease v ((ph 2).foldl (fun acc r => acc ||| r.groups) 0)
      else s
    else if s.member.proposal.any (fun p => s.quorum p.members) then s.tryCut
    else if s.rd 0x3202_02 = 2 ∧ all 4 ∧ ¬ s.member.members.isEmpty ∧ ¬ s.lastNumber then
      let w := maxN ((ph 4).map (·.window))
      let q := max s.quietStep (windowOf s.deckle (w + 1))
      s.proposeAt (s.halter + 1) 3 s.member.members [] q
    else s

/-! ### Joining (R173, R174) -/

/-- Table 7-2: the Join request. -/
def State.joinFrame (s : State) (late : Bool) : Bytes :=
  s.header 0x28 0 ++ be 2 (s.rd 0x7005_01) ++ be 1 (if late then 1 else 0) ++ zeros 1 ++ be 4 (s.rd 0x3002_06) ++ be 4 (s.rd 0x3002_07) ++
    be 8 s.reserveFree ++ be 4 (s.rd 0x3180_01) ++ be 8 (s.rd 0x3180_02) ++ s.settingsKey

/-- The lead that the twin names: from its latest heartbeat (R174). -/
def State.twinLead (s : State) : Nat := (s.twin.beat.map (fun b => fld b 20 2)).getD 0xFFFF

/-- A Join request goes: at job start to every device of the domain table, late to the lead the twin names. -/
def State.sendJoin (s : State) : State :=
  if s.member.joining then s.sendMember s.twinLead (s.joinFrame true)
  else (s.domTable.filter (·.1 ≠ s.own)).foldl (fun s e => s.sendMember e.1 (s.joinFrame false)) s

/-- What a write of 1 to 0x3200.0C does (R174, R360): status 13 outside PAIRED and PADDOCK and after a thermal trip. -/
def State.askJoin (s : State) : Nat × State :=
  if (s.dev = 4 ∨ s.dev = 7) ∧ ¬ s.sensors.hot then
    let s := s.modMember fun m => { m with joining := true }
    let s := if s.halter = 0 then s.wr 0x3200_02 1 else s
    (0, s.sendJoin)
  else (13, s)

/-- R173: the proposer of halter number 1, when matching requests from enough units are in. -/
def State.tryStart (s : State) : State :=
  let ids := sortNat (insertSorted s.own (sortNat ((s.member.joins.filter (fun j => ¬ j.late)).map (·.dev)))).eraseDups
  let need := s.rd 0x3200_0B
  if need = 0 ∨ ids.length < need ∨ ids.headD 0 ≠ s.own ∨ s.member.proposal.isSome ∨ s.member.accepted.isSome then s
  else
    let s := s.modMember fun m => { m with counts := m.counts.filter (·.1 ≠ s.own) ++ [(s.own, s.rd 0x3002_06, s.rd 0x3002_07)] }
    s.proposeAt 1 2 ids [] 0

/-- The reason for which the lead refuses a late Join request (R174); none when it is granted. -/
def State.joinRefusal (s : State) (f : Bytes) : Option Nat :=
  let dev := fld f 2 2
  let twin := fld f 16 2
  if slice f 48 32 ≠ s.settingsKey then some 1
  else if fld f 36 4 ≠ s.rd 0x3180_01 ∨ fld f 40 8 ≠ s.rd 0x3180_02 then some 2
  else if ¬ s.domTable.any (·.1 == dev) ∨ s.member.members.contains dev then some 3
  else if ¬ s.member.members.contains twin then some 4
  else if s.member.dead.isEmpty then some 5
  else if s.member.members.length ≥ 64 then some 6
  else none

/-! ### The journal mirror (R158) -/

/-- The control records in a mirror frame, each field most significant byte first (Table 7-2). -/
def mirrorRecs : Nat → Nat → Bytes → List JRec
  | 0, _, _ => []
  | n + 1, off, f =>
    let len := fld f (off + 2) 2
    if len < 24 ∨ f.length < off + len then [] else
      ⟨fld f off 1, fld f (off + 4) 4, fld f (off + 8) 8, fld f (off + 16) 8, flipBody (fld f off 1) (slice f (off + 24) (len - 24))⟩ :: mirrorRecs n (off + len) f

/-! ### The end of a flush (R144) -/

/-- The members that leave some copy of an own frame unacknowledged. -/
def State.lateHolders (s : State) : List Nat :=
  ((s.couch.out.map (fun x => ((List.range (s.holders x.tgt x.group).length).filter (fun j => ¬ x.acked.contains j)).map
    (fun j => (s.holders x.tgt x.group).getD j 0xFFFF))).flatten).eraseDups

/-- R144: the end of a flush: the departing notice, the Flush record, and the unit leaves the job. DESIGN CHOICE: a flush that ends
incomplete does all three too, and sets 0x3101.05 to 4: "either way, the unit leaves the job" is all that R144 says of it. -/
def State.flushEnd (s : State) (complete : Bool) : State :=
  match s.couch.flush with
  | none => s
  | some (t0, f) =>
    let left := s.outstanding
    let hs := s.lateHolders.length
    let s := (s.toMembers (s.noticeFrame 1 (s.couchedTo - 1))).journal 6 (le 8 f ++ le 8 left)
    let s := s.sendTail
    let s := s.modTwin fun t => { t with departing := true }
    let s := s.wr 0x3101_05 4
    let s := if complete then s.evHub 0x310A (be 4 ((s.now - t0) / 1000) ++ be 8 (s.rd 0x8310_06 - s.couch.paid))
      else s.evHub 0x310B (be 8 left ++ be 1 hs)
    s.enterPaddock 4 s.halter

/-- R144: every flush frame has been acknowledged by every holder that has not itself departed. -/
def State.flushCheck (s : State) : State :=
  if s.flushing ∧ s.couch.out.isEmpty ∧ s.couch.entries.isEmpty ∧ s.couch.tgtDue.isEmpty then s.flushEnd true else s

end Sys2Proof.Machine
end

