-- ==== Sys2Proof/Machine/HolderOps.lean ====
section
/-!
DEFINITION. What a parity holder does with a data frame: its checks, the vats and felts it adds to, its acknowledgement
(R129 to R133 of 06_couching_epochs_and_the_deckle.md; R169 of 07_loss_rebuild_and_membership.md).
-/

namespace Sys2Proof.Machine

/-! ### A data frame at a holder (R129, R130) -/

/-- The present lines of a data frame: bitmap position and deltas; none when a width byte is above 64 or the bytes
run out or are left over (conditions 6 and 7 of R129 told apart by the flag: true for a width byte). -/
def presentLines (E : Nat) : List Nat → Bytes → Except Bool (List (Nat × List Int))
  | [], [] => .ok []
  | [], _ :: _ => .error false
  | b :: bs, body =>
    match body with
    | [] => .error false
    | w :: _ =>
      if w.toNat > 64 then .error true else
        match unpackLine E body with
        | none => .error false
        | some (d, rest) =>
          match presentLines E bs rest with
          | .ok l => .ok ((b, d) :: l)
          | .error e => .error e

/-- R122: the bound on a decoded delta of a space. -/
def deltaOk (sp : Nat) (d : Int) : Bool :=
  let b : Nat := if sp = 0 then 2 ^ 61 else 2 ^ 32
  d.natAbs < b

/-- What a data frame is to a holder: the position of the first condition of R129 it fails (10 for a check that
differs), or its lines. -/
def State.judgeData (s : State) (tgt : Bool) (f : Bytes) : Except Nat (Nat × List (Nat × List Int)) :=
  let sp := bits (fld f 1 1) 0 1
  let g := fld f 32 2
  let role := fld f 34 1
  let first := fld f 40 4
  let E := elems sp
  let pos := setBits (fld f 44 8) 64
  let body := f.drop 64
  if fld f 8 8 ≠ s.job then .error 1
  else if fld f 4 4 ≠ s.halter then .error 2
  else match s.parityIn tgt g with
    | none => .error 3
    | some j =>
      if (s.groupOf tgt g).getD role 0xFFFF ≠ fld f 2 2 ∨ role ≥ s.k then .error 4
      else if pos.any (fun b => first + b ≥ s.band tgt sp) then .error 5
      else match presentLines E pos body with
        | .error true => .error 6
        | .error false => .error 7
        | .ok ls =>
          if fld f 52 2 ≠ body.length then .error 7
          else if ls.any (fun l => l.2.any (fun d => ¬ deltaOk sp d)) then .error 8
          else if ¬ canonical (fld f 56 8) then .error 9
          else if fld f 56 8 ≠ couchCheck E ls then .error 10
          else .ok (j, ls.map (fun l => (first + l.1, l.2)))

/-- The stream record of a source in a group. -/
def State.inStream (s : State) (src g : Nat) (tgt : Bool) : InStream :=
  (s.couch.ins.find? (fun i => i.src == src && i.group == g && i.tgt == tgt)).getD ⟨src, g, tgt, 0, 0⟩

/-- Takes the applied frames at the front of a bitmap into the cumulative sequence. -/
def slide : Nat → InStream → InStream
  | 0, i => i
  | n + 1, i => if i.bitmap % 2 = 1 then slide n { i with next := (i.next + 1) % 2 ^ 32, bitmap := i.bitmap / 2 } else i

/-- A sequence number is already covered. -/
def InStream.covers (i : InStream) (q : Nat) : Bool :=
  let d := (q + 2 ^ 32 - i.next) % 2 ^ 32
  d ≥ 2 ^ 31 || i.bitmap.testBit d

/-- A frame of a stream is marked applied. -/
def State.markApplied (s : State) (src g : Nat) (tgt : Bool) (q : Nat) : State :=
  let i := s.inStream src g tgt
  let d := (q + 2 ^ 32 - i.next) % 2 ^ 32
  let i := slide 65 { i with bitmap := setBit i.bitmap d true }
  s.modCouch fun c => { c with ins := c.ins.filter (fun x => ¬ (x.src == src && x.group == g && x.tgt == tgt)) ++ [i] }

/-- Table 6-3: the acknowledgement of a stream. -/
def State.sendAck (s : State) (src g role j : Nat) (tgt : Bool) : State :=
  let i := s.inStream src g tgt
  let f := s.header (if tgt then 0x2D else 0x11) 0 ++ be 2 g ++ be 1 role ++ be 1 j ++ be 4 ((i.next + 2 ^ 32 - 1) % 2 ^ 32) ++ be 8 i.bitmap
  s.sendData tgt src g role f

/-- R129: a drop that is counted, with its event at most once per second per source. -/
def State.couchDrop (s : State) (counter code src : Nat) (payload : Bytes) : State :=
  let s := s.inc counter
  let t := s.now / 1000000000
  if s.couch.limited.any (fun x => x == (code, src, t)) then s else
    State.evHub (s.modCouch fun c => { c with limited := (code, src, t) :: c.limited.filter (fun x => ¬ (x.1 = code ∧ x.2.1 = src)) })
      code payload

/-- The new vat lines a frame would open fit the vat reserve; else the slice that lacks room (R131). -/
def State.vatLack (s : State) (tgt : Bool) (g b sp : Nat) (ns : List Nat) : Option Nat :=
  let fresh := ns.filter (fun n => ¬ s.couch.vats.any (·.is tgt g b sp n))
  (fresh.filterMap (fun n => (s.feltAddr tgt g sp n).bind s.sliceOf)).find? (fun x =>
    s.vatStalls x sp (fresh.filter (fun n => (s.feltAddr tgt g sp n).bind s.sliceOf = some x)).length > s.rd 0x3100_0A)

/-- R130: the terms of one frame are added, each present line by its rotation. -/
def State.addTerms (s : State) (tgt intoFelt : Bool) (g b sp j role : Nat) (ls : List (Nat × List Int)) : State :=
  let s := ls.foldl (fun s l =>
    let ts := l.2.map (term j role)
    if intoFelt then s.feltAdd tgt g sp l.1 ts else s.vatAdd tgt g b sp l.1 ts) s
  s.incBy 0x8300_03 (sumN (ls.map (fun l => l.2.length)))

/-- R169: a felt line of a stripe among these is under recovery, so acknowledgements are withheld. -/
def State.stripeErased (s : State) (g sp : Nat) (ns : List Nat) : Bool :=
  ns.any (fun n => ((s.feltAddr false g sp n).bind s.repairOf).isSome)

/-- R116: the first felt line among stripes that a read takes as erased: its stripe, its address, the cause. -/
def State.feltFaultIn (s : State) (g sp : Nat) (ns : List Nat) : Option (Nat × Nat × Nat) :=
  ns.findSome? (fun n => (s.feltAddr false g sp n).bind (fun a => (s.feltFault a sp).map (fun c => (n, a, c))))

/-- A withheld data frame: its stream and sequence number, by which its repetitions are known. -/
def sameFrame (f g : Bytes) : Bool := slice f 2 14 == slice g 2 14 && slice f 32 8 == slice g 32 8

/-- R133, R169: the terms and the acknowledgement of a frame wait. -/
def State.withhold (s : State) (tgt : Bool) (f : Bytes) : State :=
  if s.couch.withheld.any (fun x => x.1 == tgt && sameFrame x.2 f) then s
  else s.modCouch fun c => { c with withheld := c.withheld ++ [(tgt, f)] }

/-- R129 to R131: a data frame of a couch stream or of a target stream. -/
def State.takeData (s : State) (tgt : Bool) (f : Bytes) : State :=
  let src := fld f 2 2
  let g := fld f 32 2
  let role := fld f 34 1
  let sp := bits (fld f 1 1) 0 1
  let q := fld f 36 4
  let s := s.hearFrame f
  match s.judgeData tgt f with
  | .error r =>
    if r = 2 ∧ fld f 4 4 > s.halter then s
    else if r = 10 then s.couchDrop 0x8310_08 0x3104 src (be 2 src ++ be 2 g ++ be 4 q)
    else
      let s := s.couchDrop 0x8310_07 0x3103 src (be 2 src ++ be 1 (fld f 0 1) ++ be 1 r)
      if r = 2 then s.staleNotice f else s
  | .ok (j, ls) =>
    if (s.inStream src g tgt).covers q then (s.inc 0x8310_11).sendAck src g role j tgt
    else
      let c := windowOf s.deckle (fld f 24 8)
      let b := s.bankOf c
      let fill := bit (fld f 1 1) 1
      let felt := ¬ tgt ∧ (fill ∨ s.fn .coding = 1)
      if s.couch.folding.any (fun x => s.bankOf x = b) ∨ (¬ tgt ∧ s.stripeErased g sp (ls.map (·.1))) then s.withhold tgt f
      else match (if felt then none else s.vatLack tgt g b sp (ls.map (·.1))), (if felt then s.feltFaultIn g sp (ls.map (·.1)) else none) with
        | some n, _ => (s.inc 0x8310_0D).evSecond 0x3106 (be 1 n)
        | none, some (n, a, cause) => (s.eraseFelt j sp n a cause).withhold tgt f
        | none, none =>
          let s := s.addTerms tgt felt g b sp j role ls
          (s.markApplied src g tgt q).sendAck src g role j tgt

/-- R133, R169: a fold or a repair has ended: the frames withheld are taken, and those that still wait stay. -/
def State.takeWithheld (s : State) : State :=
  s.couch.withheld.foldl (fun s x => s.takeData x.1 x.2) (s.modCouch fun c => { c with withheld := [] })

end Sys2Proof.Machine
end

