-- ==== Sys2Proof/Machine/Couch.lean ====
section
/-!
DEFINITION. The couching commands: data frames and acknowledgements, retransmission, notices, the rush hold, the fill
and the ends of a power-fail flush (06_couching_epochs_and_the_deckle.md; R118 of 05_code_groups_and_placement.md).
-/

namespace Sys2Proof.Machine

/-! ### A data frame at a holder (R129, R130) -/

/-- DATA_FRAME (R129, R130). -/
def execDataFrame (r : Rx) (s : State) : Out := frameRow [0x10] r s fun s => s.takeData false r.f

/-! ### Acknowledgements at a data member (R127, R132) -/

/-- An acknowledgement covers a sequence number. -/
def ackCovers (cum bitmap q : Nat) : Bool :=
  let d := (cum + 2 ^ 32 - q) % 2 ^ 32
  let u := (q + 2 ^ 32 - (cum + 1)) % 2 ^ 32
  d < 2 ^ 31 || (u < 64 && bitmap.testBit u)

/-- Every holder of the frame's group that has not departed has acknowledged it (R127, R144). -/
def State.frameDone (s : State) (f : OutFrame) : Bool :=
  let hs := s.holders f.tgt f.group
  (List.range hs.length).all (fun j => f.acked.contains j ||
    (s.flushing && s.couch.notices.any (fun n => n.dev == hs.getD j 0xFFFF && n.departed)))

/-- Frames acknowledged by every holder leave; a fill frame completes its lines (R118). -/
def State.retire (s : State) : State :=
  let gone := s.couch.out.filter s.frameDone
  let filled := (gone.filter (fun f => f.fill && !f.tgt)).length
  let s := s.modCouch fun c => { c with out := c.out.filter (fun f => ¬ s.frameDone f) }
  if filled = 0 then s else
    (s.incBy 0x8300_04 filled).wr 0x3000_0B (s.rd 0x3000_0B - filled)

/-- R139: the member leaves overrun when its couched epoch reaches the current epoch less 2. -/
def State.overrunExit (s : State) : State := if s.couchedTo + 1 ≥ s.epoch then s.endOverrun else s

/-- What follows from frames acknowledged: packing goes on, the couched epoch advances, and the holds that this ends are released. -/
def State.afterAck (s : State) : State :=
  (((s.retire.pump).advance.fillComplete.overrunExit).drainHeld.flushCheck).judgeReadies

/-- An acknowledgement of an own stream, couch or target. -/
def State.takeAck (s : State) (tgt : Bool) (f : Bytes) : State :=
  let g := fld f 16 2
  let role := fld f 18 1
  let j := fld f 19 1
  let ok := (s.holders tgt g).getD j 0xFFFF = fld f 2 2 ∧ (s.groupOf tgt g).getD role 0xFFFF = s.own
  if ¬ ok then s else
    let mine (o : OutFrame) : Bool := o.group == g && o.role == role && o.tgt == tgt && ackCovers (fld f 20 4) (fld f 24 8) o.seq
    let s := s.modCouch fun c => { c with
      out := mapWhere (fun o => mine o && !(o.acked.contains j)) (fun o => { o with acked := o.acked ++ [j] }) c.out
      streams := mapWhere (fun t => t.group == g && t.role == role && t.tgt == tgt) (fun t => { t with heard := setAt t.heard j s.now }) c.streams }
    s.afterAck

/-- ACKNOWLEDGEMENT (R132). -/
def execAcknowledgement (r : Rx) (s : State) : Out :=
  frameRow [0x11] r s fun s => s.gated r.f fun s => s.takeAck false r.f

/-- RETRANSMIT_TIMEOUT (R127): the frame of a couch stream, or of a target stream (R171), goes again, to that holder alone, with flag
bit 3 set. -/
def execRetransmitTimeout (stream : StreamId) (role seq parity : Nat) (s : State) : Out :=
  whenServing s fun s =>
    match s.couch.out.find? (fun o => o.group == stream.group && o.role == role && o.tgt == stream.tgt && o.seq == seq && !(o.acked.contains parity)) with
    | none => s
    | some o =>
      match (s.holders o.tgt stream.group)[parity]? with
      | none => s
      | some h =>
        s.resendTo o h

/-! ### Notices (R132, R133, R150) -/

/-- EPOCH_DONE_NOTICE (R133): the values count, the sealed epoch and a commit may follow, a departing member is
reported to the lead (R150). -/
def execEpochDoneNotice (r : Rx) (s : State) : Out :=
  frameRow [0x12] r s fun s => s.gated r.f fun s =>
    let f := r.f
    let dev := fld f 2 2
    if ¬ s.member.members.contains dev then s else
      let n : Notice := ⟨dev, fld f 16 8, fld f 32 8, fld f 40 8, bit (fld f 1 1) 0⟩
      let s := s.modCouch fun c => { c with notices := noteNotice c.notices n }
      let s := if n.departed then s.report dev 4 else s
      (s.sealCommit.retire).flushCheck

/-- NOTICE_REPEAT (R132): the latest notice goes again to every member. -/
def execNoticeRepeat (s : State) : Out :=
  whenServing s fun s =>
    match s.couch.own with
    | some f => s.toMembers f
    | none => s

/-- HOLDER_SILENCE_LIMIT (R141): a holder that leaves frames unacknowledged is reported as suspect. -/
def execHolderSilenceLimit (group parity : Nat) (s : State) : Out :=
  whenServing s fun s =>
    match (s.holders false group)[parity]? with
    | none => s
    | some h =>
      if s.couch.out.any (fun o => o.group == group && !o.tgt && !(o.acked.contains parity)) then
        (s.evHub 0x3107 (be 2 h ++ be 2 group)).report h 2
      else s

/-- FLUSH_TIME_LIMIT (R144): a flush still lacking acknowledgements at 1.2 ms ends incomplete. -/
def execFlushTimeLimit (s : State) : Out :=
  whenServing s fun s => if s.flushing then s.flushEnd false else s

/-- RUSH_HOLD_END (R124): the frame of a rushed entry has left; held writes proceed and the pass may lock. -/
def execRushHoldEnd (n : Nat) (s : State) : Out :=
  onActive n s fun s =>
    if ¬ s.serving then s else
      (s.pump.endRush n).drainHeld

/-- FILL_LINE_READ (R118): one band line is read and couched as a fill term from an all-zero old line; a line that
holds only zeros adds nothing and is complete at once. -/
def execFillLineRead (s : State) : Out :=
  whenServing s fun s =>
    match s.couch.fill with
    | [] => s
    | l :: rest =>
      match s.lineRole l, s.lineAddr l with
      | some (g, i, n), some a =>
        let vs := s.lineVals l.space a
        match s.couch.streams.find? (fun t => t.group == g && t.role == i && !t.tgt) with
        | none => s
        | some st =>
          if s.fn .coding ≠ 1 ∨ s.unacked st ≥ 64 then s else
            let s := s.modCouch fun c => { c with fill := rest }
            if vs.all (· == 0) then
              ((s.inc 0x8300_04).wr 0x3000_0B (s.rd 0x3000_0B - 1)).fillComplete.judgeReadies
            else
              let f := s.dataFrame false (2 + s.flushFlag) l.space s.epoch g i st.next [(n, vs)]
              (s.emit false g i s.epoch f true false st.next).refreshOut
      | _, _ => (s.modCouch fun c => { c with fill := rest }).wr 0x3000_0B (s.rd 0x3000_0B - 1)

/-- RE_STRIPE_DATA (R171): a fill term or delta joins the target vat. -/
def execReStripeData (r : Rx) (s : State) : Out := frameRow [0x2C] r s fun s => s.takeData true r.f

/-- RE_STRIPE_ACKNOWLEDGEMENT (R171). -/
def execReStripeAcknowledgement (r : Rx) (s : State) : Out :=
  frameRow [0x2D] r s fun s => s.gated r.f fun s => s.takeAck true r.f

end Sys2Proof.Machine
end

