-- ==== Sys2Proof/Machine/TiersOps.lean ====
section
/-!
DEFINITION. The shared operations of snapshots and exports: triggers and orders, the seal, the copy, the image and the
export (R177 to R191, 08_flash_and_shared_store.md).
-/

namespace Sys2Proof.Machine

/-! ### Orders (R179, R181) -/

/-- Snapshots and exports are taken only while coding and the deep tiers are ON. -/
def State.tiersOn (s : State) : Bool := s.fnOn .coding && s.fnOn .deepTiers && !s.member.members.isEmpty

/-- R181: the step that an order sent now names. -/
def State.orderTarget (s : State) : Nat := s.deckle * (s.step / max s.deckle 1 + 3)

/-- Table 8-1: a Snapshot order. -/
def State.orderFrame (s : State) (step ex num : Nat) : Bytes :=
  s.header 0x30 0 ++ be 8 step ++ be 1 ex ++ zeros 3 ++ be 4 num

/-- R181: a member takes an order, or answers too late. -/
def State.takeSnapOrder (s : State) (step ex num : Nat) : State :=
  let s := s.modTiers fun t => { t with orderNum := num }
  let late := !s.tiersOn || decide (s.stepDone > step) || s.tiers.snap.isSome ||
    s.couch.bounds.any (fun b => b.1 == step && decide (b.2 < s.epoch))
  if late then s.snapReport step 3 0 num 0 0 else
    s.modTiers fun t => { t with snap := some {
      number := num, step := step, export_ := ex, phase := 0, bEpoch := 0, sealAt := 0, pause := 0, armed := [], cursors := []
      saved := [], taken := [], heldNs := 0, img := [], slot := 0, head := [], linesW := 0, linesN := 0, wmW := 0, wmN := 0
      was := (0, 0), mean := 0, excess := 0, bytes := 0, parts := [] } }

/-- R181, R189: the lead orders a snapshot: field 2 for an evaluation export, else 1 for every nth image, else 0. -/
def State.sendSnapOrder (s : State) (ex : Nat) : State :=
  let step := s.orderTarget
  let num := (s.tiers.orderNum + 1) % 2 ^ 32
  let n := s.rd 0x3303_01
  let ex := if ex = 2 then 2 else if n ≠ 0 ∧ (s.tiers.images + 1) % n = 0 then 1 else 0
  let s := s.modTiers fun t => { t with
    orderNum := num, orderAt := s.now, orderStep := s.step, awaited := s.member.members, costs := 0 :: t.costs.take 8 }
  let f := s.orderFrame step ex num
  let s := (s.member.members.filter (· ≠ s.own)).foldl (fun s d => s.sendMember d f) s
  s.takeSnapOrder step ex num

/-- The members whose report of the last order is still to come. -/
def State.awaitedNow (s : State) : List Nat := s.tiers.awaited.filter s.member.members.contains

/-- R179: why a trigger is deferred now: 1 the placement kind, 2 a report still to come; 0 it is not. -/
def State.deferReason (s : State) : Nat :=
  if s.rd 0x3202_02 ≠ 0 then 1 else if s.awaitedNow ≠ [] then 2 else 0

/-- R179: a trigger fires at the lead, or is deferred; a member other than the lead ignores it. -/
def State.fireSnap (s : State) (ex : Nat) : State :=
  if ¬ (s.leadOf = s.own ∧ s.tiersOn) then s else
    match s.deferReason with
    | 0 => s.sendSnapOrder ex
    | r => (s.modTiers fun t => { t with deferred := t.deferred.filter (·.2 ≠ ex) ++ [(r, ex)] }).evHub 0x3303 (be 1 r)

/-- R179: a deferred trigger fires when its reason has cleared. -/
def State.fireDeferred (s : State) : State :=
  match s.tiers.deferred.find? (fun d => d.1 ≠ s.deferReason) with
  | none => s
  | some d => (s.modTiers fun t => { t with deferred := t.deferred.filter (· ≠ d) }).fireSnap d.2

/-! ### The slots of the flash area (R178) -/

/-- The blocks of one image slot. -/
def State.slotBlocks (s : State) : Nat := s.rd 0x3300_02 / max 1 (s.rd 0x3300_03)

/-- The first block of slot i. -/
def State.slotLba (s : State) (i : Nat) : Nat := s.rd 0x3300_01 + i * s.slotBlocks

/-- The step and state that a status object shows of slot i. -/
def State.slotShown (s : State) (k i : Nat) : Nat × Nat := (s.ofld k (16 * i) 8, s.ofld k (16 * i + 8) 1)

/-- The index of the greatest key, the later on a tie. -/
def newestOf (l : List (Nat × Nat)) : Option Nat :=
  (l.foldl (fun (best : Option (Nat × Nat)) x => match best with
    | none => some x
    | some b => if b.2 ≤ x.2 then some x else best) none).map (·.1)

/-- The index of the least key, the earlier on a tie. -/
def oldestOf (l : List (Nat × Nat)) : Option Nat :=
  (l.foldl (fun (best : Option (Nat × Nat)) x => match best with
    | none => some x
    | some b => if x.2 < b.2 then some x else best) none).map (·.1)

/-- R178: the slot of a new image: the first empty or invalid one, else the one of the oldest complete image, but never
that of the newest. -/
def State.pickSlot (s : State) : Nat :=
  let all := (List.range (s.rd 0x3300_03)).map (fun i => (i, s.slotShown 0x3300_04 i))
  match all.find? (fun x => x.2.2 == 0 || x.2.2 == 3) with
  | some x => x.1
  | none =>
    let full := (all.filter (·.2.2 = 2)).map (fun x => (x.1, x.2.1))
    let new := newestOf full
    (oldestOf (full.filter (fun x => some x.1 ≠ new))).getD 0

/-- n bytes of flash from byte address a. -/
def State.frd (s : State) (a n : Nat) : Bytes := Sparse.getBytes s.flash a n

/-- Whole blocks for n bytes. -/
def blocksOf (n : Nat) : Nat := ceilDiv n 4096

/-- Reads of n blocks from block `lba` on, in commands of at most 256 blocks (R387). -/
def extentReads (lba n : Nat) : List (Nat × Nat) := (List.range (ceilDiv n 256)).map (fun i => (lba + 256 * i, min 256 (n - 256 * i)))

/-- F-port reads for a use, each a first block and a count. -/
def State.fReadAll (s : State) (use : Nat) (rs : List (Nat × Nat)) : State := rs.foldl (fun s r => s.fIssue use 1 false r.1 r.2 []) s

/-- Table 8-4, R185: the bytes of the image whose header stands at byte address a with at most `room` bytes, when its
header and its trailer are intact. -/
def State.imageAt (s : State) (a room : Nat) : Option Nat :=
  let h := s.frd a 48
  let n := fldLe h 40 8
  if fldLe h 0 4 ≠ 0x474D4956 ∨ fldLe h 4 2 ≠ 1 ∨ fldLe h 38 1 ≠ 0 ∨ n < 8192 ∨ n % 4096 ≠ 0 ∨ n > room then none else
    let t := s.frd (a + n - 4096) 16
    if fldLe t 0 4 = 0x474D4956 ∧ fldLe t 8 8 = fldLe h 16 8 then some n else none

/-- What slot i of the flash area holds: complete, invalid or empty. -/
def State.slotFound (s : State) (i : Nat) : Nat × Nat :=
  let a := 4096 * s.slotLba i
  match s.imageAt a (4096 * s.slotBlocks) with
  | some _ => (fldLe (s.frd a 24) 16 8, 2)
  | none => if fldLe (s.frd a 4) 0 4 = 0x474D4956 then (fldLe (s.frd a 24) 16 8, 3) else (0, 0)

/-- The newest complete image of the slots shown (0x3300.08). -/
def State.showNewest (s : State) : State :=
  s.wr 0x3300_08 (maxN ((List.range (s.rd 0x3300_03)).map (fun i =>
    let x := s.slotShown 0x3300_04 i
    if x.2 = 2 then x.1 else 0)))

/-- The blocks that say what slot i holds: its header, and the trailer of a complete image. -/
def State.slotReads (s : State) (i : Nat) : List (Nat × Nat) :=
  if s.slotBlocks = 0 then [] else
    let lba := s.slotLba i
    (lba, 1) :: ((s.imageAt (4096 * lba) (4096 * s.slotBlocks)).map (fun n => (lba + n / 4096 - 1, 1))).toList

/-- The slot status objects as the flash area shows them when the function starts (R178, R185); the blocks that say so are read, and
a slot whose block cannot be read is invalid (R186). -/
def State.findSlots (s : State) : State :=
  let s := { s with fOut := s.fOut.filter (·.use ≠ 8) }
  let s := (List.range (s.rd 0x3300_03)).foldl (fun s i =>
    let x := s.slotFound i
    (s.slotStatus 0x3300_04 i x.1 x.2).fReadAll 8 (s.slotReads i)) s
  s.showNewest

/-- R186: the block `lba` of a slot could not be read as the function started. -/
def State.slotUnread (s : State) (lba : Nat) : State :=
  let i := (lba - s.rd 0x3300_01) / max 1 s.slotBlocks
  let x := s.slotShown 0x3300_04 i
  if x.2 = 1 then s else (s.slotStatus 0x3300_04 i x.1 3).showNewest

/-- R177, R365: two extents share a block, one has no size, or one overlaps the groom's flash area. -/
def State.extentsBad (s : State) : Bool :=
  let e := [(s.rd 0x3300_01, s.rd 0x3300_02), (s.rd 0x3303_02, s.rd 0x3303_03), (s.rd 0x3303_09, s.rd 0x3303_0A)]
  let x (i j : Nat) : Bool := overlap (e.getD i (0, 0)).1 (e.getD i (0, 0)).2 (e.getD j (0, 0)).1 (e.getD j (0, 0)).2
  e.any (fun r => r.2 == 0 || overlap r.1 r.2 0 groomBlocks) || x 0 1 || x 0 2 || x 1 2

/-- Writes bytes to flash from block `lba` on, in commands of at most 256 blocks (R183, R387). -/
def State.fWriteAll (s : State) (use lba : Nat) (bs : Bytes) : State :=
  (chunks 1048576 bs.length (padTo 4096 bs)).foldl (fun (acc : State × Nat) c =>
    (acc.1.fIssue use 1 true acc.2 (blocksOf c.length) c, acc.2 + 256)) (s, lba) |>.1

/-! ### The seal (R182) -/

/-- The member list of Table 8-4: ids ascending, 0xFFFF filling, each by the writer w. -/
def memberList (w : Nat → Nat → Bytes) (ids : List Nat) : Bytes :=
  let ids := (sortNat ids).take 64
  ((ids ++ List.replicate (64 - ids.length) 0xFFFF).map (w 2)).flatten

/-- The parts of the header that are taken at the seal: halter number, seal time, service time, count, settings key,
provenance digests of the image and of its export, member list. -/
def State.sealHead (s : State) (c : Snap) (wmW wmN : Nat) : Bytes :=
  let bound := if c.export_ = 2 then sha256 (s.octs 0x3303_06 0 1024) else zeros 32
  le 4 s.halter ++ le 8 s.now ++ le 8 (s.rd 0x3301_07) ++ le 4 (s.rd 0x3301_08) ++ s.settingsKey ++
    s.provenance 0 0 c.step wmW wmN (zeros 32) ++ s.provenance c.export_ 0 c.step wmW wmN bound ++ memberList le s.member.members

/-- R182: at the tick that ends epoch `ended`, an order for the step whose boundary epoch that is seals. -/
def State.sealSnap (s : State) (ended : Nat) : State :=
  match s.tiers.snap with
  | none => s
  | some c =>
    if c.phase ≠ 0 ∨ ¬ s.couch.bounds.contains (c.step, ended) then s else
      let w := s.spaceWm 0
      let n := s.spaceWm 1
      let slot := s.pickSlot
      let times := s.tiers.passTimes.take 8
      let c := { c with
        phase := 1, bEpoch := ended, sealAt := s.now, armed := s.actives, cursors := List.replicate s.hw.slices 0
        slot := slot, was := s.slotShown 0x3300_04 slot, head := s.sealHead c w n, linesW := s.ownLines 0, linesN := s.ownLines 1
        wmW := w, wmN := n, mean := sumN times / max 1 times.length }
      let s := s.modTiers fun t => { t with snap := some c }
      let s := s.slotStatus 0x3300_04 slot c.step 1
      s.wr 0x3300_07 1

/-- R182: every slice is armed, so the hub releases the held writes and the member reports. -/
def State.sealRelease (s : State) : State :=
  match s.tiers.snap with
  | none => s
  | some c =>
    if c.phase ≠ 1 ∨ ¬ s.actives.all c.armed.contains then s else
      let c := { c with phase := 2, pause := s.now - c.sealAt }
      let s := s.modTiers fun t => { t with snap := some c }
      let s := s.wr 0x3300_07 2
      let s := s.wr 0x8330_05 (min c.pause (2 ^ 32 - 1))
      let s := s.wr 0x8330_06 (max (s.rd 0x8330_06) (min c.pause (2 ^ 32 - 1)))
      (s.snapReport c.step 0 0 c.number c.cost 0).drainHeld

/-! ### The copy (R183, R185) -/

/-- The offset in the image of the section of space N. -/
def Snap.offN (c : Snap) : Nat := 4096 + 4096 * blocksOf (256 * c.linesW)

/-- The place of a line in the image: each line has a fixed place in its section. -/
def Snap.place (c : Snap) (sp n : Nat) : Nat := if sp = 0 then 4096 + 256 * n else c.offN + 256 * n

/-- The space and line of place i of the copy order. -/
def Snap.lineOf (c : Snap) (i : Nat) : Nat × Nat := if i < c.linesW then (0, i) else (1, i - c.linesW)

/-- A line enters the image, and slice n's cursor moves. -/
def Snap.put (c : Snap) (sp n : Nat) (bs : Bytes) : Snap := { c with img := Sparse.putBytes c.img (c.place sp n) bs }

/-- A saved line is taken from its stall, which is freed. -/
def Snap.unsave (c : Snap) (v : Nat × Nat × Nat × Bytes) : Snap :=
  { c.put v.2.1 v.2.2.1 v.2.2.2 with saved := c.saved.filter (fun x => ¬ (x.2.1 = v.2.1 ∧ x.2.2.1 = v.2.2.1)) }

/-- Slice n's cursor stands at i. -/
def Snap.moveTo (c : Snap) (n i : Nat) : Snap := { c with cursors := setAt c.cursors n i }

/-- R183: slice n's copier takes its next line: while more than 75 % of the reserve is in use a saved line first, else
the next line of its controller from its stall or from memory. An unreadable line waits for its repair. -/
def State.copyLine (s : State) (n : Nat) : State :=
  match s.tiers.snap with
  | none => s
  | some c =>
    if c.phase ≠ 2 then s else
      let set_ (c : Snap) : State := s.modTiers fun t => { t with snap := some c }
      let total := c.linesW + c.linesN
      let ahead := if 4 * c.stalls n > 3 * s.rd 0x3300_05 then c.saved.find? (·.1 == n) else none
      match ahead with
      | some v => set_ { c.unsave v with taken := (v.2.1, v.2.2.1) :: c.taken }
      | none =>
        let cur := c.cursors.getD n total
        let addr (i : Nat) : Option Nat := s.lineAddr ⟨s.own, (c.lineOf i).1, (c.lineOf i).2⟩
        match (List.range (total - cur)).find? (fun x => (addr (cur + x)).any (s.inSlice n)) with
        | none => set_ (c.moveTo n total)
        | some x =>
          let i := cur + x
          let l := c.lineOf i
          let a := (addr i).getD 0
          if c.taken.contains l then set_ { c.moveTo n (i + 1) with taken := c.taken.filter (· ≠ l) }
          else match c.saved.find? (fun v => v.2.1 == l.1 && v.2.2.1 == l.2) with
            | some v => set_ ((c.unsave v).moveTo n (i + 1))
            | none =>
              if s.unreadable a then (if (s.repairOf a).isSome then s else s.openRepair a (s.lineClass a) n [])
              else set_ ((c.put l.1 l.2 (s.mrd a 256)).moveTo n (i + 1))

/-- The windows an image of step S carries, ascending: at most r, and none from before the step the job started at. -/
def State.imageWindows (s : State) (step : Nat) : List Nat :=
  let g := max s.deckle 1
  let r := min (min (s.rd 0x3203_02) 8) ((step - s.rd 0x3200_0A) / g)
  (List.range r).map (fun x => step - (r - 1 - x) * g)

/-- The own delta-log records of a window, in the order written. -/
def State.windowRecs (s : State) (w : Nat) : List DRec :=
  (s.member.dlog.filter (fun r => r.window == w && r.id.src == s.own)).reverse

/-- R188: the watermark of delta-log records: each delta's field image at the line it applies to, both spaces combined. -/
def recsWm (r : Nat) (recs : List (Nat × Nat × List Int)) : Nat :=
  let one (sp : Nat) : Nat := (recs.filter (·.1 = sp)).foldl (fun acc x =>
    addP acc (mulP (powP r x.2.1) (lineHash (x.2.2.map toField)))) 0
  shardWm r (one 0) (one 1)

/-- A section table entry (Table 8-4). -/
def sectionEntry (kind count off len wm : Nat) : Bytes := le 1 kind ++ zeros 3 ++ le 4 count ++ le 8 (off / 4096) ++ le 8 len ++ le 8 wm

/-- The header of Table 8-4 up to its section table, by the writer w; `prov` is the offset of its provenance in `head`. -/
def State.imageHead (s : State) (c : Snap) (w : Nat → Nat → Bytes) (r kind count total prov : Nat) : Bytes :=
  let h (off n : Nat) : Bytes := w n (fldLe c.head off n)
  let list := ((List.range 64).map (fun i => w 2 (fldLe c.head (120 + 2 * i) 2))).flatten
  padTo 512 (w 4 0x474D4956 ++ w 2 1 ++ w 2 s.own ++ w 8 s.job ++ w 8 c.step ++ w 8 c.bEpoch ++ h 0 4 ++ w 1 s.deckle ++ w 1 r ++
    w 1 kind ++ w 1 count ++ w 8 total ++ h 4 8 ++ h 12 8 ++ h 20 4 ++ w 4 c.number ++ slice c.head 24 32 ++ slice c.head prov 32 ++
    list ++ sha256 list)

/-- Every active slice has copied its lines. -/
def State.copied (s : State) (c : Snap) : Bool :=
  s.actives.all (fun n => decide (c.linesW + c.linesN ≤ c.cursors.getD n 0)) && c.saved.isEmpty

/-- The window sections of an image from byte offset `off` on: where the next section may start, the cells, the section table, and
where the last section ends. -/
def State.windowSections (s : State) (ws : List Nat) (off last : Nat) (img : List Host.Cell) : Nat × List Host.Cell × Bytes × Nat :=
  ws.foldl (fun acc w =>
    let recs := s.windowRecs w
    let bs := (recs.map DRec.bytes).flatten
    let wm := recsWm s.wmKey (recs.map (fun r => (r.id.space, r.id.line, r.deltas)))
    (acc.1 + 4096 * blocksOf bs.length, Sparse.putBytes acc.2.1 acc.1 bs,
      acc.2.2.1 ++ sectionEntry 2 recs.length acc.1 bs.length wm, acc.1 + bs.length)) (off, img, [], last)

/-- R185: the header block is written once every section has been, and the trailer block once the header has. -/
def State.nextPart (s : State) : State :=
  match s.tiers.snap with
  | none => s
  | some c =>
    if c.phase ≠ 3 ∨ s.fOut.any (·.use = 1) then s else
      match c.parts with
      | [] => s
      | (lba, b) :: ps => (s.modTiers fun t => { t with snap := some { c with parts := ps } }).fIssue 1 1 true lba 1 b

/-- R185: once every line is copied and commit S is folded here, the sections, the header and the trailer are written in turn. An
image larger than its slot is abandoned; its slot keeps its earlier contents (R178), so nothing is written before the size shows. -/
def State.finishCopy (s : State) : State :=
  match s.tiers.snap with
  | none => s
  | some c =>
    if c.phase ≠ 2 ∨ ¬ s.copied c ∨ s.committed < c.step then s else
      let ws := s.imageWindows c.step
      let (next, img, wins, last) :=
        s.windowSections ws (c.offN + 4096 * blocksOf (256 * c.linesN)) (c.offN + 256 * c.linesN) c.img
      let table := sectionEntry 0 c.linesW 4096 (256 * c.linesW) c.wmW ++ sectionEntry 1 c.linesN c.offN (256 * c.linesN) c.wmN ++ wins
      let total := next + 4096
      if blocksOf total > s.slotBlocks then (s.abandonSnap 5).drainHeld else
        let head := padTo 4096 (s.imageHead c le ws.length 0 (2 + ws.length) total 56 ++ table)
        let body := Sparse.getBytes img 4096 (next - 4096)
        let trailer := padTo 4096 (le 4 0x474D4956 ++ zeros 4 ++ le 8 c.step ++ sha256 (head ++ body.take (last - 4096)))
        let lba := s.slotLba c.slot
        let s := s.modTiers fun t => { t with
          snap := some { c with phase := 3, img := [], taken := [], bytes := total, parts := [(lba, head), (lba + next / 4096, trailer)] } }
        let s := s.wr 0x3300_07 3
        (s.fWriteAll 1 (lba + 1) body).nextPart

/-- One read of slice n's copier, with what follows from it: held writes proceed, the image may be finished. -/
def State.copyStep (s : State) (n : Nat) : State := (s.copyLine n).drainHeld.finishCopy

/-! ### Exports (R189, R190) -/

/-- A region that an export carries: code, format, scale, first address, elements, width, space. -/
structure ERegion where
  code : Nat
  fmt : Nat
  scale : Int
  base : Nat
  count : Nat
  width : Nat
  space : Nat
deriving DecidableEq, Repr

/-- The stored regions of a descriptor, by Table 8-5. -/
def Desc.exports (d : Desc) : List ERegion :=
  let st : ERegion := if d.sfmt = 0 then ⟨0, 0, (d.f : Int), d.base, d.count, 8, 0⟩ else ⟨0, d.sfmt, 0, d.base, d.count, 4, 1⟩
  [st] ++ (if d.hasMoment then [⟨1, 1, d.s1, d.mbase, d.count, 4, 1⟩] else []) ++
    (if d.form = 2 then [⟨2, 1, d.s2, d.rbase, d.rows, 4, 1⟩, ⟨3, 1, d.s2, d.cbase, d.cols, 4, 1⟩] else [])

/-- A stored word as its value (R9): W64 and M32 signed, U32 not. -/
def ERegion.val (r : ERegion) (w : Nat) : Int :=
  if r.code = 4 ∨ r.fmt = 0xC then (w : Int) else sgn (8 * r.width) w

/-- R190: the records of one region, at most 131,072 elements each, from the words in order. -/
def State.exportRecords (s : State) (step : Nat) (d : Desc) (r : ERegion) (ws : List Nat) : Bytes :=
  let map := s.ofld 0x3303_05 (8 * d.num) 8
  let one (i : Nat) : Bytes :=
    let part := (ws.drop (131072 * i)).take 131072
    let first := 131072 * i
    let chk := (List.range part.length).foldl (fun acc x => addP acc (rotmul (toField (r.val (part.getD x 0))) (x % 61))) 0
    be 1 1 ++ be 1 r.code ++ be 1 r.fmt ++ be 1 (pat 8 r.scale) ++ be 2 d.tid ++ be 2 s.own ++ be 8 step ++ be 8 (map + first) ++
      be 8 first ++ be 4 part.length ++ be 4 (part.length * r.width) ++ be 8 chk ++ zeros 16 ++
      padTo 64 ((part.map (be r.width)).flatten)
  ((List.range (ceilDiv ws.length 131072)).map one).flatten

/-- The words of a stored region as the image in flash holds them: the region's lines follow one another in its section. -/
def State.imageWords (s : State) (c : Snap) (r : ERegion) : List Nat :=
  let first := (lineNumber (s.space r.space) r.base 0).getD 0
  let a := 4096 * s.slotLba c.slot + c.place r.space first
  (chunks r.width r.count (s.frd a (r.count * r.width))).map leNat

/-- The regions of tensor `tid` that 0x3303.06 lists, as a mask. -/
def State.evalMask (s : State) (tid : Nat) : Nat :=
  (List.range 256).foldl (fun m i =>
    let t := s.ofld 0x3303_06 (4 * i) 2
    if t = tid ∧ t ≠ 0xFFFF then m ||| s.ofld 0x3303_06 (4 * i + 2) 2 else m) 0

/-- The records of one descriptor: every stored region, or for an evaluation export those listed, the working copy among them. -/
def State.exportDesc (s : State) (c : Snap) (kind : Nat) (d : Desc) : Bytes :=
  let on (code : Nat) : Bool := if kind = 2 then bit (s.evalMask d.tid) code else true
  let stored := ((d.exports.filter (fun r => on r.code)).map (fun r => s.exportRecords c.step d r (s.imageWords c r))).flatten
  if kind = 2 ∧ on 4 ∧ d.work then
    let st : ERegion := ⟨0, 0, 0, d.base, d.count, 8, 0⟩
    let vs := (s.imageWords c st).map (sgn 64)
    let ws := ((List.range (ceilDiv d.count 32)).map (fun x => (s.deriveLine d (32 * x) c.step ((vs.drop (32 * x)).take 32)).1)).flatten
    stored ++ s.exportRecords c.step d ⟨4, d.wfmt, 0, d.wbase, d.count, fmtBytes d.wfmt, 0⟩ ws
  else stored

/-- R190: an export as bytes: header, element records in descriptor order, end record. -/
def State.exportBytes (s : State) (c : Snap) (kind : Nat) : Bytes :=
  let recs := ((s.pass.mould.map (·.descs)).getD []).map (s.exportDesc c kind) |>.flatten
  let head := padTo 4096 (s.imageHead c be 0 kind 0 (4096 + recs.length + 64) 88)
  let all := head ++ recs ++ be 1 2 ++ zeros 15 ++ be 8 c.wmW ++ be 8 c.wmN
  all ++ sha256 all

/-- The blocks of one of the two export slots, and the slot that does not hold the newest complete export. -/
def State.exportSlot (s : State) : Nat × Nat :=
  let full := ((List.range 2).map (fun i => (i, s.slotShown 0x3303_04 i))).filter (·.2.2 = 2)
  (s.rd 0x3303_03 / 2, match newestOf (full.map (fun x => (x.1, x.2.1))) with | some 0 => 1 | _ => 0)

/-- An export is given up, as an image is (R184, R189): its slot is invalid once writing to it has begun. -/
def State.abandonExport (s : State) (reason : Nat) : State :=
  match s.tiers.exporting with
  | none => s
  | some e =>
    let s := s.modTiers fun t => { t with exporting := none }
    let s := { s with fOut := mapWhere (fun x => x.use == 2 || x.use == 7) (fun x => { x with use := 6 }) s.fOut }
    let s := if e.writing then s.slotStatus 0x3303_04 e.slot e.snap.step 3 else s
    (s.inc 0x8330_02).evHub 0x3302 (be 8 e.snap.step ++ be 1 reason)

/-- R189: after the image is complete, it is read back for the export that was ordered with it. -/
def State.startExport (s : State) (c : Snap) : State :=
  if c.export_ = 0 then s else
    (s.modTiers fun t => { t with exporting := some ⟨c, s.exportSlot.2, 0, false⟩ }).fReadAll 7
      (extentReads (s.slotLba c.slot) (blocksOf c.bytes))

/-- R189: the image has been read: the export is written, unless it is larger than its slot. -/
def State.writeExport (s : State) : State :=
  match s.tiers.exporting with
  | none => s
  | some e =>
    if e.writing ∨ s.fOut.any (·.use = 7) then s else
      let bs := s.exportBytes e.snap e.snap.export_
      if blocksOf bs.length > s.exportSlot.1 then s.abandonExport 5 else
        let s := s.modTiers fun t => { t with exporting := some { e with bytes := bs.length, writing := true } }
        let s := s.slotStatus 0x3303_04 e.slot e.snap.step 1
        s.fWriteAll 2 (s.rd 0x3303_02 + e.slot * s.exportSlot.1) bs

/-- R189: every write of the export has completed. -/
def State.exportDone (s : State) : State :=
  match s.tiers.exporting with
  | none => s
  | some e =>
    if ¬ e.writing ∨ s.fOut.any (·.use = 2) then s else
      let s := s.modTiers fun t => { t with exporting := none }
      let s := s.slotStatus 0x3303_04 e.slot e.snap.step 2
      let s := (s.inc 0x8330_08).incBy 0x8330_07 e.bytes
      s.evHub 0x3306 (be 8 e.snap.step ++ be 1 e.snap.export_ ++ be 8 e.bytes)

/-- R185: the trailer has been written: the image is complete and reported; an export ordered with it starts. -/
def State.snapComplete (s : State) : State :=
  match s.tiers.snap with
  | none => s
  | some c =>
    if c.phase ≠ 3 ∨ c.parts ≠ [] ∨ s.fOut.any (·.use = 1) then s else
      let s := s.modTiers fun t => { t with snap := none, images := t.images + 1 }
      let s := (s.inc 0x8330_01).incBy 0x8330_07 c.bytes
      let s := (s.wr 0x3300_08 c.step).wr 0x3300_07 0
      let s := s.slotStatus 0x3300_04 c.slot c.step 2
      let s := s.evHub 0x3301 (be 8 c.step ++ be 8 c.bytes ++ be 4 ((s.now - c.sealAt) / 1000000))
      (s.freeChains.snapReport c.step 1 0 c.number c.cost c.bytes).startExport c

end Sys2Proof.Machine
end

