-- ==== Sys2Proof/Machine/RestoreOps.lean ====
section
/-!
DEFINITION. The shared operations of a restore: candidates and inventories, the selection, loading and checking a shard
(R192 to R194, 08_flash_and_shared_store.md).
-/

namespace Sys2Proof.Machine

/-! ### Candidates (R192) -/

/-- The shard assignment table 0x3304.06: shard and device, in entry order. -/
def State.assignment (s : State) : List (Nat × Nat) :=
  ((List.range 64).map (fun i => (s.ofld 0x3304_06 (4 * i) 2, s.ofld 0x3304_06 (4 * i + 2) 2))).filter (·.1 ≠ 0xFFFF)

/-- The member-list image of the shard set, by the writer w. -/
def State.shardList (s : State) (w : Nat → Nat → Bytes) : Bytes := memberList w (s.assignment.map (·.1))

/-- The first 8 bytes of the member-list digest of the shard set, for candidates of source `src`. -/
def State.shardSetDigest (s : State) (src : Nat) : Nat := beNat ((sha256 (s.shardList (if src = 2 then be else le))).take 8)

/-- The assignment maps shard x to device d. -/
def State.assigned (s : State) (x d : Nat) : Bool := s.assignment.any (fun e => e.1 == x && e.2 == d)

/-- A header read by rd is one of a candidate of this unit: settings key, member list, shard. -/
def State.fits (s : State) (h : Bytes) (rd : Bytes → Nat → Nat → Nat) (w : Nat → Nat → Bytes) : Bool :=
  slice h 72 32 == s.settingsKey && slice h 136 128 == s.shardList w && s.assigned (rd h 6 2) s.own

/-- R186: some block of n from `lba` on could not be read for the candidates. -/
def State.missedAny (s : State) (lba n : Nat) : Bool := s.tiers.missed.any (fun x => overlap x.1 x.2 lba n)

/-- Every complete image of the flash area that fits; a slot being written or marked invalid holds none. -/
def State.flashCands (s : State) : List Cand :=
  (List.range (s.rd 0x3300_03)).filterMap (fun i =>
    let shown := (s.slotShown 0x3300_04 i).2
    let a := 4096 * s.slotLba i
    if shown = 1 ∨ shown = 3 ∨ (s.slotReads i).any (fun r => s.missedAny r.1 r.2) then none else
      match s.imageAt a (4096 * s.slotBlocks) with
      | none => none
      | some _ =>
        let h := s.frd a 832
        if s.fits h fldLe le then some ⟨s.own, fldLe h 6 2, 1, i, fldLe h 37 1, fldLe h 16 8, beNat (slice h 264 8)⟩ else none)

/-- The bytes of a complete export of kind 1 whose header stands at byte address a, of at most `room`. -/
def State.exportAt (s : State) (a room : Nat) : Option Nat :=
  let h := s.frd a 48
  let n := fld h 40 8
  if fld h 0 4 ≠ 0x474D4956 ∨ fld h 4 2 ≠ 1 ∨ fld h 38 1 ≠ 1 ∨ n < 4160 ∨ n > room then none
  else if fld (s.frd (a + n - 64) 1) 0 1 = 2 then some n else none

/-- The complete exports of the import extent, each on a block boundary, by block from its start. -/
def State.imports (s : State) : Nat → Nat → List Nat
  | 0, _ => []
  | fuel + 1, b =>
    let blocks := s.rd 0x3303_0A
    if b ≥ blocks then [] else
      match s.exportAt (4096 * (s.rd 0x3303_09 + b)) (4096 * (blocks - b)) with
      | some n => b :: State.imports s fuel (b + blocksOf n)
      | none => State.imports s fuel (b + 1)

/-- The import extent's exports: the i-th one's block. -/
def State.importBlocks (s : State) : List Nat := s.imports (s.rd 0x3303_0A) 0

/-- Every complete export of the import extent that fits. -/
def State.importCands (s : State) : List Cand :=
  let bs := s.importBlocks
  (List.range bs.length).filterMap (fun i =>
    let lba := s.rd 0x3303_09 + bs.getD i 0
    let h := s.frd (4096 * lba) 832
    if s.fits h fld be ∧ ¬ s.missedAny lba (blocksOf (fld h 40 8)) then some ⟨s.own, fld h 6 2, 2, i, 0, fld h 16 8, beNat (slice h 264 8)⟩ else none)

/-- The own coded state in memory, when the membership status is 5. -/
def State.memoryCand (s : State) : List Cand :=
  let list := memberList le (s.member.shards.map (·.2.1))
  if s.rd 0x3200_02 ≠ 5 ∨ list ≠ s.shardList le ∨ ¬ s.assigned s.own s.own then [] else
    let c := s.rd 0x3200_0D
    let r := min (s.rd 0x3203_02) ((c - s.rd 0x3200_0A) / max s.deckle 1)
    [⟨s.own, s.own, 0, 0, r, c, beNat ((sha256 list).take 8)⟩]

/-- R192: the candidates this unit lists. -/
def State.candidates (s : State) : List Cand := (s.memoryCand ++ s.flashCands ++ s.importCands).take 64

/-- Table 8-1: the Inventory. -/
def State.inventoryFrame (s : State) (cs : List Cand) : Bytes :=
  s.header 0x32 0 ++ be 2 cs.length ++ zeros 6 ++
    (cs.map (fun c => be 2 c.shard ++ be 1 c.src ++ be 1 c.slot ++ be 1 c.r ++ zeros 3 ++ be 8 c.step ++ be 8 c.digest)).flatten

/-- The candidates an Inventory carries. -/
def readInventory (f : Bytes) : List Cand :=
  (List.range (min (fld f 16 2) 64)).map (fun i =>
    let o := 24 + 24 * i
    ⟨fld f 2 2, fld f o 2, fld f (o + 2) 1, fld f (o + 3) 1, fld f (o + 4) 1, fld f (o + 8) 8, fld f (o + 16) 8⟩)

/-- A restore frame to every other device of the failure-domain table. -/
def State.toDomain (s : State) (f : Bytes) : State :=
  (s.domTable.filter (·.1 ≠ s.own)).foldl (fun s e => s.sendMember e.1 f) s

/-! ### Selection (R193) -/

/-- reaches. -/
def Cand.reaches (g : Nat) (c : Cand) (t : Nat) : Bool :=
  decide (t ≤ c.step) && (c.step - t) % g == 0 && decide ((c.step - t) / g ≤ c.r)

/-- rank. -/
def Cand.rank (g t : Nat) (c : Cand) : List Nat := [if c.src = 0 then 0 else 1, (c.step - t) / g, c.src, c.slot]

/-- Lists of naturals in dictionary order. -/
def lexLt : List Nat → List Nat → Bool
  | a :: as, b :: bs => decide (a < b) || (a == b && lexLt as bs)
  | [], _ :: _ => true
  | _, [] => false

/-- The candidate of least rank, the earlier on a tie. -/
def bestCand (g t : Nat) : List Cand → Option Cand
  | [] => none
  | c :: cs => match bestCand g t cs with
    | none => some c
    | some b => if lexLt (b.rank g t) (c.rank g t) then some b else some c

/-- The picks at step T, one for each required shard, in order; none when some shard reaches it from nothing. -/
def picksAt (req : List Nat) (cands : List Cand) (g t : Nat) : Option (List Cand) :=
  req.foldr (fun x acc => match acc, bestCand g t (cands.filter (fun c => c.shard == x && c.reaches g t)) with
    | some l, some c => some (c :: l)
    | _, _ => none) (some [])

/-- R193: the step, the outcome and the picks, or the refusal reason. -/
def selectRestore (req : List Nat) (cands : List Cand) (g : Nat) : Except Nat (Nat × Nat × List Cand) :=
  let g := max g 1
  if req.any (fun x => ¬ cands.any (·.shard == x)) then .error 2 else
    let hi := minN (2 ^ 64) (req.map (fun x => maxN ((cands.filter (·.shard = x)).map (·.step))))
    let steps := ((cands.map (fun c => ((List.range (c.r + 1)).filter (fun w => decide (g * w ≤ c.step))).map (fun w => c.step - g * w))).flatten).eraseDups
    let down := (sortNat (steps.filter (· ≤ hi))).reverse
    match down.findSome? (fun t => (picksAt req cands g t).map (fun p => (t, p))) with
    | none => .error 3
    | some (t, p) => .ok (t, if t < hi then 2 else if p.all (·.step == t) then 0 else 1, p)

/-- A restore is refused: its status, reason and event (R195). -/
def State.refuseRestore (s : State) (reason : Nat) : State :=
  let s := s.modTiers fun t => { t with inventories := [], order := none, reading := none }
  ((s.wr 0x3304_02 4).wr 0x3304_05 reason).ev 0x3309 (be 1 reason)

/-- Table 8-1: the Restore order. -/
def State.restoreFrame (s : State) (step outcome : Nat) (picks : List Cand) : Bytes :=
  s.header 0x33 0 ++ be 8 step ++ be 1 outcome ++ zeros 1 ++ be 2 picks.length ++
    (picks.map (fun c => be 2 c.shard ++ be 2 c.dev ++ be 1 c.src ++ be 1 c.slot ++ zeros 2)).flatten

/-- The byte address and size of a stored candidate of this unit. -/
def State.candPlace (s : State) (src slot : Nat) : Nat × Nat :=
  if src = 1 then
    let a := 4096 * s.slotLba slot
    (a, (s.imageAt a (4096 * s.slotBlocks)).getD 0)
  else
    let b := s.importBlocks.getD slot 0
    let a := 4096 * (s.rd 0x3303_09 + b)
    (a, (s.exportAt a (4096 * (s.rd 0x3303_0A - b))).getD 0)

/-- R194: a unit takes a Restore order while its coding is OFF: it reads its shard's candidate through the F-port. -/
def State.takeRestoreOrder (s : State) (step outcome : Nat) (picks : List Cand) : State :=
  if s.fn .coding ≠ 0 then s else
    let mine := picks.find? (·.dev == s.own)
    let header := (s.rd 0x3301_07, s.rd 0x3301_08)
    let s := s.modTiers fun t => { t with
      order := some (step, outcome, picks), loaded := [], reading := mine.map (fun c => (c, 0)), header := header }
    let s := { s with fOut := s.fOut.filter (·.use ≠ 3) }
    let s := s.wr 0x3304_02 2
    match mine with
    | none => s
    | some c =>
      if c.src = 0 then s else
        let (a, n) := s.candPlace c.src c.slot
        let s := s.modTiers fun t => { t with reading := some (c, n) }
        (List.range (ceilDiv (blocksOf n) 256)).foldl (fun s i =>
          s.fIssue 3 1 false (a / 4096 + 256 * i) (min 256 (blocksOf n - 256 * i)) []) s

/-- This unit has the lowest id among those whose Inventories it holds, and its 0x3200.0B is set. -/
def State.selector (s : State) : Bool :=
  s.rd 0x3200_0B != 0 && s.tiers.inventories.any (·.1 == s.own) && s.tiers.inventories.all (fun x => decide (s.own ≤ x.1))

/-- R192, R193: the selecting unit selects among the candidates not rejected, and sends the order. -/
def State.runSelection (s : State) : State :=
  let cands := ((s.tiers.inventories.map (·.2)).flatten)
  if cands.any (fun c => c.digest ≠ s.shardSetDigest c.src ∨ ¬ s.assigned c.shard c.dev) then s.refuseRestore 4 else
    match selectRestore (s.assignment.map (·.1)) (cands.filter (fun c => ¬ s.tiers.removed.contains c)) s.deckle with
    | .error r => s.refuseRestore r
    | .ok (t, o, picks) => (s.toDomain (s.restoreFrame t o picks)).takeRestoreOrder t o picks

/-- An Inventory is held; the selection runs once enough are (R192). -/
def State.takeInventory (s : State) (dev : Nat) (cs : List Cand) : State :=
  let s := s.modTiers fun t => { t with inventories := t.inventories.filter (·.1 ≠ dev) ++ [(dev, cs)] }
  if s.rd 0x3304_02 = 1 ∧ s.selector ∧ s.tiers.inventories.length ≥ s.rd 0x3200_0B then s.runSelection else s

/-- R192: the blocks that say what candidates there are have been read: the unit lists them. -/
def State.listCandidates (s : State) : State :=
  if s.rd 0x3304_02 ≠ 1 ∨ s.fOut.any (·.use = 9) then s else
    let cs := s.candidates
    (s.toDomain (s.inventoryFrame cs)).takeInventory s.own cs

/-- A read for the candidates has ended (R186, R192). -/
def State.listRead (s : State) (c : FCmd) (ok : Bool) : State :=
  (if ok then s else s.modTiers fun t => { t with missed := t.missed ++ [(c.lba, c.blocks)] }).listCandidates

/-- R192: the Inventory goes again until a Restore order comes. DESIGN CHOICE: at each time strobe, the spec giving no period. -/
def State.repeatInventory (s : State) : State :=
  match s.tiers.inventories.find? (·.1 == s.own) with
  | some x => if s.rd 0x3304_02 = 1 then s.toDomain (s.inventoryFrame x.2) else s
  | none => s

/-- What a write of 1 to 0x3304.01 does (R192); coding is OFF, as the common rules have checked (R325). The headers and trailers of
the flash area and the whole import extent are read. -/
def State.askRestore (s : State) : Nat × State :=
  let missed := if s.sensors.fStopped then [(0, 2 ^ 64)] else []
  let s := s.modTiers fun t => { t with
    removed := [], order := none, loaded := [], reading := none, missed := missed, inventories := t.inventories.filter (·.1 ≠ s.own) }
  let s := { s with fOut := s.fOut.filter (·.use ≠ 9) }
  let s := (s.wr 0x3304_02 1).wr 0x3304_05 0
  let rs := (List.range (s.rd 0x3300_03)).flatMap s.slotReads ++ extentReads (s.rd 0x3303_09) (s.rd 0x3303_0A)
  (0, (if missed.isEmpty then s.fReadAll 9 rs else s).listCandidates)

/-! ### Loading (R194) -/

/-- Where line n of an own space goes: its place in the mould layout, or past it in the elastic reserve, W lines first;
nW and nN are the lines the candidate holds. -/
def State.loadAddr (s : State) (sp n nW : Nat) : Nat :=
  match lineIn (s.space sp) n with
  | some a => a
  | none => s.reserveBase + 256 * (if sp = 0 then n - s.ownLines 0 else (nW - s.ownLines 0) + (n - s.ownLines 1))

/-- Lines of a section are written, from line n on. -/
def State.loadLines (s : State) (sp nW : Nat) : Nat → List Bytes → State
  | _, [] => s
  | n, l :: ls => State.loadLines (s.mwr (s.loadAddr sp n nW) l) sp nW (n + 1) ls

/-- The lines past the mould layout become lines of the own spaces (R170, R194). -/
def State.absorbLoaded (s : State) (nW nN : Nat) : State :=
  let eW := nW - s.ownLines 0
  let eN := nN - s.ownLines 1
  let one (sp base e first : Nat) : List Absorbed := if e = 0 then [] else [⟨sp, base, 256 * e, s.own, first, s.reserveBase + 256 * (eW + eN)⟩]
  let add := one 0 s.reserveBase eW (s.ownLines 0) ++ one 1 (s.reserveBase + 256 * eW) eN (s.ownLines 1)
  let taken := if add.isEmpty then [] else [(0, ceilDiv (256 * (eW + eN) + 64 * eW) 4096 * 4096)]
  (s.modMember fun m => { m with absorbed := m.absorbed ++ add, kept := m.kept ++ taken }).showPieces s.member.pieces

/-- A line of a space as words, read at its address. -/
def State.loadedLine (s : State) (sp n nW : Nat) : List Int := s.lineVals sp (s.loadAddr sp n nW)

/-- The records of a window section (Table 7-6): space, line, deltas. -/
def readRecs : Nat → Bytes → List (Nat × Nat × List Int)
  | 0, _ => []
  | fuel + 1, bs =>
    let sp := fldLe bs 0 1
    match unpackLine (elems sp) (bs.drop 16) with
    | none => []
    | some (d, rest) =>
      let used := bs.length - rest.length
      (sp, fldLe bs 4 4, d) :: readRecs fuel (bs.drop (used + (8 - used % 8) % 8))

/-- Deltas are subtracted, exactly, from the line they apply to (R161). -/
def State.subtract (s : State) (nW : Nat) (x : Nat × Nat × List Int) : State :=
  s.mwr (s.loadAddr x.1 x.2.1 nW) (valsBytes x.1 (subDeltas (s.loadedLine x.1 x.2.1 nW) x.2.2))

/-- The range watermark of the first n lines of a space. -/
def State.loadedWm (s : State) (sp n nW : Nat) : Nat :=
  rangeWm s.wmKey 0 ((List.range n).map (fun i => (s.loadedLine sp i nW).map toField))

/-- Every W64 word of the first n lines lies in its range (R35). -/
def State.loadedInRange (s : State) (n nW : Nat) : Bool :=
  (List.range n).all (fun i => (s.loadedLine 0 i nW).all (fun v => decide (-w64Max ≤ v) && decide (v ≤ w64Max)))

/-- The working copies of every own W line are derived anew with the keys of step t. -/
def State.rederiveAll (s : State) (t : Nat) : State :=
  (List.range (s.ownLines 0)).foldl (fun s n => s.rederive ⟨s.own, 0, n⟩ t) s

/-- R320: the provenance digest of a header agrees with the candidate's own fields. -/
def State.provenanceOk (s : State) (h : Bytes) (kind wmW wmN : Nat) (rd : Bytes → Nat → Nat → Nat) : Bool :=
  let block := be 4 0x47505652 ++ be 1 kind ++ zeros 3 ++ be 8 (rd h 8 8) ++ be 2 (s.rd 0x4200_01) ++ be 2 (rd h 6 2) ++ be 4 0 ++
    be 8 (rd h 16 8) ++ s.octs 0x2100_06 0 32 ++ slice h 72 32 ++ be 8 wmW ++ be 8 wmN ++ s.octs 0x3303_07 0 32 ++ zeros 32
  sha256 block == slice h 104 32

/-- A section of an image: kind, lines or records, bytes, watermark. -/
structure Section where
  kind : Nat
  count : Nat
  data : Bytes
  wm : Nat
deriving DecidableEq, Repr

/-- The sections of the image at byte address a with header h. -/
def State.sections (s : State) (a : Nat) (h : Bytes) : List Section :=
  (List.range (min 10 (fldLe h 39 1))).map (fun i =>
    let o := 512 + 32 * i
    ⟨fldLe h o 1, fldLe h (o + 4) 4, s.frd (a + 4096 * fldLe h (o + 8) 8) (fldLe h (o + 16) 8), fldLe h (o + 24) 8⟩)

/-- Where the last section of the image with header h ends, in bytes from its start (R187). -/
def imageEnd (h : Bytes) : Nat :=
  let n := fldLe h 39 1
  let o := 512 + 32 * (n - 1)
  if n = 0 then 4096 else 4096 * fldLe h (o + 8) 8 + fldLe h (o + 16) 8

/-- R194: an image is loaded and rolled back to t; the cause of Table 8-7 when a check fails. -/
def State.loadImage (s : State) (a n t : Nat) : Option Nat × State :=
  let h := s.frd a 4096
  let step := fldLe h 16 8
  let g := max s.deckle 1
  let secs := s.sections a h
  let w := (secs.find? (·.kind == 0)).getD ⟨0, 0, [], 0⟩
  let m := (secs.find? (·.kind == 1)).getD ⟨1, 0, [], 0⟩
  let wins := secs.filter (·.kind = 2)
  let late := (List.range wins.length).filterMap (fun i =>
    if step - (wins.length - 1 - i) * g > t then wins[i]? else none)
  let trailer := s.frd (a + n - 4096) 48
  let shaOk := slice trailer 16 32 == sha256 (s.frd a (imageEnd h)) && s.provenanceOk h 0 w.wm m.wm fldLe
  let s := s.loadLines 0 w.count 0 (chunks 256 w.count w.data)
  let s := s.loadLines 1 w.count 0 (chunks 256 m.count m.data)
  let wmOk := wins.all (fun x => recsWm s.wmKey (readRecs x.count x.data) == x.wm) && s.loadedWm 0 w.count w.count == w.wm && s.loadedWm 1 m.count w.count == m.wm
  let s := late.foldl (fun s x => (readRecs x.count x.data).foldl (fun s r => s.subtract w.count r) s) s
  let want := late.foldl (fun acc x => subP acc x.wm) (shardWm s.wmKey w.wm m.wm)
  let got := shardWm s.wmKey (s.loadedWm 0 w.count w.count) (s.loadedWm 1 m.count w.count)
  let inRange := s.loadedInRange w.count w.count
  let s := (s.absorbLoaded w.count m.count).rederiveAll t
  let s := s.modTiers fun x => { x with header := (fldLe h 56 8, fldLe h 64 4) }
  (if ¬ shaOk then some 1 else if ¬ wmOk ∨ want ≠ got then some 2 else if ¬ inRange then some 3 else none, s)

/-- One element record of an export: its words go to their places. The flag says that its check agreed. -/
def State.loadRecord (s : State) (f : Bytes) : Bool × State :=
  let tid := fld f 4 2
  let code := fld f 1 1
  let n := fld f 32 4
  match (s.pass.mould.map (·.descs)).bind (fun ds => ds.find? (·.tid == tid)) with
  | none => (false, s)
  | some d =>
    match d.exports.find? (·.code == code) with
    | none => (false, s)
    | some r =>
      let ws := (chunks r.width n (slice f 64 (n * r.width))).map beNat
      let chk := (List.range n).foldl (fun acc x => addP acc (rotmul (toField (r.val (ws.getD x 0))) (x % 61))) 0
      let first := fld f 24 8
      let fits := decide (first + n ≤ r.count) && fld f 2 1 == r.fmt && decide (fld f 36 4 = n * r.width)
      if fits then (chk == fld f 40 8, s.mwr (r.base + r.width * first) (wordsBytes r.width ws)) else (false, s)

/-- The records of an export up to its end record, whose offset it gives. -/
def State.loadRecords (s : State) : Nat → Bytes → Nat → Bool → Bool × Nat × State
  | 0, _, off, ok => (ok, off, s)
  | fuel + 1, bs, off, ok =>
    if fld bs 0 1 ≠ 1 then (ok, off, s) else
      let len := 64 + 64 * ceilDiv (fld bs 36 4) 64
      let (good, s) := s.loadRecord bs
      State.loadRecords s fuel (bs.drop len) (off + len) (ok && good)

/-- R194: a staged export is loaded; the cause of Table 8-7 when a check fails. -/
def State.loadExport (s : State) (a n t : Nat) : Option Nat × State :=
  let all := s.frd a n
  let (recsOk, off, s) := s.loadRecords (n / 64) (all.drop 4096) 4096 true
  let e := all.drop off
  let shaOk := slice e 32 32 == sha256 (all.take (off + 32)) && s.provenanceOk all 1 (fld e 16 8) (fld e 24 8) fld
  let nW := s.ownLines 0
  let wmOk := s.loadedWm 0 nW nW == fld e 16 8 && s.loadedWm 1 (s.ownLines 1) nW == fld e 24 8
  let inRange := s.loadedInRange nW nW
  let s := s.rederiveAll t
  let s := s.modTiers fun x => { x with header := (fld all 56 8, fld all 64 4) }
  (if ¬ shaOk then some 1 else if ¬ recsOk then some 5 else if ¬ wmOk then some 2 else if ¬ inRange then some 3 else none, s)

/-- R194, R161: the own state in memory is rolled back to t; the cause when a word leaves its range. -/
def State.loadMemory (s : State) (t : Nat) : Option Nat × State :=
  let recs := s.member.dlog.filter (fun r => decide (r.window > t) && r.id.src == s.own)
  let s := recs.foldl State.undo s
  let s := s.modMember fun m => { m with dlog := m.dlog.filter (·.window ≤ t) }
  let s := s.rederiveAll t
  let s := s.modTiers fun x => { x with header := (s.rd 0x3301_07, s.rd 0x3301_08) }
  (if s.loadedInRange (s.ownLines 0) (s.ownLines 0) then none else some 3, s)

/-- R194: every shard has reported loaded: what a unit sets. -/
def State.finishRestore (s : State) (t outcome : Nat) : State :=
  let (service, count) := s.tiers.header
  let s := s.modTiers fun x => { x with order := none, inventories := [], removed := [], serviceNs := 1000000000 * service }
  let s := ((s.wr 0x3304_03 t).wr 0x3304_04 outcome).wr 0x3200_0A t
  let s := (s.wr 0x3301_07 service).wr 0x3301_08 count
  let s := s.wr 0x3304_02 3
  (s.inc 0x8330_09).ev 0x3307 (be 8 t ++ be 1 outcome)

/-- R194: a Restore report is taken: a rejection makes the selecting unit select again, the last load ends the restore. -/
def State.takeRestoreReport (s : State) (shard result cause t : Nat) : State :=
  match s.tiers.order with
  | none => s
  | some (step, outcome, picks) =>
    if t ≠ step then s
    else if result = 0 then
      let s := s.modTiers fun x => { x with loaded := insertSorted shard x.loaded }
      if picks.all (fun c => s.tiers.loaded.contains c.shard) then s.finishRestore step outcome else s
    else if ¬ s.selector then s
    else
      let s := s.modTiers fun x => { x with removed := x.removed ++ picks.filter (·.shard = shard) }
      let s := (s.inc 0x8330_0A).ev 0x3308 (be 2 shard ++ be 8 step ++ be 1 cause)
      s.runSelection

/-- R194: the unit's Restore report goes to every unit, and it takes its own. -/
def State.restoreReport (s : State) (shard result cause t : Nat) : State :=
  let s := s.modTiers fun x => { x with reading := none }
  let f := s.header 0x34 0 ++ be 2 shard ++ be 1 result ++ be 1 cause ++ be 8 t
  (s.toDomain f).takeRestoreReport shard result cause t

/-- R194: the candidate has been read: it is loaded, checked and reported. -/
def State.shardLoaded (s : State) : State :=
  match s.tiers.reading, s.tiers.order with
  | some (c, n), some (t, _, _) =>
    if s.fOut.any (·.use = 3) then s else
      let (bad, s) := match c.src with
        | 0 => s.loadMemory t
        | 1 => s.loadImage (s.candPlace 1 c.slot).1 n t
        | _ => s.loadExport (s.candPlace 2 c.slot).1 n t
      match bad with
      | some x => s.restoreReport c.shard 1 x t
      | none => s.restoreReport c.shard 0 0 t
  | _, _ => s

/-- R186: a read of the candidate has failed twice. -/
def State.restoreReadFailed (s : State) : State :=
  match s.tiers.reading, s.tiers.order with
  | some (c, _), some (t, _, _) =>
    State.restoreReport { s with fOut := s.fOut.filter (·.use ≠ 3) } c.shard 1 4 t
  | _, _ => s

end Sys2Proof.Machine
end

