-- ==== Sys2Proof/Machine/LifeOps.lean ====
section
/-!
DEFINITION. The shared operations of the device's life: sideband pairs, holdover, flush, functions and their drains, reset,
self-test, firmware and the twin (01, 06, 16, 17, 18).
-/

namespace Sys2Proof.Machine

/-! ### Sideband pairs (R389 to R392) -/

/-- The status object of pair n, numbered from 1 in the order of Table 17-4 (Table 17-8). -/
def pairKey (n : Nat) : Nat := 0x7101_00 + n

/-- Pair n is in wire fault. -/
def State.pairFault (s : State) (n : Nat) : Bool := s.rd (pairKey n) % 16 != 0

/-- The accepted value of pair n; a pair in fault reads its safe value 0. -/
def State.pairValue (s : State) (n : Nat) : Bool := !s.pairFault n && (s.rd (pairKey n)).testBit 4

/-- R390: the accepted value of a pair that is not in fault changes. -/
def State.setPair (s : State) (n : Nat) (v : Bool) : State :=
  if s.pairFault n then s else s.wr (pairKey n) (if v then 16 else 0)

/-! ### The feed sentinel (R362) -/

/-- The warning condition of the feed mode 0x7002.01 holds. -/
def State.feedWarns (s : State) : Bool :=
  let a := (s.rd 0x7002_03).testBit 0
  let b := (s.rd 0x7002_03).testBit 1
  match s.rd 0x7002_01 with
  | 0 => a
  | 1 => a || b
  | _ => a && b

/-- The debounce runs while the condition holds. -/
def State.feedJudge (s : State) : State := s.modSensors fun x => { x with debouncing := s.feedWarns }

/-- A bit of the feed status 0x7002.03. -/
def State.feedBit (s : State) (i : Nat) (v : Bool) : State := s.wr 0x7002_03 (setBit (s.rd 0x7002_03) i v)

/-! ### The time input and the timebase (R17, R20, R393) -/

/-- Holdover is entered, unless it runs or the timebase is unfit already (Table 1-12). -/
def State.enterHoldover (s : State) : State :=
  if s.rd 0x3180_04 ≠ 0 then s else
    let s := s.modClock fun c => { c with holdoverAt := c.now }
    let s := (s.wr 0x3180_04 1).inc 0x8318_02
    s.evHub 0x3180 (be 8 s.clock.lastLocked)

/-! ### The log's tail (R362) -/

/-- The block of the own log that has begun to fill goes to flash. -/
def State.writeLogTail (s : State) : State :=
  let n := s.log.next % 64
  if n = 0 ∨ s.sensors.fStopped then s else
    s.fIssue 0 0 true (2056 + s.log.next / 64 % 4096) 1
      (((s.log.recs.take n).reverse.map EvRec.bytes).flatten ++ zeros (64 * (64 - n)))

/-! ### The power-fail flush (R143, Table 6-8) -/

/-- A flush that sends only the departing notice: what was to be couched is dropped. -/
def State.bareFlush (s : State) : State :=
  let was := s.dev
  let s := s.modCouch fun c => { c with entries := [], tgtDue := [], out := [], fill := [] }
  let s := s.flushEnd true
  if was = 7 then (s.discardCoding).allOff else s

/-- R143: the flush begins at t0. -/
def State.startFlush (s : State) : State :=
  if s.flushing then s else
    let bare := s.member.cut.isSome || s.fn .coding == 1
    let s := s.modCouch fun c => { c with flush := some (s.now, s.epoch), paid := s.rd 0x8310_06, folding := none, withheld := [] }
    let s := (s.wr 0x3101_05 3).inc 0x8310_10
    let s := s.evHub 0x3109 (be 8 s.epoch ++ be 8 s.outstanding)
    let s := s.failHeld.countCow s.cowSince
    let s := (s.prot.repairs.map (·.reqs)).flatten.foldl State.errorResp s
    let s := (s.modProt fun p => { p with repairs := [] }).yFlush
    let s := ((s.abandonSnap 2).abandonExport 2).stopPass
    let s := s.writeLogTail
    if bare then s.bareFlush else s.resendAll.pump.flushCheck

/-- What a declared feed failure or a thermal trip does where it flushes: in MEMBER, and while coding is STARTING with a
membership in hand (Table 6-8). -/
def State.flushes (s : State) : Bool := s.dev == 5 || (s.fn .coding == 1 && !s.member.members.isEmpty)

/-! ### Functions: prerequisites and starts (R355, Table 16-3) -/

/-- The prerequisite of a function. -/
def prereq : Fn → Option Fn
  | .routing => some .reduction
  | .siteExchange => some .coding
  | _ => none

/-- The function that depends on a function. -/
def dependant : Fn → Option Fn
  | .reduction => some .routing
  | .coding => some .siteExchange
  | _ => none

/-- The device states in which an enable is accepted (Table 16-3, R354). -/
def enableStates : Fn → List Nat
  | .coding => [4, 7]
  | .siteExchange => [4, 5]
  | _ => [3, 4, 5]

/-- R355, R16, R360: the status of an enable of a function that is OFF; 0 when it is accepted. -/
def State.enableStatus (s : State) (f : Fn) : Nat :=
  if ¬ (enableStates f).contains s.dev then 8
  else if s.sensors.hot then 13
  else if (prereq f).any (fun p => s.fn p ≠ 2) then 13
  else if f = .coding ∧ s.now < s.rd 0x3180_02 then 13
  else 0

/-- The reserves that a function takes at STARTING: owner and stalls (Table 13-2). -/
def State.fnReserves (s : State) : Fn → List (Nat × Nat)
  | .coding => [(1, s.rd 0x3100_09), (2, s.rd 0x3100_0A), (3, s.rd 0x3203_01)]
  | .deepTiers => [(5, s.rd 0x3300_05)]
  | .reduction => [(6, s.rd 0x4000_09)]
  | .siteExchange => [(7, s.rd 0x4200_10)]
  | .yard => [(8, s.rd 0x5000_09)]
  | .routing => []

/-- R281: the HBM stable is well placed: as R261 asks of the near backing, and clear of the yard's near backing. -/
def State.stableOk (s : State) : Bool :=
  let b := s.rd 0x5100_01
  let n := s.rd 0x5100_02
  let a := max 1 s.actives.length
  let near := (s.rd 0x5000_05, s.rd 0x5000_06)
  let others := near :: (s.rd 0x3002_01, s.rd 0x3002_02) :: (s.rd 0x3201_01, s.rd 0x3201_02) :: (s.rd 0x3201_03, s.rd 0x3201_04) ::
    (((match s.pass.mould with | some m => m.regions ++ s.streamRegions m | none => []) ++ s.layerRegions).map (fun r => (r.base, r.size)))
  n != 0 && b % 256 == 0 && n % (256 * a) == 0 && s.placed b n && s.actives.all (fun i => s.shareOf i b n == n / a) &&
    others.all (fun o => !(overlap b n o.1 o.2))

/-- R281, R282: before the first reserve of the stable is taken, the region is checked and its stalls counted. -/
def State.openStable (s : State) (owner need : Nat) : Bool × State :=
  if (List.range 10).any (fun o => s.reserve o ≠ 0) then (true, s)
  else if s.stableOk then (true, (s.wr 0x5100_03 (s.stableCount (s.rd 0x5100_01) (s.rd 0x5100_02))).refreshStalls)
  else (false, s.ev 0x5101 (be 1 owner ++ be 4 need ++ be 4 0))

/-- R284: the reserves of a list are granted in order, as far as there is room. -/
def State.grantAll : State → List (Nat × Nat) → Bool × State
  | s, [] => (true, s)
  | s, r :: rs =>
    match s.grant r.1 r.2 with
    | (true, s) => State.grantAll s rs
    | (false, s) => (false, s)

/-- What the owning chapter finds against a start: its event, with the state that reports it (Table 16-3). -/
def State.startFault (s : State) (f : Fn) : Option (Nat × State) :=
  match f with
  | .coding =>
    if ¬ s.audit.keyed then some (0x6008, s.ev 0x6008 [])
    else (s.areasRefusal s.ownFeltNeed).map (fun r => (0x3003, s.evHub 0x3003 (be 1 r.1 ++ be 1 r.2.1 ++ be 8 r.2.2)))
  | .deepTiers => if s.extentsBad then some (0x3309, s.ev 0x3309 (be 1 1)) else none
  | .reduction => (s.streamsRefusal s.theMould).map (fun r =>
      (0x4001, (s.wr 0x4000_0C (r.1 % 256 + 256 * r.2)).ev 0x4001 (be 1 r.1 ++ be 1 r.2)))
  | .yard => s.yardRefusal.map (fun r => (0x5001, (s.wr 0x5000_19 r).ev 0x5001 (be 1 r)))
  | .routing => (s.layersRefusal s.theMould).map (fun r =>
      (0x4101, (s.wr 0x4100_04 (r.1 % 256 + 256 * r.2)).ev 0x4101 (be 1 r.1 ++ be 1 r.2)))
  | .siteExchange => (s.exchRefusal s.theMould).map (fun r =>
      (0x4201, (s.wr 0x4200_16 (r.1 % 256 + 256 * r.2)).ev 0x4201 (be 1 r.1 ++ be 1 r.2)))

/-- Coding is STARTING: at job start its Join requests go (R173); after PADDOCK it awaits the late admission (R174). -/
def State.beginCoding (s : State) : State :=
  let s := (s.modTwin fun t => { t with departing := false }).showCounts
  let s := s.modMember fun m => { m with counts := m.counts.filter (·.1 ≠ s.own) ++ [(s.own, s.rd 0x3002_06, s.rd 0x3002_07)] }
  if s.dev = 7 ∨ s.halter ≠ 0 then s else ((s.wr 0x3200_02 1).sendJoin).tryStart

/-- What a function does when its checks pass: the ranges it steers, what it forgets, and ON for all but coding. -/
def State.beginFn (s : State) (f : Fn) : State :=
  match f with
  | .coding => s.beginCoding
  | .deepTiers =>
    (State.findSlots (s.modTiers fun t => { t with snap := none, exporting := none, deferred := [], images := 0, reading := none })).setFn f 2
  | .reduction => (s.redClear.resteer (fnKinds f) (s.streamRegions s.theMould)).setFn f 2
  | .yard => (s.yStart.resteer (fnKinds f) s.yardRegions).setFn f 2
  | .routing => (s.resteer (fnKinds f) s.layerRegions).setFn f 2
  | .siteExchange => s.exchStart.setFn f 2

/-- R355: STARTING: the checks of the owning chapter and the reserves; a failure returns the function to OFF. -/
def State.startFn (s : State) (f : Fn) : State :=
  let s := s.setFn f 1
  let rs := s.fnReserves f
  match s.startFault f with
  | some (code, s) => s.startRefused f code
  | none =>
    match if rs.isEmpty then (true, s) else s.openStable ((rs.map (·.1)).headD 0) ((rs.map (·.2)).headD 0) with
    | (false, s) => s.startRefused f 0x5101
    | (true, s) =>
      match s.grantAll rs with
      | (false, s) => s.startRefused f 0x5101
      | (true, s) => s.beginFn f

/-! ### Drains (R356, R357, Table 16-3) -/

/-- The departing notice of a unit that leaves its job, and what leaving it clears; PADDOCK keeps its status. -/
def State.depart (s : State) : State :=
  if s.member.members.isEmpty then
    let s := s.leaveJob
    if s.dev = 7 then s.wr 0x3200_02 6 else s
  else
    let s := s.toMembers (s.noticeFrame 1 (s.couchedTo - 1))
    let s := s.modTwin fun t => { t with departing := true }
    let s := (s.failHeld.stopPass).leaveJob
    if s.dev = 7 then s.wr 0x3200_02 6 else s

/-- Table 16-4: a function that is STARTING or ON goes into DRAINING; a fill in hand is abandoned (Table 5-4). -/
def State.startDrain (s : State) (f : Fn) (cause : Nat) : State :=
  let was := s.fn f
  if was ≠ 1 ∧ was ≠ 2 then s else
    let s := s.setFn f 3
    if f ≠ .coding then s
    else if was = 1 then s.depart
    else if s.dev = 5 then s.setDev 6 cause else s

/-- Every function drains, dependants first (R360). -/
def State.drainAll (s : State) (cause : Nat) : State :=
  [Fn.siteExchange, .routing, .yard, .reduction, .deepTiers, .coding].foldl (fun s f => s.startDrain f cause) s

/-- What DRAINING waits for (Table 16-3, R357). -/
def State.drained (s : State) (f : Fn) : Bool :=
  match f with
  | .coding => s.member.members.isEmpty || (!s.pass.running && decide (s.couch.couchedTo > s.rd 0x3181_03) && decide (s.committed ≥ s.stepDone))
  | .deepTiers => (match s.tiers.snap with | some c => c.phase == 0 | none => true) && s.tiers.exporting.isNone && s.tiers.reading.isNone
  | .reduction => s.red.ctl.isEmpty && s.red.steps.all s.stepFinal
  | .yard => s.yard.ops.isEmpty && s.yard.fences.isEmpty
  | .routing => s.route.calls.isEmpty && s.route.deferred.all (·.never)
  | .siteExchange => s.exch.sweep.isNone

/-- R356: a pending enable is taken as the function reaches OFF, subject to R355. -/
def State.takePending (s : State) (f : Fn) : State :=
  if s.rd (0x1203_00 + fnCode f) = 0 then s else
    let s := (s.wr (0x1203_00 + fnCode f) 0).inc 0x8120_03
    if s.enableStatus f = 0 then s.startFn f else s

/-- A drain completes: the function goes OFF (Table 16-4); after coding, the device leaves DRAINING (R357). -/
def State.endDrain (s : State) (f : Fn) : State :=
  let s := match f with
    | .coding => s.depart
    | .deepTiers => s.modTiers fun t => { t with snap := none, deferred := [] }
    | .siteExchange => s.exchClear.wr 0x4200_14 5
    | _ => s
  let s := (s.setFn f 0).inc 0x8120_04
  let s := s.tidyFn f
  let s := if f = .coding ∧ s.dev = 6 then s.setDev 4 0x1202 else s
  s.takePending f

/-- What a write of v to the enable object of a function does (Table 16-4): the status of the answer, and the state. -/
def State.enableAct (s : State) (f : Fn) (v : Nat) : Nat × State :=
  let st := s.fn f
  let pend := 0x1203_00 + fnCode f
  if v = 1 then
    if s.dev = 7 ∧ f ≠ .coding then (8, s)
    else if st = 0 then
      let c := s.enableStatus f
      if c = 0 then (0, s.startFn f) else (c, s)
    else if s.sensors.hot then (13, s)
    else if st = 3 then (0, s.wr pend 1)
    else (0, s)
  else if st ≠ 0 ∧ (dependant f).any (fun d => s.fn d ≠ 0) then (13, s)
  else if st = 3 then (0, s.wr pend 0)
  else (0, s.startDrain f 0x1202)

/-! ### Reset (R328, R396, R402) -/

/-- What a reset leaves: the fuses, the sticky registers, host memory, storage, the test port and all that has left the
block keep their values; the rest is as at power-up, with the device OFF. -/
def State.resetBlock (s : State) : State :=
  { pending := s.pending, hw := s.hw, sticky := s.sticky, mem := s.mem, poison := s.poison, flash := s.flash, tx := s.tx
    cOut := s.cOut, draws := s.draws, tap := s.tap, sport := { resp := s.sport.resp, grant := s.sport.grant }
    dict := [(0x1200_01, 0)] }

/-- A self-reset: the bypasses of mapped-out slices run on, with what is open at them (R15). -/
def State.selfReset (s : State) : State :=
  s.resetBlock.modSPort fun p => { p with ctrl := s.sport.ctrl.filter (fun c => s.active c.req.slice = false) }

/-- R408: the fuse block is read; copies that disagree give the safer reading. -/
def State.readFuses (s : State) : State :=
  let lock := s.hw.debugCopies % 8
  let s := s.wr 0x7F00_01 (if lock = 0 then 0 else 1)
  let s := s.wr 0x7F00_02 ((s.hw.disableA ||| s.hw.disableB) % 2 ^ 32)
  s.wr 0x7F00_04 ((if lock = 0 ∨ lock = 7 then 0 else 1) +
    (if s.hw.disableA % 2 ^ s.hw.slices = s.hw.disableB % 2 ^ s.hw.slices then 0 else 2))

/-- Table 17-7: the release: fuses, sideband decoders, and the device enters SELFTEST. -/
def State.releaseReset (s : State) (pairs : List Nat) : State :=
  let s := s.readFuses
  let s := (List.range 7).foldl (fun s i => s.wr (pairKey (i + 1)) (pairs.getD i 0 % 32)) s
  s.setDev 1 0

/-- The statuses of the sideband pairs. -/
def State.pairs (s : State) : List Nat := (List.range 7).map (fun i => s.rd (pairKey (i + 1)))

/-! ### Firmware (R368 to R371) -/

/-- The storage as the groom sees it, its own writes in flight included. -/
def State.firmwareSeen (s : State) : List Host.Cell :=
  (s.fOut.filter (fun c => c.use = 5 ∧ c.write)).foldl (fun m c => Sparse.putBytes m (4096 * c.lba) c.data) s.flash

/-- The byte address of an image slot (Table 16-7). -/
def slotAddr (slot : Nat) : Nat := slot * 1024 * 4096

/-- R369: why the image of a slot is not valid, in the cause numbers of its table; 0 for a valid one. -/
def imageCause (m : List Host.Cell) (slot sec : Nat) : Nat :=
  let h := Sparse.getBytes m (slotAddr slot) 256
  let len := fldLe h 16 4
  if fldLe h 0 4 ≠ 0x47465749 ∨ fldLe h 4 2 ≠ 1 ∨ len > 4194048 then 4
  else if ¬ Config.ed25519Valid (h.take 128) (slice h 128 64) then 1
  else if sha256 (Sparse.getBytes m (slotAddr slot + 256) len) ≠ slice h 24 32 then 2
  else if fldLe h 12 4 < sec then 3
  else 0

/-- The boot record (Table 16-10): active slot, trial, highest security version; slot A and zeros when its magic differs. -/
def bootRecord (m : List Host.Cell) : Nat × Bool × Nat :=
  let b := Sparse.getBytes m (2048 * 4096) 12
  if fldLe b 0 4 = 0x47425452 then (fldLe b 4 1 % 2, fldLe b 5 1 == 1, fldLe b 8 4) else (0, false, 0)

/-- A boot record as its block. -/
def bootBytes (active trial sec : Nat) : Bytes :=
  le 4 0x47425452 ++ le 1 active ++ le 1 trial ++ zeros 2 ++ le 4 sec ++ zeros 4084

/-- The slot that is not running; the boot ROM alone takes slot A (R352). -/
def State.idleSlot (s : State) : Nat := if s.firmware.romOnly then 0 else 1 - s.rd 0x7004_03

/-- The status object of a slot: versions and state. -/
def State.showSlot (s : State) (slot state : Nat) : State :=
  let h := Sparse.getBytes s.firmwareSeen (slotAddr slot) 256
  s.wrO (0x7004_01 + slot) 0 (slice h 8 4 ++ slice h 12 4 ++ le 1 state ++ zeros 7)

/-- The state of a slot as found at boot: 0 empty, 1 valid, 2 invalid. -/
def slotState (m : List Host.Cell) (slot sec : Nat) : Nat :=
  if (Sparse.getBytes m (slotAddr slot) 256).all (· = 0) then 0 else if imageCause m slot sec = 0 then 1 else 2

/-- R370: a chunk goes to flash at the write offset, which advances. -/
def State.chunkAct (s : State) (b : Bytes) : Nat × State :=
  let o := s.rd 0x7004_05
  let i := s.idleSlot
  if o > 4128768 then (13, s) else
    let s := s.modFirmware fun f => { f with checked := false }
    let s := s.fIssue 5 0 true (i * 1024 + o / 4096) 16 b
    let s := (s.showSlot i 3).wr 0x7004_05 (o + 65536)
    (0, s.inc 0x8700_09)

/-- R369: an image is refused. -/
def State.refuseImage (s : State) (slot cause : Nat) : State := s.ev 0x7008 (be 1 slot ++ be 1 cause)

/-- R370: the slot that is not running is checked. -/
def State.checkAct (s : State) : Nat × State :=
  let i := s.idleSlot
  let c := imageCause s.firmwareSeen i (bootRecord s.firmwareSeen).2.2
  let s := s.modFirmware fun f => { f with checked := c == 0 }
  let s := (s.wr 0x7004_0A (1 + c)).showSlot i (if c = 0 then 1 else 2)
  (0, if c = 0 then s else s.refuseImage i c)

/-- R370: the checked slot is marked active, on trial. -/
def State.activateAct (s : State) : Nat × State :=
  if ¬ s.firmware.checked then (13, s)
  else (0, s.fIssue 5 0 true 2048 1 (bootBytes s.idleSlot 1 (bootRecord s.firmwareSeen).2.2))

/-- R186, R369: a firmware write has failed twice. -/
def State.firmwareFailed (s : State) : State :=
  let i := s.idleSlot
  let s := s.modFirmware fun f => { f with checked := false }
  ((s.wr 0x7004_0A 6).showSlot i 2).refuseImage i 5

/-- R371: the trial is given up: the previous slot, no trial, and the whole block resets with cause 3. -/
def State.fallback (s : State) : State :=
  let b := bootRecord s.flash
  let p := s.pairs
  let s := { s with flash := Sparse.putBytes s.flash (2048 * 4096) (bootBytes (1 - b.1) 0 b.2.2) }
  let s := s.modSticky fun x => { x with cause := 3 }
  s.selfReset.releaseReset p

/-! ### Self-test (R349 to R352, R402, R408) -/

/-- The whole directory: 8 bytes for each object, in index order (R323, R348). -/
def directoryRow (o : Obj) : Bytes := be 1 (o.key % 256) ++ be 1 o.ty.code ++ be 1 o.acc.code ++ zeros 1 ++ be 4 o.size

/-- The dictionary digest 0x1000.0B. -/
def dictionaryDigest : Bytes :=
  let is := sortNat ((catalog.map (fun o => o.key / 256)).eraseDups)
  sha256 (is.map (fun i => ((rowsOf i).map directoryRow).flatten)).flatten

/-- The digest of the conversion tables (R51). -/
def tablesDigest : Bytes := sha256 ([0x2010, 0x2011, 0x2012, 0x2013, 0x2014, 0x2015].map tableBytes).flatten

/-- The IDCODE word (Table 18-3). -/
def State.idcode (s : State) : Nat :=
  s.hw.stepping / 256 % 16 * 2 ^ 28 + 0x7ED0 * 2 ^ 12 + s.hw.mfr % 2 ^ 11 * 2 + 1

/-- The objects that are set at reset and at self-test from the build, the fuses and the monitors: `out` the arrays found
out of service, `mhz` the measured clocks D0 to D31, NCLK, FCLK, CCLK. -/
def State.fillBuild (s : State) (us out : Nat) (mhz : List Nat) : State :=
  let f (i : Nat) : Nat := mhz.getD i 0 % 65536
  let act := s.actives
  let s := ((s.wr 0x1000_04 s.hw.stepping).wr 0x1000_05 s.hw.slices).wr 0x1000_06 act.length
  let s := s.wr 0x5000_14 act.length
  let s := (s.wrO 0x1000_07 0 (le 16 s.hw.serial)).wrO 0x1000_0B 0 dictionaryDigest
  let s := s.wrO 0x2001_02 0 tablesDigest
  let s := s.wr 0x2200_05 (sumN (act.map (fun n => 3 * 4 ^ n)) &&& (2 ^ 64 - 1 - out % 2 ^ 64))
  let s := s.wrO 0x7001_01 0 (((List.range 32).map (fun n => le 2 (if n < s.hw.slices then 0 else 0x8000))).flatten ++ le 2 0)
  let s := (s.wr 0x7000_02 us).wrO 0x7004_09 0 (sha256 Config.bootKey)
  let s := s.wr 0x7005_0B (if s.pairFault 7 then 2 else if s.pairValue 7 then 1 else 0)
  let s := s.wrO 0x7100_01 0 (((List.range 32).map (fun n => le 2 (f n))).flatten)
  let s := ((s.wr 0x7100_02 (f 32)).wr 0x7100_03 (f 33)).wr 0x7100_04 (f 34)
  let s := s.wr 0x7100_06 (sumN ((act.filter (fun n => f n ≠ 0)).map (2 ^ ·)) +
    sumN (([32, 33, 34].filter (fun n => f n ≠ 0)).map (2 ^ ·)))
  let s := s.wr 0x7F00_03 s.idcode
  let s := [(10, 384), (11, 192), (12, 256), (13, 128), (14, 64)].foldl (fun s r => s.wrOf 0x5101_01 (16 * r.1) 4 r.2) s
  ((s.wr 0x3100_03 s.couchBudget).wr 0x3100_06 s.outLimit).refreshStalls

/-- The draws of boot: the own incarnation and the keys of the 64 yard regions (Table 16-11, R264). -/
def State.drawBoot (s : State) : State :=
  let (n, s) := s.random
  let s := s.modTwin fun t => { t with incarnation := n % 2 ^ 32 }
  (List.range 64).foldl (fun s r =>
    let (k, s) := s.random
    { s with yard := { s.yard with keys := s.yard.keys ++ [(r, k % 2 ^ 128)] } }) s

/-- The sticky registers are copied into the dictionary and reported (R359, R402). -/
def State.copySticky (s : State) (slot : Nat) : State :=
  let c := s.sticky.cause
  let s := s.wr 0x7000_03 c
  let s := if c = 0 then s else s.ev 0x7002 (be 1 c)
  let s := if c = 3 then s.ev 0x7009 (be 1 slot ++ be 1 1) else s
  let s := if s.sticky.frozen then
      (((s.wr 0x7F00_05 1).wr 0x7F00_06 s.sticky.freezeTime)).evHub 0x7F01 (be 8 s.sticky.freezeTime)
    else s
  let n := s.sticky.refused
  let s := s.wr 0x87F0_01 n
  let s := if n = 0 then s else s.ev 0x7F02 (be 4 n)
  s.modSticky fun x => { x with frozen := false, freezeTime := 0, refused := 0 }

/-- R408: fuses whose copies disagree are reported: fuse 0 is DEBUG_LOCK, fuse 1 + n is SLICE_DISABLE n. -/
def State.reportFuses (s : State) : State :=
  let s := if (s.rd 0x7F00_04).testBit 0 then s.ev 0x7F03 (be 1 0 ++ be 1 (s.hw.debugCopies % 8)) else s
  ((List.range s.hw.slices).filter (fun n => s.hw.disableA.testBit n != s.hw.disableB.testBit n)).foldl (fun s n =>
    s.ev 0x7F03 (be 1 (n + 1) ++ be 1 (if s.hw.disableA.testBit n then 1 else 2))) s

/-- The least failed bit with its slice. -/
def leastFail : List (Nat × Nat) → Option (Nat × Nat)
  | [] => none
  | x :: l => match leastFail l with
    | none => some x
    | some y => if x.1 ≤ y.1 then some x else some y

/-- R351, R371: how self-test ends: SAFE with its cause, or IDLE, where a trial image is confirmed. -/
def State.judgeSelfTest (s : State) (fails : List (Nat × Nat)) (slot sec : Nat) : State :=
  if s.actives.length < s.rd 0x7F00_07 then (s.wr 0x1200_04 0x7F03).setDev 2 0x7F03
  else match leastFail fails with
    | some (b, n) => ((s.wr 0x1200_04 (b + 1)).ev 0x7001 (be 1 b ++ be 1 n)).setDev 2 0x7001
    | none =>
      let s := s.setDev 3 0
      if s.rd 0x7004_04 = 1 ∧ s.rd 0x7000_01 = 0 then
        let v := fldLe (Sparse.getBytes s.flash (slotAddr slot) 256) 12 4
        ((s.wr 0x7004_04 0).fIssue 5 0 true 2048 1 (bootBytes slot 0 (max sec v))).ev 0x7009 (be 1 slot ++ be 1 0)
      else s

/-- R350: a failed comparison of the conversion tables (R51); the digest computed is not known. -/
def State.tablesBad (s : State) : State :=
  let (d, s) := s.draw
  (s.wr 0x2001_03 1).ev 0x2008 (be 4 (s.rd 0x2001_01) ++ be 32 d)

/-- R290: the rows that self-test has remapped, and the least spare rows left in any block. -/
def State.fillSpares (s : State) (hard : List (Nat × Nat × Nat)) : State :=
  let s := s.modProt fun p => { p with remaps := hard }
  s.wr 0x5102_05 (minN 2 (hard.map (fun x => 2 - s.sparesUsed x.1 x.2.1 x.2.2)))

/-- The end of self-test. `fails` are the tests that failed and the slice of each, but for the firmware image, arrays and
pairs, which follow from the storage, from `out` and from the pairs; `hard` are the SRAM rows it has remapped. -/
def State.endSelfTest (s : State) (fails : List (Nat × Nat)) (us out : Nat) (mhz : List Nat) (hard : List (Nat × Nat × Nat)) : State :=
  if s.dev ≠ 1 then s else
    let (active, trial, sec) := if fails.any (·.1 = 11) then (0, false, 0) else bootRecord s.flash
    let ok (i : Nat) : Bool := !fails.any (·.1 = 11) && imageCause s.flash i sec == 0
    let found := fails.filter (fun x => [0, 2, 3, 4, 5, 6, 8, 9, 10, 11].contains x.1) ++
      (if ok 0 ∨ ok 1 then [] else [(1, 0xFF)]) ++
      ((s.actives.filter (fun n => (out.testBit (2 * n)) && out.testBit (2 * n + 1))).map (fun n => (7, n)))
    if trial ∧ (¬ ok active ∨ found ≠ []) then s.fallback else
      let slot := if ok active then active else 1 - active
      let rom := !ok slot
      let pairsBad := (List.range 7).any (fun i => s.pairFault (i + 1))
      let bits := ((found.map (·.1)).eraseDups) ++ (if pairsBad then [12] else [])
      let s := s.modFirmware fun f => { f with romOnly := rom }
      let s := (s.fillBuild us out mhz).fillSpares hard
      let s := s.wr 0x7000_01 (sumN (bits.map (2 ^ ·)))
      let s := s.wr 0x7004_03 (if rom then 0 else slot)
      let s := s.wr 0x7004_04 (if trial then 1 else 0)
      let s := (s.showSlot 0 (slotState s.flash 0 sec)).showSlot 1 (slotState s.flash 1 sec)
      let h := Sparse.getBytes s.flash (slotAddr slot) 256
      let s := if rom then s else (s.wr 0x1000_09 (fldLe h 8 4)).wr 0x2001_01 (fldLe h 20 4)
      let s := s.drawBoot.copySticky (1 - active)
      let s := s.reportFuses
      let s := if ok active ∨ slotState s.flash active sec = 0 ∨ fails.any (·.1 = 11) then s
        else s.refuseImage active (imageCause s.flash active sec)
      let s := if fails.any (·.1 = 2) then s.tablesBad else s
      let s := s.refreshSettings
      let s := s.judgeSelfTest found slot sec
      if s.pairValue 6 then s else s.enterHoldover

/-! ### Sensors (R360) -/

/-- One reading against both thresholds. -/
def State.judgeSensor (s : State) (n : Nat) (t : Int) : State :=
  let hot := decide (t > sgn 32 (s.rd 0x7001_02))
  let trip := decide (t > sgn 32 (s.rd 0x7001_03))
  let s := if hot ∧ ¬ s.sensors.warm.contains n then (s.inc 0x8700_05).ev 0x7003 (be 1 n ++ be 2 (pat 16 t)) else s
  let s := if trip ∧ ¬ s.sensors.tripped.contains n then
      State.ev (s.modSensors fun x => { x with hot := true }) 0x7004 (be 1 n ++ be 2 (pat 16 t))
    else s
  s.modSensors fun x => { x with
    warm := if hot then insertSorted n (dropEntry n x.warm) else dropEntry n x.warm
    tripped := if trip then insertSorted n (dropEntry n x.tripped) else dropEntry n x.tripped }

/-- R360: a sample of every sensor: entry n for slice n, entry 32 for the hub. -/
def State.sample (s : State) (ts : List Int) : State :=
  let at_ (n : Nat) : Int := ts.getD n 0
  let before := s.sensors.tripped
  let s := s.wrO 0x7001_01 0 (((List.range 33).map (fun n => le 2 (if n < s.hw.slices ∨ n = 32 then pat 16 (at_ n) else 0x8000))).flatten)
  let s := (List.range s.hw.slices ++ [32]).foldl (fun (s : State) n => s.judgeSensor n (at_ n)) s
  let s := if s.sensors.warm.isEmpty then s.modSensors fun x => { x with hot := false } else s
  if s.sensors.tripped.any (fun n => ¬ before.contains n) then
    if s.flushes then s.startFlush else s.drainAll 0x7004
  else s

/-! ### The twin (R372 to R375) -/

/-- R372: a frame of the configured twin and of the own job. -/
def State.fromTwin (s : State) (f : Bytes) : Bool := fld f 2 2 == s.rd 0x7005_01 && s.ourJob f

/-- The side as frames carry it (Table 16-11). -/
def State.sideCode (s : State) : Nat := if s.rd 0x7005_0B = 2 then 0xFF else s.rd 0x7005_0B

/-- The labels of a device at the feed and the loop level (R105). -/
def State.feedLoop (s : State) (dev : Nat) : Nat × Nat := (labelOf s.domTable dev 1, labelOf s.domTable dev 3)

/-- Table 16-11: the body of Offer and Accept. -/
def State.offerBody (s : State) (verdict : Nat) : Bytes :=
  let l := s.feedLoop s.own
  be 2 (s.rd 0x7005_01) ++ be 1 s.sideCode ++ be 1 verdict ++ be 2 l.1 ++ be 2 l.2 ++ be 4 (s.rd 0x3180_01) ++ be 8 (s.rd 0x3180_02) ++
    be 4 s.twin.incarnation ++ s.settingsKey

/-- Levels shared with the partner whose labels a frame carries: bit 1 feed, bit 3 loop. -/
def State.sharedLevels (s : State) (f : Bytes) : Nat :=
  let l := s.feedLoop s.own
  (if l.1 = fld f 20 2 ∧ l.1 ≠ 0xFFFF then 2 else 0) + (if l.2 = fld f 22 2 ∧ l.2 ≠ 0xFFFF then 8 else 0)

/-- R373: the first reason against pairing with the unit that sent an Offer or an Accept; 0 when there is none. -/
def State.pairReason (s : State) (f : Bytes) : Nat :=
  let sh := s.sharedLevels f
  let waive := s.rd 0x3001_02
  let side := fld f 18 1
  let table := s.domTable
  if slice f 40 32 ≠ s.settingsKey then 1
  else if fld f 24 4 ≠ s.rd 0x3180_01 ∨ fld f 28 8 ≠ s.rd 0x3180_02 then 2
  else if sh.testBit 1 ∧ ¬ waive.testBit 1 then 3
  else if sh.testBit 3 ∧ ¬ waive.testBit 3 then 4
  else if side > 1 ∨ s.sideCode > 1 ∨ side = s.sideCode then 5
  else if fld f 16 2 ≠ s.own ∨ ¬ table.any (·.1 = s.own) ∨ ¬ table.any (·.1 = fld f 2 2) then 6
  else if ¬ s.audit.keyed then 8
  else 0

/-- R373: pairing is refused; a twin reserve taken for it goes back. -/
def State.refusePair (s : State) (reason : Nat) : State :=
  let s := if s.reserve 9 = 0 then s else s.ungrant 9
  (((s.wr 0x7005_08 4).wr 0x7005_09 reason).inc 0x8700_0A).ev 0x700B (be 1 reason)

/-- The stalls of the twin reserve at each active slice (owner 9, Table 13-2). -/
def State.twinNeed (s : State) : Nat := ceilDiv 4096 (max 1 s.actives.length)

/-- R373: the twin reserve is taken; false where it is not granted. -/
def State.takeTwinReserve (s : State) : Bool × State :=
  match s.openStable 9 s.twinNeed with
  | (false, s) => (false, s)
  | (true, s) => s.grant 9 s.twinNeed

/-- R373: the unit is paired with the sender of a frame. -/
def State.enterPaired (s : State) (shared : Nat) : State :=
  let s := ((s.wr 0x7005_08 2).wr 0x7005_0A shared).wr 0x7005_0C s.now
  let s := (s.wr 0x3203_06 1).wr 0x7003_07 1
  let s := (s.wr 0x7005_09 0).setDev 4 0x700A
  s.ev 0x700A (be 2 (s.rd 0x7005_01) ++ be 1 shared)

/-- A unit that is pairing: status 1, in IDLE. -/
def State.pairing (s : State) : Bool := s.rd 0x7005_08 == 1 && s.dev == 3

/-- R373: a write of 1 to 0x7005.03. -/
def State.pairAct (s : State) : Nat × State :=
  if s.dev ≠ 3 then (13, s) else
    let s := (s.wr 0x7005_08 1).wr 0x7005_09 0
    (0, if s.own < s.rd 0x7005_01 then s.sendTwin 0x80 0 (s.offerBody 0) else s)

/-- R373: an Offer is judged and answered. -/
def State.takeOffer (s : State) (f : Bytes) : State :=
  if ¬ s.pairing then s else
    let r := s.pairReason f
    let s := s.modTwin fun t => { t with partner := fld f 36 4 }
    let (r, s) := if r ≠ 0 ∨ s.reserve 9 ≠ 0 then (r, s) else
      match s.takeTwinReserve with
      | (true, s) => (0, s)
      | (false, s) => (9, s)
    let s := s.wr 0x7005_0A (s.sharedLevels f)
    let s := s.sendTwin 0x81 0 (s.offerBody r)
    if r = 0 then s else s.refusePair r

/-- R373: the offerer takes an Accept. -/
def State.takeAccept (s : State) (f : Bytes) : State :=
  if ¬ s.pairing then s else
    let r := if fld f 19 1 ≠ 0 then fld f 19 1 else s.pairReason f
    let s := s.modTwin fun t => { t with partner := fld f 36 4 }
    if r ≠ 0 then s.refusePair r else
      match s.takeTwinReserve with
      | (false, s) => s.refusePair 9
      | (true, s) => (s.sendTwin 0x82 0 (be 4 s.twin.partner)).enterPaired (s.sharedLevels f)

/-- R373: the Confirm arrives. -/
def State.takeConfirm (s : State) (f : Bytes) : State :=
  if ¬ s.pairing ∨ s.reserve 9 = 0 ∨ fld f 16 4 ≠ s.twin.incarnation then s else s.enterPaired (s.rd 0x7005_0A)

/-- R374: the partner's heartbeat against what has been mirrored from it: 1 its halter number, 2 its committed step. -/
def State.beatFault (s : State) (f : Bytes) : Option Nat :=
  let cut := s.member.mirror.find? (·.ty = 3)
  let com := s.member.mirror.find? (fun r => r.ty = 2 ∧ r.halter = fld f 4 4)
  if cut.any (fun r => decide (fld f 4 4 < fldLe r.body 0 4)) then some 1
  else if com.any (fun r => decide (fld f 20 8 < fldLe r.body 0 8)) then some 2
  else none

/-- R374: a heartbeat of the partner. -/
def State.takeBeat (s : State) (f : Bytes) : State :=
  if ¬ s.paired then s else
    let s := (s.hearFrame f).modTwin fun t => { t with beat := some (f.drop 16) }
    let s := s.wr 0x7005_0C s.now
    let s := if s.rd 0x7005_08 = 3 then (((s.wr 0x7005_08 2).wr 0x3203_06 1).wr 0x7003_07 1).sendTail else s
    let s := match s.beatFault f with
      | some k => State.ev (State.inc (s.modTwin fun t => { t with mismatch := true }) 0x8700_0B) 0x700D (be 2 (s.rd 0x7005_01) ++ be 1 k)
      | none => s
    if (fld f 16 1).testBit 2 then s.unitFailed 0x700D 0xFF else s

/-- The record that 64 bytes hold (Table 16-8). -/
def readRec (b : Bytes) : EvRec := ⟨fld b 8 8, fld b 0 8, fld b 16 2, fld b 18 1, fld b 20 4, slice b 24 40⟩

/-- R366: a mirrored record is kept, and a filled block goes to the twin's ring on flash. -/
def State.mirrorRec (s : State) (r : EvRec) : State :=
  let s := s.modLog fun l => { l with twin := (r :: l.twin).take 4096 }
  if r.seq % 64 = 63 ∧ ¬ s.sensors.fStopped then
    s.fIssue 0 0 true (6152 + r.seq / 64 % 4096) 1 (((s.log.twin.take 64).reverse.map EvRec.bytes).flatten)
  else s

/-- R366: a Log mirror frame of the partner. -/
def State.takeLogMirror (s : State) (f : Bytes) : State :=
  if ¬ s.paired then s else
    (List.range (min 16 (fld f 24 2))).foldl (fun s i => s.mirrorRec (readRec (slice f (32 + 64 * i) 64))) s

/-- R375: the twin is gone: its reserve and the mirrors go with it. -/
def State.dropTwin (s : State) : State :=
  let s := if s.reserve 9 = 0 then s else s.ungrant 9
  let s := s.modMember fun m => { m with mirror := [] }
  let s := s.modLog fun l => { l with twin := [] }
  let s := s.modTwin fun t => { incarnation := t.incarnation }
  let s := ((s.wr 0x7005_08 0).wr 0x7005_09 0).wr 0x7005_0A 0
  (s.wr 0x3203_06 0).wr 0x7003_07 0

/-- R375: the unit enters IDLE by unpairing. -/
def State.toIdle (s : State) : State := if s.dev = 4 ∨ s.dev = 7 then s.setDev 3 0 else s

/-- R375: a write of 1 to 0x7005.07. -/
def State.unpairAct (s : State) : Nat × State :=
  if s.fn .coding ≠ 0 then (13, s) else
    let s := if s.paired then s.sendTwin 0x85 0 [] else s
    (0, s.dropTwin.toIdle)

/-- R375: the partner unpairs. -/
def State.takeUnpair (s : State) : State :=
  if ¬ s.paired then s else if s.fn .coding = 0 then s.dropTwin.toIdle else s.dropTwin

end Sys2Proof.Machine
end

