-- ==== Sys2Proof/Machine/ActOps.lean ====
section
/-!
DEFINITION. What a write that the common rules accept does to the object and to the machine: the effects that the owning
chapters give single objects, the mould load among them (R59; R330 of 15_eciabo_dictionary.md).
-/

namespace Sys2Proof.Machine

/-! ### The mould load (R58, R59, R74, R196, R224, R241) -/

/-- Table 13-2, owner 4: the stalls per slice for the square-sum accumulators of a mould. -/
def squareNeed (m : Mould) : Nat := ceilDiv (24 * sumN ((m.descs.filter (·.form = 2)).map (fun d => d.rows + d.cols))) 4096

/-- Reason 9 of Table 3-1: the slice whose stable cannot hold the accumulators; else the state with the reserve taken, in
place of the old mould's. -/
def State.takeSquares (s : State) (m : Mould) : Except Nat State :=
  let need := squareNeed m
  let old := if s.reserve 4 = 0 then s else s.ungrant 4
  if need = 0 then .ok old
  else match old.openStable 4 need with
    | (false, _) => .error (s.actives.headD 0)
    | (true, t) =>
      match t.actives.find? (fun n => t.unreserved n < need) with
      | some n => .error n
      | none => .ok (t.wrOf 0x5101_01 64 4 need).refreshStalls

/-- A refusal of an owning chapter: the object that names it, and its event. -/
def State.reportRefusal (s : State) (key code : Nat) : Option (Nat × Nat) → State
  | none => s
  | some r => (s.wr key (r.1 % 256 + 256 * r.2)).ev code (be 1 r.1 ++ be 1 r.2)

/-- R59: the mould that passed replaces the old one whole. -/
def State.useMould (s : State) (m : Mould) : State :=
  let was := s.pass.mould
  let s := s.modPass fun p => { p with mould := some m, squares := [], derived := [] }
  let s := s.resteer [.state, .moment, .rowF, .colF, .working, .count, .list, .seed, .completion] m.regions
  let s := ((((s.wr 0x2100_02 1).wr 0x2100_03 m.descs.length).wr 0x2100_04 m.ops.length).wr 0x2100_05 0).wrO 0x2100_06 0 s.mouldDigest
  let s := if s.fn .reduction = 2 then (s.redLayout was).resteer (fnKinds .reduction) (s.streamRegions m) else s
  s.refreshSettings

/-- R59: a write of 1 to 0x2100.07. -/
def State.loadMould (s : State) : State :=
  let m := s.declared
  let str := if s.fn .reduction = 1 ∨ s.fn .reduction = 2 then s.streamsRefusal m else none
  let lay := s.layersRefusal m
  let ent := s.entriesRefusal m
  let one (r k : Nat) (x : Option (Nat × Nat)) : List Finding := match x with | some y => [(r, k, y.1)] | none => []
  let sq := s.takeSquares m
  let lack : List Finding := match sq with | .error n => [(9, 11, n)] | .ok _ => []
  match lowest (s.checkMould m (one 5 8 str ++ one 8 9 lay ++ one 8 10 ent ++ lack)) with
  | some (r, k, i) =>
    let s := ((s.reportRefusal 0x4000_0C 0x4001 str).reportRefusal 0x4100_04 0x4101 lay).reportRefusal 0x4200_16 0x4201 ent
    ((s.wr 0x2100_02 2).wr 0x2100_05 r).ev 0x2101 (be 2 r ++ be 1 k ++ be 2 i)
  | none => match sq with
    | .ok s => s.useMould m
    | .error _ => s

/-! ### Sessions that end (R336, R339) -/

/-- R339: staging copies discarded, with event 0x1005 and its cause. -/
def State.discardStaging (s : State) (cause : Nat) (p : Staging → Bool) : State :=
  let gone := s.server.staging.filter p
  let s := s.modServer fun v => { v with staging := v.staging.filter (fun c => !p c) }
  gone.foldl (fun (s : State) c => (s.inc 0x8100_09).ev 0x1005 (be 2 (c.key / 256) ++ be 1 (c.key % 256) ++ be 1 cause)) s

/-- Table 15-13: the entry of a session. -/
def Session.bytes (x : Session) : Bytes :=
  le 4 x.id ++ le 1 x.principal ++ le 1 x.st ++ zeros 2 ++ le 4 x.lastSeq ++ zeros 4 ++ be 16 x.addr ++ le 2 x.port ++ zeros 2 ++ le 8 x.opened

/-- The session table 0x1010.01 follows the sessions. -/
def State.showSessions (s : State) : State :=
  let b := ((s.server.sessions.take 16).map Session.bytes).flatten
  s.wrO 0x1010_01 0 (b ++ zeros (768 - b.length))

/-- A session is gone, with its block writes, frozen copies and subscriptions. -/
def State.dropSession (s : State) (id : Nat) : State :=
  let s := s.discardStaging 2 (fun c => c.sess == id)
  let s := s.modServer fun v => { v with
    sessions := v.sessions.filter (·.id ≠ id), frozen := v.frozen.filter (·.sess ≠ id), subs := v.subs.filter (·.sess ≠ id) }
  s.showSessions

/-- R336: a session ends, with event 0x1003 and its cause. -/
def State.endSession (s : State) (cause id : Nat) : State := (s.dropSession id).ev 0x1003 (be 4 id ++ be 1 cause)

/-- Every session of a principal ends. -/
def State.endPrincipal (s : State) (cause p : Nat) : State :=
  ((s.server.sessions.filter (·.principal = p)).map (·.id)).foldl (fun (s : State) i => s.endSession cause i) s

/-- R348: the key check of a principal key. -/
def principalCheck (key : Bytes) : Nat := beNat ((hmac key [0x4B, 0x43, 0x48, 0x4B]).take 8)

/-- A principal key is written (R336, R348). -/
def State.takePrincipalKey (s : State) (p : Nat) (b : Bytes) : State :=
  let s := (s.wrO (0x1100_01 + 256 * p) 0 b).modServer fun v => { v with keyed := insertSorted p (dropEntry p v.keyed) }
  (s.wr (0x1100_04 + 256 * p) (principalCheck b)).endPrincipal 3 p

/-! ### Owner's checks of single objects -/

/-- A range of the interleave table image is well formed (R383). -/
def IRange.ok (built : Nat) (r : IRange) : Bool :=
  let n := popcount r.mask 32
  8 ≤ r.g && r.g ≤ 16 && n != 0 && r.mask < 2 ^ built && r.base % (2 ^ r.g * n) == 0 && r.size % (2 ^ r.g * n) == 0

/-- R383: the status of a commit of the interleave table. -/
def State.interleaveStatus (s : State) (b : Bytes) : Nat :=
  let used := (List.range 8).filter (fun i => (irangeAt b i).size ≠ 0)
  let res (i : Nat) : Bool := fldLe b (32 * i + 17) 3 != 0 || fldLe b (32 * i + 24) 8 != 0
  let cross (i j : Nat) : Bool := i < j && overlap (irangeAt b i).base (irangeAt b i).size (irangeAt b j).base (irangeAt b j).size
  if used.any res then 14
  else if used.any (fun i => !(irangeAt b i).ok s.hw.slices) || used.any (fun i => used.any (cross i)) then 13
  else 0

/-- R260: a coded region is declared, changed or removed only while coding is OFF too. -/
def State.codedChange (s : State) (b : Bytes) : Bool :=
  (List.range 64).any (fun r =>
    let old := s.octs 0x5001_01 (32 * r) 32
    let new := slice b (32 * r) 32
    old ≠ new ∧ ((bits (leNat old) 0 2 = 3) ∨ (bits (leNat new) 0 2 = 3)))

/-- The status with which the owner refuses a value that the common rules accept; 0 for none. -/
def State.ownerCheck (s : State) (k v : Nat) (b : Bytes) : Nat :=
  match k with
  | 0x7001_02 => if sgn 32 v < sgn 32 (s.rd 0x7001_03) then 0 else 6
  | 0x7001_03 => if sgn 32 v > sgn 32 (s.rd 0x7001_02) then 0 else 6
  | 0x7005_04 => if 3 * v ≤ s.rd 0x7005_05 then 0 else 6
  | 0x7005_05 => if 3 * s.rd 0x7005_04 ≤ v then 0 else 6
  | 0x7102_01 => s.interleaveStatus b
  | 0x5001_01 => if s.fn .coding ≠ 0 ∧ s.codedChange b then 5 else 0
  | 0x3001_02 => if v / 32 = 0 then 0 else 14
  | 0x3301_01 => if v / 8 = 0 then 0 else 14
  | 0x2000_03 => if v = 2 ∨ v = 3 then 14 else if v > 3 then 6 else 0
  | 0x5102_04 => if bit v 15 ∨ bits v 55 9 ≠ 0 then 14 else if bits v 0 8 > 4 ∨ bits v 13 2 = 0 then 6 else 0
  | _ =>
    if 0x1100 ≤ k / 256 ∧ k / 256 ≤ 0x1107 ∧ k % 256 = 3 ∧ v = 1 ∧ ¬ s.server.keyed.contains (k / 256 - 0x1100) then 13 else 0

/-! ### What follows a write -/

/-- R367: the 16 records from 0x7003.04, from SRAM, else from the own-log blocks in flash. -/
def State.fillWindow (s : State) : State :=
  let q := s.rd 0x7003_04
  let rec_ (seq : Nat) : Bytes :=
    if seq ≥ s.log.next ∨ seq + 262144 < s.log.next then zeros 64
    else match s.log.recs.find? (·.seq = seq) with
      | some r => r.bytes
      | none =>
        let b := Sparse.getBytes s.flash (4096 * (2056 + seq / 64 % 4096) + 64 * (seq % 64)) 64
        if fldLe b 8 8 = seq then b else zeros 64
  s.wrO 0x7003_05 0 (((List.range 16).map (fun i => rec_ (q + i))).flatten)

/-- The objects that follow from the one just written. -/
def State.follow (s : State) (k : Nat) : State :=
  let s := match k with
    | 0x3001_01 => s.wrO 0x3001_03 0 (sha256 (s.octs 0x3001_01 0 768))
    | 0x3100_01 => s.wr 0x3101_06 s.deckle
    | 0x3100_02 => s.wr 0x3100_03 s.couchBudget
    | 0x7100_09 => (s.wr 0x3100_03 s.couchBudget).wr 0x3100_06 s.outLimit
    | 0x3180_01 => (s.wr 0x3100_03 s.couchBudget).wr 0x3180_03 (s.epochAt s.now)
    | 0x3180_02 => s.wr 0x3180_03 (s.epochAt s.now)
    | 0x4001_01 => s.wr 0x4000_01 s.streamsUsed.length
    | 0x4101_01 => s.wr 0x4100_01 s.layersUsed.length
    | 0x7002_01 => s.feedJudge
    | 0x7003_04 => s.fillWindow
    | _ => s
  if settingsInputs.contains k then s.refreshSettings else s

/-- The function of a subindex of 0x1201 (Table 16-3). -/
def fnOf (n : Nat) : Fn := fns.getD (n - 1) .coding

/-- What a write of object k does, with the scalar v or the bytes b: the status, and the state. An object that only
commands is not stored. -/
def State.writeAct (s : State) (k v : Nat) (b : Bytes) : Nat × State :=
  match k with
  | 0x2100_07 => (0, s.loadMould)
  | 0x2107_01 => s.importAsk b
  | 0x3200_0C => s.askJoin
  | 0x3301_04 => (0, s.fireSnap 0)
  | 0x3303_08 => (0, s.fireSnap 2)
  | 0x3304_01 => s.askRestore
  | 0x4200_12 => s.askSite
  | 0x5002_03 => (0, s.yRemove v)
  | 0x5102_04 => s.injectError v
  | 0x5103_03 => s.ackRetirement v
  | 0x6000_01 => s.takeJobKey b
  | 0x6002_01 => s.askStream b
  | 0x7004_06 => s.chunkAct b
  | 0x7004_07 => s.checkAct
  | 0x7004_08 => s.activateAct
  | 0x7005_03 => s.pairAct
  | 0x7005_07 => s.unpairAct
  | 0x1201_01 | 0x1201_02 | 0x1201_03 | 0x1201_04 | 0x1201_05 | 0x1201_06 =>
    match s.enableAct (fnOf (k % 256)) v with
    | (0, s) => (0, s.wr k v)
    | r => r
  | _ =>
    let p := k / 256 - 0x1100
    let principal := decide (0x1100 ≤ k / 256) && decide (k / 256 ≤ 0x1107)
    if principal ∧ k % 256 = 1 then (0, s.takePrincipalKey p b)
    else
      let s := match (objOf k).map (·.ty) with
        | some .octets => s.wrO k 0 b
        | _ => s.wr k v
      let s := if principal ∧ k % 256 = 3 ∧ v = 0 then s.endPrincipal 4 p else s
      (0, s.follow k)

end Sys2Proof.Machine
end

