-- ==== Sys2Proof/Machine/DictOps.lean ====
section
/-!
DEFINITION. The dictionary server: the common checks in the order of R421, the five operations, Eciabo frames and sessions,
and the C-port (15_eciabo_dictionary.md).
-/

namespace Sys2Proof.Machine

/-! ### Requests and replies (Tables 15-6, 15-7) -/

/-- A request, whichever path carried it; `sess` is 0 for the C-port. Data are in wire order. -/
structure DReq where
  sess : Nat
  op : Nat
  flags : Nat
  index : Nat
  sub : Nat
  ty : Nat
  off : Nat
  len : Nat
  data : Bytes
deriving DecidableEq, Repr

/-- A reply: its status and data in wire order. -/
structure DRep where
  status : Nat
  data : Bytes
deriving DecidableEq, Repr

/-- The key of the object a request names. -/
def DReq.key (q : DReq) : Nat := 256 * q.index + q.sub

/-- A request that writes. -/
def DReq.writes (q : DReq) : Bool := q.op == 2 || q.op == 4

/-! ### Objects as the server shows them (R323, R324) -/

/-- The directory of an index (R323). -/
def directory (i : Nat) : Bytes := ((rowsOf i).map directoryRow).flatten

/-- The type code that a reply names. -/
def keyType (k : Nat) : Nat := if k % 256 = 0 then 0x0C else ((objOf k).map (fun o => o.ty.code)).getD 0

/-- The object size that a reply names; for subindex 0 that of its value, or of its directory in a block read. -/
def keySize (q : DReq) : Nat :=
  if q.sub = 0 then (if q.op = 3 then (directory q.index).length else 1) else ((objOf q.key).map (·.size)).getD 0

/-- The change count of an object; 0 for counters and for subindex 0 (R331). -/
def State.changeOf (s : State) (k : Nat) : Nat := Sparse.get 0 s.changes k

/-- The conversion tables stand in the image, so they read once one runs (R50, R52). -/
def State.tableRead (s : State) (k : Nat) : Bool :=
  decide (0x2010_01 ≤ k ∧ k ≤ 0x2015_01) && !s.firmware.romOnly

/-- The bytes of a string without those that follow its end. -/
def strTrim (b : Bytes) : Bytes := (b.reverse.dropWhile (· = 0)).reverse

/-- The value of an object in wire order. -/
def State.valueOf (s : State) (k : Nat) : Bytes :=
  if k % 256 = 0 then be 1 (maxN ((rowsOf (k / 256)).map (fun o => o.key % 256)))
  else match objOf k with
    | none => []
    | some o => match o.ty with
      | .octets => if s.tableRead k then tableBytes (k / 256) else s.octs k 0 o.size
      | .str => strTrim (s.octs k 0 o.size)
      | _ => be o.size (s.rd k)

/-- What a block read of an object reads: the value, or the directory. -/
def State.blockOf (s : State) (q : DReq) : Bytes := if q.sub = 0 then directory q.index else s.valueOf q.key

/-! ### The common checks (R323, R325, R326, R332, R333, R338, R421) -/

/-- R352: the boot ROM alone serves these indices. -/
def romIndices : List Nat := [0x1000, 0x1200, 0x7000, 0x7004]

/-- An index is in use and served. -/
def State.indexServed (s : State) (i : Nat) : Bool := indexInUse i && (!s.firmware.romOnly || romIndices.contains i)

/-- R332, R370: an object restricted to role 2. -/
def adminOnly (k : Nat) : Bool :=
  let i := k / 256
  (decide (0x1001 ≤ i) && decide (i ≤ 0x11FF)) || k == 0x1000_08 || k == 0x5102_04 || k == 0x6000_01 ||
    (decide (0x7F00 ≤ i) && decide (i ≤ 0x7FFF)) || i == 0x7004

/-- Status 3: the access right (Table 15-2). -/
def accessBad (q : DReq) : Bool :=
  match objOf q.key with
  | none => q.writes
  | some o => if q.writes then o.acc == .const || o.acc == .ro else o.acc == .wo

/-- Status 8: the device state (Table 15-3, R302, R376). -/
def State.stateBad (s : State) (q : DReq) : Bool :=
  let k := q.key
  if s.dev = 1 then true
  else if s.dev = 2 ∧ q.writes ∧ k ≠ 0x5102_04 then
    !((decide (0x1000 ≤ q.index) && decide (q.index ≤ 0x11FF)) || q.index == 0x7004 || k == 0x7003_04)
  else if q.writes ∧ k = 0x5102_04 then s.dev != 2 && s.dev != 3
  else if q.writes ∧ (k = 0x7005_01 ∨ k = 0x7005_02) then s.dev != 3
  else false

/-- R325: the owning function is OFF; owner 7 stands for each function. -/
def State.ownerOff (s : State) (o : Obj) : Bool :=
  match o.owner with
  | 0 => true
  | 7 => fns.all (fun f => s.fn f == 0)
  | n => s.fn (fnOf n) == 0

/-- Status 5 of a write, at a commit tested again. -/
def State.ownerBusy (s : State) (q : DReq) : Bool :=
  q.writes && (match objOf q.key with | some o => !s.ownerOff o | none => false)

/-- Whole UTF-8 characters (Table 15-1). -/
def utf8Ok : Nat → Bytes → Bool
  | _, [] => true
  | 0, _ => false
  | n + 1, b :: r =>
    let c (i : Nat) : Nat := (r.getD i 0).toNat
    let cont (i : Nat) : Bool := decide (i < r.length) && c i / 64 == 2
    let x := b.toNat
    if x < 0x80 then utf8Ok n r
    else if 0xC2 ≤ x ∧ x < 0xE0 then cont 0 && utf8Ok n (r.drop 1)
    else if x / 16 = 0xE then
      cont 0 && cont 1 && (x != 0xE0 || decide (c 0 ≥ 0xA0)) && (x != 0xED || decide (c 0 < 0xA0)) && utf8Ok n (r.drop 2)
    else if 0xF0 ≤ x ∧ x < 0xF5 then
      cont 0 && cont 1 && cont 2 && (x != 0xF0 || decide (c 0 ≥ 0x90)) && (x != 0xF4 || decide (c 0 < 0x90)) && utf8Ok n (r.drop 3)
    else false

/-- Status 7: type or length (R338, R339, R341). -/
def typeBad (q : DReq) : Bool :=
  let t := keyType q.key
  let size := keySize q
  let block := q.op == 3 || q.op == 4
  if q.ty ≠ 0xFF ∧ q.ty ≠ t then true
  else if q.op ≠ 1 ∧ q.len > 1024 then true
  else if q.op = 4 ∧ q.data.length ≠ q.len then true
  else if block then t != 0x0B && !(q.op == 3 && q.sub == 0)
  else if size > 1024 then true
  else if q.op = 2 then
    decide (q.data.length ≠ q.len) ||
      (if t = 0x0A then decide (q.len > size) || !utf8Ok q.len q.data else decide (q.len ≠ size))
  else if q.op = 5 then decide (q.data.length ≠ 8)
  else false

/-- The flag bits of a request (Table 15-6). -/
def DReq.first (q : DReq) : Bool := bit q.flags 0

/-- See Table 15-6. -/
def DReq.last (q : DReq) : Bool := bit q.flags 1

/-- See Table 15-6. -/
def DReq.abort (q : DReq) : Bool := bit q.flags 2

/-- The open block write of an object (R339). -/
def State.stagingOf (s : State) (k : Nat) : Option Staging := s.server.staging.find? (·.key = k)

/-- The frozen copy of a session for an object (R340). -/
def State.frozenOf (s : State) (sess k : Nat) : Option Frozen := s.server.frozen.find? (fun c => c.sess == sess && c.key == k)

/-- Status 9 (R339, Table 15-7). -/
def State.busy (s : State) (q : DReq) : Bool :=
  match s.stagingOf q.key with
  | none => false
  | some c => q.op == 2 || (q.op == 4 && ((q.first && !q.abort) || c.sess != q.sess))

/-- The bytes that staging and frozen copies take (R339). -/
def State.staged (s : State) : Nat :=
  sumN (s.server.staging.map (·.data.length)) + sumN (s.server.frozen.map (·.data.length))

/-- Status 11: block offset or order. -/
def State.orderBad (s : State) (q : DReq) : Bool :=
  let beyond (n : Nat) : Bool := decide (q.off + q.len > n)
  match q.op with
  | 4 => if q.abort then false else (!q.first && (s.stagingOf q.key).isNone) || beyond (keySize q)
  | 3 => beyond (keySize q)
  | _ => false

/-- Status 12: no room for a copy or a subscription (R339, R341). -/
def State.noRoom (s : State) (q : DReq) : Bool :=
  match q.op with
  | 4 => q.first && !q.abort && decide (s.staged + keySize q > s.rd 0x1001_08)
  | 3 => q.first && decide (s.staged - sumN ((s.server.frozen.filter (·.sess = q.sess)).map (·.data.length)) + keySize q > s.rd 0x1001_08)
  | 5 =>
    let new := !(s.server.subs.any (fun x => x.sess == q.sess && x.key == q.key))
    fld q.data 0 1 != 0 && new &&
      (decide ((s.server.subs.filter (·.sess = q.sess)).length ≥ 16) || decide (s.server.subs.length ≥ 64))
  | _ => false

/-- The statuses 1, 2, 15, 3, 4, 8, 5, 7, 9, 11, 12 of R421, in its order; 0 when none applies. -/
def State.gateStatus (s : State) (role : Nat) (q : DReq) : Nat :=
  if ¬ s.indexServed q.index then 1
  else if q.sub ≠ 0 ∧ (objOf q.key).isNone then 2
  else if q.op = 5 ∧ q.sess = 0 then 15
  else if accessBad q then 3
  else if q.writes ∧ (role = 0 ∨ (adminOnly q.key ∧ role < 2)) then 4
  else if s.stateBad q then 8
  else if s.ownerBusy q then 5
  else if typeBad q then 7
  else if s.busy q then 9
  else if s.orderBad q then 11
  else if s.noRoom q then 12
  else if q.op = 0 ∨ q.op > 5 then 14
  else 0

/-- The statuses 14 and 6 of a scalar's range (R326). -/
def rangeStatus (o : Obj) (v : Nat) : Nat :=
  match o.ty with
  | .octets | .str => 0
  | _ => if v < o.lo ∨ v > o.hi ∨ v % max 1 o.align ≠ 0 then 6 else 0

/-- R326, R330: a value is committed to its object after the owner's checks: the status, and the state. -/
def State.commit (s : State) (k : Nat) (b : Bytes) : Nat × State :=
  match objOf k with
  | none => (2, s)
  | some o =>
    let v := if o.ty = .octets ∨ o.ty = .str then 0 else beNat b
    match s.ownerCheck k v b, rangeStatus o v with
    | 5, _ => (5, s)
    | 14, _ => (14, s)
    | _, 6 => (6, s)
    | 0, _ => s.writeAct k v b
    | c, _ => (c, s)

/-! ### The five operations (R338 to R341) -/

/-- WRITE. -/
def State.doWrite (s : State) (q : DReq) : DRep × State :=
  let (c, s) := s.commit q.key q.data
  (⟨c, []⟩, s)

/-- WRITE_BLOCK (R339). -/
def State.doWriteBlock (s : State) (q : DReq) : DRep × State :=
  let k := q.key
  let drop (s : State) : State := s.modServer fun v => { v with staging := v.staging.filter (·.key ≠ k) }
  if q.abort then (⟨0, []⟩, drop s)
  else
    let base := match s.stagingOf k with
      | some c => c.data
      | none => s.octs k 0 (keySize q)
    let d := patch base q.off (slice q.data 0 q.len)
    if q.last then
      let s := drop s
      if s.ownerBusy q then (⟨5, []⟩, s)
      else match s.commit k d with
        | (0, s) => (⟨0, []⟩, s.inc 0x8100_08)
        | (c, s) => (⟨c, []⟩, s)
    else (⟨0, []⟩, (drop s).modServer fun v => { v with staging := v.staging ++ [⟨k, q.sess, d⟩] })

/-- R339: a first segment beyond the object opens the staging copy, which is kept, though the segment is refused. -/
def State.openBeyond (s : State) (q : DReq) : State :=
  if q.op = 4 ∧ q.first ∧ ¬ q.abort ∧ ¬ s.noRoom q then
    s.modServer fun v => { v with staging := v.staging ++ [⟨q.key, q.sess, s.octs q.key 0 (keySize q)⟩] }
  else s

/-- READ_BLOCK (R340). -/
def State.doReadBlock (s : State) (q : DReq) : DRep × State :=
  let k := q.key
  let s := if q.first then
      let c : Frozen := ⟨k, q.sess, s.blockOf q, s.changeOf k⟩
      s.modServer fun v => { v with frozen := v.frozen.filter (·.sess ≠ q.sess) ++ [c] }
    else s
  let src := match s.frozenOf q.sess k with
    | some c => c.data
    | none => s.blockOf q
  let s := if q.last then s.modServer fun v => { v with frozen := v.frozen.filter (fun c => ¬ (c.sess = q.sess ∧ c.key = k)) } else s
  (⟨0, slice src q.off q.len⟩, s)

/-- SUBSCRIBE (R341). -/
def State.doSubscribe (s : State) (q : DReq) : DRep × State :=
  let mode := fld q.data 0 1
  let period := fld q.data 4 4
  let rest := s.server.subs.filter (fun x => ¬ (x.sess = q.sess ∧ x.key = q.key))
  if mode > 2 ∨ (mode ≠ 0 ∧ (period < 1 ∨ period > 3600000)) then (⟨6, []⟩, s)
  else
    let new : List Subscription := if mode = 0 then [] else [⟨q.sess, q.key, mode, period, s.changeOf q.key⟩]
    (⟨0, []⟩, s.modServer fun v => { v with subs := rest ++ new })

/-- R330: one operation in the dictionary order. -/
def State.operate (s : State) (role : Nat) (q : DReq) : DRep × State :=
  match s.gateStatus role q with
  | 0 =>
    match q.op with
    | 1 => (⟨0, s.valueOf q.key⟩, s)
    | 2 => s.doWrite q
    | 3 => s.doReadBlock q
    | 4 => s.doWriteBlock q
    | _ => s.doSubscribe q
  | 11 => (⟨11, []⟩, s.openBeyond q)
  | c => (⟨c, []⟩, s)

/-! ### The C-port (R342 to R344) -/

/-- The bytes of 64-bit words, byte i in bits [8i + 7 : 8i]. -/
def wordBytes (ws : List Nat) : Bytes := (ws.map (le 8)).flatten

/-- Bytes as 64-bit words. -/
def bytesWords (b : Bytes) : List Nat := (chunks 8 b.length b).map leNat

/-- A type whose data travel byte for byte. -/
def byteTy (k : Nat) : Bool := k % 256 != 0 && (match objOf k with | some o => o.ty == .octets || o.ty == .str | none => false)

/-- R342: the request of the words, which are at least 2. -/
def cRequest : List Nat → Option DReq
  | w0 :: w1 :: ds =>
    let k := 256 * bits w0 16 16 + bits w0 32 8
    let len := bits w0 48 16
    let raw := (wordBytes ds).take len
    let data := if byteTy k ∨ bits w0 0 8 ≠ 2 then raw else raw.reverse
    some ⟨0, bits w0 0 8, bits w0 8 8, bits w0 16 16, bits w0 32 8, bits w0 40 8, bits w1 0 32, len, data⟩
  | _ => none

/-- R342: the words of a response. -/
def State.cResponse (s : State) (q : DReq) (r : DRep) : List Nat :=
  let k := q.key
  let data := if byteTy k ∨ q.op = 3 then r.data else r.data.reverse
  (q.op + r.status * 2 ^ 8 + q.index * 2 ^ 16 + q.sub * 2 ^ 32 + keyType k * 2 ^ 40 + r.data.length * 2 ^ 48) ::
    (keySize q + s.changeOf k * 2 ^ 32) :: bytesWords data

/-- R344: a write refused for lack of privilege. -/
def State.privRefused (s : State) (k : Nat) : State :=
  let s := (s.inc 0x8100_0D).evSecond 0x1007 (be 2 (k / 256) ++ be 1 (k % 256))
  s.discardStaging 3 (fun c => c.key == k)

/-- A request on the C-port, accepted with CPRIV at a value. A port in a state that does not answer takes nothing. -/
def State.cPort (s : State) (priv : Bool) (q : DReq) : State :=
  let s := (s.setPair 5 priv).inc 0x8100_0C
  let role := if s.pairValue 5 then 2 else 0
  let (r, s) := s.operate role q
  let s := if r.status = 4 ∧ q.writes then s.privRefused q.key else s
  { s with cOut := s.cOut ++ [⟨s.cResponse q r⟩] }

/-! ### Eciabo frames (R334, R335) -/

/-- Hands an Eciabo frame to a client. No rule gives its flow label, so it is open. -/
def State.ecSend (s : State) (addr port : Nat) (f : Bytes) : State :=
  let (v, s) := s.draw
  s.send { stream := 0, dst := addr, byAddr := true, port := port, dscp := s.rd 0x1001_01, prio := s.rd 0x1001_02,
           flow := v % 2 ^ 20, f := f, srcPort := 45307 }

/-- Table 15-4: header and body. -/
def State.ecFrame (s : State) (kind id seq : Nat) (body : Bytes) : Bytes :=
  be 2 0xEC1A ++ be 1 1 ++ be 1 kind ++ be 4 id ++ be 4 seq ++ be 2 s.own ++ be 2 body.length ++ body

/-- R335: the MAC of a frame. -/
def ecMac (key f : Bytes) : Bytes := (hmac key f).take 16

/-- A frame with its MAC to a client. -/
def State.ecAuth (s : State) (addr port : Nat) (key : Bytes) (kind id seq : Nat) (body : Bytes) : State :=
  let f := s.ecFrame kind id seq body
  s.ecSend addr port (f ++ ecMac key f)

/-- R335: at most 10 REFUSE frames a second go to an address. -/
def State.ecRefuse (s : State) (addr port id reason : Nat) : State :=
  let t := s.now / 1000000000
  let n := ((s.server.refuses.find? (fun x => x.1 == addr && x.2.1 == t)).map (·.2.2)).getD 0
  if n ≥ 10 then s else
    let s := s.modServer fun v => { v with refuses := (addr, t, n + 1) :: v.refuses.filter (fun x => x.2.1 == t && x.1 != addr) }
    s.ecSend addr port (s.ecFrame 9 id 0 (be 1 reason ++ zeros 3))

/-- R335: a frame is dropped; the cause follows the order of the rule: 1 magic, version or device id, 2 reserved kind,
3 lengths, 4 MAC, 5 session id, 6 address and port. -/
def State.ecDrop (s : State) (r : Rx) (cause : Nat) : State :=
  let s := s.inc (if cause = 4 then 0x8100_03 else 0x8100_02)
  s.evSecond 0x1002 (be 16 r.addr ++ be 1 (fld r.f 3 1) ++ be 1 cause)

/-- The bytes of a frame before its MAC, and its MAC. -/
def ecSplit (f : Bytes) : Bytes × Bytes := (f.take (16 + fld f 14 2), f.drop (16 + fld f 14 2))

/-- The request of a frame. -/
def ecRequest (f : Bytes) : DReq :=
  ⟨fld f 4 4, fld f 16 1, fld f 17 1, fld f 18 2, fld f 20 1, fld f 21 1, fld f 24 4, fld f 28 2, slice f 32 (fld f 14 2 - 16)⟩

/-- The lengths of a frame agree: its own, the body's, and those within (R335). -/
def ecLengthsOk (f : Bytes) : Bool :=
  let n := fld f 14 2
  let data := if fld f 16 1 = 1 ∨ fld f 16 1 = 3 then 0 else fld f 28 2
  decide (f.length = 32 + n) && decide (f.length ≤ 1472) &&
    (match fld f 3 1 with
     | 1 => n == 20
     | 3 | 8 => n == 0
     | 5 => n == 16 + data
     | _ => false)

/-- The principal key of principal p (0x1100 + p.01). -/
def State.principalKey (s : State) (p : Nat) : Bytes := s.octs (0x1100_01 + 256 * p) 0 32

/-- R335: why a frame of a client is dropped; 0 when it is good. -/
def State.ecCause (s : State) (r : Rx) : Nat :=
  let f := r.f
  let kind := fld f 3 1
  let id := fld f 4 4
  let (head, mac) := ecSplit f
  if fld f 0 2 ≠ 0xEC1A ∨ fld f 2 1 ≠ 1 ∨ (fld f 12 2 ≠ 0xFFFF ∧ fld f 12 2 ≠ s.own) then 1
  else if kind = 0 ∨ kind > 9 then 2
  else if ¬ ecLengthsOk f then 3
  else if kind = 1 then
    if fld f 16 1 < 8 ∧ mac = ecMac (s.principalKey (fld f 16 1)) head then 0 else 4
  else match s.server.sessions.find? (·.id = id) with
    | none => 5
    | some x => if x.addr ≠ r.addr ∨ x.port ≠ r.port then 6 else if mac ≠ ecMac x.key head then 4 else 0

/-- R333, R352: Eciabo is served in every state but OFF, SELFTEST and FROZEN, and not by the boot ROM alone. -/
def State.ecServed (s : State) : Bool := s.up && s.dev != 1 && !s.firmware.romOnly

/-- A datagram for port 45,307: counted; one that R335 drops is dropped, with its report; a good one goes on. -/
def State.ecTake (s : State) (r : Rx) (k : State → State) : State :=
  if ¬ s.ecServed then s else
    let s := (s.ce r).inc 0x8100_01
    match s.ecCause r with
    | 0 => k s
    | c =>
      let s := s.ecDrop r c
      if c = 5 then s.ecRefuse r.addr r.port (fld r.f 4 4) 1 else s

/-! ### Sessions (R336, R337) -/

/-- The session of an id, changed by f. -/
def State.modSession (s : State) (id : Nat) (f : Session → Session) : State :=
  (s.modServer fun v => { v with sessions := mapWhere (fun x => x.id == id) f v.sessions }).showSessions

/-- R336: an OPEN for an enabled principal: a half-open session, and CHALLENGE; a full table displaces the oldest
half-open session, or refuses. -/
def State.takeOpen (s : State) (r : Rx) : State :=
  let f := r.f
  let p := fld f 16 1
  if s.rd (0x1100_03 + 256 * p) ≠ 1 then s else
    let full := decide (s.server.sessions.length ≥ s.rd 0x1001_03)
    let oldest := s.server.sessions.find? (·.st = 1)
    match full, oldest with
    | true, none => (s.inc 0x8100_05).ecRefuse r.addr r.port 0 2
    | _, _ =>
      let s := match full, oldest with
        | true, some x => s.dropSession x.id
        | _, _ => s
      let id := s.server.nextId
      let (n, s) := s.random
      let nonce := be 16 (n % 2 ^ 128)
      let client := slice f 20 16
      let pk := s.principalKey p
      let key := hmac pk ([0x45, 0x43, 0x53, 0x4B] ++ client ++ nonce ++ be 4 id ++ be 2 s.own ++ be 1 p)
      let x : Session := { id := id, principal := p, st := 1, lastSeq := 0, addr := r.addr, port := r.port, opened := s.now, key := key
                           lastReq := [], lastRep := [], notifySeq := 0 }
      let s := s.modServer fun v => { v with sessions := v.sessions ++ [x], nextId := max 1 ((id + 1) % 2 ^ 32) }
      s.showSessions.ecAuth r.addr r.port pk 2 id 0 (client ++ nonce)

/-- R336: a CONFIRM opens the session, and WELCOME goes. -/
def State.takeConfirmSession (s : State) (r : Rx) : State :=
  let id := fld r.f 4 4
  match s.server.sessions.find? (·.id = id) with
  | none => s
  | some x =>
    if x.st ≠ 1 ∨ fld r.f 8 4 ≠ 0 then s else
      let s := s.modSession id fun y => { y with st := 2 }
      let s := s.ecAuth x.addr x.port x.key 4 id 0
        (be 1 (s.rd (0x1100_02 + 256 * x.principal)) ++ zeros 1 ++ be 2 (s.rd 0x1001_06) ++ be 4 (s.rd 0x1001_04) ++ be 8 s.now)
      (s.inc 0x8100_04).ev 0x1001 (be 4 id ++ be 1 x.principal ++ be 16 x.addr)

/-- R336: a CLOSE ends the session and is answered. -/
def State.takeClose (s : State) (r : Rx) : State :=
  let id := fld r.f 4 4
  match s.server.sessions.find? (·.id = id) with
  | none => s
  | some x => (s.ecAuth x.addr x.port x.key 8 id (fld r.f 8 4) []).endSession 2 id

/-- Table 15-6: the body of a reply. -/
def State.replyBody (s : State) (q : DReq) (r : DRep) : Bytes :=
  be 1 q.op ++ be 1 r.status ++ be 2 q.index ++ be 1 q.sub ++ be 1 (keyType q.key) ++ zeros 2 ++ be 4 q.off ++
    be 2 r.data.length ++ zeros 2 ++ be 4 (keySize q) ++ be 4 (s.changeOf q.key) ++ r.data

/-- R337: a REQUEST of an open session. -/
def State.takeRequest (s : State) (r : Rx) : State :=
  let f := r.f
  let id := fld f 4 4
  let seq := fld f 8 4
  let q := ecRequest f
  match s.server.sessions.find? (·.id = id) with
  | none => s
  | some x =>
    if x.st ≠ 2 then s
    else if seq = x.lastSeq + 1 then
      let (rep, s) := s.operate (s.rd (0x1100_02 + 256 * x.principal)) q
      let out := s.ecFrame 6 id seq (s.replyBody q rep)
      let out := out ++ ecMac x.key out
      let s := s.modSession id fun y => { y with lastSeq := seq, lastReq := f, lastRep := out }
      s.ecSend x.addr x.port out
    else if seq = x.lastSeq ∧ f = x.lastReq then (s.inc 0x8100_06).ecSend x.addr x.port x.lastRep
    else (s.inc 0x8100_07).ecAuth x.addr x.port x.key 6 id seq (s.replyBody q ⟨10, []⟩)

/-! ### Timers (R336, R339 to R341) -/

/-- R341: the notification of a subscription, unless the rate of the second is reached, when it is held back. -/
def State.notify (s : State) (x : Session) (b : Subscription) : State :=
  let t := s.now / 1000000000
  let n := if s.server.notified.1 = t then s.server.notified.2 else 0
  if n ≥ s.rd 0x1001_07 then s.inc 0x8100_0B
  else
    let q : DReq := ⟨x.id, 5, 0, b.key / 256, b.key % 256, 0xFF, 0, 0, []⟩
    let seq := (x.notifySeq + 1) % 2 ^ 32
    let s := s.ecAuth x.addr x.port x.key 7 x.id seq (s.replyBody q ⟨0, s.valueOf b.key⟩)
    let s := s.modSession x.id fun y => { y with notifySeq := seq }
    let seen := s.changeOf b.key
    let s := s.modServer fun v => { v with
      notified := (t, n + 1)
      subs := mapWhere (fun z => z.sess == b.sess && z.key == b.key) (fun z => { z with seen := seen }) v.subs }
    s.inc 0x8100_0A

end Sys2Proof.Machine
end

