-- ==== Sys2Proof/Machine/Dictionary.lean ====
section
/-!
DEFINITION. The dictionary commands: sessions, the five operations, and the writes that command something
(15_eciabo_dictionary.md, and the chapters that own the objects).
-/

namespace Sys2Proof.Machine

/-- A dictionary request on either path, of the kind that `ok` describes; a request of another kind is no such command and
does nothing. A datagram that R335 drops is dropped whatever it would have asked. -/
def dictRow (ok : DReq → Bool) (v : Via) (s : State) : Out :=
  match v with
  | .cport priv ws => whenUp s fun s =>
    if s.sensors.cStopped then s else
      match cRequest ws with
      | none => s
      | some q => if ok q then s.cPort priv q else s
  | .net r => whenUp s fun s =>
    if s.ecCause r = 0 ∧ ¬ (fld r.f 3 1 = 5 ∧ ok (ecRequest r.f)) then s else s.ecTake r fun s => s.takeRequest r

/-- A session frame of a kind; a good frame of another kind is no such command. -/
def sessionRow (kind : Nat) (r : Rx) (s : State) (k : State → State) : Out :=
  whenUp s fun s => if s.ecCause r = 0 ∧ fld r.f 3 1 ≠ kind then s else s.ecTake r k

/-! ### Sessions (R336) -/

/-- OPEN (R336): a half-open session for an enabled principal, and CHALLENGE. -/
def execOpen (r : Rx) (s : State) : Out := sessionRow 1 r s fun s => s.takeOpen r

/-- CONFIRM (R336): the session opens, and WELCOME goes. -/
def execConfirm (r : Rx) (s : State) : Out := sessionRow 3 r s fun s => s.takeConfirmSession r

/-- CLOSE (R336): the session ends and the frame is answered. -/
def execClose (r : Rx) (s : State) : Out := sessionRow 8 r s fun s => s.takeClose r

/-- HALF_OPEN_TIMEOUT (R336): 100 ms have passed without CONFIRM. -/
def execHalfOpenTimeout (id : Nat) (s : State) : Out :=
  whenUp s fun s => if s.server.sessions.any (fun x => x.id == id && x.st == 1) then s.dropSession id else s

/-- IDLE_TIMEOUT (R336): 0x1001.04 has passed without a valid frame. -/
def execIdleTimeout (id : Nat) (s : State) : Out :=
  whenUp s fun s => if s.server.sessions.any (fun x => x.id == id && x.st == 2) then s.endSession 1 id else s

/-! ### The five operations (R338 to R343) -/

/-- READ (R330, R338, R342); a request of a reserved op is answered here too, with status 14. -/
def execRead (v : Via) (s : State) : Out := dictRow (fun q => q.op == 1 || q.op == 0 || decide (q.op > 5)) v s

/-- WRITE (R325, R326, R332, R338, R421). -/
def execWrite (v : Via) (s : State) : Out := dictRow (fun q => q.op == 2) v s

/-- READ_BLOCK (R340). -/
def execReadBlock (v : Via) (s : State) : Out := dictRow (fun q => q.op == 3) v s

/-- WRITE_BLOCK (R339). -/
def execWriteBlock (v : Via) (s : State) : Out := dictRow (fun q => q.op == 4) v s

/-- SUBSCRIBE (R341, R343). -/
def execSubscribe (v : Via) (s : State) : Out := dictRow (fun q => q.op == 5) v s

/-- BLOCK_TIMEOUT (R339, R340): 0x1001.05 has passed without a segment: of a session's frozen copy of the object, or of the
object's block write. -/
def execBlockTimeout (sess key : Nat) (copy : Bool) (s : State) : Out :=
  whenUp s fun s =>
    if copy then s.modServer fun v => { v with frozen := v.frozen.filter (fun c => ¬ (c.sess = sess ∧ c.key = key)) }
    else s.discardStaging 1 (fun c => c.sess == sess && c.key == key)

/-- NOTIFY (R341, Table 15-8): the period of a subscription has passed; notifications stop in a flush. -/
def execNotify (sess key : Nat) (s : State) : Out :=
  whenUp s fun s =>
    if ¬ s.ecServed ∨ s.flushing then s else
      match s.server.sessions.find? (fun x => x.id == sess && x.st == 2), s.server.subs.find? (fun b => b.sess == sess && b.key == key) with
      | some x, some b => if b.mode = 1 ∧ s.changeOf key = b.seen then s else s.notify x b
      | _, _ => s

/-! ### Writes that command -/

/-- The request names a subindex of a principal (0x1100 to 0x1107). -/
def principalSub (sub : Nat) (q : DReq) : Bool := decide (0x1100 ≤ q.index) && decide (q.index ≤ 0x1107) && q.sub == sub

/-- MOULD_LOAD (R58, R59, R82): a write of 0x2100.07: checks the mould, and loads it whole or refuses it. -/
def execMouldLoad (v : Via) (s : State) : Out := dictRow (fun q => q.writes && (q.key == 0x2100_07)) v s

/-- IMPORT_REQUEST (R419): a write of 0x2107.01: a weight import. -/
def execImportRequest (v : Via) (s : State) : Out := dictRow (fun q => q.writes && (q.key == 0x2107_01)) v s

/-- JOIN (R174, R360): a write of 0x3200.0C: late admission. -/
def execJoin (v : Via) (s : State) : Out := dictRow (fun q => q.writes && (q.key == 0x3200_0C)) v s

/-- SNAPSHOT_NOW (R179): a write of 0x3301.04: a snapshot trigger at the lead. -/
def execSnapshotNow (v : Via) (s : State) : Out := dictRow (fun q => q.writes && (q.key == 0x3301_04)) v s

/-- EVALUATION_EXPORT_NOW (R191): a write of 0x3303.08: an evaluation export at the lead. -/
def execEvaluationExportNow (v : Via) (s : State) : Out := dictRow (fun q => q.writes && (q.key == 0x3303_08)) v s

/-- RESTORE_REQUEST (R192, R195): a write of 0x3304.01: a restore. -/
def execRestoreRequest (v : Via) (s : State) : Out := dictRow (fun q => q.writes && (q.key == 0x3304_01)) v s

/-- SITE_JOIN (R256): a write of 0x4200.12: a late join of the site. -/
def execSiteJoin (v : Via) (s : State) : Out := dictRow (fun q => q.writes && (q.key == 0x4200_12)) v s

/-- REMOVE_ENTRY (R276): a write of 0x5002.03: an entry of the indeterminate list is removed. -/
def execRemoveEntry (v : Via) (s : State) : Out := dictRow (fun q => q.writes && (q.key == 0x5002_03)) v s

/-- ERROR_INJECTION (R302): a write of 0x5102.04: bits to flip at the next read of an SRAM row. -/
def execErrorInjection (v : Via) (s : State) : Out := dictRow (fun q => q.writes && (q.key == 0x5102_04)) v s

/-- ACKNOWLEDGE_RETIREMENT (R301): a write of 0x5103.03: an entry of the retirement list is removed. -/
def execAcknowledgeRetirement (v : Via) (s : State) : Out := dictRow (fun q => q.writes && (q.key == 0x5103_03)) v s

/-- JOB_KEY (R303, R305): a write of 0x6000.01: the job key. -/
def execJobKey (v : Via) (s : State) : Out := dictRow (fun q => q.writes && (q.key == 0x6000_01)) v s

/-- STREAM_QUERY (R306): a write of 0x6002.01: a stream value is asked for. -/
def execStreamQuery (v : Via) (s : State) : Out := dictRow (fun q => q.writes && (q.key == 0x6002_01)) v s

/-- PRINCIPAL_KEY (R336, R348): a write of 0x1100 + n.01: the key of principal n, whose sessions end. -/
def execPrincipalKey (v : Via) (s : State) : Out := dictRow (fun q => q.writes && (principalSub 1 q)) v s

/-- PRINCIPAL_ENABLED (R336, R348): a write of 0x1100 + n.03: principal n is enabled, or disabled, when its sessions end. -/
def execPrincipalEnabled (v : Via) (s : State) : Out := dictRow (fun q => q.writes && (principalSub 3 q)) v s

/-- FUNCTION_ENABLE (R355, R356, R360): a write of 0x1201.n: any value but 0. -/
def execFunctionEnable (v : Via) (s : State) : Out := dictRow (fun q => q.writes && (q.index == 0x1201 && q.data != [0])) v s

/-- FUNCTION_DISABLE (R355, R356, R357): a write of 0x1201.n: the value 0. -/
def execFunctionDisable (v : Via) (s : State) : Out := dictRow (fun q => q.writes && (q.index == 0x1201 && q.data == [0])) v s

/-- IMAGE_CHUNK (R370): a write of 0x7004.06: a chunk of a firmware image, by block write. -/
def execImageChunk (v : Via) (s : State) : Out := dictRow (fun q => q.writes && (q.key == 0x7004_06)) v s

/-- CHECK_SLOT (R369, R370): a write of 0x7004.07: the slot that is not running is checked. -/
def execCheckSlot (v : Via) (s : State) : Out := dictRow (fun q => q.writes && (q.key == 0x7004_07)) v s

/-- ACTIVATE (R370): a write of 0x7004.08: the checked slot is marked active, on trial. -/
def execActivate (v : Via) (s : State) : Out := dictRow (fun q => q.writes && (q.key == 0x7004_08)) v s

/-- PAIR (R373): a write of 0x7005.03: pairing starts. -/
def execPair (v : Via) (s : State) : Out := dictRow (fun q => q.writes && (q.key == 0x7005_03)) v s

/-- UNPAIR (R375): a write of 0x7005.07: the unit unpairs. -/
def execUnpair (v : Via) (s : State) : Out := dictRow (fun q => q.writes && (q.key == 0x7005_07)) v s

end Sys2Proof.Machine
end

