-- ==== Sys2Proof/Machine/Exchange.lean ====
section
/-!
DEFINITION. The commands of exchange between sites (11_site_exchange.md), but for the join that host software asks for,
which is a write of the dictionary.
-/

namespace Sys2Proof.Machine

/-- A command that has its effect only while site exchange runs. -/
def whenExchange (s : State) (k : State → State) : Out := whenServing s fun s => if s.exchOn then k s else s

/-- A frame between sites, taken while site exchange runs. -/
def exchFrame (kind : Nat) (r : Rx) (s : State) (k : State → State) : Out := frameRow [kind] r s fun s => if s.exchOn then k s else s

/-- SWEEP_START (R243, R256): the sweep of the round that is due begins. -/
def execSweepStart (s : State) : Out := whenExchange s State.startSweep

/-- SWEEP_BLOCK (R244 to R247, R249, R252 to R254): the next block of the sweep. -/
def execSweepBlock (s : State) : Out := whenExchange s fun s => s.sweepBlock.yieldLog.drainHeld

/-- ROUND_CLOSE (R250): the round deadline has passed at the coordinator's lead. -/
def execRoundClose (round : Nat) (s : State) : Out := whenExchange s fun s => s.closeRound round

/-- MANIFEST (R251): a manifest arrives. -/
def execManifest (r : Rx) (s : State) : Out := exchFrame 0x51 r s fun s => s.takeManifest r.f

/-- LONG_HAUL_PACKET (R247, R248): a data or parity packet arrives. -/
def execLongHaulPacket (r : Rx) (s : State) : Out := exchFrame 0x50 r s fun s => s.takePacket r.f

/-- REPAIR_WAIT (R248): 0x4200.0C has passed since the first packet of a block one of whose sets lacks packets. -/
def execRepairWait (site shard round block set : Nat) (s : State) : Out :=
  whenExchange s fun s => s.waitRepair site shard round block set

/-- REPAIR_REQUEST (R248): the origin answers from its retained contributions. -/
def execRepairRequest (r : Rx) (s : State) : Out :=
  exchFrame 0x52 r s fun s =>
    match s.siteFrom r.addr with
    | some site => if fld r.f 8 8 = s.job then s.answerRepair r.f site else s.xDrop site 0x52 1
    | none => s.xDrop (fld r.f 16 2) 0x52 2

/-- SHARD_SUMMARY (R249): a peer's summary arrives. -/
def execShardSummary (r : Rx) (s : State) : Out := exchFrame 0x53 r s fun s => s.takeSummary r.f

/-- SHARD_COMPLETE (R249): a member's report at its lead. -/
def execShardComplete (r : Rx) (s : State) : Out := exchFrame 0x56 r s fun s => s.gated r.f fun s => s.takeComplete r.f

/-- MANIFEST_WAIT (R253): the sweep has held for 0x4200.0B; the site detaches. -/
def execManifestWait (s : State) : Out := whenExchange s State.detachSite

/-- SITE_JOIN_REQUEST (R256): a joining site asks at the coordinator. -/
def execSiteJoinRequest (r : Rx) (s : State) : Out :=
  exchFrame 0x54 r s fun s =>
    if s.site = s.coordinator ∧ fld r.f 8 8 = s.job then s.judgeSite r.f else s.xDrop (fld r.f 16 2) 0x54 1

/-- JOIN_ANSWER (R256): the joining site learns its verdict and its first round. -/
def execJoinAnswer (r : Rx) (s : State) : Out :=
  exchFrame 0x55 r s fun s =>
    if fld r.f 8 8 = s.job then s.takeAnswer r.f else s.xDrop (fld r.f 16 2) 0x55 1

end Sys2Proof.Machine
end

