-- ==== Sys2Proof/Machine/Life.lean ====
section
/-!
DEFINITION. The commands of the device's life: reset, self-test, watchdog, feeds, drains, sensors and the twin
(16_groom_and_device_life.md; reset release in 17_ports_clocks_and_integration.md).
-/

namespace Sys2Proof.Machine

/-! ### Reset and self-test -/

/-- VRESET_N_ASSERT (R396, R353): every domain but D39 is held in reset; the device is OFF, and the cause is the reset pin. -/
def execVresetNAssert (s : State) : Out :=
  if s.dev = 0 then .next s
  else .next (State.resetBlock (s.modSticky fun x => { x with cause := 1 }))

/-- VRESET_N_RELEASE (R396, Table 17-7): from OFF; `pairs` are the statuses of the sideband pairs once their decoders have
aligned, in the order of Table 17-4. -/
def execVresetNRelease (pairs : List Nat) (s : State) : Out :=
  if s.dev = 0 then .next (s.releaseReset pairs) else .next s

/-- SELF_TEST_COMPLETE (R350, R51, R371, R402): the tests that failed with the slice of each, the µs taken, the arrays out of
service, the measured clocks and the SRAM rows remapped. -/
def execSelfTestComplete (fails : List (Nat × Nat)) (us out : Nat) (mhz : List Nat) (hard : List (Nat × Nat × Nat)) (s : State) : Out :=
  .next (s.endSelfTest fails us out mhz hard)

/-! ### The watchdog and the rails -/

/-- WATCHDOG_EXPIRY (R359): hub hardware stops state writes, sends Suspect and heartbeat, and sets the reset cause. -/
def execWatchdogExpiry (s : State) : Out :=
  whenUp s fun s =>
    let s := s.modSensors fun x => { x with noWrites := true, watchdog := true }
    let s := (s.modTwin fun t => { t with failed := true }).failHeld
    let s := if s.member.members.isEmpty then s else s.sendSuspect s.own 3
    let s := if s.paired then s.sendBeat else s
    s.modSticky fun x => { x with cause := 2 }

/-- WATCHDOG_RESET (R359, R371): 2 ms after the expiry the whole block resets; on a trial boot the previous image returns. -/
def execWatchdogReset (s : State) : Out :=
  if ¬ s.up ∨ ¬ s.sensors.watchdog then .next s
  else if s.rd 0x7004_04 = 1 then .next s.fallback
  else .next (s.selfReset.releaseReset s.pairs)

/-- RAILS_FALL (R353, R359, R402): the device is OFF; every SRAM value and the sticky registers are lost, and host memory with
them; storage and fuses stay. -/
def execRailsFall (s : State) : Out :=
  .next { s.resetBlock with sticky := {}, mem := [], poison := [], tap := { dr := s.idcode }, sport := {}, cOut := [] }

/-! ### Feeds (R362) -/

/-- FEEDWARN_CHANGE (R362): pad 1 or 2, feed A or B, accepts the value v. -/
def execFeedwarnChange (pad : Nat) (v : Bool) (s : State) : Out :=
  whenUp s fun s =>
    if (pad ≠ 1 ∧ pad ≠ 2) ∨ s.pairFault pad then s
    else ((s.setPair pad v).feedBit (pad - 1) v).feedJudge

/-- FEED_DECLARED (R362, R143): the condition has held for the debounce; t0 of the flush. -/
def execFeedDeclared (s : State) : Out :=
  whenUp s fun s =>
    if ¬ s.sensors.debouncing ∨ (s.rd 0x7002_03).testBit 2 then s else
      let s := ((s.feedBit 2 true).wr 0x7002_04 s.now).inc 0x8700_07
      let s := s.ev 0x7006 (be 1 (s.rd 0x7002_03) ++ be 1 s.dev)
      if s.flushes then s.startFlush else s.writeLogTail.sendTail

/-! ### Drains (R356, R357) -/

/-- DRAIN_COMPLETE (R356): what the drain of a function waits for holds; it goes OFF and takes a pending enable. -/
def execDrainComplete (f : Fn) (s : State) : Out :=
  whenServing s fun s => if s.fn f = 3 ∧ s.drained f then s.endDrain f else s

/-- DRAIN_LIMIT (R357): the limit 0x1204.01 has passed; the coding drain proceeds to the departure. -/
def execDrainLimit (s : State) : Out :=
  whenServing s fun s => if s.fn .coding = 3 then s.endDrain .coding else s

/-! ### Sensors (R360, R361) -/

/-- THERMAL_SAMPLE (R360): the readings, by entry of 0x7001.01, in its unit. -/
def execThermalSample (ts : List Int) (s : State) : Out :=
  whenUp s fun s => s.sample ts

/-- DROOP_LIMIT (R361): the droop events of one second at a slice. -/
def execDroopLimit (slice count : Nat) (s : State) : Out :=
  onActive slice s fun s =>
    if ¬ s.up then s else
      let s := s.incBy 0x8700_06 count
      if count > s.rd 0x7001_04 then s.ev 0x7005 (be 1 slice ++ be 2 count) else s

/-! ### The twin (R372 to R375) -/

/-- A twin frame acts only in a unit that serves, and only if it is the configured twin's and of the own job (R372). -/
def twinFrame (kind : Nat) (r : Rx) (s : State) (k : State → State) : Out :=
  frameRow [kind] r s fun s => if s.fromTwin r.f then k s else s

/-- OFFER_REPEAT (R373): the unit with the lower device id sends Offer every 10 ms. -/
def execOfferRepeat (s : State) : Out :=
  whenServing s fun s => if s.pairing ∧ s.own < s.rd 0x7005_01 then s.sendTwin 0x80 0 (s.offerBody 0) else s

/-- OFFER (R373): judged, and answered with Accept. -/
def execOffer (r : Rx) (s : State) : Out := twinFrame 0x80 r s fun s => s.takeOffer r.f

/-- TWIN_ACCEPT (R373): the verdict is taken; Confirm goes, or the refusal is recorded. -/
def execTwinAccept (r : Rx) (s : State) : Out := twinFrame 0x81 r s fun s => s.takeAccept r.f

/-- TWIN_CONFIRM (R373): the unit that answered enters PAIRED. -/
def execTwinConfirm (r : Rx) (s : State) : Out := twinFrame 0x82 r s fun s => s.takeConfirm r.f

/-- PAIR_TIMEOUT (R373): no answer within 0x7005.06. -/
def execPairTimeout (s : State) : Out := whenServing s fun s => if s.pairing then s.refusePair 7 else s

/-- HEARTBEAT_TIMER (R374): a paired unit sends its heartbeat. -/
def execHeartbeatTimer (s : State) : Out := whenServing s fun s => if s.paired then s.sendBeat else s

/-- HEARTBEAT (R374): the partner's heartbeat is recorded and cross-checked. -/
def execHeartbeat (r : Rx) (s : State) : Out := twinFrame 0x83 r s fun s => s.takeBeat r.f

/-- TWIN_SILENCE (R374): no heartbeat within 0x7005.05. -/
def execTwinSilence (s : State) : Out :=
  whenServing s fun s =>
    if s.rd 0x7005_08 ≠ 2 then s else
      let s := (s.wr 0x7005_08 3).inc 0x8700_02
      let s := s.modTwin fun t => { t with tail := some (s.member.jnext, s.log.next) }
      ((s.wr 0x3203_06 2).wr 0x7003_07 2).ev 0x700C (be 2 (s.rd 0x7005_01))

/-- LOG_MIRROR (R366): the partner's event records are kept. -/
def execLogMirror (r : Rx) (s : State) : Out := twinFrame 0x84 r s fun s => s.takeLogMirror r.f

/-- UNPAIR_FRAME (R375): the partner unpairs. -/
def execUnpairFrame (r : Rx) (s : State) : Out := twinFrame 0x85 r s fun s => s.takeUnpair

end Sys2Proof.Machine
end

