-- ==== Sys2Proof/Machine/Membership.lean ====
section
/-!
DEFINITION. The membership commands: suspects, proposals, cuts, rebuild, re-striping, joining and the journal mirror
(07_loss_rebuild_and_membership.md).
-/

namespace Sys2Proof.Machine

/-! ### Suspects (R150, R151) -/

/-- SUSPECT (R150, R151): the lead forwards it and may declare the loss; the suspect's twin answers with a twin report. -/
def execSuspect (r : Rx) (s : State) : Out :=
  frameRow [0x20] r s fun s => State.judgeReadies <| s.gated r.f fun s =>
    let dev := fld r.f 16 2
    let mine := s.paired ∧ dev = s.rd 0x7005_01
    if s.leadOf = s.own then s.leadSuspect dev (fld r.f 18 1)
    else if mine then
      let b := s.twin.beat.getD []
      s.sendMember (fld r.f 2 2) (s.header 0x27 0 ++ be 2 dev ++ be 1 s.twinStatus ++ zeros 1 ++ be 8 (fld b 4 8) ++ be 8 (fld b 12 8) ++
        be 8 (((s.member.heard.find? (·.1 == dev)).map (·.2)).getD 0))
    else s

/-- SILENCE_LIMIT (R150): a member not heard for the silence limit is reported, cause 1. -/
def execSilenceLimit (dev : Nat) (s : State) : Out :=
  whenServing s fun s => 
    if s.member.members.contains dev ∧ dev ≠ s.own then (s.report dev 1).judgeReadies else s

/-- TWIN_WAIT (R151): one twin wait has passed after the silence limit; a suspect still not heard is declared lost. -/
def execTwinWait (dev : Nat) (s : State) : Out :=
  whenServing s fun s => State.judgeReadies <|
    match s.member.suspects.find? (·.dev = dev) with
    | none => s
    | some x =>
      let heard := ((s.member.heard.find? (·.1 == dev)).map (·.2)).getD 0
      if s.leadOf ≠ s.own then s
      else if heard > x.since then s.modMember fun m => { m with suspects := m.suspects.filter (·.dev ≠ dev) }
      else if x.waits > 1 then
        s.modMember fun m => { m with suspects := mapWhere (fun y => y.dev == dev) (fun y => { y with waits := y.waits - 1 }) m.suspects }
      else s.declareLost dev x.cause

/-- TWIN_REPORT (R151). -/
def execTwinReport (r : Rx) (s : State) : Out :=
  frameRow [0x27] r s fun s => State.judgeReadies <| s.gated r.f fun s =>
    if s.leadOf = s.own then s.twinVerdict (fld r.f 16 2) (fld r.f 18 1) else s

/-! ### Taking a proposal (R153) -/

/-- PROPOSE (R153, R160). -/
def execPropose (r : Rx) (s : State) : Out :=
  frameRow [0x21] r s fun s => s.gateChange r.f [] fun s =>
    let f := r.f
    let n := fld f 21 1
    let num := fld f 16 4
    let sender := fld f 2 2
    let ms := idsAt f 32 n
    let p : Proposal := ⟨num, fld f 20 1, sender, ms, idsAt f (32 + 2 * n) (fld f 22 1), fld f 24 8⟩
    let mayLead := s.leadOf = sender ∨ sender < s.leadOf
    let higher := num > s.halter ∨ (s.lastNumber ∧ num = s.halter ∧ p.kind = 1)
    if s.halter = 0 then
      if ms.contains s.own ∧ (num = 1 ∨ s.member.joining) ∧ s.preferred num sender then
        s.takeProposal p
      else s
    else if ¬ higher then s
    else if ¬ ms.contains s.own then s.enterPaddock 2 num
    else if ¬ (mayLead ∨ s.dev = 7) then s
    else if s.dev = 7 ∧ ¬ s.member.joining then s
    else if s.preferred num sender then s.takeProposal p
    else s

/-! ### Rebuild at the stand-ins (R163 to R168) -/

/-- REBUILD_READ (R166): answered after the own rollback. -/
def execRebuildRead (r : Rx) (s : State) : Out :=
  frameRow [0x29] r s fun s => s.gated r.f fun s =>
    s.takeRead r.f

/-- REBUILD_DATA (R167, R168); a frame without lines tells of a failed stripe (`State.tryStripe`). -/
def execRebuildData (r : Rx) (s : State) : Out :=
  frameRow [0x2A] r s fun s => s.gated r.f fun s =>
    let f := r.f
    let g := fld f 16 2
    let sp := fld f 18 1
    let n := fld f 19 1
    let first := fld f 20 4
    let t := fld f 24 1
    let e := elems sp
    let lines := (List.range n).map (fun i => (List.range e).map (fun x => fld f (40 + 8 * (i * e + x)) 8))
    let chk := couchCheck e ((List.range n).map (fun i => (i, ((lines.getD i []).map Int.ofNat))))
    if n = 0 then
      (s.modMember fun m => { m with awaited := m.awaited.filter (fun a => ¬ (a = (g, sp, first, t))) }).rebuildDone.judgeReadies
    else if sp > 1 ∨ f.length ≠ 40 + 8 * n * e ∨ chk ≠ fld f 32 8 ∨ lines.any (fun l => l.any (fun w => ¬ canonical w)) then s
    else
      let s := (List.range n).foldl (fun s i =>
        let at_ := first + i
        let ws := lines.getD i []
        if s.member.awaited.contains (g, sp, at_, t) then
          let s := s.modMember fun m => { m with awaited := m.awaited.filter (fun a => ¬ (a = (g, sp, at_, t))) }
          s.storeRebuilt g t sp at_ ws
        else if s.member.decode.contains (g, sp, at_) then
          let s := s.modMember fun m => { m with images := m.images ++ [⟨g, sp, at_, t, ws⟩] }
          s.tryStripe g sp at_
        else s) s
      s.rebuildDone.judgeReadies

/-! ### The cut (R156) -/

/-- ACCEPT (R154, R308). -/
def execAccept (r : Rx) (s : State) : Out :=
  frameRow [0x22] r s fun s =>
    match s.member.proposal with
    | none => s.gated r.f fun s => s
    | some p => s.gateChange r.f p.members fun s =>
      let f := r.f
      let dev := fld f 2 2
      let cur := fld f 20 4
      if fld f 16 4 ≠ p.num ∨ ¬ p.members.contains dev then s
      else if cur ≥ p.num ∧ cur < 0xFFFF_FFFF then (s.inc 0x8320_05).proposeAt (cur + 1) p.kind p.members p.lost p.quiet
      else if slice f 56 32 ≠ s.settingsKey then s
      else
        let s := s.modMember fun m => { m with
          accepts := m.accepts.filter (·.dev ≠ dev) ++ [⟨dev, cur, fld f 24 8, fld f 32 8, fld f 48 8⟩]
          counts := m.counts.filter (·.1 ≠ dev) ++ [(dev, fld f 40 4, fld f 44 4)] }
        s.tryCut

/-- ACCEPT_TIMEOUT (R154, R173): the missing members are declared lost, or the job-start proposal goes again. -/
def execAcceptTimeout (s : State) : Out :=
  whenServing s fun s =>
    match s.member.proposal with
    | none => s
    | some p =>
      let missing := p.members.filter (fun d => ¬ s.member.accepts.any (·.dev = d))
      if missing.isEmpty then s
      else
        let s := s.inc 0x8320_05
        if s.halter = 0 then (p.members.filter (· ≠ s.own)).foldl (fun s d => s.sendMember d (s.proposeFrame p)) s
        else
          let s := missing.foldl (fun s d =>
            if ¬ s.member.members.contains d ∨ s.member.lost.contains d then s else
              let s := s.modMember fun m => { m with lost := insertSorted d m.lost }
              (s.inc 0x8320_02).evHub 0x3202 (be 2 d ++ be 1 1)) s
          s.proposeLoss.judgeReadies

/-- CUT (R156, R160). -/
def execCut (r : Rx) (s : State) : Out :=
  frameRow [0x23] r s fun s => s.gateChange r.f [] fun s =>
    let f := r.f
    let num := fld f 16 4
    match s.member.accepted with
    | none => if num > s.halter ∧ s.halter ≠ 0 ∧ s.dev ≠ 7 ∧ fld f 2 2 ≤ s.leadOf then s.enterPaddock 2 num else s
    | some p =>
      let n := fld f 64 1
      if num ≠ p.num ∨ fld f 2 2 ≠ p.sender ∨ n ≠ p.members.length then s else
        let free := (List.range n).map (fun i => fld f (72 + 8 * i) 8)
        (s.adoptCut p (fld f 20 8) (fld f 60 1) 0 free).judgeReadies

/-- ROLLBACK_COMPLETE (R161, R156, R166): the rollback ends, Ready of phase 1 goes, waiting reads are answered and the
rebuild begins. -/
def execRollbackComplete (s : State) : Out :=
  whenServing s fun s =>
    match if s.member.owed.isEmpty then s.member.rolling else none with
    | none => s
    | some c =>
      let s := s.endRollback c
      let s := s.sendReady 1 0 (s.ofld 0x3203_05 8 8) 0
      let s := s.takeReads
      (if s.rd 0x3200_02 = 5 then s.sendReady 2 0 0 0
        else if s.member.filling then s.fillComplete else s.startRebuild.rebuildDone).judgeReadies

/-! ### Release and re-striping (R157, R170 to R172) -/

/-- READY (R154, R157, R172). -/
def execReady (r : Rx) (s : State) : Out :=
  frameRow [0x24] r s fun s =>
    let named := match s.member.proposal with | some p => p.members | none => []
    s.gateChange r.f named fun s =>
      let f := r.f
      let dev := fld f 2 2
      let ph := fld f 20 1
      let s := s.modMember fun m => { m with
        readies := m.readies.filter (fun x => ¬ (x.dev = dev ∧ x.phase = ph)) ++ [⟨dev, ph, fld f 21 1, fld f 24 8, fld f 32 8⟩] }
      s.judgeReadies

/-- RELEASE (R157). -/
def execRelease (r : Rx) (s : State) : Out :=
  frameRow [0x25] r s fun s => s.gated r.f fun s =>
    if fld r.f 16 4 = s.halter ∧ fld r.f 2 2 = s.leadOf then s.takeRelease (fld r.f 28 1) else s

/-- RE_STRIPE_FILL_READ (R171): the next line of the extended spaces is read: its open entry is handed over, and its
value goes in the target stream as a fill term. -/
def execReStripeFillRead (s : State) : Out :=
  whenServing s fun s =>
    match s.member.refill with
    | [] => s
    | l :: rest =>
      if s.rd 0x3202_02 ≠ 2 ∨ s.member.cut.isSome then s else
        let s := (s.rush l).pump
        match s.targetRole l, s.lineAddr l with
        | some (g, i, n), some a =>
          match s.couch.streams.find? (fun t => t.group == g && t.role == i && t.tgt) with
          | none => s
          | some st =>
            if s.unacked st ≥ 64 ∨ (s.entry l).isSome then s else
              let vs := s.lineVals l.space a
              let s := s.modMember fun m => { m with refill := rest, refillWindow := s.window s.epoch }
              let s := s.wr 0x3202_03 rest.length
              let s := if vs.all (· == 0) then s else
                s.emit true g i s.epoch (s.dataFrame true (2 + s.flushFlag) l.space s.epoch g i st.next [(n, vs)]) true false st.next
              if rest.isEmpty then (s.sendReady 4 0 s.member.refillWindow 0).judgeReadies else s
        | _, _ =>
          let s := s.modMember fun m => { m with refill := rest }
          let s := s.wr 0x3202_03 rest.length
          if rest.isEmpty then (s.sendReady 4 0 s.member.refillWindow 0).judgeReadies else s

/-- HOLD_LIMIT (R157): a proposal accepted and no Cut for it within the hold limit: PADDOCK. A flush runs to its end (Table 6-6). -/
def execHoldLimit (s : State) : Out :=
  whenServing s fun s =>
    if s.member.accepted.isSome ∧ s.halter ≠ 0 ∧ s.flushing = false then s.enterPaddock 3 s.halter else s

/-- STALE_NOTICE (R160): a number greater than the own one: PADDOCK. -/
def execStaleNotice (r : Rx) (s : State) : Out :=
  frameRow [0x26] r s fun s =>
    if s.ourJob r.f ∧ s.halter ≠ 0 ∧ s.flushing = false ∧ fld r.f 16 4 > s.halter ∧ fld r.f 20 2 = s.own then s.enterPaddock 1 (fld r.f 16 4) else s

/-! ### Joining (R173, R174) -/

/-- JOIN_REQUEST_REPEAT (R173, R174): the request goes again until a proposal admits the unit; where the lead has refused a late admission, the joiner
reports the reason and repeats it no more. -/
def execJoinRequestRepeat (refused : Nat) (s : State) : Out :=
  whenServing s fun s =>
    if s.member.joining ∧ refused ≠ 0 then
      (s.modMember fun m => { m with joining := false }).evHub 0x320E (be 1 refused)
    else if (s.member.joining ∧ s.member.accepted.isNone) ∨ (s.fn .coding = 1 ∧ s.halter = 0 ∧ s.member.accepted.isNone) then s.sendJoin else s

/-- JOIN_REQUEST (R173, R174): matched at job start, or judged by the lead, unless no further change is accepted (R146). DESIGN CHOICE:
the Propose of a join names, as its lost ids, the lost members whose shards stand-ins hold, since no rule says how else the joiner
learns of them. -/
def execJoinRequest (r : Rx) (s : State) : Out :=
  frameRow [0x28] r s fun s =>
    let f := r.f
    let dev := fld f 2 2
    let late := fld f 18 1 = 1
    let rec_ : JoinReq := ⟨dev, fld f 16 2, late, fld f 20 4, fld f 24 4, fld f 28 8⟩
    if ¬ s.ourJob f then s
    else if s.halter = 0 then
      if late ∨ slice f 48 32 ≠ s.settingsKey ∨ fld f 36 4 ≠ s.rd 0x3180_01 ∨ fld f 40 8 ≠ s.rd 0x3180_02 then s
      else
        let s := s.modMember fun m => { m with
          joins := m.joins.filter (·.dev ≠ dev) ++ [rec_], counts := m.counts.filter (·.1 ≠ dev) ++ [(dev, fld f 20 4, fld f 24 4)] }
        if s.fn .coding = 1 then s.tryStart else s
    else if s.leadOf ≠ s.own ∨ ¬ late ∨ s.member.cut.isSome ∨ s.member.proposal.isSome ∨ s.lastNumber then s
    else match s.joinRefusal f with
      | some _ => s
      | none =>
        let s := s.modMember fun m => { m with joins := m.joins.filter (·.dev ≠ dev) ++ [rec_] }
        s.proposeAt (s.halter + 1) 2 (insertSorted dev s.member.members) s.member.dead s.quietStep

/-! ### The journal mirror (R158) -/

/-- JOURNAL_MIRROR (R149, R158): the partner's records join the mirror, 16 MiB of them. -/
def execJournalMirror (r : Rx) (s : State) : Out :=
  frameRow [0x2B] r s fun s =>
    if ¬ s.paired ∨ fld r.f 2 2 ≠ s.rd 0x7005_01 ∨ ¬ s.ourJob r.f then s
    else if fld r.f 4 4 < s.halter then s.staleNotice r.f
    else
      let s := s.hearFrame r.f
      let rs := mirrorRecs (fld r.f 24 2) 32 r.f
      s.modMember fun m => { m with mirror := ringFit (2 ^ 24) (rs.reverse ++ m.mirror) }

end Sys2Proof.Machine
end

