-- ==== Sys2Proof/Machine/Pass.lean ====
section
/-!
DEFINITION. The commands of the optimiser pass (01_slices_hub_and_ticks.md, 03_moulds_and_the_optimiser_pass.md). The
-/

namespace Sys2Proof.Machine

/-- A command of a pass that runs, over the loaded mould. -/
def whenPass (s : State) (k : Mould → State → State) : Out :=
  whenServing s fun s =>
    match s.pass.mould with
    | some m => if s.pass.running then k m s else s
    | none => s

/-- PASS_TENSOR_START (R25): the next tensor of the step starts, once its reduction is complete. -/
def execPassTensorStart (s : State) : Out := whenPass s fun m s => s.startTensor m

/-- PASS_LINE (R24, R30, R36, R56, R70, R72, R73, R124, R134): slice n updates its next line. `lanes` are the lanes whose
residue check failed, at the first and at the repeated operation; `bad` flips bits of working words that the lanes write, by
position; `chk` upsets the write checker's own sum. -/
def execPassLine (n : Nat) (lanes : List Nat) (bad : List (Nat × Nat)) (chk : Nat) (s : State) : Out :=
  sliceServing n s fun s =>
    match s.pass.mould with
    | some m =>
      if ¬ s.pass.running then s else
        let s := s.countCommitHold
        if s.passMayWrite then (s.passLine m n lanes bad chk).yieldLog else s
    | none => s

/-- FACTORS_COMPUTE (R75): the factors of a form-2 tensor whose reduction is complete. -/
def execFactorsCompute (desc : Nat) (s : State) : Out := whenPass s fun m s => s.computeFactors m desc

/-- FACTOR_BROADCAST (R85, R86): the factors land in a log bank of every slice. -/
def execFactorBroadcast (desc : Nat) (s : State) : Out := whenPass s fun m s => s.castFactors m desc

/-- WORKING_COPY_CHECK (R76, R77): the two watermarks of a complete tensor are compared; `again` names the slices whose two
sums differ once more after the copy has been derived again. -/
def execWorkingCopyCheck (desc : Nat) (again : List Nat) (s : State) : Out := whenPass s fun m s => s.checkWorking m desc again

/-- COMPLETION_WORD_WRITE (R78): s goes into the completion word of a descriptor that the step has updated. -/
def execCompletionWordWrite (desc : Nat) (s : State) : Out :=
  whenPass s fun m s =>
    if s.pass.done.contains desc ∧ ¬ (s.pass.todo.map Work.desc).contains desc ∧ ¬ (s.pass.live.map (·.work.desc)).contains desc then
      s.wordDone m desc
    else s

/-- STEP_DONE (R26, R28, R78, R391): everything of the step is done; D(s) is driven. -/
def execStepDone (s : State) : Out :=
  whenPass s fun _ s => if s.stepReady ∧ s.sensors.doneWaits.isNone then s.driveDone.drainHeld else s

/-- STEPDONE_LEVEL_FRAME (R391): a frame of the STEPDONE pair passes. -/
def execStepdoneLevelFrame (s : State) : Out := whenUp s fun s => s.doneFrame.drainHeld

/-- IMPORT_COMPLETE (R419): the weight import ends. -/
def execImportComplete (s : State) : Out := whenServing s State.importEnd

end Sys2Proof.Machine
end

