-- ==== Sys2Proof/Machine/Ports.lean ====
section
/-!
DEFINITION. The commands of the F-port, the port clocks, the sideband wires and dropped datagrams
(17_ports_clocks_and_integration.md; R186 of 08_flash_and_shared_store.md, R361, R366 of 16_groom_and_device_life.md, R422 of
01_slices_hub_and_ticks.md).
-/

namespace Sys2Proof.Machine

/-! ### The F-port (R387, R186) -/

/-- The commands the controller has: the first 64 of each stream (R387). -/
def State.fOpen (s : State) : List FCmd :=
  (s.fOut.filter (·.stream = 0)).take 64 ++ (s.fOut.filter (·.stream ≠ 0)).take 64

/-- R366: a log block did not reach flash: its records are lost to that sink, unless it is the twin's. -/
def State.logLost (s : State) (n : Nat) : State :=
  if n = 0 then s else (s.incBy 0x8700_04 n).ev 0x700F (be 1 0 ++ be 4 n)

/-- What follows the completion of a command: `ok` without an error, else after its repeat has failed too. -/
def State.fDone (s : State) (c : FCmd) (ok : Bool) : State :=
  match c.use with
  | 0 =>
    if ok then
      if s.fOut.any (·.use = 0) ∨ s.sensors.fStopped then s else s.wr 0x7003_06 0
    else
      let s := s.wr 0x7003_06 2
      if c.lba < 6152 then s.logLost 64 else s
  | 1 => if ok then s.nextPart else (s.abandonSnap 4).drainHeld
  | 2 => if ok then s.exportDone else s.abandonExport 4
  | 3 => if ok then s else s.restoreReadFailed
  | 4 => s.yTransferred c ok (Sparse.getBytes s.flash (4096 * c.lba) (4096 * c.blocks))
  | 5 => if ok then s else s.firmwareFailed
  | 7 => if ok then s.writeExport else s.abandonExport 4
  | 8 => if ok then s else s.slotUnread c.lba
  | 9 => s.listRead c ok
  | _ => s

/-- R186: a command whose repeat has failed too is reported. -/
def State.fFail (s : State) (c : FCmd) (status : Nat) : State :=
  State.fDone (s.evHub 0x3304 (be 8 c.lba ++ be 1 status)) c false

/-- A completion of command c: a write's blocks are stored, an error is repeated once (R186, R387). -/
def State.fComplete (s : State) (c : FCmd) (status : Nat) : State :=
  if status = 0 then
    let s := { s with fOut := s.fOut.filter (· ≠ c) }
    let s := if c.write then { s with flash := Sparse.putBytes s.flash (4096 * c.lba) c.data } else s
    s.fDone c true
  else
    let s := s.inc 0x8710_0B
    if c.again then State.fFail { s with fOut := s.fOut.filter (· ≠ c) } c status
    else { s with fOut := mapWhere (fun x => decide (x = c)) (fun x => { x with again := true }) s.fOut }

/-- F_PORT_COMPLETION (R387, R186): the command of a tag completes with a status. In FROZEN a write that the storage ends is
stored, and nothing else follows (R399). -/
def execFPortCompletion (tag status : Nat) (s : State) : Out :=
  match s.fOpen.find? (·.tag = tag) with
  | none => .next s
  | some c =>
    if s.sensors.fStopped then .next s
    else if s.dev = 8 then
      .next (if status % 256 = 0 ∧ c.write then
        { s with fOut := s.fOut.filter (· ≠ c), flash := Sparse.putBytes s.flash (4096 * c.lba) c.data } else s)
    else .next (s.fComplete c (status % 256)).settle

/-! ### Clock monitors (R361, R395) -/

/-- A bit of the port status 0x7100.06. -/
def State.portBit (s : State) (i : Nat) (v : Bool) : State := s.wr 0x7100_06 (setBit (s.rd 0x7100_06) i v)

/-- R395: the F-port stops: its open commands end in error, and the groom's flash log has failed. The status they end
with is open. -/
def State.stopFPort (s : State) : State :=
  let s := s.modSensors fun x => { x with fStopped := true }
  let cs := s.fOpen
  let s := { s with fOut := s.fOut.filter (fun c => ¬ cs.contains c) }
  let (v, s) := s.draw
  let s := cs.foldl (fun (s : State) c => s.fFail c (1 + v % 255)) s
  s.wr 0x7003_06 2

/-- CLOCK_LOST_LOCK (R361, R395): domain Dn has lost lock. -/
def execClockLostLock (domain : Nat) (s : State) : Out :=
  whenUp s fun s =>
    if domain < 32 then if s.active domain then s.unitFailed 0x7104 domain else s
    else if domain = 35 then
      if s.sensors.cStopped then s
      else ((s.modSensors fun x => { x with cStopped := true }).portBit 34 false).ev 0x7104 (be 1 domain)
    else if domain = 36 then
      if s.sensors.fStopped then s else ((s.portBit 33 false).ev 0x7104 (be 1 domain)).stopFPort
    else if domain ≤ 38 then s.unitFailed 0x7104 0xFF
    else s

/-- R366: after a stop, the filled blocks of the log still held go to flash, and those no longer held are lost to it. -/
def State.logCatchUp (s : State) : State :=
  let held := (s.log.next - s.log.recs.length + 63) / 64
  let from_ := max s.log.flashed held
  let lost := 64 * (from_ - s.log.flashed)
  let due := s.log.next / 64
  let s := (List.range (due - from_)).foldl (fun (s : State) i => s.logBlock (from_ + i)) s
  let s := s.wr 0x7003_06 (if due > from_ then 1 else 0)
  s.logLost lost

/-- PORT_CLOCK_RESUME (R395): D35 or D36 has counted within bounds for 1 ms; the port resumes. -/
def execPortClockResume (domain : Nat) (s : State) : Out :=
  whenUp s fun s =>
    if domain = 35 ∧ s.sensors.cStopped then (s.modSensors fun x => { x with cStopped := false }).portBit 34 true
    else if domain = 36 ∧ s.sensors.fStopped then
      State.logCatchUp ((s.modSensors fun x => { x with fStopped := false }).portBit 33 true)
    else s

/-! ### Sideband wires (R389 to R392) -/

/-- SIDEBAND_WIRE_FAULT (R390): two bad frames on an input pair, 1 to 7; the pair reads its safe value, and the fault has a
code of Table 17-5. -/
def execSidebandWireFault (pair code : Nat) (s : State) : Out :=
  whenUp s fun s =>
    if pair = 0 ∨ pair > 7 ∨ code = 0 ∨ code > 8 ∨ s.pairFault pair then s else
      let s := (s.wr (pairKey pair) code).inc 0x8710_08
      let s := s.ev 0x7101 (be 1 pair ++ be 1 code)
      match pair with
      | 1 | 2 =>
        let s := ((s.feedBit (pair + 2) true).feedBit (pair - 1) false).inc 0x8700_08
        (s.ev 0x7007 (be 1 pair ++ be 1 code)).feedJudge
      | 4 => s.modSensors fun x => { x with markHeld := true }
      | 6 => s.enterHoldover
      | 7 => if s.paired then s else s.wr 0x7005_0B 2
      | _ => s

/-- SIDEBAND_PAIR_RECOVERED (R390, R392): 16 good frames; the accepted value starts from the safe value. -/
def execSidebandPairRecovered (pair : Nat) (s : State) : Out :=
  whenUp s fun s =>
    if pair = 0 ∨ pair > 7 ∨ ¬ s.pairFault pair then s else
      let s := (s.wr (pairKey pair) 0).ev 0x7102 (be 1 pair)
      if pair = 1 ∨ pair = 2 then (s.feedBit (pair + 2) false).feedJudge else s

/-! ### Dropped datagrams (R385, R422) -/

/-- RESERVED_KIND_FRAME (R422, R126, R148): dropped, counted nowhere, reported nowhere, answered by nothing. -/
def execReservedKindFrame (_r : Rx) (s : State) : Out := .next s

/-- CHECKSUM_ERROR_DATAGRAM (R385): directive bit 222 is set; the datagram is dropped and counted. -/
def execChecksumErrorDatagram (_r : Rx) (s : State) : Out := whenUp s fun s => s.inc 0x8710_0A

end Sys2Proof.Machine
end

