-- ==== Sys2Proof/Machine/Protection.lean ====
section
/-!
DEFINITION. The commands of stored-data protection (13_stables_and_stored_data.md), but for the two that are writes of the
dictionary. What an upset does to a row or a line, and what the members of a stripe answer, are operands.
-/

namespace Sys2Proof.Machine

/-- What waited for a repair that has ended goes on: data frames withheld (R169), Rebuild reads (Table 13-4) and held writes. -/
def State.afterRepair (s : State) : State := (s.takeWithheld.takeReads.rebuildDone).drainHeld.judgeReadies

/-- REPAIR_COMPLETE (R296, R297, R169): the repair of the line at `addr` ends. `answers` are the other members' x − pend by parity
and data index, `parity` the felt plus both vat lines of each readable parity, `lost` the other unreadable data indices. -/
def execRepairComplete (addr : Nat) (answers : List (Nat × Nat × List Nat)) (parity : List (Nat × List Nat)) (lost : List Nat) (s : State) : Out :=
  whenServing s fun s => (s.repair addr answers parity lost).afterRepair

/-- REPAIR_LIMIT (R295): a repair has lasted 0x5102.06 and has failed. -/
def execRepairLimit (addr : Nat) (s : State) : Out := whenServing s fun s => (s.endRepair addr false).afterRepair

/-- SRAM_PATROL (R289, R290, R298): a row is read, with `flips` bits in error, `hard` when it is so again after the write-back,
and the class of Table 13-5 of what it holds. Memories 0 to 2 belong to a slice. -/
def execSramPatrol (mem slice row flips : Nat) (hard : Bool) (cls : Nat) (s : State) : Out :=
  onSlice (if mem ≤ 2 then slice else 0) s fun s => if s.up ∧ mem ≤ 4 ∧ (mem ≤ 2 → s.active slice = true) then (s.patrolRow mem slice row flips hard cls).settle else s

/-- HBM_PATROL (R299, R287): slice `n` patrols the line at `addr`. -/
def execHbmPatrol (n addr : Nat) (bad fin : Bool) (s : State) : Out := sliceServing n s fun s => s.patrolLine n addr bad fin

end Sys2Proof.Machine
end

