-- ==== Sys2Proof/Machine/Reduction.lean ====
section
/-!
DEFINITION. The reduction commands (09_exact_gradient_reduction.md). A key operand is given by its step, stream, phase
(0 data, 1 counts, 2 stage 2) and chunk.
-/

namespace Sys2Proof.Machine

/-- The key that four operands name. -/
def keyFrom (step stream phase chunk : Nat) : CKey := ⟨step, stream, phase == 1, phase == 2, chunk⟩

/-- CONTRIBUTION (R210, R209): a member-mode contribution reaches the home of its chunk. -/
def execContribution (r : Rx) (s : State) : Out :=
  frameRow [0x40] r s fun s => (s.takeContribution r.f).redSettle

/-- RESULT (R213, R214, R218, R219): a result reaches this unit. -/
def execResult (r : Rx) (s : State) : Out :=
  frameRow [0x41] r s fun s => (s.takeResult r.f).redSettle

/-- The attempt whose result this contributor awaits: its own latest one; of a stage-2 result that others contribute, the one after the
last it knows of (R211, R213). -/
def State.awaitedAttempt (s : State) (k : CKey) : Option Nat :=
  match s.sentOf k with
  | some x => if (match s.resOf k with | some r => decide (r.attempt < x.attempt) | none => true) then some x.attempt else none
  | none =>
    if ¬ k.stage2 ∨ (s.sentOf { k with stage2 := false }).isNone then none
    else match s.resOf k with
      | none => some 0
      | some r => if r.st = 0 ∧ r.attempt < 7 then some (r.attempt + 1) else none

/-- RESULT_TIMEOUT (R213): the result of this contributor's latest attempt is still missing; it taints with reason 4. -/
def execResultTimeout (step stream phase chunk : Nat) (s : State) : Out :=
  whenServing s fun s =>
    let k := keyFrom step stream phase chunk
    match s.awaitedAttempt k with
    | none => s
    | some a => if s.receives k && !s.flushing then (s.taintChunk k a 4).redSettle else s

/-- TAINT (R217 to R219, Table 9-5): a taint reaches a contributor or a receiver. -/
def execTaint (r : Rx) (s : State) : Out :=
  frameRow [0x42] r s fun s => (s.takeTaint r.f).redSettle

/-- TAINT_HORIZON (R214): the taint horizon has passed since a checked result; it becomes final. -/
def execTaintHorizon (step stream phase chunk : Nat) (s : State) : Out :=
  whenServing s fun s => (s.finalize (keyFrom step stream phase chunk)).redSettle

/-- PEAK_NOTICE (R202, Table 9-4): the peaks of a segment reach a contributor. -/
def execPeakNotice (r : Rx) (s : State) : Out :=
  frameRow [0x43] r s fun s => (s.takePeak r.f).redSettle

/-- LATE_TAINT_TIMEOUT (R219): twice 0x4000.02 has passed since a late taint without the next attempt; the unit fails. -/
def execLateTaintTimeout (step stream phase chunk : Nat) (s : State) : Out :=
  whenServing s fun s =>
    let k := keyFrom step stream phase chunk
    match s.resOf k with
    | some r => if r.late then s.lateEnd k 2 else s
    | none => s

end Sys2Proof.Machine
end

