-- ==== Sys2Proof/Machine/Rhythm.lean ====
section
/-!
DEFINITION. The rhythm of a step: epoch ticks, step marks, folds, and the time input (01_slices_hub_and_ticks.md,
06_couching_epochs_and_the_deckle.md, R393 of 17_ports_clocks_and_integration.md).
-/

namespace Sys2Proof.Machine

/-! ### Epoch ticks (R16, R19) -/

/-- The tick that ends the open epoch: the hub's time reaches it, and the epoch number rises (R16). -/
def State.tickTime (s : State) : State :=
  let t := s.rd 0x3180_02 + (s.epoch + 1) * s.rd 0x3180_01
  (s.modClock fun c => { c with now := max c.now t }).wr 0x3180_03 (s.epoch + 1)

/-- R180: a whole epoch in MEMBER with status 2 is job service, shown in seconds. -/
def State.tickService (s : State) : State :=
  if s.dev ≠ 5 ∨ s.rd 0x3200_02 ≠ 2 then s else
    let n := s.tiers.serviceNs + s.rd 0x3180_01
    (s.modTiers fun t => { t with serviceNs := n }).wr 0x3301_07 (n / 1000000000)

/-- The holder whose acknowledgements the oldest outstanding frame still lacks (R139). -/
def State.slowest (s : State) : Nat :=
  match s.couch.out with
  | [] => 0xFFFF
  | f :: _ =>
    let hs := s.holders f.tgt f.group
    ((((List.range hs.length).filter (fun j => ¬ f.acked.contains j)).head?).map (fun j => hs.getD j 0xFFFF)).getD 0xFFFF

/-- R139: at the tick that opens e + 2 with a couched epoch below e, the member enters overrun. -/
def State.tickOverrun (s : State) : State :=
  if s.couch.overrun.isSome ∨ s.couchedTo + 1 ≥ s.epoch then s else
    let s := s.modCouch fun c => { c with overrun := some s.now }
    let s := if s.rd 0x3101_05 = 0 ∨ s.rd 0x3101_05 = 2 then s.wr 0x3101_05 1 else s
    (s.inc 0x8310_09).evHub 0x3101 (be 8 s.epoch ++ be 8 s.outstanding ++ be 2 s.slowest)

/-- R311, R162: the step watermarks of the steps whose boundary epoch ends. A Release asserts no step-done of its own. -/
def State.tickWatermarks (s : State) (ended : Nat) : State :=
  ((s.couch.bounds.dropLast.filter (·.2 = ended)).reverse).foldl (fun (s : State) b => s.stepWatermark b.1 ended) s

/-- The window and the step of the open epoch (0x3101.03, 0x3101.04). DESIGN CHOICE: while coding is STARTING, when no window exists
(R138), 0x3101.03 shows the one that the open epoch's step would name. -/
def State.tickWindow (s : State) : State :=
  if ¬ s.coding then s else (s.wr 0x3101_03 (s.window s.epoch)).wr 0x3101_04 (s.stepOf s.epoch)

/-- EPOCH_TICK (R19, R24, R30, R127, R139, R162, R182, R311): the capture windows close and the next epoch opens. -/
def execEpochTick (s : State) : Out :=
  whenUp s fun s =>
    let ended := s.epoch
    let s := s.tickService.tickTime
    if ¬ s.serving then s else
      let s := s.modPass fun p => { p with ticked := true, full := false, charged := 0 }
      let s := ((s.tickWindow.tickWatermarks ended).sealSnap ended).tickRush
      (s.tickOverrun.pump.advance).drainHeld.flushCheck.judgeReadies

/-! ### Step marks (R21 to R23, R391) -/

/-- R23: an accepted mark starts the step. -/
def State.mark (s : State) : State :=
  if s.dev ≠ 5 then (s.inc 0x8318_04).evHub 0x3183 (be 1 s.dev)
  else if s.rd 0x3200_02 ≠ 2 then (s.inc 0x8320_0F).evHub 0x3207 (be 1 (s.rd 0x3200_02))
  else if ¬ s.pass.armed then (s.inc 0x8318_01).evHub 0x3182 (be 8 s.step ++ be 8 s.stepDone)
  else
    let s := s.takeMark.redMark.touchMark
    (s.routeMarks s.step).drainHeld

/-- STEP_MARK (R23, R391): the accepted value of STEPMARK goes from 0 to 1; no mark while a 0 is awaited after a fault. -/
def execStepMark (s : State) : Out :=
  whenUp s fun s =>
    if s.pairFault 4 ∨ s.pairValue 4 then s else
      let s := s.setPair 4 true
      if s.sensors.markHeld then s else s.mark.judgeReadies

/-- STEPMARK_LEVEL_ZERO (R391): an accepted 0. -/
def execStepmarkLevelZero (s : State) : Out :=
  whenUp s fun s =>
    if s.pairFault 4 then s else (s.modSensors fun x => { x with markHeld := false }).setPair 4 false

/-! ### Folds (R133) -/

/-- R153: a member that has folded the quiet commit of an accepted join or switch sends Ready, phase 3. -/
def State.quietReady (s : State) (was : Nat) : State :=
  match s.member.accepted with
  | some p => if p.kind ≠ 1 ∧ s.halter ≠ 0 ∧ was < p.quiet ∧ s.committed ≥ p.quiet then s.sendReady 3 0 0 0 else s
  | none => s

/-- FOLD_COMPLETE (R133, R134, R203, R315): the bank is folded, and the terms withheld for it are taken; while a line of its felts is being recovered the fold runs on. -/
def execFoldComplete (s : State) : Out :=
  whenServing s fun s =>
    match s.couch.folding with
    | none => s
    | some c =>
      let was := s.committed
      let b := s.bankOf c
      let s := s.foldBank b
      if s.couch.vats.any (·.bank = b) then s else
        let s := (s.modCouch fun k => { k with folding := none }).wr 0x3101_01 c
        let s := (((s.foldDone c).freeChains).takeWithheld).quietReady was
        s.finishCopy.sealCommit.drainHeld.judgeReadies

/-! ### The time input (R17, R20, R393) -/

/-- TIME_STROBE (R393): an edge at which TIMESTB reads 1, with TIMEVAL. While TIMELOCK reads 1 the value is locked time: the
hub timer takes it, and holdover ends. While coding is OFF the epoch number follows the time; else it follows the ticks. -/
def execTimeStrobe (t : Nat) (s : State) : Out :=
  whenUp s fun s =>
    let t := t % 2 ^ 64
    let s := (s.modClock fun c => { c with lastStrobe := t }).wr 0x7100_08 0
    if ¬ s.pairValue 6 then s else
      let s := (s.modClock fun c => { c with now := t, lastLocked := t }).wr 0x3180_04 0
      if s.coding then s else (s.wr 0x3180_03 (s.epochAt t)).repeatInventory

/-- TIME_STROBE_MISSING (R393): no strobe for 100 µs. -/
def execTimeStrobeMissing (s : State) : Out :=
  whenUp s fun s =>
    if s.rd 0x7100_08 = 1 then s else
      ((s.wr 0x7100_08 1).ev 0x7105 (be 8 s.clock.lastStrobe)).enterHoldover

/-- TIMELOCK_CHANGE (R393): the accepted value of TIMELOCK; holdover ends at the first locked time (Table 1-12). -/
def execTimelockChange (v : Bool) (s : State) : Out :=
  whenUp s fun s =>
    if s.pairFault 6 then s else
      let s := s.setPair 6 v
      if v then s else s.enterHoldover

/-- HOLDOVER_LIMIT_EXPIRY (R20, R357, Table 1-12): the timebase is unfit, and coding drains. -/
def execHoldoverLimitExpiry (s : State) : Out :=
  whenUp s fun s =>
    if s.rd 0x3180_04 ≠ 1 then s else
      let s := (s.wr 0x3180_04 2).inc 0x8318_03
      let s := s.evHub 0x3181 (be 4 ((s.now - s.clock.holdoverAt) / 1000000))
      s.startDrain .coding 0x3181

end Sys2Proof.Machine
end

