-- ==== Sys2Proof/Machine/Routing.lean ====
section
/-!
DEFINITION. The routing commands (10_expert_routing_support.md), but for the cursor writes, which arrive at an S-port.
A call is named by its layer, its step and its number within the step.
-/

namespace Sys2Proof.Machine

/-- ALLOTMENT_ROUND (R232 to R234): the counts of a call's round are final; slots are assigned. In a power-fail flush a call never
completes (Table 10-6). -/
def execAllotmentRound (layer step call : Nat) (s : State) : Out :=
  whenServing s fun s =>
    match s.callOf layer step call with
    | some c => if c.allotted ∨ s.flushing then s else (s.allotRound c).routeSettle.runSecond
    | none => s

/-- RETURN_WINDOW_WRITE (R236, Table 10-6): elements of an expert output arrive at a yard offset of the return window. -/
def execReturnWindowWrite (off : Nat) (data : Bytes) (s : State) : Out :=
  whenServing s fun s => if s.routeOn then (s.windowStore off data).yieldLog.routeSettle.runSecond else s

/-- COMBINE_COMPLETE (R235, R236): the accumulators of a call are complete; its combine output is written. -/
def execCombineComplete (layer step call : Nat) (s : State) : Out :=
  whenServing s fun s =>
    match s.callOf layer step call with
    | some c => if s.accComplete c ∧ ¬ s.flushing then (s.writeCombine c).routeSettle.runSecond else s
    | none => s

/-- COMBINE_TIMEOUT (R236): 0x4100.02 has passed since the combine cursor passed a mode-1 call that still lacks elements. -/
def execCombineTimeout (layer step call : Nat) (s : State) : Out :=
  whenServing s fun s =>
    match s.callOf layer step call with
    | some c => if c.allotted ∧ c.passed ∧ (s.layerAt layer).mode = 1 then (s.combineLate c).routeSettle.runSecond else s
    | none => s

end Sys2Proof.Machine
end

