-- ==== Sys2Proof/Machine/Sport.lean ====
section
/-!
DEFINITION. The commands of the S-port (17_ports_clocks_and_integration.md): host requests, those that the intake, the routing
areas and the yard give a name of their own, and the controller face.

A yard operation is a request of its kind in the aperture; elsewhere it is what the fabric face makes of it.
-/

namespace Sys2Proof.Machine

/-- A command at an S-port of a built slice: in OFF nothing is driven, and in FROZEN nothing but the port moves (R400). -/
def atPort (n : Nat) (s : State) (k : State → State) : Out :=
  onSlice n s fun s => if s.dev = 0 then s else if s.dev = 8 then k s else (k s).settle

/-- A request with the kind that its command names; a reserved kind stays as it was sent (R382). -/
def asKind (kind : Nat) (q : SReq) : SReq := if q.kind > 0xC then q else { q with kind := kind }

/-- S_PORT_READ (R10, R11, R377 to R382). -/
def execSPortRead (q : SReq) (s : State) : Out := atPort q.slice s fun s => s.request (asKind 1 q)

/-- S_PORT_WRITE (R10, R11, R37, R69, R71, R117, R121 to R124, R140, R159, R183, R198, R200, R228, R241, R292, R294, R380). -/
def execSPortWrite (q : SReq) (s : State) : Out := atPort q.slice s fun s => s.request (asKind 2 q)

/-- INTAKE_HOLD_RELEASE (R202, R203): the held writes are judged again. -/
def execIntakeHoldRelease (s : State) : Out := whenServing s State.drainHeld

/-- RELEASE_CURSOR_WRITE (R199): a host write to the control line of an intake window. -/
def execReleaseCursorWrite (q : SReq) (s : State) : Out := atPort q.slice s fun s => s.request (asKind 2 q)

/-- CALL_RELEASE (R228): a host write to the control line of a layer, which may raise the release cursor. -/
def execCallRelease (q : SReq) (s : State) : Out := atPort q.slice s fun s => s.request (asKind 2 q)

/-- COMBINE_CURSOR_WRITE (R235, R236): a host write to the control line of a layer, which may raise the combine cursor. -/
def execCombineCursorWrite (q : SReq) (s : State) : Out := atPort q.slice s fun s => s.request (asKind 2 q)

/-- CONTROLLER_RESPONSE (R295, R378, R382): a response with its kind, tag, status and the words it reports poisoned. -/
def execControllerResponse (n kind tag status poison : Nat) (s : State) : Out :=
  atPort n s fun s =>
    let s := s.response n kind tag status poison
    if s.dev = 8 then s.runSecond else s.drainHeld

/-- CONTROLLER_STALL (R381): the stall indicator becomes non-zero. -/
def execControllerStall (n kind : Nat) (s : State) : Out := onActive n s fun s => if s.up then s.beginStall n kind else s

/-- LONG_CONTROLLER_STALL (R381). -/
def execLongControllerStall (n : Nat) (s : State) : Out := onActive n s fun s => if s.up then s.longStall n else s

/-- STALL_INDICATOR_CLEARED (R381). -/
def execStallIndicatorCleared (n : Nat) (s : State) : Out := onActive n s fun s => if s.up then s.endStall n else s

/-- LOAD (R267, Table 12-3). -/
def execLoad (q : SReq) (s : State) : Out := atPort q.slice s fun s => s.request (asKind 1 q)

/-- STORE (R267, Table 12-3). -/
def execStore (q : SReq) (s : State) : Out := atPort q.slice s fun s => s.request (asKind 2 q)

/-- ADD (R267, Table 12-3). -/
def execAdd (q : SReq) (s : State) : Out := atPort q.slice s fun s => s.request (asKind 3 q)

/-- SMIN (R267, Table 12-3). -/
def execSmin (q : SReq) (s : State) : Out := atPort q.slice s fun s => s.request (asKind 4 q)

/-- SMAX (R267, Table 12-3). -/
def execSmax (q : SReq) (s : State) : Out := atPort q.slice s fun s => s.request (asKind 5 q)

/-- UMIN (R267, Table 12-3). -/
def execUmin (q : SReq) (s : State) : Out := atPort q.slice s fun s => s.request (asKind 6 q)

/-- UMAX (R267, Table 12-3). -/
def execUmax (q : SReq) (s : State) : Out := atPort q.slice s fun s => s.request (asKind 7 q)

/-- AND (R267, Table 12-3). -/
def execAnd (q : SReq) (s : State) : Out := atPort q.slice s fun s => s.request (asKind 8 q)

/-- OR (R267, Table 12-3). -/
def execOr (q : SReq) (s : State) : Out := atPort q.slice s fun s => s.request (asKind 9 q)

/-- XOR (R267, Table 12-3). -/
def execXor (q : SReq) (s : State) : Out := atPort q.slice s fun s => s.request (asKind 10 q)

/-- SWAP (R267, Table 12-3). -/
def execSwap (q : SReq) (s : State) : Out := atPort q.slice s fun s => s.request (asKind 11 q)

/-- CAS (R267, Table 12-3). -/
def execCas (q : SReq) (s : State) : Out := atPort q.slice s fun s => s.request (asKind 12 q)

/-- FENCE_READ (R272): a read, of the fence word where it lies at the fence line. -/
def execFenceRead (q : SReq) (s : State) : Out := atPort q.slice s fun s => s.request (asKind 1 q)

end Sys2Proof.Machine
end

