-- ==== Sys2Proof/Machine/TestAccess.lean ====
section
/-!
DEFINITION. The freeze, the test access port, its IEEE 1687 instruments and the fuses (18_freeze_test_and_fuses.md).
-/

namespace Sys2Proof.Machine

/-! ### The freeze (R399 to R402) -/

/-- Table 18-1: what has no response yet and lies in a steering range is answered with its error; the rest passes on. -/
def State.answerFrozen (s : State) : State :=
  let asked := (s.sport.held.map (·.req)) ++ ((s.sport.ctrl.filter (·.served)).map (·.req)) ++ (s.yard.ops.map (·.reqs)).flatten ++
    (s.yard.fences.map (·.1)) ++ (s.prot.repairs.map (·.reqs)).flatten ++ s.sport.second
  let s := s.modSPort fun p => { p with held := [], ctrl := p.ctrl.filter (fun c => !c.served), second := [] }
  let s := { s with yard := { s.yard with ops := s.yard.ops.map (fun (o : YOp) => { o with reqs := [] }), fences := [] } }
  let s := s.modProt fun p => { p with repairs := p.repairs.map (fun (r : Repair) => { r with reqs := [] }) }
  asked.foldl State.frozenRequest s

/-- R399 to R402: the freeze instant. No frame, command or response leaves from here on. -/
def State.freeze (s : State) : State :=
  let t := s.setDev 8 0x7F01
  let t := { t with tx := s.tx, fOut := s.fOut, cOut := s.cOut, draws := t.draws + 1 }
  let t := t.modSticky fun x => { x with frozen := true, freezeTime := s.now }
  let t := t.modServer fun v => { v with sessions := [], staging := [], frozen := [], subs := [] }
  let t := t.modSensors fun x => { x with watchdog := false }
  (t.modTap fun p => { p with era := t.draws }).answerFrozen

/-- FREEZE (R399 to R402): the pair's accepted value becomes 1. `bits` are the results a self-test has reached. -/
def execFreeze (bits : Nat) (s : State) : Out :=
  if ¬ s.up ∨ s.pairFault 3 then .next s
  else
    let s := if s.dev = 1 then s.wr 0x7000_01 (bits % 2 ^ 32) else s
    .next (s.setPair 3 true).freeze

/-! ### Instructions of the test access port (R403, R404, R409) -/

/-- DEBUG_LOCK as read at the last reset (R408, R411). -/
def State.locked (s : State) : Bool := s.rd 0x7F00_01 != 0

/-- R404: the pads may be driven: VRESET_N is asserted, or the device is FROZEN. -/
def State.padsFree (s : State) : Bool := s.dev == 0 || s.dev == 8

/-- The instruction that the loaded code acts as (Table 18-3, R404, R409). -/
def State.tapActs (s : State) : Nat :=
  match s.tap.ir with
  | 0x01 | 0x02 | 0x10 => s.tap.ir
  | 0x03 | 0x04 | 0x05 => if s.padsFree then s.tap.ir else 0xFF
  | 0x11 => if s.dev = 8 ∧ ¬ s.locked then 0x11 else 0xFF
  | _ => 0xFF

/-- What drives the output pads. -/
inductive PadDrive where
  | block | boundary | highImpedance
deriving DecidableEq, Repr

/-- Who drives the output pads (Table 18-3): EXTEST and CLAMP the boundary register, HIGHZ nothing. While the block is in reset or
FROZEN it drives nothing itself (R391, R399). -/
def State.padDrive (s : State) : PadDrive :=
  match s.tapActs with
  | 0x03 | 0x04 => .boundary
  | 0x05 => .highImpedance
  | _ => if s.up then .block else .highImpedance

/-- An instruction is loaded, and its data register captures `dr`. -/
def State.loadTap (s : State) (ir dr : Nat) : State := s.modTap fun p => { p with ir := ir, dr := dr }

/-- R409: a use that the lock refuses. In FROZEN the hub's sticky count takes it; in reset nothing runs that could. -/
def State.lockRefuses (s : State) (use : Nat) : State :=
  if s.dev = 8 then s.modSticky fun x => { x with refused := min 65535 (x.refused + 1) }
  else if s.dev = 0 then s
  else (s.inc 0x87F0_01).evSecond 0x7F02 (be 1 use)

/-- R404: EXTEST, CLAMP or HIGHZ at any other time acts as BYPASS and is counted. -/
def State.deferPads (s : State) : State := if s.padsFree then s else s.inc 0x87F0_02

/-- TEST_LOGIC_RESET (R403): the port is reset and IDCODE loaded; the network is closed. -/
def execTestLogicReset (s : State) : Out :=
  .next ((s.loadTap 0x01 s.idcode).modTap fun p => { p with sibs := 0, readAddr := [] })

/-- IDCODE (R403). -/
def execIdcode (s : State) : Out := .next (s.loadTap 0x01 s.idcode)

/-- The pads, sampled: a free value. -/
def State.samplePads (s : State) : Nat × State := (Config.pads s.draws, { s with draws := s.draws + 1 })

/-- SAMPLE_PRELOAD (R403): the pads are sampled undisturbed, and `shifted` is left in the boundary register. -/
def execSamplePreload (shifted : Nat) (s : State) : Out :=
  let (v, s) := s.samplePads
  .next ((s.loadTap 0x02 v).modTap fun p => { p with boundary := shifted })

/-- EXTEST (R404): drives the output pads from the boundary register, which takes `shifted`. -/
def execExtest (shifted : Nat) (s : State) : Out :=
  if s.padsFree then
    let (v, s) := s.samplePads
    .next ((s.loadTap 0x03 v).modTap fun p => { p with boundary := shifted })
  else .next (s.deferPads.loadTap 0x03 0)

/-- CLAMP (R404). -/
def execClamp (s : State) : Out := .next (s.deferPads.loadTap 0x04 0)

/-- HIGHZ (R404). -/
def execHighz (s : State) : Out := .next (s.deferPads.loadTap 0x05 0)

/-- IJTAG (R405): selects the network, whose segments `sibs` opens: bit 0 the hub, bit 1 the groom, bit 2 + n slice n. -/
def execIjtag (sibs : Nat) (s : State) : Out :=
  .next ((s.loadTap 0x10 0).modTap fun p => { p with sibs := sibs % 2 ^ (2 + s.hw.slices) })

/-- SCAN (R403, R409): FROZEN only, and never under the lock; else it acts as BYPASS. -/
def execScan (s : State) : Out :=
  if s.locked then .next ((s.lockRefuses 0x11).loadTap 0x11 0)
  else if s.dev = 8 then
    let (v, s) := s.draw
    .next (s.loadTap 0x11 v)
  else .next (s.loadTap 0x11 0)

/-- The codes of Table 18-3 but for BYPASS. -/
def listedCodes : List Nat := [0x01, 0x02, 0x03, 0x04, 0x05, 0x10, 0x11]

/-- BYPASS (R403): the code 0xFF, or one that Table 18-3 does not list. -/
def execBypass (code : Nat) (s : State) : Out :=
  .next (s.loadTap (if listedCodes.contains (code % 256) then 0xFF else code % 256) 0)

/-! ### The IEEE 1687 instruments (R405 to R407, R411) -/

/-- A use of an instrument of segment g: the network must be selected and the segment open; a slice that is not built has no
segment (R405). -/
def inSegment (g : Nat) (s : State) (k : State → State) : Out :=
  if g ≥ 2 + s.hw.slices then .fault .absentSlice
  else .next (if s.tap.ir = 0x10 ∧ s.tap.sibs.testBit g then k s else s)

/-- The segment belongs to a slice that is mapped out: it reads as zeros (R405). -/
def State.mappedOut (s : State) (g : Nat) : Bool := decide (g ≥ 2) && !s.active (g - 2)

/-- The 80-bit rows of a memory of Table 18-5 (Table 1-3): 4 MiB, 1 MiB and 1 MiB in a slice, 32 MiB in the hub, 1 MiB in the
groom. -/
def memRows : Nat → Nat
  | 0 => 524288 | 1 => 131072 | 2 => 131072 | 3 => 4194304 | 4 => 131072 | _ => 0

/-- The raw row that a readout captures: the data, the check bits of an internal code (R288) and the poison mark (R406). -/
def State.rawRow (s : State) (addr : Nat) : Nat :=
  let m := bits addr 0 8
  let n := if m ≤ 2 then bits addr 8 5 else 0
  let r := bits addr 16 32
  if r ≥ memRows m ∨ (m ≤ 2 ∧ ¬ s.active n) then 0
  else s.rowWord m n r + Config.sramRow m n r s.tap.era / 2 ^ 64 % 2 ^ 15 * 2 ^ 64 + (if s.prot.poisonRows.contains (m, n, r) then 2 ^ 79 else 0)

/-- The instruments in the order of Table 18-4, as event 0x7F02 names them. -/
def instrument (i : Nat) : Nat := 0x80 + i

/-- SRAM_READOUT (R405, R406, R409): the 48-bit address is shifted in and the row captured; zeros but in FROZEN, and under the lock. -/
def execSramReadout (g addr : Nat) (s : State) : Out :=
  inSegment g s fun s =>
    let a := addr % 2 ^ 48 / 65536 * 65536 + addr % 8192
    let s := s.modTap fun p => { p with readAddr := (g, a) :: p.readAddr.filter (·.1 ≠ g), dr := 0 }
    if s.locked then s.lockRefuses (instrument 3)
    else if s.dev ≠ 8 ∨ s.mappedOut g then s
    else s.modTap fun p => { p with dr := s.rawRow a }

/-- REGISTER_CAPTURE (R405, R406, R409): the flops of the segment's domain, in their internal order. -/
def execRegisterCapture (g : Nat) (s : State) : Out :=
  inSegment g s fun s =>
    let s := s.modTap fun p => { p with dr := 0 }
    if s.locked then s.lockRefuses (instrument 4)
    else if s.dev ≠ 8 ∨ s.mappedOut g then s
    else s.modTap fun p => { p with dr := Config.flops g p.era }

/-- The memories of a segment: one in the hub, one in the groom, three in a slice. -/
def segMemories (g : Nat) : List (Nat × Nat) :=
  if g = 0 then [(3, 0)] else if g = 1 then [(4, 0)] else [(0, g - 2), (1, g - 2), (2, g - 2)]

/-- MEMORY_BIST (R407, R409): the patterns run over the memories of the segment and overwrite them. `pass` has a bit for each
memory, `spares` the count of rows that need a spare, which the lock withholds. -/
def execMemoryBist (g pass spares : Nat) (s : State) : Out :=
  inSegment g s fun s =>
    let ms := segMemories g
    let s := s.modTap fun p => { p with dr := 0 }
    let s := if s.locked then s.lockRefuses (instrument 5) else s
    if s.dev ≠ 8 ∨ s.mappedOut g then s
    else
      let n := if s.locked then 0 else spares
      let s := s.modProt fun p => { p with poisonRows := p.poisonRows.filter (fun r => !ms.contains (r.1, r.2.1))
                                           rows := p.rows.filter (fun x => !ms.contains (x.1 / 2 ^ 32 / 32, x.1 / 2 ^ 32 % 32)) }
      let s := s.modTap fun p => { p with dr := pass % 2 ^ ms.length + n * 2 ^ ms.length, era := s.draws }
      { s with draws := s.draws + 1 }

/-- FREEZE_STATUS (R402, R405): the hub's sticky flag, time and count; usable always. -/
def execFreezeStatus (s : State) : Out :=
  inSegment 0 s fun s =>
    s.modTap fun p => { p with dr := (if s.sticky.frozen then 1 else 0) + s.sticky.freezeTime * 2 + s.sticky.refused * 2 ^ 65 }

/-- FUSE_READER (R405, R408): every fuse copy as it stands; usable always. -/
def execFuseReader (s : State) : Out :=
  inSegment 0 s fun s =>
    s.modTap fun p => { p with dr := s.hw.debugCopies % 8 + s.hw.disableA % 2 ^ 32 * 2 ^ 3 + s.hw.disableB % 2 ^ 32 * 2 ^ 35 + s.hw.serial % 2 ^ 128 * 2 ^ 67 }

/-- One copy of one fuse is blown: fuse 0 is DEBUG_LOCK with copies 0 to 2, fuse 1 + n SLICE_DISABLE n with copies 0 and 1, fuse
33 + i bit i of the serial number. -/
def blowFuse (fuse copy : Nat) (h : Hw) : Hw :=
  if fuse = 0 then (if copy < 3 then { h with debugCopies := h.debugCopies ||| 2 ^ copy } else h)
  else if fuse ≤ 32 then
    (match copy with
      | 0 => { h with disableA := h.disableA ||| 2 ^ (fuse - 1) }
      | 1 => { h with disableB := h.disableB ||| 2 ^ (fuse - 1) }
      | _ => h)
  else if fuse ≤ 160 ∧ copy = 0 then { h with serial := h.serial ||| 2 ^ (fuse - 33) }
  else h

/-- The slices that stay active after the next reset, as the fuse copies stand (R408, R410). -/
def Hw.activeAfter (h : Hw) : Nat := ((List.range h.slices).filter (fun n => !(h.disableA ||| h.disableB).testBit n)).length

/-- FUSE_PROGRAMMER (R409, R411): one copy is blown, only in FROZEN and with the rail supplied; under the lock SLICE_DISABLE
alone; never below the least number of active slices. -/
def execFuseProgrammer (fuse copy : Nat) (rail : Bool) (s : State) : Out :=
  inSegment 0 s fun s =>
    let mapping := decide (1 ≤ fuse ∧ fuse ≤ 32)
    let h := blowFuse fuse copy s.hw
    if s.locked && !mapping then s.lockRefuses (instrument 2)
    else if s.dev ≠ 8 ∨ ¬ rail ∨ (mapping ∧ h.activeAfter < s.rd 0x7F00_07) then s
    else { s with hw := h }

end Sys2Proof.Machine
end

