-- ==== Sys2Proof/Machine/Tiers.lean ====
section
/-!
DEFINITION. The commands of the deep tiers: snapshots, exports and restore (08_flash_and_shared_store.md).
-/

namespace Sys2Proof.Machine

/-- SNAPSHOT_STEP_TRIGGER (R179): the step counter has advanced by the step interval since the last order. -/
def execSnapshotStepTrigger (s : State) : Out :=
  whenServing s fun s => if bit (s.rd 0x3301_01) 1 ∧ s.step ≥ s.tiers.orderStep + s.rd 0x3301_03 then s.fireSnap 0 else s

/-- SNAPSHOT_TIMER_TRIGGER (R179, R180): the timer interval, or the adaptive interval where bit 2 is set, has passed. -/
def execSnapshotTimerTrigger (s : State) : Out :=
  whenServing s fun s => if bit (s.rd 0x3301_01) 0 ∨ bit (s.rd 0x3301_01) 2 then s.fireSnap 0 else s

/-- SNAPSHOT_DEFERRAL_CLEARED (R179): a deferred trigger fires. -/
def execSnapshotDeferralCleared (s : State) : Out := whenServing s State.fireDeferred

/-- SNAPSHOT_ORDER (R181): a Snapshot order from another member. -/
def execSnapshotOrder (r : Rx) (s : State) : Out :=
  frameRow [0x30] r s fun s => s.gated r.f fun s => s.takeSnapOrder (fld r.f 16 8) (fld r.f 24 1) (fld r.f 28 4)

/-- SNAPSHOT_REPORT (R180, R181): the lead takes a member's report. -/
def execSnapshotReport (r : Rx) (s : State) : Out :=
  frameRow [0x31] r s fun s => s.gated r.f fun s =>
    s.takeSnapReport (fld r.f 2 2) (fld r.f 24 1) (fld r.f 28 4) (fld r.f 32 8)

/-- SEAL_RELEASE (R182). -/
def execSealRelease (s : State) : Out := whenServing s State.sealRelease

/-- COPIER_LINE_READ (R183): one read of a slice's copier. -/
def execCopierLineRead (n : Nat) (s : State) : Out := sliceServing n s (State.copyStep · n)

/-- COPY_ON_WRITE_HOLD_LIMIT (R184): a write, of the S-port, the pass, the yard, a correction or a rollback, has been held past
0x3300.06. -/
def execCopyOnWriteHoldLimit (s : State) : Out :=
  whenServing s fun s => if s.cowSince.isSome ∧ s.tiers.snap.any (·.phase ≠ 0) then (s.abandonSnap 3).drainHeld else s

/-- SNAPSHOT_COMPLETE (R185, R189). -/
def execSnapshotComplete (s : State) : Out := whenServing s State.snapComplete

/-- A restore frame of this job; R149 binds members, and a restore runs while coding is OFF. -/
def whenRestore (kind : Nat) (r : Rx) (s : State) (k : State → State) : Out :=
  frameRow [kind] r s fun s => if fld r.f 8 8 = s.job then k s else s

/-- INVENTORY (R192, R193). -/
def execInventory (r : Rx) (s : State) : Out :=
  whenRestore 0x32 r s fun s => s.takeInventory (fld r.f 2 2) (readInventory r.f)

/-- RESTORE_ORDER (R194): for each shard of the order, its device, source and slot. -/
def execRestoreOrder (r : Rx) (s : State) : Out :=
  whenRestore 0x33 r s fun s =>
    s.takeRestoreOrder (fld r.f 16 8) (fld r.f 24 1) ((List.range (min 64 (fld r.f 26 2))).map (fun i =>
      let o := 28 + 8 * i
      ⟨fld r.f (o + 2) 2, fld r.f o 2, fld r.f (o + 4) 1, fld r.f (o + 5) 1, 0, 0, 0⟩))

/-- SHARD_LOAD_COMPLETE (R194). -/
def execShardLoadComplete (s : State) : Out := whenServing s State.shardLoaded

/-- RESTORE_REPORT (R194). -/
def execRestoreReport (r : Rx) (s : State) : Out :=
  whenRestore 0x34 r s fun s => s.takeRestoreReport (fld r.f 16 2) (fld r.f 18 1) (fld r.f 19 1) (fld r.f 20 8)

end Sys2Proof.Machine
end

