-- ==== Sys2Proof/Machine/Yard.lean ====
section
/-!
DEFINITION. The yard commands (12_the_yard.md), but for the requests that arrive at an S-port. A timer command names
the operation by its home and sequence.
-/

namespace Sys2Proof.Machine

/-- YARD_REQUEST (R273 to R275, Table 12-4): a request frame at the home. -/
def execYardRequest (r : Rx) (s : State) : Out :=
  frameRow [0x60] r s fun s => (s.yTake r.f (fun s => s.yTakeRequests r.f)).routeSettle.runSecond

/-- COMBINING_ENTRY_CLOSE (R273): the read of a line returns and its oldest entry closes. -/
def execCombiningEntryClose (line : Nat) (s : State) : Out :=
  whenServing s fun s => (s.yClose (line / 256 * 256)).yieldLog.routeSettle.runSecond

/-- YARD_ANSWER (R267, R270, R275, Table 12-5): an answer frame at the requester. -/
def execYardAnswer (r : Rx) (s : State) : Out :=
  frameRow [0x61] r s fun s => (s.yTake r.f (fun s => s.yTakeAnswers r.f)).routeSettle.runSecond

/-- YARD_RETRY_TIMEOUT (R275, R278): no answer within the retry timeout; the record goes again. -/
def execYardRetryTimeout (home seq : Nat) (s : State) : Out :=
  whenServing s fun s => (s.yRetry home seq).routeSettle.runSecond

/-- OPERATION_INDETERMINATE (R275): retries have gone on for 0x5000.0C; the operation is listed. -/
def execOperationIndeterminate (home seq : Nat) (s : State) : Out :=
  whenServing s fun s =>
    match s.ySentOp home seq with
    | some o => (s.yIndeterminate o).routeSettle.runSecond
    | none => s

/-- RECEIPT_QUERY_TIMER (R276): 0x5000.0B has passed for a listed operation without an outcome. -/
def execReceiptQueryTimer (home seq : Nat) (s : State) : Out :=
  whenServing s fun s => (s.yQuery home seq).routeSettle.runSecond

/-- RECEIPT_QUERY (R276): a query frame at the home. -/
def execReceiptQuery (r : Rx) (s : State) : Out :=
  frameRow [0x62] r s fun s => (s.yTake r.f (fun s => s.yTakeQuery r.f)).routeSettle.runSecond

/-- RECEIPT_STATUS (R276): a status frame at the requester. -/
def execReceiptStatus (r : Rx) (s : State) : Out :=
  frameRow [0x63] r s fun s => (s.yTake r.f (fun s => s.yTakeStatus r.f)).routeSettle.runSecond

/-- RECEIPT_EXPIRY (R274): the receipt window has passed since an execution. -/
def execReceiptExpiry (src seq : Nat) (s : State) : Out :=
  whenServing s fun s => (s.yExpire src seq).routeSettle.runSecond

/-- ROLLBACK_NOTICE (R277, Table 12-8): a rollback notice arrives. -/
def execRollbackNotice (r : Rx) (s : State) : Out :=
  frameRow [0x64] r s fun s => (s.yTake r.f (fun s => s.yTakeNotice r.f)).routeSettle.runSecond

/-- REKEY_CHECK (R265): the comparison of the yard bytes that the slices served. -/
def execRekeyCheck (s : State) : Out :=
  whenServing s fun s => if s.fn .yard ≥ 2 then s.rekeyCheck.routeSettle.runSecond else s

/-- MIGRATION_SET (R266): migration takes its next set. -/
def execMigrationSet (s : State) : Out :=
  whenServing s fun s => if s.fn .yard ≥ 2 then s.migrateSet.routeSettle.runSecond else s

end Sys2Proof.Machine
end

