-- ==== Sys2Proof/Machine/Dispatch.lean ====
section
/-!
DEFINITION. The meaning of each command: one arm for each constructor of Instr.
-/

namespace Sys2Proof.Machine

/-- The command's effect on everything but the queue. -/
def exec (i : Instr) (s : State) : Host.Outcome State Fault Refusal :=
  match i with
  | .vresetNAssert => Sys2Proof.Machine.execVresetNAssert s
  | .vresetNRelease pairs => Sys2Proof.Machine.execVresetNRelease pairs s
  | .selfTestComplete fails us out mhz hard => Sys2Proof.Machine.execSelfTestComplete fails us out mhz hard s
  | .watchdogExpiry => Sys2Proof.Machine.execWatchdogExpiry s
  | .watchdogReset => Sys2Proof.Machine.execWatchdogReset s
  | .epochTick => Sys2Proof.Machine.execEpochTick s
  | .timelockChange v => Sys2Proof.Machine.execTimelockChange v s
  | .timeStrobe t => Sys2Proof.Machine.execTimeStrobe t s
  | .timeStrobeMissing => Sys2Proof.Machine.execTimeStrobeMissing s
  | .holdoverLimitExpiry => Sys2Proof.Machine.execHoldoverLimitExpiry s
  | .stepMark => Sys2Proof.Machine.execStepMark s
  | .snapshotStepTrigger => Sys2Proof.Machine.execSnapshotStepTrigger s
  | .passTensorStart => Sys2Proof.Machine.execPassTensorStart s
  | .passLine slice lanes bad chk => Sys2Proof.Machine.execPassLine slice lanes bad chk s
  | .logTile slice bad cells row col cells2 row2 col2 => Sys2Proof.Machine.execLogTile slice bad cells row col cells2 row2 col2 s
  | .macJob slice word x0 x1 y => Sys2Proof.Machine.execMacJob slice word x0 x1 y s
  | .macJobReadout slice more up => Sys2Proof.Machine.execMacJobReadout slice more up s
  | .arrayHoldExpiry slice array => Sys2Proof.Machine.execArrayHoldExpiry slice array s
  | .arrayStopRampEnd slice array => Sys2Proof.Machine.execArrayStopRampEnd slice array s
  | .factorsCompute desc => Sys2Proof.Machine.execFactorsCompute desc s
  | .factorBroadcast desc => Sys2Proof.Machine.execFactorBroadcast desc s
  | .workingCopyCheck desc again => Sys2Proof.Machine.execWorkingCopyCheck desc again s
  | .completionWordWrite desc => Sys2Proof.Machine.execCompletionWordWrite desc s
  | .stepDone => Sys2Proof.Machine.execStepDone s
  | .sPortRead q => Sys2Proof.Machine.execSPortRead q s
  | .sPortWrite q => Sys2Proof.Machine.execSPortWrite q s
  | .intakeHoldRelease => Sys2Proof.Machine.execIntakeHoldRelease s
  | .releaseCursorWrite q => Sys2Proof.Machine.execReleaseCursorWrite q s
  | .controllerResponse slice kind tag status poison => Sys2Proof.Machine.execControllerResponse slice kind tag status poison s
  | .controllerStall slice kind => Sys2Proof.Machine.execControllerStall slice kind s
  | .longControllerStall slice => Sys2Proof.Machine.execLongControllerStall slice s
  | .load q => Sys2Proof.Machine.execLoad q s
  | .store q => Sys2Proof.Machine.execStore q s
  | .add q => Sys2Proof.Machine.execAdd q s
  | .smin q => Sys2Proof.Machine.execSmin q s
  | .smax q => Sys2Proof.Machine.execSmax q s
  | .umin q => Sys2Proof.Machine.execUmin q s
  | .umax q => Sys2Proof.Machine.execUmax q s
  | .and q => Sys2Proof.Machine.execAnd q s
  | .or q => Sys2Proof.Machine.execOr q s
  | .xor q => Sys2Proof.Machine.execXor q s
  | .swap q => Sys2Proof.Machine.execSwap q s
  | .cas q => Sys2Proof.Machine.execCas q s
  | .fenceRead q => Sys2Proof.Machine.execFenceRead q s
  | .yardRequest r => Sys2Proof.Machine.execYardRequest r s
  | .combiningEntryClose line => Sys2Proof.Machine.execCombiningEntryClose line s
  | .yardAnswer r => Sys2Proof.Machine.execYardAnswer r s
  | .yardRetryTimeout home seq => Sys2Proof.Machine.execYardRetryTimeout home seq s
  | .operationIndeterminate home seq => Sys2Proof.Machine.execOperationIndeterminate home seq s
  | .receiptQueryTimer home seq => Sys2Proof.Machine.execReceiptQueryTimer home seq s
  | .receiptQuery r => Sys2Proof.Machine.execReceiptQuery r s
  | .receiptStatus r => Sys2Proof.Machine.execReceiptStatus r s
  | .receiptExpiry src seq => Sys2Proof.Machine.execReceiptExpiry src seq s
  | .rollbackNotice r => Sys2Proof.Machine.execRollbackNotice r s
  | .removeEntry v => Sys2Proof.Machine.execRemoveEntry v s
  | .rekeyCheck => Sys2Proof.Machine.execRekeyCheck s
  | .migrationSet => Sys2Proof.Machine.execMigrationSet s
  | .dataFrame r => Sys2Proof.Machine.execDataFrame r s
  | .acknowledgement r => Sys2Proof.Machine.execAcknowledgement r s
  | .retransmitTimeout stream role seq parity => Sys2Proof.Machine.execRetransmitTimeout stream role seq parity s
  | .epochDoneNotice r => Sys2Proof.Machine.execEpochDoneNotice r s
  | .noticeRepeat => Sys2Proof.Machine.execNoticeRepeat s
  | .foldComplete => Sys2Proof.Machine.execFoldComplete s
  | .holderSilenceLimit group parity => Sys2Proof.Machine.execHolderSilenceLimit group parity s
  | .feedwarnChange pad v => Sys2Proof.Machine.execFeedwarnChange pad v s
  | .feedDeclared => Sys2Proof.Machine.execFeedDeclared s
  | .flushTimeLimit => Sys2Proof.Machine.execFlushTimeLimit s
  | .suspect r => Sys2Proof.Machine.execSuspect r s
  | .silenceLimit dev => Sys2Proof.Machine.execSilenceLimit dev s
  | .twinWait dev => Sys2Proof.Machine.execTwinWait dev s
  | .twinReport r => Sys2Proof.Machine.execTwinReport r s
  | .propose r => Sys2Proof.Machine.execPropose r s
  | .accept r => Sys2Proof.Machine.execAccept r s
  | .acceptTimeout => Sys2Proof.Machine.execAcceptTimeout s
  | .cut r => Sys2Proof.Machine.execCut r s
  | .rollbackComplete => Sys2Proof.Machine.execRollbackComplete s
  | .ready r => Sys2Proof.Machine.execReady r s
  | .release r => Sys2Proof.Machine.execRelease r s
  | .reStripeFillRead => Sys2Proof.Machine.execReStripeFillRead s
  | .reStripeData r => Sys2Proof.Machine.execReStripeData r s
  | .reStripeAcknowledgement r => Sys2Proof.Machine.execReStripeAcknowledgement r s
  | .holdLimit => Sys2Proof.Machine.execHoldLimit s
  | .staleNotice r => Sys2Proof.Machine.execStaleNotice r s
  | .joinRequest r => Sys2Proof.Machine.execJoinRequest r s
  | .joinRequestRepeat refused => Sys2Proof.Machine.execJoinRequestRepeat refused s
  | .join v => Sys2Proof.Machine.execJoin v s
  | .rebuildRead r => Sys2Proof.Machine.execRebuildRead r s
  | .rebuildData r => Sys2Proof.Machine.execRebuildData r s
  | .journalMirror r => Sys2Proof.Machine.execJournalMirror r s
  | .snapshotTimerTrigger => Sys2Proof.Machine.execSnapshotTimerTrigger s
  | .snapshotNow v => Sys2Proof.Machine.execSnapshotNow v s
  | .snapshotDeferralCleared => Sys2Proof.Machine.execSnapshotDeferralCleared s
  | .snapshotOrder r => Sys2Proof.Machine.execSnapshotOrder r s
  | .snapshotReport r => Sys2Proof.Machine.execSnapshotReport r s
  | .sealRelease => Sys2Proof.Machine.execSealRelease s
  | .copyOnWriteHoldLimit => Sys2Proof.Machine.execCopyOnWriteHoldLimit s
  | .snapshotComplete => Sys2Proof.Machine.execSnapshotComplete s
  | .evaluationExportNow v => Sys2Proof.Machine.execEvaluationExportNow v s
  | .restoreRequest v => Sys2Proof.Machine.execRestoreRequest v s
  | .inventory r => Sys2Proof.Machine.execInventory r s
  | .restoreOrder r => Sys2Proof.Machine.execRestoreOrder r s
  | .shardLoadComplete => Sys2Proof.Machine.execShardLoadComplete s
  | .restoreReport r => Sys2Proof.Machine.execRestoreReport r s
  | .fPortCompletion tag status => Sys2Proof.Machine.execFPortCompletion tag status s
  | .contribution r => Sys2Proof.Machine.execContribution r s
  | .result r => Sys2Proof.Machine.execResult r s
  | .resultTimeout step stream phase chunk => Sys2Proof.Machine.execResultTimeout step stream phase chunk s
  | .taint r => Sys2Proof.Machine.execTaint r s
  | .taintHorizon step stream phase chunk => Sys2Proof.Machine.execTaintHorizon step stream phase chunk s
  | .peakNotice r => Sys2Proof.Machine.execPeakNotice r s
  | .lateTaintTimeout step stream phase chunk => Sys2Proof.Machine.execLateTaintTimeout step stream phase chunk s
  | .callRelease q => Sys2Proof.Machine.execCallRelease q s
  | .allotmentRound layer step call => Sys2Proof.Machine.execAllotmentRound layer step call s
  | .combineCursorWrite q => Sys2Proof.Machine.execCombineCursorWrite q s
  | .returnWindowWrite off data => Sys2Proof.Machine.execReturnWindowWrite off data s
  | .combineComplete layer step call => Sys2Proof.Machine.execCombineComplete layer step call s
  | .combineTimeout layer step call => Sys2Proof.Machine.execCombineTimeout layer step call s
  | .sweepStart => Sys2Proof.Machine.execSweepStart s
  | .sweepBlock => Sys2Proof.Machine.execSweepBlock s
  | .roundClose round => Sys2Proof.Machine.execRoundClose round s
  | .manifest r => Sys2Proof.Machine.execManifest r s
  | .longHaulPacket r => Sys2Proof.Machine.execLongHaulPacket r s
  | .repairWait site shard round block set => Sys2Proof.Machine.execRepairWait site shard round block set s
  | .repairRequest r => Sys2Proof.Machine.execRepairRequest r s
  | .shardSummary r => Sys2Proof.Machine.execShardSummary r s
  | .shardComplete r => Sys2Proof.Machine.execShardComplete r s
  | .manifestWait => Sys2Proof.Machine.execManifestWait s
  | .siteJoin v => Sys2Proof.Machine.execSiteJoin v s
  | .siteJoinRequest r => Sys2Proof.Machine.execSiteJoinRequest r s
  | .joinAnswer r => Sys2Proof.Machine.execJoinAnswer r s
  | .repairComplete addr answers parity lost => Sys2Proof.Machine.execRepairComplete addr answers parity lost s
  | .repairLimit addr => Sys2Proof.Machine.execRepairLimit addr s
  | .sramPatrol mem slice row flips hard cls => Sys2Proof.Machine.execSramPatrol mem slice row flips hard cls s
  | .hbmPatrol slice addr bad fin => Sys2Proof.Machine.execHbmPatrol slice addr bad fin s
  | .errorInjection v => Sys2Proof.Machine.execErrorInjection v s
  | .acknowledgeRetirement v => Sys2Proof.Machine.execAcknowledgeRetirement v s
  | .jobKey v => Sys2Proof.Machine.execJobKey v s
  | .streamQuery v => Sys2Proof.Machine.execStreamQuery v s
  | .watermark r => Sys2Proof.Machine.execWatermark r s
  | .bisectionStart commit => Sys2Proof.Machine.execBisectionStart commit s
  | .bisectQuery r own => Sys2Proof.Machine.execBisectQuery r own s
  | .bisectAnswer r => Sys2Proof.Machine.execBisectAnswer r s
  | .bisectAnswerTimeout dev => Sys2Proof.Machine.execBisectAnswerTimeout dev s
  | .line r own => Sys2Proof.Machine.execLine r own s
  | .bisectionLimit => Sys2Proof.Machine.execBisectionLimit s
  | .open_ r => Sys2Proof.Machine.execOpen r s
  | .confirm r => Sys2Proof.Machine.execConfirm r s
  | .close r => Sys2Proof.Machine.execClose r s
  | .halfOpenTimeout id => Sys2Proof.Machine.execHalfOpenTimeout id s
  | .idleTimeout id => Sys2Proof.Machine.execIdleTimeout id s
  | .read v => Sys2Proof.Machine.execRead v s
  | .write v => Sys2Proof.Machine.execWrite v s
  | .readBlock v => Sys2Proof.Machine.execReadBlock v s
  | .writeBlock v => Sys2Proof.Machine.execWriteBlock v s
  | .subscribe v => Sys2Proof.Machine.execSubscribe v s
  | .blockTimeout sess key copy => Sys2Proof.Machine.execBlockTimeout sess key copy s
  | .notify sess key => Sys2Proof.Machine.execNotify sess key s
  | .principalKey v => Sys2Proof.Machine.execPrincipalKey v s
  | .principalEnabled v => Sys2Proof.Machine.execPrincipalEnabled v s
  | .mouldLoad v => Sys2Proof.Machine.execMouldLoad v s
  | .importRequest v => Sys2Proof.Machine.execImportRequest v s
  | .importComplete => Sys2Proof.Machine.execImportComplete s
  | .functionEnable v => Sys2Proof.Machine.execFunctionEnable v s
  | .functionDisable v => Sys2Proof.Machine.execFunctionDisable v s
  | .drainComplete fn => Sys2Proof.Machine.execDrainComplete fn s
  | .drainLimit => Sys2Proof.Machine.execDrainLimit s
  | .thermalSample ts => Sys2Proof.Machine.execThermalSample ts s
  | .droopLimit slice count => Sys2Proof.Machine.execDroopLimit slice count s
  | .clockLostLock domain => Sys2Proof.Machine.execClockLostLock domain s
  | .portClockResume domain => Sys2Proof.Machine.execPortClockResume domain s
  | .imageChunk v => Sys2Proof.Machine.execImageChunk v s
  | .checkSlot v => Sys2Proof.Machine.execCheckSlot v s
  | .activate v => Sys2Proof.Machine.execActivate v s
  | .pair v => Sys2Proof.Machine.execPair v s
  | .offerRepeat => Sys2Proof.Machine.execOfferRepeat s
  | .offer r => Sys2Proof.Machine.execOffer r s
  | .twinAccept r => Sys2Proof.Machine.execTwinAccept r s
  | .twinConfirm r => Sys2Proof.Machine.execTwinConfirm r s
  | .pairTimeout => Sys2Proof.Machine.execPairTimeout s
  | .heartbeatTimer => Sys2Proof.Machine.execHeartbeatTimer s
  | .heartbeat r => Sys2Proof.Machine.execHeartbeat r s
  | .twinSilence => Sys2Proof.Machine.execTwinSilence s
  | .logMirror r => Sys2Proof.Machine.execLogMirror r s
  | .unpair v => Sys2Proof.Machine.execUnpair v s
  | .unpairFrame r => Sys2Proof.Machine.execUnpairFrame r s
  | .sidebandWireFault pair code => Sys2Proof.Machine.execSidebandWireFault pair code s
  | .sidebandPairRecovered pair => Sys2Proof.Machine.execSidebandPairRecovered pair s
  | .reservedKindFrame r => Sys2Proof.Machine.execReservedKindFrame r s
  | .checksumErrorDatagram r => Sys2Proof.Machine.execChecksumErrorDatagram r s
  | .freeze bits => Sys2Proof.Machine.execFreeze bits s
  | .testLogicReset => Sys2Proof.Machine.execTestLogicReset s
  | .idcode => Sys2Proof.Machine.execIdcode s
  | .samplePreload shifted => Sys2Proof.Machine.execSamplePreload shifted s
  | .extest shifted => Sys2Proof.Machine.execExtest shifted s
  | .clamp => Sys2Proof.Machine.execClamp s
  | .highz => Sys2Proof.Machine.execHighz s
  | .ijtag sibs => Sys2Proof.Machine.execIjtag sibs s
  | .scan => Sys2Proof.Machine.execScan s
  | .bypass code => Sys2Proof.Machine.execBypass code s
  | .sramReadout g addr => Sys2Proof.Machine.execSramReadout g addr s
  | .registerCapture g => Sys2Proof.Machine.execRegisterCapture g s
  | .memoryBist g pass spares => Sys2Proof.Machine.execMemoryBist g pass spares s
  | .fuseReader => Sys2Proof.Machine.execFuseReader s
  | .freezeStatus => Sys2Proof.Machine.execFreezeStatus s
  | .fuseProgrammer fuse copy rail => Sys2Proof.Machine.execFuseProgrammer fuse copy rail s
  | .railsFall => Sys2Proof.Machine.execRailsFall s
  | .stallIndicatorCleared slice => Sys2Proof.Machine.execStallIndicatorCleared slice s
  | .rushHoldEnd slice => Sys2Proof.Machine.execRushHoldEnd slice s
  | .copierLineRead slice => Sys2Proof.Machine.execCopierLineRead slice s
  | .fillLineRead => Sys2Proof.Machine.execFillLineRead s
  | .stepdoneLevelFrame => Sys2Proof.Machine.execStepdoneLevelFrame s
  | .stepmarkLevelZero => Sys2Proof.Machine.execStepmarkLevelZero s

end Sys2Proof.Machine
end

