-- ==== Sys2Proof/Safety.lean ====
section
/-!
DEFINITION. What counts as a sound state and a safe step, in the words that the statements use.
-/

namespace Sys2Proof.Machine

/-- Every sparse part is in its one canonical form: host memory, storage, OCTETS bytes, scalar objects, change counts and the
poisoned words. Equal contents are then equal data. -/
structure State.Canon (s : State) : Prop where
  mem : Sparse.wf (fun _ => 0) s.mem = true
  flash : Sparse.wf (fun _ => 0) s.flash = true
  oct : Sparse.wf octAt s.oct = true
  dict : Sparse.wf dfltOf s.dict = true
  changes : Sparse.wf (fun _ => 0) s.changes = true
  poison : s.poison.Pairwise (· < ·)

/-- The command ends in a next state, without a fault or a refusal. -/
def Completes (c : Instr) (s : State) : Prop := ∃ t, exec c s = .next t

/-- The command completes with the effect that leads to t, and the stalls are settled after it (R285, R286). -/
def Ends (c : Instr) (s t : State) : Prop := exec c s = .next t.settle

/-- Every frame that a has handed to the N-port stands, in its place, in t. -/
def KeepsFrames (a t : State) : Prop := a.tx <+: t.tx

/-- The slice that a command is a command of, or whose test segment it uses (R1, R405). -/
def namedSlice : Instr → Option Nat
  | .passLine n _ _ _ | .logTile n .. | .macJob n _ _ _ _ | .macJobReadout n .. | .arrayHoldExpiry n _ | .arrayStopRampEnd n _
  | .controllerResponse n _ _ _ _ | .controllerStall n _ | .longControllerStall n | .hbmPatrol n _ _ _ | .droopLimit n _
  | .stallIndicatorCleared n | .rushHoldEnd n | .copierLineRead n => some n
  | .sPortRead q | .sPortWrite q | .releaseCursorWrite q | .load q | .store q | .add q | .smin q | .smax q | .umin q | .umax q | .and q
  | .or q | .xor q | .swap q | .cas q | .fenceRead q | .callRelease q | .combineCursorWrite q => some q.slice
  | .sramPatrol m n _ _ _ _ => some (if m ≤ 2 then n else 0)
  | .sramReadout g _ | .registerCapture g | .memoryBist g _ _ => if g < 2 then none else some (g - 2)
  | .vresetNAssert | .vresetNRelease .. | .selfTestComplete .. | .watchdogExpiry | .watchdogReset | .epochTick | .timelockChange ..
  | .timeStrobe .. | .timeStrobeMissing | .holdoverLimitExpiry | .stepMark | .snapshotStepTrigger | .passTensorStart | .factorsCompute ..
  | .factorBroadcast .. | .workingCopyCheck .. | .completionWordWrite .. | .stepDone | .intakeHoldRelease | .yardRequest ..
  | .combiningEntryClose .. | .yardAnswer .. | .yardRetryTimeout .. | .operationIndeterminate .. | .receiptQueryTimer .. | .receiptQuery ..
  | .receiptStatus .. | .receiptExpiry .. | .rollbackNotice .. | .removeEntry .. | .rekeyCheck | .migrationSet | .dataFrame ..
  | .acknowledgement .. | .retransmitTimeout .. | .epochDoneNotice .. | .noticeRepeat | .foldComplete | .holderSilenceLimit ..
  | .feedwarnChange .. | .feedDeclared | .flushTimeLimit | .suspect .. | .silenceLimit .. | .twinWait .. | .twinReport .. | .propose ..
  | .accept .. | .acceptTimeout | .cut .. | .rollbackComplete | .ready .. | .release .. | .reStripeFillRead | .reStripeData ..
  | .reStripeAcknowledgement .. | .holdLimit | .staleNotice .. | .joinRequest .. | .joinRequestRepeat .. | .join .. | .rebuildRead ..
  | .rebuildData .. | .journalMirror .. | .snapshotTimerTrigger | .snapshotNow .. | .snapshotDeferralCleared | .snapshotOrder ..
  | .snapshotReport .. | .sealRelease | .copyOnWriteHoldLimit | .snapshotComplete | .evaluationExportNow .. | .restoreRequest ..
  | .inventory .. | .restoreOrder .. | .shardLoadComplete | .restoreReport .. | .fPortCompletion .. | .contribution .. | .result ..
  | .resultTimeout .. | .taint .. | .taintHorizon .. | .peakNotice .. | .lateTaintTimeout .. | .allotmentRound .. | .returnWindowWrite ..
  | .combineComplete .. | .combineTimeout .. | .sweepStart | .sweepBlock | .roundClose .. | .manifest .. | .longHaulPacket ..
  | .repairWait .. | .repairRequest .. | .shardSummary .. | .shardComplete .. | .manifestWait | .siteJoin .. | .siteJoinRequest ..
  | .joinAnswer .. | .repairComplete .. | .repairLimit .. | .errorInjection .. | .acknowledgeRetirement .. | .jobKey .. | .streamQuery ..
  | .watermark .. | .bisectionStart .. | .bisectQuery .. | .bisectAnswer .. | .bisectAnswerTimeout .. | .line .. | .bisectionLimit
  | .open_ .. | .confirm .. | .close .. | .halfOpenTimeout .. | .idleTimeout .. | .read .. | .write .. | .readBlock .. | .writeBlock ..
  | .subscribe .. | .blockTimeout .. | .notify .. | .principalKey .. | .principalEnabled .. | .mouldLoad .. | .importRequest ..
  | .importComplete | .functionEnable .. | .functionDisable .. | .drainComplete .. | .drainLimit | .thermalSample .. | .clockLostLock ..
  | .portClockResume .. | .imageChunk .. | .checkSlot .. | .activate .. | .pair .. | .offerRepeat | .offer .. | .twinAccept ..
  | .twinConfirm .. | .pairTimeout | .heartbeatTimer | .heartbeat .. | .twinSilence | .logMirror .. | .unpair .. | .unpairFrame ..
  | .sidebandWireFault .. | .sidebandPairRecovered .. | .reservedKindFrame .. | .checksumErrorDatagram .. | .freeze .. | .testLogicReset
  | .idcode | .samplePreload .. | .extest .. | .clamp | .highz | .ijtag .. | .scan | .bypass .. | .fuseReader | .freezeStatus
  | .fuseProgrammer .. | .railsFall | .fillLineRead | .stepdoneLevelFrame | .stepmarkLevelZero => none

/-- A command of the transport, the engines or the pass: it acts only in a state that serves them (R333, R351, Table 15-3). -/
def ofEngine : Instr → Bool
  | .snapshotStepTrigger | .passTensorStart | .passLine .. | .logTile .. | .macJob .. | .macJobReadout .. | .arrayHoldExpiry ..
  | .arrayStopRampEnd .. | .factorsCompute .. | .factorBroadcast .. | .workingCopyCheck .. | .completionWordWrite .. | .stepDone
  | .intakeHoldRelease | .yardRequest .. | .combiningEntryClose .. | .yardAnswer .. | .yardRetryTimeout .. | .operationIndeterminate ..
  | .receiptQueryTimer .. | .receiptQuery .. | .receiptStatus .. | .receiptExpiry .. | .rollbackNotice .. | .rekeyCheck | .migrationSet
  | .dataFrame .. | .acknowledgement .. | .retransmitTimeout .. | .epochDoneNotice .. | .noticeRepeat | .foldComplete
  | .holderSilenceLimit .. | .flushTimeLimit | .suspect .. | .silenceLimit .. | .twinWait .. | .twinReport .. | .propose .. | .accept ..
  | .acceptTimeout | .cut .. | .rollbackComplete | .ready .. | .release .. | .reStripeFillRead | .reStripeData ..
  | .reStripeAcknowledgement .. | .holdLimit | .staleNotice .. | .joinRequest .. | .joinRequestRepeat .. | .rebuildRead .. | .rebuildData ..
  | .journalMirror .. | .snapshotTimerTrigger | .snapshotDeferralCleared | .snapshotOrder .. | .snapshotReport .. | .sealRelease
  | .copyOnWriteHoldLimit | .snapshotComplete | .inventory .. | .restoreOrder .. | .shardLoadComplete | .restoreReport ..
  | .contribution .. | .result .. | .resultTimeout .. | .taint .. | .taintHorizon .. | .peakNotice .. | .lateTaintTimeout ..
  | .allotmentRound .. | .returnWindowWrite .. | .combineComplete .. | .combineTimeout .. | .sweepStart | .sweepBlock | .roundClose ..
  | .manifest .. | .longHaulPacket .. | .repairWait .. | .repairRequest .. | .shardSummary .. | .shardComplete .. | .manifestWait
  | .siteJoinRequest .. | .joinAnswer .. | .repairComplete .. | .repairLimit .. | .hbmPatrol .. | .watermark .. | .bisectionStart ..
  | .bisectQuery .. | .bisectAnswer .. | .bisectAnswerTimeout .. | .line .. | .bisectionLimit | .importComplete | .drainComplete ..
  | .drainLimit | .offerRepeat | .offer .. | .twinAccept .. | .twinConfirm .. | .pairTimeout | .heartbeatTimer | .heartbeat ..
  | .twinSilence | .logMirror .. | .unpairFrame .. | .rushHoldEnd .. | .copierLineRead .. | .fillLineRead => true
  | .vresetNAssert | .vresetNRelease .. | .selfTestComplete .. | .watchdogExpiry | .watchdogReset | .epochTick | .timelockChange ..
  | .timeStrobe .. | .timeStrobeMissing | .holdoverLimitExpiry | .stepMark | .sPortRead .. | .sPortWrite .. | .releaseCursorWrite ..
  | .controllerResponse .. | .controllerStall .. | .longControllerStall .. | .load .. | .store .. | .add .. | .smin .. | .smax ..
  | .umin .. | .umax .. | .and .. | .or .. | .xor .. | .swap .. | .cas .. | .fenceRead .. | .removeEntry .. | .feedwarnChange ..
  | .feedDeclared | .join .. | .snapshotNow .. | .evaluationExportNow .. | .restoreRequest .. | .fPortCompletion .. | .callRelease ..
  | .combineCursorWrite .. | .siteJoin .. | .sramPatrol .. | .errorInjection .. | .acknowledgeRetirement .. | .jobKey .. | .streamQuery ..
  | .open_ .. | .confirm .. | .close .. | .halfOpenTimeout .. | .idleTimeout .. | .read .. | .write .. | .readBlock .. | .writeBlock ..
  | .subscribe .. | .blockTimeout .. | .notify .. | .principalKey .. | .principalEnabled .. | .mouldLoad .. | .importRequest ..
  | .functionEnable .. | .functionDisable .. | .thermalSample .. | .droopLimit .. | .clockLostLock .. | .portClockResume ..
  | .imageChunk .. | .checkSlot .. | .activate .. | .pair .. | .unpair .. | .sidebandWireFault .. | .sidebandPairRecovered ..
  | .reservedKindFrame .. | .checksumErrorDatagram .. | .freeze .. | .testLogicReset | .idcode | .samplePreload .. | .extest .. | .clamp
  | .highz | .ijtag .. | .scan | .bypass .. | .sramReadout .. | .registerCapture .. | .memoryBist .. | .fuseReader | .freezeStatus
  | .fuseProgrammer .. | .railsFall | .stallIndicatorCleared .. | .stepdoneLevelFrame | .stepmarkLevelZero => false

/-- A command of hardware that runs only out of reset and out of FROZEN (R396, R400). -/
def ofRunning : Instr → Bool
  | .watchdogExpiry | .watchdogReset | .epochTick | .timelockChange .. | .timeStrobe .. | .timeStrobeMissing | .holdoverLimitExpiry
  | .stepMark | .snapshotStepTrigger | .passTensorStart | .passLine .. | .logTile .. | .macJob .. | .macJobReadout .. | .arrayHoldExpiry ..
  | .arrayStopRampEnd .. | .factorsCompute .. | .factorBroadcast .. | .workingCopyCheck .. | .completionWordWrite .. | .stepDone
  | .intakeHoldRelease | .controllerStall .. | .longControllerStall .. | .yardRequest .. | .combiningEntryClose .. | .yardAnswer ..
  | .yardRetryTimeout .. | .operationIndeterminate .. | .receiptQueryTimer .. | .receiptQuery .. | .receiptStatus .. | .receiptExpiry ..
  | .rollbackNotice .. | .removeEntry .. | .rekeyCheck | .migrationSet | .dataFrame .. | .acknowledgement .. | .retransmitTimeout ..
  | .epochDoneNotice .. | .noticeRepeat | .foldComplete | .holderSilenceLimit .. | .feedwarnChange .. | .feedDeclared | .flushTimeLimit
  | .suspect .. | .silenceLimit .. | .twinWait .. | .twinReport .. | .propose .. | .accept .. | .acceptTimeout | .cut ..
  | .rollbackComplete | .ready .. | .release .. | .reStripeFillRead | .reStripeData .. | .reStripeAcknowledgement .. | .holdLimit
  | .staleNotice .. | .joinRequest .. | .joinRequestRepeat .. | .join .. | .rebuildRead .. | .rebuildData .. | .journalMirror ..
  | .snapshotTimerTrigger | .snapshotNow .. | .snapshotDeferralCleared | .snapshotOrder .. | .snapshotReport .. | .sealRelease
  | .copyOnWriteHoldLimit | .snapshotComplete | .evaluationExportNow .. | .restoreRequest .. | .inventory .. | .restoreOrder ..
  | .shardLoadComplete | .restoreReport .. | .contribution .. | .result .. | .resultTimeout .. | .taint .. | .taintHorizon ..
  | .peakNotice .. | .lateTaintTimeout .. | .allotmentRound .. | .returnWindowWrite .. | .combineComplete .. | .combineTimeout ..
  | .sweepStart | .sweepBlock | .roundClose .. | .manifest .. | .longHaulPacket .. | .repairWait .. | .repairRequest .. | .shardSummary ..
  | .shardComplete .. | .manifestWait | .siteJoin .. | .siteJoinRequest .. | .joinAnswer .. | .repairComplete .. | .repairLimit ..
  | .sramPatrol .. | .hbmPatrol .. | .errorInjection .. | .acknowledgeRetirement .. | .jobKey .. | .streamQuery .. | .watermark ..
  | .bisectionStart .. | .bisectQuery .. | .bisectAnswer .. | .bisectAnswerTimeout .. | .line .. | .bisectionLimit | .open_ ..
  | .confirm .. | .close .. | .halfOpenTimeout .. | .idleTimeout .. | .read .. | .write .. | .readBlock .. | .writeBlock .. | .subscribe ..
  | .blockTimeout .. | .notify .. | .principalKey .. | .principalEnabled .. | .mouldLoad .. | .importRequest .. | .importComplete
  | .functionEnable .. | .functionDisable .. | .drainComplete .. | .drainLimit | .thermalSample .. | .droopLimit .. | .clockLostLock ..
  | .portClockResume .. | .imageChunk .. | .checkSlot .. | .activate .. | .pair .. | .offerRepeat | .offer .. | .twinAccept ..
  | .twinConfirm .. | .pairTimeout | .heartbeatTimer | .heartbeat .. | .twinSilence | .logMirror .. | .unpair .. | .unpairFrame ..
  | .sidebandWireFault .. | .sidebandPairRecovered .. | .reservedKindFrame .. | .checksumErrorDatagram .. | .freeze ..
  | .stallIndicatorCleared .. | .rushHoldEnd .. | .copierLineRead .. | .fillLineRead | .stepdoneLevelFrame | .stepmarkLevelZero => true
  | .vresetNAssert | .vresetNRelease .. | .selfTestComplete .. | .sPortRead .. | .sPortWrite .. | .releaseCursorWrite ..
  | .controllerResponse .. | .load .. | .store .. | .add .. | .smin .. | .smax .. | .umin .. | .umax .. | .and .. | .or .. | .xor ..
  | .swap .. | .cas .. | .fenceRead .. | .fPortCompletion .. | .callRelease .. | .combineCursorWrite .. | .testLogicReset | .idcode
  | .samplePreload .. | .extest .. | .clamp | .highz | .ijtag .. | .scan | .bypass .. | .sramReadout .. | .registerCapture ..
  | .memoryBist .. | .fuseReader | .freezeStatus | .fuseProgrammer .. | .railsFall => false

/-- A command of the test access port (Tables 18-3 and 18-4). -/
def ofTestPort : Instr → Bool
  | .testLogicReset | .idcode | .samplePreload .. | .extest .. | .clamp | .highz | .ijtag .. | .scan | .bypass .. | .sramReadout ..
  | .registerCapture .. | .memoryBist .. | .fuseReader | .freezeStatus | .fuseProgrammer .. => true
  | .vresetNAssert | .vresetNRelease .. | .selfTestComplete .. | .watchdogExpiry | .watchdogReset | .epochTick | .timelockChange ..
  | .timeStrobe .. | .timeStrobeMissing | .holdoverLimitExpiry | .stepMark | .snapshotStepTrigger | .passTensorStart | .passLine ..
  | .logTile .. | .macJob .. | .macJobReadout .. | .arrayHoldExpiry .. | .arrayStopRampEnd .. | .factorsCompute .. | .factorBroadcast ..
  | .workingCopyCheck .. | .completionWordWrite .. | .stepDone | .sPortRead .. | .sPortWrite .. | .intakeHoldRelease
  | .releaseCursorWrite .. | .controllerResponse .. | .controllerStall .. | .longControllerStall .. | .load .. | .store .. | .add ..
  | .smin .. | .smax .. | .umin .. | .umax .. | .and .. | .or .. | .xor .. | .swap .. | .cas .. | .fenceRead .. | .yardRequest ..
  | .combiningEntryClose .. | .yardAnswer .. | .yardRetryTimeout .. | .operationIndeterminate .. | .receiptQueryTimer .. | .receiptQuery ..
  | .receiptStatus .. | .receiptExpiry .. | .rollbackNotice .. | .removeEntry .. | .rekeyCheck | .migrationSet | .dataFrame ..
  | .acknowledgement .. | .retransmitTimeout .. | .epochDoneNotice .. | .noticeRepeat | .foldComplete | .holderSilenceLimit ..
  | .feedwarnChange .. | .feedDeclared | .flushTimeLimit | .suspect .. | .silenceLimit .. | .twinWait .. | .twinReport .. | .propose ..
  | .accept .. | .acceptTimeout | .cut .. | .rollbackComplete | .ready .. | .release .. | .reStripeFillRead | .reStripeData ..
  | .reStripeAcknowledgement .. | .holdLimit | .staleNotice .. | .joinRequest .. | .joinRequestRepeat .. | .join .. | .rebuildRead ..
  | .rebuildData .. | .journalMirror .. | .snapshotTimerTrigger | .snapshotNow .. | .snapshotDeferralCleared | .snapshotOrder ..
  | .snapshotReport .. | .sealRelease | .copyOnWriteHoldLimit | .snapshotComplete | .evaluationExportNow .. | .restoreRequest ..
  | .inventory .. | .restoreOrder .. | .shardLoadComplete | .restoreReport .. | .fPortCompletion .. | .contribution .. | .result ..
  | .resultTimeout .. | .taint .. | .taintHorizon .. | .peakNotice .. | .lateTaintTimeout .. | .callRelease .. | .allotmentRound ..
  | .combineCursorWrite .. | .returnWindowWrite .. | .combineComplete .. | .combineTimeout .. | .sweepStart | .sweepBlock | .roundClose ..
  | .manifest .. | .longHaulPacket .. | .repairWait .. | .repairRequest .. | .shardSummary .. | .shardComplete .. | .manifestWait
  | .siteJoin .. | .siteJoinRequest .. | .joinAnswer .. | .repairComplete .. | .repairLimit .. | .sramPatrol .. | .hbmPatrol ..
  | .errorInjection .. | .acknowledgeRetirement .. | .jobKey .. | .streamQuery .. | .watermark .. | .bisectionStart .. | .bisectQuery ..
  | .bisectAnswer .. | .bisectAnswerTimeout .. | .line .. | .bisectionLimit | .open_ .. | .confirm .. | .close .. | .halfOpenTimeout ..
  | .idleTimeout .. | .read .. | .write .. | .readBlock .. | .writeBlock .. | .subscribe .. | .blockTimeout .. | .notify ..
  | .principalKey .. | .principalEnabled .. | .mouldLoad .. | .importRequest .. | .importComplete | .functionEnable ..
  | .functionDisable .. | .drainComplete .. | .drainLimit | .thermalSample .. | .droopLimit .. | .clockLostLock .. | .portClockResume ..
  | .imageChunk .. | .checkSlot .. | .activate .. | .pair .. | .offerRepeat | .offer .. | .twinAccept .. | .twinConfirm .. | .pairTimeout
  | .heartbeatTimer | .heartbeat .. | .twinSilence | .logMirror .. | .unpair .. | .unpairFrame .. | .sidebandWireFault ..
  | .sidebandPairRecovered .. | .reservedKindFrame .. | .checksumErrorDatagram .. | .freeze .. | .railsFall | .stallIndicatorCleared ..
  | .rushHoldEnd .. | .copierLineRead .. | .fillLineRead | .stepdoneLevelFrame | .stepmarkLevelZero => false

/-- A command at an S-port (R377 to R382). -/
def ofSPort : Instr → Bool
  | .sPortRead .. | .sPortWrite .. | .releaseCursorWrite .. | .controllerResponse .. | .load .. | .store .. | .add .. | .smin .. | .smax ..
  | .umin .. | .umax .. | .and .. | .or .. | .xor .. | .swap .. | .cas .. | .fenceRead .. | .callRelease .. | .combineCursorWrite .. => true
  | .vresetNAssert | .vresetNRelease .. | .selfTestComplete .. | .watchdogExpiry | .watchdogReset | .epochTick | .timelockChange ..
  | .timeStrobe .. | .timeStrobeMissing | .holdoverLimitExpiry | .stepMark | .snapshotStepTrigger | .passTensorStart | .passLine ..
  | .logTile .. | .macJob .. | .macJobReadout .. | .arrayHoldExpiry .. | .arrayStopRampEnd .. | .factorsCompute .. | .factorBroadcast ..
  | .workingCopyCheck .. | .completionWordWrite .. | .stepDone | .intakeHoldRelease | .controllerStall .. | .longControllerStall ..
  | .yardRequest .. | .combiningEntryClose .. | .yardAnswer .. | .yardRetryTimeout .. | .operationIndeterminate .. | .receiptQueryTimer ..
  | .receiptQuery .. | .receiptStatus .. | .receiptExpiry .. | .rollbackNotice .. | .removeEntry .. | .rekeyCheck | .migrationSet
  | .dataFrame .. | .acknowledgement .. | .retransmitTimeout .. | .epochDoneNotice .. | .noticeRepeat | .foldComplete
  | .holderSilenceLimit .. | .feedwarnChange .. | .feedDeclared | .flushTimeLimit | .suspect .. | .silenceLimit .. | .twinWait ..
  | .twinReport .. | .propose .. | .accept .. | .acceptTimeout | .cut .. | .rollbackComplete | .ready .. | .release .. | .reStripeFillRead
  | .reStripeData .. | .reStripeAcknowledgement .. | .holdLimit | .staleNotice .. | .joinRequest .. | .joinRequestRepeat .. | .join ..
  | .rebuildRead .. | .rebuildData .. | .journalMirror .. | .snapshotTimerTrigger | .snapshotNow .. | .snapshotDeferralCleared
  | .snapshotOrder .. | .snapshotReport .. | .sealRelease | .copyOnWriteHoldLimit | .snapshotComplete | .evaluationExportNow ..
  | .restoreRequest .. | .inventory .. | .restoreOrder .. | .shardLoadComplete | .restoreReport .. | .fPortCompletion .. | .contribution ..
  | .result .. | .resultTimeout .. | .taint .. | .taintHorizon .. | .peakNotice .. | .lateTaintTimeout .. | .allotmentRound ..
  | .returnWindowWrite .. | .combineComplete .. | .combineTimeout .. | .sweepStart | .sweepBlock | .roundClose .. | .manifest ..
  | .longHaulPacket .. | .repairWait .. | .repairRequest .. | .shardSummary .. | .shardComplete .. | .manifestWait | .siteJoin ..
  | .siteJoinRequest .. | .joinAnswer .. | .repairComplete .. | .repairLimit .. | .sramPatrol .. | .hbmPatrol .. | .errorInjection ..
  | .acknowledgeRetirement .. | .jobKey .. | .streamQuery .. | .watermark .. | .bisectionStart .. | .bisectQuery .. | .bisectAnswer ..
  | .bisectAnswerTimeout .. | .line .. | .bisectionLimit | .open_ .. | .confirm .. | .close .. | .halfOpenTimeout .. | .idleTimeout ..
  | .read .. | .write .. | .readBlock .. | .writeBlock .. | .subscribe .. | .blockTimeout .. | .notify .. | .principalKey ..
  | .principalEnabled .. | .mouldLoad .. | .importRequest .. | .importComplete | .functionEnable .. | .functionDisable ..
  | .drainComplete .. | .drainLimit | .thermalSample .. | .droopLimit .. | .clockLostLock .. | .portClockResume .. | .imageChunk ..
  | .checkSlot .. | .activate .. | .pair .. | .offerRepeat | .offer .. | .twinAccept .. | .twinConfirm .. | .pairTimeout | .heartbeatTimer
  | .heartbeat .. | .twinSilence | .logMirror .. | .unpair .. | .unpairFrame .. | .sidebandWireFault .. | .sidebandPairRecovered ..
  | .reservedKindFrame .. | .checksumErrorDatagram .. | .freeze .. | .testLogicReset | .idcode | .samplePreload .. | .extest .. | .clamp
  | .highz | .ijtag .. | .scan | .bypass .. | .sramReadout .. | .registerCapture .. | .memoryBist .. | .fuseReader | .freezeStatus
  | .fuseProgrammer .. | .railsFall | .stallIndicatorCleared .. | .rushHoldEnd .. | .copierLineRead .. | .fillLineRead
  | .stepdoneLevelFrame | .stepmarkLevelZero => false

/-! ### The dictionary rows -/

/-- Each command that is a dictionary request, with the requests that are such a command. -/
def dictRows : List ((Via → Instr) × (DReq → Bool)) :=
  [(.read, fun q => q.op == 1 || q.op == 0 || decide (q.op > 5)), (.write, fun q => q.op == 2), (.readBlock, fun q => q.op == 3),
   (.writeBlock, fun q => q.op == 4), (.subscribe, fun q => q.op == 5)] ++
  [(.principalKey, fun q => q.writes && principalSub 1 q), (.principalEnabled, fun q => q.writes && principalSub 3 q),
   (.functionEnable, fun q => q.writes && (q.index == 0x1201 && q.data != [0])),
   (.functionDisable, fun q => q.writes && (q.index == 0x1201 && q.data == [0]))] ++
  ([(.mouldLoad, 0x2100_07), (.importRequest, 0x2107_01), (.join, 0x3200_0C), (.snapshotNow, 0x3301_04), (.evaluationExportNow, 0x3303_08),
    (.restoreRequest, 0x3304_01), (.siteJoin, 0x4200_12), (.removeEntry, 0x5002_03), (.errorInjection, 0x5102_04),
    (.acknowledgeRetirement, 0x5103_03), (.jobKey, 0x6000_01), (.streamQuery, 0x6002_01), (.imageChunk, 0x7004_06), (.checkSlot, 0x7004_07),
    (.activate, 0x7004_08), (.pair, 0x7005_03), (.unpair, 0x7005_07)] : List ((Via → Instr) × Nat)).map
    (fun x => (x.1, fun q => q.writes && (q.key == x.2)))

/-- What the owning chapter does at a write of the objects that command something: the object, the command, and the effect
of the scalar v or the bytes b, with the status of the answer. -/
def commandWrites : List (Nat × (Via → Instr) × (State → Nat → Bytes → Nat × State)) :=
  [(0x2100_07, .mouldLoad, fun s _ _ => (0, s.loadMould)), (0x2107_01, .importRequest, fun s _ b => s.importAsk b),
   (0x3200_0C, .join, fun s _ _ => s.askJoin), (0x3301_04, .snapshotNow, fun s _ _ => (0, s.fireSnap 0)),
   (0x3303_08, .evaluationExportNow, fun s _ _ => (0, s.fireSnap 2)), (0x3304_01, .restoreRequest, fun s _ _ => s.askRestore),
   (0x4200_12, .siteJoin, fun s _ _ => s.askSite), (0x5002_03, .removeEntry, fun s v _ => (0, s.yRemove v)),
   (0x5102_04, .errorInjection, fun s v _ => s.injectError v), (0x5103_03, .acknowledgeRetirement, fun s v _ => s.ackRetirement v),
   (0x6000_01, .jobKey, fun s _ b => s.takeJobKey b), (0x6002_01, .streamQuery, fun s _ b => s.askStream b),
   (0x7004_06, .imageChunk, fun s _ b => s.chunkAct b), (0x7004_07, .checkSlot, fun s _ _ => s.checkAct),
   (0x7004_08, .activate, fun s _ _ => s.activateAct), (0x7005_03, .pair, fun s _ _ => s.pairAct), (0x7005_07, .unpair, fun s _ _ => s.unpairAct)]

/-- The state in which a C-port request is judged: the sampled privilege, and the request counted (R342, R344). -/
def State.asked (s : State) (priv : Bool) : State := (s.setPair 5 priv).inc 0x8100_0C

/-- The role of a C-port request (R344). -/
def State.cRole (s : State) : Nat := if s.pairValue 5 then 2 else 0

/-- A C-port request is answered: the words of the response go out. -/
def State.replied (s : State) (q : DReq) (r : DRep) : State := { s with cOut := s.cOut ++ [⟨s.cResponse q r⟩] }

/-- A command of the dictionary reaches the C-port of a block that takes it, with words that spell the request q. -/
def CAsks (s : State) (ws : List Nat) (q : DReq) : Prop := s.up = true ∧ s.sensors.cStopped = false ∧ cRequest ws = some q

/-- The commands that are a request at the fabric face, with the kind that each names (Tables 12-3 and 17-1). -/
def sportRows : List ((SReq → Instr) × Nat) :=
  [(.sPortRead, 1), (.load, 1), (.fenceRead, 1), (.sPortWrite, 2), (.store, 2), (.releaseCursorWrite, 2), (.callRelease, 2),
   (.combineCursorWrite, 2), (.add, 3), (.smin, 4), (.smax, 5), (.umin, 6), (.umax, 7), (.and, 8), (.or, 9), (.xor, 10), (.swap, 11), (.cas, 12)]

/-- A whole request that the fabric face takes without a protocol error and without a split (R10, R11, R382). -/
structure State.Takes (s : State) (p : SReq) : Prop where
  built : p.slice < s.hw.slices
  on : s.dev ≠ 0
  warm : s.dev ≠ 8
  sound : s.protocolFault p = none
  whole : p.size ≤ 256 - p.addr % 256
  alone : s.sport.second = []

/-- The hold queue of slice n has room, and no write waits for it (R380). -/
def State.HoldRoom (s : State) (n : Nat) : Prop := s.queued n < 256 ∧ ∀ h ∈ s.sport.held, h.why = .queue → h.req.slice ≠ n

/-- A good request frame of Eciabo that asks q. -/
def NAsks (s : State) (r : Rx) (q : DReq) : Prop := s.ecServed = true ∧ s.ecCause r = 0 ∧ fld r.f 3 1 = 5 ∧ ecRequest r.f = q

end Sys2Proof.Machine
end

