-- ==== Sys2Proof/Certificates/Slice0/Obligations.lean ====
section
/-!
DEFINITION. The statements for the provers: each says, in the model's terms, what the cited rules or sections of the spec say.
-/

open Sys2Proof Sys2Proof.Machine

/-- A step of a state with the command c at the front of its queue is exec of c on that state with the queue's rest. The
queue is the form in which this model takes its commands (log entry 6). On an empty queue a step changes nothing. This
is the model's choice, log entry 6: time passes only through the commands that say so. -/
def Obligations.StepRunsFrontCommand : Prop :=
  (∀ (c : Instr) (rest : List Instr) (s : State), step { s with pending := c :: rest } = exec c { s with pending := rest }) ∧
  (∀ s : State, s.pending = [] → step s = .next s)

/-- In the state after reset, host memory, storage, the OCTETS bytes, the scalar objects, the change counts and the poison
marks are in their canonical form, and no command waits. State.reset is the state that a release of the reset leaves
of a block after a reset, with no pair in fault: the device in SELFTEST, every function OFF, one event logged, and
every scalar object but the count of device state changes 0x8120.01 and the count of events 0x8700.03, which read 1,
at its reset value. -/
def Obligations.ResetIsCanonical : Prop :=
  (State.reset.Canon ∧ State.reset.pending = []) ∧
  (State.reset.resetBlock.releaseReset [] = State.reset ∧ State.reset.dev = 1 ∧ State.reset.log.next = 1 ∧ State.reset.rd 0x8120_01 = 1 ∧
    State.reset.rd 0x8700_03 = 1 ∧ (∀ x, x ≠ 0x8120_01 → x ≠ 0x8700_03 → State.reset.rd x = dfltOf x) ∧ ∀ f : Fn, State.reset.fn f = 0)

/-- From every state whose host memory, storage, OCTETS bytes, scalar objects, change counts and poison marks are in
canonical form, a step that answers a next state leads to a state of which the same holds. -/
def Obligations.StepKeepsCanonical : Prop :=
  ∀ s t : State, s.Canon → step s = .next t → t.Canon

/-- A step that answers a next state takes exactly the front command from the queue and adds none, leaves the number of
built slices, and leaves every frame already handed to the N-port in its place. -/
def Obligations.StepTakesOneCommandAndWithdrawsNothing : Prop :=
  ∀ s t : State, step s = .next t → t.pending = s.pending.tail ∧ t.hw.slices = s.hw.slices ∧ KeepsFrames s t

/-- A command that names a slice, or the test segment of a slice, beyond the built ones stops with the fault absentSlice:
such a slice does not exist (R1; the stop is the model's, log entry 8). Every other command completes, in every state. -/
def Obligations.OnlyAbsentSlicesStop : Prop :=
  ∀ (c : Instr) (s : State),
    ((∃ n, namedSlice c = some n ∧ s.hw.slices ≤ n) → exec c s = .fault .absentSlice) ∧
      ((∀ n, namedSlice c = some n → n < s.hw.slices) → Completes c s)

/-- Storage changes only as an F-port command completes, at the end of self-test or at a watchdog reset (the fallback of
R371). The fuses change only through the fuse programmer. The test port changes only through its own commands, with
the freeze and as the rails fall. The sticky registers change only at the reset pin, the end of self-test, the
watchdog's expiry and reset, the freeze, the fall of the rails, and uses of the test port. -/
def Obligations.CommandsKeepWhatIsNotTheirs : Prop :=
  ∀ (c : Instr) (s t : State), exec c s = .next t →
    ((∀ g st, c ≠ .fPortCompletion g st) → (∀ a b d e f, c ≠ .selfTestComplete a b d e f) → c ≠ .watchdogReset → t.flash = s.flash) ∧
      ((∀ f n r, c ≠ .fuseProgrammer f n r) → t.hw = s.hw) ∧
      (ofTestPort c = false → (∀ b, c ≠ .freeze b) → c ≠ .railsFall → t.tap = s.tap) ∧
      (ofTestPort c = false → (∀ b, c ≠ .freeze b) → (∀ a b d e f, c ≠ .selfTestComplete a b d e f) → c ≠ .railsFall → c ≠ .vresetNAssert →
        c ≠ .watchdogExpiry → c ≠ .watchdogReset → t.sticky = s.sticky)

/-- In FROZEN, every command but the reset pin and the fall of the rails leaves all of the block as it is, except: the
S-port with the host memory behind it (the pass-through of R400), the storage and the F-port's list of commands (a
write that the storage ends, R399), and the test port with the fuses, the sticky count, the SRAM rows that a BIST
overwrites with their marks, and the draws. The premise on the controller face says that no request served by the
slice is still there, as the freeze leaves it (Table 18-1). -/
def Obligations.FrozenMovesNothing : Prop :=
  ∀ (c : Instr) (s t : State), s.dev = 8 → (∀ x ∈ s.sport.ctrl, x.served = false) → c ≠ .vresetNAssert → c ≠ .railsFall → exec c s = .next t →
    t = { s with sport := t.sport, mem := t.mem, poison := t.poison, flash := t.flash, fOut := t.fOut, tap := t.tap, hw := t.hw, sticky := t.sticky, draws := t.draws, prot := { s.prot with poisonRows := t.prot.poisonRows, rows := t.prot.rows } }

/-- A command of the transport, the engines or the pass does nothing while the device is OFF, in SELFTEST, in SAFE or
FROZEN. A command of hardware that runs does nothing while the device is OFF or FROZEN. A command at an S-port does
nothing while the device is OFF. Doing nothing is the same state as next state, or the stop of a command that names a
slice that is not built. -/
def Obligations.OnlyServingStatesServe : Prop :=
  ∀ (c : Instr) (s : State),
    (ofEngine c = true ∧ s.serving = false) ∨ (ofRunning c = true ∧ s.up = false) ∨ (ofSPort c = true ∧ s.dev = 0) →
      exec c s = .next s ∨ exec c s = .fault .absentSlice

/-- Whatever the command, no bit of any fuse copy goes back to 0. Where a command changes a fuse at all, it is the fuse
programmer, the device is FROZEN and the programming rail is supplied, and under the lock only a SLICE_DISABLE bit
changes. -/
def Obligations.FusesOnlyBlowWhileFrozen : Prop :=
  ∀ (c : Instr) (s t : State), exec c s = .next t →
    (∀ i, s.hw.debugCopies.testBit i = true → t.hw.debugCopies.testBit i = true) ∧ (∀ i, s.hw.disableA.testBit i = true → t.hw.disableA.testBit i = true) ∧
      (∀ i, s.hw.disableB.testBit i = true → t.hw.disableB.testBit i = true) ∧ (∀ i, s.hw.serial.testBit i = true → t.hw.serial.testBit i = true) ∧
      (t.hw ≠ s.hw → s.dev = 8 ∧ (∃ f n, c = .fuseProgrammer f n true) ∧ (s.locked = true → t.hw.debugCopies = s.hw.debugCopies ∧ t.hw.serial = s.hw.serial))

/-- After a write of the value v to a scalar object k, k reads v and every other scalar object reads as before; the change
count of k is up by 1, wrapping at 2^32, exactly when the value was another and k is no counter (index below 0x8000),
and every other change count stands. After bytes go into an OCTETS object from an offset, they read back, the bytes of
every other object and the bytes of this one below and above them read as before. A counter that rises by n reads the
sum, or the largest value of its type where the sum is beyond it; it never goes down from a value of its type, and no
other object changes. -/
def Obligations.ObjectWritesChangeOneObject : Prop :=
  ((∀ (s : State) (k v x : Nat), s.Canon →
      (s.wr k v).rd x = (if x = k then v else s.rd x) ∧
        (s.wr k v).changeOf x = if x = k ∧ s.rd k ≠ v ∧ k / 256 < 0x8000 then (s.changeOf k + 1) % 2 ^ 32 else s.changeOf x) ∧
    ∀ (s : State) (k off : Nat) (bs : Bytes), s.Canon → off + bs.length ≤ 2 ^ 24 →
      (s.wrO k off bs).octs k off bs.length = bs ∧
        (∀ k' o n, k' ≠ k → o + n ≤ 2 ^ 24 → (s.wrO k off bs).octs k' o n = s.octs k' o n) ∧
        (∀ o n, o + n ≤ off ∨ (off + bs.length ≤ o ∧ o + n ≤ 2 ^ 24) → (s.wrO k off bs).octs k o n = s.octs k o n)) ∧
  (∀ (s : State) (k n x : Nat), s.Canon →
    (s.incBy k n).rd x = (if x = k then min (s.rd k + n) (objMax k) else s.rd x) ∧ (s.rd k ≤ objMax k → s.rd k ≤ (s.incBy k n).rd k))

/-- An event joins the newest 4,096 records as a record with the time, the next sequence number, the code, the source and
the halter number at the event. The next sequence rises by 1, the newest sequence 0x7003.01 names the record, and the
count of events rises. A unit whose twin status is not 2 (paired and heard), or that R160 mutes, sends nothing;
another unit sends exactly one frame. Of the scalar objects, only 0x7003.01, 0x7003.02 and 0x8700.03 change; of the
state, only the objects with their change counts, the log, the waiting storage commands and the frames handed over
change. -/
def Obligations.EventsJoinTheLog : Prop :=
  ∀ (s : State) (src code : Nat) (p : Bytes), s.Canon →
    let t := s.evFrom src code p
    t.log.recs = ((⟨s.log.next, s.now, code, src, s.halter, p⟩ : EvRec) :: s.log.recs).take 4096 ∧ t.log.next = s.log.next + 1 ∧
      t.rd 0x7003_01 = s.log.next ∧ t.rd 0x8700_03 = min (s.rd 0x8700_03 + 1) (objMax 0x8700_03) ∧
      (s.mirroring = false ∨ s.muted = true → t.tx = s.tx) ∧ (s.mirroring = true → s.muted = false → ∃ f, t.tx = s.tx ++ [f]) ∧
      (∀ x, x ≠ 0x7003_01 → x ≠ 0x7003_02 → x ≠ 0x8700_03 → t.rd x = s.rd x) ∧
      t = { s with dict := t.dict, oct := t.oct, changes := t.changes, log := t.log, fOut := t.fOut, tx := t.tx }

/-- The status of the common checks is that of the first one that applies, in the order 1, 2, 15, 3, 4, 8, 5, 7, 9, 11,
12, 14 and else 0. An operation that one of them refuses is answered with that status and no data, and changes
nothing, but that one of status 11 may change the dictionary server's record (the staging copy of R339). In particular
an object that is not served gives 1, one that is not listed 2, a SUBSCRIBE on the C-port 15, a write of a read-only
object 3 whatever the role, a write of another object in role 0 4, and a write by role 2 gives 8, 5, 7 or 9 in that
order where the state, the owner, the type or an open copy forbids it. -/
def Obligations.RefusedOperationsChangeNothing : Prop :=
  (∀ (s : State) (role : Nat) (q : DReq), s.gateStatus role q ≠ 0 →
      (s.operate role q).1 = ⟨s.gateStatus role q, []⟩ ∧ (s.gateStatus role q ≠ 11 → (s.operate role q).2 = s) ∧
        ∃ sv, (s.operate role q).2 = { s with server := sv }) ∧
    (∀ (s : State) (role : Nat) (q : DReq), s.gateStatus role q = ((([(!s.indexServed q.index, 1), (decide (q.sub ≠ 0) && (objOf q.key).isNone, 2),
      (decide (q.op = 5) && decide (q.sess = 0), 15), (accessBad q, 3), (q.writes && (decide (role = 0) || (adminOnly q.key && decide (role < 2))), 4),
      (s.stateBad q, 8), (s.ownerBusy q, 5), (typeBad q, 7), (s.busy q, 9), (s.orderBad q, 11), (s.noRoom q, 12), (decide (q.op = 0) || decide (q.op > 5), 14)] :
        List (Bool × Nat)).find? (·.1)).map (·.2)).getD 0) ∧
    (∀ (s : State) (role : Nat) (q : DReq), s.indexServed q.index = false → s.gateStatus role q = 1) ∧
    (∀ (s : State) (role : Nat) (q : DReq), s.indexServed q.index = true → q.sub ≠ 0 → objOf q.key = none → s.gateStatus role q = 2) ∧
    (∀ (s : State) (role : Nat) (q : DReq) (o : Obj), s.indexServed q.index = true → objOf q.key = some o → q.op = 5 → q.sess = 0 → s.gateStatus role q = 15) ∧
    (∀ (s : State) (role : Nat) (q : DReq) (o : Obj), s.indexServed q.index = true → objOf q.key = some o → q.writes = true →
      (o.acc = .const ∨ o.acc = .ro) → s.gateStatus role q = 3) ∧
    (∀ (s : State) (q : DReq) (o : Obj), s.indexServed q.index = true → objOf q.key = some o → q.writes = true → o.acc ≠ .const → o.acc ≠ .ro →
      s.gateStatus 0 q = 4) ∧
    ∀ (s : State) (role : Nat) (q : DReq) (o : Obj), s.indexServed q.index = true → objOf q.key = some o → q.writes = true → o.acc ≠ .const → o.acc ≠ .ro →
      2 ≤ role → (s.stateBad q = true → s.gateStatus role q = 8) ∧ (s.stateBad q = false → s.ownerBusy q = true → s.gateStatus role q = 5) ∧
        (s.stateBad q = false → s.ownerBusy q = false → typeBad q = true → s.gateStatus role q = 7) ∧
        (s.stateBad q = false → s.ownerBusy q = false → typeBad q = false → s.busy q = true → s.gateStatus role q = 9)

/-- In the state after reset no principal is enabled and no session is open; the same holds right after any later release
of the reset; and while the principal that an OPEN names is not enabled, the OPEN opens no session, so that no network
session can open until host software enables one. (That host software must give the key and the role is a duty of the
host.) -/
def Obligations.NoPrincipalIsEnabledAtReset : Prop :=
  (∀ p < 8, State.reset.rd (0x1100_03 + 256 * p) = 0) ∧ State.reset.server.sessions = [] ∧
    (∀ (s : State) (ps : List Nat), ∃ t, exec (.vresetNRelease ps) s.resetBlock = .next t ∧ t.server.sessions = [] ∧ ∀ p < 8, t.rd (0x1100_03 + 256 * p) = 0) ∧
    ∀ (s t : State) (r : Rx), s.rd (0x1100_03 + 256 * fld r.f 16 1) ≠ 1 → s.Canon → exec (.open_ r) s = .next t → t.server.sessions = s.server.sessions

/-- On a C-port that takes requests, a command whose words spell a request of its kind samples CPRIV, counts the request,
runs the request as one operation with role 2 where the pair reads 1 and role 0 otherwise, counts and reports a write
refused for lack of privilege, and sends one response with the status and the data. Words that spell a request of
another kind are no such command: nothing happens. The commands are READ, WRITE, READ_BLOCK, WRITE_BLOCK, SUBSCRIBE,
PRINCIPAL_KEY, PRINCIPAL_ENABLED, FUNCTION_ENABLE, FUNCTION_DISABLE, MOULD_LOAD, IMPORT_REQUEST, JOIN, SNAPSHOT_NOW,
EVALUATION_EXPORT_NOW, RESTORE_REQUEST, SITE_JOIN, REMOVE_ENTRY, ERROR_INJECTION, ACKNOWLEDGE_RETIREMENT, JOB_KEY,
STREAM_QUERY, IMAGE_CHUNK, CHECK_SLOT, ACTIVATE, PAIR and UNPAIR. -/
def Obligations.CPortRequestsAreAnswered : Prop :=
  ∀ e ∈ dictRows, ∀ (priv : Bool) (ws : List Nat) (q : DReq) (s : State), CAsks s ws q →
    (e.2 q = true →
      let a := (s.asked priv).operate (s.asked priv).cRole q
      let u := if a.1.status = 4 ∧ q.writes then a.2.privRefused q.key else a.2
      Ends (e.1 (.cport priv ws)) s (u.replied q a.1)) ∧
      (e.2 q = false → Ends (e.1 (.cport priv ws)) s s)

/-- Of an operation that no common check refuses: READ answers the object's value and changes nothing. WRITE commits its
data. A READ_BLOCK that is first answers from the live object and, unless it is also last, leaves a frozen copy of it
for the session; one that is not first, with such a copy, answers from the copy; one with neither flag and without a
copy answers from the live object and changes nothing. A WRITE_BLOCK that is not last writes its data at its offset
into the staging copy and changes no scalar object and no OCTETS byte; the last one discards the copy, commits the
whole of it, and counts a commit of status 0; an aborting one discards it. SUBSCRIBE with mode 0 takes the session's
subscription of the object away; with mode 1 or 2 and a period of 1 to 3,600,000 it leaves exactly the new one of the
session for the object. -/
def Obligations.OperationsDoWhatTheirOpSays : Prop :=
  ∀ (s : State) (role : Nat) (q : DReq), s.gateStatus role q = 0 →
    (q.op = 1 → s.operate role q = (⟨0, s.valueOf q.key⟩, s)) ∧
      (q.op = 2 → s.operate role q = (⟨(s.commit q.key q.data).1, []⟩, (s.commit q.key q.data).2)) ∧
      (q.op = 3 → q.first = false → q.last = false → s.frozenOf q.sess q.key = none → s.operate role q = (⟨0, slice (s.blockOf q) q.off q.len⟩, s)) ∧
      (q.op = 3 → q.first = true → (s.operate role q).1 = ⟨0, slice (s.blockOf q) q.off q.len⟩ ∧
        (q.last = false → (s.operate role q).2.frozenOf q.sess q.key = some ⟨q.key, q.sess, s.blockOf q, s.changeOf q.key⟩)) ∧
      (∀ c, q.op = 3 → q.first = false → s.frozenOf q.sess q.key = some c → (s.operate role q).1 = ⟨0, slice c.data q.off q.len⟩) ∧
      (q.op = 4 → q.abort = true → (s.operate role q).1 = ⟨0, []⟩ ∧ (s.operate role q).2.stagingOf q.key = none) ∧
      (q.op = 4 → q.abort = false → q.last = false → ∀ base, base = (match s.stagingOf q.key with | some c => c.data | none => s.octs q.key 0 (keySize q)) →
        (s.operate role q).1 = ⟨0, []⟩ ∧ (s.operate role q).2.stagingOf q.key = some ⟨q.key, q.sess, patch base q.off (slice q.data 0 q.len)⟩ ∧
          (s.operate role q).2.dict = s.dict ∧ (s.operate role q).2.oct = s.oct) ∧
      (q.op = 4 → q.abort = false → q.last = true → ∀ base u, base = (match s.stagingOf q.key with | some c => c.data | none => s.octs q.key 0 (keySize q)) →
        u = (s.modServer fun v => { v with staging := v.staging.filter (·.key ≠ q.key) }) →
        let x := u.commit q.key (patch base q.off (slice q.data 0 q.len))
        s.operate role q = (⟨x.1, []⟩, if x.1 = 0 then x.2.inc 0x8100_08 else x.2)) ∧
      (q.op = 5 → fld q.data 0 1 = 0 → (s.operate role q).1 = ⟨0, []⟩ ∧
        (s.operate role q).2.server.subs = s.server.subs.filter (fun x => ¬ (x.sess = q.sess ∧ x.key = q.key))) ∧
      (q.op = 5 → (fld q.data 0 1 = 1 ∨ fld q.data 0 1 = 2) → 1 ≤ fld q.data 4 4 → fld q.data 4 4 ≤ 3600000 → (s.operate role q).1 = ⟨0, []⟩ ∧
        (s.operate role q).2.server.subs = s.server.subs.filter (fun x => ¬ (x.sess = q.sess ∧ x.key = q.key)) ++
          [⟨q.sess, q.key, fld q.data 0 1, fld q.data 4 4, s.changeOf q.key⟩])

/-- A WRITE on the C-port to the object of MOULD_LOAD, IMPORT_REQUEST, JOIN, SNAPSHOT_NOW, EVALUATION_EXPORT_NOW,
RESTORE_REQUEST, SITE_JOIN, REMOVE_ENTRY, ERROR_INJECTION, ACKNOWLEDGE_RETIREMENT, JOB_KEY, STREAM_QUERY, IMAGE_CHUNK,
CHECK_SLOT, ACTIVATE, PAIR or UNPAIR, that passes the common checks, the owner's check and the range of the object,
runs the operation that commandWrites lists for the object on the state in which the request was judged, and the
command completes with the response that carries that operation's status. The last segment of a WRITE_BLOCK (the way
of IMAGE_CHUNK, whose object is above 1,024 bytes) does the same with the staging copy, which goes, and a commit of
status 0 is counted. -/
def Obligations.CommandWritesTakeEffect : Prop :=
  ∀ e ∈ commandWrites, ∀ (priv : Bool) (ws : List Nat) (q : DReq) (s : State) (o : Obj), CAsks s ws q → q.key = e.1 → objOf e.1 = some o →
    (s.asked priv).gateStatus (s.asked priv).cRole q = 0 →
    (∀ v, q.op = 2 → v = (if o.ty = .octets ∨ o.ty = .str then 0 else beNat q.data) → (s.asked priv).ownerCheck e.1 v q.data = 0 → rangeStatus o v = 0 →
      let x := e.2.2 (s.asked priv) v q.data
      Ends (e.2.1 (.cport priv ws)) s (x.2.replied q ⟨x.1, []⟩)) ∧
    ∀ u d, q.op = 4 → q.last = true → q.abort = false → o.ty = .octets → u = ((s.asked priv).modServer fun v => { v with staging := v.staging.filter (·.key ≠ e.1) }) →
      d = patch (match (s.asked priv).stagingOf e.1 with | some c => c.data | none => (s.asked priv).octs e.1 0 (keySize q)) q.off (slice q.data 0 q.len) →
      let x := e.2.2 u 0 d
      Ends (e.2.1 (.cport priv ws)) s ((if x.1 = 0 then x.2.inc 0x8100_08 else x.2).replied q ⟨x.1, []⟩)

/-- A WRITE on the C-port that passes every check completes with one response: of a principal's key (PRINCIPAL_KEY) it
takes the key for the principal; of a principal's enable (PRINCIPAL_ENABLED) it stores it, and a 0 ends its sessions;
of a function's enable object (FUNCTION_ENABLE, and FUNCTION_DISABLE for the value 0) it runs the enable operation of
the function, and where its answer is 0 the object takes the value; of any other scalar object that commands nothing,
or of an OCTETS object (WRITE), it stores the value, and then what follows from the object is brought up to date.
DRAIN_COMPLETE of a function that is DRAINING and whose drain waits for nothing ends the drain (State.endDrain);
DRAIN_LIMIT ends the drain of coding whatever it waits for. At the end of a drain, a function other than coding and
site exchange without a pending enable is OFF, and the drain is counted in 0x8120.04. DRAIN_COMPLETE of a function
that is not DRAINING or still waits only settles the stalls. -/
def Obligations.PrincipalAndFunctionWritesTakeEffect : Prop :=
  (∀ (priv : Bool) (ws : List Nat) (q : DReq) (s : State) (o : Obj) (v : Nat), CAsks s ws q → q.op = 2 → objOf q.key = some o →
    (s.asked priv).gateStatus (s.asked priv).cRole q = 0 → v = (if o.ty = .octets ∨ o.ty = .str then 0 else beNat q.data) →
    (s.asked priv).ownerCheck q.key v q.data = 0 → rangeStatus o v = 0 →
    (∀ p, p < 8 → q.index = 0x1100 + p → q.sub = 1 →
        Ends (.principalKey (.cport priv ws)) s (((s.asked priv).takePrincipalKey p q.data).replied q ⟨0, []⟩)) ∧
      (∀ p, p < 8 → q.index = 0x1100 + p → q.sub = 3 → Ends (.principalEnabled (.cport priv ws)) s
        ((if v = 0 then ((s.asked priv).wr q.key v).endPrincipal 4 p else (s.asked priv).wr q.key v).replied q ⟨0, []⟩)) ∧
      (∀ c, 1 ≤ c → c ≤ 6 → q.index = 0x1201 → q.sub = c →
        let x := (s.asked priv).enableAct (fnOf c) v
        Ends (if q.data = [0] then .functionDisable (.cport priv ws) else .functionEnable (.cport priv ws)) s
          ((if x.1 = 0 then x.2.wr q.key v else x.2).replied q ⟨x.1, []⟩)) ∧
      (q.index ≠ 0x1201 → (∀ e ∈ commandWrites, q.key ≠ e.1) → ¬ (0x1100 ≤ q.index ∧ q.index ≤ 0x1107 ∧ (q.sub = 1 ∨ q.sub = 3)) →
        Ends (.write (.cport priv ws)) s
          (((if o.ty = .octets then (s.asked priv).wrO q.key 0 q.data else (s.asked priv).wr q.key v).follow q.key).replied q ⟨0, []⟩))) ∧
  ((∀ (s : State) (f : Fn), s.serving = true → s.fn f = 3 → s.drained f = true → Ends (.drainComplete f) s (s.endDrain f)) ∧
    (∀ (s : State) (f : Fn), s.serving = true → s.fn f ≠ 3 ∨ s.drained f = false → Ends (.drainComplete f) s s) ∧
    (∀ s : State, s.serving = true → s.fn .coding = 3 → Ends .drainLimit s (s.endDrain .coding)) ∧
    ∀ (s : State) (f : Fn), s.Canon → f ≠ .coding → f ≠ .siteExchange → s.fn f = 3 → s.rd (0x1203_00 + fnCode f) = 0 →
      (s.endDrain f).fn f = 0 ∧ (s.endDrain f).rd 0x8120_04 = min (s.rd 0x8120_04 + 1) (objMax 0x8120_04))

/-- A good Eciabo request frame of the kind of one of the 26 dictionary commands is counted and taken by its session. In
an open session: with the next sequence, the operation runs with the role of the principal, and its reply frame is
kept with the sequence and the request and sent to the client; with the last sequence and every byte equal, the kept
reply is counted as repeated and sent again and nothing is executed; with any other sequence or bytes, it is counted,
the reply has status 10 and nothing is executed. -/
def Obligations.SessionRequestsRunOnce : Prop :=
  (∀ e ∈ dictRows, ∀ (r : Rx) (q : DReq) (s : State), s.Canon → NAsks s r q → e.2 q = true →
      Ends (e.1 (.net r)) s (((s.ce r).inc 0x8100_01).takeRequest r)) ∧
    ∀ (s : State) (r : Rx) (x : Session), s.server.sessions.find? (·.id = fld r.f 4 4) = some x → x.st = 2 →
      (fld r.f 8 4 = x.lastSeq + 1 →
        let a := s.operate (s.rd (0x1100_02 + 256 * x.principal)) (ecRequest r.f)
        let f := a.2.ecFrame 6 (fld r.f 4 4) (fld r.f 8 4) (a.2.replyBody (ecRequest r.f) a.1)
        let out := f ++ ecMac x.key f
        s.takeRequest r = (a.2.modSession (fld r.f 4 4) fun y => { y with lastSeq := fld r.f 8 4, lastReq := r.f, lastRep := out }).ecSend x.addr x.port out) ∧
        (fld r.f 8 4 = x.lastSeq → r.f = x.lastReq → s.takeRequest r = (s.inc 0x8100_06).ecSend x.addr x.port x.lastRep) ∧
        (fld r.f 8 4 ≠ x.lastSeq + 1 → ¬ (fld r.f 8 4 = x.lastSeq ∧ r.f = x.lastReq) → s.takeRequest r =
          (s.inc 0x8100_07).ecAuth x.addr x.port x.key 6 (fld r.f 4 4) (fld r.f 8 4) (s.replyBody (ecRequest r.f) ⟨10, []⟩))

/-- A good OPEN of an enabled principal, with room in the table, adds one half-open session with the next id, the
principal and the client's address and port. A good CONFIRM with sequence 0 of a half-open session opens it. A good
CLOSE ends the session it names, as do HALF_OPEN_TIMEOUT for a half-open one and IDLE_TIMEOUT for an open one.
BLOCK_TIMEOUT frees the frozen copy that it names, or discards the staging copy of the session. A NOTIFY of a
subscription that is due and within the rate sends a frame to the client and counts against the second's rate. -/
def Obligations.SessionsOpenConfirmAndEnd : Prop :=
  (∀ (s : State) (r : Rx), s.Canon → s.ecServed = true → s.ecCause r = 0 → fld r.f 3 1 = 1 → s.rd (0x1100_03 + 256 * fld r.f 16 1) = 1 →
      s.server.sessions.length < s.rd 0x1001_03 → ∃ t x, exec (.open_ r) s = .next t ∧ t.server.sessions = s.server.sessions ++ [x] ∧
        x.st = 1 ∧ x.id = s.server.nextId ∧ x.principal = fld r.f 16 1 ∧ x.addr = r.addr ∧ x.port = r.port) ∧
    (∀ (s : State) (r : Rx) (x : Session), s.Canon → s.ecServed = true → s.ecCause r = 0 → fld r.f 3 1 = 3 →
      s.server.sessions.find? (·.id = fld r.f 4 4) = some x → x.st = 1 → fld r.f 8 4 = 0 → ∃ t, exec (.confirm r) s = .next t ∧
        t.server.sessions = mapWhere (fun y => y.id == x.id) (fun y => { y with st := 2 }) s.server.sessions) ∧
    (∀ (s : State) (r : Rx) (x : Session), s.Canon → s.ecServed = true → s.ecCause r = 0 → fld r.f 3 1 = 8 →
      s.server.sessions.find? (·.id = fld r.f 4 4) = some x → ∃ t, exec (.close r) s = .next t ∧
        t.server.sessions = s.server.sessions.filter (·.id ≠ x.id)) ∧
    (∀ (s : State) (id : Nat), s.up = true →
      (s.server.sessions.any (fun x => x.id == id && x.st == 1) = true → ∃ t, exec (.halfOpenTimeout id) s = .next t ∧ t.server.sessions = s.server.sessions.filter (·.id ≠ id)) ∧
      (s.server.sessions.any (fun x => x.id == id && x.st == 2) = true → ∃ t, exec (.idleTimeout id) s = .next t ∧ t.server.sessions = s.server.sessions.filter (·.id ≠ id))) ∧
    (∀ (s : State) (sess k : Nat), s.up = true →
      (∃ t, exec (.blockTimeout sess k true) s = .next t ∧ t.frozenOf sess k = none) ∧
      (∃ t, exec (.blockTimeout sess k false) s = .next t ∧ ∀ c ∈ t.server.staging, ¬ (c.sess = sess ∧ c.key = k))) ∧
    ∀ (s : State) (sess k : Nat) (x : Session) (b : Subscription), s.Canon → s.ecServed = true → s.flushing = false →
      s.server.sessions.find? (fun y => y.id == sess && y.st == 2) = some x → s.server.subs.find? (fun y => y.sess == sess && y.key == k) = some b →
      ¬ (b.mode = 1 ∧ s.changeOf k = b.seen) → (if s.server.notified.1 = s.now / 1000000000 then s.server.notified.2 else 0) < s.rd 0x1001_07 →
      ∃ t, exec (.notify sess k) s = .next t ∧ (∃ fr ∈ t.tx.drop s.tx.length, fr.dst = x.addr ∧ fr.port = x.port) ∧
        t.server.notified.2 = (if s.server.notified.1 = s.now / 1000000000 then s.server.notified.2 else 0) + 1

/-- VRESET_N_ASSERT on a device that is not OFF leaves it OFF with the reset cause 1, and keeps the waiting commands, the
fuses and the build, the other sticky registers, host memory with its poison marks, storage, the frames and C-port
responses handed over, the draws, the test port, and of the S-ports the responses given and the grant; all the rest of
the state is at its default, so that every scalar object but 0x1200.01 reads its reset value. While OFF it does
nothing. RAILS_FALL leaves the device OFF with only the waiting commands, the fuses and the build, storage, the frames
handed over, the draws and the idcode in the test data register; all the rest, with the sticky registers and host
memory, is at its default. -/
def Obligations.ResetPinAndRails : Prop :=
  (∀ s : State, s.dev ≠ 0 → ∃ t, exec .vresetNAssert s = .next t ∧ t.dev = 0 ∧ (∀ x, x ≠ 0x1200_01 → t.rd x = dfltOf x) ∧
      t = { pending := s.pending, hw := s.hw, sticky := { s.sticky with cause := 1 }, mem := s.mem, poison := s.poison, flash := s.flash,
            tx := s.tx, cOut := s.cOut, draws := s.draws, tap := s.tap, sport := { resp := s.sport.resp, grant := s.sport.grant }
            dict := [(0x1200_01, 0)] }) ∧
    (∀ s : State, s.dev = 0 → exec .vresetNAssert s = .next s) ∧
    ∀ s : State, ∃ t, exec .railsFall s = .next t ∧ t.dev = 0 ∧ (∀ x, x ≠ 0x1200_01 → t.rd x = dfltOf x) ∧
      t = { pending := s.pending, hw := s.hw, flash := s.flash, tx := s.tx, draws := s.draws, tap := { dr := s.idcode }
            dict := [(0x1200_01, 0)] }

/-- VRESET_N_RELEASE on a device that is OFF: DEBUG_LOCK reads 1 when any of its three copies is blown, a SLICE_DISABLE
bit when either of its two is; bits 0 and 1 of 0x7F00.04 are set exactly where the copies of DEBUG_LOCK, or those of
SLICE_DISABLE at a built slice, disagree; each sideband pair has the status given for it; the device enters SELFTEST
with cause 0; the sticky registers, storage, host memory and the test port stay. On a device that is not OFF it does
nothing. -/
def Obligations.ReleaseReadsFusesAndEntersSelfTest : Prop :=
  (∀ (s : State) (ps : List Nat), s.Canon → s.dev = 0 → ∃ t, exec (.vresetNRelease ps) s = .next t ∧ t.dev = 1 ∧ t.rd 0x1200_03 = 0 ∧
      t.rd 0x7F00_01 = (if s.hw.debugCopies % 8 = 0 then 0 else 1) ∧ t.rd 0x7F00_02 = (s.hw.disableA ||| s.hw.disableB) % 2 ^ 32 ∧
      ((t.rd 0x7F00_04).testBit 0 = true ↔ s.hw.debugCopies % 8 ≠ 0 ∧ s.hw.debugCopies % 8 ≠ 7) ∧
      ((t.rd 0x7F00_04).testBit 1 = true ↔ s.hw.disableA % 2 ^ s.hw.slices ≠ s.hw.disableB % 2 ^ s.hw.slices) ∧
      (∀ i < 7, t.rd (pairKey (i + 1)) = ps.getD i 0 % 32) ∧ t.sticky = s.sticky ∧ t.flash = s.flash ∧ t.mem = s.mem ∧ t.tap = s.tap) ∧
    ∀ (s : State) (ps : List Nat), s.dev ≠ 0 → exec (.vresetNRelease ps) s = .next s

/-- SELF_TEST_COMPLETE outside SELFTEST does nothing. In SELFTEST, on a boot that is no trial (no trial mark in the boot
record, or test 11, the boot record, failed), the device ends in SAFE or IDLE, in SAFE where one of the tests 0, 2 to
6 and 8 to 11 has failed; the sticky freeze flag, time and count of refused uses are cleared and the reset cause
stays; storage, fuses and the test port stay. On a trial boot with one of the tests 0, 2 to 6 and 8 to 10 failed, the
next state is the fallback of a trial (State.fallback). -/
def Obligations.SelfTestEnds : Prop :=
  ∀ (s : State) (fails : List (Nat × Nat)) (us out : Nat) (mhz : List Nat) (hard : List (Nat × Nat × Nat)),
    (s.dev ≠ 1 → exec (.selfTestComplete fails us out mhz hard) s = .next s) ∧
      (s.Canon → s.dev = 1 → (fails.any (·.1 = 11) = true ∨ (bootRecord s.flash).2.1 = false) →
        ∃ t, exec (.selfTestComplete fails us out mhz hard) s = .next t ∧ (t.dev = 2 ∨ t.dev = 3) ∧
          ((∃ x ∈ fails, x.1 ∈ [0, 2, 3, 4, 5, 6, 8, 9, 10, 11]) → t.dev = 2) ∧ t.sticky = { cause := s.sticky.cause } ∧ t.flash = s.flash ∧ t.hw = s.hw ∧ t.tap = s.tap) ∧
      (s.dev = 1 → fails.any (·.1 = 11) = false → (bootRecord s.flash).2.1 = true → (∃ x ∈ fails, x.1 ∈ [0, 2, 3, 4, 5, 6, 8, 9, 10]) →
        exec (.selfTestComplete fails us out mhz hard) s = .next s.fallback)

/-- WATCHDOG_EXPIRY on a running device marks that state writes stop, that the watchdog has expired and that the unit has
failed, completes the held writes with errors, sends Suspect of itself with cause 3 where it has a membership and a
heartbeat where it is paired, and sets the reset cause to 2. WATCHDOG_RESET without an expiry does nothing; after one
it resets the block into SELFTEST with the sticky registers, storage and host memory kept and no session; where
0x7004.04 shows a trial image, the boot record in storage then names the other slot without a trial mark and the cause
is 3. -/
def Obligations.WatchdogStopsThenResets : Prop :=
  (∀ s : State, s.up = true →
      let a := ((s.modSensors fun x => { x with noWrites := true, watchdog := true }).modTwin fun t => { t with failed := true })
      let b := a.sport.held.foldl (fun s h => s.answer h.req 1 0 []) (a.modSPort fun p => { p with held := [] })
      let c := if b.member.members.isEmpty then b else b.sendSuspect b.own 3
      let d := if c.paired then c.sendBeat else c
      Ends .watchdogExpiry s (d.modSticky fun x => { x with cause := 2 }) ∧
        ∃ t, exec .watchdogExpiry s = .next t ∧ t.sensors.noWrites = true ∧ t.sensors.watchdog = true ∧ t.twin.failed = true ∧ t.sticky = { s.sticky with cause := 2 }) ∧
    (∀ s : State, s.up = true → s.sensors.watchdog = false → exec .watchdogReset s = .next s) ∧
    (∀ s : State, s.Canon → s.up = true → s.sensors.watchdog = true → s.rd 0x7004_04 ≠ 1 → ∃ t, exec .watchdogReset s = .next t ∧ t.dev = 1 ∧ t.sticky = s.sticky ∧
      t.flash = s.flash ∧ t.mem = s.mem ∧ t.server.sessions = []) ∧
    ∀ s : State, s.Canon → s.up = true → s.sensors.watchdog = true → s.rd 0x7004_04 = 1 → ∃ t, exec .watchdogReset s = .next t ∧ t.dev = 1 ∧
      t.sticky = { s.sticky with cause := 3 } ∧ t.mem = s.mem ∧ t.server.sessions = [] ∧
      t.flash = Sparse.putBytes s.flash (2048 * 4096) (bootBytes (1 - (bootRecord s.flash).1) 0 (bootRecord s.flash).2.2)

/-- A TIME_STROBE while TIMELOCK reads 1 sets the hub timer to its value, shows no missing strobe and no holdover, and,
while coding is OFF, makes the epoch number that of the time (R16); while TIMELOCK reads 0 the timer, the epoch number
and the timebase status stand. TIME_STROBE_MISSING shows 1 in 0x7100.08 and takes a locked timebase into holdover.
TIMELOCK_CHANGE sets the accepted value of pair 6, unless it is in fault; a change to 0 takes a locked timebase into
holdover. STEPMARK_LEVEL_ZERO accepts a 0 of pair 4 and ends the wait for one. HOLDOVER_LIMIT_EXPIRY on a running
device in holdover sets 0x3180.04 to 2 and counts it in 0x8318.03; coding that is ON goes into DRAINING, and a device
in MEMBER goes into DRAINING with it. Without holdover it does nothing but settle the stalls. -/
def Obligations.TimeInputSetsTheTimer : Prop :=
  ((∀ (s : State) (v : Nat), s.Canon → s.up = true → s.pairValue 6 = true → ∃ t, exec (.timeStrobe v) s = .next t ∧ t.now = v % 2 ^ 64 ∧
      t.clock.lastLocked = v % 2 ^ 64 ∧ t.clock.lastStrobe = v % 2 ^ 64 ∧ t.rd 0x7100_08 = 0 ∧ t.rd 0x3180_04 = 0 ∧
      t.epoch = if s.coding then s.epoch else (v % 2 ^ 64 - s.rd 0x3180_02) / max 1 (s.rd 0x3180_01)) ∧
    (∀ (s : State) (v : Nat), s.Canon → s.up = true → s.pairValue 6 = false → ∃ t, exec (.timeStrobe v) s = .next t ∧ t.now = s.now ∧
      t.clock.lastStrobe = v % 2 ^ 64 ∧ t.rd 0x7100_08 = 0 ∧ t.rd 0x3180_04 = s.rd 0x3180_04 ∧ t.epoch = s.epoch) ∧
    (∀ s : State, s.Canon → s.up = true → s.rd 0x7100_08 ≠ 1 → ∃ t, exec .timeStrobeMissing s = .next t ∧ t.rd 0x7100_08 = 1 ∧
      t.rd 0x3180_04 = (if s.rd 0x3180_04 = 0 then 1 else s.rd 0x3180_04)) ∧
    (∀ (s : State) (v : Bool), s.Canon → s.up = true → s.pairFault 6 = false → ∃ t, exec (.timelockChange v) s = .next t ∧ t.pairValue 6 = v ∧
      t.rd 0x3180_04 = (if v = false ∧ s.rd 0x3180_04 = 0 then 1 else s.rd 0x3180_04)) ∧
    ∀ s : State, s.Canon → s.up = true → s.pairFault 4 = false → ∃ t, exec .stepmarkLevelZero s = .next t ∧ t.pairValue 4 = false ∧ t.sensors.markHeld = false) ∧
  ((∀ s : State, s.Canon → s.up = true → s.rd 0x3180_04 = 1 → ∃ t, exec .holdoverLimitExpiry s = .next t ∧ t.rd 0x3180_04 = 2 ∧
      t.rd 0x8318_03 = min (s.rd 0x8318_03 + 1) (objMax 0x8318_03) ∧ (s.fn .coding = 2 → t.fn .coding = 3 ∧ (s.dev = 5 → t.dev = 6))) ∧
    ∀ s : State, s.up = true → s.rd 0x3180_04 ≠ 1 → Ends .holdoverLimitExpiry s s)

/-- EPOCH_TICK on a running device raises the epoch number by 1 and brings the hub timer at least to the instant of the
tick. Where the block serves, the pass may then write again with an empty budget count, and the next state is that of
these operations of the model in this order: tickWindow, tickWatermarks and sealSnap of the ended epoch, tickRush,
tickOverrun, pump, advance, drainHeld, flushCheck and judgeReadies. STEP_MARK, a change of the accepted value of pair
4 from 0 to 1 with no 0 awaited: outside MEMBER it is counted in 0x8318.04 and leaves the step; in MEMBER with member
status 2, with a pass not armed it leaves the step, and armed it runs takeMark, redMark, touchMark, routeMarks of the
new step and drainHeld. With a 0 awaited, it sets only the accepted value. -/
def Obligations.EpochTicksAndStepMarks : Prop :=
  (∀ s : State, s.Canon → s.up = true → s.serving = false → Ends .epochTick s s.tickService.tickTime) ∧
    (∀ s : State, s.Canon → s.serving = true →
      Ends .epochTick s
        ((((((s.tickService.tickTime.modPass fun p => { p with ticked := true, full := false, charged := 0 }).tickWindow.tickWatermarks s.epoch).sealSnap s.epoch).tickRush.tickOverrun.pump.advance).drainHeld).flushCheck.judgeReadies)) ∧
    (∀ s : State, s.Canon → s.tickService.tickTime.epoch = s.epoch + 1 ∧ s.rd 0x3180_02 + (s.epoch + 1) * s.rd 0x3180_01 ≤ s.tickService.tickTime.now ∧ s.now ≤ s.tickService.tickTime.now) ∧
    (∀ s : State, s.Canon → s.up = true → s.pairFault 4 = false → s.pairValue 4 = false → s.sensors.markHeld = false →
      Ends .stepMark s ((s.setPair 4 true).mark.judgeReadies) ∧
        (s.dev ≠ 5 → (s.setPair 4 true).mark.step = s.step ∧ (s.setPair 4 true).mark.rd 0x8318_04 = min (s.rd 0x8318_04 + 1) (objMax 0x8318_04)) ∧
        (s.dev = 5 → s.rd 0x3200_02 = 2 → s.pass.armed = false → (s.setPair 4 true).mark.step = s.step) ∧
        (s.dev = 5 → s.rd 0x3200_02 = 2 → s.pass.armed = true →
          (s.setPair 4 true).mark = (((s.setPair 4 true).takeMark.redMark.touchMark).routeMarks ((s.setPair 4 true).takeMark.redMark.touchMark).step).drainHeld)) ∧
    ∀ s : State, s.up = true → s.pairFault 4 = false → s.pairValue 4 = false → s.sensors.markHeld = true → Ends .stepMark s (s.setPair 4 true)

/-- FEEDWARN_CHANGE on pad 1 or 2 that is not in fault sets the accepted value of the pair and its bit of the feed status
0x7002.03, and the debounce runs exactly while the condition of the mode 0x7002.01 holds on that status: of feed A, of
either, of both. FEED_DECLARED after a debounce sets bit 2 of the status, the time and the count, reports event
0x7006, and begins the flush where State.flushes holds; else it writes the tail of the log and sends it. Without a
debounce, or with bit 2 set, it only settles the stalls. THERMAL_SAMPLE judges every sensor and shows the readings
(State.sample). The judgement of one sensor: above the warning threshold it is warm and above the trip threshold it
has tripped; a sensor that becomes warm is counted in 0x8700.05, and no sensor's judgement changes another's.
DROOP_LIMIT of an active slice adds its events to the count 0x8700.06, and reports event 0x7005 when they exceed the
limit 0x7001.04; of a slice that is mapped out it does nothing. -/
def Obligations.FeedsFlushInTime : Prop :=
  ((∀ (s : State) (pad : Nat) (v : Bool), s.up = true → pad = 1 ∨ pad = 2 → s.pairFault pad = false →
      let u := (s.setPair pad v).feedBit (pad - 1) v
      Ends (.feedwarnChange pad v) s (u.modSensors fun x => { x with debouncing := u.feedWarns })) ∧
    (∀ s : State, s.up = true → s.sensors.debouncing = true → (s.rd 0x7002_03).testBit 2 = false →
      let u := (((s.feedBit 2 true).wr 0x7002_04 s.now).inc 0x8700_07)
      let w := u.ev 0x7006 (be 1 (u.rd 0x7002_03) ++ be 1 u.dev)
      Ends .feedDeclared s (if w.flushes then w.startFlush else w.writeLogTail.sendTail)) ∧
    (∀ s : State, s.up = true → s.sensors.debouncing = false ∨ (s.rd 0x7002_03).testBit 2 = true → Ends .feedDeclared s s) ∧
    ∀ s : State, s.Canon → (s.rd 0x7002_01 = 0 → (s.feedWarns = (s.rd 0x7002_03).testBit 0)) ∧
      (s.rd 0x7002_01 = 1 → s.feedWarns = ((s.rd 0x7002_03).testBit 0 || (s.rd 0x7002_03).testBit 1)) ∧
      (s.rd 0x7002_01 = 2 → s.feedWarns = ((s.rd 0x7002_03).testBit 0 && (s.rd 0x7002_03).testBit 1))) ∧
  ((∀ (s : State) (ts : List Int), s.up = true → Ends (.thermalSample ts) s (s.sample ts)) ∧
    (∀ (s : State) (n m : Nat) (x : Int), (m ≠ n → (m ∈ (s.judgeSensor n x).sensors.warm ↔ m ∈ s.sensors.warm) ∧ (m ∈ (s.judgeSensor n x).sensors.tripped ↔ m ∈ s.sensors.tripped)) ∧
      (n ∈ (s.judgeSensor n x).sensors.warm ↔ x > sgn 32 (s.rd 0x7001_02)) ∧ (n ∈ (s.judgeSensor n x).sensors.tripped ↔ x > sgn 32 (s.rd 0x7001_03)) ∧
      (s.Canon → (s.judgeSensor n x).rd 0x8700_05 =
        if x > sgn 32 (s.rd 0x7001_02) ∧ n ∉ s.sensors.warm then min (s.rd 0x8700_05 + 1) (objMax 0x8700_05) else s.rd 0x8700_05)) ∧
    (∀ (s : State) (n count : Nat), n < s.hw.slices → s.active n = false → exec (.droopLimit n count) s = .next s) ∧
    ∀ (s : State) (n count : Nat), n < s.hw.slices → s.active n = true → s.up = true → exec (.droopLimit n count) s =
      .next (if count > (s.incBy 0x8700_06 count).rd 0x7001_04 then (s.incBy 0x8700_06 count).ev 0x7005 (be 1 n ++ be 2 count) else s.incBy 0x8700_06 count))

/-- CLOCK_LOST_LOCK of domain D0 to D31 fails the unit with event 0x7104 where the slice is active, and else only settles
the stalls; of D32 to D34, D37 and D38 it fails the unit with event 0x7104; of D35 it stops the C-port; of D36, with
the F-port running, it clears bit 33 of 0x7100.06, reports 0x7104 and stops the F-port. PORT_CLOCK_RESUME of D35 or
D36 ends the stop of the port. SIDEBAND_WIRE_FAULT on a pair that is not in fault shows the code, after which the pair
reads 0; on pair 4 a 0 is then awaited, and on pair 6 a locked timebase is in holdover. SIDEBAND_PAIR_RECOVERED clears
the status of a pair in fault. RESERVED_KIND_FRAME changes nothing at all; CHECKSUM_ERROR_DATAGRAM is counted in
0x8710.0A. -/
def Obligations.ClocksAndSideband : Prop :=
  (∀ (s : State) (d : Nat), s.up = true → (d < 32 → Ends (.clockLostLock d) s (if s.active d then s.unitFailed 0x7104 d else s)) ∧
      (32 ≤ d → d ≤ 38 → d ≠ 35 → d ≠ 36 → Ends (.clockLostLock d) s (s.unitFailed 0x7104 0xFF)) ∧
      (d = 35 → ∃ t, exec (.clockLostLock d) s = .next t ∧ t.sensors.cStopped = true) ∧ (d = 36 → s.sensors.fStopped = false → Ends (.clockLostLock d) s (((s.portBit 33 false).ev 0x7104 (be 1 d)).stopFPort)) ∧
      (d = 35 → ∃ t, exec (.portClockResume 35) s = .next t ∧ t.sensors.cStopped = false) ∧ (d = 36 → ∃ t, exec (.portClockResume 36) s = .next t ∧ t.sensors.fStopped = false)) ∧
    (∀ (s : State) (p c : Nat), s.Canon → s.up = true → 1 ≤ p → p ≤ 7 → 1 ≤ c → c ≤ 8 → s.pairFault p = false → ∃ t, exec (.sidebandWireFault p c) s = .next t ∧
      t.rd (pairKey p) = c ∧ t.pairValue p = false ∧ (p = 4 → t.sensors.markHeld = true) ∧ (p = 6 → s.rd 0x3180_04 = 0 → t.rd 0x3180_04 = 1)) ∧
    (∀ (s : State) (p : Nat), s.Canon → s.up = true → 1 ≤ p → p ≤ 7 → s.pairFault p = true → ∃ t, exec (.sidebandPairRecovered p) s = .next t ∧ t.rd (pairKey p) = 0) ∧
    (∀ (s : State) (r : Rx), exec (.reservedKindFrame r) s = .next s) ∧
    ∀ (s : State) (r : Rx), s.up = true → Ends (.checksumErrorDatagram r) s (s.inc 0x8710_0A)

/-- F_PORT_COMPLETION of no open command, changes nothing. With the F-port running and outside FROZEN: a completion with
status 0 takes the command away, stores the blocks of a write, and does what follows for its use (State.fDone with
true), and storage is then exactly that; a first error is counted and marks the command to go again; an error of the
repeat takes the command away, is counted and reported as event 0x3304, and does what follows a failed command (fDone
with false). In FROZEN a write that ends well is stored and its command goes, and nothing else changes. -/
def Obligations.StorageCommandsComplete : Prop :=
  (∀ (s : State) (g st : Nat), s.fOpen.find? (·.tag = g) = none → exec (.fPortCompletion g st) s = .next s) ∧
    ∀ (s : State) (g st : Nat) (c : FCmd), s.fOpen.find? (·.tag = g) = some c → s.sensors.fStopped = false →
      (s.dev ≠ 8 → st % 256 = 0 →
        let u : State := { s with fOut := s.fOut.filter (· ≠ c), flash := if c.write then Sparse.putBytes s.flash (4096 * c.lba) c.data else s.flash }
        Ends (.fPortCompletion g st) s (u.fDone c true) ∧ (u.fDone c true).settle.flash = u.flash) ∧
      (s.dev ≠ 8 → st % 256 ≠ 0 → c.again = false → Ends (.fPortCompletion g st) s
        { s.inc 0x8710_0B with fOut := mapWhere (fun x => decide (x = c)) (fun x => { x with again := true }) s.fOut }) ∧
      (s.dev ≠ 8 → st % 256 ≠ 0 → c.again = true →
        let u : State := { s.inc 0x8710_0B with fOut := s.fOut.filter (· ≠ c) }
        Ends (.fPortCompletion g st) s ((u.evHub 0x3304 (be 8 c.lba ++ be 1 (st % 256))).fDone c false)) ∧
      (s.dev = 8 → st % 256 = 0 → c.write = true → exec (.fPortCompletion g st) s =
        .next { s with fOut := s.fOut.filter (· ≠ c), flash := Sparse.putBytes s.flash (4096 * c.lba) c.data })

/-- OFFER_REPEAT: the pairing unit with the lower id sends an Offer. OFFER of the configured twin to a pairing unit keeps
the sender's incarnation and sends an Accept. TWIN_ACCEPT with a verdict other than 0 ends the pairing with that
refusal; with verdict 0, no reason of the own against it and the twin reserve taken, it shows status 2, enters PAIRED
and sends a Confirm. TWIN_CONFIRM that names the own incarnation, with the twin reserve taken, shows status 2 and
enters PAIRED. PAIR_TIMEOUT of a pairing unit refuses with reason 7. HEARTBEAT_TIMER of a paired unit sends its
heartbeat (State.sendBeat); HEARTBEAT without the mismatch flag keeps the partner's latest. TWIN_SILENCE at status 2
shows status 3 and the mirrors as silent (2). LOG_MIRROR takes the mirrored records (State.takeLogMirror), of one
record that one as the newest. UNPAIR_FRAME of the partner leaves status 0, no mirrored journal records and no twin
record but the own incarnation. Each frame is of its own kind, from the configured twin and of the own job. -/
def Obligations.TwinsPairAndPart : Prop :=
  (∀ s : State, s.serving = true → s.pairing = true → s.own < s.rd 0x7005_01 → Ends .offerRepeat s (s.sendTwin 0x80 0 (s.offerBody 0))) ∧
    (∀ (s : State) (r : Rx), s.serving = true → frameKind r = 0x80 → (s.ce r).fromTwin r.f = true → (s.ce r).pairing = true →
      ∃ t, exec (.offer r) s = .next t ∧ t.twin.partner = fld r.f 36 4 ∧ ∃ fr ∈ t.tx.drop s.tx.length, fr.f.take 1 = be 1 0x81) ∧
    (∀ (s : State) (r : Rx), s.Canon → s.serving = true → frameKind r = 0x81 → (s.ce r).fromTwin r.f = true → (s.ce r).pairing = true → fld r.f 19 1 ≠ 0 →
      ∃ t, exec (.twinAccept r) s = .next t ∧ t.rd 0x7005_08 = 4 ∧ t.rd 0x7005_09 = fld r.f 19 1) ∧
    (∀ (s u : State) (r : Rx), s.Canon → s.serving = true → frameKind r = 0x81 → (s.ce r).fromTwin r.f = true → (s.ce r).pairing = true → fld r.f 19 1 = 0 →
      (s.ce r).pairReason r.f = 0 → ((s.ce r).modTwin fun x => { x with partner := fld r.f 36 4 }).takeTwinReserve = (true, u) →
      ∃ t, exec (.twinAccept r) s = .next t ∧ t.rd 0x7005_08 = 2 ∧ t.dev = 4 ∧ ∃ fr ∈ t.tx.drop s.tx.length, fr.f.take 1 = be 1 0x82) ∧
    (∀ (s : State) (r : Rx), s.Canon → s.serving = true → frameKind r = 0x82 → (s.ce r).fromTwin r.f = true → (s.ce r).pairing = true →
      (s.ce r).reserve 9 ≠ 0 → fld r.f 16 4 = s.twin.incarnation →
      ∃ t, exec (.twinConfirm r) s = .next t ∧ t.rd 0x7005_08 = 2 ∧ t.rd 0x3203_06 = 1 ∧ t.dev = 4) ∧
    (∀ s : State, s.Canon → s.serving = true → s.pairing = true → ∃ t, exec .pairTimeout s = .next t ∧ t.rd 0x7005_08 = 4 ∧ t.rd 0x7005_09 = 7) ∧
    (∀ s : State, s.serving = true → s.paired = true → Ends .heartbeatTimer s s.sendBeat) ∧
    (∀ (s : State) (r : Rx), s.serving = true → frameKind r = 0x83 → (s.ce r).fromTwin r.f = true → (s.ce r).paired = true → (fld r.f 16 1).testBit 2 = false →
      ∃ t, exec (.heartbeat r) s = .next t ∧ t.twin.beat = some (r.f.drop 16)) ∧
    (∀ s : State, s.Canon → s.serving = true → s.rd 0x7005_08 = 2 → ∃ t, exec .twinSilence s = .next t ∧ t.rd 0x7005_08 = 3 ∧ t.rd 0x3203_06 = 2 ∧ t.rd 0x7003_07 = 2) ∧
    (∀ (s : State) (r : Rx), s.serving = true → frameKind r = 0x84 → (s.ce r).fromTwin r.f = true → (s.ce r).paired = true →
      Ends (.logMirror r) s ((s.ce r).takeLogMirror r.f) ∧
      (fld r.f 24 2 = 1 → ((s.ce r).takeLogMirror r.f).log.twin.head? = some (readRec (slice r.f 32 64)))) ∧
    ∀ (s : State) (r : Rx), s.Canon → s.serving = true → frameKind r = 0x85 → (s.ce r).fromTwin r.f = true → (s.ce r).paired = true →
      ∃ t, exec (.unpairFrame r) s = .next t ∧ t.rd 0x7005_08 = 0 ∧ t.member.mirror = [] ∧ t.twin = { incarnation := s.twin.incarnation }

/-- FREEZE on a running device whose freeze pair is not in fault enters FROZEN, sets the sticky freeze flag and the time
of the instant, ends every session, block write and subscription, and hands no frame, storage command or C-port word
over. No write is held any longer, no request that a slice serves is left at the controllers, and storage, host
memory, the fuses and the build stay. While the pair is in fault, or the device does not run, it does nothing. -/
def Obligations.FreezeStopsAndAnswers : Prop :=
  (∀ (s : State) (b : Nat), s.Canon → s.up = true → s.pairFault 3 = false → ∃ t, exec (.freeze b) s = .next t ∧ t.dev = 8 ∧ t.sticky = { s.sticky with frozen := true, freezeTime := s.now } ∧
      t.tx = s.tx ∧ t.fOut = s.fOut ∧ t.cOut = s.cOut ∧ t.server.sessions = [] ∧ t.server.staging = [] ∧ t.server.subs = [] ∧ t.sport.held = [] ∧
      (∀ x ∈ t.sport.ctrl, x.served = false) ∧ t.flash = s.flash ∧ t.mem = s.mem ∧ t.hw = s.hw) ∧
    ∀ (s : State) (b : Nat), s.up = false ∨ s.pairFault 3 = true → exec (.freeze b) s = .next s

/-- TEST_LOGIC_RESET and IDCODE load the identification code; the first also closes the network. SAMPLE_PRELOAD captures
the pads and leaves the shifted value in the boundary register, and changes nothing else but the draws. While the
reset pin is asserted or the device is FROZEN, EXTEST does so too, EXTEST and CLAMP then drive the pads from the
boundary register and HIGHZ sets them to high impedance; at any other time EXTEST, CLAMP and HIGHZ act as BYPASS,
leave the boundary register, and are counted in 0x87F0.02. IJTAG opens exactly the named segments among those of the
hub, the groom and the built slices. SCAN without the lock captures a free value in FROZEN and acts as BYPASS outside
it; under the lock it runs the refusal of the lock (State.lockRefuses) and captures 0. BYPASS, and an unlisted code,
acts as BYPASS. -/
def Obligations.TestPortInstructions : Prop :=
  ∀ s : State, exec .idcode s = .next (s.loadTap 0x01 s.idcode) ∧
    exec .testLogicReset s = .next ((s.loadTap 0x01 s.idcode).modTap fun p => { p with sibs := 0, readAddr := [] }) ∧
    (∀ x, ∃ t, exec (.samplePreload x) s = .next t ∧ t.tap = { s.tap with ir := 0x02, dr := Config.pads s.draws, boundary := x } ∧ t.draws = s.draws + 1 ∧ t = { s with tap := t.tap, draws := t.draws }) ∧
    (s.padsFree = true → (∀ x, ∃ t, exec (.extest x) s = .next t ∧ t.tap = { s.tap with ir := 0x03, dr := Config.pads s.draws, boundary := x } ∧ t.padDrive = .boundary ∧ t = { s with tap := t.tap, draws := t.draws }) ∧
      (∃ t, exec .clamp s = .next t ∧ t.padDrive = .boundary ∧ t = { s with tap := t.tap }) ∧ ∃ t, exec .highz s = .next t ∧ t.padDrive = .highImpedance ∧ t = { s with tap := t.tap }) ∧
    (s.padsFree = false → s.Canon → ∀ c, c = .clamp ∨ c = .highz ∨ (∃ x, c = .extest x) → ∃ t, exec c s = .next t ∧ t.tapActs = 0xFF ∧ t.tap.boundary = s.tap.boundary ∧
      t.rd 0x87F0_02 = min (s.rd 0x87F0_02 + 1) (objMax 0x87F0_02) ∧ t = { s with tap := t.tap, dict := t.dict }) ∧
    (∀ x, ∃ t, exec (.ijtag x) s = .next t ∧ t.tap.ir = 0x10 ∧ (∀ i, t.tap.sibs.testBit i = (decide (i < 2 + s.hw.slices) && x.testBit i)) ∧ t = { s with tap := t.tap }) ∧
    (s.locked = false → s.dev = 8 → ∃ t, exec .scan s = .next t ∧ t.tap.dr = Config.freeValue s.draws ∧ t.tapActs = 0x11) ∧
    (s.locked = false → s.dev ≠ 8 → exec .scan s = .next (s.loadTap 0x11 0) ∧ (s.loadTap 0x11 0).tapActs = 0xFF) ∧
    (s.locked = true → exec .scan s = .next ((s.lockRefuses 0x11).loadTap 0x11 0)) ∧
    ∀ x, ∃ t, exec (.bypass x) s = .next t ∧ t.tapActs = 0xFF ∧ t.tap.dr = 0 ∧ t = { s with tap := t.tap }

/-- An instrument of a segment that is not open, or while the network is not selected, changes nothing. Through an open
one: FREEZE_STATUS and FUSE_READER capture always. In FROZEN, without the lock, of a slice that is not mapped out,
SRAM_READOUT captures the row and REGISTER_CAPTURE the flops; outside FROZEN or of a slice mapped out they capture
zeros; under the lock in FROZEN they capture zeros and the use is counted. MEMORY_BIST in FROZEN gives its pass bits,
withholds the spare counts under the lock, and leaves no poison mark on a row of its memories; without the lock
outside FROZEN it captures 0. FUSE_PROGRAMMER blows one copy in FROZEN with the rail supplied, under the lock of a
SLICE_DISABLE fuse alone, and changes nothing where fewer slices than 0x7F00.07 would stay active, outside FROZEN, or
without the rail. -/
def Obligations.InstrumentsCaptureOnlyWhenTheyMay : Prop :=
  ∀ s : State, (∀ c, (c = .freezeStatus ∨ c = .fuseReader ∨ (∃ f n r, c = .fuseProgrammer f n r)) → s.tap.ir ≠ 0x10 ∨ s.tap.sibs.testBit 0 = false → exec c s = .next s) ∧
    (∀ g c, (c = .registerCapture g ∨ (∃ a, c = .sramReadout g a) ∨ (∃ p n, c = .memoryBist g p n)) → g < 2 + s.hw.slices → s.tap.ir ≠ 0x10 ∨ s.tap.sibs.testBit g = false → exec c s = .next s) ∧
    (s.tap.ir = 0x10 → s.tap.sibs.testBit 0 = true →
      (∃ t, exec .freezeStatus s = .next t ∧ t.tap.dr = (if s.sticky.frozen then 1 else 0) + s.sticky.freezeTime * 2 + s.sticky.refused * 2 ^ 65 ∧ t = { s with tap := t.tap }) ∧
      (∃ t, exec .fuseReader s = .next t ∧ t.tap.dr = s.hw.debugCopies % 8 + s.hw.disableA % 2 ^ 32 * 2 ^ 3 + s.hw.disableB % 2 ^ 32 * 2 ^ 35 + s.hw.serial % 2 ^ 128 * 2 ^ 67 ∧ t = { s with tap := t.tap }) ∧
      (∀ f n, s.dev = 8 → (s.locked = true → 1 ≤ f ∧ f ≤ 32) → (1 ≤ f → f ≤ 32 → s.rd 0x7F00_07 ≤ (blowFuse f n s.hw).activeAfter) →
        exec (.fuseProgrammer f n true) s = .next { s with hw := blowFuse f n s.hw }) ∧
      (∀ f n r, 1 ≤ f → f ≤ 32 → (blowFuse f n s.hw).activeAfter < s.rd 0x7F00_07 → exec (.fuseProgrammer f n r) s = .next s) ∧
      (∀ f n r, s.locked = true → f = 0 ∨ 32 < f → exec (.fuseProgrammer f n r) s = .next (s.lockRefuses 0x82)) ∧
      (∀ f n, s.dev ≠ 8 → s.locked = false → exec (.fuseProgrammer f n true) s = .next s) ∧ (∀ f n, s.locked = false → exec (.fuseProgrammer f n false) s = .next s)) ∧
    ∀ g, g < 2 + s.hw.slices → s.tap.ir = 0x10 → s.tap.sibs.testBit g = true →
      (∀ a, s.dev = 8 → s.locked = false → s.mappedOut g = false → ∃ t, exec (.sramReadout g a) s = .next t ∧ t.tap.dr = s.rawRow (a % 2 ^ 48 / 65536 * 65536 + a % 8192) ∧ t = { s with tap := t.tap }) ∧
      (∀ a, s.dev ≠ 8 ∨ s.mappedOut g = true → s.locked = false → ∃ t, exec (.sramReadout g a) s = .next t ∧ t.tap.dr = 0 ∧ t = { s with tap := t.tap }) ∧
      (s.dev = 8 → s.locked = false → s.mappedOut g = false → ∃ t, exec (.registerCapture g) s = .next t ∧ t.tap.dr = Config.flops g s.tap.era ∧ t = { s with tap := t.tap }) ∧
      (s.dev ≠ 8 ∨ s.mappedOut g = true → s.locked = false → ∃ t, exec (.registerCapture g) s = .next t ∧ t.tap.dr = 0 ∧ t = { s with tap := t.tap }) ∧
      (s.dev = 8 → s.locked = true → s.sticky.refused < 65535 → ∀ c, (c = .registerCapture g ∨ ∃ a, c = .sramReadout g a) → ∃ t, exec c s = .next t ∧ t.tap.dr = 0 ∧ t.sticky = { s.sticky with refused := s.sticky.refused + 1 }) ∧
      (∀ p n, s.dev = 8 → s.mappedOut g = false → ∃ t, exec (.memoryBist g p n) s = .next t ∧
        t.tap.dr = p % 2 ^ (segMemories g).length + (if s.locked then 0 else n) * 2 ^ (segMemories g).length ∧ ∀ x ∈ t.prot.poisonRows, (x.1, x.2.1) ∉ segMemories g) ∧
      (∀ p n, s.dev ≠ 8 → s.locked = false → ∃ t, exec (.memoryBist g p n) s = .next t ∧ t.tap.dr = 0 ∧ t = { s with tap := t.tap })

/-- For every canonical y and every i from 0 to 60, rotmul(y, i) as R43 writes it equals y × 2^i mod p. It keeps the count
of one bits, and is never the non-canonical value p. -/
def Obligations.RotationsMultiply : Prop :=
  ∀ y i : Nat, canonical y = true → i ≤ 60 →
    rotmul y i = y * 2 ^ i % p61 ∧ rotmul y i ≠ p61 ∧ popcount (rotmul y i) 61 = popcount y 61

/-- For in-range W64 words new and old, the delta of the word is new − old, which i64 holds as it is; it lies in (−2^61,
2^61); and its field image is Δ mod p, which equals ((new mod p) − (old mod p)) mod p. So the sum of terms that parity
and watermarks keep moves from the image of old to the image of new, though the delta can leave the interval of R35. -/
def Obligations.DeltasHaveExactFieldImages : Prop :=
  ∀ new old : Int, clamp60 new = new → clamp60 old = old →
    subDeltas [new] [old] = [new - old] ∧ sgn 64 (pat 64 (new - old)) = new - old ∧ -2 ^ 61 < new - old ∧ new - old < 2 ^ 61 ∧
      toField (new - old) = subP (toField new) (toField old) ∧ addP (toField old) (toField (new - old)) = toField new ∧
      (∃ a b : Int, clamp60 a = a ∧ clamp60 b = b ∧ clamp60 (a - b) ≠ a - b)

/-- red(x) is x mod p for every x below 2^122. mul(y, z) of canonical words is canonical and is y × z mod p. A W64 word in
range comes back from its field image, and a result beyond the range is clamped to the nearer end. Square and multiply
gives the power b^e mod p, of which the inverse a^(p − 2) of R167 is one. -/
def Obligations.FieldArithmeticIsExact : Prop :=
  (∀ x : Nat, x < 2 ^ 122 → red x = x % p61) ∧
    (∀ y z : Nat, canonical y = true → canonical z = true → canonical (mulP y z) = true ∧ mulP y z = y * z % p61) ∧
    (∀ v : Int, clamp60 v = v → canonical (toField v) = true ∧ ofField (toField v) = v) ∧
    (∀ v : Int, clamp60 v = if v > 2 ^ 60 - 1 then 2 ^ 60 - 1 else if v < -(2 ^ 60 - 1) then -(2 ^ 60 - 1) else v) ∧
    ∀ b e : Nat, powP b e = b ^ e % p61

/-- For every line of 32 or 64 deltas within the bounds of R122, whatever bytes follow: a receiver reads from the packed
line exactly those deltas and leaves the bytes that follow. The line takes 1 + 4w bytes in space W and 1 + 8w in space
N, with a width w of at most 62, and at least 1 unless all deltas are 0. A line whose width byte is above 64, or whose
bytes run out, is not read; one of width 0 reads as zeros. -/
def Obligations.LinesPackAndUnpack : Prop :=
  (∀ (sp : Nat) (d : List Int) (rest : Bytes), sp < 2 → d.length = elems sp → (∀ x ∈ d, deltaOk sp x = true) →
      unpackLine (elems sp) (packLine d ++ rest) = some (d, rest) ∧ (packLine d).length = 1 + elems sp * packWidth d / 8 ∧
        packWidth d ≤ 62 ∧ (d.any (· != 0) = true → 1 ≤ packWidth d)) ∧
    (∀ (E : Nat) (w : Byte) (bs : Bytes), w.toNat > 64 ∨ bs.length < E * w.toNat / 8 → unpackLine E (w :: bs) = none) ∧
    ∀ (E : Nat) (bs : Bytes), unpackLine E (0 :: bs) = some (List.replicate E 0, bs)

/-- Take lines of one space at rising stripes within 64 of the first, each within the bounds of R122, the payload below
65,536 bytes, and a frame made of them by the member with own role in the group. A unit of the same job and halter
number that holds parity j of the group, where the sender is data member i of it, with every stripe below the band,
judges the frame good: it has parity j and exactly the lines, each at its stripe. -/
def Obligations.DataFramesReadAsTheyWereSent : Prop :=
  ∀ (s h : State) (flags sp ep g i seq first j : Nat) (ls : List (Nat × List Int)),
    sp < 2 → ls ≠ [] → ls.Pairwise (fun a b => a.1 < b.1) → (∀ l ∈ ls, first ≤ l.1 ∧ l.1 < first + 64 ∧ l.1 < h.band false sp ∧ l.2.length = elems sp ∧ l.2.all (deltaOk sp) = true) →
    ls.head?.map (·.1) = some first → first < 2 ^ 32 → sumN (ls.map (fun l => (packLine l.2).length)) < 65536 →
    flags < 256 → flags % 2 = 0 → ep < 2 ^ 64 → s.stepOf ep < 2 ^ 64 → g < 65536 → i < 256 → seq < 2 ^ 32 → s.own < 65536 → s.halter < 2 ^ 32 → s.job < 2 ^ 64 →
    h.job = s.job → h.halter = s.halter → h.parityIn false g = some j → i < h.k → (h.groupOf false g).getD i 0xFFFF = s.own →
    let f := s.dataFrame false flags sp ep g i seq ls
    h.judgeData false f = .ok (j, ls) ∧ fld f 2 2 = s.own ∧ fld f 36 4 = seq ∧ fld f 24 8 = s.stepOf ep ∧ fld f 16 8 = ep

/-- DATA_FRAME (kind 0x10), and RE_STRIPE_DATA (kind 0x2C) for a target stream, in a state that serves; a member whose
frame bears the own job and number is noted as heard. A frame that fails condition n of R129 is counted and reported
with n; an older halter number is also answered by a stale notice; a newer one is dropped silently; a sequence beyond
the window is counted in 0x8310.08. A good frame already covered is counted and acknowledged again. A good new frame,
whose bank is not being folded and whose stripes have no felt line in repair: for the felts (a fill frame of a couch
stream, or coding STARTING), with every felt line sound, it adds its terms to them; for the vats, with room for its
lines, to the bank of its window; it is then marked applied and acknowledged. Where the first unsound felt line stands
in the way, that line is erased and the frame waits; where the bank is being folded or a felt line is in repair the
frame waits without an acknowledgement; without room it is counted in 0x8310.0D. A frame that fails a condition, or
whose terms go to the vats, leaves host memory and storage as they were. -/
def Obligations.DataFramesJoinOnceOrAreDropped : Prop :=
  ∀ (tgt : Bool) (r : Rx) (s : State), s.serving = true → frameKind r = (if tgt then 0x2C else 0x10) →
    let c := if tgt then Instr.reStripeData r else Instr.dataFrame r
    let f := r.f
    let u := (s.ce r).hearFrame f
    let src := fld f 2 2
    let g := fld f 32 2
    let role := fld f 34 1
    let sp := bits (fld f 1 1) 0 1
    let bank := u.bankOf (windowOf u.deckle (fld f 24 8))
    let intoFelt := ¬ tgt ∧ (bit (fld f 1 1) 1 ∨ u.fn .coding = 1)
    (∀ n, u.judgeData tgt f = .error n → n ≠ 2 → n ≠ 10 → Ends c s (u.couchDrop 0x8310_07 0x3103 src (be 2 src ++ be 1 (fld f 0 1) ++ be 1 n))) ∧
      (u.judgeData tgt f = .error 10 → Ends c s (u.couchDrop 0x8310_08 0x3104 src (be 2 src ++ be 2 g ++ be 4 (fld f 36 4)))) ∧
      (u.judgeData tgt f = .error 2 → fld f 4 4 > u.halter → Ends c s u) ∧
      (u.judgeData tgt f = .error 2 → fld f 4 4 ≤ u.halter → Ends c s ((u.couchDrop 0x8310_07 0x3103 src (be 2 src ++ be 1 (fld f 0 1) ++ be 1 2)).staleNotice f)) ∧
      (∀ j ls, u.judgeData tgt f = .ok (j, ls) →
        ((u.inStream src g tgt).covers (fld f 36 4) = true → Ends c s ((u.inc 0x8310_11).sendAck src g role j tgt)) ∧
        ((u.inStream src g tgt).covers (fld f 36 4) = false →
          ((∃ x, u.couch.folding = some x ∧ u.bankOf x = bank) ∨ (tgt = false ∧ u.stripeErased g sp (ls.map (·.1)) = true) → Ends c s (u.withhold tgt f)) ∧
          ((∀ x, u.couch.folding = some x → u.bankOf x ≠ bank) → tgt = true ∨ u.stripeErased g sp (ls.map (·.1)) = false →
            (intoFelt → u.feltFaultIn g sp (ls.map (·.1)) = none →
              Ends c s (((u.addTerms tgt true g bank sp j role ls).markApplied src g tgt (fld f 36 4)).sendAck src g role j tgt)) ∧
            (∀ n a k, intoFelt → u.feltFaultIn g sp (ls.map (·.1)) = some (n, a, k) → Ends c s ((u.eraseFelt j sp n a k).withhold tgt f)) ∧
            (¬ intoFelt → u.vatLack tgt g bank sp (ls.map (·.1)) = none →
              Ends c s (((u.addTerms tgt false g bank sp j role ls).markApplied src g tgt (fld f 36 4)).sendAck src g role j tgt)) ∧
            (∀ n, ¬ intoFelt → u.vatLack tgt g bank sp (ls.map (·.1)) = some n → Ends c s ((u.inc 0x8310_0D).evSecond 0x3106 (be 1 n)))))) ∧
      ((∀ j ls, u.judgeData tgt f ≠ .ok (j, ls)) ∨ ¬ intoFelt → ∃ t, exec c s = .next t ∧ t.mem = s.mem ∧ t.flash = s.flash)

/-- Terms that join a vat line (State.vatAdd): a line that stands gains each term modulo p, a line that does not is opened
with the terms; every other vat line stands, and nothing else changes. Terms of canonical words that join a felt line
whose words are canonical (State.feltAdd): each word is the sum modulo p, and no byte of memory outside the line
changes. -/
def Obligations.TermsAreAddedElementByElement : Prop :=
  (∀ (s : State) (tgt : Bool) (g b sp n : Nat) (ts : List Nat),
      let t := s.vatAdd tgt g b sp n ts
      t = { s with couch := { s.couch with vats := t.couch.vats } } ∧ (∀ v, v.is tgt g b sp n = false → (v ∈ t.couch.vats ↔ v ∈ s.couch.vats)) ∧
        (∀ v ∈ s.couch.vats, v.is tgt g b sp n = true → { v with vals := addLists v.vals ts } ∈ t.couch.vats) ∧
        ((∀ v ∈ s.couch.vats, v.is tgt g b sp n = false) → (⟨g, tgt, b, sp, n, ts⟩ : VatLine) ∈ t.couch.vats)) ∧
    ∀ (s : State) (tgt : Bool) (g sp n a : Nat) (ts : List Nat), s.Canon → s.feltAddr tgt g sp n = some a → ts.length = elems sp → (∀ w ∈ s.feltWords a sp, canonical w = true) →
      (∀ w ∈ ts, canonical w = true) →
      (s.feltAdd tgt g sp n ts).feltWords a sp = (s.feltWords a sp).zipWith (fun x y => (x + y) % p61) ts ∧
        ∀ x k, x + k ≤ a ∨ a + 8 * elems sp ≤ x → (s.feltAdd tgt g sp n ts).mrd x k = s.mrd x k

/-- ACKNOWLEDGEMENT (kind 0x11), and RE_STRIPE_ACKNOWLEDGEMENT (kind 0x2D) for a target stream: a frame of this job and
halter number from the holder of parity j, about a stream of this member, adds j to the acknowledged holders of every
frame of the stream that it covers and adds no other holder to any frame, and then what follows an acknowledgement is
done (State.afterAck). From another unit it does no more than the gate of R149. The frames that State.retire leaves
are those that not every holder has acknowledged. RETRANSMIT_TIMEOUT of a couch or a target stream sends the
unacknowledged frame again to the one holder (State.resendTo: flag bit 3 set, counted); an acknowledged frame is not
sent. HOLDER_SILENCE_LIMIT reports a holder that leaves a frame of a couch stream unacknowledged with event 0x3107 and
as suspect with cause 2, and else does nothing but settle the stalls. NOTICE_REPEAT sends the latest notice again to
every other member. -/
def Obligations.AcknowledgedFramesLeave : Prop :=
  (∀ (tgt : Bool) (r : Rx) (s : State), s.serving = true →
      frameKind r = (if tgt then 0x2D else 0x11) →
      let c := if tgt then Instr.reStripeAcknowledgement r else Instr.acknowledgement r
      let u := (s.ce r).gate r.f
      let g := fld r.f 16 2
      let role := fld r.f 18 1
      let j := fld r.f 19 1
      (u.1 = false → Ends c s u.2) ∧
        (u.1 = true → ¬ ((u.2.holders tgt g).getD j 0xFFFF = fld r.f 2 2 ∧ (u.2.groupOf tgt g).getD role 0xFFFF = u.2.own) → Ends c s u.2) ∧
        (u.1 = true → (u.2.holders tgt g).getD j 0xFFFF = fld r.f 2 2 → (u.2.groupOf tgt g).getD role 0xFFFF = u.2.own →
          ∃ v : State, Ends c s v.afterAck ∧ v = { u.2 with couch := v.couch } ∧ v.couch.out.map (fun o => { o with acked := [] }) = u.2.couch.out.map (fun o => { o with acked := [] }) ∧
            (∀ n, n < u.2.couch.out.length → ∀ o p, u.2.couch.out[n]? = some o → v.couch.out[n]? = some p →
              (o.group = g ∧ o.role = role ∧ o.tgt = tgt ∧ ackCovers (fld r.f 20 4) (fld r.f 24 8) o.seq = true → j ∈ p.acked) ∧ (∀ i, i ∈ o.acked → i ∈ p.acked) ∧ (∀ i, i ≠ j → i ∈ p.acked → i ∈ o.acked)))) ∧
    (∀ s : State, s.retire.couch.out = s.couch.out.filter (fun f => !s.frameDone f)) ∧
    (∀ (group role seq parity : Nat) (tgt : Bool) (s : State), s.serving = true →
      (∀ o h, s.couch.out.find? (fun o => o.group == group && o.role == role && o.tgt == tgt && o.seq == seq && !(o.acked.contains parity)) = some o →
        (s.holders o.tgt group)[parity]? = some h → Ends (.retransmitTimeout ⟨group, tgt⟩ role seq parity) s
          ((s.sendData o.tgt h o.group o.role (patch o.f 1 (be 1 (fld o.f 1 1 ||| 8 ||| (if s.flushing then 16 else 0))))).inc 0x8310_05)) ∧
      ((∀ o ∈ s.couch.out, ¬ (o.group = group ∧ o.role = role ∧ o.tgt = tgt ∧ o.seq = seq ∧ parity ∉ o.acked)) →
        Ends (.retransmitTimeout ⟨group, tgt⟩ role seq parity) s s)) ∧
    (∀ (group parity h : Nat) (s : State), s.serving = true → (s.holders false group)[parity]? = some h →
      ((∃ o ∈ s.couch.out, o.group = group ∧ o.tgt = false ∧ parity ∉ o.acked) → Ends (.holderSilenceLimit group parity) s ((s.evHub 0x3107 (be 2 h ++ be 2 group)).report h 2)) ∧
      ((∀ o ∈ s.couch.out, ¬ (o.group = group ∧ o.tgt = false ∧ parity ∉ o.acked)) → Ends (.holderSilenceLimit group parity) s s)) ∧
    ∀ (s : State) (f : Bytes), s.serving = true → s.couch.own = some f → Ends .noticeRepeat s ((s.member.members.filter (· ≠ s.own)).foldl (fun s d => s.sendDev d 0 0 f) s)

/-- EPOCH_DONE_NOTICE (kind 0x12) of a member of this job and halter number: the highest of each value is kept and the
departed flag stays (noteNotice), a departing member is reported, and sealCommit, retire and flushCheck follow. When
every member has reported the next multiple of G, with no fold, cut or flush under way, its fold starts, and 0x3101.02
is at least the least couched epoch of all members. FOLD_COMPLETE folds every vat line of the bank into its felt
(State.foldBank); where a line is left, the fold runs on; where none is, 0x3101.01 becomes the commit, and foldDone,
freeChains, takeWithheld, quietReady, finishCopy, sealCommit, drainHeld and judgeReadies follow in this order.
FLUSH_TIME_LIMIT ends a flush as incomplete. RUSH_HOLD_END of an active slice packs what is due, ends the rush hold of
the slice, and lets held writes proceed. -/
def Obligations.WindowsSealAndFold : Prop :=
  (∀ (l : List Notice) (n o : Notice), l.find? (fun x => x.dev = n.dev) = some o → ∃ x, (noteNotice l n).find? (fun x => x.dev = n.dev) = some x ∧
      x.couched = max o.couched n.couched ∧ x.bstep = max o.bstep n.bstep ∧ x.bepoch = max o.bepoch n.bepoch ∧ x.departed = (o.departed || n.departed)) ∧
    (∀ (r : Rx) (s : State), s.serving = true → frameKind r = 0x12 →
      let u := (s.ce r).gate r.f
      let n : Notice := ⟨fld r.f 2 2, fld r.f 16 8, fld r.f 32 8, fld r.f 40 8, bit (fld r.f 1 1) 0⟩
      let v := u.2.modCouch fun c => { c with notices := noteNotice c.notices n }
      (u.1 = false ∨ fld r.f 2 2 ∉ u.2.member.members → Ends (.epochDoneNotice r) s u.2) ∧
        (u.1 = true → fld r.f 2 2 ∈ u.2.member.members → Ends (.epochDoneNotice r) s ((((if n.departed then v.report n.dev 4 else v).sealCommit).retire).flushCheck))) ∧
    (∀ (s : State) (next : Nat), s.Canon → s.member.members ≠ [] → s.fn .coding ≠ 1 → next = (s.committed / max s.deckle 1 + 1) * max s.deckle 1 →
      (∀ d ∈ s.member.members, ∃ n, s.couch.notices.find? (fun x => x.dev = d) = some n ∧ next ≤ n.bstep) → s.couch.folding = none → s.member.cut = none → s.flushing = false →
      s.sealCommit.couch.folding = some next ∧ ∃ d ∈ s.member.members, ∃ n, s.couch.notices.find? (fun x => x.dev = d) = some n ∧ s.sealCommit.rd 0x3101_02 = max (s.rd 0x3101_02) n.couched ∧
        ∀ e ∈ s.member.members, ∀ k, s.couch.notices.find? (fun x => x.dev = e) = some k → n.couched ≤ k.couched) ∧
    (∀ (s : State) (c : Nat), s.serving = true → s.couch.folding = some c →
      let u := s.foldBank (s.bankOf c)
      (u.couch.vats.any (fun v => v.bank == s.bankOf c) = true → Ends .foldComplete s u) ∧
        (u.couch.vats.any (fun v => v.bank == s.bankOf c) = false →
          let v := (u.modCouch fun k => { k with folding := none }).wr 0x3101_01 c
          Ends .foldComplete s (((v.foldDone c).freeChains.takeWithheld.quietReady s.committed).finishCopy.sealCommit.drainHeld.judgeReadies) ∧ (s.Canon → v.committed = c))) ∧
    (∀ s : State, s.serving = true → s.couch.folding = none → Ends .foldComplete s s) ∧
    (∀ s : State, s.serving = true → Ends .flushTimeLimit s (if s.flushing then s.flushEnd false else s)) ∧
    ∀ (s : State) (n : Nat), n < s.hw.slices → s.active n = true → s.serving = true → exec (.rushHoldEnd n) s = .next (s.pump.endRush n).drainHeld

/-- FILL_LINE_READ while coding is STARTING, with a line due, its stream below 64 unacknowledged frames: the line leaves
the list; a line that holds only zeros is counted as complete at once, and any other goes as a data frame with the
fill flag, with its value as the delta, at its place in the stream. With nothing due it does nothing but settle the
stalls. RE_STRIPE_FILL_READ while a re-striping runs and no cut is being made does the same in the target stream,
after the line's own entry has been rushed and what is due packed: a line without an entry leaves the list, one of
zeros sends nothing, and after the last line a Ready of phase 4 goes. Elsewhere it does nothing but settle the stalls.
A frame emitted stands last in the list of frames without an acknowledgement, and the stream's next sequence rises. -/
def Obligations.FillsCoverEveryLine : Prop :=
  (∀ (s : State) (l : LineId) (rest : List LineId) (g i n a : Nat) (st : OutStream), s.serving = true → s.couch.fill = l :: rest → s.lineRole l = some (g, i, n) → s.lineAddr l = some a →
      s.couch.streams.find? (fun t => t.group == g && t.role == i && !t.tgt) = some st → s.fn .coding = 1 → s.unacked st < 64 →
      let u := s.modCouch fun c => { c with fill := rest }
      ((s.lineVals l.space a).all (· == 0) = true → Ends .fillLineRead s ((u.inc 0x8300_04).wr 0x3000_0B (u.rd 0x3000_0B - 1)).fillComplete.judgeReadies) ∧
        ((s.lineVals l.space a).all (· == 0) = false →
          Ends .fillLineRead s ((u.emit false g i s.epoch (u.dataFrame false (2 + u.flushFlag) l.space s.epoch g i st.next [(n, s.lineVals l.space a)]) true false st.next).refreshOut))) ∧
    (∀ s : State, s.serving = true → s.couch.fill = [] → Ends .fillLineRead s s) ∧
    (∀ s : State, s.serving = true → (s.member.refill = [] ∨ s.rd 0x3202_02 ≠ 2 ∨ s.member.cut.isSome = true) → Ends .reStripeFillRead s s) ∧
    (∀ (s : State) (l : LineId) (rest : List LineId) (g i n a : Nat) (st : OutStream), s.serving = true → s.member.refill = l :: rest → s.rd 0x3202_02 = 2 → s.member.cut = none →
      let u := (s.rush l).pump
      u.targetRole l = some (g, i, n) → u.lineAddr l = some a → u.couch.streams.find? (fun t => t.group == g && t.role == i && t.tgt) = some st →
      u.unacked st < 64 → u.entry l = none →
      let v := (u.modMember fun m => { m with refill := rest, refillWindow := u.window u.epoch }).wr 0x3202_03 rest.length
      let w := if (u.lineVals l.space a).all (· == 0) then v else v.emit true g i v.epoch (v.dataFrame true (2 + v.flushFlag) l.space v.epoch g i st.next [(n, u.lineVals l.space a)]) true false st.next
      Ends .reStripeFillRead s (if rest.isEmpty then (w.sendReady 4 0 w.member.refillWindow 0).judgeReadies else w)) ∧
    ∀ (s : State) (tgt : Bool) (g role ep seq : Nat) (f : Bytes) (fill eoe : Bool), ∃ o, (s.emit tgt g role ep f fill eoe seq).couch.out = s.couch.out ++ [o] ∧
      o.f = f ∧ o.seq = seq ∧ o.acked = [] ∧ ∀ st ∈ s.couch.streams, (st.group = g ∧ st.role = role ∧ st.tgt = tgt) →
        { st with next := (st.next + 1) % 2 ^ 32 } ∈ (s.emit tgt g role ep f fill eoe seq).couch.streams

/-- SUSPECT (kind 0x20) of this job and halter number: the lead takes the report (State.leadSuspect); another unit whose
own twin is the suspect answers with a twin report of its status; any other does no more. The lead declares a member
named with cause 3 or 4 lost, and keeps one named with another cause, unless it is its own twin, as a suspect.
SILENCE_LIMIT of another member reports it with cause 1. TWIN_WAIT at the lead: a suspect heard since is none any
more, one with waits left has one less, and any other is declared lost. TWIN_REPORT (kind 0x27) at the lead: status 2,
3 or 4 declares the suspect lost, status 1 postpones once. Declaring a member lost lists it as lost, ends its
suspicion, counts it, and, with no proposal in hand, proposes a loss change at the next halter number over the members
that are not lost. After each command the lead judges the Readys it holds. -/
def Obligations.SuspectsBecomeLost : Prop :=
  (∀ (r : Rx) (s : State), s.serving = true →
      let u := (s.ce r).gate r.f
      let dev := fld r.f 16 2
      let mine := u.2.paired = true ∧ dev = u.2.rd 0x7005_01
      (frameKind r = 0x20 → (u.1 = false → Ends (.suspect r) s u.2.judgeReadies) ∧
        (u.1 = true → u.2.leadOf = u.2.own → Ends (.suspect r) s (u.2.leadSuspect dev (fld r.f 18 1)).judgeReadies) ∧
        (u.1 = true → u.2.leadOf ≠ u.2.own → ¬ mine → Ends (.suspect r) s u.2.judgeReadies) ∧
        (u.1 = true → u.2.leadOf ≠ u.2.own → mine → ∃ f, Ends (.suspect r) s (u.2.sendMember (fld r.f 2 2) f).judgeReadies ∧
          fld f 0 1 = 0x27 ∧ fld f 16 2 = dev ∧ fld f 18 1 = u.2.twinStatus)) ∧
      (frameKind r = 0x27 → (u.1 = false ∨ u.2.leadOf ≠ u.2.own → Ends (.twinReport r) s u.2.judgeReadies) ∧
        (u.1 = true → u.2.leadOf = u.2.own → Ends (.twinReport r) s (u.2.twinVerdict dev (fld r.f 18 1)).judgeReadies))) ∧
    (∀ (s : State) (dev cause : Nat), dev ∈ s.member.members →
      (cause = 3 ∨ cause = 4 → ∃ u : State, u = { s with tx := u.tx } ∧ s.leadSuspect dev cause = u.declareLost dev cause) ∧
        (cause ≠ 3 → cause ≠ 4 → ¬ (s.paired = true ∧ dev = s.rd 0x7005_01) → ∃ x ∈ (s.leadSuspect dev cause).member.suspects, x.dev = dev)) ∧
    (∀ (dev : Nat) (s : State), s.serving = true → Ends (.silenceLimit dev) s (if dev ∈ s.member.members ∧ dev ≠ s.own then (s.report dev 1).judgeReadies else s)) ∧
    (∀ (dev : Nat) (s : State) (x : SuspectRec), s.serving = true → s.leadOf = s.own → s.member.suspects.find? (fun y => y.dev = dev) = some x →
      let heard := ((s.member.heard.find? (fun y => y.1 == dev)).map (·.2)).getD 0
      (x.since < heard → Ends (.twinWait dev) s (s.modMember fun m => { m with suspects := m.suspects.filter (fun y => y.dev ≠ dev) }).judgeReadies) ∧
        (heard ≤ x.since → 1 < x.waits → Ends (.twinWait dev) s
          (s.modMember fun m => { m with suspects := mapWhere (fun y => y.dev == dev) (fun y => { y with waits := y.waits - 1 }) m.suspects }).judgeReadies) ∧
        (heard ≤ x.since → x.waits ≤ 1 → Ends (.twinWait dev) s (s.declareLost dev x.cause).judgeReadies)) ∧
    (∀ (s : State) (dev st : Nat) (x : SuspectRec), s.member.suspects.find? (fun y => y.dev = dev) = some x →
      (st = 2 ∨ st = 3 ∨ st = 4 → s.twinVerdict dev st = s.declareLost dev x.cause) ∧
        (st = 1 → x.postponed = false → s.twinVerdict dev st =
          s.modMember fun m => { m with suspects := mapWhere (fun y => y.dev == dev) (fun y => { y with waits := y.waits + 1, postponed := true }) m.suspects }) ∧
        (st = 1 → x.postponed = true → s.twinVerdict dev st = s)) ∧
    ∀ (s : State) (dev cause : Nat), s.Canon → dev ∈ s.member.members → dev ∉ s.member.lost → s.halter ≠ 0xFFFF_FFFF → s.member.proposal = none →
      let t := s.declareLost dev cause
      dev ∈ t.member.lost ∧ (∀ y ∈ t.member.suspects, y.dev ≠ dev) ∧ t.rd 0x8320_02 = min (s.rd 0x8320_02 + 1) (objMax 0x8320_02) ∧
        ∃ p, t.member.proposal = some p ∧ p.num = s.halter + 1 ∧ p.kind = 1 ∧ p.sender = s.own ∧ (∀ d, d ∈ p.members ↔ d ∈ s.member.members ∧ d ∉ t.member.lost)

/-- In a unit that serves and does not flush, for frames of this job at the own halter number, whose member senders are
noted as heard. PROPOSE (kind 0x21) at a member, with a greater number: a list that leaves the unit out leads to
PADDOCK; one that holds it, from a sender that may lead, is taken if it is preferred to the one accepted; with a
number not greater it does no more. At number 0 a proposal of number 1, or to a joiner, that lists the unit and is
preferred is taken. Taking one keeps it and the time, and shows status 3 at once for a loss. ACCEPT (kind 0x22) at the
proposer: of its number, from a unit of the list, with a lower current number and the same settings key, it is kept
and the Cut may follow (State.tryCut: not while an Accept is missing; for a loss, with all of them and the quorum,
sendCut); a current number not below the proposed one, and below the last, proposes again one higher; others do no
more. ACCEPT_TIMEOUT with Accepts missing is counted, repeats the proposal at a job start, and else lists the missing
members as lost and proposes the loss change. -/
def Obligations.ProposalsAreTakenAndCounted : Prop :=
  (∀ (r : Rx) (s : State), s.serving = true → s.flushing = false → frameKind r = 0x21 → (s.ce r).ourJob r.f = true → fld r.f 4 4 = (s.ce r).halter →
      let u := if fld r.f 2 2 ∈ (s.ce r).member.members then (s.ce r).hear (fld r.f 2 2) else s.ce r
      let ms := idsAt r.f 32 (fld r.f 21 1)
      let num := fld r.f 16 4
      let p : Proposal := ⟨num, fld r.f 20 1, fld r.f 2 2, ms, idsAt r.f (32 + 2 * fld r.f 21 1) (fld r.f 22 1), fld r.f 24 8⟩
      (u.halter ≠ 0 → u.halter < num →
        (u.own ∉ ms → Ends (.propose r) s (u.enterPaddock 2 num)) ∧
          (u.own ∈ ms → u.leadOf = fld r.f 2 2 ∨ fld r.f 2 2 < u.leadOf ∨ u.dev = 7 → u.dev ≠ 7 ∨ u.member.joining = true →
            Ends (.propose r) s (if u.preferred num (fld r.f 2 2) then u.takeProposal p else u))) ∧
        (u.halter ≠ 0 → num ≤ u.halter → u.halter ≠ 0xFFFF_FFFF → Ends (.propose r) s u) ∧
        (u.halter = 0 → u.own ∈ ms → num = 1 ∨ u.member.joining = true → u.preferred num (fld r.f 2 2) = true → Ends (.propose r) s (u.takeProposal p))) ∧
    (∀ (s : State) (p : Proposal), (s.takeProposal p).member.accepted = some p ∧ (s.takeProposal p).member.acceptedAt = s.now ∧
      (s.Canon → p.kind = 1 → (s.takeProposal p).rd 0x3200_02 = 3)) ∧
    (∀ (r : Rx) (s : State) (p : Proposal), s.serving = true → s.flushing = false → frameKind r = 0x22 → (s.ce r).member.proposal = some p →
      (s.ce r).ourJob r.f = true → fld r.f 4 4 = (s.ce r).halter →
      let u := if fld r.f 2 2 ∈ (s.ce r).member.members then (s.ce r).hear (fld r.f 2 2) else s.ce r
      let dev := fld r.f 2 2
      let cur := fld r.f 20 4
      (fld r.f 16 4 ≠ p.num ∨ dev ∉ p.members → Ends (.accept r) s u) ∧
        (fld r.f 16 4 = p.num → dev ∈ p.members → p.num ≤ cur → cur < 0xFFFF_FFFF →
          Ends (.accept r) s ((u.inc 0x8320_05).proposeAt (cur + 1) p.kind p.members p.lost p.quiet)) ∧
        (fld r.f 16 4 = p.num → dev ∈ p.members → cur < p.num → slice r.f 56 32 ≠ u.settingsKey → Ends (.accept r) s u) ∧
        (fld r.f 16 4 = p.num → dev ∈ p.members → cur < p.num → slice r.f 56 32 = u.settingsKey → Ends (.accept r) s (u.modMember fun m => { m with
          accepts := m.accepts.filter (fun x => x.dev ≠ dev) ++ [⟨dev, cur, fld r.f 24 8, fld r.f 32 8, fld r.f 48 8⟩]
          counts := m.counts.filter (fun x => x.1 ≠ dev) ++ [(dev, fld r.f 40 4, fld r.f 44 4)] }).tryCut)) ∧
    (∀ (s : State) (p : Proposal), s.member.proposal = some p → (∃ d ∈ p.members, ∀ x ∈ s.member.accepts, x.dev ≠ d) → s.tryCut = s) ∧
    (∀ (s : State) (p : Proposal), s.member.proposal = some p → p.kind = 1 → (∀ d ∈ p.members, ∃ x ∈ s.member.accepts, x.dev = d) → s.quorum p.members = true → s.tryCut = s.sendCut p) ∧
    (∀ (s : State) (p : Proposal), s.serving = true → s.member.proposal = some p → (∃ d ∈ p.members, ∀ x ∈ s.member.accepts, x.dev ≠ d) →
      (s.halter = 0 → s.Canon → Ends .acceptTimeout s ((p.members.filter (· ≠ s.own)).foldl (fun t d => t.sendMember d (s.proposeFrame p)) (s.inc 0x8320_05))) ∧
        (s.halter ≠ 0 → s.Canon → ∃ u : State, Ends .acceptTimeout s u.proposeLoss.judgeReadies ∧ u.member.members = s.member.members ∧ u.member.proposal = some p ∧
          (∀ d, d ∈ u.member.lost ↔ d ∈ s.member.lost ∨ (d ∈ p.members ∧ d ∈ s.member.members ∧ ∀ x ∈ s.member.accepts, x.dev ≠ d)) ∧
          u.rd 0x8320_05 = min (s.rd 0x8320_05 + 1) (objMax 0x8320_05))) ∧
    ∀ s : State, s.serving = true → s.member.proposal = none → Ends .acceptTimeout s s

/-- In a unit that serves and does not flush, for frames of this job at the own halter number. CUT (kind 0x23) that
matches the accepted proposal in number, sender and length of the list is adopted (State.adoptCut); another does no
more; without an accepted proposal, one of a greater number from a sender up to the lead leads to PADDOCK. Adopting
the list sets the halter number and the list, unless the number is the last one, the cut and its step, and status 4.
ROLLBACK_COMPLETE with a rollback under way and no write owed to it ends the rollback, sends Ready of phase 1, takes
the reads that waited, and then sends Ready of phase 2 where the status is 5, or judges the fill or starts the
rebuild. READY (kind 0x24) replaces the sender's of the phase, and the lead judges what it holds: with a cut and every
Ready of phase 2, it releases; a unit that is not lead does nothing then. RELEASE (kind 0x25) of the own number from
the lead is taken (State.takeRelease). HOLD_LIMIT with a proposal accepted, and STALE_NOTICE (kind 0x26) about this
unit with a greater number, lead to PADDOCK, in which the membership reads status 6, the couch record is at its
default, the delta log is empty, and no cut, pass or held write stands. -/
def Obligations.CutsAndReleasesMoveTheJob : Prop :=
  (∀ (r : Rx) (s : State), s.serving = true → s.flushing = false → frameKind r = 0x23 → (s.ce r).ourJob r.f = true → fld r.f 4 4 = (s.ce r).halter →
      let u := if fld r.f 2 2 ∈ (s.ce r).member.members then (s.ce r).hear (fld r.f 2 2) else s.ce r
      (∀ p, u.member.accepted = some p →
        (fld r.f 16 4 = p.num → fld r.f 2 2 = p.sender → fld r.f 64 1 = p.members.length →
          Ends (.cut r) s (u.adoptCut p (fld r.f 20 8) (fld r.f 60 1) 0 ((List.range (fld r.f 64 1)).map (fun i => fld r.f (72 + 8 * i) 8))).judgeReadies) ∧
        (fld r.f 16 4 ≠ p.num ∨ fld r.f 2 2 ≠ p.sender ∨ fld r.f 64 1 ≠ p.members.length → Ends (.cut r) s u)) ∧
      (u.member.accepted = none → u.halter ≠ 0 → u.halter < fld r.f 16 4 → u.dev ≠ 7 → fld r.f 2 2 ≤ u.leadOf →
        Ends (.cut r) s (u.enterPaddock 2 (fld r.f 16 4)))) ∧
    (∀ (s : State) (p : Proposal) (c v : Nat), s.Canon → (s.halter ≠ 0xFFFF_FFFF → (s.adoptList p c v).halter = p.num ∧ (s.adoptList p c v).member.members = p.members) ∧
      (s.adoptList p c v).member.cut = some (c, p.kind, s.now) ∧ (s.adoptList p c v).member.accepted = none ∧ (s.adoptList p c v).rd 0x3200_02 = 4 ∧
      (s.adoptList p c v).rd 0x3200_0D = c) ∧
    (∀ s : State, s.serving = true → s.member.rolling = none ∨ s.member.owed ≠ [] → Ends .rollbackComplete s s) ∧
    (∀ (s : State) (c : Nat), s.serving = true → s.member.rolling = some c → s.member.owed = [] →
      let u := (s.endRollback c).sendReady 1 0 ((s.endRollback c).ofld 0x3203_05 8 8) 0
      let v := u.member.reads.foldl (fun t f => t.takeRead f) (u.modMember fun m => { m with reads := [] })
      Ends .rollbackComplete s (if v.rd 0x3200_02 = 5 then v.sendReady 2 0 0 0
        else if v.member.filling then v.fillComplete else v.startRebuild.rebuildDone).judgeReadies) ∧
    (∀ (r : Rx) (s : State), s.serving = true → s.flushing = false → frameKind r = 0x24 → (s.ce r).ourJob r.f = true → fld r.f 4 4 = (s.ce r).halter →
      let u := if fld r.f 2 2 ∈ (s.ce r).member.members then (s.ce r).hear (fld r.f 2 2) else s.ce r
      Ends (.ready r) s (u.modMember fun m => { m with
        readies := m.readies.filter (fun x => ¬ (x.dev = fld r.f 2 2 ∧ x.phase = fld r.f 20 1)) ++ [⟨fld r.f 2 2, fld r.f 20 1, fld r.f 21 1, fld r.f 24 8, fld r.f 32 8⟩] }).judgeReadies) ∧
    (∀ s : State, s.leadOf = s.own → s.member.cut.isSome = true → (∀ d ∈ s.member.members, ∃ x ∈ s.member.readies, x.phase = 2 ∧ x.dev = d) →
      ∃ g, s.judgeReadies = s.sendRelease (if ∃ x ∈ s.member.readies, x.phase = 2 ∧ x.verdict = 1 then 1 else 0) g) ∧
    (∀ s : State, s.leadOf ≠ s.own → s.judgeReadies = s) ∧
    (∀ (r : Rx) (s : State), s.serving = true → frameKind r = 0x25 →
      let u := (s.ce r).gate r.f
      Ends (.release r) s (if u.1 = true ∧ fld r.f 16 4 = u.2.halter ∧ fld r.f 2 2 = u.2.leadOf then u.2.takeRelease (fld r.f 28 1) else u.2)) ∧
    (∀ s : State, s.serving = true → Ends .holdLimit s (if s.member.accepted.isSome ∧ s.halter ≠ 0 ∧ s.flushing = false then s.enterPaddock 3 s.halter else s)) ∧
    (∀ (r : Rx) (s : State), s.serving = true → frameKind r = 0x26 → Ends (.staleNotice r) s
      (if (s.ce r).ourJob r.f = true ∧ (s.ce r).halter ≠ 0 ∧ (s.ce r).flushing = false ∧ (s.ce r).halter < fld r.f 16 4 ∧ fld r.f 20 2 = (s.ce r).own
      then (s.ce r).enterPaddock 1 (fld r.f 16 4) else s.ce r)) ∧
    ∀ (s : State) (c n : Nat), s.Canon → s.dev ≠ 7 → (s.enterPaddock c n).dev = 7 ∧ (s.enterPaddock c n).rd 0x3200_02 = 6 ∧ (s.enterPaddock c n).couch = {} ∧
      (s.enterPaddock c n).member.dlog = [] ∧ (s.enterPaddock c n).member.cut = none ∧ (s.enterPaddock c n).pass.running = false ∧ (s.enterPaddock c n).sport.held = []

/-- JOIN_REQUEST (kind 0x28) of this job at halter number 0, at job start with the unit's settings key and time base, is
kept with the sender's line counts, and the start is tried while coding is STARTING; with others, or for a late
admission, it does no more. Later, at the lead with no change in hand below the last number: one that R174 refuses
does no more, and one that it grants is kept and proposed with the joiner in the list and the dead members as the lost
ones. JOIN_REQUEST_REPEAT sends the request while the unit is joining or starting and has accepted no proposal; where
it names a refusal of a late admission, the joiner reports event 0x320E with the reason and asks no more (that the
command names it is the model's choice, log entry 87). REBUILD_READ (kind 0x29) waits while the own rollback runs or a
line it asks for cannot be read (State.readBlocked), and else is answered with the images, if any. REBUILD_DATA (kind
0x2A) with a good check and length: of one line that is awaited, the line is stored and awaited no more; with a bad
one it does no more; without a line, which tells of a failed stripe, its line is awaited no more. JOURNAL_MIRROR (kind
0x2B) of the paired twin and of this job keeps its records, newest first, as far as 16 MiB hold them; one of a lower
halter number is answered by a stale notice. -/
def Obligations.JoinsRebuildsAndMirrors : Prop :=
  (∀ (r : Rx) (s : State), s.serving = true → frameKind r = 0x28 → (s.ce r).ourJob r.f = false → Ends (.joinRequest r) s (s.ce r)) ∧
    (∀ (r : Rx) (s : State), s.serving = true → frameKind r = 0x28 → (s.ce r).ourJob r.f = true →
      let u := s.ce r
      let dev := fld r.f 2 2
      let j : JoinReq := ⟨dev, fld r.f 16 2, decide (fld r.f 18 1 = 1), fld r.f 20 4, fld r.f 24 4, fld r.f 28 8⟩
      let good := slice r.f 48 32 = u.settingsKey ∧ fld r.f 36 4 = u.rd 0x3180_01 ∧ fld r.f 40 8 = u.rd 0x3180_02
      (u.halter = 0 → (fld r.f 18 1 = 1 ∨ ¬ good) → Ends (.joinRequest r) s u) ∧
        (u.halter = 0 → fld r.f 18 1 ≠ 1 → good →
          let v := u.modMember fun m => { m with joins := m.joins.filter (fun x => x.dev ≠ dev) ++ [j], counts := m.counts.filter (fun x => x.1 ≠ dev) ++ [(dev, fld r.f 20 4, fld r.f 24 4)] }
          Ends (.joinRequest r) s (if v.fn .coding = 1 then v.tryStart else v)) ∧
        (u.halter ≠ 0 → u.leadOf = u.own → fld r.f 18 1 = 1 → u.member.cut = none → u.member.proposal = none → u.halter ≠ 0xFFFF_FFFF →
          (∀ c, u.joinRefusal r.f = some c → Ends (.joinRequest r) s u) ∧
            (u.joinRefusal r.f = none → Ends (.joinRequest r) s ((u.modMember fun m => { m with joins := m.joins.filter (fun x => x.dev ≠ dev) ++ [j] }).proposeAt
              (u.halter + 1) 2 (insertSorted dev u.member.members) u.member.dead u.quietStep)))) ∧
    (∀ (s : State) (c : Nat), s.serving = true → s.member.joining = true → c ≠ 0 → Ends (.joinRequestRepeat c) s
      ((s.modMember fun m => { m with joining := false }).evHub 0x320E (be 1 c))) ∧
    (∀ s : State, s.serving = true → Ends (.joinRequestRepeat 0) s
      (if (s.member.joining = true ∨ (s.fn .coding = 1 ∧ s.halter = 0)) ∧ s.member.accepted = none then s.sendJoin else s)) ∧
    (∀ (r : Rx) (s : State), s.serving = true → frameKind r = 0x29 → ((s.ce r).gate r.f).1 = true →
      let u := ((s.ce r).gate r.f).2
      let g := fld r.f 16 2
      let sp := fld r.f 18 1
      let t := fld r.f 24 1
      let n := min (fld r.f 19 1) (u.band false sp - fld r.f 20 4)
      let blocked := (List.range n).findSome? (fun i => u.readBlocked g t sp (fld r.f 20 4 + i))
      let lines := u.roleImages g t sp (fld r.f 20 4) n
      (u.member.rolling.isSome = true → Ends (.rebuildRead r) s (u.modMember fun m => { m with reads := m.reads ++ [r.f] })) ∧
        (∀ v, u.member.rolling = none → blocked = some v → Ends (.rebuildRead r) s (v.modMember fun m => { m with reads := m.reads ++ [r.f] })) ∧
        (u.member.rolling = none → blocked = none → Ends (.rebuildRead r) s
          (if lines.isEmpty then u else u.sendMember (fld r.f 2 2) (u.rebuildFrame g sp (fld r.f 20 4) t lines)))) ∧
    (∀ (r : Rx) (s : State), s.serving = true → frameKind r = 0x2A → ((s.ce r).gate r.f).1 = true →
      let u := ((s.ce r).gate r.f).2
      let e := elems (fld r.f 18 1)
      let ls := (List.range (fld r.f 19 1)).map (fun i => (List.range e).map (fun x => fld r.f (40 + 8 * (i * e + x)) 8))
      let good := fld r.f 18 1 ≤ 1 ∧ r.f.length = 40 + 8 * fld r.f 19 1 * e ∧ (∀ l ∈ ls, ∀ w ∈ l, canonical w = true) ∧
        fld r.f 32 8 = couchCheck e ((List.range (fld r.f 19 1)).map (fun i => (i, (ls.getD i []).map Int.ofNat)))
      let v := u.modMember fun m => { m with awaited := m.awaited.filter (fun a => ¬ (a = (fld r.f 16 2, fld r.f 18 1, fld r.f 20 4, fld r.f 24 1))) }
      (fld r.f 19 1 = 0 → Ends (.rebuildData r) s v.rebuildDone.judgeReadies) ∧
        (fld r.f 19 1 ≠ 0 → ¬ good → Ends (.rebuildData r) s u) ∧
        (good → fld r.f 19 1 = 1 → (fld r.f 16 2, fld r.f 18 1, fld r.f 20 4, fld r.f 24 1) ∈ u.member.awaited → Ends (.rebuildData r) s
          (v.storeRebuilt (fld r.f 16 2) (fld r.f 24 1) (fld r.f 18 1) (fld r.f 20 4) (ls.getD 0 [])).rebuildDone.judgeReadies)) ∧
    ∀ (r : Rx) (s : State), s.serving = true → frameKind r = 0x2B →
      let u := s.ce r
      let ours := u.paired = true ∧ fld r.f 2 2 = u.rd 0x7005_01 ∧ u.ourJob r.f = true
      (¬ ours → Ends (.journalMirror r) s u) ∧
        (ours → fld r.f 4 4 < u.halter → Ends (.journalMirror r) s (u.staleNotice r.f)) ∧
        (ours → u.halter ≤ fld r.f 4 4 → Ends (.journalMirror r) s ((u.hearFrame r.f).modMember fun m =>
          { m with mirror := ringFit (2 ^ 24) ((mirrorRecs (fld r.f 24 2) 32 r.f).reverse ++ m.mirror) }))

/-- Let a stripe hold canonical images for the data indices 0 to k − 1, with k at most 31, and let its parities be the
sums that R98 and R99 give. Whichever data indices are lost, as many as there are parities used (of the indices 0, 1
and 2), rebuild_element of the surviving images and these parities gives exactly the lost images, in the order of
their indices. -/
def Obligations.LostImagesAreRebuiltExactly : Prop :=
  ∀ (k : Nat) (lost J : List Nat) (x : Nat → Nat), k ≤ 31 → (∀ i < k, canonical (x i) = true) → lost.Pairwise (· < ·) → (∀ a ∈ lost, a < k) →
    J.Pairwise (· < ·) → (∀ j ∈ J, j < 3) → J.length = lost.length →
    let full := (List.range k).map (fun i => (i, x i))
    rebuildElement lost (full.filter (fun e => e.1 ∉ lost)) (J.map (fun j => (j, parityElement j full))) = lost.map x

/-- YARD_REQUEST (kind 0x60), YARD_ANSWER (0x61), RECEIPT_QUERY (0x62), RECEIPT_STATUS (0x63) and ROLLBACK_NOTICE (0x64):
a frame that R269 drops is counted in 0x8500.0C and reported; one that it accepts notes the sender's incarnation and
is taken (State.yTakeRequests and so on). A repeated request whose operation waits, has run with a receipt, was
cancelled or lies below the horizon executes nothing, changes no byte of memory and no waiting entry, and is not
answered, answered from its receipt, answered with 7, or with 6. An operation applied to its line changes only the
bytes of its own operand, an atomic answers the word's old value, and add wraps, the signed and unsigned minima and
maxima choose, a swap stores, a CAS stores only where the word equals the comparison. YARD_RETRY_TIMEOUT sends an
operation that is out again with its retry flag and counts it; OPERATION_INDETERMINATE makes it indeterminate
(State.yIndeterminate); RECEIPT_QUERY_TIMER sends a query for a listed operation without an outcome; RECEIPT_EXPIRY
drops the receipt; for an operation that is not there nothing but the settling follows. COMBINING_ENTRY_CLOSE applies
the requests of the line's entry in the serial order of R273 and moves the pointer on (stated for a near page in use
of an uncoded class-0 region, at rest). REKEY_CHECK and MIGRATION_SET, with the yard ON or DRAINING, run rekeyCheck,
which empties the record of bytes served, and migrateSet, which does nothing without a rehash. -/
def Obligations.YardOperationsRunOnceAndOnTheirWord : Prop :=
  (∀ e ∈ ([(.yardRequest, 0x60, State.yTakeRequests), (.yardAnswer, 0x61, State.yTakeAnswers), (.receiptQuery, 0x62, State.yTakeQuery),
        (.receiptStatus, 0x63, State.yTakeStatus), (.rollbackNotice, 0x64, State.yTakeNotice)] : List ((Rx → Instr) × Nat × (State → Bytes → State))),
      ∀ (r : Rx) (s : State), s.serving = true → frameKind r = e.2.1 →
      let u := s.ce r
      (u.yDrop r.f ≠ 0 → Ends (e.1 r) s ((u.inc 0x8500_0C).evSecond 0x500A (be 2 (fld r.f 2 2) ++ be 1 (fld r.f 0 1) ++ be 1 (u.yDrop r.f))).routeSettle.runSecond) ∧
        (u.yDrop r.f = 0 → Ends (e.1 r) s
          (e.2.2 (u.modYard fun y => { y with incs := (fld r.f 2 2, fld r.f 12 4) :: y.incs.filter (fun x => x.1 ≠ fld r.f 2 2) }) r.f).routeSettle.runSecond)) ∧
    (∀ (s : State) (q : YReq),
      let v := (s.yMap q.src q.inc q.seq).val q.seq
      (v = 4 → s.yRequest q = s.yReply q 6 0 0 []) ∧ (v = 1 → s.yRequest q = s) ∧ (v = 3 → s.yRequest q = s.yReply q 7 0 0 []) ∧
        (∀ r, v = 2 → s.yard.receipts.find? (fun r => r.src == q.src && r.seq == q.seq) = some r →
          s.yRequest q = (if r.status = 0 then s.inc 0x8500_06 else s).yReply q (if r.status = 0 then 1 else r.status) r.window r.result []) ∧
        (v = 1 ∨ v = 2 ∨ v = 3 ∨ v = 4 → (s.yRequest q).mem = s.mem ∧ (s.yRequest q).yard.combs = s.yard.combs)) ∧
    (∀ (line : Bytes) (q : YReq), line.length = 256 → q.off % 256 + q.size ≤ 256 → (q.size = 4 ∨ q.size = 8) → 3 ≤ q.op → q.op ≤ 12 →
      let o := q.off % 256
      let w := fldLe line o q.size
      let a := q.operand % 2 ^ (8 * q.size)
      let t := applyReq line q
      t.2 = w ∧ t.1.length = 256 ∧ t.1.take o = line.take o ∧ t.1.drop (o + q.size) = line.drop (o + q.size) ∧
        fldLe t.1 o q.size = (if q.op = 3 then (w + a) % 2 ^ (8 * q.size) else if q.op = 4 then (if sgn (8 * q.size) a < sgn (8 * q.size) w then a else w)
          else if q.op = 5 then (if sgn (8 * q.size) w < sgn (8 * q.size) a then a else w) else if q.op = 6 then min w a else if q.op = 7 then max w a
          else if q.op = 8 then w &&& a else if q.op = 9 then w ||| a else if q.op = 10 then w ^^^ a else if q.op = 11 then a
          else if w = q.cmp % 2 ^ (8 * q.size) then a else w)) ∧
    (∀ (s : State) (home seq : Nat), s.serving = true →
      (∀ o, s.ySentOp home seq = some o → Ends (.yardRetryTimeout home seq) s ((s.inc 0x8500_05).yEmit o true).routeSettle.runSecond ∧
          Ends (.operationIndeterminate home seq) s (s.yIndeterminate o).routeSettle.runSecond) ∧
        (s.ySentOp home seq = none → Ends (.yardRetryTimeout home seq) s s.routeSettle.runSecond ∧ Ends (.operationIndeterminate home seq) s s) ∧
        Ends (.receiptQueryTimer home seq) s (if ∃ e ∈ s.yard.listed, e.home = home ∧ e.seq = seq ∧ e.closed = false
          then s.ySend home (s.yFrame 0x62 home 1 0 (be 4 seq ++ zeros 4)) else s).routeSettle.runSecond ∧
        Ends (.receiptExpiry home seq) s (s.modYard fun y => { y with receipts := y.receipts.filter (fun r => ¬ (r.src = home ∧ r.seq = seq)) }).routeSettle.runSecond) ∧
    (∀ (s : State) (line : Nat), s.serving = true → (∀ c ∈ s.yard.combs, c.line ≠ line / 256 * 256) → Ends (.combiningEntryClose line) s s.yieldLog.routeSettle.runSecond) ∧
    (∀ (s : State) (line : Nat) (c : YComb) (r : YRegion) (page : Nat) (p : YPage), s.serving = true →
      s.yard.combs.find? (fun c => c.line == line / 256 * 256) = some c → s.yPageAt (line / 256 * 256) = some (r, page) → s.yPage r.num page = some p →
      p.place = 1 → p.ref = true → p.retire = false → s.yard.rehash = none → r.coded = false → r.cls = 0 →
      let ptr := ((s.yard.ptrs.find? (fun x => x.1 == (s.yHome r.num page).1)).map (·.2)).getD 0
      let qs := serial ptr c.reqs
      let u := ((s.yDropComb (line / 256 * 256)).modYard fun y => { y with
        ptrs := ((s.yHome r.num page).1, (((qs.head?).map (·.src)).getD ptr + 1) % 4096) :: y.ptrs.filter (fun x => x.1 ≠ (s.yHome r.num page).1) }).yApply
          r (s.yHome r.num page).1 (line / 256 * 256) qs
      Ends (.combiningEntryClose line) s
        (if u.yInStall r.num page then u.yUnstage r page (c.reqs.any (fun q => q.op ≠ 1)) else u).yieldLog.routeSettle.runSecond) ∧
    ∀ s : State, s.serving = true → (2 ≤ s.fn .yard → Ends .rekeyCheck s s.rekeyCheck.routeSettle.runSecond ∧ Ends .migrationSet s s.migrateSet.routeSettle.runSecond ∧
        s.rekeyCheck.yard.served = [] ∧ (s.yard.rehash = none → s.migrateSet = s)) ∧
      (s.fn .yard < 2 → Ends .rekeyCheck s s ∧ Ends .migrationSet s s)

/-- The ranked experts of a token are exactly those whose scores are not NaN, each once, by falling score and, among
equals, rising index. Slots given to a member's choices lie below the capacity; no two choices of one expert, at one
member or at two members whose counts say what they send, have the same slot in a round. ALLOTMENT_ROUND of a call not
yet allotted, outside a flush, runs allotRound, which waits until the counts of the round are final; of an allotted
call it does nothing but settle the stalls. RETURN_WINDOW_WRITE runs windowStore while routing runs. COMBINE_COMPLETE
of a call whose accumulators are complete, outside a flush, runs the write of the call, which frees the call, touches
no byte but those of the call's output rows and of the count of calls combined, and no scalar object but the count
0x8200.03 of cuts; a call not complete waits. COMBINE_TIMEOUT of an allotted mode-1 call that the cursor has passed
runs combineLate. For a call that is not there, all three do nothing but settle the stalls. -/
def Obligations.CallsAreRankedAllottedAndCombined : Prop :=
  (∀ (y : RLayer) (codes : List Nat),
      let key (e : Nat) : Int := orderKey (codes.getD e 0) (fmtBits y.sfmt)
      (ranked y codes).1.Pairwise (fun a b => key b < key a ∨ (key a = key b ∧ a < b)) ∧ (∀ e, e ∈ (ranked y codes).1 ↔ e < y.ne ∧ isNan y.sfmt (codes.getD e 0) = false)) ∧
    (∀ (cap ne : Nat) (cnt : List (List Nat)) (used : List Nat) (p q : Nat) (P Q : List (Nat × Nat)), p ≤ q → q < cnt.length → (∀ x ∈ P, x.2 < ne) → (∀ x ∈ Q, x.2 < ne) →
      (∀ e < ne, (P.filter (fun x => x.2 = e)).length = (cnt.getD p []).getD (e + 4) 0) → (p = q → P = Q) →
      let a := (assign cap p ne cnt used P).1
      let b := (assign cap q ne cnt used Q).1
      a.map (·.1) = P.map (·.1) ∧ (∀ x ∈ a, ∀ u, x.2 = some u → u < cap) ∧
        ∀ i j u v e, a[i]? = some (((P.map (·.1)).getD i 0), some u) → b[j]? = some (((Q.map (·.1)).getD j 0), some v) → (P.map (·.2))[i]? = some e → (Q.map (·.2))[j]? = some e →
          (p ≠ q ∨ i ≠ j) → u ≠ v) ∧
    (∀ (s : State) (l st n : Nat), s.serving = true →
      (s.callOf l st n = none → Ends (.allotmentRound l st n) s s ∧ Ends (.combineComplete l st n) s s ∧ Ends (.combineTimeout l st n) s s) ∧
        (∀ c, s.callOf l st n = some c → (c.allotted = true ∨ s.flushing = true → Ends (.allotmentRound l st n) s s) ∧ (c.allotted = false → s.flushing = false → Ends (.allotmentRound l st n) s (s.allotRound c).routeSettle.runSecond) ∧
          (s.accComplete c = false ∨ s.flushing = true → Ends (.combineComplete l st n) s s) ∧ (s.accComplete c = true → s.flushing = false → Ends (.combineComplete l st n) s (s.writeCombine c).routeSettle.runSecond) ∧
          (c.allotted = true → c.passed = true → (s.layerAt l).mode = 1 → Ends (.combineTimeout l st n) s (s.combineLate c).routeSettle.runSecond) ∧
          ((c.allotted = false ∨ c.passed = false ∨ (s.layerAt l).mode ≠ 1) → Ends (.combineTimeout l st n) s s))) ∧
    (∀ (s : State) (c : Call), s.roundRows c = none → s.allotRound c = s) ∧
    (∀ (s : State) (c : Call), s.callOf c.layer c.step c.num = some c → (s.writeCombine c).callOf c.layer c.step c.num = none ∧ (s.Canon → ∀ x, x ≠ 0x8200_03 → (s.writeCombine c).rd x = s.rd x) ∧
      (∀ x n, s.Canon → (∀ j < c.count, x + n ≤ (s.layerAt c.layer).combAt c.num j 0 ∨ (s.layerAt c.layer).combAt c.num j (s.layerAt c.layer).dh ≤ x) →
        x + n ≤ (s.layerAt c.layer).scores + 36 ∨ (s.layerAt c.layer).scores + 40 ≤ x → (s.writeCombine c).mrd x n = s.mrd x n)) ∧
    ∀ (s : State) (off : Nat) (data : Bytes), s.serving = true → Ends (.returnWindowWrite off data) s (if s.routeOn then (s.windowStore off data).yieldLog.routeSettle.runSecond else s)

/-- A home that adds the contributions of a chunk in any two orders (HomeSlot.add) ends with the same sums, grain tally,
peak, saturation and non-finite counts, residue sums, flag and count, and has seen the same contributors. The two
residues of an element-wise sum of two vectors of one length are the sums of their residues modulo q. Element i of the
sum is what it was plus the exact sum of element i of every contribution. -/
def Obligations.SumsAreExactInAnyOrder : Prop :=
  (∀ (h : HomeSlot) (fs gs : List Bytes), fs.Perm gs →
      { fs.foldl HomeSlot.add h with seen := [] } = { gs.foldl HomeSlot.add h with seen := [] } ∧ (fs.foldl HomeSlot.add h).seen.Perm (gs.foldl HomeSlot.add h).seen) ∧
    (∀ v w : List Int, v.length = w.length →
      residues (v.zipWith (· + ·) w) = (((residues v).1 + (residues w).1) % q31, ((residues v).2 + (residues w).2) % q31)) ∧
    ∀ (h : HomeSlot) (fs : List Bytes) (i : Nat), i < 512 →
      (fs.foldl HomeSlot.add h).sum.getD i 0 = h.sum.getD i 0 + sumI (fs.map (fun f => (elemVals h.fmt f).getD i 0))

/-- In a unit that serves, each frame followed by redSettle. CONTRIBUTION (kind 0x40): without the member-mode flag, of a
key not in use, for another home or of a committed step it adds nothing; of a key in use here, of the own generation
and well formed, the first of a key and attempt that is not alone opens a slot where the reserve has room, a further
one of a new index joins it, one already seen adds nothing, and the one that completes the count sends the result
(homeResult). RESULT (0x41): of a key not in use, not received here or committed, or not of a later attempt than the
one held, it changes nothing; else, after the held one's taint is told (tellTaint), one with a fault of Table 9-6
taints the attempt, and a good one is accepted (acceptResult). RESULT_TIMEOUT of a chunk received here, with an
attempt awaited, taints it with reason 4. TAINT (0x42) is counted, and of a key in use, of the own generation and not
committed, met at the receiver and answered by the contributor. A taint of the latest attempt below 7 is answered by
contributing the next attempt. TAINT_HORIZON finalizes; only a checked result is changed by it. PEAK_NOTICE (0x43) of
a key in use, whole and with entries, of the own generation and not committed, notes every peak, forms the peaks of
the named tensors and judges the skips. LATE_TAINT_TIMEOUT of a late taint ends it with outcome 2. -/
def Obligations.ResultsTaintsAndPeaksArrive : Prop :=
  (∀ (r : Rx) (s : State), s.serving = true →
      let u := s.ce r
      let k := keyOf r.f
      let g := u.redGate r.f k
      let a := fld r.f 27 1
      let e := fld r.f 32 2
      let fmt := fld r.f 26 1
      (frameKind r = 0x40 →
        ((fld r.f 1 1).testBit 3 = false ∨ u.keyKnown k = false ∨ u.homeOf k ≠ u.own ∨ k.step ≤ u.committed → Ends (.contribution r) s u.redSettle) ∧
        ((fld r.f 1 1).testBit 3 = true → u.keyKnown k = true → u.homeOf k = u.own → u.committed < k.step → g.1 = true → (fmt = 2 ∨ fmt = 3 ∨ fmt = 0xC) →
          fld r.f 42 2 < e → r.f.length = 64 + 512 * gWidth fmt →
          (∀ h, h = HomeSlot.add ⟨k, a, e, fmt, [], [], 0, -32768, 0, 0, 0, 0, false, 0⟩ r.f → (∀ x ∈ g.2.red.homes, ¬ (x.key = k ∧ x.attempt = a)) →
            (g.2.redRoom k = false → Ends (.contribution r) s g.2.redSettle) ∧
            (g.2.redRoom k = true → h.c = e → Ends (.contribution r) s (g.2.homeResult h).redSettle) ∧
            (g.2.redRoom k = true → h.c ≠ e → Ends (.contribution r) s (g.2.modRed fun x => { x with homes := x.homes ++ [h] }).redSettle)) ∧
          (∀ h, g.2.red.homes.find? (fun h => h.key = k ∧ h.attempt = a) = some h →
            (h.e ≠ e ∨ h.fmt ≠ fmt ∨ fld r.f 42 2 ∈ h.seen → Ends (.contribution r) s g.2.redSettle) ∧
            (h.e = e → h.fmt = fmt → fld r.f 42 2 ∉ h.seen →
              ((h.add r.f).c = e → Ends (.contribution r) s (g.2.homeResult (h.add r.f)).redSettle) ∧
              ((h.add r.f).c ≠ e → Ends (.contribution r) s
                (g.2.modRed fun x => { x with homes := mapWhere (fun y => decide (y.key = k ∧ y.attempt = a)) (fun _ => h.add r.f) x.homes }).redSettle))))) ∧
      (frameKind r = 0x41 →
        (u.keyKnown k = false ∨ u.receives k = false ∨ k.step ≤ u.committed → Ends (.result r) s u.redSettle) ∧
        (u.keyKnown k = true → u.receives k = true → u.committed < k.step → g.1 = true →
          (∀ x, g.2.resOf k = some x → a ≤ x.attempt → Ends (.result r) s g.2.redSettle) ∧
          ((∀ x, g.2.resOf k = some x → x.attempt < a) →
            let v := g.2.tellTaint k
            (∀ w, v.resultFault k r.f = some w → Ends (.result r) s (v.taintChunk k a w).redSettle) ∧
            (v.resultFault k r.f = none → (∀ x, v.resOf k = some x → x.late = false) → Ends (.result r) s (v.acceptResult k r.f none).redSettle) ∧
            (∀ x, v.resultFault k r.f = none → v.resOf k = some x → x.late = true → Ends (.result r) s (v.acceptResult k r.f (some x)).redSettle)))) ∧
      (frameKind r = 0x42 →
        let v := u.inc 0x8400_04
        let w := v.redGate r.f k
        (v.keyKnown k = false ∨ v.flushing = true ∨ w.1 = false → Ends (.taint r) s
          (if v.keyKnown k = false ∨ v.flushing = true then v else w.2).redSettle) ∧
        (v.keyKnown k = true → v.flushing = false → w.1 = true →
          Ends (.taint r) s (if k.step ≤ w.2.committed then w.2 else (w.2.receiverTaint k a).resend k a).redSettle)) ∧
      (frameKind r = 0x43 →
        let n := fld r.f 32 2
        let p : CKey := ⟨fld r.f 16 8, fld r.f 24 2, false, false, 0⟩
        let w := u.redGate r.f p
        let t := w.2.streamAt p.stream
        (u.keyKnown p = false ∨ n = 0 ∨ 1024 < n ∨ r.f.length < 40 + 6 * n → Ends (.peakNotice r) s u.redSettle) ∧
        (u.keyKnown p = true → n ≠ 0 → n ≤ 1024 → 40 + 6 * n ≤ r.f.length → w.1 = true → w.2.committed < p.step →
          Ends (.peakNotice r) s (((noticeEntries r.f).foldl (fun z x =>
            let z := z.noteNoticePeak ⟨p.step, p.stream, fld r.f 28 4, x.1, x.2.1, x.2.2⟩
            match (z.tensors p.stream).find? (fun y => y.1.tid == x.1) with
            | some y => z.formPeak t p.step y.1
            | none => z) w.2).countSkips t p.step).redSettle))) ∧
    (∀ (s : State) (k : CKey) (a : Nat) (x : Sent), s.sentOf k = some x → x.attempt = a → a < 7 → a ≠ s.rd 0x4000_03 → s.resend k a = s.contribute k (a + 1)) ∧
    (∀ (s : State) (st stream ph chunk : Nat), s.serving = true →
      let k := keyFrom st stream ph chunk
      (s.awaitedAttempt k = none ∨ s.receives k = false ∨ s.flushing = true → Ends (.resultTimeout st stream ph chunk) s s) ∧
        (∀ a, s.awaitedAttempt k = some a → s.receives k = true → s.flushing = false → Ends (.resultTimeout st stream ph chunk) s (s.taintChunk k a 4).redSettle) ∧
        (∀ x, s.sentOf k = some x → (∀ y, s.resOf k = some y → y.attempt < x.attempt) → s.awaitedAttempt k = some x.attempt) ∧
        Ends (.taintHorizon st stream ph chunk) s (s.finalize k).redSettle ∧
        (∀ y, s.resOf k = some y → y.late = true → Ends (.lateTaintTimeout st stream ph chunk) s (s.lateEnd k 2)) ∧
        ((∀ y, s.resOf k = some y → y.late = false) → Ends (.lateTaintTimeout st stream ph chunk) s s)) ∧
    (∀ (s : State) (k : CKey) (y : RRes), s.resOf k = some y → y.st ≠ 1 → s.finalize k = s) ∧
    ∀ (s : State) (k : CKey), s.resOf k = none → s.finalize k = s

/-- A tile without an upset latches, in each of its 1,024 cells, expand of its row operand, its column operand and a_T:
ZERO where one of them is ZERO or the sum lies below -65,535, 65,535 where it lies above 65,535. The sums of a job's
accumulators are the sums of the products of its vectors. The residue checks pass where nothing is upset, and one
upset of a tile's cell by no multiple of 3 is found at that cell; one of a residue of the check row fails the check. For an active slice of a unit that serves: LOG_TILE
without a loaded mould or a needed tile changes nothing, and else does what logTile says. MAC_JOB of a refused word
ends in macRefuse, which leaves every array as it is; another job is shown in 0x2201.01, queued last, and macGo runs
what may run. MAC_JOB_READOUT without a job changes nothing; else the oldest job takes the further vectors and runs,
and it is read out only when it is not paused, no tile is needed and all L updates are made; a readout without an
upset puts the exact sums in the readout area. ARRAY_HOLD_EXPIRY turns a hold into the stop ramp at 31 columns, and
ARRAY_STOP_RAMP_END ends a stop ramp gated at 0 columns; each leaves the other array and every other slice's arrays
alone. Of a slice that is not active all five change nothing. -/
def Obligations.ArraysComputeTilesAndProducts : Prop :=
  (∀ r c t : Int, (expand r c t).1 = if r = -65536 ∨ c = -65536 ∨ t = -65536 ∨ r + c - t < -65535 then -65536 else min 65535 (r + c - t)) ∧
    (∀ (x : TileIn) (a i j : Nat), i < 32 → j < 32 → (x.results (x.raw [] a))[32 * i + j]? = some (expand (x.r.getD i 0) (x.y.getD j 0) x.t)) ∧
    (∀ (x : TileIn) (a : Nat), x.r.length = 32 → x.y.length = 32 → faultyCell (x.raw [] a) x.chkRow x.chkCol = none ∧
      ∀ (i j : Nat) (k : Int), i < 32 → j < 32 → k % 3 ≠ 0 → faultyCell (x.raw [(a, 32 * i + j, k)] a) x.chkRow x.chkCol = some (32 * i + j) ∧
        faultyCell (x.raw [] a) (upsetResidues [(a, j, k)] a x.chkRow) x.chkCol ≠ none) ∧
    (∀ (L i j : Nat) (x y : List (List Int)), i < 32 → j < 32 →
      (macAcc L x y)[32 * i + j]? = some (sumI ((List.range L).map (fun n => (vec16 (x.getD n [])).getD i 0 * (vec16 (y.getD n [])).getD j 0)))) ∧
    (∀ (L : Nat) (x y : List (List Int)), faultyCell (macAcc L x y) (macChkRow L x y) (macChkCol L x y) = none) ∧
    (∀ (s : State) (n : Nat) (j : MacJob) (e2 : Upsets) (a : Nat),
      s.macReadArray n j {} e2 a = s.sramWrite 2 n (readOff a) (wordsBytes 8 ((macAcc (macLen j.word) (j.x a) j.y).map (pat 64)))) ∧
    (∀ (s : State) (n w : Nat), (s.macRefuse n w).arrays.slices = s.arrays.slices) ∧
    (∀ (s : State) (n a w : Nat) (bad : Option Nat) (e1 e2 : Upsets) (v : MacVecs), n < s.hw.slices → s.active n = false →
      ∀ c ∈ [Instr.logTile n bad e1.cells e1.row e1.col e2.cells e2.row e2.col, .macJob n w v.x0 v.x1 v.y, .macJobReadout n v (e1, e2), .arrayHoldExpiry n a, .arrayStopRampEnd n a], exec c s = .next s) ∧
    ∀ (s : State) (n : Nat), n < s.hw.slices → s.active n = true → s.serving = true →
      (∀ (bad : Option Nat) (e1 e2 : Upsets),
        let c := Instr.logTile n bad e1.cells e1.row e1.col e2.cells e2.row e2.col
        (s.pass.mould = none → Ends c s s) ∧
        ∀ m, s.pass.mould = some m → (s.tileSet m n = [] → Ends c s s) ∧ (s.tileSet m n ≠ [] → Ends c s (s.logTile m n bad e1 e2))) ∧
      (∀ (w : Nat) (x0 x1 y : List (List Int)),
        (macRefused w = true → Ends (.macJob n w x0 x1 y) s (s.macRefuse n w)) ∧
        (macRefused w = false → Ends (.macJob n w x0 x1 y) s (((s.wrO 0x2201_01 0 (le 16 w)).modArr n fun a => { a with jobs := a.jobs ++ [⟨w, x0, x1, y⟩] }).macGo n))) ∧
      (∀ (v : MacVecs) (e1 e2 : Upsets),
        ((s.arr n).jobs = [] → Ends (.macJobReadout n v (e1, e2)) s s) ∧
        ∀ j rest, (s.arr n).jobs = j :: rest →
          let k := j.more v
          let u := (s.modArr n fun a => { a with jobs := k :: rest }).macGo n
          ((u.arr n).paused = true ∨ u.tileNeeded n = true ∨ (u.arr n).upd < macLen k.word → Ends (.macJobReadout n v (e1, e2)) s u) ∧
          ((u.arr n).paused = false → u.tileNeeded n = false → macLen k.word ≤ (u.arr n).upd → Ends (.macJobReadout n v (e1, e2)) s ((u.macReadout n k e1 e2).macGo n))) ∧
      ∀ a b : Nat, a ≤ 1 → b = 1 - a →
        (∃ t, Ends (.arrayHoldExpiry n a) s t ∧ (∀ m, m ≠ n → t.arr m = s.arr m) ∧ (t.arr n).get b = (s.arr n).get b ∧ t.mem = s.mem ∧
          (((s.arr n).get a).ramp = .hold → ((t.arr n).get a).ramp = .stopping ∧ ((t.arr n).get a).cols = 31) ∧
          (((s.arr n).get a).ramp ≠ .hold → (t.arr n).get a = (s.arr n).get a)) ∧
        ∃ t, Ends (.arrayStopRampEnd n a) s t ∧ (∀ m, m ≠ n → t.arr m = s.arr m) ∧ (t.arr n).get b = (s.arr n).get b ∧ t.mem = s.mem ∧
          (((s.arr n).get a).ramp = .stopping → ((t.arr n).get a).ramp = .gated ∧ ((t.arr n).get a).cols = 0) ∧
          (((s.arr n).get a).ramp ≠ .stopping → (t.arr n).get a = (s.arr n).get a)

/-- Every update gives a state word in the W64 range; in form 0 the first moment stays, in the others it is in the M32
range. Without a running pass over a loaded mould the commands of the pass change nothing. PASS_TENSOR_START: an
update that the reduction gave nothing is left out and one not yet complete waits, as does a form-2 update not yet
broadcast; else the tensor starts; a form-3 step that is cut is counted; an EMA or a cursor starts once the tensors in
work have no line left. PASS_LINE at an active slice writes only while the pass may (passLine, then yieldLog), and
else only counts the commit hold. FACTORS_COMPUTE ends in computeFactors, FACTOR_BROADCAST in castFactors, which does
nothing when it is not the descriptor's turn. WORKING_COPY_CHECK of a tensor with all lines written: where the sums
agree it is done; where they differ 0x8210.05 and event 0x2105 count it and the copy is derived again.
COMPLETION_WORD_WRITE of a descriptor that is done and not to be written again ends in wordDone, which stores the step
in its word and nowhere else; of another it changes nothing. STEP_DONE with everything ready and not waiting drives
D(s), and else changes nothing. Driven after three frames of 0 it shows the step as done, ends the pass, arms the next
mark and raises the level; before, it waits. STEPDONE_LEVEL_FRAME counts a frame: the third at level 1 drops it, the
third at level 0 drives a D(s) that waits. IMPORT_COMPLETE without an import changes nothing; one with a refused
element changes no memory and ends in status 3, another in status 2. -/
def Obligations.PassUpdatesInRangeAndEndsTheStep : Prop :=
  (∀ (d : Desc) (h : HSet) (x : ElemIn), clamp60 (updateElem d h x).w = (updateElem d h x).w ∧ (d.form = 0 → (updateElem d h x).m = x.m) ∧
      (d.form ≠ 0 → sat31 (updateElem d h x).m = (updateElem d h x).m)) ∧
    (∀ (s : State) (n : Nat) (ls : List Nat) (bad : List (Nat × Nat)) (chk : Nat), s.serving = true → s.pass.mould = none ∨ s.pass.running = false →
      (∀ c, c = .passTensorStart ∨ c = .factorsCompute n ∨ c = .factorBroadcast n ∨ c = .workingCopyCheck n ls ∨ c = .completionWordWrite n ∨ c = .stepDone → Ends c s s) ∧
        (n < s.hw.slices → s.active n = true → Ends (.passLine n ls bad chk) s s)) ∧
    (∀ (s : State) (m : Mould), s.serving = true → s.pass.mould = some m → s.pass.running = true →
      (s.pass.todo = [] → Ends .passTensorStart s s) ∧
        (∀ w rest, s.pass.todo = w :: rest → (m.desc w.desc = none → (∀ x ∈ s.pass.live, x.work ≠ w) → Ends .passTensorStart s (s.modPass fun p => { p with todo := rest })) ∧
          ∀ de, m.desc w.desc = some de → (∀ x ∈ s.pass.live, x.work ≠ w) →
            let t : TPass := { work := w, cursors := List.replicate s.hw.slices 0, sums := List.replicate s.hw.slices (0, 0), turn := 0, below := [] }
            (∀ d, w = .update d →
              (s.reduced s.step de = none → Ends .passTensorStart s s) ∧
              (de.form ≠ 2 → s.reduced s.step de = some false → Ends .passTensorStart s (s.modPass fun p => { p with todo := rest })) ∧
              (de.form = 2 → s.reduced s.step de = some true → (∀ c ∈ s.arrays.cast, c.2 ≠ s.pass.turns + 1) → Ends .passTensorStart s s) ∧
              (de.form = 2 → s.reduced s.step de = some true → (∃ c ∈ s.arrays.cast, c.2 = s.pass.turns + 1) → ∃ u, Ends .passTensorStart s u ∧
                u.pass.todo = rest ∧ u.pass.live = s.pass.live ++ [{ t with turn := s.pass.turns + 1 }] ∧ u.pass.turns = s.pass.turns + 1 ∧ u.mem = s.mem) ∧
              (de.form ≠ 2 → ¬ (de.form = 3 ∧ (step3 de (m.aEta de s.step)).2 = true) → s.reduced s.step de = some true →
                Ends .passTensorStart s (s.modPass fun p => { p with todo := rest, live := p.live ++ [t] })) ∧
              (de.form = 3 → (step3 de (m.aEta de s.step)).2 = true → s.reduced s.step de = some true →
                Ends .passTensorStart s (((s.inc 0x8210_02).modPass fun p => { p with todo := rest, live := p.live ++ [t] }).tally 0x2104 de.tid 1))) ∧
            ((∀ d, w ≠ .update d) →
              ((∀ x ∈ s.pass.live, s.linesDone m x = true) → Ends .passTensorStart s (s.modPass fun p => { p with todo := rest, live := p.live ++ [t] })) ∧
              ((∃ x ∈ s.pass.live, s.linesDone m x = false) → Ends .passTensorStart s s))) ∧
        (∀ n ls bad chk, n < s.hw.slices → s.active n = true → (s.countCommitHold.passMayWrite = false → Ends (.passLine n ls bad chk) s s.countCommitHold) ∧
          (s.countCommitHold.passMayWrite = true → Ends (.passLine n ls bad chk) s (s.countCommitHold.passLine m n ls bad chk).yieldLog)) ∧
        (∀ d, Ends (.factorsCompute d) s (s.computeFactors m d) ∧ Ends (.factorBroadcast d) s (s.castFactors m d) ∧ ((∀ turn, s.nextCast m ≠ some (d, turn)) → s.castFactors m d = s)) ∧
        (∀ d again de, m.desc d = some de → de.work = true →
          (∀ t, s.pass.live.find? (fun t => t.work.desc == d && s.linesDone m t) = some t → t.agrees = true →
            Ends (.workingCopyCheck d again) s (s.modPass fun p => { p with live := p.live.filter (fun x => ¬ (x.work = t.work)), done := p.done ++ [t.work.desc] })) ∧
          (∀ t, s.pass.live.find? (fun t => t.work.desc == d && s.linesDone m t) = some t → t.agrees = false →
            let u := ((s.inc 0x8210_05).evHub 0x2105 (be 2 de.tid ++ be 8 s.step)).rederiveTensor m de
            Ends (.workingCopyCheck d []) s (u.tensorDone t) ∧ ∀ k ks, Ends (.workingCopyCheck d (k :: ks)) s
              (((k :: ks).foldl (fun s j => s.evHub 0x2106 (be 2 de.tid ++ be 8 s.step ++ be 1 j)) u).unitFailed 0x2106 k)) ∧
          ((∀ t ∈ s.pass.live, t.work.desc ≠ d ∨ s.linesDone m t = false) → Ends (.workingCopyCheck d again) s s)) ∧
        (∀ d, (d ∈ s.pass.done → (∀ w ∈ s.pass.todo, w.desc ≠ d) → (∀ t ∈ s.pass.live, t.work.desc ≠ d) → Ends (.completionWordWrite d) s (s.wordDone m d)) ∧
          (d ∉ s.pass.done → Ends (.completionWordWrite d) s s) ∧
          (s.Canon → m.compl ≠ 0 → (s.wordDone m d).mNat (m.compl + 8 * d) 8 = s.step % 2 ^ 64 ∧
            ∀ x n, x + n ≤ m.compl + 8 * d ∨ m.compl + 8 * d + 8 ≤ x → (s.wordDone m d).mrd x n = s.mrd x n)) ∧
        (s.stepReady = true → s.sensors.doneWaits = none → Ends .stepDone s s.driveDone.drainHeld) ∧ (s.stepReady = false ∨ s.sensors.doneWaits ≠ none → Ends .stepDone s s)) ∧
    (∀ s : State, s.Canon → s.sensors.doneLevel = 0 →
      (3 ≤ s.sensors.doneFrames → s.driveDone.stepDone = s.step ∧ s.driveDone.pass.running = false ∧ s.driveDone.pass.armed = true ∧ s.driveDone.sensors.doneLevel = 1 ∧
        s.driveDone.rd 0x3181_03 = s.epoch) ∧
      (s.sensors.doneFrames < 3 → s.driveDone = s.modSensors fun x => { x with doneWaits := some s.step })) ∧
    (∀ s : State, s.up = true → Ends .stepdoneLevelFrame s s.doneFrame.drainHeld ∧
      (s.sensors.doneLevel = 1 → s.doneFrame = s.modSensors fun x => if 2 ≤ x.doneFrames then { x with doneLevel := 0, doneFrames := 0 } else { x with doneFrames := x.doneFrames + 1 }) ∧
      (∀ st, s.sensors.doneLevel = 0 → s.sensors.doneWaits = some st → 2 ≤ s.sensors.doneFrames → s.doneFrame = (s.modSensors fun x => { x with doneFrames := 3 }).driveDone) ∧
      (s.sensors.doneLevel = 0 → s.sensors.doneWaits = none → s.doneFrame = s.modSensors fun x => { x with doneFrames := min 3 (x.doneFrames + 1) })) ∧
    ∀ s : State, s.serving = true → Ends .importComplete s s.importEnd ∧ (s.pass.importing = none → s.importEnd = s) ∧
      (∀ n fmt src m d, s.Canon → s.pass.importing = some (n, fmt, src) → s.pass.mould = some m → m.desc n = some d →
        (∀ e, importAll fmt d.f 0 (s.mWords src (fmtBytes fmt) d.count) = .error e → s.importEnd.mem = s.mem ∧ s.importEnd.rd 0x2107_02 = 3) ∧
          (∀ vs, importAll fmt d.f 0 (s.mWords src (fmtBytes fmt) d.count) = .ok vs → s.importEnd.rd 0x2107_02 = 2 ∧ s.importEnd.pass.importing = none))

/-- The merged difference of an element is the same whatever the order of the contributions, and 0 without any; its
rounding is to the nearest, ties to even. In a unit that serves: with site exchange not running SWEEP_START,
SWEEP_BLOCK, ROUND_CLOSE, REPAIR_WAIT and MANIFEST_WAIT change nothing, and MANIFEST, LONG_HAUL_PACKET,
REPAIR_REQUEST, SHARD_SUMMARY, SHARD_COMPLETE, SITE_JOIN_REQUEST and JOIN_ANSWER (kinds 0x50 to 0x56) change nothing
but the count of congestion marks. With it running: SWEEP_START without a due round or with a sweep in hand changes
nothing; a due round begins when the pass may write and the site is not joining. SWEEP_BLOCK visits the next block,
and without a sweep none. ROUND_CLOSE makes, sends, keeps the manifest of a round swept and not closed at the
coordinator's lead, and elsewhere changes nothing. MANIFEST is kept if it passes R251's checks, the latest 8 are held.
LONG_HAUL_PACKET with a fault is counted and reported with the first check that fails; of a payload held it adds
nothing; else takePacket takes it. REPAIR_WAIT asks for the data packets that a set lacks, or, of a set of which
nothing came while others of its block did, for all. REPAIR_REQUEST is answered from the peer of a site of the table,
for the own job, and else dropped. SHARD_SUMMARY of the job and a site of the table replaces the earlier one; else it
is dropped. SHARD_COMPLETE is taken at the lead, through the gate. MANIFEST_WAIT detaches a site whose sweep holds.
SITE_JOIN_REQUEST is judged at the coordinator, for the own job, and else dropped. JOIN_ANSWER reaches a joiner from
its coordinator: a refusal ends the joining with event 0x4208, an acceptance tells the first round; of another job it
is dropped, and no other site takes it. -/
def Obligations.RoundsSweepAndMerge : Prop :=
  (∀ (es fs : List (Nat × Int)) (eta : Nat), es.Perm fs → mergedDelta es eta = mergedDelta fs eta) ∧ (∀ eta, mergedDelta [] eta = 0) ∧
    (∀ n d : Int, 0 < d → 2 * (n - d * divRne n d) ≤ d ∧ -d ≤ 2 * (n - d * divRne n d) ∧ (2 * (n - d * divRne n d) = d ∨ 2 * (n - d * divRne n d) = -d → divRne n d % 2 = 0)) ∧
    (∀ (s : State) (r : Rx) (a b c d e : Nat), s.serving = true → s.exchOn = false →
      (∀ x ∈ [Instr.sweepStart, .sweepBlock, .roundClose a, .repairWait a b c d e, .manifestWait], Ends x s s) ∧
        ∀ x ∈ [(0x50, Instr.longHaulPacket r), (0x51, .manifest r), (0x52, .repairRequest r), (0x53, .shardSummary r), (0x54, .siteJoinRequest r), (0x55, .joinAnswer r), (0x56, .shardComplete r)],
          frameKind r = x.1 → Ends x.2 s (s.ce r)) ∧
    (∀ (s : State), s.serving = true → s.exchOn = true →
      (s.xRound = none ∨ s.exch.sweep.isSome = true → Ends .sweepStart s s) ∧
        (∀ k, s.xRound = some k → s.exch.sweep = none → s.passMayWrite = true → s.rd 0x4200_14 ≠ 1 →
          Ends .sweepStart s (((s.wr 0x4200_13 k).modExch fun x => { x with sweep := some (k, 0, s.now) }).wr 0x4200_14 3)) ∧
        Ends .sweepBlock s s.sweepBlock.yieldLog.drainHeld ∧ (s.exch.sweep = none → s.sweepBlock = s) ∧
        (∀ k, (s.site ≠ s.coordinator ∨ s.leadOf ≠ s.own ∨ s.rd 0x4200_13 < k ∨ (s.manifestOf k).isSome = true → Ends (.roundClose k) s s) ∧
          (s.site = s.coordinator → s.leadOf = s.own → k ≤ s.rd 0x4200_13 → s.manifestOf k = none → Ends (.roundClose k) s
            ((((s.member.members.filter (· ≠ s.own)).foldl (fun t d => t.sendMember d (s.makeManifest k)) s).keepManifest (s.makeManifest k)).countLate k))) ∧
        (s.exch.holdAt = none → Ends .manifestWait s s) ∧ (s.exch.holdAt ≠ none → Ends .manifestWait s (s.unholdSweep.modExch fun x => { x with detaching := some (s.sweepLacks (s.exch.sweep.elim 0 (·.1))) })) ∧
        (∀ a b c d e, (s.payOf false a b c d).isSome = true → Ends (.repairWait a b c d e) s s) ∧
        (∀ a b c d e t, s.payOf false a b c d = none →
          s.exch.sets.find? (fun q => !q.anchor && q.site == a && q.shard == b && q.round == c && q.block == d && q.set == e) = some t →
            (t.data.isSome = true → Ends (.repairWait a b c d e) s s) ∧
            (t.data = none → Ends (.repairWait a b c d e) s (s.askRepair a b c d e (sumN (((List.range t.k).filter (fun i => ¬ t.packets.any (·.1 == i))).map (fun i => 2 ^ i)))))) ∧
        (∀ a b c d e, s.payOf false a b c d = none →
          s.exch.sets.find? (fun q => !q.anchor && q.site == a && q.shard == b && q.round == c && q.block == d && q.set == e) = none →
            Ends (.repairWait a b c d e) s (if s.exch.sets.any (fun q => !q.anchor && q.site == a && q.shard == b && q.round == c && q.block == d) then
              s.askRepair a b c d e (2 ^ s.rd 0x4200_07 - 1) else s))) ∧
    ∀ (r : Rx) (s : State), s.serving = true → s.exchOn = true →
      let u := s.ce r
      (frameKind r = 0x51 → (u.manifestOk r.f = false → Ends (.manifest r) s u) ∧ (u.manifestOk r.f = true → Ends (.manifest r) s (u.keepManifest r.f)) ∧
        ∀ f, (u.keepManifest f).exch.manifests = (f :: u.exch.manifests).take 8) ∧
      (frameKind r = 0x50 →
        (u.packetDrop r.f ≠ 0 → Ends (.longHaulPacket r) s ((u.inc 0x8420_0C).evHub 0x420A (be 2 (fld r.f 2 2) ++ be 1 0x50 ++ be 1 (u.packetDrop r.f)))) ∧
        (u.packetDrop r.f = 0 → Ends (.longHaulPacket r) s (u.takePacket r.f)) ∧
        (u.packetDrop r.f = 0 → (u.payOf ((fld r.f 1 1).testBit 1) (fld r.f 2 2) (fld r.f 4 2) (fld r.f 16 4) (fld r.f 20 4)).isSome = true → u.takePacket r.f = u)) ∧
      (frameKind r = 0x52 →
        (u.siteFrom r.addr = none → Ends (.repairRequest r) s (u.xDrop (fld r.f 16 2) 0x52 2)) ∧
        (∀ x, u.siteFrom r.addr = some x → fld r.f 8 8 ≠ u.job → Ends (.repairRequest r) s (u.xDrop x 0x52 1)) ∧
        (∀ x, u.siteFrom r.addr = some x → fld r.f 8 8 = u.job → Ends (.repairRequest r) s (u.answerRepair r.f x))) ∧
      (frameKind r = 0x53 →
        (fld r.f 8 8 ≠ u.job → Ends (.shardSummary r) s (u.xDrop (fld r.f 16 2) 0x53 1)) ∧
        (fld r.f 8 8 = u.job → (∀ x ∈ u.sites, x.1 ≠ fld r.f 16 2) → Ends (.shardSummary r) s (u.xDrop (fld r.f 16 2) 0x53 2)) ∧
        (fld r.f 8 8 = u.job → (∃ x ∈ u.sites, x.1 = fld r.f 16 2) →
          let shard := if fld r.f 2 2 ∈ u.xShards then fld r.f 2 2 else u.own
          let x : XSum := ⟨fld r.f 16 2, shard, fld r.f 18 4, fld r.f 22 4, slice r.f 28 32, slice r.f 60 32⟩
          Ends (.shardSummary r) s ((u.modExch fun e => { e with
            sums := e.sums.filter (fun y => ¬ (y.site = x.site ∧ y.shard = shard ∧ y.round = x.round)) ++ [x] }).tryComplete x.site shard x.round))) ∧
      (frameKind r = 0x56 →
        (((u.gate r.f).1 = false ∨ (u.gate r.f).2.leadOf ≠ (u.gate r.f).2.own) → Ends (.shardComplete r) s (u.gate r.f).2) ∧
        ((u.gate r.f).1 = true → Ends (.shardComplete r) s ((u.gate r.f).2.takeComplete r.f))) ∧
      (frameKind r = 0x54 →
        ((u.site ≠ u.coordinator ∨ fld r.f 8 8 ≠ u.job) → Ends (.siteJoinRequest r) s (u.xDrop (fld r.f 16 2) 0x54 1)) ∧
        (u.site = u.coordinator → fld r.f 8 8 = u.job → Ends (.siteJoinRequest r) s (u.judgeSite r.f))) ∧
      (frameKind r = 0x55 →
        (fld r.f 8 8 ≠ u.job → Ends (.joinAnswer r) s (u.xDrop (fld r.f 16 2) 0x55 1)) ∧
        (fld r.f 8 8 = u.job → (u.rd 0x4200_14 ≠ 1 ∨ fld r.f 16 2 ≠ u.coordinator) → Ends (.joinAnswer r) s u) ∧
        (fld r.f 8 8 = u.job → u.rd 0x4200_14 = 1 → fld r.f 16 2 = u.coordinator →
          (fld r.f 18 1 ≠ 0 → Ends (.joinAnswer r) s ((u.wr 0x4200_14 0).evHub 0x4208 (be 1 (fld r.f 18 1)))) ∧
          (fld r.f 18 1 = 0 → Ends (.joinAnswer r) s (u.modExch fun x => { x with joined := some (fld r.f 20 4, slice r.f 24 32), first := fld r.f 20 4, manifests := [] }))))

/-- In a unit that serves, of frames of kinds 0x70 to 0x73: a WATERMARK, BISECT_QUERY, BISECT_ANSWER or LINE that R314
refuses (auditDrop) is counted and reported at most once a second, and does nothing else; any other is taken
(takeWatermark, takeQuery, takeBisectAnswer, takeLine). A watermark replaces the replica's earlier one of the commit,
and is compared where that commit is and no bisection is in hand. Compared with the own values, one of another key or
line count shows status 7 and leaves the audit record; an equal one without a bisection shows status 1; one that
differs is counted for each space that differs and puts a bisection in hand, at first with status 2. BISECTION_START,
BISECT_ANSWER_TIMEOUT and BISECTION_LIMIT change nothing without a bisection. BISECTION_START ends in startBisect: of
another commit, or of one begun, it changes nothing. BISECT_ANSWER_TIMEOUT ends in dropAnswer: of the lead itself, of
no participant or elsewhere than at the lead it changes nothing. BISECTION_LIMIT counts and reports the end with cause
1 and ends the bisection with status 6. A query at a member in a cut, or of a commit not among the compared ones,
changes nothing. An answer of one that has answered, of no participant or of another query adds nothing; another is
added and the query judged. A line is not decided, nor a query judged, before every participant has answered. -/
def Obligations.ReplicasAreComparedAndBisected : Prop :=
  (∀ (r : Rx) (o : Option (List Nat)) (s : State), s.serving = true →
      let u := s.ce r
      (u.auditDrop r.f ≠ 0 → ∀ x ∈ [(0x70, Instr.watermark r), (0x71, .bisectQuery r o), (0x72, .bisectAnswer r), (0x73, .line r o)], frameKind r = x.1 →
        Ends x.2 s ((u.inc 0x8600_07).evSecond 0x6007 (be 2 (fld r.f 2 2) ++ be 1 (fld r.f 0 1) ++ be 1 (u.auditDrop r.f)))) ∧
      (u.auditDrop r.f = 0 →
        (frameKind r = 0x70 → Ends (.watermark r) s (u.takeWatermark r.f)) ∧ (frameKind r = 0x71 → Ends (.bisectQuery r o) s (u.takeQuery r.f o)) ∧
        (frameKind r = 0x72 → Ends (.bisectAnswer r) s (u.takeBisectAnswer r.f)) ∧ (frameKind r = 0x73 → Ends (.line r o) s (u.takeLine r.f o)))) ∧
    (∀ (s : State) (f : Bytes),
      let x := wmOf f
      let t := s.modAudit fun a => { a with frames := a.frames.filter (fun y => ¬ (y.dev = x.dev ∧ y.commit = x.commit)) ++ [x] }
      s.takeWatermark f = if x.commit ∈ s.audit.compared ∧ s.audit.bisect = none then t.compareWith x else t) ∧
    (∀ (s : State) (x : WmRec), s.Canon → (s.ownWm x.commit = none → s.compareWith x = s) ∧
      (∀ w n, s.ownWm x.commit = some (w, n) →
        (s.comparable x = false → (s.compareWith x).rd 0x6001_06 = 7 ∧ (s.compareWith x).audit = s.audit) ∧
        (s.comparable x = true → x.wmW = w → x.wmN = n → s.audit.bisect = none → s.compareWith x = s.wr 0x6001_06 1) ∧
        (s.comparable x = true → ¬ (x.wmW = w ∧ x.wmN = n) → (s.compareWith x).audit.bisect.isSome = true ∧
          (s.compareWith x).rd 0x8600_02 = min (s.rd 0x8600_02 + ((if x.wmW = w then 0 else 1) + (if x.wmN = n then 0 else 1))) (objMax 0x8600_02) ∧
          (s.audit.bisect = none → (s.compareWith x).rd 0x6001_06 = 2)))) ∧
    (∀ (s : State) (c dev : Nat), s.serving = true → (s.audit.bisect = none → Ends (.bisectionStart c) s s ∧ Ends (.bisectAnswerTimeout dev) s s ∧ Ends .bisectionLimit s s) ∧
      Ends (.bisectionStart c) s (s.startBisect c) ∧ Ends (.bisectAnswerTimeout dev) s (s.dropAnswer dev) ∧
      (∀ b, s.audit.bisect = some b → Ends .bisectionLimit s (((s.inc 0x8600_06).ev 0x6006 (be 8 b.commit ++ be 1 1)).endBisect 6)) ∧
      (∀ b, s.audit.bisect = some b → (b.lead ≠ s.own ∨ dev ∉ b.parts ∨ dev = s.own) → Ends (.bisectAnswerTimeout dev) s s) ∧
      (∀ b, s.audit.bisect = some b → (b.commit ≠ c ∨ b.parts ≠ []) → Ends (.bisectionStart c) s s)) ∧
    (∀ (s : State) (f : Bytes) (o : Option (List Nat)), s.member.cut.isSome = true ∨ fld f 16 8 ∉ s.audit.compared → s.takeQuery f o = s) ∧
    (∀ (s : State) (f : Bytes) (b : Bisect) (q : Query), s.audit.bisect = some b → b.query = some q →
      ((∃ a ∈ b.answers, a.1 = fld f 2 2) ∨ fld f 2 2 ∉ b.parts ∨ q.num ≠ fld f 8 4 → s.takeBisectAnswer f = s) ∧
        ((∀ a ∈ b.answers, a.1 ≠ fld f 2 2) → fld f 2 2 ∈ b.parts → q.num = fld f 8 4 → b.commit = fld f 16 8 → fld f 33 1 = q.parts →
          s.takeBisectAnswer f = (s.modBisect fun b => { b with answers := b.answers ++ [(fld f 2 2, beWords f 48)] }).judgeQuery)) ∧
    ∀ (s : State) (b : Bisect), s.audit.bisect = some b →
      ((∃ d ∈ b.parts, ∀ a ∈ b.lineAns, a.dev ≠ d) → s.decideLine = s) ∧ ((∃ d ∈ b.parts, ∀ a ∈ b.answers, a.1 ≠ d) → s.judgeQuery = s)

/-- In a unit that serves, of the line of a repair entry: REPAIR_COMPLETE of a coded line or a felt line that the stripe's
answers solve while coding is ON writes the solved words and ends the repair as repaired; where they do not solve it,
or coding is not ON, it ends as failed, as it does at REPAIR_LIMIT; then what waited for it goes on (afterRepair),
which is all that happens without an entry. The end of a repair takes the entry off the list and counts it in
0x8510.06, or failed in 0x8510.0A. In a unit that is up, SRAM_PATROL of a row without an injection changes nothing
when it is sound, counts one flipped bit in 0x8510.01, two in 0x8510.02, and more in 0x8510.03, when the row is lost;
a row of a slice that is not active is not read, and no patrol of a row changes host memory. An injection on a row is
spent by its next read and gives the bits that it flips. A whole word written to a row clears its mark; a narrower
write to a marked row leaves it marked. HBM_PATROL of an active slice of a unit that serves changes nothing while it
is disabled; an unreadable line of a stall table fails the unit with event 0x5109; a sound one, and an unreadable line
elsewhere in the stable, change nothing; of a coded line of that slice below the yard without a repair entry, an
unreadable one is given an entry, and a sound one changes nothing. -/
def Obligations.RepairsAndPatrolsEndWhatTheyFind : Prop :=
  (∀ (s : State) (a : Nat) (as : StripeAnswers) (ps : List (Nat × List Nat)) (lost : List Nat), s.serving = true →
      (s.repairOf a = none → Ends (.repairComplete a as ps lost) s s.afterRepair ∧ Ends (.repairLimit a) s s.afterRepair) ∧ Ends (.repairLimit a) s (s.endRepair a false).afterRepair ∧
        Ends (.repairComplete a as ps lost) s (s.repair a as ps lost).afterRepair ∧
        (∀ r l, s.repairOf a = some r → r.cls = 0 → s.lineAt r.addr = some l →
          (∀ ws, s.fn .coding = 2 → s.solveLine l as ps lost = some ws → Ends (.repairComplete a as ps lost) s ((s.repairCoded l r.addr ws).endRepair a true).afterRepair) ∧
          (s.fn .coding ≠ 2 ∨ s.solveLine l as ps lost = none → Ends (.repairComplete a as ps lost) s (s.endRepair a false).afterRepair)) ∧
        (∀ r g sp n b j, s.repairOf a = some r → r.cls = 1 → s.feltAt r.addr = some (g, sp, n, b, j) →
          (∀ ws, s.fn .coding = 2 → s.solveFelt g sp n j as ps lost = some ws → Ends (.repairComplete a as ps lost) s ((s.repairFelt g sp n b ws).endRepair a true).afterRepair) ∧
          (s.fn .coding ≠ 2 ∨ s.solveFelt g sp n j as ps lost = none → Ends (.repairComplete a as ps lost) s (s.endRepair a false).afterRepair))) ∧
    (∀ (s : State) (a : Nat) (r : Repair), s.Canon → s.repairOf a = some r →
      (s.endRepair a true).prot.repairs = s.prot.repairs.filter (fun x => ¬ (x.addr = r.addr)) ∧
        (s.endRepair a true).rd 0x8510_06 = min (s.rd 0x8510_06 + 1) (objMax 0x8510_06) ∧ (s.endRepair a false).rd 0x8510_0A = min (s.rd 0x8510_0A + 1) (objMax 0x8510_0A)) ∧
    (∀ (s : State) (mem slice row n cls : Nat) (h : Bool), s.up = true → mem ≤ 4 → (if mem ≤ 2 then slice else 0) < s.hw.slices →
      (mem ≤ 2 → s.active slice = false → exec (.sramPatrol mem slice row n h cls) s = .next s) ∧
      ((mem ≤ 2 → s.active slice = true) → Ends (.sramPatrol mem slice row n h cls) s (s.patrolRow mem slice row n h cls) ∧ (s.patrolRow mem slice row n h cls).mem = s.mem ∧
        ((∀ w ∈ s.prot.injected, ¬ (bits w 0 8 = mem ∧ (bits w 8 5 = slice ∨ 3 ≤ mem) ∧ bits w 16 32 = row)) →
          (n = 0 → s.patrolRow mem slice row n h cls = s) ∧
          (n = 1 → s.patrolRow mem slice row n false cls = s.inc 0x8510_01) ∧
          (n = 2 → s.patrolRow mem slice row n false cls = (s.inc 0x8510_02).evSecond 0x5104 (be 1 mem ++ be 1 slice ++ be 4 row)) ∧
          (3 ≤ n → s.patrolRow mem slice row n false cls = (State.evSlice (s.inc 0x8510_03) slice 0x5105 (be 1 mem ++ be 1 slice ++ be 4 row)).sramLost mem slice row cls)))) ∧
    (∀ (s : State) (mem slice row w : Nat), s.prot.injected.find? (fun w => bits w 0 8 == mem && (bits w 8 5 == slice || decide (mem ≥ 3)) && bits w 16 32 == row) = some w →
      (s.takeInjection mem slice row).1 = bits w 13 2 ∧ (s.takeInjection mem slice row).2 = s.modProt fun p => { p with injected := p.injected.filter (· ≠ w) }) ∧
    (∀ (s : State) (mem slice row off : Nat) (bs : Bytes), (bs.length = 8 → (mem, slice, row) ∉ (s.sramWrite mem slice (8 * row) bs).prot.poisonRows) ∧
      ((mem, slice, row) ∈ s.prot.poisonRows → (mem, slice, row) ∈ (s.narrowRow mem slice row off bs).prot.poisonRows)) ∧
    ∀ (s : State) (n a : Nat) (bad fin : Bool), n < s.hw.slices → s.active n = true → s.serving = true →
      (s.rd 0x5102_02 = 0 → Ends (.hbmPatrol n a bad fin) s s) ∧
        (s.rd 0x5102_02 ≠ 0 → s.viewAddr a = a → a < yardV → (s.stableRegion.1 ≤ a ∧ a < s.stableRegion.1 + s.stableRegion.2) →
          (s.inStallTable n a = true → Ends (.hbmPatrol n a true false) s ((s.evSlice n 0x5109 (be 1 n)).unitFailed 0x5109 n)) ∧
          Ends (.hbmPatrol n a false false) s s ∧ (s.inStallTable n a = false → Ends (.hbmPatrol n a true false) s s)) ∧
        (s.rd 0x5102_02 ≠ 0 → s.viewAddr a = a → a < yardV → ¬ (s.stableRegion.1 ≤ a ∧ a < s.stableRegion.1 + s.stableRegion.2) → s.lineClass a = 0 → s.inSlice n a = true → s.repairOf a = none →
          (s.unreadable a = true → Ends (.hbmPatrol n a false false) s (s.openRepair a 0 n [])) ∧ (s.unreadable a = false → Ends (.hbmPatrol n a false false) s s))

/-- S_PORT_READ, LOAD, FENCE_READ (kind 1), S_PORT_WRITE, STORE, RELEASE_CURSOR_WRITE, CALL_RELEASE, COMBINE_CURSOR_WRITE
(kind 2), ADD, SMIN, SMAX, UMIN, UMAX, AND, OR, XOR, SWAP and CAS (kinds 3 to 12) at the fabric face of a built slice
(sportRows): in OFF nothing happens; at a mapped-out slice the request goes to the bypass; in FROZEN a whole request
is a frozen one. Elsewhere a protocol error has event 0x7106 and the error response, and any other request is served
in parts (acceptParts). A whole one with room to hold: outside every range it is counted and goes to the controller;
in a range it is counted in 0x8710.02. A read of an intake window gives zeros; of the fence line it is the yard's;
elsewhere but in the aperture it goes to the controller, or joins the repair of its line. An atomic outside the
aperture has the write-error response; the aperture is the yard's. A write to no coded line: working and completion
ranges count, note event 0x2108 and discard; felt ranges do so with 0x3007, or refuse poison; staging and result
ranges report and discard; backing and fence discard; a list during a pass reports 0x2107 and stores; scores end in
writeScores; count, seed, routeOut, combine and window take the bytes and marks; an intake window refuses, holds or
takes the elements as judgeIntake says, its first line the cursor. A write to a coded line: refused with poison while
coding, or where writes fail; to an exchange region discarded and reported; outside exchange held behind a held write
of its line, for a repair or for what holdWhy says, else applied. A write without room waits in the queue. -/
def Obligations.HostRequestsAreAnsweredByTheirRange : Prop :=
  (∀ x ∈ sportRows, ∀ (q p : SReq) (s : State), q.slice < s.hw.slices → p = reqTrim (asKind x.2 q) →
      (s.dev = 0 → exec (x.1 q) s = .next s) ∧
        (s.dev ≠ 0 → s.active q.slice = false → (s.dev = 8 → exec (x.1 q) s = .next (s.bypass p)) ∧ (s.dev ≠ 8 → Ends (x.1 q) s (s.bypass p))) ∧
        (s.dev = 8 → s.active q.slice = true → p.size ≤ 256 - p.addr % 256 → s.sport.second = [] → exec (x.1 q) s = .next (s.frozenRequest p)) ∧
        (s.dev ≠ 0 → s.dev ≠ 8 → s.active q.slice = true →
          (∀ c, s.protocolFault p = some c → Ends (x.1 q) s ((s.evSlice q.slice 0x7106 (be 1 q.slice ++ be 1 0 ++ be 1 c)).errorResp p)) ∧
          (s.protocolFault p = none → Ends (x.1 q) s (s.acceptParts q.poison p)))) ∧
    (∀ x ∈ sportRows, ∀ (q p : SReq) (s : State), p = reqTrim (asKind x.2 q) → s.Takes p → s.active p.slice = true → (p.kind = 1 ∨ s.HoldRoom p.slice) →
      (s.served p.slice p.addr = none → Ends (x.1 q) s ((s.inc 0x8710_01).toCtrl p false)) ∧
        ∀ (r : Region) (u : State), u = s.inc 0x8710_02 → s.served p.slice p.addr = some r →
          (p.kind = 1 → r.kind = .intake → Ends (x.1 q) s (u.answer p 0 0 (zeros p.size))) ∧
            (p.kind = 1 → r.kind ∉ [.intake, .aperture, .fence] → u.repairOf (u.viewAddr p.addr) = none → Ends (x.1 q) s (u.toCtrl p true)) ∧
            (p.kind = 1 → r.kind ∉ [.intake, .aperture, .fence] → u.repairOf (u.viewAddr p.addr) ≠ none →
              Ends (x.1 q) s (u.openRepair (u.viewAddr p.addr) (u.lineClass (u.viewAddr p.addr)) p.slice [p])) ∧
            (3 ≤ p.kind → r.kind ≠ .aperture → Ends (x.1 q) s (u.answer p 1 0 [])) ∧
            (r.kind = .aperture → (p.kind = 2 → u.lineAt p.addr = none) → Ends (x.1 q) s (u.yHost p).routeSettle.runSecond) ∧
            (p.kind = 1 → r.kind = .fence → Ends (x.1 q) s (u.yFenceRead p).runSecond) ∧
            (p.kind = 2 → u.lineAt p.addr = none →
              (r.kind ∈ [.working, .completion] → Ends (x.1 q) s (((u.inc 0x8210_07).tallyAt 0x2108 p.addr).answer p 0 0 [])) ∧
                (r.kind ∈ [.felt, .spare, .reserve] → p.poison = 0 → Ends (x.1 q) s (((u.inc 0x8300_07).tallyAt 0x3007 p.addr).answer p 0 0 [])) ∧
                (r.kind ∈ [.felt, .spare, .reserve] → p.poison ≠ 0 → Ends (x.1 q) s (((u.inc 0x8510_07).ev 0x5108 (be 8 p.addr)).answer p 1 0 [])) ∧
                (r.kind ∈ [.staging, .result] → Ends (x.1 q) s (((u.inc 0x8400_0A).evSlice p.slice 0x4007 (be 8 p.addr ++ be 1 3)).answer p 0 0 [])) ∧
                (r.kind ∈ [.backing, .fence] → Ends (x.1 q) s (u.answer p 0 0 [])) ∧
                (r.kind ∈ [.count, .seed, .routeOut, .combine, .window] →
                  Ends (x.1 q) s (((u.mwr p.addr (reqBytes p)).markPoison p.addr p.poison).answer p 0 0 [])) ∧
                (r.kind = .list → Ends (x.1 q) s ((((if u.pass.running then (u.inc 0x8210_08).evStep 0x2107 (be 8 u.step ++ be 1 r.item ++ be 8 p.addr) else u).mwr
                  p.addr (reqBytes p)).markPoison p.addr p.poison).answer p 0 0 [])) ∧
                (r.kind = .scores → Ends (x.1 q) s (u.writeScores p r.base r.item).runSecond) ∧
                (r.kind = .intake → p.addr - r.base < 256 → Ends (x.1 q) s ((u.controlWrite r.item (p.addr - r.base) (reqBytes p)).answer p 0 0 []).runSecond) ∧
                (r.kind = .intake → 256 ≤ p.addr - r.base →
                  let j := u.judgeIntake (u.streamAt r.item) u.intakeStep false (p.addr - r.base) p.size
                  (∀ c, j = .refuse c → Ends (x.1 q) s (((u.inc 0x8400_0A).evSlice p.slice 0x4007 (be 8 p.addr ++ be 1 c)).answer p 1 0 [])) ∧
                  (∀ c tid, j = .hold c tid → Ends (x.1 q) s (((u.inc 0x8400_09).evSlice p.slice 0x4009 (be 2 r.item ++ be 2 tid ++ be 1 c)).hold p .intake none)) ∧
                  (j = .go → Ends (x.1 q) s ((u.intakeApply (u.streamAt r.item) u.intakeStep (p.addr - r.base)
                    (poisonElems (u.streamAt r.item).hfmt p.addr p.poison (reqBytes p))).answer p 0 0 []).runSecond))) ∧
            (∀ l, p.kind = 2 → u.lineAt p.addr = some l →
              (p.poison ≠ 0 → u.coding = true → Ends (x.1 q) s (((u.inc 0x8510_07).ev 0x5108 (be 8 p.addr)).answer p 1 0 [])) ∧
                (p.poison = 0 → u.writesFail = true → Ends (x.1 q) s (u.answer p 1 0 [])) ∧
                (p.poison = 0 → u.writesFail = false → l.src = u.own → u.exchOn = true → ∀ d y, u.exchLine (p.addr / 256 * 256) = some (true, d, y) →
                  Ends (x.1 q) s (((u.inc 0x8420_0B).evSlice p.slice 0x4207 (be 8 p.addr)).answer p 0 0 [])) ∧
                (p.poison = 0 → u.writesFail = false → ¬ (l.src = u.own ∧ u.exchOn = true) →
                  (∀ w, u.heldBefore p.addr = some w → Ends (x.1 q) s (u.hold p w none)) ∧
                  (u.heldBefore p.addr = none → u.coding = true →
                    let a := p.addr / 256 * 256
                    let bad := u.repairOf a ≠ none ∨ u.poisonBits a &&& spanMask p.addr p.size ≠ 0
                    (bad → Ends (x.1 q) s ((u.openRepair a 0 p.slice []).hold p .repair none)) ∧
                    (¬ bad → u.holdWhy l p.slice a false = none → Ends (x.1 q) s (u.applyInRoom p l none).runSecond) ∧
                    (∀ w, ¬ bad → u.holdWhy l p.slice a false = some w → Ends (x.1 q) s ((if w = .rush then u.rush l else u).hold p w none))) ∧
                  (u.heldBefore p.addr = none → u.coding = false → Ends (x.1 q) s (u.applyCoded p l).runSecond)))) ∧
    ∀ x ∈ sportRows, ∀ (q p : SReq) (s : State), p = reqTrim (asKind x.2 q) → s.Takes p → s.active p.slice = true → p.kind ≠ 1 → 256 ≤ s.queued p.slice →
      ∃ t, Ends (x.1 q) s t ∧ t.mem = s.mem ∧ t.sport.ctrl = s.sport.ctrl ∧ t.sport.resp = s.sport.resp ∧ t.sport.held = s.sport.held ++ [⟨p, .queue, s.now, s.intakeStep⟩]

/-- Toward a controller, a request is issued only while its controller does not stall, after every earlier request of its
slice and class, and within the granted credits; the requests and their order stay. CONTROLLER_RESPONSE at a built
slice, in OFF nothing, in FROZEN without drainHeld: one that answers no issued request, or with a status above 2,
fails an active slice's unit with 0x7106, moves nothing in FROZEN, and is passed on at a mapped-out slice. One that
answers an issued request frees it: a request that is passed through ends in passResponse, a served one whose line is
no felt line and bears no mark is answered with its bytes. In passResponse a read returns the memory, status and marks
with no byte changed, a write takes effect on its own bytes alone, an atomic stores what its operation says over its
word and returns the old value, an error status changes no byte. At an active slice of a unit that is up
CONTROLLER_STALL of a kind 1 to 3 begins a stall and counts it, and with another kind or a stall in hand changes
nothing; LONG_CONTROLLER_STALL counts and reports a stall once; STALL_INDICATOR_CLEARED ends it and counts its time;
the latter two change nothing without a stall, and none of the three does at a slice that is not active.
INTAKE_HOLD_RELEASE ends in drainHeld. A W64 word that clampWords names is stored as another one, in range (R37). -/
def Obligations.ControllersAreServedInOrder : Prop :=
  (∀ (s : State), s.pumpCtrl.sport.ctrl.map (fun c => c.req) = s.sport.ctrl.map (fun c => c.req) ∧
      ∀ (i : Nat) (c d : CtrlReq), s.sport.ctrl[i]? = some c → s.pumpCtrl.sport.ctrl[i]? = some d →
        (c.issued = true → d = c) ∧ (c.issued = false → d.issued = true → s.stallOf c.req.slice = 0 ∧
          let mine := (s.pumpCtrl.sport.ctrl.take i).filter (fun e => e.req.slice = c.req.slice ∧ reqCls e.req = reqCls c.req)
          mine.length < s.sport.grant ∧ ∀ e ∈ mine, e.issued = true)) ∧
    (∀ (n k tag st po : Nat) (s : State), n < s.hw.slices →
      let found := s.sport.ctrl.find? (fun c => c.issued && c.req.slice == n && c.req.tag == tag && c.req.kind == k)
      (s.dev = 0 → exec (.controllerResponse n k tag st po) s = .next s) ∧
        ((found = none ∨ 2 < st) →
          (s.dev ≠ 0 → s.dev ≠ 8 → s.active n = true → Ends (.controllerResponse n k tag st po) s
            ((s.evSlice n 0x7106 (be 1 n ++ be 1 1 ++ be 1 (if st ≤ 2 then 3 else 1))).unitFailed 0x7106 n).drainHeld) ∧
          (s.dev = 8 → s.active n = true → exec (.controllerResponse n k tag st po) s = .next s.runSecond) ∧
          (s.active n = false →
            let t := s.modSPort fun p => { p with resp := p.resp ++ [⟨n, k, st, tag, po, []⟩] }
            (s.dev = 8 → exec (.controllerResponse n k tag st po) s = .next t.runSecond) ∧ (s.dev ≠ 0 → s.dev ≠ 8 → Ends (.controllerResponse n k tag st po) s t.drainHeld))) ∧
        ∀ (c : CtrlReq) (u v : State), found = some c → st ≤ 2 → u = (s.modSPort fun p => { p with ctrl := p.ctrl.filter (fun e => e ≠ c) }) →
          v = (if c.req.kind = 1 then u.markPoison (u.viewAddr c.req.addr) (if st = 2 then spanMask c.req.addr c.req.size else po &&& spanMask c.req.addr c.req.size) else u) →
          let w := v.passResponse c.req st ((v.poisonBits c.req.addr &&& spanMask c.req.addr c.req.size) ||| po)
          (c.served = false → s.dev = 8 → exec (.controllerResponse n k tag st po) s = .next w.pumpCtrl.runSecond) ∧
            (c.served = false → s.dev ≠ 0 → s.dev ≠ 8 → Ends (.controllerResponse n k tag st po) s w.pumpCtrl.drainHeld) ∧
            (c.served = true → s.dev ≠ 0 → s.dev ≠ 8 → v.lineClass (v.viewAddr c.req.addr) ≠ 1 → v.poisonBits (v.viewAddr c.req.addr) = 0 → Ends (.controllerResponse n k tag st po) s
              (v.answer c.req 0 0 (v.mrd (v.viewAddr c.req.addr) c.req.size)).pumpCtrl.drainHeld)) ∧
    (∀ (s : State) (q : SReq) (st po : Nat), s.Canon →
      let t := s.passResponse q st po
      (q.kind = 1 → t.mem = s.mem ∧ t.sport.resp = s.sport.resp ++ [⟨q.slice, 1, st, q.tag, po % 2 ^ 32, s.plainRead q.addr q.size⟩]) ∧
        (q.kind ≠ 1 → st ≠ 0 → t.mem = s.mem ∧ t.sport.resp = s.sport.resp ++ [⟨q.slice, q.kind, st, q.tag, 0, []⟩]) ∧
        (q.kind ≠ 1 → st = 0 → ∀ b, b < q.addr ∨ q.addr + q.size ≤ b → t.mrd b 1 = s.mrd b 1) ∧
        (q.kind = 2 → st = 0 → t.mrd q.addr q.size = reqBytes q ∧ t.sport.resp = s.sport.resp ++ [⟨q.slice, 2, 0, q.tag, 0, []⟩]) ∧
        (3 ≤ q.kind → st = 0 → t.mNat q.addr q.size = yardOp q.kind q.size (s.mNat q.addr q.size) (fldLe q.data 0 q.size) (fldLe q.data 8 q.size) ∧
          t.sport.resp = s.sport.resp ++ [⟨q.slice, q.kind, 0, q.tag, 0, s.mrd q.addr q.size⟩])) ∧
    (∀ (n k : Nat) (s : State), n < s.hw.slices → s.active n = false → ∀ c ∈ [Instr.controllerStall n k, .longControllerStall n, .stallIndicatorCleared n], exec c s = .next s) ∧
    (∀ (n k : Nat) (s : State), s.Canon → n < s.hw.slices → s.active n = true → s.up = true →
      ((k = 0 ∨ 3 < k ∨ s.stallOf n ≠ 0) → exec (.controllerStall n k) s = .next s) ∧
        (1 ≤ k → k ≤ 3 → (∀ x ∈ s.sport.stalls, x.1 ≠ n) → ∃ t, exec (.controllerStall n k) s = .next t ∧ t.stallOf n = k ∧ t.mem = s.mem ∧
          t.rd 0x8710_05 = min (s.rd 0x8710_05 + 1) (objMax 0x8710_05)) ∧
        ((∀ x ∈ s.sport.stalls, x.1 ≠ n) → exec (.longControllerStall n) s = .next s ∧ exec (.stallIndicatorCleared n) s = .next s) ∧
        ∀ a w since, s.sport.stalls.find? (fun x => x.1 == n) = some (a, w, since) →
          (n ∈ s.sport.longStalls → exec (.longControllerStall n) s = .next s) ∧
          (n ∉ s.sport.longStalls → exec (.longControllerStall n) s =
            .next (((s.modSPort fun p => { p with longStalls := n :: p.longStalls }).inc 0x8710_07).evSlice n 0x7103 (be 1 n ++ be 1 w ++ be 8 (s.now - since)))) ∧
          ∃ t, exec (.stallIndicatorCleared n) s = .next t ∧ t.stallOf n = 0 ∧ n ∉ t.sport.longStalls ∧ t.mem = s.mem ∧
            t.rd 0x8710_06 = min (s.rd 0x8710_06 + (s.now - since)) (objMax 0x8710_06)) ∧
    (∀ (s : State), s.serving = true → Ends .intakeHoldRelease s s.drainHeld) ∧
    ∀ (s : State) (a : Nat) (line : Bytes) (c : Nat × Nat), c ∈ s.clampWords 0 a line →
      fldLe line (8 * c.1) 8 ≠ c.2 ∧ -w64Max ≤ sgn 64 c.2 ∧ sgn 64 c.2 ≤ w64Max

/-- In a unit that serves: SNAPSHOT_STEP_TRIGGER fires where it is enabled and due, SNAPSHOT_TIMER_TRIGGER where a timer
or the adaptive interval is enabled; SNAPSHOT_DEFERRAL_CLEARED fires a deferred trigger whose reason has gone, and
without one changes nothing. A trigger at the lead sends an order with the next number, or is deferred with event
0x3303; elsewhere it changes nothing. SNAPSHOT_ORDER (kind 0x30) and SNAPSHOT_REPORT (0x31) pass the gate; an order
that comes too late is answered with outcome 3, another becomes the snapshot in hand. A report of another order or
from a member not awaited changes nothing; of the others outcome 0 leaves the member awaited, any other ends its part,
the cost counts, and without an observation or a prior the adaptive interval is 300 s. That interval lies between 60
and 3,600 s and is the rounded down root of 2 C M between. SEAL_RELEASE once every slice is armed starts the copy and
shows the pause; SNAPSHOT_COMPLETE once header and trailer are written counts, ends the snapshot and starts its
export; else each changes nothing. An abandoned snapshot is gone and memory stays. COPIER_LINE_READ at an active slice
ends in copyStep, which without a snapshot only judges held writes again and finishes nothing.
COPY_ON_WRITE_HOLD_LIMIT abandons a sealed snapshot for which a write is held, with reason 3, and else changes
nothing. Two lines of an image never share a byte, and the image takes a line as it is given. -/
def Obligations.SnapshotsAreOrderedSealedCopiedAndEnded : Prop :=
  (∀ (s : State), s.serving = true →
      Ends .snapshotStepTrigger s (if bit (s.rd 0x3301_01) 1 = true ∧ s.tiers.orderStep + s.rd 0x3301_03 ≤ s.step then s.fireSnap 0 else s) ∧
        Ends .snapshotTimerTrigger s (if bit (s.rd 0x3301_01) 0 = true ∨ bit (s.rd 0x3301_01) 2 = true then s.fireSnap 0 else s) ∧
        (s.tiers.deferred.find? (fun d => d.1 ≠ s.deferReason) = none → Ends .snapshotDeferralCleared s s) ∧
        (∀ d, s.tiers.deferred.find? (fun d => d.1 ≠ s.deferReason) = some d → Ends .snapshotDeferralCleared s
          ((s.modTiers fun t => { t with deferred := t.deferred.filter (fun y => y ≠ d) }).fireSnap d.2)) ∧
        Ends .copyOnWriteHoldLimit s (if s.cowSince.isSome = true ∧ s.tiers.snap.any (fun c => c.phase ≠ 0) = true then (s.abandonSnap 3).drainHeld else s)) ∧
    (∀ (s : State) (ex : Nat), (¬ (s.leadOf = s.own ∧ s.tiersOn = true) → s.fireSnap ex = s) ∧
      (s.leadOf = s.own → s.tiersOn = true → s.deferReason ≠ 0 → s.fireSnap ex =
        (s.modTiers fun t => { t with deferred := t.deferred.filter (fun y => y.2 ≠ ex) ++ [(s.deferReason, ex)] }).evHub 0x3303 (be 1 s.deferReason)) ∧
      (s.leadOf = s.own → s.tiersOn = true → s.deferReason = 0 →
        let t := s.fireSnap ex
        t.tiers.orderNum = (s.tiers.orderNum + 1) % 2 ^ 32 ∧ t.tiers.orderStep = s.step ∧ t.tiers.orderAt = s.now ∧ t.mem = s.mem)) ∧
    (∀ (r : Rx) (s : State), s.serving = true →
      let u := (s.ce r).gate r.f
      (frameKind r = 0x30 → (u.1 = false → Ends (.snapshotOrder r) s u.2) ∧
          (u.1 = true → Ends (.snapshotOrder r) s (u.2.takeSnapOrder (fld r.f 16 8) (fld r.f 24 1) (fld r.f 28 4)))) ∧
        (frameKind r = 0x31 → (u.1 = false → Ends (.snapshotReport r) s u.2) ∧
          (u.1 = true → Ends (.snapshotReport r) s (u.2.takeSnapReport (fld r.f 2 2) (fld r.f 24 1) (fld r.f 28 4) (fld r.f 32 8))))) ∧
    (∀ (s : State) (step ex num : Nat),
      let late := s.tiersOn = false ∨ step < s.stepDone ∨ s.tiers.snap.isSome = true ∨ ∃ b ∈ s.couch.bounds, b.1 = step ∧ b.2 < s.epoch
      (late → s.takeSnapOrder step ex num = (s.modTiers fun t => { t with orderNum := num }).snapReport step 3 0 num 0 0) ∧
        (¬ late → ∃ c, (s.takeSnapOrder step ex num).tiers.snap = some c ∧ c.number = num ∧ c.step = step ∧ c.export_ = ex ∧ c.phase = 0)) ∧
    (∀ (s : State) (dev outcome num cost : Nat),
      ((num ≠ s.tiers.orderNum ∨ dev ∉ s.tiers.awaited) → s.takeSnapReport dev outcome num cost = s) ∧
        (num = s.tiers.orderNum → dev ∈ s.tiers.awaited →
          let t := s.takeSnapReport dev outcome num cost
          (outcome = 0 → t.tiers.awaited = s.tiers.awaited) ∧ (outcome ≠ 0 → dev ∉ t.tiers.awaited ∧ ∀ d, d ≠ dev → (d ∈ t.tiers.awaited ↔ d ∈ s.tiers.awaited)) ∧
            (∀ c, c ∈ t.tiers.costs.head? → cost ≤ c) ∧ (s.Canon → s.meanFailure = none → t.rd 0x3301_05 = 300))) ∧
    (∀ c m, 60 ≤ adaptive c m ∧ adaptive c m ≤ 3600 ∧
      (60 < adaptive c m → adaptive c m < 3600 → adaptive c m ^ 2 ≤ 2 * c * m / 1000000000 ∧ 2 * c * m / 1000000000 < (adaptive c m + 1) ^ 2)) ∧
    (∀ (s : State), s.serving = true → (s.tiers.snap = none → Ends .sealRelease s s ∧ Ends .snapshotComplete s s) ∧
      ∀ c, s.tiers.snap = some c →
        (c.phase ≠ 1 ∨ (∃ n ∈ s.actives, n ∉ c.armed) → Ends .sealRelease s s) ∧ (c.phase ≠ 3 ∨ c.parts ≠ [] ∨ (∃ x ∈ s.fOut, x.use = 1) → Ends .snapshotComplete s s) ∧
          (c.phase = 1 → (∀ n ∈ s.actives, n ∈ c.armed) → ∃ t : State, Ends .sealRelease s t.drainHeld ∧ t.mem = s.mem ∧ t.sport = s.sport ∧
            t.tiers.snap = some { c with phase := 2, pause := s.now - c.sealAt } ∧ (s.Canon → t.rd 0x3300_07 = 2 ∧ t.rd 0x8330_05 = min (s.now - c.sealAt) (2 ^ 32 - 1))) ∧
          (c.phase = 3 → c.parts = [] → (∀ x ∈ s.fOut, x.use ≠ 1) → ∃ t : State, Ends .snapshotComplete s (t.startExport c) ∧ t.tiers.snap = none ∧ t.tiers.images = s.tiers.images + 1 ∧
            t.mem = s.mem ∧ (s.Canon → t.rd 0x8330_01 = min (s.rd 0x8330_01 + 1) (objMax 0x8330_01)))) ∧
    (∀ (s : State) (k : Nat), (s.abandonSnap k).tiers.snap = none ∧ (s.abandonSnap k).mem = s.mem) ∧
    (∀ (n : Nat) (s : State), n < s.hw.slices → s.active n = true → s.serving = true → Ends (.copierLineRead n) s (s.copyStep n) ∧
      (s.tiers.snap = none → s.copyStep n = s.drainHeld.finishCopy)) ∧
    (∀ (c : Snap) (sp n sp' n' : Nat), (sp = 0 ∧ n < c.linesW ∨ sp = 1) → (sp' = 0 ∧ n' < c.linesW ∨ sp' = 1) → (sp, n) ≠ (sp', n') →
      c.place sp n + 256 ≤ c.place sp' n' ∨ c.place sp' n' + 256 ≤ c.place sp n) ∧
    ∀ (c : Snap) (sp n : Nat) (bs : Bytes), Sparse.wf (fun _ => 0) c.img = true → bs.length = 256 →
      Sparse.getBytes (c.put sp n bs).img (c.place sp n) 256 = bs ∧
        ∀ b, b < c.place sp n ∨ c.place sp n + 256 ≤ b → Sparse.getBytes (c.put sp n bs).img b 1 = Sparse.getBytes c.img b 1

/-- Selection refuses with reason 2 exactly where some required shard has no candidate, and with reason 3 only where no
step is reached for every shard. Where it selects step T, every shard in order has a candidate of its own that reaches
T, none of the shard that reaches T ranks before it, no later step is reached for every shard, and the outcome is 2
below the newest step that every shard shows, else 0 or 1 as every pick stands at T or not. In a unit that serves,
INVENTORY (kind 0x32), RESTORE_ORDER (0x33) and RESTORE_REPORT (0x34) of another job change nothing but the count of
congestion marks. Of this job, an inventory and a report are taken (takeInventory, takeRestoreReport), and an order
only while coding is OFF: it becomes the order in hand with its shards, at most 64, and nothing loaded. An inventory
replaces the device's earlier one, and starts a selection only in a unit that asked for a restore. A report without an
order or of another step changes nothing; the last load ends the restore with status 3 and the step in 0x3200.0A.
SHARD_LOAD_COMPLETE ends in shardLoaded, and without a candidate, without an order or while reads are outstanding
changes nothing. -/
def Obligations.RestoresSelectTheNewestCommonStep : Prop :=
  (∀ (req : List Nat) (cands : List Cand) (g : Nat),
      (selectRestore req cands g = .error 2 ↔ ∃ x ∈ req, ∀ c ∈ cands, c.shard ≠ x) ∧
        (∀ e, selectRestore req cands g = .error e → e = 2 ∨ e = 3) ∧
        (selectRestore req cands g = .error 3 → req ≠ [] → ∀ t, ∃ x ∈ req, ∀ c ∈ cands, c.shard = x → c.reaches (max g 1) t = false) ∧
        ∀ t o picks, selectRestore req cands g = .ok (t, o, picks) →
          picks.map (fun c => c.shard) = req ∧
            (∀ c ∈ picks, c ∈ cands ∧ c.reaches (max g 1) t = true ∧
              ∀ d ∈ cands, d.shard = c.shard → d.reaches (max g 1) t = true → lexLt (d.rank (max g 1) t) (c.rank (max g 1) t) = false) ∧
            (req ≠ [] → (∀ t', (∀ x ∈ req, ∃ c ∈ cands, c.shard = x ∧ c.reaches (max g 1) t' = true) → t' ≤ t) ∧
              (o = 2 ↔ ∀ x ∈ req, ∃ c ∈ cands, c.shard = x ∧ t < c.step)) ∧ (o ≠ 2 → (o = 0 ↔ ∀ c ∈ picks, c.step = t) ∧ (o = 0 ∨ o = 1))) ∧
    (∀ (r : Rx) (s : State), s.serving = true →
      let u := s.ce r
      (fld r.f 8 8 ≠ u.job → (frameKind r = 0x32 → Ends (.inventory r) s u) ∧ (frameKind r = 0x33 → Ends (.restoreOrder r) s u) ∧ (frameKind r = 0x34 → Ends (.restoreReport r) s u)) ∧
        (fld r.f 8 8 = u.job → (frameKind r = 0x32 → Ends (.inventory r) s (u.takeInventory (fld r.f 2 2) (readInventory r.f))) ∧
          (frameKind r = 0x34 → Ends (.restoreReport r) s (u.takeRestoreReport (fld r.f 16 2) (fld r.f 18 1) (fld r.f 19 1) (fld r.f 20 8))) ∧
          (frameKind r = 0x33 → u.fn .coding ≠ 0 → Ends (.restoreOrder r) s u) ∧
          (frameKind r = 0x33 → u.fn .coding = 0 → ∃ (t : State) (picks : List Cand), Ends (.restoreOrder r) s t ∧ t.mem = s.mem ∧ t.tiers.order = some (fld r.f 16 8, fld r.f 24 1, picks) ∧
            t.tiers.loaded = [] ∧ picks.length = min 64 (fld r.f 26 2) ∧ ∀ i c, picks[i]? = some c → c.shard = fld r.f (28 + 8 * i) 2 ∧ c.dev = fld r.f (30 + 8 * i) 2))) ∧
    (∀ (s : State) (dev : Nat) (cs : List Cand), (dev, cs) ∈ (s.modTiers fun t => { t with inventories := t.inventories.filter (fun y => y.1 ≠ dev) ++ [(dev, cs)] }).tiers.inventories ∧
      (s.rd 0x3304_02 ≠ 1 ∨ s.rd 0x3200_0B = 0 → s.takeInventory dev cs = s.modTiers fun t => { t with inventories := t.inventories.filter (fun y => y.1 ≠ dev) ++ [(dev, cs)] })) ∧
    (∀ (s : State) (x res cause t : Nat), (s.tiers.order = none → s.takeRestoreReport x res cause t = s) ∧
      ∀ step o picks, s.tiers.order = some (step, o, picks) → (t ≠ step → s.takeRestoreReport x res cause t = s) ∧
        (t = step → t < 2 ^ 64 → res = 0 → (∀ c ∈ picks, c.shard = x ∨ c.shard ∈ s.tiers.loaded) → s.Canon →
          (s.takeRestoreReport x res cause t).tiers.order = none ∧ (s.takeRestoreReport x res cause t).rd 0x3304_02 = 3 ∧ (s.takeRestoreReport x res cause t).rd 0x3200_0A = step)) ∧
    ∀ (s : State), s.serving = true → ((s.tiers.reading = none ∨ s.tiers.order = none ∨ ∃ x ∈ s.fOut, x.use = 3) → Ends .shardLoadComplete s s) ∧ Ends .shardLoadComplete s s.shardLoaded
end

