-- ==== Sys2Proof/Laws/Crypto.lean ====
section
/-!
SUPPORT. The lengths of digests and of the authentication codes of Eciabo, and what a frame that ends in its code is found to be (R335).
-/

namespace Sys2Proof.Machine

theorem be_length (n x : Nat) : (be n x).length = n := by
  induction n generalizing x with
  | zero => simp [be, le]
  | succ n ih => simpa [be, le] using ih (x / 256)

theorem shaBlock_length (h : List Nat) (b : Bytes) : (shaBlock h b).length = 8 := by simp [shaBlock]

/-- A digest has 32 bytes. -/
theorem sha256_length (m : Bytes) : (sha256 m).length = 32 := by
  have fold : ∀ (l : List Bytes) (h : List Nat), h.length = 8 → (l.foldl shaBlock h).length = 8 := by
    intro l
    induction l with
    | nil => exact fun h k => k
    | cons b l ih => exact fun h _ => ih _ (shaBlock_length h b)
  have flat : ∀ l : List Nat, (l.map (be 4)).flatten.length = 4 * l.length := by
    intro l
    induction l with
    | nil => rfl
    | cons x l ih => simp [be_length, Nat.mul_add] at ih ⊢; omega
  unfold sha256
  rw [flat, fold _ _ rfl]

/-- The code that ends a frame of a session has 16 bytes. -/
theorem ecMac_length (key f : Bytes) : (ecMac key f).length = 16 := by
  unfold ecMac hmac
  extract_lets
  rw [List.length_take, sha256_length]
  rfl

/-- A field that lies before the end of h is a field of h, whatever follows. -/
theorem fld_append (h m : Bytes) (o n : Nat) (k : o + n ≤ h.length) : fld (h ++ m) o n = fld h o n := by
  have e : ((h ++ m).drop o).take n = (h.drop o).take n := by
    rw [List.drop_append_of_le_length (by omega), List.take_append_of_le_length (by simp; omega)]
  unfold fld slice
  rw [e]

/-- A frame that ends in its code is split before it. -/
theorem ecSplit_append (h m : Bytes) (k : h.length = 16 + fld (h ++ m) 14 2) : ecSplit (h ++ m) = (h, m) := by
  unfold ecSplit
  rw [← k, List.take_left, List.drop_left]

/-- A frame of an open session, from the client's address, that ends in its code, is good (R335). -/
theorem ecCause_session (s : State) (x : Session) (h : Bytes) (k : Nat) (hx : s.server.sessions.find? (·.id = fld h 4 4) = some x)
    (h0 : fld h 0 2 = 0xEC1A) (h2 : fld h 2 1 = 1) (h12 : fld h 12 2 = 0xFFFF) (hk : fld h 3 1 = k) (hn : h.length = 16 + fld h 14 2)
    (hm : h.length ≤ 1456) (kind : (k = 3 ∨ k = 8) ∧ fld h 14 2 = 0 ∨ k = 5 ∧ 16 ≤ fld h 14 2 ∧
      fld h 14 2 = 16 + (if fld h 16 1 = 1 ∨ fld h 16 1 = 3 then 0 else fld h 28 2)) :
    s.ecCause ⟨x.addr, x.port, 0, h ++ ecMac x.key h⟩ = 0 := by
  have l : ∀ o n, o + n ≤ h.length → fld (h ++ ecMac x.key h) o n = fld h o n := fld_append _ _
  have l14 := l 14 2 (by omega)
  have sp := ecSplit_append h (ecMac x.key h) (by rw [l14]; exact hn)
  have len : (h ++ ecMac x.key h).length = 16 + h.length := by rw [List.length_append, ecMac_length]; omega
  have ok : ecLengthsOk (h ++ ecMac x.key h) = true := by
    unfold ecLengthsOk
    simp only [l14, l 3 1 (by omega), hk, len]
    obtain ⟨k3 | k8, z⟩ | ⟨rfl, z, w⟩ := kind
    · subst k3; simp [z]; omega
    · subst k8; simp [z]; omega
    · rw [l 16 1 (by omega), l 28 2 (by omega)]; simp [← w]; omega
  unfold State.ecCause
  simp only [l 0 2 (by omega), l 2 1 (by omega), l 12 2 (by omega), l 3 1 (by omega), l 4 4 (by omega), h0, h2, h12, hk, ok, sp, hx]
  have : k ≠ 0 ∧ ¬ k > 9 ∧ k ≠ 1 := by omega
  simp [this]

/-- An OPEN that ends in its code under the principal's key is good (R335). -/
theorem ecCause_open (s : State) (addr port : Nat) (h : Bytes) (h0 : fld h 0 2 = 0xEC1A) (h2 : fld h 2 1 = 1) (h12 : fld h 12 2 = 0xFFFF)
    (hk : fld h 3 1 = 1) (h14 : fld h 14 2 = 20) (hn : h.length = 36) (hp : fld h 16 1 < 8) :
    s.ecCause ⟨addr, port, 0, h ++ ecMac (s.principalKey (fld h 16 1)) h⟩ = 0 := by
  generalize hm : ecMac (s.principalKey (fld h 16 1)) h = m
  have hml : m.length = 16 := hm ▸ ecMac_length _ _
  have l : ∀ o n, o + n ≤ h.length → fld (h ++ m) o n = fld h o n := fld_append _ _
  have l14 := l 14 2 (by omega)
  have sp := ecSplit_append h m (by rw [l14, h14, hn])
  have ok : ecLengthsOk (h ++ m) = true := by
    unfold ecLengthsOk
    simp [l14, l 3 1 (by omega), hk, h14, hn, hml]
  unfold State.ecCause
  simp only [l 0 2 (by omega), l 2 1 (by omega), l 12 2 (by omega), l 3 1 (by omega), l 16 1 (by omega), h0, h2, h12, hk, ok, sp]
  simp [hp, hm]

end Sys2Proof.Machine
end

