-- ==== Sys2Proof/Laws/Sparse.lean ====
section
/-!
SUPPORT. Sparse contents: reads after writes, and that every operation keeps the canonical form.
-/

namespace Sys2Proof.Machine

/-! ### Reads -/

theorem Sparse.find_insert {α : Type} (m : List (Nat × α)) (k : Nat) (v : α) (x : Nat) :
    Sparse.find (Sparse.insert m k v) x = if x = k then some v else Sparse.find m x := by
  induction m with
  | nil => simp [Sparse.insert, Sparse.find]
  | cons e m ih =>
    obtain ⟨j, w⟩ := e
    unfold Sparse.insert
    split
    · subst k; by_cases h : x = j <;> simp [Sparse.find, h]
    · split
      · simp [Sparse.find]
      · by_cases h : x = j
        · subst x; simp [Sparse.find, Ne.symm ‹¬k = j›]
        · simp [Sparse.find, h, ih]

/-- Nothing below lo is listed. -/
theorem Sparse.find_lt {α : Type} {m : List (Nat × α)} {lo x : Nat} (h : Sparse.rising lo m = true) (hx : x < lo) :
    Sparse.find m x = none := by
  induction m generalizing lo with
  | nil => rfl
  | cons e m ih =>
    obtain ⟨k, v⟩ := e
    simp only [Sparse.rising, Bool.and_eq_true, decide_eq_true_eq] at h
    have : x ≠ k := by omega
    simp [Sparse.find, this, ih h.2 (by omega)]

theorem Sparse.rising_mono {α : Type} {m : List (Nat × α)} {lo lo' : Nat} (h : Sparse.rising lo m = true) (hl : lo' ≤ lo) :
    Sparse.rising lo' m = true := by
  cases m with
  | nil => rfl
  | cons e m =>
    obtain ⟨k, v⟩ := e
    simp only [Sparse.rising, Bool.and_eq_true, decide_eq_true_eq] at h ⊢
    exact ⟨by omega, h.2⟩

theorem Sparse.find_erase {α : Type} {m : List (Nat × α)} {lo : Nat} (h : Sparse.rising lo m = true) (k x : Nat) :
    Sparse.find (Sparse.erase m k) x = if x = k then none else Sparse.find m x := by
  induction m generalizing lo with
  | nil => simp [Sparse.erase, Sparse.find]
  | cons e m ih =>
    obtain ⟨j, w⟩ := e
    simp only [Sparse.rising, Bool.and_eq_true, decide_eq_true_eq] at h
    unfold Sparse.erase
    split
    · subst k
      by_cases hx : x = j
      · subst x; simp [Sparse.find_lt h.2 (Nat.lt_succ_self _)]
      · simp [Sparse.find, hx]
    · split
      · by_cases hx : x = k
        · subst x
          have : ¬ k = j := ‹_›
          simp [Sparse.find, this, Sparse.find_lt h.2 (show k < j + 1 by omega)]
        · simp [hx]
      · by_cases hx : x = j
        · subst x; simp [Sparse.find, Ne.symm ‹¬k = j›]
        · simp [Sparse.find, hx, ih h.2]

/-- What a key reads as after a write. -/
theorem Sparse.get_put {α : Type} [DecidableEq α] {d : Nat → α} {m : List (Nat × α)} (h : Sparse.wf d m = true) (k : Nat) (v : α) (x : Nat) :
    Sparse.get (d x) (Sparse.put (d k) m k v) x = if x = k then v else Sparse.get (d x) m x := by
  simp only [Sparse.wf, Bool.and_eq_true] at h
  by_cases hv : v = d k
  · rw [Sparse.put, if_pos hv, Sparse.get, Sparse.get, Sparse.find_erase h.1]
    by_cases hx : x = k
    · subst x; simp [hv]
    · simp [hx]
  · rw [Sparse.put, if_neg hv, Sparse.get, Sparse.get, Sparse.find_insert]
    by_cases hx : x = k <;> simp [hx]

/-! ### The canonical form -/

theorem Sparse.rising_insert {α : Type} {m : List (Nat × α)} {lo : Nat} (h : Sparse.rising lo m = true) {k : Nat} (hk : lo ≤ k) (v : α) :
    Sparse.rising lo (Sparse.insert m k v) = true := by
  induction m generalizing lo with
  | nil => simpa [Sparse.insert, Sparse.rising] using hk
  | cons e m ih =>
    obtain ⟨j, w⟩ := e
    simp only [Sparse.rising, Bool.and_eq_true, decide_eq_true_eq] at h
    unfold Sparse.insert
    split
    · subst k; simp [Sparse.rising, h]
    · split
      · simp [Sparse.rising, h.2]; omega
      · simp [Sparse.rising, h.1, ih h.2 (show j + 1 ≤ k by omega)]

theorem Sparse.rising_erase {α : Type} {m : List (Nat × α)} {lo : Nat} (h : Sparse.rising lo m = true) (k : Nat) :
    Sparse.rising lo (Sparse.erase m k) = true := by
  induction m generalizing lo with
  | nil => rfl
  | cons e m ih =>
    obtain ⟨j, w⟩ := e
    have h' := h
    simp only [Sparse.rising, Bool.and_eq_true, decide_eq_true_eq] at h
    unfold Sparse.erase
    split
    · exact Sparse.rising_mono h.2 (by omega)
    · split
      · exact h'
      · simp [Sparse.rising, h.1, ih h.2]

theorem Sparse.all_insert {α : Type} {m : List (Nat × α)} {p : Nat × α → Bool} (h : m.all p = true) {k : Nat} {v : α} (hv : p (k, v) = true) :
    (Sparse.insert m k v).all p = true := by
  induction m with
  | nil => simpa [Sparse.insert] using hv
  | cons e m ih =>
    obtain ⟨j, w⟩ := e
    simp only [List.all_cons, Bool.and_eq_true] at h
    unfold Sparse.insert
    split
    · simp only [List.all_cons, hv, h.2, Bool.and_self]
    · split
      · simp only [List.all_cons, hv, h.1, h.2, Bool.and_self]
      · simp only [List.all_cons, h.1, ih h.2, Bool.and_self]

theorem Sparse.all_erase {α : Type} {m : List (Nat × α)} {p : Nat × α → Bool} (h : m.all p = true) (k : Nat) :
    (Sparse.erase m k).all p = true := by
  induction m with
  | nil => rfl
  | cons e m ih =>
    obtain ⟨j, w⟩ := e
    have h' := h
    simp only [List.all_cons, Bool.and_eq_true] at h
    unfold Sparse.erase
    split
    · exact h.2
    · split
      · exact h'
      · simp only [List.all_cons, h.1, ih h.2, Bool.and_self]

/-- A write keeps the canonical form. -/
theorem Sparse.wf_put {α : Type} [DecidableEq α] {d : Nat → α} {m : List (Nat × α)} (h : Sparse.wf d m = true) (k : Nat) (v : α) :
    Sparse.wf d (Sparse.put (d k) m k v) = true := by
  simp only [Sparse.wf, Bool.and_eq_true] at h ⊢
  unfold Sparse.put
  split
  · exact ⟨Sparse.rising_erase h.1 k, Sparse.all_erase h.2 k⟩
  · exact ⟨Sparse.rising_insert h.1 (Nat.zero_le _) v, Sparse.all_insert h.2 (by simpa using ‹¬ v = d k›)⟩

theorem Sparse.wf_putBytes {m : List Host.Cell} (h : Sparse.wf (fun _ => 0) m = true) (a : Nat) (bs : Bytes) :
    Sparse.wf (fun _ => 0) (Sparse.putBytes m a bs) = true := by
  induction bs generalizing m a with
  | nil => exact h
  | cons b bs ih => exact ih (Sparse.wf_put (d := fun _ => 0) h a b) (a + 1)

theorem wf_putOct {m : List Host.Cell} (h : Sparse.wf octAt m = true) (k off : Nat) (bs : Bytes) :
    Sparse.wf octAt (putOct k m off bs) = true := by
  induction bs generalizing m off with
  | nil => exact h
  | cons b bs ih => exact ih (Sparse.wf_put (d := octAt) h (k * 2 ^ 24 + off) b) (off + 1)

theorem Sparse.rising_filter {α : Type} {m : List (Nat × α)} {lo : Nat} (h : Sparse.rising lo m = true) (p : Nat × α → Bool) :
    Sparse.rising lo (m.filter p) = true := by
  induction m generalizing lo with
  | nil => rfl
  | cons e m ih =>
    obtain ⟨k, v⟩ := e
    simp only [Sparse.rising, Bool.and_eq_true, decide_eq_true_eq] at h
    rw [List.filter_cons]
    split
    · simp [Sparse.rising, h.1, ih h.2]
    · exact Sparse.rising_mono (ih h.2) (by omega)

theorem Sparse.wf_clear {α : Type} [DecidableEq α] {d : Nat → α} {m : List (Nat × α)} (h : Sparse.wf d m = true) (lo hi : Nat) :
    Sparse.wf d (Sparse.clear m lo hi) = true := by
  simp only [Sparse.wf, Bool.and_eq_true] at h ⊢
  refine ⟨Sparse.rising_filter h.1 _, ?_⟩
  simp only [Sparse.clear, List.all_eq_true] at h ⊢
  intro e he
  exact h.2 e (List.mem_filter.mp he).1

/-! ### Rising lists of words -/

theorem mem_insertSorted {x y : Nat} {l : List Nat} (h : y ∈ insertSorted x l) : y = x ∨ y ∈ l := by
  induction l with
  | nil => simpa [insertSorted] using h
  | cons z l ih =>
    unfold insertSorted at h
    split at h
    · exact .inr h
    · split at h
      · simpa using h
      · rcases List.mem_cons.mp h with h | h
        · exact .inr (h ▸ List.mem_cons_self)
        · rcases ih h with h | h
          · exact .inl h
          · exact .inr (List.mem_cons_of_mem _ h)

theorem pairwise_insertSorted {x : Nat} {l : List Nat} (h : l.Pairwise (· < ·)) : (insertSorted x l).Pairwise (· < ·) := by
  induction l with
  | nil => simp [insertSorted]
  | cons z l ih =>
    have h' := h
    rw [List.pairwise_cons] at h
    unfold insertSorted
    split
    · exact h'
    · split
      · rw [List.pairwise_cons]
        refine ⟨fun y hy => ?_, h'⟩
        rcases List.mem_cons.mp hy with e | e
        · omega
        · have := h.1 y e; omega
      · rw [List.pairwise_cons]
        refine ⟨fun y hy => ?_, ih h.2⟩
        rcases mem_insertSorted hy with e | e
        · omega
        · exact h.1 y e

theorem pairwise_insertAll {l : List Nat} (h : l.Pairwise (· < ·)) (f : Nat → Nat) (is : List Nat) :
    (is.foldl (fun l i => insertSorted (f i) l) l).Pairwise (· < ·) := by
  induction is generalizing l with
  | nil => exact h
  | cons i is ih => exact ih (pairwise_insertSorted h)

end Sys2Proof.Machine
end

