-- ==== Sys2Proof/Laws/Keeps.lean ====
section
/-!
SUPPORT. What every shared operation keeps, said once: the canonical forms, the queue, the build, the test port, the sticky
registers and storage, and every frame already handed over. One lemma for each operation stands in Laws/Keeps/.
-/

namespace Sys2Proof.Machine

/-- From a, the state s has kept all that no shared operation changes. -/
structure Keeps (a s : State) : Prop where
  canon : a.Canon → s.Canon
  pending : s.pending = a.pending
  hw : s.hw = a.hw
  tap : s.tap = a.tap
  flash : s.flash = a.flash
  sticky : s.sticky = a.sticky
  tx : a.tx <+: s.tx
  next : a.log.next ≤ s.log.next
  draws : a.draws ≤ s.draws

/-- The same of an answer that may be none. -/
def KO (a : State) (o : Option State) : Prop := ∀ t, o = some t → Keeps a t

/-- The same of an answer with a value before the state. -/
def KO2 {α : Type} (a : State) (o : Option (α × State)) : Prop := ∀ p, o = some p → Keeps a p.2

/-- The same of an answer with a value after the state. -/
def KO1 {α : Type} (a : State) (o : Option (State × α)) : Prop := ∀ p, o = some p → Keeps a p.1

/-- The same of a meaning's next state. -/
def KR (a : State) (o : Out) : Prop := ∀ t, o = .next t → Keeps a t

namespace K

theorem rfl' (a : State) : Keeps a a := ⟨id, rfl, rfl, rfl, rfl, rfl, List.prefix_rfl, Nat.le_refl _, Nat.le_refl _⟩

theorem trans {a b c : State} (h : Keeps a b) (k : Keeps b c) : Keeps a c :=
  ⟨k.1 ∘ h.1, k.2.trans h.2, k.3.trans h.3, k.4.trans h.4, k.5.trans h.5, k.6.trans h.6, h.7.trans k.7, Nat.le_trans h.8 k.8, Nat.le_trans h.9 k.9⟩

/-- A state that differs from a kept one only in fields that nothing here speaks of. -/
theorem of {a s t : State} (h : Keeps a s) (e1 : t.mem = s.mem) (e2 : t.oct = s.oct) (e3 : t.dict = s.dict) (e4 : t.changes = s.changes)
    (e5 : t.poison = s.poison) (e6 : t.pending = s.pending) (e7 : t.hw = s.hw) (e8 : t.tap = s.tap) (e9 : t.flash = s.flash)
    (e10 : t.sticky = s.sticky) (e11 : t.tx = s.tx) (e12 : t.log.next = s.log.next) (e13 : t.draws = s.draws) : Keeps a t := by
  refine ⟨fun c => ?_, e6.trans h.2, e7.trans h.3, e8.trans h.4, e9.trans h.5, e10.trans h.6, e11 ▸ h.7, e12 ▸ h.8, e13 ▸ h.9⟩
  have k := h.1 c
  exact ⟨e1 ▸ k.1, e9 ▸ k.2, e2 ▸ k.3, e3 ▸ k.4, e4 ▸ k.5, e5 ▸ k.6⟩

theorem ite {a s t : State} {c : Prop} [Decidable c] (hs : Keeps a s) (ht : Keeps a t) : Keeps a (if c then s else t) := by
  split <;> assumption

theorem ite2 {α : Type} {a : State} {s t : α × State} {c : Prop} [Decidable c] (hs : Keeps a s.2) (ht : Keeps a t.2) :
    Keeps a (if c then s else t).2 := by
  split <;> assumption

theorem ite1 {α : Type} {a : State} {s t : State × α} {c : Prop} [Decidable c] (hs : Keeps a s.1) (ht : Keeps a t.1) :
    Keeps a (if c then s else t).1 := by
  split <;> assumption

theorem foldl {β : Type} {a s : State} {f : State → β → State} {l : List β} (hs : Keeps a s) (hf : ∀ z y, Keeps a z → Keeps a (f z y)) :
    Keeps a (l.foldl f s) := by
  induction l generalizing s with
  | nil => exact hs
  | cons y l ih => exact ih (hf s y hs)

theorem foldl2 {α β : Type} {a : State} {p : α × State} {f : α × State → β → α × State} {l : List β} (hs : Keeps a p.2)
    (hf : ∀ z y, Keeps a z.2 → Keeps a (f z y).2) : Keeps a (l.foldl f p).2 := by
  induction l generalizing p with
  | nil => exact hs
  | cons y l ih => exact ih (hf p y hs)

theorem foldl1 {α β : Type} {a : State} {p : State × α} {f : State × α → β → State × α} {l : List β} (hs : Keeps a p.1)
    (hf : ∀ z y, Keeps a z.1 → Keeps a (f z y).1) : Keeps a (l.foldl f p).1 := by
  induction l generalizing p with
  | nil => exact hs
  | cons y l ih => exact ih (hf p y hs)

theorem eq2 {α : Type} {a t : State} {p : α × State} {v : α} (e : p = (v, t)) (h : Keeps a p.2) : Keeps a t := by
  rw [e] at h; exact h

theorem eq1 {α : Type} {a t : State} {p : State × α} {v : α} (e : p = (t, v)) (h : Keeps a p.1) : Keeps a t := by
  rw [e] at h; exact h

/-! ### The operations that write what `of` leaves alone -/

theorem bump {a s : State} {k : Nat} (hs : Keeps a s) : Keeps a (s.bump k) := by
  unfold State.bump
  split
  · exact hs
  · refine ⟨fun c => ?_, hs.2, hs.3, hs.4, hs.5, hs.6, hs.7, hs.8, hs.9⟩
    have h := hs.1 c
    exact ⟨h.1, h.2, h.3, h.4, Sparse.wf_put (d := fun _ => 0) h.5 _ _, h.6⟩

theorem wr {a s : State} {k v : Nat} (hs : Keeps a s) : Keeps a (s.wr k v) := by
  unfold State.wr
  split
  · exact hs
  · refine bump ⟨fun c => ?_, hs.2, hs.3, hs.4, hs.5, hs.6, hs.7, hs.8, hs.9⟩
    have h := hs.1 c
    exact ⟨h.1, h.2, h.3, Sparse.wf_put (d := dfltOf) h.4 _ _, h.5, h.6⟩

theorem wrO {a s : State} {k off : Nat} {bs : Bytes} (hs : Keeps a s) : Keeps a (s.wrO k off bs) := by
  unfold State.wrO
  split
  · exact hs
  · refine bump ⟨fun c => ?_, hs.2, hs.3, hs.4, hs.5, hs.6, hs.7, hs.8, hs.9⟩
    have h := hs.1 c
    exact ⟨h.1, h.2, wf_putOct h.3 _ _ _, h.4, h.5, h.6⟩

theorem send {a s : State} {t : Tx} (hs : Keeps a s) : Keeps a (s.send t) := by
  unfold State.send
  split
  · exact hs
  · exact ⟨fun c => let h := hs.1 c; ⟨h.1, h.2, h.3, h.4, h.5, h.6⟩, hs.2, hs.3, hs.4, hs.5, hs.6, hs.7.trans (List.prefix_append _ _),
      hs.8, hs.9⟩

theorem mwr {a s : State} {x : Nat} {bs : Bytes} (hs : Keeps a s) : Keeps a (s.mwr x bs) := by
  refine ⟨fun c => ?_, hs.2, hs.3, hs.4, hs.5, hs.6, hs.7, hs.8, hs.9⟩
  have h := hs.1 c
  exact ⟨Sparse.wf_putBytes h.1 _ _, h.2, h.3, h.4, h.5, h.6.filter _⟩

theorem mzero {a s : State} {lo hi : Nat} (hs : Keeps a s) : Keeps a (s.mzero lo hi) := by
  refine ⟨fun c => ?_, hs.2, hs.3, hs.4, hs.5, hs.6, hs.7, hs.8, hs.9⟩
  have h := hs.1 c
  exact ⟨Sparse.wf_clear h.1 _ _, h.2, h.3, h.4, h.5, h.6.filter _⟩

/-- Bytes stored, with the poison marks left as they are. -/
theorem stored {a s : State} {x : Nat} {bs : Bytes} (hs : Keeps a s) : Keeps a { s with mem := Sparse.putBytes s.mem x bs } := by
  refine ⟨fun c => ?_, hs.2, hs.3, hs.4, hs.5, hs.6, hs.7, hs.8, hs.9⟩
  have h := hs.1 c
  exact ⟨Sparse.wf_putBytes h.1 _ _, h.2, h.3, h.4, h.5, h.6⟩

/-- Poison marks of covered words removed. -/
theorem cleared {a s : State} {x n : Nat} (hs : Keeps a s) : Keeps a { s with poison := unpoison s.poison x n } := by
  refine ⟨fun c => ?_, hs.2, hs.3, hs.4, hs.5, hs.6, hs.7, hs.8, hs.9⟩
  have h := hs.1 c
  exact ⟨h.1, h.2, h.3, h.4, h.5, h.6.filter _⟩

/-- Poison marks put. -/
theorem marked {a s : State} {f : Nat → Nat} {is : List Nat} (hs : Keeps a s) :
    Keeps a { s with poison := is.foldl (fun l i => insertSorted (f i) l) s.poison } := by
  refine ⟨fun c => ?_, hs.2, hs.3, hs.4, hs.5, hs.6, hs.7, hs.8, hs.9⟩
  have h := hs.1 c
  exact ⟨h.1, h.2, h.3, h.4, h.5, pairwise_insertAll h.6 f is⟩

/-- A log entry counted. -/
theorem logged {a s : State} {l : Log} (hs : Keeps a s) (hl : s.log.next ≤ l.next) : Keeps a { s with log := l } :=
  ⟨fun c => let h := hs.1 c; ⟨h.1, h.2, h.3, h.4, h.5, h.6⟩, hs.2, hs.3, hs.4, hs.5, hs.6, hs.7, Nat.le_trans hs.8 hl, hs.9⟩

/-- Draws taken. -/
theorem drawn {a s : State} {n : Nat} (hs : Keeps a s) (hn : s.draws ≤ n) : Keeps a { s with draws := n } :=
  ⟨fun c => let h := hs.1 c; ⟨h.1, h.2, h.3, h.4, h.5, h.6⟩, hs.2, hs.3, hs.4, hs.5, hs.6, hs.7, hs.8, Nat.le_trans hs.9 hn⟩

end K

namespace KO
theorem ofNone {a : State} : KO a none := fun _ e => by cases e
theorem ofSome {a s : State} (h : Keeps a s) : KO a (some s) := fun _ e => Option.some.inj e ▸ h
theorem ite {a : State} {s t : Option State} {c : Prop} [Decidable c] (hs : KO a s) (ht : KO a t) : KO a (if c then s else t) := by
  split <;> assumption
theorem eq {a t : State} {o : Option State} (e : o = some t) (h : KO a o) : Keeps a t := h t e
theorem map {β : Type} {a : State} {o : Option β} {f : β → State} (h : ∀ b, Keeps a (f b)) : KO a (o.map f) := by
  cases o with
  | none => exact ofNone
  | some b => exact ofSome (h b)
theorem findSome {β : Type} {a : State} {l : List β} {f : β → Option State} (h : ∀ b, KO a (f b)) : KO a (l.findSome? f) := by
  induction l with
  | nil => exact ofNone
  | cons b l ih =>
    rw [List.findSome?_cons]
    split
    · rename_i e
      exact ofSome (h b _ e)
    · exact ih
theorem getD {a s : State} {o : Option State} (h : KO a o) (hs : Keeps a s) : Keeps a (o.getD s) := by
  cases o with
  | none => exact hs
  | some t => exact h t rfl
end KO

namespace KO2
theorem ofNone {α : Type} {a : State} : KO2 (α := α) a none := fun _ e => by cases e
theorem ofSome {α : Type} {a : State} {p : α × State} (h : Keeps a p.2) : KO2 a (some p) := fun _ e => Option.some.inj e ▸ h
theorem ite {α : Type} {a : State} {s t : Option (α × State)} {c : Prop} [Decidable c] (hs : KO2 a s) (ht : KO2 a t) :
    KO2 a (if c then s else t) := by
  split <;> assumption
theorem eq {α : Type} {a t : State} {v : α} {o : Option (α × State)} (e : o = some (v, t)) (h : KO2 a o) : Keeps a t := h _ e
end KO2

namespace KO1
theorem ofNone {α : Type} {a : State} : KO1 (α := α) a none := fun _ e => by cases e
theorem ofSome {α : Type} {a : State} {p : State × α} (h : Keeps a p.1) : KO1 a (some p) := fun _ e => Option.some.inj e ▸ h
theorem ite {α : Type} {a : State} {s t : Option (State × α)} {c : Prop} [Decidable c] (hs : KO1 a s) (ht : KO1 a t) :
    KO1 a (if c then s else t) := by
  split <;> assumption
theorem eq {α : Type} {a t : State} {v : α} {o : Option (State × α)} (e : o = some (t, v)) (h : KO1 a o) : Keeps a t := h _ e
theorem map {α β : Type} {a : State} {o : Option β} {f : β → State × α} (h : ∀ b, Keeps a (f b).1) : KO1 a (o.map f) := by
  cases o with
  | none => exact ofNone
  | some b => exact ofSome (h b)
end KO1

namespace KR
theorem next {a s : State} (h : Keeps a s) : KR a (.next s) := fun _ e => by cases e; exact h
theorem ofFault {a : State} {r : Fault} : KR a (.fault r) := fun _ e => by cases e
theorem ofRefused {a : State} {r : Refusal} : KR a (.refused r) := fun _ e => by cases e
theorem ite {a : State} {s t : Out} {c : Prop} [Decidable c] (hs : KR a s) (ht : KR a t) : KR a (if c then s else t) := by
  split <;> assumption
end KR

end Sys2Proof.Machine
end

