-- ==== Sys2Proof/Laws/Keeps/Ops.lean ====
section
/-!
SUPPORT. What the operations of Machine/Ops.lean keep: the canonical forms, the queue, the build, the test port, the sticky
registers and storage; every frame already handed over stays, and the log's sequence and the draws only rise.
-/

namespace Sys2Proof.Machine

theorem K.modCouch {a : State} {s} {f} (hs : Keeps a s) : Keeps a (State.modCouch s f) := by
  unfold State.modCouch
  refine K.of (s := s) ?_ rfl rfl rfl rfl rfl rfl rfl rfl rfl rfl rfl rfl rfl
  assumption

theorem K.modMember {a : State} {s} {f} (hs : Keeps a s) : Keeps a (State.modMember s f) := by
  unfold State.modMember
  refine K.of (s := s) ?_ rfl rfl rfl rfl rfl rfl rfl rfl rfl rfl rfl rfl rfl
  assumption

theorem K.modPass {a : State} {s} {f} (hs : Keeps a s) : Keeps a (State.modPass s f) := by
  unfold State.modPass
  refine K.of (s := s) ?_ rfl rfl rfl rfl rfl rfl rfl rfl rfl rfl rfl rfl rfl
  assumption

theorem K.modTiers {a : State} {s} {f} (hs : Keeps a s) : Keeps a (State.modTiers s f) := by
  unfold State.modTiers
  refine K.of (s := s) ?_ rfl rfl rfl rfl rfl rfl rfl rfl rfl rfl rfl rfl rfl
  assumption

theorem K.modSPort {a : State} {s} {f} (hs : Keeps a s) : Keeps a (State.modSPort s f) := by
  unfold State.modSPort
  refine K.of (s := s) ?_ rfl rfl rfl rfl rfl rfl rfl rfl rfl rfl rfl rfl rfl
  assumption

theorem K.modServer {a : State} {s} {f} (hs : Keeps a s) : Keeps a (State.modServer s f) := by
  unfold State.modServer
  refine K.of (s := s) ?_ rfl rfl rfl rfl rfl rfl rfl rfl rfl rfl rfl rfl rfl
  assumption

theorem K.modSensors {a : State} {s} {f} (hs : Keeps a s) : Keeps a (State.modSensors s f) := by
  unfold State.modSensors
  refine K.of (s := s) ?_ rfl rfl rfl rfl rfl rfl rfl rfl rfl rfl rfl rfl rfl
  assumption

theorem K.modTwin {a : State} {s} {f} (hs : Keeps a s) : Keeps a (State.modTwin s f) := by
  unfold State.modTwin
  refine K.of (s := s) ?_ rfl rfl rfl rfl rfl rfl rfl rfl rfl rfl rfl rfl rfl
  assumption

theorem K.modClock {a : State} {s} {f} (hs : Keeps a s) : Keeps a (State.modClock s f) := by
  unfold State.modClock
  refine K.of (s := s) ?_ rfl rfl rfl rfl rfl rfl rfl rfl rfl rfl rfl rfl rfl
  assumption

theorem K.modAudit {a : State} {s} {f} (hs : Keeps a s) : Keeps a (State.modAudit s f) := by
  unfold State.modAudit
  refine K.of (s := s) ?_ rfl rfl rfl rfl rfl rfl rfl rfl rfl rfl rfl rfl rfl
  assumption

theorem K.modProt {a : State} {s} {f} (hs : Keeps a s) : Keeps a (State.modProt s f) := by
  unfold State.modProt
  refine K.of (s := s) ?_ rfl rfl rfl rfl rfl rfl rfl rfl rfl rfl rfl rfl rfl
  assumption

theorem K.modFirmware {a : State} {s} {f} (hs : Keeps a s) : Keeps a (State.modFirmware s f) := by
  unfold State.modFirmware
  refine K.of (s := s) ?_ rfl rfl rfl rfl rfl rfl rfl rfl rfl rfl rfl rfl rfl
  assumption

theorem K.modArrays {a : State} {s} {f} (hs : Keeps a s) : Keeps a (State.modArrays s f) := by
  unfold State.modArrays
  refine K.of (s := s) ?_ rfl rfl rfl rfl rfl rfl rfl rfl rfl rfl rfl rfl rfl
  assumption

theorem K.incBy {a : State} {s} {k} {n} (hs : Keeps a s) : Keeps a (State.incBy s k n) := by
  unfold State.incBy
  refine K.wr ?_
  assumption

theorem K.inc {a : State} {s} {k} (hs : Keeps a s) : Keeps a (State.inc s k) := by
  unfold State.inc
  refine K.incBy ?_
  assumption

theorem K.wrOf {a : State} {s} {k} {off} {n} {v} (hs : Keeps a s) : Keeps a (State.wrOf s k off n v) := by
  unfold State.wrOf
  refine K.wrO ?_
  assumption

theorem K.ce {a : State} {s} {r} (hs : Keeps a s) : Keeps a (State.ce s r) := by
  unfold State.ce
  refine K.ite ?_ ?_
  · refine K.inc ?_
    assumption
  · assumption

theorem K.sendDev {a : State} {s} {dst} {stream} {flow} {f} (hs : Keeps a s) : Keeps a (State.sendDev s dst stream flow f) := by
  unfold State.sendDev
  refine K.send ?_
  assumption

theorem K.sendMember {a : State} {s} {dst} {f} (hs : Keeps a s) : Keeps a (State.sendMember s dst f) := by
  unfold State.sendMember
  refine K.sendDev ?_
  assumption

theorem K.sendTwin {a : State} {s} {kind} {flags} {body} (hs : Keeps a s) : Keeps a (State.sendTwin s kind flags body) := by
  unfold State.sendTwin
  refine K.send ?_
  assumption

theorem K.fIssue {a : State} {s} {use} {st} {write} {lba} {blocks} {data} (hs : Keeps a s) : Keeps a (State.fIssue s use st write lba blocks data) := by
  unfold State.fIssue
  refine K.of (s := s) ?_ rfl rfl rfl rfl rfl rfl rfl rfl rfl rfl rfl rfl rfl
  assumption

theorem K.logBlock {a : State} {s} {b} (hs : Keeps a s) : Keeps a (State.logBlock s b) := by
  unfold State.logBlock
  extract_lets +onlyGivenNames z0
  try clear_value z0
  extract_lets +onlyGivenNames z1
  have h1 : Keeps a z1 := by
    subst z1
    refine K.fIssue ?_
    assumption
  try clear_value z1
  refine K.of (s := z1) ?_ rfl rfl rfl rfl rfl rfl rfl rfl rfl rfl rfl rfl rfl
  assumption

theorem K.windowSlot {a : State} {s} {seq} {b} (hs : Keeps a s) : Keeps a (State.windowSlot s seq b) := by
  unfold State.windowSlot
  extract_lets +onlyGivenNames z0
  try clear_value z0
  refine K.ite ?_ ?_
  · refine K.wrO ?_
    assumption
  · assumption

theorem K.keepRec {a : State} {s} {r} (hs : Keeps a s) : Keeps a (State.keepRec s r) := by
  unfold State.keepRec
  exact K.logged hs (Nat.le_succ _)

theorem K.evFrom {a : State} {s} {source} {code} {payload} (hs : Keeps a s) : Keeps a (State.evFrom s source code payload) := by
  unfold State.evFrom
  extract_lets  +onlyGivenNames z0
  extract_lets  +onlyGivenNames z1
  have h1 : Keeps a z1 := by
    subst z1
    refine K.keepRec ?_
    assumption
  try clear_value z1
  extract_lets  +onlyGivenNames z2
  have h2 : Keeps a z2 := by
    subst z2
    refine K.wr ?_
    assumption
  try clear_value z2
  extract_lets  +onlyGivenNames z3
  have h3 : Keeps a z3 := by
    subst z3
    refine K.wr ?_
    assumption
  try clear_value z3
  extract_lets  +onlyGivenNames z4
  have h4 : Keeps a z4 := by
    subst z4
    refine K.wrO ?_
    assumption
  try clear_value z4
  extract_lets  +onlyGivenNames z5
  have h5 : Keeps a z5 := by
    subst z5
    refine K.windowSlot ?_
    assumption
  try clear_value z5
  extract_lets  +onlyGivenNames z6
  have h6 : Keeps a z6 := by
    subst z6
    refine K.ite ?_ ?_
    · assumption
    · refine K.windowSlot ?_
      assumption
  try clear_value z6
  extract_lets  +onlyGivenNames z7
  have h7 : Keeps a z7 := by
    subst z7
    refine K.inc ?_
    assumption
  try clear_value z7
  extract_lets  +onlyGivenNames z8
  have h8 : Keeps a z8 := by
    subst z8
    refine K.ite ?_ ?_
    · refine K.logBlock ?_
      assumption
    · assumption
  try clear_value z8
  refine K.ite ?_ ?_
  · refine K.sendTwin ?_
    assumption
  · assumption

theorem K.ev {a : State} {s} {code} {payload} (hs : Keeps a s) : Keeps a (State.ev s code payload) := by
  unfold State.ev
  refine K.evFrom ?_
  assumption

theorem K.evHub {a : State} {s} {code} {payload} (hs : Keeps a s) : Keeps a (State.evHub s code payload) := by
  unfold State.evHub
  refine K.evFrom ?_
  assumption

theorem K.evSlice {a : State} {s} {n} {code} {payload} (hs : Keeps a s) : Keeps a (State.evSlice s n code payload) := by
  unfold State.evSlice
  refine K.evFrom ?_
  assumption

theorem K.evSecond {a : State} {s} {code} {payload} (hs : Keeps a s) : Keeps a (State.evSecond s code payload) := by
  unfold State.evSecond
  extract_lets +onlyGivenNames z0
  try clear_value z0
  refine K.ite ?_ ?_
  · assumption
  · refine K.ev ?_
    refine K.of (s := s) ?_ rfl rfl rfl rfl rfl rfl rfl rfl rfl rfl rfl rfl rfl
    assumption

theorem K.tally {a : State} {s} {code} {about} {n} (hs : Keeps a s) : Keeps a (State.tally s code about n) := by
  unfold State.tally
  refine K.ite ?_ ?_
  · assumption
  · refine K.ite ?_ ?_
    · refine K.modPass ?_
      assumption
    · refine K.modPass ?_
      assumption

theorem K.tallyAt {a : State} {s} {code} {a'} (hs : Keeps a s) : Keeps a (State.tallyAt s code a') := by
  unfold State.tallyAt
  refine K.tally ?_
  assumption

theorem K.evStep {a : State} {s} {code} {payload} (hs : Keeps a s) : Keeps a (State.evStep s code payload) := by
  unfold State.evStep
  refine K.ite ?_ ?_
  · assumption
  · refine K.ev ?_
    refine K.of (s := s) ?_ rfl rfl rfl rfl rfl rfl rfl rfl rfl rfl rfl rfl rfl
    assumption

theorem K.mwrNat {a : State} {s} {a'} {n} {v} (hs : Keeps a s) : Keeps a (State.mwrNat s a' n v) := by
  unfold State.mwrNat
  refine K.mwr ?_
  assumption

theorem K.draw {a : State} {s} (hs : Keeps a s) : Keeps a (State.draw s).2 := by
  unfold State.draw
  dsimp -zeta only
  refine K.drawn (s := s) ?_ (by omega)
  assumption

theorem K.random {a : State} {s} (hs : Keeps a s) : Keeps a (State.random s).2 := by
  unfold State.random
  dsimp -zeta only
  refine K.drawn (s := s) ?_ (by omega)
  assumption

theorem K.answer {a : State} {s} {r} {status} {poison} {data} (hs : Keeps a s) : Keeps a (State.answer s r status poison data) := by
  unfold State.answer
  extract_lets +onlyGivenNames z0 z1
  try clear_value z0
  have h1 : Keeps a z1 := by
    subst z1
    refine K.of (s := s) ?_ rfl rfl rfl rfl rfl rfl rfl rfl rfl rfl rfl rfl rfl
    assumption
  try clear_value z1
  refine K.ite ?_ ?_
  · refine K.inc ?_
    assumption
  · refine K.ite ?_ ?_
    · refine K.inc ?_
      assumption
    · assumption

theorem K.refuse {a : State} {s} {r} (hs : Keeps a s) : Keeps a (State.refuse s r) := by
  unfold State.refuse
  refine K.ite ?_ ?_
  · refine K.answer ?_
    assumption
  · refine K.answer ?_
    assumption

theorem K.failHeld {a : State} {s} (hs : Keeps a s) : Keeps a (State.failHeld s) := by
  unfold State.failHeld
  refine K.foldl ?_ ?_
  · refine K.of (s := s) ?_ rfl rfl rfl rfl rfl rfl rfl rfl rfl rfl rfl rfl rfl
    assumption
  · intro y0 y1 k0
    refine K.answer ?_
    assumption

theorem K.setDev {a : State} {s} {new} {cause} (hs : Keeps a s) : Keeps a (State.setDev s new cause) := by
  unfold State.setDev
  extract_lets +onlyGivenNames z0
  try clear_value z0
  refine K.ite ?_ ?_
  · assumption
  · extract_lets +onlyGivenNames z1
    have h1 : Keeps a z1 := by
      subst z1
      refine K.wr ?_
      assumption
    try clear_value z1
    extract_lets +onlyGivenNames z2
    have h2 : Keeps a z2 := by
      subst z2
      refine K.wr ?_
      assumption
    try clear_value z2
    extract_lets +onlyGivenNames z3
    have h3 : Keeps a z3 := by
      subst z3
      refine K.wr ?_
      assumption
    try clear_value z3
    extract_lets +onlyGivenNames z4
    have h4 : Keeps a z4 := by
      subst z4
      refine K.inc ?_
      assumption
    try clear_value z4
    refine K.ev ?_
    assumption

theorem K.setFn {a : State} {s} {f} {new} (hs : Keeps a s) : Keeps a (State.setFn s f new) := by
  unfold State.setFn
  extract_lets +onlyGivenNames z0
  try clear_value z0
  refine K.ite ?_ ?_
  · assumption
  · extract_lets +onlyGivenNames z1
    have h1 : Keeps a z1 := by
      subst z1
      refine K.wr ?_
      assumption
    try clear_value z1
    extract_lets +onlyGivenNames z2
    have h2 : Keeps a z2 := by
      subst z2
      refine K.ite ?_ ?_
      · refine K.inc ?_
        assumption
      · assumption
    try clear_value z2
    refine K.ev ?_
    assumption

theorem K.allOff {a : State} {s} (hs : Keeps a s) : Keeps a (State.allOff s) := by
  unfold State.allOff
  refine K.foldl ?_ ?_
  · assumption
  · intro y0 y1 k0
    refine K.setFn ?_
    refine K.wr ?_
    assumption

theorem K.startRefused {a : State} {s} {f} {code} (hs : Keeps a s) : Keeps a (State.startRefused s f code) := by
  unfold State.startRefused
  refine K.ev ?_
  refine K.setFn ?_
  assumption

theorem K.sendSuspect {a : State} {s} {dev} {cause} (hs : Keeps a s) : Keeps a (State.sendSuspect s dev cause) := by
  unfold State.sendSuspect
  extract_lets +onlyGivenNames z0
  try clear_value z0
  extract_lets +onlyGivenNames z1
  try clear_value z1
  refine K.ite ?_ ?_
  · assumption
  · extract_lets +onlyGivenNames z2
    have h2 : Keeps a z2 := by
      subst z2
      refine K.sendMember ?_
      assumption
    try clear_value z2
    refine K.evHub ?_
    assumption

theorem K.sendBeat {a : State} {s} (hs : Keeps a s) : Keeps a (State.sendBeat s) := by
  unfold State.sendBeat
  refine K.ite ?_ ?_
  · assumption
  · refine K.inc ?_
    refine K.sendTwin ?_
    assumption

theorem K.unitFailed {a : State} {s} {code} {n} (hs : Keeps a s) : Keeps a (State.unitFailed s code n) := by
  unfold State.unitFailed
  extract_lets +onlyGivenNames z0 z1 z2
  try clear_value z0
  try clear_value z1
  have h2 : Keeps a z2 := by
    subst z2
    refine K.of (s := s) ?_ rfl rfl rfl rfl rfl rfl rfl rfl rfl rfl rfl rfl rfl
    assumption
  try clear_value z2
  extract_lets +onlyGivenNames z3
  have h3 : Keeps a z3 := by
    subst z3
    refine K.failHeld ?_
    assumption
  try clear_value z3
  extract_lets +onlyGivenNames z4
  have h4 : Keeps a z4 := by
    subst z4
    refine K.ite ?_ ?_
    · assumption
    · refine K.sendSuspect ?_
      assumption
  try clear_value z4
  extract_lets +onlyGivenNames z5
  have h5 : Keeps a z5 := by
    subst z5
    refine K.ite ?_ ?_
    · refine K.sendBeat ?_
      assumption
    · assumption
  try clear_value z5
  extract_lets +onlyGivenNames z6
  have h6 : Keeps a z6 := by
    subst z6
    refine K.ev ?_
    assumption
  try clear_value z6
  extract_lets +onlyGivenNames z7
  have h7 : Keeps a z7 := by
    subst z7
    refine K.wr ?_
    assumption
  try clear_value z7
  extract_lets +onlyGivenNames z8
  have h8 : Keeps a z8 := by
    subst z8
    refine K.wr ?_
    assumption
  try clear_value z8
  extract_lets +onlyGivenNames z9
  have h9 : Keeps a z9 := by
    subst z9
    refine K.allOff ?_
    assumption
  try clear_value z9
  refine K.setDev ?_
  assumption

end Sys2Proof.Machine
end

