-- ==== Sys2Proof/Laws/Keeps/PageOps.lean ====
section
/-!
SUPPORT. What the operations of Machine/PageOps.lean keep: the canonical forms, the queue, the build, the test port, the sticky
registers and storage; every frame already handed over stays, and the log's sequence and the draws only rise.
-/

namespace Sys2Proof.Machine

theorem K.modYard {a : State} {s} {f} (hs : Keeps a s) : Keeps a (State.modYard s f) := by
  unfold State.modYard
  refine K.of (s := s) ?_ rfl rfl rfl rfl rfl rfl rfl rfl rfl rfl rfl rfl rfl
  assumption

theorem K.yShowDir {a : State} {s} {r} {page} (hs : Keeps a s) : Keeps a (State.yShowDir s r page) := by
  unfold State.yShowDir
  split
  · assumption
  · refine K.mwrNat ?_
    assumption

theorem K.yPutPage {a : State} {s} {p} (hs : Keeps a s) : Keeps a (State.yPutPage s p) := by
  unfold State.yPutPage
  refine K.yShowDir ?_
  refine K.modYard ?_
  assumption

theorem K.yStage {a : State} {s} {r} {page} {changed} (hs : Keeps a s) : Keeps a (State.yStage s r page changed) := by
  unfold State.yStage
  refine K.modYard ?_
  assumption

theorem K.yUnstage {a : State} {s} {r} {page} {changed} (hs : Keeps a s) : Keeps a (State.yUnstage s r page changed) := by
  unfold State.yUnstage
  split
  · assumption
  · extract_lets +onlyGivenNames z0
    try clear_value z0
    refine K.ite ?_ ?_
    · refine K.ite ?_ ?_
      · refine K.yStage ?_
        assumption
      · assumption
    · refine K.ite ?_ ?_
      · refine K.fIssue ?_
        refine K.modYard ?_
        refine K.yStage ?_
        assumption
      · refine K.modYard ?_
        assumption

theorem K.touchPage {a : State} {s} {a'} (hs : Keeps a s) : Keeps a (State.touchPage s a') := by
  unfold State.touchPage
  refine K.ite ?_ ?_
  · assumption
  · split
    · assumption
    · extract_lets +onlyGivenNames z0
      try clear_value z0
      split
      · refine K.ite ?_ ?_
        · assumption
        · refine K.ite ?_ ?_
          · refine K.yStage ?_
            assumption
          · refine K.yUnstage ?_
            assumption
      · extract_lets +onlyGivenNames z1
        try clear_value z1
        split
        · refine K.yPutPage ?_
          assumption
        · refine K.ite ?_ ?_
          · assumption
          · refine K.yUnstage ?_
            refine K.yPutPage ?_
            assumption
        · assumption

end Sys2Proof.Machine
end

