-- ==== Sys2Proof/Laws/Keeps/CouchOps.lean ====
section
/-!
SUPPORT. What the operations of Machine/CouchOps.lean keep: the canonical forms, the queue, the build, the test port, the sticky
registers and storage; every frame already handed over stays, and the log's sequence and the draws only rise.
-/

namespace Sys2Proof.Machine

theorem K.journal {a : State} {s} {ty} {body} (hs : Keeps a s) : Keeps a (State.journal s ty body) := by
  unfold State.journal
  extract_lets +onlyGivenNames z0
  try clear_value z0
  extract_lets +onlyGivenNames z1
  try clear_value z1
  extract_lets +onlyGivenNames z2 z3
  try clear_value z2
  have h3 : Keeps a z3 := by
    subst z3
    refine K.of (s := s) ?_ rfl rfl rfl rfl rfl rfl rfl rfl rfl rfl rfl rfl rfl
    assumption
  try clear_value z3
  extract_lets +onlyGivenNames z4
  have h4 : Keeps a z4 := by
    subst z4
    refine K.wr ?_
    assumption
  try clear_value z4
  extract_lets +onlyGivenNames z5
  have h5 : Keeps a z5 := by
    subst z5
    refine K.wr ?_
    assumption
  try clear_value z5
  refine K.ite ?_ ?_
  · refine K.sendTwin ?_
    assumption
  · assumption

theorem K.sendTail {a : State} {s} (hs : Keeps a s) : Keeps a (State.sendTail s) := by
  unfold State.sendTail
  split
  · assumption
  · extract_lets +onlyGivenNames z0
    try clear_value z0
    extract_lets +onlyGivenNames z1
    try clear_value z1
    extract_lets +onlyGivenNames z2
    try clear_value z2
    extract_lets +onlyGivenNames z3
    have h3 : Keeps a z3 := by
      subst z3
      refine K.modTwin ?_
      assumption
    try clear_value z3
    extract_lets +onlyGivenNames z4
    have h4 : Keeps a z4 := by
      subst z4
      refine K.foldl ?_ ?_
      · assumption
      · intro y5 y6 k5
        refine K.sendTwin ?_
        assumption
    try clear_value z4
    extract_lets +onlyGivenNames z7
    have h7 : Keeps a z7 := by
      subst z7
      refine K.foldl ?_ ?_
      · assumption
      · intro y8 y9 k8
        refine K.sendTwin ?_
        assumption
    try clear_value z7
    refine K.ite ?_ ?_
    · assumption
    · refine K.ev ?_
      refine K.incBy ?_
      assumption

theorem K.logEntry {a : State} {s} {e} (hs : Keeps a s) : Keeps a (State.logEntry s e) := by
  unfold State.logEntry
  refine K.ite ?_ ?_
  · assumption
  · refine K.of (s := s) ?_ rfl rfl rfl rfl rfl rfl rfl rfl rfl rfl rfl rfl rfl
    assumption

theorem K.refreshOut {a : State} {s} (hs : Keeps a s) : Keeps a (State.refreshOut s) := by
  unfold State.refreshOut
  extract_lets -merge -useContext +onlyGivenNames z0
  try clear_value z0
  extract_lets -merge -useContext +onlyGivenNames z1
  have h1 : Keeps a z1 := by
    subst z1
    refine K.wr ?_
    assumption
  try clear_value z1
  extract_lets -merge -useContext +onlyGivenNames z2
  try clear_value z2
  refine K.ite ?_ ?_
  · extract_lets -merge -useContext +onlyGivenNames z3 z4
    try clear_value z3
    have h4 : Keeps a z4 := by
      subst z4
      refine K.of (s := z1) ?_ rfl rfl rfl rfl rfl rfl rfl rfl rfl rfl rfl rfl rfl
      assumption
    try clear_value z4
    extract_lets -merge -useContext +onlyGivenNames z5
    have h5 : Keeps a z5 := by
      subst z5
      refine K.inc ?_
      assumption
    try clear_value z5
    extract_lets -merge -useContext +onlyGivenNames z6
    have h6 : Keeps a z6 := by
      subst z6
      refine K.ite ?_ ?_
      · refine K.wr ?_
        assumption
      · assumption
    try clear_value z6
    refine K.evSecond ?_
    assumption
  · refine K.ite ?_ ?_
    · extract_lets -merge -useContext +onlyGivenNames z7 z8
      try clear_value z7
      have h8 : Keeps a z8 := by
        subst z8
        refine K.of (s := z1) ?_ rfl rfl rfl rfl rfl rfl rfl rfl rfl rfl rfl rfl rfl
        assumption
      try clear_value z8
      refine K.ite ?_ ?_
      · refine K.wr ?_
        assumption
      · assumption
    · assumption

theorem K.charge {a : State} {s} {old} {new} (hs : Keeps a s) : Keeps a (State.charge s old new) := by
  unfold State.charge
  extract_lets +onlyGivenNames z0
  try clear_value z0
  extract_lets +onlyGivenNames z1 z2
  try clear_value z1
  have h2 : Keeps a z2 := by
    subst z2
    refine K.of (s := s) ?_ rfl rfl rfl rfl rfl rfl rfl rfl rfl rfl rfl rfl rfl
    assumption
  try clear_value z2
  refine K.ite ?_ ?_
  · extract_lets +onlyGivenNames z3 z4
    try clear_value z3
    have h4 : Keeps a z4 := by
      subst z4
      refine K.of (s := z2) ?_ rfl rfl rfl rfl rfl rfl rfl rfl rfl rfl rfl rfl rfl
      assumption
    try clear_value z4
    refine K.wr ?_
    assumption
  · assumption

theorem K.capture {a : State} {s} {l} {ep} {d} {src} {byPass} (hs : Keeps a s) : Keeps a (State.capture s l ep d src byPass) := by
  unfold State.capture
  refine K.ite ?_ ?_
  · assumption
  · split
    · extract_lets +onlyGivenNames z0
      try clear_value z0
      extract_lets +onlyGivenNames z1
      try clear_value z1
      extract_lets +onlyGivenNames z2
      have h2 : Keeps a z2 := by
        subst z2
        refine K.inc ?_
        assumption
      try clear_value z2
      extract_lets +onlyGivenNames z3
      try clear_value z3
      extract_lets +onlyGivenNames z4
      have h4 : Keeps a z4 := by
        subst z4
        refine K.modCouch ?_
        assumption
      try clear_value z4
      refine K.ite ?_ ?_
      · refine K.charge ?_
        assumption
      · assumption
    · extract_lets +onlyGivenNames z5
      have h5 : Keeps a z5 := by
        subst z5
        refine K.inc ?_
        assumption
      try clear_value z5
      extract_lets +onlyGivenNames z6 z7
      try clear_value z6
      have h7 : Keeps a z7 := by
        subst z7
        refine K.of (s := z5) ?_ rfl rfl rfl rfl rfl rfl rfl rfl rfl rfl rfl rfl rfl
        assumption
      try clear_value z7
      refine K.ite ?_ ?_
      · refine K.charge ?_
        assumption
      · assumption

theorem K.cowSave {a : State} {s} {l} {a'} {n} (hs : Keeps a s) : Keeps a (State.cowSave s l a' n) := by
  unfold State.cowSave
  refine K.ite ?_ ?_
  · extract_lets +onlyGivenNames z0
    try clear_value z0
    extract_lets +onlyGivenNames z1
    try clear_value z1
    extract_lets +onlyGivenNames z2
    have h2 : Keeps a z2 := by
      subst z2
      refine K.modTiers ?_
      assumption
    try clear_value z2
    refine K.inc ?_
    assumption
  · assumption

theorem K.countCow {a : State} {s} {t0} (hs : Keeps a s) : Keeps a (State.countCow s t0) := by
  unfold State.countCow
  refine K.modTiers ?_
  assumption

theorem K.goAt {a : State} {s} {a'} (hs : Keeps a s) : Keeps a (State.goAt s a') := by
  unfold State.goAt
  refine K.countCow ?_
  refine K.modCouch ?_
  assumption

theorem K.freeCow {a : State} {s} (hs : Keeps a s) : Keeps a (State.freeCow s) := by
  unfold State.freeCow
  refine K.modCouch ?_
  assumption

theorem K.codedWrite {a : State} {s} {l} {a'} {off} {bs} {ep} {src} {byPass} (hs : Keeps a s) : Keeps a (State.codedWrite s l a' off bs ep src byPass) := by
  unfold State.codedWrite
  extract_lets +onlyGivenNames z0
  try clear_value z0
  extract_lets +onlyGivenNames z1
  have h1 : Keeps a z1 := by
    subst z1
    refine K.cowSave ?_
    assumption
  try clear_value z1
  extract_lets +onlyGivenNames z2
  have h2 : Keeps a z2 := by
    subst z2
    refine K.touchPage ?_
    refine K.mwr ?_
    assumption
  try clear_value z2
  refine K.goAt ?_
  refine K.refreshOut ?_
  refine K.capture ?_
  assumption

theorem K.endOverrun {a : State} {s} (hs : Keeps a s) : Keeps a (State.endOverrun s) := by
  unfold State.endOverrun
  split
  · extract_lets +onlyGivenNames z0
    have h0 : Keeps a z0 := by
      subst z0
      refine K.modCouch ?_
      assumption
    try clear_value z0
    extract_lets +onlyGivenNames z1
    have h1 : Keeps a z1 := by
      subst z1
      refine K.ite ?_ ?_
      · refine K.wr ?_
        assumption
      · assumption
    try clear_value z1
    refine K.evHub ?_
    refine K.incBy ?_
    assumption
  · assumption

theorem K.noteHold {a : State} {s} {n} {a'} (hs : Keeps a s) : Keeps a (State.noteHold s n a') := by
  unfold State.noteHold
  split
  · refine K.evSlice ?_
    refine K.inc ?_
    assumption
  · refine K.evSlice ?_
    refine K.inc ?_
    assumption
  · refine K.evSecond ?_
    refine K.inc ?_
    assumption
  · assumption

theorem K.rush {a : State} {s} {l} (hs : Keeps a s) : Keeps a (State.rush s l) := by
  unfold State.rush
  split
  · assumption
  · refine K.modCouch ?_
    refine K.inc ?_
    assumption

theorem K.endRush {a : State} {s} {n} (hs : Keeps a s) : Keeps a (State.endRush s n) := by
  unfold State.endRush
  refine K.modCouch ?_
  assumption

theorem K.tickRush {a : State} {s} (hs : Keeps a s) : Keeps a (State.tickRush s) := by
  unfold State.tickRush
  refine K.modCouch ?_
  assumption

theorem K.holdAt {a : State} {s} {a'} {n} {why} (hs : Keeps a s) : Keeps a (State.holdAt s a' n why) := by
  unfold State.holdAt
  split
  · refine K.ite ?_ ?_
    · assumption
    · refine K.modCouch ?_
      refine K.noteHold ?_
      assumption
  · refine K.modCouch ?_
    refine K.noteHold ?_
    assumption

theorem K.waitFor {a : State} {s} {l} {n} {a'} {why} (hs : Keeps a s) : Keeps a (State.waitFor s l n a' why) := by
  unfold State.waitFor
  refine K.holdAt ?_
  refine K.ite ?_ ?_
  · refine K.rush ?_
    assumption
  · assumption

theorem K.sendData {a : State} {s} {tgt} {dst} {group} {role} {f} (hs : Keeps a s) : Keeps a (State.sendData s tgt dst group role f) := by
  unfold State.sendData
  refine K.ite ?_ ?_
  · refine K.sendMember ?_
    assumption
  · refine K.sendDev ?_
    assumption

theorem K.emit {a : State} {s} {tgt} {group} {role} {ep} {f} {fill} {eoe} {seq} (hs : Keeps a s) : Keeps a (State.emit s tgt group role ep f fill eoe seq) := by
  unfold State.emit
  extract_lets +onlyGivenNames z0
  try clear_value z0
  extract_lets +onlyGivenNames z1
  try clear_value z1
  extract_lets +onlyGivenNames z2
  have h2 : Keeps a z2 := by
    subst z2
    refine K.modCouch ?_
    assumption
  try clear_value z2
  extract_lets +onlyGivenNames z3
  have h3 : Keeps a z3 := by
    subst z3
    refine K.modCouch ?_
    assumption
  try clear_value z3
  extract_lets +onlyGivenNames z4
  have h4 : Keeps a z4 := by
    subst z4
    refine K.incBy ?_
    assumption
  try clear_value z4
  extract_lets +onlyGivenNames z5
  have h5 : Keeps a z5 := by
    subst z5
    refine K.incBy ?_
    assumption
  try clear_value z5
  refine K.foldl ?_ ?_
  · assumption
  · intro y6 y7 k6
    refine K.sendData ?_
    assumption

theorem K.resendTo {a : State} {s} {o} {h} (hs : Keeps a s) : Keeps a (State.resendTo s o h) := by
  unfold State.resendTo
  refine K.inc ?_
  refine K.sendData ?_
  assumption

theorem K.resendAll {a : State} {s} (hs : Keeps a s) : Keeps a (State.resendAll s) := by
  unfold State.resendAll
  refine K.foldl ?_ ?_
  · assumption
  · intro y0 y1 k0
    extract_lets +onlyGivenNames z2
    try clear_value z2
    refine K.foldl ?_ ?_
    · assumption
    · intro y3 y4 k3
      refine K.resendTo ?_
      assumption

theorem K.packBase {a : State} {s} {st} {ep} {sp} {ls} (hs : Keeps a s) : Keeps a (State.packBase s st ep sp ls) := by
  unfold State.packBase
  extract_lets +onlyGivenNames z0
  try clear_value z0
  extract_lets +onlyGivenNames z1
  try clear_value z1
  extract_lets +onlyGivenNames z2
  have h2 : Keeps a z2 := by
    subst z2
    refine K.foldl ?_ ?_
    · assumption
    · intro y3 y4 k3
      refine K.logEntry ?_
      assumption
  try clear_value z2
  extract_lets +onlyGivenNames z5
  try clear_value z5
  extract_lets +onlyGivenNames z6
  have h6 : Keeps a z6 := by
    subst z6
    refine K.modCouch ?_
    assumption
  try clear_value z6
  extract_lets +onlyGivenNames z7
  try clear_value z7
  refine K.emit ?_
  assumption

theorem K.packTarget {a : State} {s} {st} {ep} {sp} {ls} (hs : Keeps a s) : Keeps a (State.packTarget s st ep sp ls) := by
  unfold State.packTarget
  extract_lets +onlyGivenNames z0
  try clear_value z0
  extract_lets +onlyGivenNames z1
  have h1 : Keeps a z1 := by
    subst z1
    refine K.modCouch ?_
    assumption
  try clear_value z1
  extract_lets +onlyGivenNames z2
  try clear_value z2
  refine K.emit ?_
  assumption

theorem K.packFrame {a : State} {s} {st} {ep} {sp} {ls} (hs : Keeps a s) : Keeps a (State.packFrame s st ep sp ls) := by
  unfold State.packFrame
  refine K.ite ?_ ?_
  · refine K.packTarget ?_
    assumption
  · refine K.packBase ?_
    assumption

theorem K.pumpOne {a : State} {s} {st} (hs : Keeps a s) : KO a (State.pumpOne s st) := by
  unfold State.pumpOne
  refine KO.ite ?_ ?_
  · exact KO.ofNone
  · split
    · refine KO.ofSome ?_
      refine K.packFrame ?_
      assumption
    · refine KO.ite ?_ ?_
      · exact KO.ofNone
      · extract_lets +onlyGivenNames z0
        try clear_value z0
        extract_lets +onlyGivenNames z1
        try clear_value z1
        extract_lets +onlyGivenNames z2
        try clear_value z2
        split
        · extract_lets +onlyGivenNames z3
          try clear_value z3
          refine KO.ofSome ?_
          refine K.packFrame ?_
          assumption
        · extract_lets +onlyGivenNames z4
          try clear_value z4
          refine KO.ofSome ?_
          refine K.packFrame ?_
          assumption
        · refine KO.ite ?_ ?_
          · exact KO.ofNone
          · extract_lets +onlyGivenNames z5
            try clear_value z5
            extract_lets +onlyGivenNames z6
            have h6 : Keeps a z6 := by
              subst z6
              refine K.emit ?_
              assumption
            try clear_value z6
            refine KO.ofSome ?_
            refine K.modCouch ?_
            assumption

theorem K.pumpStream {a : State} {g} {r} {tgt} {n} {s} (hs : Keeps a s) : Keeps a (State.pumpStream g r tgt n s) := by
  induction n generalizing s with
  | zero => exact hs
  | succ n ih =>
    unfold State.pumpStream
    split
    · exact hs
    · split
      · rename_i e
        exact ih (KO.eq e (K.pumpOne hs))
      · exact hs

theorem K.pump {a : State} {s} (hs : Keeps a s) : Keeps a (State.pump s) := by
  unfold State.pump
  refine K.refreshOut ?_
  refine K.foldl ?_ ?_
  · assumption
  · intro y0 y1 k0
    refine K.pumpStream ?_
    assumption

theorem K.toMembers {a : State} {s} {f} (hs : Keeps a s) : Keeps a (State.toMembers s f) := by
  unfold State.toMembers
  refine K.foldl ?_ ?_
  · assumption
  · intro y0 y1 k0
    refine K.sendDev ?_
    assumption

theorem K.sealCommit {a : State} {s} (hs : Keeps a s) : Keeps a (State.sealCommit s) := by
  unfold State.sealCommit
  extract_lets +onlyGivenNames z0
  try clear_value z0
  refine K.ite ?_ ?_
  · assumption
  · extract_lets +onlyGivenNames z1
    try clear_value z1
    extract_lets +onlyGivenNames z2
    try clear_value z2
    extract_lets +onlyGivenNames z3
    have h3 : Keeps a z3 := by
      subst z3
      refine K.ite ?_ ?_
      · refine K.wr ?_
        assumption
      · assumption
    try clear_value z3
    extract_lets +onlyGivenNames z4
    try clear_value z4
    extract_lets +onlyGivenNames z5
    try clear_value z5
    refine K.ite ?_ ?_
    · refine K.of (s := z3) ?_ rfl rfl rfl rfl rfl rfl rfl rfl rfl rfl rfl rfl rfl
      assumption
    · assumption

theorem K.advance {a : State} {s} (hs : Keeps a s) : Keeps a (State.advance s) := by
  unfold State.advance
  refine K.ite ?_ ?_
  · assumption
  · extract_lets +onlyGivenNames z0
    try clear_value z0
    refine K.ite ?_ ?_
    · assumption
    · extract_lets +onlyGivenNames z1
      try clear_value z1
      extract_lets +onlyGivenNames z2
      try clear_value z2
      extract_lets +onlyGivenNames z3
      try clear_value z3
      extract_lets +onlyGivenNames z4
      have h4 : Keeps a z4 := by
        subst z4
        refine K.modCouch ?_
        assumption
      try clear_value z4
      extract_lets +onlyGivenNames z5
      have h5 : Keeps a z5 := by
        subst z5
        refine K.wr ?_
        assumption
      try clear_value z5
      refine K.sealCommit ?_
      refine K.toMembers ?_
      assumption

theorem K.staleNotice {a : State} {s} {f} (hs : Keeps a s) : Keeps a (State.staleNotice s f) := by
  unfold State.staleNotice
  extract_lets +onlyGivenNames z0
  try clear_value z0
  refine K.ite ?_ ?_
  · assumption
  · extract_lets +onlyGivenNames z1 z2
    try clear_value z1
    have h2 : Keeps a z2 := by
      subst z2
      refine K.of (s := s) ?_ rfl rfl rfl rfl rfl rfl rfl rfl rfl rfl rfl rfl rfl
      assumption
    try clear_value z2
    extract_lets +onlyGivenNames z3
    have h3 : Keeps a z3 := by
      subst z3
      refine K.sendMember ?_
      assumption
    try clear_value z3
    extract_lets +onlyGivenNames z4
    have h4 : Keeps a z4 := by
      subst z4
      refine K.inc ?_
      assumption
    try clear_value z4
    refine K.evHub ?_
    assumption

theorem K.hear {a : State} {s} {dev} (hs : Keeps a s) : Keeps a (State.hear s dev) := by
  unfold State.hear
  refine K.of (s := s) ?_ rfl rfl rfl rfl rfl rfl rfl rfl rfl rfl rfl rfl rfl
  assumption

theorem K.hearFrame {a : State} {s} {f} (hs : Keeps a s) : Keeps a (State.hearFrame s f) := by
  unfold State.hearFrame
  refine K.ite ?_ ?_
  · refine K.hear ?_
    assumption
  · assumption

theorem K.gate {a : State} {s} {f} (hs : Keeps a s) : Keeps a (State.gate s f).2 := by
  unfold State.gate
  refine K.ite2 ?_ ?_
  · dsimp -zeta only
    assumption
  · refine K.ite2 ?_ ?_
    · dsimp -zeta only
      refine K.staleNotice ?_
      assumption
    · refine K.ite2 ?_ ?_
      · dsimp -zeta only
        assumption
      · dsimp -zeta only
        refine K.ite ?_ ?_
        · refine K.hear ?_
          assumption
        · assumption

theorem K.gated {a : State} {s} {f} {k} (hs : Keeps a s) (Hk : ∀ {y0}, Keeps a y0 → Keeps a (k y0)) : Keeps a (State.gated s f k) := by
  unfold State.gated
  split
  · rename_i v0_0 v0_1 e0
    have h0 : Keeps a v0_1 := by
      refine K.eq2 e0 ?_
      refine K.gate ?_
      assumption
    refine K.ite ?_ ?_
    · refine Hk ?_
      assumption
    · assumption

theorem K.openRepair {a : State} {s} {a'} {cls} {slice} {reqs} (hs : Keeps a s) : Keeps a (State.openRepair s a' cls slice reqs) := by
  unfold State.openRepair
  split
  · extract_lets +onlyGivenNames z0
    have h0 : Keeps a z0 := by
      subst z0
      refine K.inc ?_
      assumption
    try clear_value z0
    refine K.modProt ?_
    assumption
  · refine K.modProt ?_
    assumption

theorem K.spoil {a : State} {s} {a'} {n} (hs : Keeps a s) : Keeps a (State.spoil s a' n) := by
  unfold State.spoil
  first | refine K.cleared (s := s) ?_ | refine K.marked (s := s) ?_
  assumption

theorem K.linesHeld {a : State} {s} {as} (hs : Keeps a s) : KO a (State.linesHeld s as) := by
  unfold State.linesHeld
  extract_lets +onlyGivenNames z0
  try clear_value z0
  extract_lets +onlyGivenNames z1
  try clear_value z1
  extract_lets +onlyGivenNames z2
  try clear_value z2
  refine KO.ite ?_ ?_
  · refine KO.ofSome ?_
    refine K.foldl ?_ ?_
    · assumption
    · intro y3 y4 k3
      refine K.ite ?_ ?_
      · assumption
      · refine K.openRepair ?_
        assumption
  · refine KO.ite ?_ ?_
    · exact KO.ofNone
    · refine KO.ofSome ?_
      refine K.foldl ?_ ?_
      · assumption
      · intro y5 y6 k5
        refine K.waitFor ?_
        assumption

theorem K.ifRoom {a : State} {s} {as} {write} (hs : Keeps a s) (Hwrite : ∀ {y0}, Keeps a y0 → Keeps a (write y0)) : Keeps a (State.ifRoom s as write) := by
  unfold State.ifRoom
  extract_lets +onlyGivenNames z0
  have h0 : Keeps a z0 := by
    subst z0
    refine Hwrite ?_
    assumption
  try clear_value z0
  split
  · refine K.holdAt ?_
    assumption
  · assumption

theorem K.eraseFelt {a : State} {s} {seg} {sp} {n} {a'} {cause} (hs : Keeps a s) : Keeps a (State.eraseFelt s seg sp n a' cause) := by
  unfold State.eraseFelt
  refine K.ite ?_ ?_
  · assumption
  · extract_lets +onlyGivenNames z0
    try clear_value z0
    refine K.evSlice ?_
    refine K.inc ?_
    refine K.openRepair ?_
    refine K.spoil ?_
    assumption

theorem K.feltAdd {a : State} {s} {tgt} {g} {sp} {n} {ts} (hs : Keeps a s) : Keeps a (State.feltAdd s tgt g sp n ts) := by
  unfold State.feltAdd
  split
  · assumption
  · refine K.mwr ?_
    assumption

theorem K.vatAdd {a : State} {s} {tgt} {g} {b} {sp} {n} {ts} (hs : Keeps a s) : Keeps a (State.vatAdd s tgt g b sp n ts) := by
  unfold State.vatAdd
  refine K.ite ?_ ?_
  · refine K.of (s := s) ?_ rfl rfl rfl rfl rfl rfl rfl rfl rfl rfl rfl rfl rfl
    assumption
  · refine K.of (s := s) ?_ rfl rfl rfl rfl rfl rfl rfl rfl rfl rfl rfl rfl rfl
    assumption

theorem K.foldVat {a : State} {s} {v} (hs : Keeps a s) : Keeps a (State.foldVat s v) := by
  unfold State.foldVat
  split
  · refine K.of (s := s) ?_ rfl rfl rfl rfl rfl rfl rfl rfl rfl rfl rfl rfl rfl
    assumption
  · split
    · refine K.eraseFelt ?_
      assumption
    · refine K.feltAdd ?_
      refine K.of (s := s) ?_ rfl rfl rfl rfl rfl rfl rfl rfl rfl rfl rfl rfl rfl
      assumption

theorem K.foldBank {a : State} {s} {b} (hs : Keeps a s) : Keeps a (State.foldBank s b) := by
  unfold State.foldBank
  refine K.foldl ?_ ?_
  · assumption
  · intro y0 y1 k0
    refine K.foldVat ?_
    assumption

theorem K.freeChains {a : State} {s} (hs : Keeps a s) : Keeps a (State.freeChains s) := by
  unfold State.freeChains
  extract_lets +onlyGivenNames z0
  try clear_value z0
  extract_lets +onlyGivenNames z1
  try clear_value z1
  extract_lets +onlyGivenNames z2
  try clear_value z2
  extract_lets +onlyGivenNames z3
  try clear_value z3
  extract_lets +onlyGivenNames z4
  try clear_value z4
  extract_lets +onlyGivenNames z5
  have h5 : Keeps a z5 := by
    subst z5
    refine K.modCouch ?_
    assumption
  try clear_value z5
  refine K.of (s := z5) ?_ rfl rfl rfl rfl rfl rfl rfl rfl rfl rfl rfl rfl rfl
  assumption

end Sys2Proof.Machine
end

