-- ==== Sys2Proof/Laws/Keeps/SnapOps.lean ====
section
/-!
SUPPORT. What the operations of Machine/SnapOps.lean keep: the canonical forms, the queue, the build, the test port, the sticky
registers and storage; every frame already handed over stays, and the log's sequence and the draws only rise.
-/

namespace Sys2Proof.Machine

theorem K.slotStatus {a : State} {s} {k} {i} {step} {st} (hs : Keeps a s) : Keeps a (State.slotStatus s k i step st) := by
  unfold State.slotStatus
  refine K.wrO ?_
  assumption

theorem K.refreshAdaptive {a : State} {s} (hs : Keeps a s) : Keeps a (State.refreshAdaptive s) := by
  unfold State.refreshAdaptive
  extract_lets +onlyGivenNames z0
  try clear_value z0
  extract_lets +onlyGivenNames z1
  try clear_value z1
  extract_lets +onlyGivenNames z2
  have h2 : Keeps a z2 := by
    subst z2
    refine K.wr ?_
    assumption
  try clear_value z2
  refine K.wr ?_
  assumption

theorem K.takeSnapReport {a : State} {s} {dev} {outcome} {number} {cost} (hs : Keeps a s) : Keeps a (State.takeSnapReport s dev outcome number cost) := by
  unfold State.takeSnapReport
  refine K.ite ?_ ?_
  · assumption
  · extract_lets +onlyGivenNames z0
    have h0 : Keeps a z0 := by
      subst z0
      refine K.modTiers ?_
      assumption
    try clear_value z0
    refine K.refreshAdaptive ?_
    assumption

theorem K.snapReport {a : State} {s} {step} {outcome} {reason} {number} {cost} {size} (hs : Keeps a s) : Keeps a (State.snapReport s step outcome reason number cost size) := by
  unfold State.snapReport
  refine K.ite ?_ ?_
  · refine K.takeSnapReport ?_
    assumption
  · refine K.sendMember ?_
    assumption

theorem K.abandonSnap {a : State} {s} {reason} (hs : Keeps a s) : Keeps a (State.abandonSnap s reason) := by
  unfold State.abandonSnap
  split
  · assumption
  · refine K.ite ?_ ?_
    · refine K.modTiers ?_
      assumption
    · extract_lets +onlyGivenNames z0
      try clear_value z0
      extract_lets +onlyGivenNames z1
      have h1 : Keeps a z1 := by
        subst z1
        refine K.freeCow ?_
        refine K.modTiers ?_
        assumption
      try clear_value z1
      extract_lets +onlyGivenNames z2
      have h2 : Keeps a z2 := by
        subst z2
        refine K.of (s := z1) ?_ rfl rfl rfl rfl rfl rfl rfl rfl rfl rfl rfl rfl rfl
        assumption
      try clear_value z2
      extract_lets +onlyGivenNames z3
      have h3 : Keeps a z3 := by
        subst z3
        refine K.ite ?_ ?_
        · refine K.slotStatus ?_
          assumption
        · refine K.slotStatus ?_
          assumption
      try clear_value z3
      extract_lets +onlyGivenNames z4
      have h4 : Keeps a z4 := by
        subst z4
        refine K.wr ?_
        assumption
      try clear_value z4
      extract_lets +onlyGivenNames z5
      have h5 : Keeps a z5 := by
        subst z5
        refine K.inc ?_
        assumption
      try clear_value z5
      extract_lets +onlyGivenNames z6
      have h6 : Keeps a z6 := by
        subst z6
        refine K.evHub ?_
        assumption
      try clear_value z6
      refine K.snapReport ?_
      refine K.freeChains ?_
      assumption

end Sys2Proof.Machine
end

