-- ==== Sys2Proof/Laws/Keeps/MemberOps.lean ====
section
/-!
SUPPORT. What the operations of Machine/MemberOps.lean keep: the canonical forms, the queue, the build, the test port, the sticky
registers and storage; every frame already handed over stays, and the log's sequence and the draws only rise.
-/

namespace Sys2Proof.Machine

theorem K.notePlacement {a : State} {s} {ms} (hs : Keeps a s) : Keeps a (State.notePlacement s ms).2 := by
  unfold State.notePlacement
  extract_lets +onlyGivenNames z0
  try clear_value z0
  extract_lets +onlyGivenNames z1
  try clear_value z1
  extract_lets +onlyGivenNames z2
  have h2 : Keeps a z2 := by
    subst z2
    refine K.wr ?_
    refine K.inc ?_
    assumption
  try clear_value z2
  split
  · extract_lets +onlyGivenNames z3
    have h3 : Keeps a z3 := by
      subst z3
      refine K.inc ?_
      refine K.wr ?_
      refine K.wr ?_
      assumption
    try clear_value z3
    dsimp -zeta only
    refine K.evHub ?_
    assumption
  · split
    · dsimp -zeta only
      assumption
    · extract_lets +onlyGivenNames z4
      have h4 : Keeps a z4 := by
        subst z4
        refine K.wr ?_
        refine K.wr ?_
        refine K.wr ?_
        refine K.wr ?_
        assumption
      try clear_value z4
      extract_lets +onlyGivenNames z5
      have h5 : Keeps a z5 := by
        subst z5
        refine K.ite ?_ ?_
        · refine K.evHub ?_
          assumption
        · assumption
      try clear_value z5
      dsimp -zeta only
      refine K.evHub ?_
      assumption

theorem K.showGroups {a : State} {s} {gs} (hs : Keeps a s) : Keeps a (State.showGroups s gs) := by
  unfold State.showGroups
  extract_lets +onlyGivenNames z0
  try clear_value z0
  extract_lets +onlyGivenNames z1
  have h1 : Keeps a z1 := by
    subst z1
    refine K.modMember ?_
    assumption
  try clear_value z1
  extract_lets +onlyGivenNames z2
  have h2 : Keeps a z2 := by
    subst z2
    refine K.wrO ?_
    assumption
  try clear_value z2
  extract_lets +onlyGivenNames z3
  have h3 : Keeps a z3 := by
    subst z3
    refine K.wrO ?_
    assumption
  try clear_value z3
  refine K.wr ?_
  assumption

theorem K.showRoles {a : State} {s} {gs} (hs : Keeps a s) : Keeps a (State.showRoles s gs) := by
  unfold State.showRoles
  extract_lets +onlyGivenNames z0
  try clear_value z0
  extract_lets +onlyGivenNames z1
  try clear_value z1
  refine K.wrO ?_
  assumption

theorem K.showTolerance {a : State} {s} {gs} (hs : Keeps a s) : Keeps a (State.showTolerance s gs) := by
  unfold State.showTolerance
  extract_lets +onlyGivenNames z0
  try clear_value z0
  extract_lets +onlyGivenNames z1
  have h1 : Keeps a z1 := by
    subst z1
    refine K.wr ?_
    assumption
  try clear_value z1
  refine K.wr ?_
  assumption

theorem K.usePlacement {a : State} {s} {order} {p} (hs : Keeps a s) : Keeps a (State.usePlacement s order p) := by
  unfold State.usePlacement
  refine K.showTolerance ?_
  refine K.showRoles ?_
  refine K.showGroups ?_
  refine K.modMember ?_
  assumption

theorem K.computePlacement {a : State} {s} {ms} (hs : Keeps a s) : Keeps a (State.computePlacement s ms).2 := by
  unfold State.computePlacement
  split
  · rename_i v0_0 v0_1 e0
    have h0 : Keeps a v0_1 := by
      refine K.eq2 e0 ?_
      refine K.notePlacement ?_
      assumption
    dsimp -zeta only
    refine K.usePlacement ?_
    assumption
  · rename_i v1_0 e1
    have h1 : Keeps a v1_0 := by
      refine K.eq2 e1 ?_
      refine K.notePlacement ?_
      assumption
    dsimp -zeta only
    assumption

theorem K.setBands {a : State} {s} {ms} (hs : Keeps a s) : Keeps a (State.setBands s ms) := by
  unfold State.setBands
  extract_lets +onlyGivenNames z0
  try clear_value z0
  extract_lets +onlyGivenNames z1
  try clear_value z1
  extract_lets +onlyGivenNames z2
  try clear_value z2
  extract_lets +onlyGivenNames z3
  have h3 : Keeps a z3 := by
    subst z3
    refine K.wr ?_
    assumption
  try clear_value z3
  extract_lets +onlyGivenNames z4
  have h4 : Keeps a z4 := by
    subst z4
    refine K.wr ?_
    assumption
  try clear_value z4
  refine K.wr ?_
  assumption

theorem K.resteer {a : State} {s} {ks} {rs} (hs : Keeps a s) : Keeps a (State.resteer s ks rs) := by
  unfold State.resteer
  refine K.of (s := s) ?_ rfl rfl rfl rfl rfl rfl rfl rfl rfl rfl rfl rfl rfl
  assumption

theorem K.steerAreas {a : State} {s} (hs : Keeps a s) : Keeps a (State.steerAreas s) := by
  unfold State.steerAreas
  extract_lets +onlyGivenNames z0
  try clear_value z0
  refine K.resteer ?_
  assumption

theorem K.rederiveLine {a : State} {s} {d} {x} {st} (hs : Keeps a s) : Keeps a (State.rederiveLine s d x st) := by
  unfold State.rederiveLine
  extract_lets +onlyGivenNames z0
  try clear_value z0
  extract_lets +onlyGivenNames z1
  try clear_value z1
  extract_lets +onlyGivenNames z2
  try clear_value z2
  split
  · refine K.incBy ?_
    refine K.mwr ?_
    assumption

theorem K.rederive {a : State} {s} {l} {st} (hs : Keeps a s) : Keeps a (State.rederive s l st) := by
  unfold State.rederive
  refine K.ite ?_ ?_
  · assumption
  · split
    · assumption
    · split
      · split
        · assumption
        · refine K.ite ?_ ?_
          · assumption
          · refine K.ite ?_ ?_
            · refine K.rederiveLine ?_
              assumption
            · extract_lets +onlyGivenNames z0
              try clear_value z0
              split
              · split
                · refine K.incBy ?_
                  refine K.mwr ?_
                  assumption
                · assumption

theorem K.writeSeeds {a : State} {s} {u} (hs : Keeps a s) : Keeps a (State.writeSeeds s u) := by
  unfold State.writeSeeds
  split
  · assumption
  · extract_lets +onlyGivenNames z0
    try clear_value z0
    refine K.mwr ?_
    assumption

theorem K.undo {a : State} {s} {r} (hs : Keeps a s) : Keeps a (State.undo s r) := by
  unfold State.undo
  split
  · assumption
  · extract_lets +onlyGivenNames z0
    have h0 : Keeps a z0 := by
      subst z0
      refine K.cowSave ?_
      assumption
    try clear_value z0
    refine K.touchPage ?_
    refine K.mwr ?_
    assumption

theorem K.undoRec {a : State} {s} {r} (hs : Keeps a s) : Keeps a (State.undoRec s r) := by
  unfold State.undoRec
  split
  · assumption
  · extract_lets +onlyGivenNames z0
    try clear_value z0
    refine K.ite ?_ ?_
    · refine K.modMember ?_
      refine K.holdAt ?_
      assumption
    · refine K.goAt ?_
      refine K.undo ?_
      assumption

theorem K.undoOwed {a : State} {s} (hs : Keeps a s) : Keeps a (State.undoOwed s) := by
  unfold State.undoOwed
  refine K.foldl ?_ ?_
  · refine K.modMember ?_
    assumption
  · intro y0 y1 k0
    refine K.undoRec ?_
    assumption

theorem K.rollback {a : State} {s} {c} (hs : Keeps a s) : Keeps a (State.rollback s c) := by
  unfold State.rollback
  extract_lets +onlyGivenNames z0
  try clear_value z0
  extract_lets +onlyGivenNames z1
  have h1 : Keeps a z1 := by
    subst z1
    refine K.foldl ?_ ?_
    · assumption
    · intro y2 y3 k2
      refine K.undoRec ?_
      assumption
  try clear_value z1
  refine K.modMember ?_
  assumption

theorem K.endRollback {a : State} {s} {c} (hs : Keeps a s) : Keeps a (State.endRollback s c) := by
  unfold State.endRollback
  extract_lets +onlyGivenNames z0
  try clear_value z0
  extract_lets +onlyGivenNames z1
  try clear_value z1
  extract_lets +onlyGivenNames z2
  have h2 : Keeps a z2 := by
    subst z2
    refine K.foldl ?_ ?_
    · assumption
    · intro y3 y4 k3
      refine K.rederive ?_
      assumption
  try clear_value z2
  extract_lets +onlyGivenNames z5
  try clear_value z5
  extract_lets +onlyGivenNames z6
  try clear_value z6
  extract_lets +onlyGivenNames z7
  have h7 : Keeps a z7 := by
    subst z7
    refine K.modMember ?_
    assumption
  try clear_value z7
  extract_lets +onlyGivenNames z8
  have h8 : Keeps a z8 := by
    subst z8
    refine K.wrO ?_
    assumption
  try clear_value z8
  extract_lets +onlyGivenNames z9
  have h9 : Keeps a z9 := by
    subst z9
    refine K.incBy ?_
    assumption
  try clear_value z9
  extract_lets +onlyGivenNames z10
  have h10 : Keeps a z10 := by
    subst z10
    refine K.journal ?_
    assumption
  try clear_value z10
  refine K.evHub ?_
  assumption

theorem K.freeBanks {a : State} {s} (hs : Keeps a s) : Keeps a (State.freeBanks s) := by
  unfold State.freeBanks
  refine K.modArrays ?_
  assumption

theorem K.stopPass {a : State} {s} (hs : Keeps a s) : Keeps a (State.stopPass s) := by
  unfold State.stopPass
  refine K.freeBanks ?_
  refine K.modPass ?_
  refine K.modCouch ?_
  assumption

theorem K.discardCoding {a : State} {s} (hs : Keeps a s) : Keeps a (State.discardCoding s) := by
  unfold State.discardCoding
  extract_lets +onlyGivenNames z0
  have h0 : Keeps a z0 := by
    subst z0
    refine K.modCouch ?_
    refine K.endOverrun ?_
    assumption
  try clear_value z0
  extract_lets +onlyGivenNames z1
  have h1 : Keeps a z1 := by
    subst z1
    refine K.modAudit ?_
    assumption
  try clear_value z1
  extract_lets +onlyGivenNames z2
  have h2 : Keeps a z2 := by
    subst z2
    refine K.modMember ?_
    assumption
  try clear_value z2
  extract_lets +onlyGivenNames z3
  have h3 : Keeps a z3 := by
    subst z3
    refine K.wr ?_
    assumption
  try clear_value z3
  extract_lets +onlyGivenNames z4
  have h4 : Keeps a z4 := by
    subst z4
    refine K.wr ?_
    assumption
  try clear_value z4
  extract_lets +onlyGivenNames z5
  have h5 : Keeps a z5 := by
    subst z5
    refine K.wrO ?_
    assumption
  try clear_value z5
  refine K.resteer ?_
  assumption

theorem K.leaveJob {a : State} {s} (hs : Keeps a s) : Keeps a (State.leaveJob s) := by
  unfold State.leaveJob
  extract_lets +onlyGivenNames z0
  try clear_value z0
  extract_lets +onlyGivenNames z1
  try clear_value z1
  extract_lets +onlyGivenNames z2
  have h2 : Keeps a z2 := by
    subst z2
    refine K.discardCoding ?_
    assumption
  try clear_value z2
  extract_lets +onlyGivenNames z3
  have h3 : Keeps a z3 := by
    subst z3
    refine K.modMember ?_
    assumption
  try clear_value z3
  extract_lets +onlyGivenNames z4
  have h4 : Keeps a z4 := by
    subst z4
    refine K.modTiers ?_
    assumption
  try clear_value z4
  extract_lets +onlyGivenNames z5
  have h5 : Keeps a z5 := by
    subst z5
    refine K.wrO ?_
    assumption
  try clear_value z5
  extract_lets +onlyGivenNames z6
  have h6 : Keeps a z6 := by
    subst z6
    refine K.wr ?_
    assumption
  try clear_value z6
  extract_lets +onlyGivenNames z7
  have h7 : Keeps a z7 := by
    subst z7
    refine K.wr ?_
    refine K.wr ?_
    assumption
  try clear_value z7
  refine K.ite ?_ ?_
  · assumption
  · refine K.wr ?_
    assumption

theorem K.enterPaddock {a : State} {s} {cause} {seen} (hs : Keeps a s) : Keeps a (State.enterPaddock s cause seen) := by
  unfold State.enterPaddock
  refine K.ite ?_ ?_
  · assumption
  · extract_lets +onlyGivenNames z0
    have h0 : Keeps a z0 := by
      subst z0
      refine K.failHeld ?_
      assumption
    try clear_value z0
    extract_lets +onlyGivenNames z1
    have h1 : Keeps a z1 := by
      subst z1
      refine K.stopPass ?_
      assumption
    try clear_value z1
    extract_lets +onlyGivenNames z2
    have h2 : Keeps a z2 := by
      subst z2
      refine K.discardCoding ?_
      assumption
    try clear_value z2
    extract_lets +onlyGivenNames z3
    have h3 : Keeps a z3 := by
      subst z3
      refine K.modTiers ?_
      assumption
    try clear_value z3
    extract_lets +onlyGivenNames z4
    have h4 : Keeps a z4 := by
      subst z4
      refine K.wr ?_
      assumption
    try clear_value z4
    extract_lets +onlyGivenNames z5
    have h5 : Keeps a z5 := by
      subst z5
      refine K.inc ?_
      assumption
    try clear_value z5
    extract_lets +onlyGivenNames z6
    have h6 : Keeps a z6 := by
      subst z6
      refine K.allOff ?_
      assumption
    try clear_value z6
    extract_lets +onlyGivenNames z7
    have h7 : Keeps a z7 := by
      subst z7
      refine K.setDev ?_
      assumption
    try clear_value z7
    refine K.evHub ?_
    assumption

theorem K.showPieces {a : State} {s} {ps} (hs : Keeps a s) : Keeps a (State.showPieces s ps) := by
  unfold State.showPieces
  extract_lets +onlyGivenNames z0
  have h0 : Keeps a z0 := by
    subst z0
    refine K.modMember ?_
    assumption
  try clear_value z0
  extract_lets +onlyGivenNames z1
  have h1 : Keeps a z1 := by
    subst z1
    refine K.wr ?_
    assumption
  try clear_value z1
  refine K.wrO ?_
  assumption

theorem K.takePieces {a : State} {s} {sis} (hs : Keeps a s) : Keeps a (State.takePieces s sis) := by
  unfold State.takePieces
  extract_lets +onlyGivenNames z0
  try clear_value z0
  extract_lets +onlyGivenNames z1
  try clear_value z1
  refine K.showPieces ?_
  assumption

theorem K.startStreams {a : State} {s} (hs : Keeps a s) : Keeps a (State.startStreams s) := by
  unfold State.startStreams
  extract_lets +onlyGivenNames z0
  try clear_value z0
  extract_lets +onlyGivenNames z1
  try clear_value z1
  extract_lets +onlyGivenNames z2
  try clear_value z2
  refine K.modCouch ?_
  assumption

theorem K.couchCut {a : State} {s} {c} (hs : Keeps a s) : Keeps a (State.couchCut s c) := by
  unfold State.couchCut
  extract_lets +onlyGivenNames z0
  have h0 : Keeps a z0 := by
    subst z0
    refine K.foldl ?_ ?_
    · refine K.endOverrun ?_
      assumption
    · intro y1 y2 k1
      refine K.logEntry ?_
      assumption
  try clear_value z0
  extract_lets +onlyGivenNames z3
  have h3 : Keeps a z3 := by
    subst z3
    refine K.ite ?_ ?_
    · refine K.foldBank ?_
      assumption
    · assumption
  try clear_value z3
  extract_lets +onlyGivenNames z4
  have h4 : Keeps a z4 := by
    subst z4
    refine K.modCouch ?_
    assumption
  try clear_value z4
  extract_lets +onlyGivenNames z5
  have h5 : Keeps a z5 := by
    subst z5
    refine K.wr ?_
    assumption
  try clear_value z5
  extract_lets +onlyGivenNames z6
  have h6 : Keeps a z6 := by
    subst z6
    refine K.wr ?_
    assumption
  try clear_value z6
  extract_lets +onlyGivenNames z7
  have h7 : Keeps a z7 := by
    subst z7
    refine K.evHub ?_
    assumption
  try clear_value z7
  refine K.wr ?_
  assumption

theorem K.sendReady {a : State} {s} {phase} {verdict} {lines} {groups} (hs : Keeps a s) : Keeps a (State.sendReady s phase verdict lines groups) := by
  unfold State.sendReady
  extract_lets +onlyGivenNames z0
  try clear_value z0
  refine K.ite ?_ ?_
  · refine K.modMember ?_
    assumption
  · refine K.sendMember ?_
    assumption

theorem K.zeroFelts {a : State} {s} (hs : Keeps a s) : Keeps a (State.zeroFelts s) := by
  unfold State.zeroFelts
  refine K.foldl ?_ ?_
  · assumption
  · intro y0 y1 k0
    split
    · refine K.mzero ?_
      assumption
    · assumption

theorem K.beginFill {a : State} {s} (hs : Keeps a s) : Keeps a (State.beginFill s) := by
  unfold State.beginFill
  extract_lets +onlyGivenNames z0
  have h0 : Keeps a z0 := by
    subst z0
    refine K.zeroFelts ?_
    assumption
  try clear_value z0
  extract_lets +onlyGivenNames z1
  try clear_value z1
  extract_lets +onlyGivenNames z2
  have h2 : Keeps a z2 := by
    subst z2
    refine K.modCouch ?_
    assumption
  try clear_value z2
  extract_lets +onlyGivenNames z3
  have h3 : Keeps a z3 := by
    subst z3
    refine K.wr ?_
    assumption
  try clear_value z3
  refine K.startStreams ?_
  assumption

theorem K.takeProposal {a : State} {s} {p} (hs : Keeps a s) : Keeps a (State.takeProposal s p) := by
  unfold State.takeProposal
  extract_lets +onlyGivenNames z0
  have h0 : Keeps a z0 := by
    subst z0
    refine K.modMember ?_
    assumption
  try clear_value z0
  extract_lets +onlyGivenNames z1
  have h1 : Keeps a z1 := by
    subst z1
    refine K.ite ?_ ?_
    · refine K.wr ?_
      assumption
    · refine K.ite ?_ ?_
      · refine K.wr ?_
        assumption
      · assumption
  try clear_value z1
  extract_lets +onlyGivenNames z2
  have h2 : Keeps a z2 := by
    subst z2
    refine K.ite ?_ ?_
    · refine K.modMember ?_
      assumption
    · refine K.sendMember ?_
      assumption
  try clear_value z2
  refine K.ite ?_ ?_
  · refine K.sendReady ?_
    assumption
  · assumption

theorem K.proposeAt {a : State} {s} {num} {kind} {ms} {lost} {quiet} (hs : Keeps a s) : Keeps a (State.proposeAt s num kind ms lost quiet) := by
  unfold State.proposeAt
  extract_lets +onlyGivenNames z0
  try clear_value z0
  extract_lets +onlyGivenNames z1
  have h1 : Keeps a z1 := by
    subst z1
    refine K.modMember ?_
    assumption
  try clear_value z1
  extract_lets +onlyGivenNames z2
  have h2 : Keeps a z2 := by
    subst z2
    refine K.foldl ?_ ?_
    · assumption
    · intro y3 y4 k3
      refine K.sendMember ?_
      assumption
  try clear_value z2
  refine K.ite ?_ ?_
  · refine K.takeProposal ?_
    assumption
  · assumption

theorem K.proposeLoss {a : State} {s} (hs : Keeps a s) : Keeps a (State.proposeLoss s) := by
  unfold State.proposeLoss
  extract_lets +onlyGivenNames z0
  try clear_value z0
  extract_lets +onlyGivenNames z1
  try clear_value z1
  refine K.proposeAt ?_
  assumption

theorem K.declareLost {a : State} {s} {dev} {cause} (hs : Keeps a s) : Keeps a (State.declareLost s dev cause) := by
  unfold State.declareLost
  refine K.ite ?_ ?_
  · assumption
  · extract_lets +onlyGivenNames z0
    have h0 : Keeps a z0 := by
      subst z0
      refine K.modMember ?_
      assumption
    try clear_value z0
    extract_lets +onlyGivenNames z1
    have h1 : Keeps a z1 := by
      subst z1
      refine K.inc ?_
      assumption
    try clear_value z1
    extract_lets +onlyGivenNames z2
    have h2 : Keeps a z2 := by
      subst z2
      refine K.evHub ?_
      assumption
    try clear_value z2
    refine K.proposeLoss ?_
    assumption

theorem K.twinVerdict {a : State} {s} {dev} {status} (hs : Keeps a s) : Keeps a (State.twinVerdict s dev status) := by
  unfold State.twinVerdict
  split
  · assumption
  · refine K.ite ?_ ?_
    · refine K.declareLost ?_
      assumption
    · refine K.ite ?_ ?_
      · refine K.modMember ?_
        assumption
      · assumption

theorem K.leadSuspect {a : State} {s} {dev} {cause} (hs : Keeps a s) : Keeps a (State.leadSuspect s dev cause) := by
  unfold State.leadSuspect
  refine K.ite ?_ ?_
  · assumption
  · extract_lets +onlyGivenNames z0
    try clear_value z0
    extract_lets +onlyGivenNames z1
    try clear_value z1
    extract_lets +onlyGivenNames z2
    have h2 : Keeps a z2 := by
      subst z2
      split
      · refine K.ite ?_ ?_
        · assumption
        · refine K.sendMember ?_
          assumption
      · assumption
    try clear_value z2
    refine K.ite ?_ ?_
    · refine K.declareLost ?_
      assumption
    · extract_lets +onlyGivenNames z3
      have h3 : Keeps a z3 := by
        subst z3
        refine K.ite ?_ ?_
        · assumption
        · refine K.modMember ?_
          assumption
      try clear_value z3
      refine K.ite ?_ ?_
      · refine K.twinVerdict ?_
        assumption
      · assumption

theorem K.report {a : State} {s} {dev} {cause} (hs : Keeps a s) : Keeps a (State.report s dev cause) := by
  unfold State.report
  refine K.ite ?_ ?_
  · assumption
  · extract_lets +onlyGivenNames z0
    have h0 : Keeps a z0 := by
      subst z0
      refine K.modMember ?_
      assumption
    try clear_value z0
    extract_lets +onlyGivenNames z1
    have h1 : Keeps a z1 := by
      subst z1
      refine K.wr ?_
      assumption
    try clear_value z1
    refine K.ite ?_ ?_
    · refine K.leadSuspect ?_
      refine K.evHub ?_
      assumption
    · refine K.sendSuspect ?_
      assumption

end Sys2Proof.Machine
end

