-- ==== Sys2Proof/Laws/Keeps/StallOps.lean ====
section
/-!
SUPPORT. What the operations of Machine/StallOps.lean keep: the canonical forms, the queue, the build, the test port, the sticky
registers and storage; every frame already handed over stays, and the log's sequence and the draws only rise.
-/

namespace Sys2Proof.Machine

theorem K.quarantine {a : State} {s} {sl} {num} (hs : Keeps a s) : Keeps a (State.quarantine s sl num) := by
  unfold State.quarantine
  extract_lets +onlyGivenNames z0
  have h0 : Keeps a z0 := by
    subst z0
    refine K.modProt ?_
    assumption
  try clear_value z0
  refine K.evSlice ?_
  refine K.inc ?_
  assumption

theorem K.alloc {a : State} {s} {sl} {owner} (hs : Keeps a s) : Keeps a (State.alloc s sl owner) := by
  unfold State.alloc
  extract_lets +onlyGivenNames z0
  try clear_value z0
  refine K.ite ?_ ?_
  · refine K.wrOf ?_
    assumption
  · split
    · assumption
    · extract_lets +onlyGivenNames z1
      try clear_value z1
      extract_lets +onlyGivenNames z2
      have h2 : Keeps a z2 := by
        subst z2
        refine K.foldl ?_ ?_
        · assumption
        · intro y3 y4 k3
          refine K.quarantine ?_
          assumption
      try clear_value z2
      refine K.ite ?_ ?_
      · assumption
      · extract_lets +onlyGivenNames z5
        have h5 : Keeps a z5 := by
          subst z5
          refine K.modProt ?_
          assumption
        try clear_value z5
        extract_lets +onlyGivenNames z6
        try clear_value z6
        refine K.wrOf ?_
        assumption

theorem K.freeStall_badFree {a : State} {s} {sl} {num} {owner} {r} (hs : Keeps a s) : Keeps a (State.freeStall.badFree s sl num owner r) := by
  unfold State.freeStall.badFree
  extract_lets +onlyGivenNames z0
  have h0 : Keeps a z0 := by
    subst z0
    exact K.inc hs
  clear_value z0
  extract_lets +onlyGivenNames z1
  clear_value z1
  refine K.ite h0 ?_
  exact K.evSlice (K.modProt h0)

theorem K.freeStall {a : State} {s} {sl} {num} {owner} (hs : Keeps a s) : Keeps a (State.freeStall s sl num owner) := by
  unfold State.freeStall
  split
  · exact K.ite (K.modProt hs) (K.freeStall_badFree hs)
  · exact K.freeStall_badFree hs

theorem K.allocN {a : State} {s} {sl} {owner} {n} (hs : Keeps a s) : Keeps a (State.allocN s sl owner n) := by
  induction n generalizing s with
  | zero => exact hs
  | succ n ih => exact ih (K.alloc hs)

theorem K.freeN {a : State} {s} {sl} {owner} {n} (hs : Keeps a s) : Keeps a (State.freeN s sl owner n) := by
  induction n generalizing s with
  | zero => exact hs
  | succ n ih =>
    unfold State.freeN
    split
    · exact ih (K.freeStall hs)
    · exact hs

theorem K.refreshStalls {a : State} {s} (hs : Keeps a s) : Keeps a (State.refreshStalls s) := by
  unfold State.refreshStalls
  extract_lets +onlyGivenNames z0
  try clear_value z0
  extract_lets +onlyGivenNames z1
  try clear_value z1
  extract_lets +onlyGivenNames z2
  try clear_value z2
  extract_lets +onlyGivenNames z3
  try clear_value z3
  extract_lets +onlyGivenNames z4
  try clear_value z4
  extract_lets +onlyGivenNames z5
  have h5 : Keeps a z5 := by
    subst z5
    refine K.wr ?_
    assumption
  try clear_value z5
  extract_lets +onlyGivenNames z6
  have h6 : Keeps a z6 := by
    subst z6
    refine K.wr ?_
    assumption
  try clear_value z6
  extract_lets +onlyGivenNames z7
  have h7 : Keeps a z7 := by
    subst z7
    refine K.wr ?_
    assumption
  try clear_value z7
  refine K.wr ?_
  assumption

theorem K.settleOne {a : State} {s} {n} {owner} (hs : Keeps a s) : Keeps a (State.settleOne s n owner) := by
  unfold State.settleOne
  refine K.ite ?_ ?_
  · assumption
  · extract_lets +onlyGivenNames z0
    try clear_value z0
    extract_lets +onlyGivenNames z1
    try clear_value z1
    refine K.ite ?_ ?_
    · refine K.allocN ?_
      assumption
    · refine K.freeN ?_
      assumption

theorem K.grant {a : State} {s} {owner} {need} (hs : Keeps a s) : Keeps a (State.grant s owner need).2 := by
  unfold State.grant
  extract_lets +onlyGivenNames z0
  try clear_value z0
  refine K.ite2 ?_ ?_
  · dsimp -zeta only
    refine K.refreshStalls ?_
    refine K.wrOf ?_
    assumption
  · dsimp -zeta only
    refine K.ev ?_
    assumption

theorem K.ungrant {a : State} {s} {owner} (hs : Keeps a s) : Keeps a (State.ungrant s owner) := by
  unfold State.ungrant
  extract_lets +onlyGivenNames z0
  have h0 : Keeps a z0 := by
    subst z0
    refine K.modProt ?_
    assumption
  try clear_value z0
  refine K.refreshStalls ?_
  refine K.wrOf ?_
  assumption

theorem K.giveUp {a : State} {s} {q} (hs : Keeps a s) : Keeps a (State.giveUp s q) := by
  unfold State.giveUp
  refine K.ite ?_ ?_
  · refine K.answer ?_
    assumption
  · refine K.answer ?_
    assumption

theorem K.forget {a : State} {s} {a'} (hs : Keeps a s) : Keeps a (State.forget s a') := by
  unfold State.forget
  split
  · refine K.of (s := s) ?_ rfl rfl rfl rfl rfl rfl rfl rfl rfl rfl rfl rfl rfl
    assumption
  · refine K.of (s := s) ?_ rfl rfl rfl rfl rfl rfl rfl rfl rfl rfl rfl rfl rfl
    assumption
  · extract_lets +onlyGivenNames z0
    have h0 : Keeps a z0 := by
      subst z0
      refine K.foldl ?_ ?_
      · assumption
      · intro y1 y2 k1
        refine K.giveUp ?_
        assumption
    try clear_value z0
    refine K.of (s := z0) ?_ rfl rfl rfl rfl rfl rfl rfl rfl rfl rfl rfl rfl rfl
    assumption
  · assumption

theorem K.tidyFn {a : State} {s} {f} (hs : Keeps a s) : Keeps a (State.tidyFn s f) := by
  unfold State.tidyFn
  refine K.ite ?_ ?_
  · assumption
  · extract_lets +onlyGivenNames z0
    have h0 : Keeps a z0 := by
      subst z0
      refine K.forget ?_
      refine K.of (s := s) ?_ rfl rfl rfl rfl rfl rfl rfl rfl rfl rfl rfl rfl rfl
      assumption
    try clear_value z0
    refine K.foldl ?_ ?_
    · assumption
    · intro y1 y2 k1
      refine K.ite ?_ ?_
      · assumption
      · refine K.ungrant ?_
        assumption

theorem K.showCounts {a : State} {s} (hs : Keeps a s) : Keeps a (State.showCounts s) := by
  unfold State.showCounts
  refine K.wr ?_
  refine K.wr ?_
  assumption

theorem K.settle {a : State} {s} (hs : Keeps a s) : Keeps a (State.settle s) := by
  unfold State.settle
  extract_lets +onlyGivenNames z0
  have h0 : Keeps a z0 := by
    subst z0
    refine K.showCounts ?_
    refine K.foldl ?_ ?_
    · assumption
    · intro y1 y2 k1
      refine K.tidyFn ?_
      assumption
  try clear_value z0
  refine K.ite ?_ ?_
  · assumption
  · extract_lets +onlyGivenNames z3
    have h3 : Keeps a z3 := by
      subst z3
      refine K.foldl ?_ ?_
      · assumption
      · intro y4 y5 k4
        refine K.foldl ?_ ?_
        · assumption
        · intro y6 y7 k6
          refine K.settleOne ?_
          assumption
    try clear_value z3
    refine K.refreshStalls ?_
    assumption

theorem K.showRetired {a : State} {s} (hs : Keeps a s) : Keeps a (State.showRetired s) := by
  unfold State.showRetired
  extract_lets +onlyGivenNames z0
  try clear_value z0
  extract_lets +onlyGivenNames z1
  have h1 : Keeps a z1 := by
    subst z1
    refine K.wrO ?_
    assumption
  try clear_value z1
  refine K.wr ?_
  assumption

theorem K.retirePlace {a : State} {s} {addr} {kind} {cause} {cls} {outcome} {waiters} {byVedel} (hs : Keeps a s) : Keeps a (State.retirePlace s addr kind cause cls outcome waiters byVedel) := by
  unfold State.retirePlace
  extract_lets +onlyGivenNames z0
  try clear_value z0
  refine K.ite ?_ ?_
  · refine K.showRetired ?_
    refine K.modProt ?_
    assumption
  · refine K.ite ?_ ?_
    · refine K.ev ?_
      refine K.inc ?_
      assumption
    · refine K.showRetired ?_
      refine K.modProt ?_
      assumption

end Sys2Proof.Machine
end

