-- ==== Sys2Proof/Laws/Keeps/Shapes.lean ====
section
/-!
SUPPORT. What the operations of Machine/Shapes.lean keep: the canonical forms, the queue, the build, the test port, the sticky
registers and storage; every frame already handed over stays, and the log's sequence and the draws only rise.
-/

namespace Sys2Proof.Machine

theorem K.whenServing {a : State} {s} {k} (hs : Keeps a s) (Hk : ∀ {y0}, Keeps a y0 → Keeps a (k y0)) : KR a (Sys2Proof.Machine.whenServing s k) := by
  unfold Sys2Proof.Machine.whenServing
  refine KR.next ?_
  refine K.ite ?_ ?_
  · refine K.settle ?_
    refine Hk ?_
    assumption
  · assumption

theorem K.whenUp {a : State} {s} {k} (hs : Keeps a s) (Hk : ∀ {y0}, Keeps a y0 → Keeps a (k y0)) : KR a (Sys2Proof.Machine.whenUp s k) := by
  unfold Sys2Proof.Machine.whenUp
  refine KR.next ?_
  refine K.ite ?_ ?_
  · refine K.settle ?_
    refine Hk ?_
    assumption
  · assumption

theorem K.onSlice {a : State} {n} {s} {k} (hs : Keeps a s) (Hk : ∀ {y0}, Keeps a y0 → Keeps a (k y0)) : KR a (Sys2Proof.Machine.onSlice n s k) := by
  unfold Sys2Proof.Machine.onSlice
  refine KR.ite ?_ ?_
  · refine KR.next ?_
    refine Hk ?_
    assumption
  · exact KR.ofFault

theorem K.onActive {a : State} {n} {s} {k} (hs : Keeps a s) (Hk : ∀ {y0}, Keeps a y0 → Keeps a (k y0)) : KR a (Sys2Proof.Machine.onActive n s k) := by
  unfold Sys2Proof.Machine.onActive
  refine K.onSlice ?_ ?_
  · assumption
  · intro y0 k0
    refine K.ite ?_ ?_
    · refine Hk ?_
      assumption
    · assumption

theorem K.sliceServing {a : State} {n} {s} {k} (hs : Keeps a s) (Hk : ∀ {y0}, Keeps a y0 → Keeps a (k y0)) : KR a (Sys2Proof.Machine.sliceServing n s k) := by
  unfold Sys2Proof.Machine.sliceServing
  refine K.onActive ?_ ?_
  · assumption
  · intro y0 k0
    refine K.ite ?_ ?_
    · refine K.settle ?_
      refine Hk ?_
      assumption
    · assumption

theorem K.frameRow {a : State} {kinds} {r} {s} {k} (hs : Keeps a s) (Hk : ∀ {y0}, Keeps a y0 → Keeps a (k y0)) : KR a (Sys2Proof.Machine.frameRow kinds r s k) := by
  unfold Sys2Proof.Machine.frameRow
  refine K.whenServing ?_ ?_
  · assumption
  · intro y0 k0
    refine K.ite ?_ ?_
    · refine Hk ?_
      refine K.ce ?_
      assumption
    · assumption

end Sys2Proof.Machine
end

