-- ==== Sys2Proof/Laws/Keeps/AuditOps.lean ====
section
/-!
SUPPORT. What the operations of Machine/AuditOps.lean keep: the canonical forms, the queue, the build, the test port, the sticky
registers and storage; every frame already handed over stays, and the log's sequence and the draws only rise.
-/

namespace Sys2Proof.Machine

theorem K.refreshSettings {a : State} {s} (hs : Keeps a s) : Keeps a (State.refreshSettings s) := by
  unfold State.refreshSettings
  extract_lets +onlyGivenNames z0
  try clear_value z0
  extract_lets +onlyGivenNames z1
  try clear_value z1
  refine K.ite ?_ ?_
  · assumption
  · extract_lets +onlyGivenNames z2
    have h2 : Keeps a z2 := by
      subst z2
      refine K.wrO ?_
      assumption
    try clear_value z2
    refine K.ite ?_ ?_
    · refine K.ev ?_
      assumption
    · assumption

theorem K.stepWatermark {a : State} {s} {st} {b} (hs : Keeps a s) : Keeps a (State.stepWatermark s st b) := by
  unfold State.stepWatermark
  extract_lets +onlyGivenNames z0
  try clear_value z0
  extract_lets +onlyGivenNames z1
  try clear_value z1
  extract_lets +onlyGivenNames z2
  try clear_value z2
  extract_lets +onlyGivenNames z3
  try clear_value z3
  extract_lets +onlyGivenNames z4
  have h4 : Keeps a z4 := by
    subst z4
    refine K.ite ?_ ?_
    · refine K.evHub ?_
      refine K.inc ?_
      assumption
    · assumption
  try clear_value z4
  extract_lets +onlyGivenNames z5
  have h5 : Keeps a z5 := by
    subst z5
    refine K.journal ?_
    assumption
  try clear_value z5
  extract_lets +onlyGivenNames z6
  have h6 : Keeps a z6 := by
    subst z6
    refine K.modAudit ?_
    assumption
  try clear_value z6
  extract_lets +onlyGivenNames z7
  have h7 : Keeps a z7 := by
    subst z7
    refine K.wr ?_
    assumption
  try clear_value z7
  extract_lets +onlyGivenNames z8
  have h8 : Keeps a z8 := by
    subst z8
    refine K.wr ?_
    assumption
  try clear_value z8
  extract_lets +onlyGivenNames z9
  have h9 : Keeps a z9 := by
    subst z9
    refine K.wr ?_
    assumption
  try clear_value z9
  refine K.wr ?_
  assumption

end Sys2Proof.Machine
end

