-- ==== Sys2Proof/Laws/Keeps/SramOps.lean ====
section
/-!
SUPPORT. What the operations of Machine/SramOps.lean keep: the canonical forms, the queue, the build, the test port, the sticky
registers and storage; every frame already handed over stays, and the log's sequence and the draws only rise.
-/

namespace Sys2Proof.Machine

theorem K.hardRow {a : State} {s} {mem} {slice} {row} {cls} (hs : Keeps a s) : Keeps a (State.hardRow s mem slice row cls) := by
  unfold State.hardRow
  extract_lets +onlyGivenNames z0
  try clear_value z0
  extract_lets +onlyGivenNames z1
  try clear_value z1
  refine K.ite ?_ ?_
  · extract_lets +onlyGivenNames z2
    have h2 : Keeps a z2 := by
      subst z2
      refine K.modProt ?_
      assumption
    try clear_value z2
    refine K.retirePlace ?_
    refine K.wr ?_
    refine K.inc ?_
    assumption
  · refine K.ite ?_ ?_
    · extract_lets +onlyGivenNames z3
      try clear_value z3
      extract_lets +onlyGivenNames z4
      have h4 : Keeps a z4 := by
        subst z4
        refine K.modProt ?_
        assumption
      try clear_value z4
      refine K.retirePlace ?_
      refine K.refreshStalls ?_
      assumption
    · refine K.retirePlace ?_
      refine K.evSlice ?_
      assumption

theorem K.sramRead {a : State} {s} {mem} {slice} {row} {n} {hard} {cls} (hs : Keeps a s) : Keeps a (State.sramRead s mem slice row n hard cls) := by
  unfold State.sramRead
  extract_lets +onlyGivenNames z0
  try clear_value z0
  extract_lets +onlyGivenNames z1
  have h1 : Keeps a z1 := by
    subst z1
    split
    · assumption
    · refine K.inc ?_
      assumption
    · refine K.evSecond ?_
      refine K.inc ?_
      assumption
    · refine K.evSlice ?_
      refine K.inc ?_
      assumption
  try clear_value z1
  refine K.ite ?_ ?_
  · assumption
  · refine K.ite ?_ ?_
    · refine K.hardRow ?_
      assumption
    · assumption

theorem K.takeInjection {a : State} {s} {mem} {slice} {row} (hs : Keeps a s) : Keeps a (State.takeInjection s mem slice row).2 := by
  unfold State.takeInjection
  split
  · dsimp -zeta only
    refine K.modProt ?_
    assumption
  · dsimp -zeta only
    assumption

theorem K.sramLost {a : State} {s} {mem} {slice} {row} {cls} (hs : Keeps a s) : Keeps a (State.sramLost s mem slice row cls) := by
  unfold State.sramLost
  split
  · refine K.unitFailed ?_
    assumption
  · refine K.abandonSnap ?_
    assumption
  · assumption
  · refine K.modProt ?_
    assumption

theorem K.putRow {a : State} {s} {mem} {slice} {row} {word} {poison} (hs : Keeps a s) : Keeps a (State.putRow s mem slice row word poison) := by
  unfold State.putRow
  refine K.modProt ?_
  assumption

theorem K.narrowRow {a : State} {s} {mem} {slice} {row} {off} {bs} (hs : Keeps a s) : Keeps a (State.narrowRow s mem slice row off bs) := by
  unfold State.narrowRow
  split
  · rename_i v0_0 v0_1 e0
    have h0 : Keeps a v0_1 := by
      refine K.eq2 e0 ?_
      refine K.takeInjection ?_
      assumption
    extract_lets +onlyGivenNames z1
    have h1 : Keeps a z1 := by
      subst z1
      refine K.sramRead ?_
      assumption
    try clear_value z1
    extract_lets +onlyGivenNames z2
    try clear_value z2
    refine K.putRow ?_
    assumption

theorem K.sramWrite {a : State} {s} {mem} {slice} {a'} {bs} (hs : Keeps a s) : Keeps a (State.sramWrite s mem slice a' bs) := by
  unfold State.sramWrite
  refine K.foldl ?_ ?_
  · assumption
  · intro y0 y1 k0
    extract_lets +onlyGivenNames z2
    try clear_value z2
    extract_lets +onlyGivenNames z3
    try clear_value z3
    extract_lets +onlyGivenNames z4
    try clear_value z4
    refine K.ite ?_ ?_
    · refine K.putRow ?_
      assumption
    · refine K.narrowRow ?_
      assumption

end Sys2Proof.Machine
end

