-- ==== Sys2Proof/Laws/Keeps/ArrayOps.lean ====
section
/-!
SUPPORT. What the operations of Machine/ArrayOps.lean keep: the canonical forms, the queue, the build, the test port, the sticky
registers and storage; every frame already handed over stays, and the log's sequence and the draws only rise.
-/

namespace Sys2Proof.Machine

theorem K.modArr {a : State} {s} {n} {f} (hs : Keeps a s) : Keeps a (State.modArr s n f) := by
  unfold State.modArr
  extract_lets +onlyGivenNames z0
  try clear_value z0
  refine K.modArrays ?_
  assumption

theorem K.writeBank {a : State} {s} {n} {i} {tid} {aT} {aC} {aR} (hs : Keeps a s) : Keeps a (State.writeBank s n i tid aT aC aR) := by
  unfold State.writeBank
  refine K.sramWrite ?_
  assumption

theorem K.arrayOut {a : State} {s} {n} {a'} {cell} (hs : Keeps a s) : Keeps a (State.arrayOut s n a' cell) := by
  unfold State.arrayOut
  extract_lets +onlyGivenNames z0
  have h0 : Keeps a z0 := by
    subst z0
    refine K.wr ?_
    assumption
  try clear_value z0
  extract_lets +onlyGivenNames z1
  have h1 : Keeps a z1 := by
    subst z1
    refine K.evSlice ?_
    assumption
  try clear_value z1
  refine K.ite ?_ ?_
  · assumption
  · refine K.unitFailed ?_
    refine K.evSlice ?_
    assumption

theorem K.arrayMiss {a : State} {s} {n} {a'} {mode} {cell} (hs : Keeps a s) : Keeps a (State.arrayMiss s n a' mode cell) := by
  unfold State.arrayMiss
  extract_lets +onlyGivenNames z0
  have h0 : Keeps a z0 := by
    subst z0
    refine K.inc ?_
    assumption
  try clear_value z0
  extract_lets +onlyGivenNames z1
  try clear_value z1
  refine K.ite ?_ ?_
  · assumption
  · refine K.evSlice ?_
    refine K.modArrays ?_
    assumption

theorem K.arrayWork {a : State} {s} {n} {a'} {mac} (hs : Keeps a s) : Keeps a (State.arrayWork s n a' mac) := by
  unfold State.arrayWork
  extract_lets +onlyGivenNames z0
  have h0 : Keeps a z0 := by
    subst z0
    refine K.ite ?_ ?_
    · refine K.inc ?_
      assumption
    · assumption
  try clear_value z0
  refine K.modArr ?_
  assumption

theorem K.arrayRest {a : State} {s} {n} {a'} (hs : Keeps a s) : Keeps a (State.arrayRest s n a') := by
  unfold State.arrayRest
  refine K.modArr ?_
  assumption

theorem K.countRange {a : State} {s} {tid} {under} {cut} (hs : Keeps a s) : Keeps a (State.countRange s tid under cut) := by
  unfold State.countRange
  refine K.ite ?_ ?_
  · assumption
  · extract_lets +onlyGivenNames z0
    have h0 : Keeps a z0 := by
      subst z0
      refine K.incBy ?_
      refine K.incBy ?_
      assumption
    try clear_value z0
    refine K.ite ?_ ?_
    · refine K.modArrays ?_
      assumption
    · refine K.modArrays ?_
      assumption

theorem K.runTile {a : State} {s} {n} {a'} {x} {e1} {e2} (hs : Keeps a s) : Keeps a (State.runTile s n a' x e1 e2).2 := by
  unfold State.runTile
  extract_lets +onlyGivenNames z0
  have Hz0 : ∀ {y0 y1 y2}, Keeps a y0 → Keeps a (z0 y0 y1 y2) := by
    subst z0
    intro y1 y2 y3 k1
    try dsimp -zeta only
    refine K.modArr ?_
    assumption
  try clear_value z0
  extract_lets +onlyGivenNames z4
  try clear_value z4
  extract_lets +onlyGivenNames z5
  have h5 : Keeps a z5 := by
    subst z5
    refine K.arrayWork ?_
    assumption
  try clear_value z5
  extract_lets +onlyGivenNames z6
  try clear_value z6
  split
  · dsimp -zeta only
    refine Hz0 ?_
    assumption
  · extract_lets +onlyGivenNames z7
    have h7 : Keeps a z7 := by
      subst z7
      refine K.arrayMiss ?_
      assumption
    try clear_value z7
    extract_lets +onlyGivenNames z8
    try clear_value z8
    split
    · dsimp -zeta only
      refine Hz0 ?_
      assumption
    · extract_lets +onlyGivenNames z9
      have h9 : Keeps a z9 := by
        subst z9
        refine K.arrayOut ?_
        assumption
      try clear_value z9
      refine K.ite2 ?_ ?_
      · dsimp -zeta only
        assumption
      · extract_lets +onlyGivenNames z10
        have h10 : Keeps a z10 := by
          subst z10
          refine K.arrayWork ?_
          assumption
        try clear_value z10
        extract_lets +onlyGivenNames z11
        try clear_value z11
        dsimp -zeta only
        refine Hz0 ?_
        assumption

theorem K.fillRings {a : State} {s} {n} {k} {j} (hs : Keeps a s) : Keeps a (State.fillRings s n k j) := by
  unfold State.fillRings
  extract_lets +onlyGivenNames z0
  have Hz0 : ∀ {y0 y1 y2}, Keeps a y0 → Keeps a (z0 y0 y1 y2) := by
    subst z0
    intro y1 y2 y3 k1
    try dsimp -zeta only
    refine K.sramWrite ?_
    assumption
  try clear_value z0
  extract_lets +onlyGivenNames z4
  have h4 : Keeps a z4 := by
    subst z4
    refine K.ite ?_ ?_
    · refine Hz0 ?_
      assumption
    · assumption
  try clear_value z4
  extract_lets +onlyGivenNames z5
  have h5 : Keeps a z5 := by
    subst z5
    refine K.ite ?_ ?_
    · refine Hz0 ?_
      assumption
    · assumption
  try clear_value z5
  refine Hz0 ?_
  assumption

theorem K.macHold {a : State} {s} {n} {a'} {L} {j} (hs : Keeps a s) : Keeps a (State.macHold s n a' L j) := by
  unfold State.macHold
  refine K.modArr ?_
  assumption

theorem K.macUpdates {a : State} {s} {n} {j} (hs : Keeps a s) : Keeps a (State.macUpdates s n j) := by
  unfold State.macUpdates
  extract_lets +onlyGivenNames z0
  try clear_value z0
  extract_lets +onlyGivenNames z1
  try clear_value z1
  extract_lets +onlyGivenNames z2
  try clear_value z2
  extract_lets +onlyGivenNames z3
  have h3 : Keeps a z3 := by
    subst z3
    refine K.modArr ?_
    assumption
  try clear_value z3
  extract_lets +onlyGivenNames z4
  have h4 : Keeps a z4 := by
    subst z4
    refine K.foldl ?_ ?_
    · assumption
    · intro y5 y6 k5
      refine K.fillRings ?_
      assumption
  try clear_value z4
  refine K.ite ?_ ?_
  · assumption
  · refine K.foldl ?_ ?_
    · assumption
    · intro y7 y8 k7
      extract_lets +onlyGivenNames z9
      have h9 : Keeps a z9 := by
        subst z9
        refine K.arrayWork ?_
        assumption
      try clear_value z9
      refine K.arrayRest ?_
      refine K.incBy ?_
      refine K.macHold ?_
      assumption

theorem K.macReadArray {a : State} {s} {n} {j} {e1} {e2} {a'} (hs : Keeps a s) : Keeps a (State.macReadArray s n j e1 e2 a') := by
  unfold State.macReadArray
  extract_lets +onlyGivenNames z0
  try clear_value z0
  extract_lets +onlyGivenNames z1
  have Hz1 : ∀ {y0 y1}, Keeps a y0 → Keeps a (z1 y0 y1) := by
    subst z1
    intro y2 y3 k2
    try dsimp -zeta only
    refine K.sramWrite ?_
    assumption
  try clear_value z1
  extract_lets +onlyGivenNames z4
  try clear_value z4
  extract_lets +onlyGivenNames z5
  try clear_value z5
  extract_lets +onlyGivenNames z6
  try clear_value z6
  split
  · refine Hz1 ?_
    assumption
  · extract_lets +onlyGivenNames z7
    have h7 : Keeps a z7 := by
      subst z7
      refine K.incBy ?_
      refine K.arrayMiss ?_
      assumption
    try clear_value z7
    split
    · refine Hz1 ?_
      assumption
    · extract_lets +onlyGivenNames z8
      have h8 : Keeps a z8 := by
        subst z8
        refine K.arrayOut ?_
        assumption
      try clear_value z8
      refine K.ite ?_ ?_
      · assumption
      · refine Hz1 ?_
        refine K.incBy ?_
        refine K.macHold ?_
        assumption

theorem K.macReadout {a : State} {s} {n} {j} {e1} {e2} (hs : Keeps a s) : Keeps a (State.macReadout s n j e1 e2) := by
  unfold State.macReadout
  extract_lets +onlyGivenNames z0
  have h0 : Keeps a z0 := by
    subst z0
    refine K.foldl ?_ ?_
    · assumption
    · intro y1 y2 k1
      refine K.macReadArray ?_
      assumption
  try clear_value z0
  extract_lets +onlyGivenNames z3
  have h3 : Keeps a z3 := by
    subst z3
    refine K.modArr ?_
    assumption
  try clear_value z3
  refine K.inc ?_
  refine K.modArrays ?_
  assumption

theorem K.macRefuse {a : State} {s} {n} {w} (hs : Keeps a s) : Keeps a (State.macRefuse s n w) := by
  unfold State.macRefuse
  refine K.modArrays ?_
  refine K.evSlice ?_
  assumption

end Sys2Proof.Machine
end

