-- ==== Sys2Proof/Laws/Keeps/RedOps.lean ====
section
/-!
SUPPORT. What the operations of Machine/RedOps.lean keep: the canonical forms, the queue, the build, the test port, the sticky
registers and storage; every frame already handed over stays, and the log's sequence and the draws only rise.
-/

namespace Sys2Proof.Machine

theorem K.modRed {a : State} {s} {f} (hs : Keeps a s) : Keeps a (State.modRed s f) := by
  unfold State.modRed
  refine K.of (s := s) ?_ rfl rfl rfl rfl rfl rfl rfl rfl rfl rfl rfl rfl rfl
  assumption

theorem K.modStep {a : State} {s} {n} {st} {f} (hs : Keeps a s) : Keeps a (State.modStep s n st f) := by
  unfold State.modStep
  refine K.modRed ?_
  assumption

theorem K.zeroBanks {a : State} {s} {st} (hs : Keeps a s) : Keeps a (State.zeroBanks s st) := by
  unfold State.zeroBanks
  refine K.foldl ?_ ?_
  · assumption
  · intro y0 y1 k0
    extract_lets +onlyGivenNames z2
    try clear_value z2
    refine K.mzero ?_
    assumption

theorem K.zeroResults {a : State} {s} {st} (hs : Keeps a s) : Keeps a (State.zeroResults s st) := by
  unfold State.zeroResults
  refine K.foldl ?_ ?_
  · assumption
  · intro y0 y1 k0
    extract_lets +onlyGivenNames z2
    try clear_value z2
    extract_lets +onlyGivenNames z3
    try clear_value z3
    refine K.mzero ?_
    assumption

theorem K.redSend {a : State} {s} {k} {dst} {byAddr} {f} (hs : Keeps a s) : Keeps a (State.redSend s k dst byAddr f) := by
  unfold State.redSend
  refine K.ite ?_ ?_
  · assumption
  · refine K.ite ?_ ?_
    · refine K.modRed ?_
      assumption
    · refine K.send ?_
      assumption

theorem K.noteSent {a : State} {s} {k} {attempt} (hs : Keeps a s) : Keeps a (State.noteSent s k attempt) := by
  unfold State.noteSent
  extract_lets +onlyGivenNames z0
  try clear_value z0
  refine K.modRed ?_
  assumption

theorem K.contribute {a : State} {s} {k} {attempt} (hs : Keeps a s) : Keeps a (State.contribute s k attempt) := by
  unfold State.contribute
  split
  · refine K.ite ?_ ?_
    · assumption
    · extract_lets +onlyGivenNames z0
      try clear_value z0
      extract_lets +onlyGivenNames z1
      try clear_value z1
      extract_lets +onlyGivenNames z2
      try clear_value z2
      split
      · extract_lets +onlyGivenNames z3
        try clear_value z3
        extract_lets +onlyGivenNames z4
        try clear_value z4
        extract_lets +onlyGivenNames z5
        try clear_value z5
        extract_lets +onlyGivenNames z6
        have h6 : Keeps a z6 := by
          subst z6
          refine K.noteSent ?_
          assumption
        try clear_value z6
        extract_lets +onlyGivenNames z7
        have h7 : Keeps a z7 := by
          subst z7
          refine K.ite ?_ ?_
          · refine K.inc ?_
            assumption
          · refine K.ite ?_ ?_
            · refine K.inc ?_
              assumption
            · refine K.inc ?_
              assumption
        try clear_value z7
        refine K.ite ?_ ?_
        · refine K.redSend ?_
          assumption
        · refine K.redSend ?_
          assumption
  · assumption

theorem K.pumpStep {a : State} {s} {n} {st} (hs : Keeps a s) : KO a (State.pumpStep s n st) := by
  unfold State.pumpStep
  split
  · exact KO.ofNone
  · extract_lets +onlyGivenNames z0
    try clear_value z0
    extract_lets +onlyGivenNames z1
    try clear_value z1
    refine KO.ite ?_ ?_
    · exact KO.ofNone
    · refine KO.ite ?_ ?_
      · exact KO.ofNone
      · refine KO.ite ?_ ?_
        · exact KO.ofNone
        · extract_lets +onlyGivenNames z2
          try clear_value z2
          extract_lets +onlyGivenNames z3
          try clear_value z3
          extract_lets +onlyGivenNames z4
          have h4 : Keeps a z4 := by
            subst z4
            refine K.modStep ?_
            assumption
          try clear_value z4
          refine KO.ofSome ?_
          refine K.ite ?_ ?_
          · refine K.contribute ?_
            assumption
          · assumption

theorem K.countsPhase {a : State} {s} {n} {st} (hs : Keeps a s) : Keeps a (State.countsPhase s n st) := by
  unfold State.countsPhase
  extract_lets +onlyGivenNames z0
  try clear_value z0
  extract_lets +onlyGivenNames z1
  try clear_value z1
  extract_lets +onlyGivenNames z2
  have h2 : Keeps a z2 := by
    subst z2
    refine K.modStep ?_
    assumption
  try clear_value z2
  extract_lets +onlyGivenNames z3
  try clear_value z3
  refine K.foldl ?_ ?_
  · assumption
  · intro y4 y5 k4
    extract_lets +onlyGivenNames z6
    try clear_value z6
    extract_lets +onlyGivenNames z7
    try clear_value z7
    extract_lets +onlyGivenNames z8
    have h8 : Keeps a z8 := by
      subst z8
      refine K.modRed ?_
      assumption
    try clear_value z8
    refine K.contribute ?_
    assumption

theorem K.askCounts {a : State} {s} {x} (hs : Keeps a s) : Keeps a (State.askCounts s x) := by
  unfold State.askCounts
  extract_lets +onlyGivenNames z0
  try clear_value z0
  refine K.ite ?_ ?_
  · refine K.countsPhase ?_
    assumption
  · assumption

theorem K.pumpStepN {a : State} {k} {st} {n} {s} (hs : Keeps a s) : Keeps a (State.pumpStepN k st n s) := by
  induction n generalizing s with
  | zero => exact hs
  | succ n ih =>
    unfold State.pumpStepN
    split
    · rename_i e
      exact ih (KO.eq e (K.pumpStep hs))
    · exact hs

theorem K.pumpRed {a : State} {s} (hs : Keeps a s) : Keeps a (State.pumpRed s) := by
  unfold State.pumpRed
  extract_lets +onlyGivenNames z0
  have h0 : Keeps a z0 := by
    subst z0
    refine K.foldl ?_ ?_
    · assumption
    · intro y1 y2 k1
      refine K.askCounts ?_
      assumption
  try clear_value z0
  refine K.foldl ?_ ?_
  · assumption
  · intro y3 y4 k3
    refine K.pumpStepN ?_
    assumption

theorem K.openStep {a : State} {s} {n} {st} (hs : Keeps a s) : Keeps a (State.openStep s n st) := by
  unfold State.openStep
  refine K.ite ?_ ?_
  · assumption
  · refine K.modRed ?_
    assumption

theorem K.showExp {a : State} {s} {st} {d} {t} (hs : Keeps a s) : Keeps a (State.showExp s st d t) := by
  unfold State.showExp
  refine K.ite ?_ ?_
  · refine K.wrOf ?_
    assumption
  · assumption

theorem K.setExp {a : State} {s} {st} {d} {t} (hs : Keeps a s) : Keeps a (State.setExp s st d t) := by
  unfold State.setExp
  refine K.showExp ?_
  refine K.modRed ?_
  assumption

theorem K.showExps {a : State} {s} (hs : Keeps a s) : Keeps a (State.showExps s) := by
  unfold State.showExps
  extract_lets +onlyGivenNames z0
  try clear_value z0
  refine K.foldl ?_ ?_
  · assumption
  · intro y1 y2 k1
    refine K.foldl ?_ ?_
    · assumption
    · intro y3 y4 k3
      split
      · refine K.showExp ?_
        assumption
      · assumption

theorem K.setPeak {a : State} {s} {t} {st} {d} {p} (hs : Keeps a s) : Keeps a (State.setPeak s t st d p) := by
  unfold State.setPeak
  extract_lets +onlyGivenNames z0
  have h0 : Keeps a z0 := by
    subst z0
    refine K.modRed ?_
    assumption
  try clear_value z0
  extract_lets +onlyGivenNames z1
  have h1 : Keeps a z1 := by
    subst z1
    refine K.wrOf ?_
    assumption
  try clear_value z1
  refine K.ite ?_ ?_
  · refine K.setExp ?_
    assumption
  · split
    · refine K.setExp ?_
      assumption
    · assumption

theorem K.countSkips {a : State} {s} {t} {st} (hs : Keeps a s) : Keeps a (State.countSkips s t st) := by
  unfold State.countSkips
  refine K.foldl ?_ ?_
  · assumption
  · intro y0 y1 k0
    extract_lets +onlyGivenNames z2
    try clear_value z2
    refine K.ite ?_ ?_
    · extract_lets +onlyGivenNames z3
      have h3 : Keeps a z3 := by
        subst z3
        refine K.modRed ?_
        assumption
      try clear_value z3
      extract_lets +onlyGivenNames z4
      have h4 : Keeps a z4 := by
        subst z4
        refine K.ite ?_ ?_
        · refine K.modPass ?_
          assumption
        · assumption
      try clear_value z4
      refine K.ite ?_ ?_
      · assumption
      · extract_lets +onlyGivenNames z5
        have h5 : Keeps a z5 := by
          subst z5
          refine K.modRed ?_
          assumption
        try clear_value z5
        refine K.evHub ?_
        refine K.inc ?_
        assumption
    · assumption

theorem K.formPeak {a : State} {s} {t} {st} {d} (hs : Keeps a s) : Keeps a (State.formPeak s t st d) := by
  unfold State.formPeak
  extract_lets +onlyGivenNames z0
  try clear_value z0
  refine K.ite ?_ ?_
  · refine K.setPeak ?_
    assumption
  · assumption

theorem K.noteNoticePeak {a : State} {s} {p} (hs : Keeps a s) : Keeps a (State.noteNoticePeak s p) := by
  unfold State.noteNoticePeak
  refine K.modRed ?_
  assumption

theorem K.tensorComplete {a : State} {s} {t} {st} {seg} {d} {first} (hs : Keeps a s) : Keeps a (State.tensorComplete s t st seg d first) := by
  unfold State.tensorComplete
  split
  · refine K.ite ?_ ?_
    · refine K.setPeak ?_
      assumption
    · refine K.ite ?_ ?_
      · assumption
      · extract_lets +onlyGivenNames z0
        try clear_value z0
        extract_lets +onlyGivenNames z1
        try clear_value z1
        extract_lets +onlyGivenNames z2
        have h2 : Keeps a z2 := by
          subst z2
          refine K.noteNoticePeak ?_
          assumption
        try clear_value z2
        extract_lets +onlyGivenNames z3
        have h3 : Keeps a z3 := by
          subst z3
          refine K.foldl ?_ ?_
          · assumption
          · intro y4 y5 k4
            refine K.redSend ?_
            assumption
        try clear_value z3
        refine K.formPeak ?_
        assumption

theorem K.squareChunk {a : State} {s} {k} {vals} {take} (hs : Keeps a s) : Keeps a (State.squareChunk s k vals take) := by
  unfold State.squareChunk
  extract_lets +onlyGivenNames z0
  try clear_value z0
  refine K.ite ?_ ?_
  · assumption
  · split
    · assumption
    · refine K.ite ?_ ?_
      · assumption
      · extract_lets +onlyGivenNames z1
        try clear_value z1
        extract_lets +onlyGivenNames z2
        try clear_value z2
        extract_lets +onlyGivenNames z3
        try clear_value z3
        extract_lets +onlyGivenNames z4
        try clear_value z4
        refine K.modPass ?_
        assumption

theorem K.putRes {a : State} {s} {r} (hs : Keeps a s) : Keeps a (State.putRes s r) := by
  unfold State.putRes
  refine K.modRed ?_
  assumption

theorem K.bankResult {a : State} {s} {r} (hs : Keeps a s) : Keeps a (State.bankResult s r) := by
  unfold State.bankResult
  extract_lets +onlyGivenNames z0
  try clear_value z0
  extract_lets +onlyGivenNames z1
  try clear_value z1
  refine K.ite ?_ ?_
  · assumption
  · extract_lets +onlyGivenNames z2
    try clear_value z2
    extract_lets +onlyGivenNames z3
    try clear_value z3
    extract_lets +onlyGivenNames z4
    try clear_value z4
    extract_lets +onlyGivenNames z5
    have h5 : Keeps a z5 := by
      subst z5
      refine K.mwr ?_
      assumption
    try clear_value z5
    refine K.putRes ?_
    assumption

theorem K.bankWaiting {a : State} {s} (hs : Keeps a s) : Keeps a (State.bankWaiting s) := by
  unfold State.bankWaiting
  refine K.foldl ?_ ?_
  · assumption
  · intro y0 y1 k0
    refine K.bankResult ?_
    assumption

theorem K.finalData {a : State} {s} {k} {vals} (hs : Keeps a s) : Keeps a (State.finalData s k vals) := by
  unfold State.finalData
  extract_lets +onlyGivenNames z0
  try clear_value z0
  extract_lets +onlyGivenNames z1
  have h1 : Keeps a z1 := by
    subst z1
    refine K.squareChunk ?_
    assumption
  try clear_value z1
  extract_lets +onlyGivenNames z2
  have h2 : Keeps a z2 := by
    subst z2
    split
    · refine K.evHub ?_
      refine K.inc ?_
      assumption
    · assumption
  try clear_value z2
  extract_lets +onlyGivenNames z3
  try clear_value z3
  extract_lets +onlyGivenNames z4
  have h4 : Keeps a z4 := by
    subst z4
    split
    · extract_lets +onlyGivenNames z5
      try clear_value z5
      refine K.ite ?_ ?_
      · refine K.tensorComplete ?_
        assumption
      · assumption
    · assumption
  try clear_value z4
  extract_lets +onlyGivenNames z6
  have h6 : Keeps a z6 := by
    subst z6
    refine K.countSkips ?_
    assumption
  try clear_value z6
  extract_lets +onlyGivenNames z7
  try clear_value z7
  split
  · refine K.ite ?_ ?_
    · refine K.wr ?_
      assumption
    · assumption
  · assumption

theorem K.zeroResult {a : State} {s} {k} (hs : Keeps a s) : Keeps a (State.zeroResult s k) := by
  unfold State.zeroResult
  extract_lets +onlyGivenNames z0
  try clear_value z0
  refine K.bankResult ?_
  refine K.putRes ?_
  assumption

theorem K.finalCounts {a : State} {s} {k} (hs : Keeps a s) : Keeps a (State.finalCounts s k) := by
  unfold State.finalCounts
  refine K.ite ?_ ?_
  · assumption
  · extract_lets +onlyGivenNames z0
    try clear_value z0
    extract_lets +onlyGivenNames z1
    try clear_value z1
    extract_lets +onlyGivenNames z2
    try clear_value z2
    refine K.ite ?_ ?_
    · extract_lets +onlyGivenNames z3
      try clear_value z3
      extract_lets +onlyGivenNames z4
      have h4 : Keeps a z4 := by
        subst z4
        refine K.modStep ?_
        assumption
      try clear_value z4
      extract_lets +onlyGivenNames z5
      try clear_value z5
      extract_lets +onlyGivenNames z6
      have h6 : Keeps a z6 := by
        subst z6
        refine K.foldl ?_ ?_
        · assumption
        · intro y7 y8 k7
          refine K.zeroResult ?_
          assumption
      try clear_value z6
      refine K.foldl ?_ ?_
      · assumption
      · intro y9 y10 k9
        refine K.foldl ?_ ?_
        · assumption
        · intro y11 y12 k11
          refine K.ite ?_ ?_
          · refine K.tensorComplete ?_
            assumption
          · assumption
    · assumption

theorem K.finalize {a : State} {s} {k} (hs : Keeps a s) : Keeps a (State.finalize s k) := by
  unfold State.finalize
  split
  · assumption
  · refine K.ite ?_ ?_
    · assumption
    · extract_lets +onlyGivenNames z0
      have h0 : Keeps a z0 := by
        subst z0
        refine K.putRes ?_
        assumption
      try clear_value z0
      refine K.ite ?_ ?_
      · refine K.finalCounts ?_
        assumption
      · refine K.ite ?_ ?_
        · extract_lets +onlyGivenNames z1
          try clear_value z1
          refine K.contribute ?_
          assumption
        · refine K.finalData ?_
          assumption

theorem K.checkGrains {a : State} {s} {k} {grains} (hs : Keeps a s) : Keeps a (State.checkGrains s k grains) := by
  unfold State.checkGrains
  extract_lets +onlyGivenNames z0
  try clear_value z0
  refine K.ite ?_ ?_
  · assumption
  · extract_lets +onlyGivenNames z1
    have h1 : Keeps a z1 := by
      subst z1
      refine K.inc ?_
      assumption
    try clear_value z1
    extract_lets +onlyGivenNames z2
    have h2 : Keeps a z2 := by
      subst z2
      refine K.wr ?_
      assumption
    try clear_value z2
    extract_lets +onlyGivenNames z3
    have h3 : Keeps a z3 := by
      subst z3
      refine K.wr ?_
      assumption
    try clear_value z3
    refine K.evHub ?_
    assumption

theorem K.resend {a : State} {s} {k} {a'} (hs : Keeps a s) : Keeps a (State.resend s k a') := by
  unfold State.resend
  split
  · assumption
  · refine K.ite ?_ ?_
    · assumption
    · extract_lets +onlyGivenNames z0
      try clear_value z0
      extract_lets +onlyGivenNames z1
      have h1 : Keeps a z1 := by
        subst z1
        refine K.ite ?_ ?_
        · refine K.evHub ?_
          refine K.inc ?_
          assumption
        · assumption
      try clear_value z1
      refine K.contribute ?_
      assumption

theorem K.spreadTaint {a : State} {s} {k} {a'} {reason} (hs : Keeps a s) : Keeps a (State.spreadTaint s k a' reason) := by
  unfold State.spreadTaint
  extract_lets +onlyGivenNames z0
  try clear_value z0
  extract_lets +onlyGivenNames z1
  try clear_value z1
  refine K.foldl ?_ ?_
  · assumption
  · intro y2 y3 k2
    refine K.redSend ?_
    assumption

theorem K.taintChunk {a : State} {s} {k} {a'} {reason} (hs : Keeps a s) : Keeps a (State.taintChunk s k a' reason) := by
  unfold State.taintChunk
  extract_lets +onlyGivenNames z0
  have h0 : Keeps a z0 := by
    subst z0
    split
    · refine K.putRes ?_
      assumption
    · refine K.putRes ?_
      assumption
  try clear_value z0
  extract_lets +onlyGivenNames z1
  have h1 : Keeps a z1 := by
    subst z1
    refine K.inc ?_
    assumption
  try clear_value z1
  extract_lets +onlyGivenNames z2
  have h2 : Keeps a z2 := by
    subst z2
    refine K.ite ?_ ?_
    · refine K.inc ?_
      assumption
    · assumption
  try clear_value z2
  extract_lets +onlyGivenNames z3
  have h3 : Keeps a z3 := by
    subst z3
    refine K.evSecond ?_
    assumption
  try clear_value z3
  refine K.ite ?_ ?_
  · refine K.unitFailed ?_
    refine K.evHub ?_
    assumption
  · refine K.resend ?_
    refine K.spreadTaint ?_
    assumption

theorem K.unskip {a : State} {s} {t} {st} (hs : Keeps a s) : Keeps a (State.unskip s t st) := by
  unfold State.unskip
  extract_lets +onlyGivenNames z0
  try clear_value z0
  extract_lets +onlyGivenNames z1
  have h1 : Keeps a z1 := by
    subst z1
    refine K.modRed ?_
    assumption
  try clear_value z1
  refine K.foldl ?_ ?_
  · assumption
  · intro y2 y3 k2
    refine K.squareChunk ?_
    assumption

theorem K.takeBack {a : State} {s} {r} (hs : Keeps a s) : Keeps a (State.takeBack s r) := by
  unfold State.takeBack
  extract_lets +onlyGivenNames z0
  try clear_value z0
  refine K.ite ?_ ?_
  · assumption
  · extract_lets +onlyGivenNames z1
    try clear_value z1
    extract_lets +onlyGivenNames z2
    have h2 : Keeps a z2 := by
      subst z2
      refine K.squareChunk ?_
      refine K.unskip ?_
      assumption
    try clear_value z2
    split
    · assumption
    · extract_lets +onlyGivenNames z3
      try clear_value z3
      extract_lets +onlyGivenNames z4
      have h4 : Keeps a z4 := by
        subst z4
        refine K.modPass ?_
        assumption
      try clear_value z4
      extract_lets +onlyGivenNames z5
      have h5 : Keeps a z5 := by
        subst z5
        refine K.modArrays ?_
        assumption
      try clear_value z5
      refine K.modRed ?_
      assumption

theorem K.taintForward {a : State} {s} {k} {a'} {devs} (hs : Keeps a s) : Keeps a (State.taintForward s k a' devs) := by
  unfold State.taintForward
  extract_lets +onlyGivenNames z0
  try clear_value z0
  refine K.foldl ?_ ?_
  · refine K.inc ?_
    assumption
  · intro y1 y2 k1
    refine K.redSend ?_
    assumption

theorem K.meetTaint {a : State} {s} {k} {a'} (hs : Keeps a s) : Keeps a (State.meetTaint s k a') := by
  unfold State.meetTaint
  refine K.ite ?_ ?_
  · assumption
  · split
    · refine K.putRes ?_
      assumption
    · refine K.ite ?_ ?_
      · assumption
      · refine K.ite ?_ ?_
        · refine K.putRes ?_
          assumption
        · extract_lets +onlyGivenNames z0
          try clear_value z0
          extract_lets +onlyGivenNames z1
          have h1 : Keeps a z1 := by
            subst z1
            refine K.ite ?_ ?_
            · assumption
            · refine K.taintForward ?_
              assumption
          try clear_value z1
          refine K.ite ?_ ?_
          · refine K.putRes ?_
            assumption
          · refine K.ite ?_ ?_
            · refine K.putRes ?_
              assumption
            · refine K.putRes ?_
              refine K.takeBack ?_
              assumption

theorem K.receiverTaint {a : State} {s} {k} {a'} (hs : Keeps a s) : Keeps a (State.receiverTaint s k a') := by
  unfold State.receiverTaint
  refine K.ite ?_ ?_
  · refine K.meetTaint ?_
    assumption
  · refine K.ite ?_ ?_
    · assumption
    · split
      · refine K.putRes ?_
        assumption
      · refine K.ite ?_ ?_
        · assumption
        · extract_lets +onlyGivenNames z0
          try clear_value z0
          extract_lets +onlyGivenNames z1
          have h1 : Keeps a z1 := by
            subst z1
            refine K.putRes ?_
            assumption
          try clear_value z1
          split
          · refine K.meetTaint ?_
            refine K.taintForward ?_
            assumption
          · assumption

theorem K.lateEnd {a : State} {s} {k} {outcome} (hs : Keeps a s) : Keeps a (State.lateEnd s k outcome) := by
  unfold State.lateEnd
  extract_lets +onlyGivenNames z0
  have h0 : Keeps a z0 := by
    subst z0
    refine K.evHub ?_
    refine K.inc ?_
    assumption
  try clear_value z0
  refine K.ite ?_ ?_
  · assumption
  · refine K.unitFailed ?_
    assumption

theorem K.redGate {a : State} {s} {f} {k} (hs : Keeps a s) : Keeps a (State.redGate s f k).2 := by
  unfold State.redGate
  extract_lets +onlyGivenNames z0
  try clear_value z0
  refine K.ite2 ?_ ?_
  · refine K.gate ?_
    assumption
  · dsimp -zeta only
    assumption

theorem K.acceptResult {a : State} {s} {k} {f} {late} (hs : Keeps a s) : Keeps a (State.acceptResult s k f late) := by
  unfold State.acceptResult
  extract_lets +onlyGivenNames z0
  try clear_value z0
  extract_lets +onlyGivenNames z1
  try clear_value z1
  split
  · extract_lets +onlyGivenNames z2
    have h2 : Keeps a z2 := by
      subst z2
      refine K.inc ?_
      assumption
    try clear_value z2
    extract_lets +onlyGivenNames z3
    try clear_value z3
    extract_lets +onlyGivenNames z4
    try clear_value z4
    extract_lets +onlyGivenNames z5
    have h5 : Keeps a z5 := by
      subst z5
      refine K.putRes ?_
      assumption
    try clear_value z5
    refine K.lateEnd ?_
    assumption
  · refine K.ite ?_ ?_
    · assumption
    · extract_lets +onlyGivenNames z6
      have h6 : Keeps a z6 := by
        subst z6
        refine K.inc ?_
        assumption
      try clear_value z6
      extract_lets +onlyGivenNames z7
      have h7 : Keeps a z7 := by
        subst z7
        refine K.checkGrains ?_
        refine K.putRes ?_
        assumption
      try clear_value z7
      extract_lets +onlyGivenNames z8
      have h8 : Keeps a z8 := by
        subst z8
        refine K.bankResult ?_
        assumption
      try clear_value z8
      refine K.ite ?_ ?_
      · refine K.finalize ?_
        assumption
      · assumption

theorem K.tellTaint {a : State} {s} {k} (hs : Keeps a s) : Keeps a (State.tellTaint s k) := by
  unfold State.tellTaint
  split
  · refine K.ite ?_ ?_
    · assumption
    · refine K.receiverTaint ?_
      assumption
  · assumption

theorem K.takeResult {a : State} {s} {f} (hs : Keeps a s) : Keeps a (State.takeResult s f) := by
  unfold State.takeResult
  extract_lets +onlyGivenNames z0
  try clear_value z0
  refine K.ite ?_ ?_
  · assumption
  · split
    · rename_i v1_0 v1_1 e1
      have h1 : Keeps a v1_1 := by
        refine K.eq2 e1 ?_
        refine K.redGate ?_
        assumption
      refine K.ite ?_ ?_
      · assumption
      · extract_lets +onlyGivenNames z2
        try clear_value z2
        refine K.ite ?_ ?_
        · assumption
        · extract_lets +onlyGivenNames z3
          have h3 : Keeps a z3 := by
            subst z3
            refine K.tellTaint ?_
            assumption
          try clear_value z3
          extract_lets +onlyGivenNames z4
          try clear_value z4
          split
          · refine K.taintChunk ?_
            assumption
          · refine K.acceptResult ?_
            assumption

theorem K.takeTaint {a : State} {s} {f} (hs : Keeps a s) : Keeps a (State.takeTaint s f) := by
  unfold State.takeTaint
  extract_lets +onlyGivenNames z0
  try clear_value z0
  extract_lets +onlyGivenNames z1
  have h1 : Keeps a z1 := by
    subst z1
    refine K.inc ?_
    assumption
  try clear_value z1
  refine K.ite ?_ ?_
  · assumption
  · split
    · rename_i v2_0 v2_1 e2
      have h2 : Keeps a v2_1 := by
        refine K.eq2 e2 ?_
        refine K.redGate ?_
        assumption
      refine K.ite ?_ ?_
      · assumption
      · refine K.ite ?_ ?_
        · assumption
        · extract_lets +onlyGivenNames z3
          try clear_value z3
          refine K.resend ?_
          refine K.receiverTaint ?_
          assumption

theorem K.homeResult {a : State} {s} {h} (hs : Keeps a s) : Keeps a (State.homeResult s h) := by
  unfold State.homeResult
  extract_lets +onlyGivenNames z0
  try clear_value z0
  extract_lets +onlyGivenNames z1
  try clear_value z1
  extract_lets +onlyGivenNames z2
  try clear_value z2
  extract_lets +onlyGivenNames z3
  try clear_value z3
  extract_lets +onlyGivenNames z4
  try clear_value z4
  extract_lets +onlyGivenNames z5
  have h5 : Keeps a z5 := by
    subst z5
    refine K.modRed ?_
    assumption
  try clear_value z5
  refine K.foldl ?_ ?_
  · assumption
  · intro y6 y7 k6
    refine K.redSend ?_
    assumption

theorem K.takeContribution {a : State} {s} {f} (hs : Keeps a s) : Keeps a (State.takeContribution s f) := by
  unfold State.takeContribution
  extract_lets +onlyGivenNames z0
  try clear_value z0
  refine K.ite ?_ ?_
  · assumption
  · split
    · rename_i v1_0 v1_1 e1
      have h1 : Keeps a v1_1 := by
        refine K.eq2 e1 ?_
        refine K.redGate ?_
        assumption
      extract_lets +onlyGivenNames z2
      try clear_value z2
      extract_lets +onlyGivenNames z3
      try clear_value z3
      extract_lets +onlyGivenNames z4
      try clear_value z4
      extract_lets +onlyGivenNames z5
      try clear_value z5
      refine K.ite ?_ ?_
      · assumption
      · split
        · refine K.ite ?_ ?_
          · assumption
          · extract_lets +onlyGivenNames z6
            try clear_value z6
            refine K.ite ?_ ?_
            · refine K.homeResult ?_
              assumption
            · refine K.modRed ?_
              assumption
        · refine K.ite ?_ ?_
          · assumption
          · extract_lets +onlyGivenNames z7
            try clear_value z7
            refine K.ite ?_ ?_
            · refine K.homeResult ?_
              assumption
            · refine K.modRed ?_
              assumption

theorem K.takePeak {a : State} {s} {f} (hs : Keeps a s) : Keeps a (State.takePeak s f) := by
  unfold State.takePeak
  extract_lets +onlyGivenNames z0
  try clear_value z0
  extract_lets +onlyGivenNames z1
  try clear_value z1
  refine K.ite ?_ ?_
  · assumption
  · split
    · rename_i v2_0 v2_1 e2
      have h2 : Keeps a v2_1 := by
        refine K.eq2 e2 ?_
        refine K.redGate ?_
        assumption
      refine K.ite ?_ ?_
      · assumption
      · extract_lets +onlyGivenNames z3
        try clear_value z3
        extract_lets +onlyGivenNames z4
        try clear_value z4
        extract_lets +onlyGivenNames z5
        have h5 : Keeps a z5 := by
          subst z5
          refine K.foldl ?_ ?_
          · assumption
          · intro y6 y7 k6
            extract_lets +onlyGivenNames z8
            have h8 : Keeps a z8 := by
              subst z8
              refine K.noteNoticePeak ?_
              assumption
            try clear_value z8
            split
            · refine K.formPeak ?_
              assumption
            · assumption
        try clear_value z5
        refine K.countSkips ?_
        assumption

theorem K.takeRed {a : State} {s} {f} (hs : Keeps a s) : Keeps a (State.takeRed s f) := by
  unfold State.takeRed
  split
  · refine K.takeContribution ?_
    assumption
  · refine K.takeResult ?_
    assumption
  · refine K.takeTaint ?_
    assumption
  · refine K.takePeak ?_
    assumption
  · assumption

theorem K.redLoop {a : State} {n} {s} (hs : Keeps a s) : Keeps a (State.redLoop n s) := by
  induction n generalizing s with
  | zero => exact hs
  | succ n ih =>
    unfold State.redLoop
    split
    · exact hs
    · exact ih (K.pumpRed (K.takeRed (K.modRed hs)))

theorem K.redSettle {a : State} {s} (hs : Keeps a s) : Keeps a (State.redSettle s) := by
  unfold State.redSettle
  refine K.redLoop ?_
  refine K.pumpRed ?_
  assumption

theorem K.releaseChunks {a : State} {s} {n} {cursor} (hs : Keeps a s) : Keeps a (State.releaseChunks s n cursor) := by
  unfold State.releaseChunks
  split
  · refine K.ite ?_ ?_
    · assumption
    · extract_lets +onlyGivenNames z0
      try clear_value z0
      extract_lets +onlyGivenNames z1
      have h1 : Keeps a z1 := by
        subst z1
        refine K.modRed ?_
        assumption
      try clear_value z1
      refine K.ite ?_ ?_
      · assumption
      · extract_lets +onlyGivenNames z2
        have h2 : Keeps a z2 := by
          subst z2
          refine K.openStep ?_
          assumption
        try clear_value z2
        refine K.redSettle ?_
        refine K.modStep ?_
        assumption

theorem K.controlWrite {a : State} {s} {n} {off} {data} (hs : Keeps a s) : Keeps a (State.controlWrite s n off data) := by
  unfold State.controlWrite
  split
  · extract_lets +onlyGivenNames z0
    try clear_value z0
    extract_lets +onlyGivenNames z1
    try clear_value z1
    extract_lets +onlyGivenNames z2
    try clear_value z2
    extract_lets +onlyGivenNames z3
    have h3 : Keeps a z3 := by
      subst z3
      refine K.modRed ?_
      assumption
    try clear_value z3
    extract_lets +onlyGivenNames z4
    have h4 : Keeps a z4 := by
      subst z4
      refine K.modStep ?_
      assumption
    try clear_value z4
    refine K.releaseChunks ?_
    assumption

theorem K.intakeElem {a : State} {s} {t} {st} {e} {code} (hs : Keeps a s) : Keeps a (State.intakeElem s t st e code) := by
  unfold State.intakeElem
  extract_lets +onlyGivenNames z0
  try clear_value z0
  split
  · assumption
  · extract_lets +onlyGivenNames z1
    try clear_value z1
    split
    · extract_lets +onlyGivenNames z2
      try clear_value z2
      extract_lets +onlyGivenNames z3
      try clear_value z3
      extract_lets +onlyGivenNames z4
      try clear_value z4
      extract_lets +onlyGivenNames z5
      try clear_value z5
      extract_lets +onlyGivenNames z6
      have h6 : Keeps a z6 := by
        subst z6
        refine K.mwrNat ?_
        assumption
      try clear_value z6
      extract_lets +onlyGivenNames z7
      have h7 : Keeps a z7 := by
        subst z7
        refine K.mwr ?_
        assumption
      try clear_value z7
      extract_lets +onlyGivenNames z8
      have h8 : Keeps a z8 := by
        subst z8
        refine K.ite ?_ ?_
        · refine K.inc ?_
          assumption
        · assumption
      try clear_value z8
      refine K.ite ?_ ?_
      · refine K.evHub ?_
        refine K.inc ?_
        assumption
      · assumption

theorem K.intakeApply {a : State} {s} {t} {st} {off} {data} (hs : Keeps a s) : Keeps a (State.intakeApply s t st off data) := by
  unfold State.intakeApply
  extract_lets +onlyGivenNames z0
  try clear_value z0
  refine K.foldl ?_ ?_
  · assumption
  · intro y1 y2 k1
    refine K.intakeElem ?_
    assumption

theorem K.redMark {a : State} {s} (hs : Keeps a s) : Keeps a (State.redMark s) := by
  unfold State.redMark
  extract_lets +onlyGivenNames z0
  try clear_value z0
  extract_lets +onlyGivenNames z1
  have h1 : Keeps a z1 := by
    subst z1
    refine K.modRed ?_
    assumption
  try clear_value z1
  extract_lets +onlyGivenNames z2 z3
  try clear_value z2
  have h3 : Keeps a z3 := by
    subst z3
    refine K.of (s := z1) ?_ rfl rfl rfl rfl rfl rfl rfl rfl rfl rfl rfl rfl rfl
    assumption
  try clear_value z3
  refine K.ite ?_ ?_
  · refine K.modRed ?_
    assumption
  · extract_lets +onlyGivenNames z4
    have h4 : Keeps a z4 := by
      subst z4
      refine K.foldl ?_ ?_
      · assumption
      · intro y5 y6 k5
        split
        · extract_lets +onlyGivenNames z7
          have h7 : Keeps a z7 := by
            subst z7
            refine K.openStep ?_
            assumption
          try clear_value z7
          extract_lets +onlyGivenNames z8
          have h8 : Keeps a z8 := by
            subst z8
            refine K.foldl ?_ ?_
            · assumption
            · intro y9 y10 k9
              split
              · refine K.setExp ?_
                assumption
              · assumption
          try clear_value z8
          refine K.modStep ?_
          assumption
    try clear_value z4
    refine K.redSettle ?_
    refine K.showExps ?_
    refine K.modRed ?_
    assumption

theorem K.redCommit {a : State} {s} {c} (hs : Keeps a s) : Keeps a (State.redCommit s c) := by
  unfold State.redCommit
  extract_lets +onlyGivenNames z0
  try clear_value z0
  extract_lets +onlyGivenNames z1
  have h1 : Keeps a z1 := by
    subst z1
    refine K.foldl ?_ ?_
    · assumption
    · intro y2 y3 k2
      refine K.zeroBanks ?_
      assumption
  try clear_value z1
  refine K.modRed ?_
  assumption

theorem K.redLossCut {a : State} {s} {c} (hs : Keeps a s) : Keeps a (State.redLossCut s c) := by
  unfold State.redLossCut
  extract_lets +onlyGivenNames z0
  try clear_value z0
  extract_lets +onlyGivenNames z1
  have h1 : Keeps a z1 := by
    subst z1
    refine K.foldl ?_ ?_
    · assumption
    · intro y2 y3 k2
      refine K.zeroBanks ?_
      assumption
  try clear_value z1
  extract_lets +onlyGivenNames z4
  have h4 : Keeps a z4 := by
    subst z4
    refine K.foldl ?_ ?_
    · assumption
    · intro y5 y6 k5
      refine K.zeroResults ?_
      assumption
  try clear_value z4
  extract_lets +onlyGivenNames z7
  have h7 : Keeps a z7 := by
    subst z7
    refine K.modPass ?_
    assumption
  try clear_value z7
  refine K.modRed ?_
  assumption

theorem K.redRestart {a : State} {s} {c} (hs : Keeps a s) : Keeps a (State.redRestart s c) := by
  unfold State.redRestart
  extract_lets +onlyGivenNames z0
  have h0 : Keeps a z0 := by
    subst z0
    refine K.modRed ?_
    assumption
  try clear_value z0
  extract_lets +onlyGivenNames z1
  have h1 : Keeps a z1 := by
    subst z1
    refine K.modPass ?_
    assumption
  try clear_value z1
  refine K.redSettle ?_
  assumption

theorem K.redJoiner {a : State} {s} {c} (hs : Keeps a s) : Keeps a (State.redJoiner s c) := by
  unfold State.redJoiner
  refine K.ite ?_ ?_
  · assumption
  · refine K.redSettle ?_
    refine K.foldl ?_ ?_
    · assumption
    · intro y0 y1 k0
      extract_lets +onlyGivenNames z2
      have h2 : Keeps a z2 := by
        subst z2
        refine K.foldl ?_ ?_
        · assumption
        · intro y3 y4 k3
          split
          · rename_i v5_0 v5_1 e5
            have h5 : Keeps a v5_1 := by
              refine K.eq2 e5 ?_
              refine K.draw ?_
              assumption
            refine K.setExp ?_
            assumption
      try clear_value z2
      extract_lets +onlyGivenNames z6
      have h6 : Keeps a z6 := by
        subst z6
        refine K.openStep ?_
        assumption
      try clear_value z6
      refine K.modStep ?_
      assumption

theorem K.redZero {a : State} {s} (hs : Keeps a s) : Keeps a (State.redZero s) := by
  unfold State.redZero
  refine K.foldl ?_ ?_
  · assumption
  · intro y0 y1 k0
    extract_lets +onlyGivenNames z2
    try clear_value z2
    extract_lets +onlyGivenNames z3
    have h3 : Keeps a z3 := by
      subst z3
      refine K.mzero ?_
      assumption
    try clear_value z3
    refine K.mzero ?_
    assumption

theorem K.redClear {a : State} {s} (hs : Keeps a s) : Keeps a (State.redClear s) := by
  unfold State.redClear
  refine K.showExps ?_
  extract_lets +onlyGivenNames z0
  have h0 : Keeps a z0 := by
    subst z0
    refine K.redZero ?_
    assumption
  try clear_value z0
  refine K.of (s := z0) ?_ rfl rfl rfl rfl rfl rfl rfl rfl rfl rfl rfl rfl rfl
  assumption

theorem K.redLayout {a : State} {s} {was} (hs : Keeps a s) : Keeps a (State.redLayout s was) := by
  unfold State.redLayout
  extract_lets +onlyGivenNames z0
  try clear_value z0
  extract_lets +onlyGivenNames z1
  try clear_value z1
  refine K.showExps ?_
  extract_lets +onlyGivenNames z2
  have h2 : Keeps a z2 := by
    subst z2
    refine K.redZero ?_
    assumption
  try clear_value z2
  refine K.of (s := z2) ?_ rfl rfl rfl rfl rfl rfl rfl rfl rfl rfl rfl rfl rfl
  assumption

end Sys2Proof.Machine
end

