-- ==== Sys2Proof/Laws/Keeps/PassOps.lean ====
section
/-!
SUPPORT. What the operations of Machine/PassOps.lean keep: the canonical forms, the queue, the build, the test port, the sticky
registers and storage; every frame already handed over stays, and the log's sequence and the draws only rise.
-/

namespace Sys2Proof.Machine

theorem K.readLists {a : State} {s} {m} (hs : Keeps a s) : Keeps a (State.readLists s m) := by
  unfold State.readLists
  refine K.foldl ?_ ?_
  · refine K.modPass ?_
    assumption
  · intro y0 y1 k0
    extract_lets +onlyGivenNames z2
    try clear_value z2
    extract_lets +onlyGivenNames z3
    try clear_value z3
    extract_lets +onlyGivenNames z4
    have h4 : Keeps a z4 := by
      subst z4
      refine K.ite ?_ ?_
      · refine K.evStep ?_
        refine K.inc ?_
        assumption
      · assumption
    try clear_value z4
    extract_lets +onlyGivenNames z5
    try clear_value z5
    extract_lets +onlyGivenNames z6
    have h6 : Keeps a z6 := by
      subst z6
      refine K.ite ?_ ?_
      · assumption
      · refine K.evStep ?_
        refine K.incBy ?_
        assumption
    try clear_value z6
    refine K.modPass ?_
    assumption

theorem K.countCommitHold {a : State} {s} (hs : Keeps a s) : Keeps a (State.countCommitHold s) := by
  unfold State.countCommitHold
  refine K.ite ?_ ?_
  · refine K.inc ?_
    refine K.modPass ?_
    assumption
  · assumption

theorem K.passWrite {a : State} {s} {a'} {bs} (hs : Keeps a s) : Keeps a (State.passWrite s a' bs) := by
  unfold State.passWrite
  split
  · refine K.codedWrite ?_
    assumption
  · refine K.mwr ?_
    assumption

theorem K.readMoments {a : State} {s} {a'} {n} (hs : Keeps a s) : Keeps a (State.readMoments s a' n).2 := by
  unfold State.readMoments
  split
  · dsimp -zeta only
    assumption
  · dsimp -zeta only
    refine K.drawn (s := s) ?_ (by omega)
    assumption

theorem K.readStates {a : State} {s} {a'} {n} (hs : Keeps a s) : Keeps a (State.readStates s a' n).2 := by
  unfold State.readStates
  split
  · dsimp -zeta only
    assumption
  · dsimp -zeta only
    refine K.drawn (s := s) ?_ (by omega)
    assumption

theorem K.trimSlice {a : State} {s} {m} {n} (hs : Keeps a s) : Keeps a (State.trimSlice s m n) := by
  unfold State.trimSlice
  extract_lets +onlyGivenNames z0
  try clear_value z0
  extract_lets +onlyGivenNames z1
  try clear_value z1
  extract_lets +onlyGivenNames z2
  have h2 : Keeps a z2 := by
    subst z2
    refine K.modArr ?_
    assumption
  try clear_value z2
  refine K.ite ?_ ?_
  · assumption
  · refine K.modArr ?_
    assumption

theorem K.lineAv {a : State} {s} {d} {turn} {n} {src} {x} (hs : Keeps a s) : KO2 a (State.lineAv s d turn n src x) := by
  unfold State.lineAv
  extract_lets +onlyGivenNames z0
  try clear_value z0
  extract_lets +onlyGivenNames z1
  try clear_value z1
  refine KO2.ite ?_ ?_
  · refine KO2.ite ?_ ?_
    · exact KO2.ofNone
    · extract_lets +onlyGivenNames z2
      try clear_value z2
      refine KO2.ofSome ?_
      dsimp -zeta only
      refine K.incBy ?_
      assumption
  · split
    · exact KO2.ofNone
    · extract_lets +onlyGivenNames z3
      try clear_value z3
      refine KO2.ofSome ?_
      dsimp -zeta only
      refine K.countRange ?_
      assumption

theorem K.writeWorking {a : State} {s} {d} {x} {at_} {vs} {bad} {chk} (hs : Keeps a s) : Keeps a (State.writeWorking s d x at_ vs bad chk).1 := by
  unfold State.writeWorking
  split
  · extract_lets +onlyGivenNames z0
    try clear_value z0
    extract_lets +onlyGivenNames z1
    try clear_value z1
    extract_lets +onlyGivenNames z2
    try clear_value z2
    dsimp -zeta only
    refine K.incBy ?_
    refine K.mwr ?_
    assumption

theorem K.putTensor {a : State} {s} {t} (hs : Keeps a s) : Keeps a (State.putTensor s t) := by
  unfold State.putTensor
  refine K.modPass ?_
  assumption

theorem K.updateLine {a : State} {s} {m} {t} {d} {n} {pos} {src} {x} {avs} {bad} {chk} (hs : Keeps a s) : Keeps a (State.updateLine s m t d n pos src x avs bad chk) := by
  unfold State.updateLine
  extract_lets +onlyGivenNames z0
  try clear_value z0
  extract_lets +onlyGivenNames z1
  try clear_value z1
  extract_lets +onlyGivenNames z2
  try clear_value z2
  split
  · rename_i v3_0 v3_1 e3
    have h3 : Keeps a v3_1 := by
      refine K.eq2 e3 ?_
      refine K.readStates ?_
      assumption
    split
    · rename_i v4_0 v4_1 e4
      have h4 : Keeps a v4_1 := by
        refine K.eq2 e4 ?_
        refine K.ite2 ?_ ?_
        · refine K.readMoments ?_
          assumption
        · dsimp -zeta only
          assumption
      extract_lets +onlyGivenNames z5
      try clear_value z5
      extract_lets +onlyGivenNames z6
      try clear_value z6
      extract_lets +onlyGivenNames z7
      try clear_value z7
      extract_lets +onlyGivenNames z8
      try clear_value z8
      extract_lets +onlyGivenNames z9
      try clear_value z9
      extract_lets +onlyGivenNames z10
      try clear_value z10
      extract_lets +onlyGivenNames z11
      have h11 : Keeps a z11 := by
        subst z11
        split
        · refine K.passWrite ?_
          assumption
        · assumption
      try clear_value z11
      extract_lets +onlyGivenNames z12
      have h12 : Keeps a z12 := by
        subst z12
        split
        · refine K.passWrite ?_
          assumption
        · assumption
      try clear_value z12
      extract_lets +onlyGivenNames z13
      have h13 : Keeps a z13 := by
        subst z13
        refine K.incBy ?_
        refine K.incBy ?_
        refine K.incBy ?_
        refine K.incBy ?_
        assumption
      try clear_value z13
      extract_lets +onlyGivenNames z14
      have h14 : Keeps a z14 := by
        subst z14
        refine K.tally ?_
        refine K.tally ?_
        refine K.tally ?_
        assumption
      try clear_value z14
      split
      · split
        · rename_i v15_0 v15_1 v15_2 e15
          have h15 : Keeps a v15_0 := by
            refine K.eq1 e15 ?_
            refine K.writeWorking ?_
            assumption
          refine K.putTensor ?_
          assumption
      · refine K.putTensor ?_
        assumption

theorem K.emaLine {a : State} {s} {m} {t} {sd} {d} {n} {pos} {src} {x} {bad} {chk} (hs : Keeps a s) : Keeps a (State.emaLine s m t sd d n pos src x bad chk) := by
  unfold State.emaLine
  extract_lets +onlyGivenNames z0
  try clear_value z0
  extract_lets +onlyGivenNames z1
  try clear_value z1
  split
  · rename_i v2_0 v2_1 e2
    have h2 : Keeps a v2_1 := by
      refine K.eq2 e2 ?_
      refine K.readStates ?_
      assumption
    split
    · rename_i v3_0 v3_1 e3
      have h3 : Keeps a v3_1 := by
        refine K.eq2 e3 ?_
        refine K.readStates ?_
        assumption
      extract_lets +onlyGivenNames z4
      try clear_value z4
      extract_lets +onlyGivenNames z5
      try clear_value z5
      extract_lets +onlyGivenNames z6
      try clear_value z6
      extract_lets +onlyGivenNames z7
      try clear_value z7
      extract_lets +onlyGivenNames z8
      have h8 : Keeps a z8 := by
        subst z8
        split
        · refine K.passWrite ?_
          assumption
        · assumption
      try clear_value z8
      extract_lets +onlyGivenNames z9
      have h9 : Keeps a z9 := by
        subst z9
        refine K.tally ?_
        refine K.incBy ?_
        assumption
      try clear_value z9
      split
      · split
        · rename_i v10_0 v10_1 v10_2 e10
          have h10 : Keeps a v10_0 := by
            refine K.eq1 e10 ?_
            refine K.writeWorking ?_
            assumption
          refine K.putTensor ?_
          assumption
      · refine K.putTensor ?_
        assumption

theorem K.cursorLine {a : State} {s} {m} {t} {d} {inc} {n} {pos} {src} {x} (hs : Keeps a s) : Keeps a (State.cursorLine s m t d inc n pos src x) := by
  unfold State.cursorLine
  extract_lets +onlyGivenNames z0
  try clear_value z0
  extract_lets +onlyGivenNames z1
  have h1 : Keeps a z1 := by
    subst z1
    refine K.ite ?_ ?_
    · assumption
    · refine K.drawn (s := s) ?_ (by omega)
      assumption
  try clear_value z1
  extract_lets +onlyGivenNames z2
  try clear_value z2
  extract_lets +onlyGivenNames z3
  try clear_value z3
  extract_lets +onlyGivenNames z4
  have h4 : Keeps a z4 := by
    subst z4
    split
    · extract_lets +onlyGivenNames z5
      try clear_value z5
      refine K.passWrite ?_
      assumption
    · assumption
  try clear_value z4
  refine K.putTensor ?_
  assumption

theorem K.evSliceSecond {a : State} {s} {n} {code} {payload} (hs : Keeps a s) : Keeps a (State.evSliceSecond s n code payload) := by
  unfold State.evSliceSecond
  extract_lets +onlyGivenNames z0
  try clear_value z0
  refine K.ite ?_ ?_
  · assumption
  · refine K.evSlice ?_
    refine K.of (s := s) ?_ rfl rfl rfl rfl rfl rfl rfl rfl rfl rfl rfl rfl rfl
    assumption

theorem K.tensorDone {a : State} {s} {t} (hs : Keeps a s) : Keeps a (State.tensorDone s t) := by
  unfold State.tensorDone
  refine K.modPass ?_
  assumption

theorem K.afterLine {a : State} {s} {m} {w} {n} (hs : Keeps a s) : Keeps a (State.afterLine s m w n) := by
  unfold State.afterLine
  extract_lets +onlyGivenNames z0
  have h0 : Keeps a z0 := by
    subst z0
    refine K.trimSlice ?_
    assumption
  try clear_value z0
  split
  · refine K.ite ?_ ?_
    · refine K.tensorDone ?_
      assumption
    · assumption
  · assumption

theorem K.rederiveTensor {a : State} {s} {m} {d} (hs : Keeps a s) : Keeps a (State.rederiveTensor s m d) := by
  unfold State.rederiveTensor
  refine K.foldl ?_ ?_
  · assumption
  · intro y0 y1 k0
    split
    · extract_lets +onlyGivenNames z2
      try clear_value z2
      refine K.writeWorking ?_
      assumption
    · assumption

theorem K.readFactors {a : State} {s} {m} {base} {src} {n} (hs : Keeps a s) : Keeps a (State.readFactors s m base src n).2 := by
  unfold State.readFactors
  dsimp -zeta only
  refine K.ite ?_ ?_
  · assumption
  · refine K.drawn (s := s) ?_ (by omega)
    assumption

theorem K.factorsOf {a : State} {s} {m} {d} {src} (hs : Keeps a s) : Keeps a (State.factorsOf s m d src) := by
  unfold State.factorsOf
  extract_lets +onlyGivenNames z0
  try clear_value z0
  extract_lets +onlyGivenNames z1
  try clear_value z1
  extract_lets +onlyGivenNames z2
  try clear_value z2
  extract_lets +onlyGivenNames z3
  try clear_value z3
  extract_lets +onlyGivenNames z4
  try clear_value z4
  extract_lets +onlyGivenNames z5
  try clear_value z5
  extract_lets +onlyGivenNames z6
  try clear_value z6
  split
  · rename_i v7_0 v7_1 e7
    have h7 : Keeps a v7_1 := by
      refine K.eq2 e7 ?_
      split
      · dsimp -zeta only
        assumption
      · refine K.readFactors ?_
        assumption
    split
    · rename_i v8_0 v8_1 e8
      have h8 : Keeps a v8_1 := by
        refine K.eq2 e8 ?_
        split
        · dsimp -zeta only
          assumption
        · refine K.readFactors ?_
          assumption
      split
      · split
        · extract_lets +onlyGivenNames z9
          have h9 : Keeps a z9 := by
            subst z9
            refine K.tally ?_
            refine K.incBy ?_
            assumption
          try clear_value z9
          extract_lets +onlyGivenNames z10
          try clear_value z10
          extract_lets +onlyGivenNames z11
          have h11 : Keeps a z11 := by
            subst z11
            refine K.incBy ?_
            assumption
          try clear_value z11
          extract_lets +onlyGivenNames z12
          try clear_value z12
          refine K.modPass ?_
          assumption

theorem K.writeDue {a : State} {s} {n} (hs : Keeps a s) : Keeps a (State.writeDue s n) := by
  unfold State.writeDue
  refine K.foldl ?_ ?_
  · assumption
  · intro y0 y1 k0
    extract_lets +onlyGivenNames z2
    have h2 : Keeps a z2 := by
      subst z2
      refine K.countCommitHold ?_
      assumption
    try clear_value z2
    refine K.ite ?_ ?_
    · assumption
    · split
      · rename_i v3_0 e3
        have h3 : Keeps a v3_0 := by
          refine KO.eq e3 ?_
          refine K.linesHeld ?_
          assumption
        assumption
      · refine K.ifRoom ?_ ?_
        · assumption
        · intro y4 k4
          refine K.passWrite ?_
          refine K.modPass ?_
          assumption

theorem K.dropFactors {a : State} {s} {m} {d} (hs : Keeps a s) : Keeps a (State.dropFactors s m d) := by
  unfold State.dropFactors
  extract_lets +onlyGivenNames z0
  try clear_value z0
  extract_lets +onlyGivenNames z1
  try clear_value z1
  extract_lets +onlyGivenNames z2
  try clear_value z2
  extract_lets +onlyGivenNames z3
  try clear_value z3
  refine K.modPass ?_
  assumption

theorem K.wordDone {a : State} {s} {m} {d} (hs : Keeps a s) : Keeps a (State.wordDone s m d) := by
  unfold State.wordDone
  extract_lets +onlyGivenNames z0
  have h0 : Keeps a z0 := by
    subst z0
    refine K.ite ?_ ?_
    · assumption
    · refine K.mwrNat ?_
      assumption
  try clear_value z0
  refine K.modPass ?_
  assumption

theorem K.reportStep {a : State} {s} (hs : Keeps a s) : Keeps a (State.reportStep s) := by
  unfold State.reportStep
  extract_lets +onlyGivenNames z0
  have h0 : Keeps a z0 := by
    subst z0
    refine K.foldl ?_ ?_
    · assumption
    · intro y1 y2 k1
      refine K.ite ?_ ?_
      · refine K.ev ?_
        assumption
      · refine K.evHub ?_
        assumption
  try clear_value z0
  extract_lets +onlyGivenNames z3
  have h3 : Keeps a z3 := by
    subst z3
    refine K.foldl ?_ ?_
    · assumption
    · intro y4 y5 k4
      refine K.evHub ?_
      assumption
  try clear_value z3
  refine K.modArrays ?_
  refine K.modPass ?_
  assumption

theorem K.assertDone {a : State} {s} (hs : Keeps a s) : Keeps a (State.assertDone s) := by
  unfold State.assertDone
  extract_lets +onlyGivenNames z0
  try clear_value z0
  extract_lets +onlyGivenNames z1
  have h1 : Keeps a z1 := by
    subst z1
    refine K.reportStep ?_
    assumption
  try clear_value z1
  extract_lets +onlyGivenNames z2
  have h2 : Keeps a z2 := by
    subst z2
    refine K.foldl ?_ ?_
    · assumption
    · intro y3 y4 k3
      refine K.wordDone ?_
      assumption
  try clear_value z2
  extract_lets +onlyGivenNames z5
  try clear_value z5
  extract_lets +onlyGivenNames z6
  try clear_value z6
  extract_lets +onlyGivenNames z7
  try clear_value z7
  extract_lets +onlyGivenNames z8
  have h8 : Keeps a z8 := by
    subst z8
    refine K.wr ?_
    refine K.wr ?_
    refine K.wr ?_
    assumption
  try clear_value z8
  split
  · rename_i v9_0 v9_1 e9
    have h9 : Keeps a v9_1 := by
      refine K.eq2 e9 ?_
      refine K.draw ?_
      assumption
    extract_lets +onlyGivenNames z10
    have h10 : Keeps a z10 := by
      subst z10
      refine K.wr ?_
      refine K.wr ?_
      refine K.wr ?_
      assumption
    try clear_value z10
    extract_lets +onlyGivenNames z11
    have h11 : Keeps a z11 := by
      subst z11
      refine K.modCouch ?_
      assumption
    try clear_value z11
    extract_lets +onlyGivenNames z12
    have h12 : Keeps a z12 := by
      subst z12
      refine K.modTiers ?_
      assumption
    try clear_value z12
    extract_lets +onlyGivenNames z13
    have h13 : Keeps a z13 := by
      subst z13
      refine K.freeBanks ?_
      assumption
    try clear_value z13
    extract_lets +onlyGivenNames z14
    have h14 : Keeps a z14 := by
      subst z14
      refine K.modPass ?_
      assumption
    try clear_value z14
    extract_lets +onlyGivenNames z15
    try clear_value z15
    refine K.bankWaiting ?_
    refine K.foldl ?_ ?_
    · assumption
    · intro y16 y17 k16
      refine K.squareChunk ?_
      assumption

theorem K.startTensor {a : State} {s} {m} (hs : Keeps a s) : Keeps a (State.startTensor s m) := by
  unfold State.startTensor
  split
  · assumption
  · extract_lets +onlyGivenNames z0
    try clear_value z0
    extract_lets +onlyGivenNames z1
    have Hz1 : ∀ {y0}, Keeps a y0 → Keeps a (z1 y0) := by
      subst z1
      intro y2 k2
      try dsimp -zeta only
      refine K.modPass ?_
      assumption
    try clear_value z1
    extract_lets +onlyGivenNames z3
    have Hz3 : ∀ {y0 y1}, Keeps a y0 → Keeps a (z3 y0 y1) := by
      subst z3
      intro y4 y5 k4
      try dsimp -zeta only
      refine K.modPass ?_
      assumption
    try clear_value z3
    refine K.ite ?_ ?_
    · assumption
    · split
      · refine Hz1 ?_
        assumption
      · refine K.ite ?_ ?_
        · extract_lets +onlyGivenNames z6
          try clear_value z6
          extract_lets +onlyGivenNames z7
          have Hz7 : ∀ {y0}, Keeps a y0 → Keeps a (z7 y0) := by
            subst z7
            intro y8 k8
            try dsimp -zeta only
            refine K.modArrays ?_
            refine K.modPass ?_
            assumption
          try clear_value z7
          split
          · assumption
          · refine K.foldl ?_ ?_
            · refine Hz1 ?_
              refine Hz7 ?_
              refine K.dropFactors ?_
              assumption
            · intro y9 y10 k9
              refine K.trimSlice ?_
              assumption
          · refine K.ite ?_ ?_
            · refine Hz3 ?_
              refine Hz7 ?_
              assumption
            · assumption
        · split
          · assumption
          · refine Hz1 ?_
            assumption
          · refine K.ite ?_ ?_
            · refine K.tally ?_
              refine Hz3 ?_
              refine K.inc ?_
              assumption
            · refine Hz3 ?_
              assumption
      · refine K.ite ?_ ?_
        · refine Hz3 ?_
          assumption
        · assumption

theorem K.computeFactors {a : State} {s} {m} {n} (hs : Keeps a s) : Keeps a (State.computeFactors s m n) := by
  unfold State.computeFactors
  split
  · assumption
  · extract_lets +onlyGivenNames z0
    try clear_value z0
    extract_lets +onlyGivenNames z1
    have h1 : Keeps a z1 := by
      subst z1
      refine K.ite ?_ ?_
      · assumption
      · refine K.foldl ?_ ?_
        · assumption
        · intro y2 y3 k2
          refine K.factorsOf ?_
          assumption
    try clear_value z1
    refine K.writeDue ?_
    assumption

theorem K.castTo {a : State} {s} {d} {i} {k} (hs : Keeps a s) : Keeps a (State.castTo s d i k) := by
  unfold State.castTo
  split
  · refine K.writeBank ?_
    assumption
  · assumption

theorem K.castFactors {a : State} {s} {m} {n} (hs : Keeps a s) : Keeps a (State.castFactors s m n) := by
  unfold State.castFactors
  split
  · extract_lets +onlyGivenNames z0
    try clear_value z0
    refine K.ite ?_ ?_
    · assumption
    · extract_lets +onlyGivenNames z1
      try clear_value z1
      extract_lets +onlyGivenNames z2
      have h2 : Keeps a z2 := by
        subst z2
        refine K.modArrays ?_
        assumption
      try clear_value z2
      refine K.foldl ?_ ?_
      · assumption
      · intro y3 y4 k3
        refine K.trimSlice ?_
        refine K.modArr ?_
        refine K.castTo ?_
        assumption
  · assumption

theorem K.oneTile {a : State} {s} {m} {n} {a'} {u} {e1} {e2} (hs : Keeps a s) : Keeps a (State.oneTile s m n a' u e1 e2) := by
  unfold State.oneTile
  split
  · assumption
  · split
    · assumption
    · extract_lets +onlyGivenNames z0
      try clear_value z0
      split
      · rename_i v1_0 v1_1 e1
        have h1 : Keeps a v1_1 := by
          refine K.eq2 e1 ?_
          refine K.runTile ?_
          assumption
        split
        · assumption
        · extract_lets +onlyGivenNames z2
          try clear_value z2
          extract_lets +onlyGivenNames z3
          have h3 : Keeps a z3 := by
            subst z3
            refine K.inc ?_
            refine K.modArr ?_
            assumption
          try clear_value z3
          refine K.countRange ?_
          assumption

theorem K.macPause {a : State} {s} {n} {arrays} (hs : Keeps a s) : Keeps a (State.macPause s n arrays) := by
  unfold State.macPause
  split
  · refine K.ite ?_ ?_
    · refine K.inc ?_
      refine K.modArr ?_
      assumption
    · assumption
  · assumption

theorem K.macGo {a : State} {s} {n} (hs : Keeps a s) : Keeps a (State.macGo s n) := by
  unfold State.macGo
  refine K.ite ?_ ?_
  · assumption
  · extract_lets +onlyGivenNames z0
    have h0 : Keeps a z0 := by
      subst z0
      refine K.modArr ?_
      assumption
    try clear_value z0
    split
    · refine K.macUpdates ?_
      assumption
    · assumption

theorem K.bankErrors {a : State} {s} {n} {i} {C} {rb} {cb} (hs : Keeps a s) : Keeps a (State.bankErrors s n i C rb cb).2 := by
  unfold State.bankErrors
  refine K.foldl2 ?_ ?_
  · dsimp -zeta only
    assumption
  · intro y0 y1 k0
    split
    · rename_i v2_0 v2_1 e2
      have h2 : Keeps a v2_1 := by
        refine K.eq2 e2 ?_
        refine K.takeInjection ?_
        assumption
      dsimp -zeta only
      refine K.sramRead ?_
      assumption

theorem K.recast {a : State} {s} {m} {n} {i} {b} {a'} (hs : Keeps a s) : Keeps a (State.recast s m n i b a') := by
  unfold State.recast
  split
  · assumption
  · extract_lets +onlyGivenNames z0
    have h0 : Keeps a z0 := by
      subst z0
      refine K.evSlice ?_
      refine K.inc ?_
      assumption
    try clear_value z0
    split
    · refine K.castTo ?_
      assumption
    · assumption

theorem K.logTile {a : State} {s} {m} {n} {bad} {e1} {e2} (hs : Keeps a s) : Keeps a (State.logTile s m n bad e1 e2) := by
  unfold State.logTile
  extract_lets +onlyGivenNames z0
  try clear_value z0
  split
  · assumption
  · split
    · assumption
    · split
      · rename_i v1_0 v1_1 e1
        have h1 : Keeps a v1_1 := by
          refine K.eq2 e1 ?_
          refine K.bankErrors ?_
          assumption
        extract_lets +onlyGivenNames z2
        have h2 : Keeps a z2 := by
          subst z2
          refine K.recast ?_
          assumption
        try clear_value z2
        extract_lets +onlyGivenNames z3
        have h3 : Keeps a z3 := by
          subst z3
          refine K.macPause ?_
          assumption
        try clear_value z3
        extract_lets +onlyGivenNames z4
        have h4 : Keeps a z4 := by
          subst z4
          refine K.foldl ?_ ?_
          · assumption
          · intro y5 y6 k5
            refine K.oneTile ?_
            assumption
        try clear_value z4
        extract_lets +onlyGivenNames z7
        have h7 : Keeps a z7 := by
          subst z7
          refine K.ite ?_ ?_
          · refine K.arrayWork ?_
            assumption
          · assumption
        try clear_value z7
        extract_lets +onlyGivenNames z8
        have h8 : Keeps a z8 := by
          subst z8
          refine K.trimSlice ?_
          assumption
        try clear_value z8
        refine K.macGo ?_
        assumption

theorem K.laneCheck {a : State} {s} {n} {a'} {a'3} (hs : Keeps a s) : Keeps a (State.laneCheck s n a' a'3).2 := by
  unfold State.laneCheck
  split
  · dsimp -zeta only
    assumption
  · dsimp -zeta only
    refine K.evSliceSecond ?_
    refine K.inc ?_
    assumption
  · extract_lets +onlyGivenNames z0
    have h0 : Keeps a z0 := by
      subst z0
      refine K.evSliceSecond ?_
      refine K.inc ?_
      assumption
    try clear_value z0
    dsimp -zeta only
    refine K.unitFailed ?_
    refine K.evSlice ?_
    assumption

theorem K.countSwept {a : State} {s} {a'} (hs : Keeps a s) : Keeps a (State.countSwept s a') := by
  unfold State.countSwept
  refine K.ite ?_ ?_
  · assumption
  · refine K.inc ?_
    refine K.of (s := s) ?_ rfl rfl rfl rfl rfl rfl rfl rfl rfl rfl rfl rfl rfl
    assumption

theorem K.markResult {a : State} {s} {as} {work} (hs : Keeps a s) : Keeps a (State.markResult s as work) := by
  unfold State.markResult
  extract_lets +onlyGivenNames z0
  have h0 : Keeps a z0 := by
    subst z0
    refine K.foldl ?_ ?_
    · assumption
    · intro y1 y2 k1
      refine K.spoil ?_
      assumption
  try clear_value z0
  split
  · refine K.spoil ?_
    assumption
  · assumption

theorem K.passLine {a : State} {s} {m} {n} {lanes} {bad} {chk} (hs : Keeps a s) : Keeps a (State.passLine s m n lanes bad chk) := by
  unfold State.passLine
  split
  · assumption
  · split
    · extract_lets +onlyGivenNames z0
      try clear_value z0
      extract_lets +onlyGivenNames z1
      try clear_value z1
      refine K.ite ?_ ?_
      · refine K.countSwept ?_
        assumption
      · split
        · assumption
        · rename_i e _
          exact KO.eq e (K.linesHeld hs)
        · rename_i e _
          refine K.ifRoom (KO2.eq e (KO2.ite (K.lineAv hs) (KO2.ofSome hs))) ?_
          · intro y2 k2
            split
            · rename_i v3_0 v3_1 e3
              have h3 : Keeps a v3_1 := by
                refine K.eq2 e3 ?_
                refine K.laneCheck ?_
                assumption
              refine K.ite ?_ ?_
              · assumption
              · extract_lets +onlyGivenNames z4
                try clear_value z4
                extract_lets +onlyGivenNames z5
                have h5 : Keeps a z5 := by
                  subst z5
                  split
                  · refine K.updateLine ?_
                    assumption
                  · split
                    · refine K.emaLine ?_
                      assumption
                    · assumption
                  · refine K.cursorLine ?_
                    assumption
                try clear_value z5
                extract_lets +onlyGivenNames z6
                have h6 : Keeps a z6 := by
                  subst z6
                  refine K.ite ?_ ?_
                  · assumption
                  · refine K.markResult ?_
                    assumption
                try clear_value z6
                refine K.afterLine ?_
                assumption
    · assumption

theorem K.checkWorking {a : State} {s} {m} {n} {again} (hs : Keeps a s) : Keeps a (State.checkWorking s m n again) := by
  unfold State.checkWorking
  split
  · refine K.ite ?_ ?_
    · assumption
    · refine K.ite ?_ ?_
      · refine K.tensorDone ?_
        assumption
      · extract_lets +onlyGivenNames z0
        have h0 : Keeps a z0 := by
          subst z0
          refine K.evHub ?_
          refine K.inc ?_
          assumption
        try clear_value z0
        extract_lets +onlyGivenNames z1
        have h1 : Keeps a z1 := by
          subst z1
          refine K.rederiveTensor ?_
          assumption
        try clear_value z1
        split
        · refine K.tensorDone ?_
          assumption
        · refine K.unitFailed ?_
          refine K.foldl ?_ ?_
          · assumption
          · intro y2 y3 k2
            refine K.evHub ?_
            assumption
  · assumption

theorem K.takeMark {a : State} {s} (hs : Keeps a s) : Keeps a (State.takeMark s) := by
  unfold State.takeMark
  extract_lets +onlyGivenNames z0
  try clear_value z0
  extract_lets +onlyGivenNames z1
  have h1 : Keeps a z1 := by
    subst z1
    refine K.wr ?_
    assumption
  try clear_value z1
  extract_lets +onlyGivenNames z2
  have h2 : Keeps a z2 := by
    subst z2
    refine K.readLists ?_
    assumption
  try clear_value z2
  extract_lets +onlyGivenNames z3
  have h3 : Keeps a z3 := by
    subst z3
    refine K.modPass ?_
    assumption
  try clear_value z3
  extract_lets +onlyGivenNames z4 z5
  try clear_value z4
  have h5 : Keeps a z5 := by
    subst z5
    refine K.of (s := z3) ?_ rfl rfl rfl rfl rfl rfl rfl rfl rfl rfl rfl rfl rfl
    assumption
  try clear_value z5
  refine K.writeSeeds ?_
  assumption

theorem K.driveDone {a : State} {s} (hs : Keeps a s) : Keeps a (State.driveDone s) := by
  unfold State.driveDone
  refine K.ite ?_ ?_
  · refine K.assertDone ?_
    refine K.modSensors ?_
    assumption
  · refine K.modSensors ?_
    assumption

theorem K.doneFrame {a : State} {s} (hs : Keeps a s) : Keeps a (State.doneFrame s) := by
  unfold State.doneFrame
  extract_lets +onlyGivenNames z0
  try clear_value z0
  extract_lets +onlyGivenNames z1
  have h1 : Keeps a z1 := by
    subst z1
    refine K.modSensors ?_
    assumption
  try clear_value z1
  refine K.ite ?_ ?_
  · refine K.ite ?_ ?_
    · refine K.modSensors ?_
      assumption
    · assumption
  · split
    · refine K.ite ?_ ?_
      · refine K.driveDone ?_
        assumption
      · assumption
    · assumption

theorem K.importAsk {a : State} {s} {b} (hs : Keeps a s) : Keeps a (State.importAsk s b).2 := by
  unfold State.importAsk
  extract_lets +onlyGivenNames z0
  try clear_value z0
  extract_lets +onlyGivenNames z1
  try clear_value z1
  extract_lets +onlyGivenNames z2
  try clear_value z2
  refine K.ite2 ?_ ?_
  · dsimp -zeta only
    assumption
  · refine K.ite2 ?_ ?_
    · dsimp -zeta only
      assumption
    · split
      · refine K.ite2 ?_ ?_
        · dsimp -zeta only
          assumption
        · dsimp -zeta only
          refine K.wr ?_
          refine K.modPass ?_
          assumption
      · dsimp -zeta only
        assumption

theorem K.importEnd {a : State} {s} (hs : Keeps a s) : Keeps a (State.importEnd s) := by
  unfold State.importEnd
  split
  · assumption
  · extract_lets +onlyGivenNames z0
    have h0 : Keeps a z0 := by
      subst z0
      refine K.modPass ?_
      assumption
    try clear_value z0
    split
    · refine K.wr ?_
      assumption
    · split
      · refine K.evHub ?_
        refine K.inc ?_
        refine K.wr ?_
        assumption
      · extract_lets +onlyGivenNames z1
        have h1 : Keeps a z1 := by
          subst z1
          refine K.mzero ?_
          assumption
        try clear_value z1
        extract_lets +onlyGivenNames z2
        have h2 : Keeps a z2 := by
          subst z2
          refine K.mwr ?_
          assumption
        try clear_value z2
        extract_lets +onlyGivenNames z3
        have h3 : Keeps a z3 := by
          subst z3
          refine K.ite ?_ ?_
          · refine K.foldl ?_ ?_
            · assumption
            · intro y4 y5 k4
              refine K.rederiveLine ?_
              assumption
          · assumption
        try clear_value z3
        refine K.wr ?_
        assumption

end Sys2Proof.Machine
end

