-- ==== Sys2Proof/Laws/Keeps/BisectOps.lean ====
section
/-!
SUPPORT. What the operations of Machine/BisectOps.lean keep: the canonical forms, the queue, the build, the test port, the sticky
registers and storage; every frame already handed over stays, and the log's sequence and the draws only rise.
-/

namespace Sys2Proof.Machine

theorem K.auditSend {a : State} {s} {dev} {f} (hs : Keeps a s) : Keeps a (State.auditSend s dev f) := by
  unfold State.auditSend
  split
  · refine K.ite ?_ ?_
    · assumption
    · refine K.send ?_
      assumption
  · assumption

theorem K.auditTake {a : State} {s} {f} {k} (hs : Keeps a s) (Hk : ∀ {y0}, Keeps a y0 → Keeps a (k y0)) : Keeps a (State.auditTake s f k) := by
  unfold State.auditTake
  extract_lets +onlyGivenNames z0
  try clear_value z0
  refine K.ite ?_ ?_
  · refine Hk ?_
    assumption
  · refine K.evSecond ?_
    refine K.inc ?_
    assumption

theorem K.pinChains {a : State} {s} {c} {lead} (hs : Keeps a s) : Keeps a (State.pinChains s c lead) := by
  unfold State.pinChains
  refine K.ite ?_ ?_
  · assumption
  · refine K.wr ?_
    refine K.modAudit ?_
    assumption

theorem K.compareWith {a : State} {s} {x} (hs : Keeps a s) : Keeps a (State.compareWith s x) := by
  unfold State.compareWith
  split
  · assumption
  · refine K.ite ?_ ?_
    · refine K.ev ?_
      refine K.wr ?_
      assumption
    · refine K.ite ?_ ?_
      · refine K.ite ?_ ?_
        · assumption
        · refine K.wr ?_
          assumption
      · extract_lets +onlyGivenNames z0
        have h0 : Keeps a z0 := by
          subst z0
          refine K.ite ?_ ?_
          · assumption
          · refine K.ev ?_
            refine K.inc ?_
            assumption
        try clear_value z0
        extract_lets +onlyGivenNames z1
        have h1 : Keeps a z1 := by
          subst z1
          refine K.ite ?_ ?_
          · assumption
          · refine K.ev ?_
            refine K.inc ?_
            assumption
        try clear_value z1
        refine K.pinChains ?_
        assumption

theorem K.compareCommit {a : State} {s} {c} (hs : Keeps a s) : Keeps a (State.compareCommit s c) := by
  unfold State.compareCommit
  extract_lets +onlyGivenNames z0
  try clear_value z0
  refine K.ite ?_ ?_
  · assumption
  · split
    · assumption
    · extract_lets +onlyGivenNames z1
      try clear_value z1
      extract_lets +onlyGivenNames z2
      have h2 : Keeps a z2 := by
        subst z2
        refine K.foldl ?_ ?_
        · assumption
        · intro y3 y4 k3
          refine K.auditSend ?_
          assumption
      try clear_value z2
      extract_lets +onlyGivenNames z5
      have h5 : Keeps a z5 := by
        subst z5
        refine K.wr ?_
        refine K.modAudit ?_
        assumption
      try clear_value z5
      extract_lets +onlyGivenNames z6
      have h6 : Keeps a z6 := by
        subst z6
        refine K.inc ?_
        assumption
      try clear_value z6
      extract_lets +onlyGivenNames z7
      have h7 : Keeps a z7 := by
        subst z7
        refine K.modAudit ?_
        assumption
      try clear_value z7
      refine K.ite ?_ ?_
      · assumption
      · refine K.foldl ?_ ?_
        · assumption
        · intro y8 y9 k8
          refine K.compareWith ?_
          assumption

theorem K.takeWatermark {a : State} {s} {f} (hs : Keeps a s) : Keeps a (State.takeWatermark s f) := by
  unfold State.takeWatermark
  extract_lets +onlyGivenNames z0
  try clear_value z0
  extract_lets +onlyGivenNames z1
  have h1 : Keeps a z1 := by
    subst z1
    refine K.modAudit ?_
    assumption
  try clear_value z1
  refine K.ite ?_ ?_
  · refine K.compareWith ?_
    assumption
  · assumption

theorem K.modBisect {a : State} {s} {f} (hs : Keeps a s) : Keeps a (State.modBisect s f) := by
  unfold State.modBisect
  refine K.modAudit ?_
  assumption

theorem K.endBisect {a : State} {s} {status} (hs : Keeps a s) : Keeps a (State.endBisect s status) := by
  unfold State.endBisect
  extract_lets +onlyGivenNames z0
  try clear_value z0
  extract_lets +onlyGivenNames z1
  have h1 : Keeps a z1 := by
    subst z1
    refine K.freeChains ?_
    refine K.wr ?_
    refine K.modAudit ?_
    assumption
  try clear_value z1
  split
  · refine K.ite ?_ ?_
    · refine K.foldl ?_ ?_
      · assumption
      · intro y2 y3 k2
        refine K.compareWith ?_
        assumption
    · assumption
  · assumption

theorem K.abandonBisect {a : State} {s} {cause} (hs : Keeps a s) : Keeps a (State.abandonBisect s cause) := by
  unfold State.abandonBisect
  split
  · assumption
  · refine K.endBisect ?_
    refine K.ev ?_
    refine K.inc ?_
    assumption

theorem K.yieldLog {a : State} {s} (hs : Keeps a s) : Keeps a (State.yieldLog s) := by
  unfold State.yieldLog
  refine K.ite ?_ ?_
  · refine K.abandonBisect ?_
    assumption
  · assumption

theorem K.joinRepairs {a : State} {s} {as} (hs : Keeps a s) : Keeps a (State.joinRepairs s as) := by
  unfold State.joinRepairs
  refine K.foldl ?_ ?_
  · assumption
  · intro y0 y1 k0
    refine K.openRepair ?_
    assumption

theorem K.sendQuery {a : State} {s} {b} {q} (hs : Keeps a s) : Keeps a (State.sendQuery s b q) := by
  unfold State.sendQuery
  extract_lets +onlyGivenNames z0
  try clear_value z0
  extract_lets +onlyGivenNames z1
  have h1 : Keeps a z1 := by
    subst z1
    refine K.modAudit ?_
    assumption
  try clear_value z1
  extract_lets +onlyGivenNames z2
  have h2 : Keeps a z2 := by
    subst z2
    refine K.inc ?_
    assumption
  try clear_value z2
  refine K.foldl ?_ ?_
  · assumption
  · intro y3 y4 k3
    refine K.auditSend ?_
    assumption

theorem K.bisectNext {a : State} {n} {s} (hs : Keeps a s) : Keeps a (State.bisectNext n s) := by
  induction n generalizing s with
  | zero => exact hs
  | succ n ih =>
    unfold State.bisectNext
    split
    · exact hs
    · refine K.ite hs ?_
      split
      · exact K.sendQuery (K.modBisect hs)
      · exact K.ite (ih (K.modBisect hs)) (K.sendQuery (K.joinRepairs (K.modBisect hs)))
      · exact K.ite (K.endBisect (K.ev (K.inc hs))) (ih (K.modBisect hs))
      all_goals first | exact hs | exact K.endBisect hs | exact ih (K.modBisect hs)

theorem K.startBisect {a : State} {s} {c} (hs : Keeps a s) : Keeps a (State.startBisect s c) := by
  unfold State.startBisect
  split
  · assumption
  · extract_lets +onlyGivenNames z0
    try clear_value z0
    refine K.ite ?_ ?_
    · assumption
    · extract_lets +onlyGivenNames z1
      try clear_value z1
      refine K.bisectNext ?_
      refine K.modBisect ?_
      assumption

theorem K.judgeQuery {a : State} {s} (hs : Keeps a s) : Keeps a (State.judgeQuery s) := by
  unfold State.judgeQuery
  split
  · assumption
  · split
    · assumption
    · refine K.ite ?_ ?_
      · assumption
      · extract_lets +onlyGivenNames z0
        try clear_value z0
        extract_lets +onlyGivenNames z1
        try clear_value z1
        refine K.bisectNext ?_
        refine K.modBisect ?_
        assumption

theorem K.nameLine {a : State} {s} {sp} {line} {c} {outcome} (hs : Keeps a s) : Keeps a (State.nameLine s sp line c outcome) := by
  unfold State.nameLine
  refine K.wrO ?_
  assumption

theorem K.lineRepaired {a : State} {s} {sp} {line} {c} {basis} (hs : Keeps a s) : Keeps a (State.lineRepaired s sp line c basis) := by
  unfold State.lineRepaired
  refine K.ev ?_
  refine K.nameLine ?_
  refine K.inc ?_
  assumption

theorem K.repairOwn {a : State} {s} {sp} {line} {img} (hs : Keeps a s) : Keeps a (State.repairOwn s sp line img) := by
  unfold State.repairOwn
  extract_lets +onlyGivenNames z0
  try clear_value z0
  split
  · refine K.inc ?_
    refine K.rederive ?_
    refine K.touchPage ?_
    refine K.mwr ?_
    assumption
  · assumption

theorem K.ownLine {a : State} {s} {c} {sp} {line} {own} (hs : Keeps a s) : Keeps a (State.ownLine s c sp line own).1 := by
  unfold State.ownLine
  extract_lets +onlyGivenNames z0
  try clear_value z0
  extract_lets +onlyGivenNames z1
  have h1 : Keeps a z1 := by
    subst z1
    split
    · refine K.lineRepaired ?_
      refine K.repairOwn ?_
      assumption
    · assumption
  try clear_value z1
  dsimp -zeta only
  assumption

theorem K.writeFix {a : State} {s} {x} {a'} (hs : Keeps a s) : Keeps a (State.writeFix s x a') := by
  unfold State.writeFix
  extract_lets +onlyGivenNames z0
  try clear_value z0
  extract_lets +onlyGivenNames z1
  try clear_value z1
  extract_lets +onlyGivenNames z2
  try clear_value z2
  extract_lets +onlyGivenNames z3
  try clear_value z3
  extract_lets +onlyGivenNames z4
  try clear_value z4
  extract_lets +onlyGivenNames z5
  try clear_value z5
  extract_lets +onlyGivenNames z6
  try clear_value z6
  extract_lets +onlyGivenNames z7
  have h7 : Keeps a z7 := by
    subst z7
    refine K.ite ?_ ?_
    · refine K.tally ?_
      refine K.incBy ?_
      assumption
    · refine K.tally ?_
      refine K.incBy ?_
      assumption
  try clear_value z7
  refine K.lineRepaired ?_
  refine K.rederive ?_
  refine K.passWrite ?_
  assumption

theorem K.tryFix {a : State} {s} {x} (hs : Keeps a s) : Keeps a (State.tryFix s x) := by
  unfold State.tryFix
  extract_lets +onlyGivenNames z0
  have Hz0 : ∀ {y0}, Keeps a y0 → Keeps a (z0 y0) := by
    subst z0
    intro y1 k1
    try dsimp -zeta only
    refine K.modAudit ?_
    assumption
  try clear_value z0
  split
  · assumption
  · refine K.ite ?_ ?_
    · refine Hz0 ?_
      assumption
    · split
      · rename_i v2_0 e2
        have h2 : Keeps a v2_0 := by
          refine KO.eq e2 ?_
          refine K.linesHeld ?_
          assumption
        refine Hz0 ?_
        assumption
      · extract_lets +onlyGivenNames z3
        have h3 : Keeps a z3 := by
          subst z3
          refine K.writeFix ?_
          assumption
        try clear_value z3
        refine K.ite ?_ ?_
        · assumption
        · refine Hz0 ?_
          refine K.holdAt ?_
          assumption

theorem K.tryFixes {a : State} {s} (hs : Keeps a s) : Keeps a (State.tryFixes s) := by
  unfold State.tryFixes
  refine K.foldl ?_ ?_
  · refine K.modAudit ?_
    assumption
  · intro y0 y1 k0
    refine K.tryFix ?_
    assumption

theorem K.correctLine {a : State} {s} {c} {sp} {line} {img} (hs : Keeps a s) : Keeps a (State.correctLine s c sp line img) := by
  unfold State.correctLine
  extract_lets +onlyGivenNames z0
  try clear_value z0
  refine K.tryFix ?_
  assumption

theorem K.decideLine {a : State} {s} (hs : Keeps a s) : Keeps a (State.decideLine s) := by
  unfold State.decideLine
  split
  · exact hs
  · split
    · refine K.ite hs ?_
      extract_lets +onlyGivenNames z0 z1 z2 z3 z4
      have h4 : Keeps a z4 := by
        subst z4
        exact K.modBisect hs
      clear_value z4 z3
      refine K.bisectNext (K.ite h4 ?_)
      cases z3 with
      | none => exact K.ev (K.nameLine (K.inc (K.modBisect h4)))
      | some v => exact K.foldl (K.modBisect h4) (fun _ _ k => K.ite (K.correctLine k) (K.auditSend k))
    · exact hs

theorem K.answerQuery {a : State} {s} {f} {own} (hs : Keeps a s) : Keeps a (State.answerQuery s f own) := by
  unfold State.answerQuery
  extract_lets +onlyGivenNames z0
  try clear_value z0
  extract_lets +onlyGivenNames z1
  try clear_value z1
  extract_lets +onlyGivenNames z2
  try clear_value z2
  refine K.ite ?_ ?_
  · split
    · rename_i v3_0 v3_1 v3_2 e3
      have h3 : Keeps a v3_0 := by
        refine K.eq1 e3 ?_
        refine K.ownLine ?_
        assumption
      refine K.auditSend ?_
      assumption
  · extract_lets +onlyGivenNames z4
    try clear_value z4
    refine K.auditSend ?_
    assumption

theorem K.takeQuery {a : State} {s} {f} {own} (hs : Keeps a s) : Keeps a (State.takeQuery s f own) := by
  unfold State.takeQuery
  extract_lets +onlyGivenNames z0
  try clear_value z0
  refine K.ite ?_ ?_
  · assumption
  · extract_lets +onlyGivenNames z1
    have h1 : Keeps a z1 := by
      subst z1
      refine K.inc ?_
      refine K.pinChains ?_
      assumption
    try clear_value z1
    split
    · refine K.answerQuery ?_
      assumption
    · refine K.modAudit ?_
      refine K.joinRepairs ?_
      assumption

theorem K.takeBisectAnswer {a : State} {s} {f} (hs : Keeps a s) : Keeps a (State.takeBisectAnswer s f) := by
  unfold State.takeBisectAnswer
  split
  · assumption
  · split
    · assumption
    · refine K.ite ?_ ?_
      · assumption
      · refine K.judgeQuery ?_
        refine K.modBisect ?_
        assumption

theorem K.dropAnswer {a : State} {s} {dev} (hs : Keeps a s) : Keeps a (State.dropAnswer s dev) := by
  unfold State.dropAnswer
  split
  · assumption
  · extract_lets +onlyGivenNames z0
    try clear_value z0
    refine K.ite ?_ ?_
    · assumption
    · extract_lets +onlyGivenNames z1
      have h1 : Keeps a z1 := by
        subst z1
        refine K.modBisect ?_
        assumption
      try clear_value z1
      refine K.ite ?_ ?_
      · split
        · rename_i v2_0 v2_1 e2
          have h2 : Keeps a v2_1 := by
            refine K.eq2 e2 ?_
            refine K.draw ?_
            assumption
          refine K.abandonBisect ?_
          assumption
      · refine K.decideLine ?_
        refine K.judgeQuery ?_
        assumption

theorem K.takeLine {a : State} {s} {f} {own} (hs : Keeps a s) : Keeps a (State.takeLine s f own) := by
  unfold State.takeLine
  extract_lets +onlyGivenNames z0
  try clear_value z0
  refine K.ite ?_ ?_
  · split
    · refine K.ite ?_ ?_
      · refine K.correctLine ?_
        assumption
      · assumption
    · assumption
  · split
    · assumption
    · refine K.ite ?_ ?_
      · assumption
      · extract_lets +onlyGivenNames z1
        have h1 : Keeps a z1 := by
          subst z1
          refine K.ite ?_ ?_
          · assumption
          · split
            · rename_i v2_0 v2_1 v2_2 e2
              have h2 : Keeps a v2_0 := by
                refine K.eq1 e2 ?_
                refine K.ownLine ?_
                assumption
              refine K.modBisect ?_
              assumption
        try clear_value z1
        refine K.decideLine ?_
        refine K.modBisect ?_
        assumption

theorem K.askWaiting {a : State} {s} (hs : Keeps a s) : Keeps a (State.askWaiting s) := by
  unfold State.askWaiting
  extract_lets +onlyGivenNames z0
  have h0 : Keeps a z0 := by
    subst z0
    refine K.foldl ?_ ?_
    · refine K.modAudit ?_
      assumption
    · intro y1 y2 k1
      refine K.ite ?_ ?_
      · refine K.answerQuery ?_
        assumption
      · refine K.modAudit ?_
        assumption
  try clear_value z0
  split
  · assumption
  · split
    · refine K.ite ?_ ?_
      · assumption
      · refine K.judgeQuery ?_
        refine K.modBisect ?_
        assumption
    · refine K.ite ?_ ?_
      · assumption
      · split
        · rename_i v3_0 v3_1 v3_2 e3
          have h3 : Keeps a v3_0 := by
            refine K.eq1 e3 ?_
            refine K.ownLine ?_
            assumption
          refine K.decideLine ?_
          refine K.modBisect ?_
          assumption
    · assumption

theorem K.askStream {a : State} {s} {b} (hs : Keeps a s) : Keeps a (State.askStream s b).2 := by
  unfold State.askStream
  extract_lets +onlyGivenNames z0
  try clear_value z0
  extract_lets +onlyGivenNames z1
  try clear_value z1
  extract_lets +onlyGivenNames z2
  try clear_value z2
  refine K.ite2 ?_ ?_
  · dsimp -zeta only
    assumption
  · refine K.ite2 ?_ ?_
    · dsimp -zeta only
      assumption
    · extract_lets +onlyGivenNames z3
      try clear_value z3
      dsimp -zeta only
      refine K.inc ?_
      refine K.wrO ?_
      assumption

theorem K.takeJobKey {a : State} {s} {b} (hs : Keeps a s) : Keeps a (State.takeJobKey s b).2 := by
  unfold State.takeJobKey
  extract_lets +onlyGivenNames z0
  have h0 : Keeps a z0 := by
    subst z0
    refine K.modAudit ?_
    assumption
  try clear_value z0
  dsimp -zeta only
  refine K.refreshSettings ?_
  refine K.wr ?_
  refine K.wr ?_
  assumption

end Sys2Proof.Machine
end

