-- ==== Sys2Proof/Laws/Keeps/ExchangeOps.lean ====
section
/-!
SUPPORT. What the operations of Machine/ExchangeOps.lean keep: the canonical forms, the queue, the build, the test port, the sticky
registers and storage; every frame already handed over stays, and the log's sequence and the draws only rise.
-/

namespace Sys2Proof.Machine

theorem K.modExch {a : State} {s} {f} (hs : Keeps a s) : Keeps a (State.modExch s f) := by
  unfold State.modExch
  refine K.of (s := s) ?_ rfl rfl rfl rfl rfl rfl rfl rfl rfl rfl rfl rfl rfl
  assumption

theorem K.haul {a : State} {s} {site} {shard} {f} (hs : Keeps a s) : Keeps a (State.haul s site shard f) := by
  unfold State.haul
  split
  · refine K.ite ?_ ?_
    · assumption
    · refine K.send ?_
      assumption
  · assumption

theorem K.haulAll {a : State} {s} {shard} {f} (hs : Keeps a s) : Keeps a (State.haulAll s shard f) := by
  unfold State.haulAll
  refine K.foldl ?_ ?_
  · assumption
  · intro y0 y1 k0
    refine K.haul ?_
    assumption

theorem K.putPay {a : State} {s} {p} (hs : Keeps a s) : Keeps a (State.putPay s p) := by
  unfold State.putPay
  refine K.modExch ?_
  assumption

theorem K.tellLead {a : State} {s} {x} (hs : Keeps a s) : Keeps a (State.tellLead s x) := by
  unfold State.tellLead
  refine K.ite ?_ ?_
  · assumption
  · extract_lets +onlyGivenNames z0
    have h0 : Keeps a z0 := by
      subst z0
      refine K.modExch ?_
      assumption
    try clear_value z0
    refine K.ite ?_ ?_
    · refine K.modExch ?_
      assumption
    · refine K.sendMember ?_
      assumption

theorem K.tryComplete {a : State} {s} {site} {shard} {round} (hs : Keeps a s) : Keeps a (State.tryComplete s site shard round) := by
  unfold State.tryComplete
  split
  · refine K.ite ?_ ?_
    · assumption
    · refine K.inc ?_
      refine K.tellLead ?_
      assumption
  · assumption

theorem K.xDrop {a : State} {s} {origin} {kind} {reason} (hs : Keeps a s) : Keeps a (State.xDrop s origin kind reason) := by
  unfold State.xDrop
  refine K.evHub ?_
  refine K.inc ?_
  assumption

theorem K.askRepair {a : State} {s} {site} {shard} {round} {block} {set} {bitmap} (hs : Keeps a s) : Keeps a (State.askRepair s site shard round block set bitmap) := by
  unfold State.askRepair
  extract_lets +onlyGivenNames z0
  have h0 : Keeps a z0 := by
    subst z0
    refine K.evHub ?_
    refine K.inc ?_
    assumption
  try clear_value z0
  refine K.haul ?_
  assumption

theorem K.putSet {a : State} {s} {t} (hs : Keeps a s) : Keeps a (State.putSet s t) := by
  unfold State.putSet
  refine K.modExch ?_
  assumption

theorem K.joinSets {a : State} {s} {t} (hs : Keeps a s) : Keeps a (State.joinSets s t) := by
  unfold State.joinSets
  extract_lets +onlyGivenNames z0
  try clear_value z0
  extract_lets +onlyGivenNames z1
  try clear_value z1
  extract_lets +onlyGivenNames z2
  try clear_value z2
  extract_lets +onlyGivenNames z3
  try clear_value z3
  refine K.ite ?_ ?_
  · extract_lets +onlyGivenNames z4
    try clear_value z4
    extract_lets +onlyGivenNames z5
    have h5 : Keeps a z5 := by
      subst z5
      refine K.modExch ?_
      assumption
    try clear_value z5
    extract_lets +onlyGivenNames z6
    have h6 : Keeps a z6 := by
      subst z6
      refine K.putPay ?_
      assumption
    try clear_value z6
    refine K.ite ?_ ?_
    · assumption
    · refine K.tryComplete ?_
      assumption
  · assumption

theorem K.takePacket {a : State} {s} {f} (hs : Keeps a s) : Keeps a (State.takePacket s f) := by
  unfold State.takePacket
  extract_lets +onlyGivenNames z0
  try clear_value z0
  refine K.ite ?_ ?_
  · refine K.xDrop ?_
    assumption
  · extract_lets +onlyGivenNames z1
    try clear_value z1
    extract_lets +onlyGivenNames z2
    try clear_value z2
    extract_lets +onlyGivenNames z3
    try clear_value z3
    extract_lets +onlyGivenNames z4
    try clear_value z4
    extract_lets +onlyGivenNames z5
    try clear_value z5
    extract_lets +onlyGivenNames z6
    try clear_value z6
    refine K.ite ?_ ?_
    · assumption
    · refine K.ite ?_ ?_
      · refine K.evHub ?_
        refine K.inc ?_
        assumption
      · extract_lets +onlyGivenNames z7
        try clear_value z7
        refine K.ite ?_ ?_
        · refine K.putSet ?_
          assumption
        · split
          · extract_lets +onlyGivenNames z8
            have h8 : Keeps a z8 := by
              subst z8
              refine K.ite ?_ ?_
              · refine K.inc ?_
                assumption
              · assumption
            try clear_value z8
            extract_lets +onlyGivenNames z9
            try clear_value z9
            refine K.joinSets ?_
            refine K.putSet ?_
            assumption
          · refine K.evHub ?_
            refine K.putSet ?_
            assumption

theorem K.answerRepair {a : State} {s} {f} {toSite} (hs : Keeps a s) : Keeps a (State.answerRepair s f toSite) := by
  unfold State.answerRepair
  extract_lets +onlyGivenNames z0
  try clear_value z0
  split
  · extract_lets +onlyGivenNames z1
    try clear_value z1
    extract_lets +onlyGivenNames z2
    try clear_value z2
    extract_lets +onlyGivenNames z3
    have h3 : Keeps a z3 := by
      subst z3
      refine K.inc ?_
      assumption
    try clear_value z3
    refine K.foldl ?_ ?_
    · assumption
    · intro y4 y5 k4
      refine K.haul ?_
      assumption
  · assumption

theorem K.askLacking {a : State} {s} {f} (hs : Keeps a s) : Keeps a (State.askLacking s f) := by
  unfold State.askLacking
  refine K.foldl ?_ ?_
  · assumption
  · intro y0 y1 k0
    refine K.foldl ?_ ?_
    · assumption
    · intro y2 y3 k2
      refine K.askRepair ?_
      assumption

theorem K.keepManifest {a : State} {s} {f} (hs : Keeps a s) : Keeps a (State.keepManifest s f) := by
  unfold State.keepManifest
  extract_lets +onlyGivenNames z0
  try clear_value z0
  extract_lets +onlyGivenNames z1
  have h1 : Keeps a z1 := by
    subst z1
    refine K.modExch ?_
    assumption
  try clear_value z1
  extract_lets +onlyGivenNames z2
  have h2 : Keeps a z2 := by
    subst z2
    refine K.wrO ?_
    assumption
  try clear_value z2
  extract_lets +onlyGivenNames z3
  have h3 : Keeps a z3 := by
    subst z3
    refine K.wrO ?_
    assumption
  try clear_value z3
  extract_lets +onlyGivenNames z4
  have h4 : Keeps a z4 := by
    subst z4
    refine K.ite ?_ ?_
    · refine K.foldl ?_ ?_
      · assumption
      · intro y5 y6 k5
        refine K.haulAll ?_
        assumption
    · assumption
  try clear_value z4
  refine K.askLacking ?_
  assumption

theorem K.takeManifest {a : State} {s} {f} (hs : Keeps a s) : Keeps a (State.takeManifest s f) := by
  unfold State.takeManifest
  refine K.ite ?_ ?_
  · refine K.keepManifest ?_
    assumption
  · assumption

theorem K.countLate {a : State} {s} {k} (hs : Keeps a s) : Keeps a (State.countLate s k) := by
  unfold State.countLate
  extract_lets +onlyGivenNames z0
  try clear_value z0
  refine K.ite ?_ ?_
  · assumption
  · refine K.foldl ?_ ?_
    · assumption
    · intro y1 y2 k1
      refine K.evHub ?_
      refine K.inc ?_
      assumption

theorem K.closeRound {a : State} {s} {k} (hs : Keeps a s) : Keeps a (State.closeRound s k) := by
  unfold State.closeRound
  refine K.ite ?_ ?_
  · assumption
  · extract_lets +onlyGivenNames z0
    try clear_value z0
    extract_lets +onlyGivenNames z1
    have h1 : Keeps a z1 := by
      subst z1
      refine K.foldl ?_ ?_
      · assumption
      · intro y2 y3 k2
        refine K.sendMember ?_
        assumption
    try clear_value z1
    refine K.countLate ?_
    refine K.keepManifest ?_
    assumption

theorem K.writeBlock {a : State} {s} {m} {d} {src} {b} {v} (hs : Keeps a s) : Keeps a (State.writeBlock s m d src b v) := by
  unfold State.writeBlock
  extract_lets +onlyGivenNames z0
  try clear_value z0
  extract_lets +onlyGivenNames z1
  have h1 : Keeps a z1 := by
    subst z1
    refine K.tally ?_
    refine K.incBy ?_
    assumption
  try clear_value z1
  refine K.foldl ?_ ?_
  · assumption
  · intro y2 y3 k2
    split
    · extract_lets +onlyGivenNames z4
      try clear_value z4
      extract_lets +onlyGivenNames z5
      try clear_value z5
      refine K.passWrite ?_
      assumption
    · assumption

theorem K.sendAnchors {a : State} {s} {m} {anchor} {shard} {block} {b} {k} (hs : Keeps a s) : Keeps a (State.sendAnchors s m anchor shard block b k) := by
  unfold State.sendAnchors
  extract_lets +onlyGivenNames z0
  try clear_value z0
  refine K.foldl ?_ ?_
  · assumption
  · intro y1 y2 k1
    refine K.foldl ?_ ?_
    · assumption
    · intro y3 y4 k3
      refine K.haul ?_
      assumption

theorem K.endShard {a : State} {s} {k} {shard} (hs : Keeps a s) : Keeps a (State.endShard s k shard) := by
  unfold State.endShard
  extract_lets +onlyGivenNames z0
  try clear_value z0
  extract_lets +onlyGivenNames z1
  try clear_value z1
  split
  · extract_lets +onlyGivenNames z2
    try clear_value z2
    split
    · refine K.ite ?_ ?_
      · assumption
      · refine K.evHub ?_
        refine K.modExch ?_
        assumption
    · extract_lets +onlyGivenNames z3
      have h3 : Keeps a z3 := by
        subst z3
        refine K.modExch ?_
        assumption
      try clear_value z3
      extract_lets +onlyGivenNames z4
      have h4 : Keeps a z4 := by
        subst z4
        refine K.haulAll ?_
        assumption
      try clear_value z4
      refine K.tellLead ?_
      assumption

theorem K.trimRounds {a : State} {s} {k} (hs : Keeps a s) : Keeps a (State.trimRounds s k) := by
  unfold State.trimRounds
  extract_lets +onlyGivenNames z0
  try clear_value z0
  refine K.modExch ?_
  assumption

theorem K.tellDetached {a : State} {s} {k} {c} (hs : Keeps a s) : Keeps a (State.tellDetached s k c) := by
  unfold State.tellDetached
  refine K.ite ?_ ?_
  · assumption
  · refine K.evHub ?_
    assumption

theorem K.endSweep {a : State} {s} {k} {at_} (hs : Keeps a s) : Keeps a (State.endSweep s k at_) := by
  unfold State.endSweep
  extract_lets +onlyGivenNames z0
  try clear_value z0
  extract_lets +onlyGivenNames z1
  have h1 : Keeps a z1 := by
    subst z1
    refine K.wr ?_
    assumption
  try clear_value z1
  extract_lets +onlyGivenNames z2
  have h2 : Keeps a z2 := by
    subst z2
    refine K.ite ?_ ?_
    · assumption
    · refine K.foldl ?_ ?_
      · assumption
      · intro y3 y4 k3
        refine K.endShard ?_
        assumption
  try clear_value z2
  extract_lets +onlyGivenNames z5
  have h5 : Keeps a z5 := by
    subst z5
    refine K.modExch ?_
    assumption
  try clear_value z5
  extract_lets +onlyGivenNames z6
  have h6 : Keeps a z6 := by
    subst z6
    split
    · refine K.tellDetached ?_
      refine K.wr ?_
      refine K.modExch ?_
      assumption
    · refine K.ite ?_ ?_
      · assumption
      · refine K.wr ?_
        assumption
  try clear_value z6
  extract_lets +onlyGivenNames z7
  have h7 : Keeps a z7 := by
    subst z7
    refine K.modExch ?_
    assumption
  try clear_value z7
  refine K.trimRounds ?_
  assumption

theorem K.startSweep {a : State} {s} (hs : Keeps a s) : Keeps a (State.startSweep s) := by
  unfold State.startSweep
  split
  · assumption
  · extract_lets +onlyGivenNames z0
    try clear_value z0
    refine K.ite ?_ ?_
    · assumption
    · extract_lets +onlyGivenNames z1
      have h1 : Keeps a z1 := by
        subst z1
        refine K.wr ?_
        assumption
      try clear_value z1
      extract_lets +onlyGivenNames z2
      have h2 : Keeps a z2 := by
        subst z2
        refine K.modExch ?_
        assumption
      try clear_value z2
      refine K.ite ?_ ?_
      · split
        · refine K.ite ?_ ?_
          · refine K.wr ?_
            refine K.evHub ?_
            refine K.wr ?_
            refine K.modExch ?_
            assumption
          · assumption
        · assumption
      · refine K.wr ?_
        assumption

theorem K.unholdSweep {a : State} {s} (hs : Keeps a s) : Keeps a (State.unholdSweep s) := by
  unfold State.unholdSweep
  split
  · refine K.wr ?_
    refine K.incBy ?_
    refine K.modExch ?_
    assumption
  · assumption

theorem K.holdSweep {a : State} {s} {k} {shard} {block} (hs : Keeps a s) : Keeps a (State.holdSweep s k shard block) := by
  unfold State.holdSweep
  refine K.ite ?_ ?_
  · refine K.evHub ?_
    refine K.modExch ?_
    refine K.unholdSweep ?_
    assumption
  · refine K.ite ?_ ?_
    · assumption
    · extract_lets +onlyGivenNames z0
      try clear_value z0
      extract_lets +onlyGivenNames z1
      have h1 : Keeps a z1 := by
        subst z1
        refine K.foldl ?_ ?_
        · assumption
        · intro y2 y3 k2
          refine K.ite ?_ ?_
          · refine K.askRepair ?_
            assumption
          · assumption
      try clear_value z1
      refine K.evHub ?_
      refine K.wr ?_
      refine K.modExch ?_
      assumption

theorem K.nextBlock {a : State} {s} {k} {b} {at_} (hs : Keeps a s) : Keeps a (State.nextBlock s k b at_) := by
  unfold State.nextBlock
  extract_lets +onlyGivenNames z0
  have h0 : Keeps a z0 := by
    subst z0
    refine K.modExch ?_
    refine K.inc ?_
    assumption
  try clear_value z0
  refine K.ite ?_ ?_
  · refine K.endSweep ?_
    assumption
  · assumption

theorem K.visitBlock {a : State} {s} {m} {k} {shard} {block} {b} {dm} {da} {ds} (hs : Keeps a s) : Keeps a (State.visitBlock s m k shard block b dm da ds) := by
  unfold State.visitBlock
  refine K.ite ?_ ?_
  · refine K.writeBlock ?_
    assumption
  · refine K.ite ?_ ?_
    · extract_lets +onlyGivenNames z0
      try clear_value z0
      extract_lets +onlyGivenNames z1
      try clear_value z1
      refine K.writeBlock ?_
      refine K.writeBlock ?_
      refine K.writeBlock ?_
      assumption
    · extract_lets +onlyGivenNames z2
      try clear_value z2
      extract_lets +onlyGivenNames z3
      try clear_value z3
      extract_lets +onlyGivenNames z4
      try clear_value z4
      extract_lets +onlyGivenNames z5
      try clear_value z5
      extract_lets +onlyGivenNames z6
      try clear_value z6
      extract_lets +onlyGivenNames z7
      have h7 : Keeps a z7 := by
        subst z7
        refine K.ite ?_ ?_
        · assumption
        · refine K.drawn (s := s) ?_ (by omega)
          assumption
      try clear_value z7
      extract_lets +onlyGivenNames z8
      have h8 : Keeps a z8 := by
        subst z8
        refine K.writeBlock ?_
        assumption
      try clear_value z8
      extract_lets +onlyGivenNames z9
      have h9 : Keeps a z9 := by
        subst z9
        refine K.writeBlock ?_
        assumption
      try clear_value z9
      extract_lets +onlyGivenNames z10
      have h10 : Keeps a z10 := by
        subst z10
        refine K.writeBlock ?_
        assumption
      try clear_value z10
      extract_lets +onlyGivenNames z11
      have h11 : Keeps a z11 := by
        subst z11
        refine K.putPay ?_
        assumption
      try clear_value z11
      extract_lets +onlyGivenNames z12
      try clear_value z12
      extract_lets +onlyGivenNames z13
      try clear_value z13
      extract_lets +onlyGivenNames z14
      have h14 : Keeps a z14 := by
        subst z14
        refine K.ite ?_ ?_
        · assumption
        · refine K.incBy ?_
          refine K.incBy ?_
          refine K.foldl ?_ ?_
          · assumption
          · intro y15 y16 k15
            refine K.haulAll ?_
            assumption
      try clear_value z14
      refine K.sendAnchors ?_
      assumption

theorem K.sweepBlock {a : State} {s} (hs : Keeps a s) : Keeps a (State.sweepBlock s) := by
  unfold State.sweepBlock
  split
  · split
    · refine K.endSweep ?_
      assumption
    · extract_lets +onlyGivenNames z0
      try clear_value z0
      split
      · extract_lets +onlyGivenNames z1
        try clear_value z1
        extract_lets +onlyGivenNames z2
        try clear_value z2
        extract_lets +onlyGivenNames z3
        try clear_value z3
        refine K.ite ?_ ?_
        · assumption
        · refine K.ite ?_ ?_
          · refine K.ite ?_ ?_
            · assumption
            · refine K.holdSweep ?_
              assumption
          · split
            · rename_i v4_0 e4
              have h4 : Keeps a v4_0 := by
                refine KO.eq e4 ?_
                refine K.linesHeld ?_
                assumption
              assumption
            · refine K.ifRoom ?_ ?_
              · assumption
              · intro y5 k5
                refine K.nextBlock ?_
                refine K.visitBlock ?_
                refine K.unholdSweep ?_
                assumption
      · refine K.nextBlock ?_
        assumption
  · assumption

theorem K.detachSite {a : State} {s} (hs : Keeps a s) : Keeps a (State.detachSite s) := by
  unfold State.detachSite
  refine K.ite ?_ ?_
  · assumption
  · refine K.modExch ?_
    refine K.unholdSweep ?_
    assumption

theorem K.askSite {a : State} {s} (hs : Keeps a s) : Keeps a (State.askSite s).2 := by
  unfold State.askSite
  refine K.ite2 ?_ ?_
  · dsimp -zeta only
    assumption
  · dsimp -zeta only
    refine K.wr ?_
    refine K.haul ?_
    assumption

theorem K.judgeSite {a : State} {s} {f} (hs : Keeps a s) : Keeps a (State.judgeSite s f) := by
  unfold State.judgeSite
  extract_lets +onlyGivenNames z0
  try clear_value z0
  extract_lets +onlyGivenNames z1
  try clear_value z1
  extract_lets +onlyGivenNames z2
  try clear_value z2
  extract_lets +onlyGivenNames z3
  try clear_value z3
  extract_lets +onlyGivenNames z4
  try clear_value z4
  extract_lets +onlyGivenNames z5
  have h5 : Keeps a z5 := by
    subst z5
    refine K.ite ?_ ?_
    · refine K.modExch ?_
      assumption
    · assumption
  try clear_value z5
  refine K.haul ?_
  assumption

theorem K.takeAnswer {a : State} {s} {f} (hs : Keeps a s) : Keeps a (State.takeAnswer s f) := by
  unfold State.takeAnswer
  refine K.ite ?_ ?_
  · assumption
  · refine K.ite ?_ ?_
    · refine K.evHub ?_
      refine K.wr ?_
      assumption
    · refine K.modExch ?_
      assumption

theorem K.takeSummary {a : State} {s} {f} (hs : Keeps a s) : Keeps a (State.takeSummary s f) := by
  unfold State.takeSummary
  extract_lets +onlyGivenNames z0
  try clear_value z0
  extract_lets +onlyGivenNames z1
  try clear_value z1
  extract_lets +onlyGivenNames z2
  try clear_value z2
  refine K.ite ?_ ?_
  · refine K.xDrop ?_
    assumption
  · refine K.ite ?_ ?_
    · refine K.xDrop ?_
      assumption
    · extract_lets +onlyGivenNames z3
      try clear_value z3
      extract_lets +onlyGivenNames z4
      have h4 : Keeps a z4 := by
        subst z4
        refine K.modExch ?_
        assumption
      try clear_value z4
      refine K.tryComplete ?_
      assumption

theorem K.takeComplete {a : State} {s} {f} (hs : Keeps a s) : Keeps a (State.takeComplete s f) := by
  unfold State.takeComplete
  extract_lets +onlyGivenNames z0
  try clear_value z0
  refine K.ite ?_ ?_
  · assumption
  · refine K.modExch ?_
    assumption

theorem K.waitRepair {a : State} {s} {site} {shard} {round} {block} {set} (hs : Keeps a s) : Keeps a (State.waitRepair s site shard round block set) := by
  unfold State.waitRepair
  refine K.ite ?_ ?_
  · assumption
  · split
    · refine K.ite ?_ ?_
      · assumption
      · refine K.askRepair ?_
        assumption
    · refine K.ite ?_ ?_
      · refine K.askRepair ?_
        assumption
      · assumption

theorem K.exchStart {a : State} {s} (hs : Keeps a s) : Keeps a (State.exchStart s) := by
  unfold State.exchStart
  refine K.ite ?_ ?_
  · assumption
  · refine K.wr ?_
    refine K.modExch ?_
    assumption

theorem K.exchLossCut {a : State} {s} {c} (hs : Keeps a s) : Keeps a (State.exchLossCut s c) := by
  unfold State.exchLossCut
  extract_lets +onlyGivenNames z0
  try clear_value z0
  extract_lets +onlyGivenNames z1
  have h1 : Keeps a z1 := by
    subst z1
    refine K.modExch ?_
    assumption
  try clear_value z1
  refine K.ite ?_ ?_
  · refine K.wr ?_
    assumption
  · assumption

theorem K.exchRoutes {a : State} {s} (hs : Keeps a s) : Keeps a (State.exchRoutes s) := by
  unfold State.exchRoutes
  extract_lets +onlyGivenNames z0
  try clear_value z0
  extract_lets +onlyGivenNames z1
  try clear_value z1
  refine K.wrO ?_
  assumption

theorem K.exchClear {a : State} {s} (hs : Keeps a s) : Keeps a (State.exchClear s) := by
  unfold State.exchClear
  refine K.of (s := s) ?_ rfl rfl rfl rfl rfl rfl rfl rfl rfl rfl rfl rfl rfl
  assumption

end Sys2Proof.Machine
end

