-- ==== Sys2Proof/Laws/Keeps/YardOps.lean ====
section
/-!
SUPPORT. What the operations of Machine/YardOps.lean keep: the canonical forms, the queue, the build, the test port, the sticky
registers and storage; every frame already handed over stays, and the log's sequence and the draws only rise.
-/

namespace Sys2Proof.Machine

theorem K.yRefresh {a : State} {s} (hs : Keeps a s) : Keeps a (State.yRefresh s) := by
  unfold State.yRefresh
  extract_lets +onlyGivenNames z0
  try clear_value z0
  extract_lets +onlyGivenNames z1
  try clear_value z1
  extract_lets +onlyGivenNames z2
  have h2 : Keeps a z2 := by
    subst z2
    refine K.wr ?_
    assumption
  try clear_value z2
  extract_lets +onlyGivenNames z3
  have h3 : Keeps a z3 := by
    subst z3
    refine K.wr ?_
    assumption
  try clear_value z3
  extract_lets +onlyGivenNames z4
  have h4 : Keeps a z4 := by
    subst z4
    refine K.wr ?_
    assumption
  try clear_value z4
  refine K.foldl ?_ ?_
  · assumption
  · intro y5 y6 k5
    extract_lets +onlyGivenNames z7
    try clear_value z7
    extract_lets +onlyGivenNames z8
    have h8 : Keeps a z8 := by
      subst z8
      refine K.wrO ?_
      assumption
    try clear_value z8
    refine K.wrOf ?_
    assumption

theorem K.yDemotePage {a : State} {s} {r} {v} (hs : Keeps a s) : KO a (State.yDemotePage s r v) := by
  unfold State.yDemotePage
  exact KO.map fun b => K.fIssue (K.inc (K.yPutPage (K.modYard hs)))

theorem K.yDemote {a : State} {s} {r} {n} (hs : Keeps a s) : KO a (State.yDemote s r n) := by
  unfold State.yDemote
  extract_lets +onlyGivenNames z0
  try clear_value z0
  extract_lets +onlyGivenNames z1
  try clear_value z1
  extract_lets +onlyGivenNames z2
  try clear_value z2
  split
  · extract_lets +onlyGivenNames z3
    try clear_value z3
    extract_lets +onlyGivenNames z4
    have h4 : Keeps a z4 := by
      subst z4
      refine K.modYard ?_
      assumption
    try clear_value z4
    extract_lets +onlyGivenNames z5
    have h5 : Keeps a z5 := by
      subst z5
      refine K.foldl ?_ ?_
      · assumption
      · intro y6 y7 k6
        refine K.yPutPage ?_
        assumption
    try clear_value z5
    refine K.yDemotePage ?_
    assumption
  · exact KO.ofNone

theorem K.yMakeRoom {a : State} {s} {r} {n} (hs : Keeps a s) : KO a (State.yMakeRoom s r n) := by
  unfold State.yMakeRoom
  refine KO.ite ?_ ?_
  · refine KO.ofSome ?_
    assumption
  · refine K.yDemote ?_
    assumption

theorem K.yNoRoom {a : State} {s} {r} {n} (hs : Keeps a s) : Keeps a (State.yNoRoom s r n) := by
  unfold State.yNoRoom
  refine K.evHub ?_
  refine K.inc ?_
  assumption

theorem K.yFetch {a : State} {s} {r} {page} (hs : Keeps a s) : KO a (State.yFetch s r page) := by
  unfold State.yFetch
  split
  · refine KO.ite (KO.ofSome hs) (KO.ite (KO.ite (KO.ofSome hs) (KO.ofSome (K.fIssue (K.yPutPage (K.modYard hs))))) ?_)
    extract_lets n
    split
    · exact K.yMakeRoom hs
    · exact KO.ofSome (K.fIssue (K.yPutPage (K.inc (K.modYard hs))))
  · exact KO.ofSome hs

theorem K.yBack {a : State} {s} {r} {page} (hs : Keeps a s) : KO1 a (State.yBack s r page) := by
  unfold State.yBack
  refine KO1.ite (KO1.map fun b => K.mzero (K.yStage (K.yPutPage hs))) ?_
  try extract_lets n
  split
  · exact KO1.ofSome (K.mzero (K.yPutPage hs))
  · refine KO1.ite ?_ KO1.ofNone
    cases e : s.yMakeRoom r (s.yHome r.num page).1 with
    | none => exact KO1.ofNone
    | some t => exact KO1.ofSome (K.yMakeRoom hs t e)

theorem K.ySend {a : State} {s} {dst} {f} (hs : Keeps a s) : Keeps a (State.ySend s dst f) := by
  unfold State.ySend
  refine K.ite ?_ ?_
  · refine K.modYard ?_
    assumption
  · refine K.ite ?_ ?_
    · assumption
    · refine K.send ?_
      assumption

theorem K.yTake {a : State} {s} {f} {k} (hs : Keeps a s) (Hk : ∀ {y0}, Keeps a y0 → Keeps a (k y0)) : Keeps a (State.yTake s f k) := by
  unfold State.yTake
  extract_lets +onlyGivenNames z0
  try clear_value z0
  refine K.ite ?_ ?_
  · refine K.evSecond ?_
    refine K.inc ?_
    assumption
  · refine Hk ?_
    refine K.modYard ?_
    assumption

theorem K.errorResp {a : State} {s} {q} (hs : Keeps a s) : Keeps a (State.errorResp s q) := by
  unfold State.errorResp
  refine K.ite ?_ ?_
  · refine K.answer ?_
    assumption
  · refine K.answer ?_
    assumption

theorem K.yEmit {a : State} {s} {o} {retry} (hs : Keeps a s) : Keeps a (State.yEmit s o retry) := by
  unfold State.yEmit
  extract_lets +onlyGivenNames z0
  try clear_value z0
  refine K.ySend ?_
  assumption

theorem K.yPutOp {a : State} {s} {o} (hs : Keeps a s) : Keeps a (State.yPutOp s o) := by
  unfold State.yPutOp
  refine K.modYard ?_
  assumption

theorem K.yPumpOne {a : State} {s} {ord} (hs : Keeps a s) : Keeps a (State.yPumpOne s ord) := by
  unfold State.yPumpOne
  split
  · assumption
  · extract_lets +onlyGivenNames z0
    try clear_value z0
    extract_lets +onlyGivenNames z1
    try clear_value z1
    extract_lets +onlyGivenNames z2
    have h2 : Keeps a z2 := by
      subst z2
      refine K.ite ?_ ?_
      · assumption
      · refine K.inc ?_
        assumption
    try clear_value z2
    extract_lets +onlyGivenNames z3
    try clear_value z3
    extract_lets +onlyGivenNames z4
    have h4 : Keeps a z4 := by
      subst z4
      refine K.ite ?_ ?_
      · refine K.foldl ?_ ?_
        · assumption
        · intro y5 y6 k5
          refine K.answer ?_
          assumption
      · assumption
    try clear_value z4
    extract_lets +onlyGivenNames z7
    try clear_value z7
    extract_lets +onlyGivenNames z8
    try clear_value z8
    refine K.ite ?_ ?_
    · refine K.yPutOp ?_
      assumption
    · extract_lets +onlyGivenNames z9
      try clear_value z9
      extract_lets +onlyGivenNames z10
      have h10 : Keeps a z10 := by
        subst z10
        refine K.modYard ?_
        assumption
      try clear_value z10
      extract_lets +onlyGivenNames z11
      try clear_value z11
      refine K.yEmit ?_
      refine K.yPutOp ?_
      assumption

theorem K.yPump {a : State} {s} (hs : Keeps a s) : Keeps a (State.yPump s) := by
  unfold State.yPump
  refine K.foldl ?_ ?_
  · assumption
  · intro y0 y1 k0
    refine K.yPumpOne ?_
    assumption

theorem K.yAccept {a : State} {s} {o} (hs : Keeps a s) : Keeps a (State.yAccept s o) := by
  unfold State.yAccept
  extract_lets +onlyGivenNames z0
  try clear_value z0
  split
  · split
    · refine K.yPump ?_
      refine K.yPutOp ?_
      assumption
  · extract_lets +onlyGivenNames z1
    try clear_value z1
    refine K.yPump ?_
    refine K.modYard ?_
    assumption

theorem K.refusePoison {a : State} {s} {q} (hs : Keeps a s) : Keeps a (State.refusePoison s q) := by
  unfold State.refusePoison
  refine K.refuse ?_
  refine K.ev ?_
  refine K.inc ?_
  assumption

theorem K.yHost {a : State} {s} {q} (hs : Keeps a s) : Keeps a (State.yHost s q) := by
  unfold State.yHost
  extract_lets +onlyGivenNames z0
  try clear_value z0
  extract_lets +onlyGivenNames z1
  try clear_value z1
  extract_lets +onlyGivenNames z2
  try clear_value z2
  extract_lets +onlyGivenNames z3
  try clear_value z3
  refine K.ite ?_ ?_
  · refine K.errorResp ?_
    assumption
  · refine K.ite ?_ ?_
    · refine K.refusePoison ?_
      assumption
    · refine K.yAccept ?_
      assumption

theorem K.yShowListed {a : State} {s} (hs : Keeps a s) : Keeps a (State.yShowListed s) := by
  unfold State.yShowListed
  extract_lets +onlyGivenNames z0
  try clear_value z0
  extract_lets +onlyGivenNames z1
  have h1 : Keeps a z1 := by
    subst z1
    refine K.wrO ?_
    assumption
  try clear_value z1
  refine K.wr ?_
  assumption

theorem K.yFences {a : State} {s} (hs : Keeps a s) : Keeps a (State.yFences s) := by
  unfold State.yFences
  extract_lets +onlyGivenNames z0
  try clear_value z0
  extract_lets +onlyGivenNames z1
  have h1 : Keeps a z1 := by
    subst z1
    refine K.modYard ?_
    assumption
  try clear_value z1
  refine K.foldl ?_ ?_
  · assumption
  · intro y2 y3 k2
    refine K.answer ?_
    assumption

theorem K.yList {a : State} {s} {o} {kind} (hs : Keeps a s) : Keeps a (State.yList s o kind) := by
  unfold State.yList
  refine K.ite ?_ ?_
  · assumption
  · extract_lets +onlyGivenNames z0
    try clear_value z0
    refine K.yShowListed ?_
    refine K.modYard ?_
    assumption

theorem K.yIndeterminate {a : State} {s} {o} (hs : Keeps a s) : Keeps a (State.yIndeterminate s o) := by
  unfold State.yIndeterminate
  extract_lets +onlyGivenNames z0
  have h0 : Keeps a z0 := by
    subst z0
    refine K.modYard ?_
    assumption
  try clear_value z0
  extract_lets +onlyGivenNames z1
  have h1 : Keeps a z1 := by
    subst z1
    refine K.yList ?_
    assumption
  try clear_value z1
  extract_lets +onlyGivenNames z2
  have h2 : Keeps a z2 := by
    subst z2
    refine K.journal ?_
    assumption
  try clear_value z2
  extract_lets +onlyGivenNames z3
  have h3 : Keeps a z3 := by
    subst z3
    refine K.evHub ?_
    refine K.inc ?_
    assumption
  try clear_value z3
  extract_lets +onlyGivenNames z4
  have h4 : Keeps a z4 := by
    subst z4
    refine K.foldl ?_ ?_
    · assumption
    · intro y5 y6 k5
      refine K.errorResp ?_
      assumption
  try clear_value z4
  extract_lets +onlyGivenNames z7
  have h7 : Keeps a z7 := by
    subst z7
    split
    · refine K.modYard ?_
      assumption
    · assumption
  try clear_value z7
  refine K.yFences ?_
  refine K.yPump ?_
  assumption

theorem K.yAnswered {a : State} {s} {o} {status} {result} {data} (hs : Keeps a s) : Keeps a (State.yAnswered s o status result data) := by
  unfold State.yAnswered
  extract_lets +onlyGivenNames z0
  have Hz0 : ∀ {y0}, Keeps a y0 → Keeps a (z0 y0) := by
    subst z0
    intro y1 k1
    try dsimp -zeta only
    refine K.modYard ?_
    assumption
  try clear_value z0
  extract_lets +onlyGivenNames z2
  have Hz2 : ∀ {y0 y1 y2}, Keeps a y0 → Keeps a (z2 y0 y1 y2) := by
    subst z2
    intro y3 y4 y5 k3
    try dsimp -zeta only
    refine K.foldl ?_ ?_
    · assumption
    · intro y6 y7 k6
      refine K.answer ?_
      assumption
  try clear_value z2
  extract_lets +onlyGivenNames z8
  have Hz8 : ∀ {y0}, Keeps a y0 → Keeps a (z8 y0) := by
    subst z8
    intro y9 k9
    try dsimp -zeta only
    refine K.foldl ?_ ?_
    · assumption
    · intro y10 y11 k10
      refine K.errorResp ?_
      assumption
  try clear_value z8
  split
  · refine K.yFences ?_
    refine K.yPump ?_
    refine K.modYard ?_
    refine Hz0 ?_
    assumption
  · refine K.ite ?_ ?_
    · extract_lets +onlyGivenNames z12
      have h12 : Keeps a z12 := by
        subst z12
        refine Hz0 ?_
        assumption
      try clear_value z12
      extract_lets +onlyGivenNames z13
      have h13 : Keeps a z13 := by
        subst z13
        refine K.ite ?_ ?_
        · assumption
        · refine K.evHub ?_
          refine K.yList ?_
          assumption
      try clear_value z13
      refine K.yFences ?_
      refine K.yPump ?_
      assumption
    · extract_lets +onlyGivenNames z14
      have h14 : Keeps a z14 := by
        subst z14
        split
        · refine Hz2 ?_
          refine Hz0 ?_
          assumption
        · refine Hz2 ?_
          refine Hz0 ?_
          assumption
        · refine K.ite ?_ ?_
          · refine Hz2 ?_
            refine Hz0 ?_
            assumption
          · refine Hz2 ?_
            refine Hz0 ?_
            assumption
        · refine Hz8 ?_
          refine K.yList ?_
          refine Hz0 ?_
          assumption
        · refine Hz8 ?_
          refine K.yList ?_
          refine Hz0 ?_
          assumption
        · refine Hz8 ?_
          refine K.yList ?_
          refine Hz0 ?_
          assumption
        · refine Hz8 ?_
          refine Hz0 ?_
          assumption
      try clear_value z14
      refine K.yFences ?_
      refine K.yPump ?_
      assumption

theorem K.yTakeAnswers {a : State} {s} {f} (hs : Keeps a s) : Keeps a (State.yTakeAnswers s f) := by
  unfold State.yTakeAnswers
  extract_lets +onlyGivenNames z0
  try clear_value z0
  refine K.foldl ?_ ?_
  · assumption
  · intro y1 y2 k1
    split
    · refine K.yAnswered ?_
      assumption
    · assumption

theorem K.yPutMap {a : State} {s} {m} (hs : Keeps a s) : Keeps a (State.yPutMap s m) := by
  unfold State.yPutMap
  extract_lets +onlyGivenNames z0
  try clear_value z0
  refine K.modYard ?_
  assumption

theorem K.yMark {a : State} {s} {q} {v} (hs : Keeps a s) : Keeps a (State.yMark s q v) := by
  unfold State.yMark
  refine K.ite ?_ ?_
  · assumption
  · refine K.yPutMap ?_
    assumption

theorem K.yReply {a : State} {s} {q} {status} {window} {result} {data} (hs : Keeps a s) : Keeps a (State.yReply s q status window result data) := by
  unfold State.yReply
  extract_lets +onlyGivenNames z0
  try clear_value z0
  refine K.ySend ?_
  assumption

theorem K.yEnqueue {a : State} {s} {q} (hs : Keeps a s) : Keeps a (State.yEnqueue s q) := by
  unfold State.yEnqueue
  extract_lets +onlyGivenNames z0
  try clear_value z0
  extract_lets +onlyGivenNames z1
  try clear_value z1
  split
  · refine K.ite ?_ ?_
    · refine K.modYard ?_
      assumption
    · extract_lets +onlyGivenNames z2
      try clear_value z2
      refine K.inc ?_
      refine K.modYard ?_
      assumption
  · refine K.modYard ?_
    assumption

theorem K.yCountHeld {a : State} {s} {line} (hs : Keeps a s) : Keeps a (State.yCountHeld s line) := by
  unfold State.yCountHeld
  extract_lets +onlyGivenNames z0
  try clear_value z0
  extract_lets +onlyGivenNames z1
  try clear_value z1
  refine K.incBy ?_
  refine K.modYard ?_
  assumption

theorem K.yRequest {a : State} {s} {q} (hs : Keeps a s) : Keeps a (State.yRequest s q) := by
  unfold State.yRequest
  extract_lets +onlyGivenNames z0
  try clear_value z0
  split
  · refine K.yReply ?_
    assumption
  · assumption
  · refine K.yReply ?_
    assumption
  · split
    · refine K.yReply ?_
      refine K.ite ?_ ?_
      · refine K.inc ?_
        assumption
      · assumption
    · refine K.yReply ?_
      refine K.inc ?_
      assumption
  · extract_lets +onlyGivenNames z1
    have Hz1 : ∀ {y0}, Keeps a (z1 y0) := by
      subst z1
      intro y2
      try dsimp -zeta only
      refine K.yReply ?_
      refine K.yPutMap ?_
      assumption
    try clear_value z1
    refine K.ite ?_ ?_
    · exact Hz1
    · split
      · exact Hz1
      · refine K.ite ?_ ?_
        · exact Hz1
        · extract_lets +onlyGivenNames z3
          have h3 : Keeps a z3 := by
            subst z3
            refine K.yEnqueue ?_
            refine K.yPutMap ?_
            assumption
          try clear_value z3
          refine K.ite ?_ ?_
          · refine K.yCountHeld ?_
            assumption
          · exact KO.getD (K.yFetch (by assumption)) (by assumption)

theorem K.yTakeRequests {a : State} {s} {f} (hs : Keeps a s) : Keeps a (State.yTakeRequests s f) := by
  unfold State.yTakeRequests
  refine K.foldl ?_ ?_
  · assumption
  · intro y0 y1 k0
    refine K.yRequest ?_
    assumption

theorem K.yTakeQuery {a : State} {s} {f} (hs : Keeps a s) : Keeps a (State.yTakeQuery s f) := by
  unfold State.yTakeQuery
  extract_lets +onlyGivenNames z0
  try clear_value z0
  extract_lets +onlyGivenNames z1
  try clear_value z1
  extract_lets +onlyGivenNames z2
  try clear_value z2
  refine K.foldl ?_ ?_
  · assumption
  · intro y3 y4 k3
    extract_lets +onlyGivenNames z5
    try clear_value z5
    extract_lets +onlyGivenNames z6
    try clear_value z6
    extract_lets +onlyGivenNames z7
    have h7 : Keeps a z7 := by
      subst z7
      refine K.ite ?_ ?_
      · refine K.yPutMap ?_
        assumption
      · assumption
    try clear_value z7
    extract_lets +onlyGivenNames z8
    try clear_value z8
    refine K.ySend ?_
    assumption

theorem K.yTakeStatus {a : State} {s} {f} (hs : Keeps a s) : Keeps a (State.yTakeStatus s f) := by
  unfold State.yTakeStatus
  extract_lets +onlyGivenNames z0
  try clear_value z0
  refine K.foldl ?_ ?_
  · assumption
  · intro y1 y2 k1
    split
    · assumption
    · extract_lets +onlyGivenNames z3
      have Hz3 : ∀ {y0}, Keeps a (z3 y0) := by
        subst z3
        intro y4
        try dsimp -zeta only
        extract_lets +onlyGivenNames z5
        try clear_value z5
        refine K.yShowListed ?_
        refine K.modYard ?_
        assumption
      try clear_value z3
      split
      · refine K.journal ?_
        exact Hz3
      · refine K.journal ?_
        exact Hz3
      · exact Hz3
      · assumption

theorem K.yTakeNotice {a : State} {s} {f} (hs : Keeps a s) : Keeps a (State.yTakeNotice s f) := by
  unfold State.yTakeNotice
  extract_lets +onlyGivenNames z0
  try clear_value z0
  extract_lets +onlyGivenNames z1
  try clear_value z1
  extract_lets +onlyGivenNames z2
  try clear_value z2
  extract_lets +onlyGivenNames z3
  have h3 : Keeps a z3 := by
    subst z3
    refine K.modYard ?_
    assumption
  try clear_value z3
  extract_lets +onlyGivenNames z4
  try clear_value z4
  extract_lets +onlyGivenNames z5
  have h5 : Keeps a z5 := by
    subst z5
    refine K.wrO ?_
    assumption
  try clear_value z5
  extract_lets +onlyGivenNames z6
  have h6 : Keeps a z6 := by
    subst z6
    refine K.journal ?_
    assumption
  try clear_value z6
  refine K.evHub ?_
  assumption

theorem K.yLossCut {a : State} {s} {c} {extents} (hs : Keeps a s) : Keeps a (State.yLossCut s c extents) := by
  unfold State.yLossCut
  refine K.ite ?_ ?_
  · assumption
  · extract_lets +onlyGivenNames z0
    have h0 : Keeps a z0 := by
      subst z0
      refine K.modYard ?_
      assumption
    try clear_value z0
    extract_lets +onlyGivenNames z1
    try clear_value z1
    refine K.foldl ?_ ?_
    · assumption
    · intro y2 y3 k2
      extract_lets +onlyGivenNames z4
      try clear_value z4
      extract_lets +onlyGivenNames z5
      have h5 : Keeps a z5 := by
        subst z5
        refine K.foldl ?_ ?_
        · assumption
        · intro y6 y7 k6
          refine K.ySend ?_
          assumption
      try clear_value z5
      refine K.journal ?_
      assumption

theorem K.yFlush {a : State} {s} (hs : Keeps a s) : Keeps a (State.yFlush s) := by
  unfold State.yFlush
  extract_lets +onlyGivenNames z0
  have h0 : Keeps a z0 := by
    subst z0
    refine K.foldl ?_ ?_
    · assumption
    · intro y1 y2 k1
      refine K.modYard ?_
      refine K.foldl ?_ ?_
      · assumption
      · intro y3 y4 k3
        refine K.errorResp ?_
        assumption
  try clear_value z0
  refine K.foldl ?_ ?_
  · assumption
  · intro y5 y6 k5
    refine K.journal ?_
    assumption

theorem K.yTakeAny {a : State} {s} {f} (hs : Keeps a s) : Keeps a (State.yTakeAny s f) := by
  unfold State.yTakeAny
  split
  · refine K.yTakeRequests ?_
    assumption
  · refine K.yTakeAnswers ?_
    assumption
  · refine K.yTakeQuery ?_
    assumption
  · refine K.yTakeStatus ?_
    assumption
  · refine K.yTakeNotice ?_
    assumption
  · assumption

theorem K.yLoop {a : State} {n} {s} (hs : Keeps a s) : Keeps a (State.yLoop n s) := by
  induction n generalizing s with
  | zero => exact hs
  | succ n ih =>
    unfold State.yLoop
    split
    · exact hs
    · exact ih (K.yTakeAny (K.modYard hs))

theorem K.ySettle {a : State} {s} (hs : Keeps a s) : Keeps a (State.ySettle s) := by
  unfold State.ySettle
  refine K.yRefresh ?_
  refine K.yLoop ?_
  refine K.yPump ?_
  assumption

theorem K.yStart {a : State} {s} (hs : Keeps a s) : Keeps a (State.yStart s) := by
  unfold State.yStart
  extract_lets +onlyGivenNames z0
  try clear_value z0
  extract_lets +onlyGivenNames z1
  have h1 : Keeps a z1 := by
    subst z1
    refine K.modYard ?_
    assumption
  try clear_value z1
  extract_lets +onlyGivenNames z2
  have h2 : Keeps a z2 := by
    subst z2
    refine K.foldl ?_ ?_
    · assumption
    · intro y3 y4 k3
      refine K.foldl ?_ ?_
      · assumption
      · intro y5 y6 k5
        refine K.mzero ?_
        assumption
  try clear_value z2
  refine K.yRefresh ?_
  refine K.foldl ?_ ?_
  · assumption
  · intro y7 y8 k7
    refine K.yShowDir ?_
    assumption

end Sys2Proof.Machine
end

