-- ==== Sys2Proof/Laws/Keeps/RouteOps.lean ====
section
/-!
SUPPORT. What the operations of Machine/RouteOps.lean keep: the canonical forms, the queue, the build, the test port, the sticky
registers and storage; every frame already handed over stays, and the log's sequence and the draws only rise.
-/

namespace Sys2Proof.Machine

theorem K.modRoute {a : State} {s} {f} (hs : Keeps a s) : Keeps a (State.modRoute s f) := by
  unfold State.modRoute
  refine K.of (s := s) ?_ rfl rfl rfl rfl rfl rfl rfl rfl rfl rfl rfl rfl rfl
  assumption

theorem K.putCall {a : State} {s} {c} (hs : Keeps a s) : Keeps a (State.putCall s c) := by
  unfold State.putCall
  refine K.modRoute ?_
  assumption

theorem K.takeWeights {a : State} {s} {y} {c} (hs : Keeps a s) : Keeps a (State.takeWeights s y c).2 := by
  unfold State.takeWeights
  extract_lets +onlyGivenNames z0
  try clear_value z0
  extract_lets +onlyGivenNames z1
  try clear_value z1
  extract_lets +onlyGivenNames z2
  have h2 : Keeps a z2 := by
    subst z2
    refine K.incBy ?_
    refine K.incBy ?_
    assumption
  try clear_value z2
  dsimp -zeta only
  refine K.ite ?_ ?_
  · assumption
  · refine K.evHub ?_
    assumption

theorem K.sendRound {a : State} {s} {c} (hs : Keeps a s) : Keeps a (State.sendRound s c) := by
  unfold State.sendRound
  extract_lets +onlyGivenNames z0
  try clear_value z0
  extract_lets +onlyGivenNames z1
  try clear_value z1
  extract_lets +onlyGivenNames z2
  try clear_value z2
  extract_lets +onlyGivenNames z3
  try clear_value z3
  extract_lets +onlyGivenNames z4
  try clear_value z4
  refine K.redSettle ?_
  refine K.foldl ?_ ?_
  · assumption
  · intro y5 y6 k5
    extract_lets +onlyGivenNames z7
    try clear_value z7
    extract_lets +onlyGivenNames z8
    have h8 : Keeps a z8 := by
      subst z8
      refine K.modRed ?_
      assumption
    try clear_value z8
    refine K.contribute ?_
    assumption

theorem K.writeTouch {a : State} {s} {slot} {st} (hs : Keeps a s) : Keeps a (State.writeTouch s slot st) := by
  unfold State.writeTouch
  split
  · assumption
  · extract_lets +onlyGivenNames z0
    try clear_value z0
    extract_lets +onlyGivenNames z1
    try clear_value z1
    extract_lets +onlyGivenNames z2
    try clear_value z2
    extract_lets +onlyGivenNames z3
    have h3 : Keeps a z3 := by
      subst z3
      refine K.ite ?_ ?_
      · refine K.evHub ?_
        refine K.inc ?_
        assumption
      · assumption
    try clear_value z3
    extract_lets +onlyGivenNames z4
    try clear_value z4
    extract_lets +onlyGivenNames z5
    have h5 : Keeps a z5 := by
      subst z5
      refine K.mwr ?_
      assumption
    try clear_value z5
    refine K.mwrNat ?_
    assumption

theorem K.touchMark {a : State} {s} (hs : Keeps a s) : Keeps a (State.touchMark s) := by
  unfold State.touchMark
  extract_lets +onlyGivenNames z0
  try clear_value z0
  extract_lets +onlyGivenNames z1
  try clear_value z1
  refine K.ite ?_ ?_
  · assumption
  · extract_lets +onlyGivenNames z2
    have h2 : Keeps a z2 := by
      subst z2
      refine K.foldl ?_ ?_
      · assumption
      · intro y3 y4 k3
        refine K.wrO ?_
        assumption
    try clear_value z2
    extract_lets +onlyGivenNames z5
    have h5 : Keeps a z5 := by
      subst z5
      refine K.modRoute ?_
      assumption
    try clear_value z5
    refine K.foldl ?_ ?_
    · assumption
    · intro y6 y7 k6
      split
      · refine K.mwrNat ?_
        assumption
      · assumption

theorem K.routeAccept {a : State} {s} {o} (hs : Keeps a s) : Keeps a (State.routeAccept s o) := by
  unfold State.routeAccept
  refine K.ite ?_ ?_
  · refine K.yAccept ?_
    assumption
  · refine K.yAnswered ?_
    assumption

theorem K.sendSlot {a : State} {s} {y} {c} {h} (hs : Keeps a s) : Keeps a (State.sendSlot s y c h) := by
  unfold State.sendSlot
  extract_lets +onlyGivenNames z0
  try clear_value z0
  extract_lets +onlyGivenNames z1
  try clear_value z1
  extract_lets +onlyGivenNames z2
  try clear_value z2
  refine K.routeAccept ?_
  assumption

theorem K.fillSlots {a : State} {s} {y} {c} (hs : Keeps a s) : Keeps a (State.fillSlots s y c) := by
  unfold State.fillSlots
  extract_lets +onlyGivenNames z0
  try clear_value z0
  extract_lets +onlyGivenNames z1
  try clear_value z1
  refine K.foldl ?_ ?_
  · assumption
  · intro y2 y3 k2
    refine K.foldl ?_ ?_
    · assumption
    · intro y4 y5 k4
      refine K.yAccept ?_
      assumption

theorem K.zeroAcc {a : State} {s} {y} {c} (hs : Keeps a s) : Keeps a (State.zeroAcc s y c) := by
  unfold State.zeroAcc
  refine K.mzero ?_
  assumption

theorem K.addProduct {a : State} {s} {y} {c} {h} {x} {code} (hs : Keeps a s) : Keeps a (State.addProduct s y c h x code) := by
  unfold State.addProduct
  split
  · extract_lets +onlyGivenNames z0
    try clear_value z0
    extract_lets +onlyGivenNames z1
    have h1 : Keeps a z1 := by
      subst z1
      refine K.ite ?_ ?_
      · refine K.inc ?_
        assumption
      · refine K.ite ?_ ?_
        · refine K.inc ?_
          assumption
        · assumption
    try clear_value z1
    refine K.mwrNat ?_
    assumption

theorem K.beginCombine {a : State} {s} {c} (hs : Keeps a s) : Keeps a (State.beginCombine s c) := by
  unfold State.beginCombine
  extract_lets +onlyGivenNames z0
  try clear_value z0
  refine K.ite ?_ ?_
  · assumption
  · extract_lets +onlyGivenNames z1
    try clear_value z1
    extract_lets +onlyGivenNames z2
    try clear_value z2
    extract_lets +onlyGivenNames z3
    try clear_value z3
    extract_lets +onlyGivenNames z4
    have h4 : Keeps a z4 := by
      subst z4
      refine K.zeroAcc ?_
      assumption
    try clear_value z4
    extract_lets +onlyGivenNames z5
    have h5 : Keeps a z5 := by
      subst z5
      refine K.putCall ?_
      assumption
    try clear_value z5
    refine K.foldl ?_ ?_
    · assumption
    · intro y6 y7 k6
      split
      · refine K.routeAccept ?_
        assumption
      · assumption

theorem K.combineMissing {a : State} {s} {c} {toks} {n} (hs : Keeps a s) : Keeps a (State.combineMissing s c toks n) := by
  unfold State.combineMissing
  refine K.ite ?_ ?_
  · assumption
  · extract_lets +onlyGivenNames z0
    have h0 : Keeps a z0 := by
      subst z0
      refine K.incBy ?_
      assumption
    try clear_value z0
    extract_lets +onlyGivenNames z1
    have h1 : Keeps a z1 := by
      subst z1
      refine K.ite ?_ ?_
      · assumption
      · refine K.evHub ?_
        assumption
    try clear_value z1
    split
    · refine K.putCall ?_
      assumption
    · assumption

theorem K.takeLoad {a : State} {s} {c} {i} {status} {data} (hs : Keeps a s) : Keeps a (State.takeLoad s c i status data) := by
  unfold State.takeLoad
  split
  · assumption
  · extract_lets +onlyGivenNames z0
    try clear_value z0
    extract_lets +onlyGivenNames z1
    try clear_value z1
    extract_lets +onlyGivenNames z2
    try clear_value z2
    extract_lets +onlyGivenNames z3
    try clear_value z3
    extract_lets +onlyGivenNames z4
    have h4 : Keeps a z4 := by
      subst z4
      refine K.putCall ?_
      assumption
    try clear_value z4
    refine K.ite ?_ ?_
    · refine K.combineMissing ?_
      assumption
    · extract_lets +onlyGivenNames z5
      try clear_value z5
      refine K.ite ?_ ?_
      · extract_lets +onlyGivenNames z6
        try clear_value z6
        refine K.ite ?_ ?_
        · assumption
        · refine K.foldl ?_ ?_
          · assumption
          · intro y7 y8 k7
            refine K.addProduct ?_
            assumption
      · assumption

theorem K.routeAnswers {a : State} {s} (hs : Keeps a s) : Keeps a (State.routeAnswers s) := by
  unfold State.routeAnswers
  extract_lets +onlyGivenNames z0
  try clear_value z0
  extract_lets +onlyGivenNames z1
  have h1 : Keeps a z1 := by
    subst z1
    refine K.modYard ?_
    assumption
  try clear_value z1
  refine K.foldl ?_ ?_
  · assumption
  · intro y2 y3 k2
    split
    · refine K.takeLoad ?_
      assumption
    · assumption

theorem K.writeCombine {a : State} {s} {c} (hs : Keeps a s) : Keeps a (State.writeCombine s c) := by
  unfold State.writeCombine
  extract_lets +onlyGivenNames z0
  try clear_value z0
  extract_lets +onlyGivenNames z1
  try clear_value z1
  extract_lets +onlyGivenNames z2
  try clear_value z2
  extract_lets +onlyGivenNames z3
  try clear_value z3
  extract_lets +onlyGivenNames z4
  try clear_value z4
  extract_lets +onlyGivenNames z5
  have h5 : Keeps a z5 := by
    subst z5
    refine K.incBy ?_
    assumption
  try clear_value z5
  extract_lets +onlyGivenNames z6
  have h6 : Keeps a z6 := by
    subst z6
    refine K.foldl ?_ ?_
    · assumption
    · intro y7 y8 k7
      refine K.mwr ?_
      assumption
  try clear_value z6
  extract_lets +onlyGivenNames z9
  have h9 : Keeps a z9 := by
    subst z9
    refine K.mwrNat ?_
    assumption
  try clear_value z9
  refine K.modRoute ?_
  assumption

theorem K.startCall {a : State} {s} {d} (hs : Keeps a s) : Keeps a (State.startCall s d) := by
  unfold State.startCall
  extract_lets +onlyGivenNames z0
  try clear_value z0
  extract_lets +onlyGivenNames z1
  try clear_value z1
  extract_lets +onlyGivenNames z2
  try clear_value z2
  extract_lets +onlyGivenNames z3
  try clear_value z3
  extract_lets +onlyGivenNames z4
  try clear_value z4
  extract_lets +onlyGivenNames z5
  try clear_value z5
  extract_lets +onlyGivenNames z6
  try clear_value z6
  extract_lets +onlyGivenNames z7
  have h7 : Keeps a z7 := by
    subst z7
    refine K.modRoute ?_
    assumption
  try clear_value z7
  extract_lets +onlyGivenNames z8
  have h8 : Keeps a z8 := by
    subst z8
    refine K.ite ?_ ?_
    · assumption
    · refine K.evHub ?_
      refine K.incBy ?_
      assumption
  try clear_value z8
  refine K.sendRound ?_
  assumption

theorem K.runDeferred {a : State} {n} {s} (hs : Keeps a s) : Keeps a (State.runDeferred n s) := by
  induction n generalizing s with
  | zero => exact hs
  | succ n ih =>
    unfold State.runDeferred
    refine K.ite hs ?_
    split
    · exact hs
    · exact ih (K.startCall (K.modRoute hs))

theorem K.routeSettle {a : State} {s} (hs : Keeps a s) : Keeps a (State.routeSettle s) := by
  unfold State.routeSettle
  refine K.routeAnswers ?_
  refine K.ySettle ?_
  refine K.redSettle ?_
  refine K.runDeferred ?_
  refine K.routeAnswers ?_
  assumption

theorem K.raiseRelease {a : State} {s} {y} (hs : Keeps a s) : Keeps a (State.raiseRelease s y) := by
  unfold State.raiseRelease
  extract_lets +onlyGivenNames z0
  try clear_value z0
  extract_lets +onlyGivenNames z1
  try clear_value z1
  refine K.ite ?_ ?_
  · assumption
  · extract_lets +onlyGivenNames z2
    try clear_value z2
    extract_lets +onlyGivenNames z3
    try clear_value z3
    extract_lets +onlyGivenNames z4
    try clear_value z4
    extract_lets +onlyGivenNames z5
    try clear_value z5
    extract_lets +onlyGivenNames z6
    try clear_value z6
    extract_lets +onlyGivenNames z7
    try clear_value z7
    refine K.modRoute ?_
    assumption

theorem K.raiseCombine {a : State} {s} {y} (hs : Keeps a s) : Keeps a (State.raiseCombine s y) := by
  unfold State.raiseCombine
  extract_lets +onlyGivenNames z0
  try clear_value z0
  extract_lets +onlyGivenNames z1
  try clear_value z1
  refine K.ite ?_ ?_
  · assumption
  · extract_lets +onlyGivenNames z2
    have h2 : Keeps a z2 := by
      subst z2
      refine K.modRoute ?_
      assumption
    try clear_value z2
    refine K.foldl ?_ ?_
    · assumption
    · intro y3 y4 k3
      refine K.ite ?_ ?_
      · refine K.beginCombine ?_
        assumption
      · assumption

theorem K.layerControl {a : State} {s} {y} {off} {data} (hs : Keeps a s) : Keeps a (State.layerControl s y off data) := by
  unfold State.layerControl
  extract_lets +onlyGivenNames z0
  have h0 : Keeps a z0 := by
    subst z0
    refine K.mwr ?_
    assumption
  try clear_value z0
  refine K.routeSettle ?_
  refine K.raiseCombine ?_
  refine K.raiseRelease ?_
  assumption

theorem K.finishCall {a : State} {s} {c} {refused} (hs : Keeps a s) : Keeps a (State.finishCall s c refused) := by
  unfold State.finishCall
  extract_lets +onlyGivenNames z0
  try clear_value z0
  split
  · rename_i v1_0 v1_1 e1
    have h1 : Keeps a v1_1 := by
      refine K.eq2 e1 ?_
      refine K.takeWeights ?_
      assumption
    extract_lets +onlyGivenNames z2
    try clear_value z2
    extract_lets +onlyGivenNames z3
    try clear_value z3
    extract_lets +onlyGivenNames z4
    have h4 : Keeps a z4 := by
      subst z4
      refine K.foldl ?_ ?_
      · assumption
      · intro y5 y6 k5
        refine K.mwr ?_
        assumption
    try clear_value z4
    extract_lets +onlyGivenNames z7
    have h7 : Keeps a z7 := by
      subst z7
      refine K.foldl ?_ ?_
      · assumption
      · intro y8 y9 k8
        refine K.sendSlot ?_
        assumption
    try clear_value z7
    extract_lets +onlyGivenNames z10
    have h10 : Keeps a z10 := by
      subst z10
      refine K.fillSlots ?_
      assumption
    try clear_value z10
    extract_lets +onlyGivenNames z11 z12 z13
    try clear_value z11
    have h12 : Keeps a z12 := by
      subst z12
      refine K.modRoute ?_
      assumption
    try clear_value z12
    have h13 : Keeps a z13 := by
      subst z13
      refine K.ite ?_ ?_
      · refine K.ite ?_ ?_
        · refine K.writeTouch ?_
          assumption
        · assumption
      · assumption
    try clear_value z13
    extract_lets +onlyGivenNames z14
    have h14 : Keeps a z14 := by
      subst z14
      refine K.mwrNat ?_
      assumption
    try clear_value z14
    extract_lets +onlyGivenNames z15
    have h15 : Keeps a z15 := by
      subst z15
      refine K.inc ?_
      assumption
    try clear_value z15
    extract_lets +onlyGivenNames z16
    have h16 : Keeps a z16 := by
      subst z16
      refine K.incBy ?_
      assumption
    try clear_value z16
    extract_lets +onlyGivenNames z17
    have h17 : Keeps a z17 := by
      subst z17
      refine K.incBy ?_
      assumption
    try clear_value z17
    extract_lets +onlyGivenNames z18
    have h18 : Keeps a z18 := by
      subst z18
      refine K.incBy ?_
      assumption
    try clear_value z18
    extract_lets +onlyGivenNames z19
    try clear_value z19
    extract_lets +onlyGivenNames z20
    have h20 : Keeps a z20 := by
      subst z20
      refine K.ite ?_ ?_
      · refine K.putCall ?_
        refine K.zeroAcc ?_
        assumption
      · refine K.putCall ?_
        assumption
    try clear_value z20
    refine K.beginCombine ?_
    assumption

theorem K.allotRound {a : State} {s} {c} (hs : Keeps a s) : Keeps a (State.allotRound s c) := by
  unfold State.allotRound
  split
  · assumption
  · extract_lets +onlyGivenNames z0
    try clear_value z0
    extract_lets +onlyGivenNames z1
    try clear_value z1
    refine K.ite ?_ ?_
    · extract_lets +onlyGivenNames z2
      have h2 : Keeps a z2 := by
        subst z2
        refine K.evHub ?_
        refine K.inc ?_
        assumption
      try clear_value z2
      refine K.finishCall ?_
      assumption
    · extract_lets +onlyGivenNames z3
      try clear_value z3
      split
      · extract_lets +onlyGivenNames z4
        try clear_value z4
        extract_lets +onlyGivenNames z5
        try clear_value z5
        split
        · extract_lets +onlyGivenNames z6
          try clear_value z6
          refine K.ite ?_ ?_
          · refine K.finishCall ?_
            assumption
          · extract_lets +onlyGivenNames z7
            try clear_value z7
            refine K.sendRound ?_
            refine K.putCall ?_
            assumption

theorem K.windowElem_drop {a : State} {s} {c} {phys} (hs : Keeps a s) : Keeps a (State.windowElem.drop s c phys) := by
  unfold State.windowElem.drop
  extract_lets +onlyGivenNames z0
  have h0 : Keeps a z0 := by
    subst z0
    exact K.inc hs
  clear_value z0
  exact K.ite h0 (K.evHub (K.putCall h0))

theorem K.windowElem {a : State} {s} {off} {code} (hs : Keeps a s) : Keeps a (State.windowElem s off code).2 := by
  unfold State.windowElem
  split
  · exact hs
  · split
    · exact K.evSecond (K.inc hs)
    · split
      · exact K.ite2 (K.addProduct (K.putCall hs)) (K.windowElem_drop hs)
      · exact K.windowElem_drop hs

theorem K.windowTake {a : State} {n} {s} {off} {data} {runs} (hs : Keeps a s) : Keeps a (State.windowTake n s off data runs).2 := by
  induction n generalizing s off data runs with
  | zero => exact hs
  | succ n ih =>
    unfold State.windowTake
    split
    · exact hs
    · split
      · exact ih hs
      · extract_lets w k
        split
        · exact ih (K.windowElem hs)
        · exact ih hs

theorem K.routeMarks {a : State} {s} {st} (hs : Keeps a s) : Keeps a (State.routeMarks s st) := by
  unfold State.routeMarks
  refine K.foldl ?_ ?_
  · assumption
  · intro y0 y1 k0
    extract_lets +onlyGivenNames z2
    try clear_value z2
    extract_lets +onlyGivenNames z3
    try clear_value z3
    refine K.modRoute ?_
    assumption

theorem K.routeLossCut {a : State} {s} {c} (hs : Keeps a s) : Keeps a (State.routeLossCut s c) := by
  unfold State.routeLossCut
  extract_lets +onlyGivenNames z0
  have h0 : Keeps a z0 := by
    subst z0
    refine K.modRoute ?_
    assumption
  try clear_value z0
  refine K.foldl ?_ ?_
  · assumption
  · intro y1 y2 k1
    extract_lets +onlyGivenNames z3
    try clear_value z3
    extract_lets +onlyGivenNames z4
    try clear_value z4
    extract_lets +onlyGivenNames z5
    try clear_value z5
    extract_lets +onlyGivenNames z6
    try clear_value z6
    extract_lets +onlyGivenNames z7
    have h7 : Keeps a z7 := by
      subst z7
      refine K.modRoute ?_
      assumption
    try clear_value z7
    extract_lets +onlyGivenNames z8
    have h8 : Keeps a z8 := by
      subst z8
      refine K.mwr ?_
      assumption
    try clear_value z8
    refine K.mwr ?_
    assumption

end Sys2Proof.Machine
end

