-- ==== Sys2Proof/Laws/Keeps/YardHome.lean ====
section
/-!
SUPPORT. What the operations of Machine/YardHome.lean keep: the canonical forms, the queue, the build, the test port, the sticky
registers and storage; every frame already handed over stays, and the log's sequence and the draws only rise.
-/

namespace Sys2Proof.Machine

theorem K.yDropComb {a : State} {s} {line} (hs : Keeps a s) : Keeps a (State.yDropComb s line) := by
  unfold State.yDropComb
  extract_lets +onlyGivenNames z0
  try clear_value z0
  refine K.modYard ?_
  assumption

theorem K.yExecuted {a : State} {s} {q} {window} {result} (hs : Keeps a s) : Keeps a (State.yExecuted s q window result) := by
  unfold State.yExecuted
  extract_lets +onlyGivenNames z0
  have h0 : Keeps a z0 := by
    subst z0
    refine K.yMark ?_
    assumption
  try clear_value z0
  refine K.ite ?_ ?_
  · refine K.inc ?_
    assumption
  · extract_lets +onlyGivenNames z1
    have h1 : Keeps a z1 := by
      subst z1
      refine K.modYard ?_
      assumption
    try clear_value z1
    refine K.ite ?_ ?_
    · refine K.inc ?_
      assumption
    · refine K.inc ?_
      assumption

theorem K.yRefuse {a : State} {s} {q} {status} (hs : Keeps a s) : Keeps a (State.yRefuse s q status) := by
  unfold State.yRefuse
  refine K.yReply ?_
  refine K.yMark ?_
  assumption

theorem K.markPoison {a : State} {s} {a'} {mask} (hs : Keeps a s) : Keeps a (State.markPoison s a' mask) := by
  unfold State.markPoison
  first | refine K.cleared (s := s) ?_ | refine K.marked (s := s) ?_
  assumption

theorem K.yNoteServed {a : State} {s} {n} {r} {bytes} (hs : Keeps a s) : Keeps a (State.yNoteServed s n r bytes) := by
  unfold State.yNoteServed
  extract_lets +onlyGivenNames z0
  try clear_value z0
  refine K.modYard ?_
  assumption

theorem K.storeRuns {a : State} {s} {q} (hs : Keeps a s) : Keeps a (State.storeRuns s q).2 := by
  unfold State.storeRuns
  refine K.ite2 ?_ ?_
  · refine K.windowTake ?_
    assumption
  · dsimp -zeta only
    assumption

theorem K.yApply {a : State} {s} {r} {n} {line} {qs} (hs : Keeps a s) : Keeps a (State.yApply s r n line qs) := by
  unfold State.yApply
  extract_lets +onlyGivenNames z0
  try clear_value z0
  extract_lets +onlyGivenNames z1
  try clear_value z1
  extract_lets +onlyGivenNames z2
  try clear_value z2
  extract_lets +onlyGivenNames z3
  try clear_value z3
  split
  · rename_i v4_0 v4_1 e4
    have h4 : Keeps a v4_1 := by
      refine K.eq2 e4 ?_
      refine K.foldl2 ?_ ?_
      · dsimp -zeta only
        assumption
      · intro y5 y6 k5
        split
        · rename_i v7_0 v7_1 e7
          have h7 : Keeps a v7_1 := by
            refine K.eq2 e7 ?_
            refine K.storeRuns ?_
            assumption
          dsimp -zeta only
          assumption
    split
    · extract_lets +onlyGivenNames z8
      try clear_value z8
      extract_lets +onlyGivenNames z9
      have h9 : Keeps a z9 := by
        subst z9
        assumption
      try clear_value z9
      extract_lets +onlyGivenNames z10
      have h10 : Keeps a z10 := by
        subst z10
        split
        · refine K.codedWrite ?_
          assumption
        · refine K.foldl ?_ ?_
          · refine K.ite ?_ ?_
            · refine K.stored (s := z9) ?_
              assumption
            · assumption
          · intro y11 y12 k11
            refine K.mwr ?_
            assumption
      try clear_value z10
      extract_lets +onlyGivenNames z13
      have h13 : Keeps a z13 := by
        subst z13
        refine K.foldl ?_ ?_
        · assumption
        · intro y14 y15 k14
          refine K.markPoison ?_
          assumption
      try clear_value z13
      extract_lets +onlyGivenNames z16
      try clear_value z16
      refine K.foldl ?_ ?_
      · assumption
      · intro y17 y18 k17
        extract_lets +onlyGivenNames z19
        try clear_value z19
        extract_lets +onlyGivenNames z20
        have h20 : Keeps a z20 := by
          subst z20
          refine K.yNoteServed ?_
          assumption
        try clear_value z20
        extract_lets +onlyGivenNames z21
        have h21 : Keeps a z21 := by
          subst z21
          refine K.yExecuted ?_
          assumption
        try clear_value z21
        extract_lets +onlyGivenNames z22
        try clear_value z22
        refine K.ite ?_ ?_
        · refine K.yReply ?_
          assumption
        · refine K.ite ?_ ?_
          · refine K.yReply ?_
            assumption
          · refine K.yReply ?_
            assumption

theorem K.yMoveRetired {a : State} {s} {r} {page} (hs : Keeps a s) : Keeps a (State.yMoveRetired s r page) := by
  unfold State.yMoveRetired
  split
  · refine K.ite ?_ ?_
    · assumption
    · split
      · extract_lets +onlyGivenNames z0
        have h0 : Keeps a z0 := by
          subst z0
          refine K.modYard ?_
          assumption
        try clear_value z0
        refine K.yPutPage ?_
        assumption
      · assumption
  · assumption

theorem K.yClose {a : State} {s} {line} (hs : Keeps a s) : Keeps a (State.yClose s line) := by
  unfold State.yClose
  split
  · assumption
  · split
    · refine K.foldl ?_ ?_
      · refine K.yDropComb ?_
        assumption
      · intro y0 y1 k0
        refine K.yRefuse ?_
        assumption
    · extract_lets +onlyGivenNames z2
      try clear_value z2
      extract_lets +onlyGivenNames z3
      try clear_value z3
      extract_lets +onlyGivenNames z4
      try clear_value z4
      extract_lets +onlyGivenNames z5
      have h5 : KO a z5 := by
        subst z5
        refine KO.ite ?_ ?_
        · refine K.linesHeld ?_
          assumption
        · exact KO.ofNone
      try clear_value z5
      extract_lets +onlyGivenNames z6
      have Hz6 : ∀ {y0 y1}, Keeps a y0 → Keeps a (z6 y0 y1) := by
        subst z6
        intro y7 y8 k7
        try dsimp -zeta only
        refine K.foldl ?_ ?_
        · assumption
        · intro y9 y10 k9
          refine K.yRefuse ?_
          refine K.yNoRoom ?_
          assumption
      try clear_value z6
      refine K.ite ?_ ?_
      · refine K.foldl ?_ ?_
        · refine K.yDropComb ?_
          assumption
        · intro y11 y12 k11
          refine K.yRefuse ?_
          assumption
      · refine K.ite ?_ ?_
        · refine K.yCountHeld ?_
          assumption
        · refine K.ite ?_ ?_
          · assumption
          · split
            · rename_i h5
              exact h5 _ rfl
            · refine K.ite ?_ ?_
              · refine K.holdAt ?_
                assumption
              · extract_lets +onlyGivenNames z13
                try clear_value z13
                extract_lets +onlyGivenNames z14
                try clear_value z14
                extract_lets +onlyGivenNames z15
                have Hz15 : ∀ {y0 y1}, Keeps a y0 → Keeps a (z15 y0 y1) := by
                  subst z15
                  intro y16 y17 k16
                  try dsimp -zeta only
                  extract_lets +onlyGivenNames z18
                  have h18 : Keeps a z18 := by
                    subst z18
                    refine K.yDropComb ?_
                    assumption
                  try clear_value z18
                  extract_lets +onlyGivenNames z19
                  have h19 : Keeps a z19 := by
                    subst z19
                    refine K.modYard ?_
                    assumption
                  try clear_value z19
                  refine K.yApply ?_
                  assumption
                try clear_value z15
                split
                · refine K.ite ?_ ?_
                  · refine Hz15 ?_
                    assumption
                  · split
                    · rename_i v20_0 e20
                      have h20 : Keeps a v20_0 := by
                        refine KO1.eq e20 ?_
                        refine K.yBack ?_
                        assumption
                      extract_lets +onlyGivenNames z21
                      have h21 : Keeps a z21 := by
                        subst z21
                        refine Hz15 ?_
                        assumption
                      try clear_value z21
                      refine K.ite ?_ ?_
                      · refine K.yUnstage ?_
                        assumption
                      · assumption
                    · rename_i v22_0 e22
                      have h22 : Keeps a v22_0 := by
                        refine KO1.eq e22 ?_
                        refine K.yBack ?_
                        assumption
                      assumption
                    · extract_lets +onlyGivenNames z23
                      have h23 : Keeps a z23 := by
                        subst z23
                        refine Hz6 ?_
                        assumption
                      try clear_value z23
                      extract_lets +onlyGivenNames z24
                      try clear_value z24
                      refine K.ite ?_ ?_
                      · refine K.yDropComb ?_
                        assumption
                      · refine Hz15 ?_
                        assumption
                · refine K.ite ?_ ?_
                  · split
                    · rename_i v25_0 e25
                      have h25 : Keeps a v25_0 := by
                        refine KO.eq e25 ?_
                        refine K.yFetch ?_
                        assumption
                      refine K.ite ?_ ?_
                      · refine K.yCountHeld ?_
                        assumption
                      · assumption
                    · refine Hz6 ?_
                      refine K.yDropComb ?_
                      assumption
                  · extract_lets +onlyGivenNames z26
                    have h26 : Keeps a z26 := by
                      subst z26
                      refine K.yMoveRetired ?_
                      assumption
                    try clear_value z26
                    extract_lets +onlyGivenNames z27
                    have h27 : Keeps a z27 := by
                      subst z27
                      split
                      · refine K.ite ?_ ?_
                        · assumption
                        · refine K.yPutPage ?_
                          assumption
                      · assumption
                    try clear_value z27
                    extract_lets +onlyGivenNames z28
                    have h28 : Keeps a z28 := by
                      subst z28
                      refine Hz15 ?_
                      assumption
                    try clear_value z28
                    refine K.ite ?_ ?_
                    · refine K.yUnstage ?_
                      assumption
                    · assumption

theorem K.yardPut {a : State} {s} {r} {off} {bs} (hs : Keeps a s) : Keeps a (State.yardPut s r off bs) := by
  unfold State.yardPut
  extract_lets +onlyGivenNames z0
  try clear_value z0
  split
  · refine K.codedWrite ?_
    assumption
  · refine K.mwr ?_
    assumption

theorem K.windowWrite {a : State} {s} {r} {off} {data} (hs : Keeps a s) : Keeps a (State.windowWrite s r off data) := by
  unfold State.windowWrite
  split
  · rename_i v0_0 v0_1 e0
    have h0 : Keeps a v0_1 := by
      refine K.eq2 e0 ?_
      refine K.windowTake ?_
      assumption
    refine K.foldl ?_ ?_
    · assumption
    · intro y1 y2 k1
      refine K.foldl ?_ ?_
      · assumption
      · intro y3 y4 k3
        refine K.yardPut ?_
        assumption

theorem K.windowStore {a : State} {s} {off} {data} (hs : Keeps a s) : Keeps a (State.windowStore s off data) := by
  unfold State.windowStore
  split
  · assumption
  · extract_lets +onlyGivenNames z0
    try clear_value z0
    refine K.ite ?_ ?_
    · assumption
    · split
      · rename_i v1_0 e1
        have h1 : Keeps a v1_0 := by
          refine KO.eq e1 ?_
          refine K.linesHeld ?_
          assumption
        assumption
      · refine K.ifRoom ?_ ?_
        · assumption
        · intro y2 k2
          split
          · split
            · rename_i v3_0 e3
              have h3 : Keeps a v3_0 := by
                refine KO1.eq e3 ?_
                refine K.yBack ?_
                assumption
              extract_lets +onlyGivenNames z4
              have h4 : Keeps a z4 := by
                subst z4
                refine K.windowWrite ?_
                assumption
              try clear_value z4
              refine K.ite ?_ ?_
              · refine K.yUnstage ?_
                assumption
              · assumption
            · rename_i v5_0 e5
              have h5 : Keeps a v5_0 := by
                refine KO1.eq e5 ?_
                refine K.yBack ?_
                assumption
              assumption
            · refine K.yNoRoom ?_
              assumption
          · refine K.ite ?_ ?_
            · refine K.inc ?_
              assumption
            · refine K.ite ?_ ?_
              · exact KO.getD (K.yFetch (by assumption)) (K.yNoRoom (by assumption))
              · extract_lets +onlyGivenNames z6
                have h6 : Keeps a z6 := by
                  subst z6
                  refine K.ite ?_ ?_
                  · assumption
                  · refine K.yPutPage ?_
                    assumption
                try clear_value z6
                extract_lets +onlyGivenNames z7
                have h7 : Keeps a z7 := by
                  subst z7
                  refine K.windowWrite ?_
                  assumption
                try clear_value z7
                refine K.ite ?_ ?_
                · refine K.yUnstage ?_
                  assumption
                · assumption

theorem K.yTransferred {a : State} {s} {c} {ok} {data} (hs : Keeps a s) : Keeps a (State.yTransferred s c ok data) := by
  unfold State.yTransferred
  split
  · assumption
  · extract_lets +onlyGivenNames z0
    try clear_value z0
    extract_lets +onlyGivenNames z1
    try clear_value z1
    extract_lets +onlyGivenNames z2
    have h2 : Keeps a z2 := by
      subst z2
      refine K.modYard ?_
      assumption
    try clear_value z2
    extract_lets +onlyGivenNames z3
    have Hz3 : ∀ {y0}, Keeps a y0 → Keeps a (z3 y0) := by
      subst z3
      intro y4 k4
      try dsimp -zeta only
      extract_lets +onlyGivenNames z5
      have h5 : Keeps a z5 := by
        subst z5
        refine K.modYard ?_
        assumption
      try clear_value z5
      refine K.retirePlace ?_
      assumption
    try clear_value z3
    extract_lets +onlyGivenNames z6
    have Hz6 : ∀ {y0}, Keeps a y0 → Keeps a (z6 y0) := by
      subst z6
      intro y7 k7
      try dsimp -zeta only
      refine K.ite ?_ ?_
      · refine K.yUnstage ?_
        assumption
      · assumption
    try clear_value z6
    split
    · assumption
    · split
      · refine K.ite ?_ ?_
        · refine Hz6 ?_
          refine K.yPutPage ?_
          assumption
        · extract_lets +onlyGivenNames z8
          have h8 : Keeps a z8 := by
            subst z8
            refine Hz3 ?_
            assumption
          try clear_value z8
          split
          · extract_lets +onlyGivenNames z9
            have h9 : Keeps a z9 := by
              subst z9
              refine K.modYard ?_
              assumption
            try clear_value z9
            refine K.fIssue ?_
            assumption
          · refine K.yPutPage ?_
            assumption
      · refine K.ite ?_ ?_
        · refine K.yUnstage ?_
          assumption
        · extract_lets +onlyGivenNames z10
          have h10 : Keeps a z10 := by
            subst z10
            refine Hz3 ?_
            assumption
          try clear_value z10
          split
          · refine K.yUnstage ?_
            refine K.yPutPage ?_
            assumption
          · assumption
      · extract_lets +onlyGivenNames z11
        try clear_value z11
        extract_lets +onlyGivenNames z12
        have h12 : Keeps a z12 := by
          subst z12
          refine K.ite ?_ ?_
          · assumption
          · refine K.ite ?_ ?_
            · refine K.stored (s := z2) ?_
              assumption
            · refine K.foldl ?_ ?_
              · assumption
              · intro y13 y14 k13
                refine K.markPoison ?_
                assumption
        try clear_value z12
        extract_lets +onlyGivenNames z15
        have h15 : Keeps a z15 := by
          subst z15
          refine K.ite ?_ ?_
          · assumption
          · refine Hz3 ?_
            assumption
        try clear_value z15
        refine K.ite ?_ ?_
        · refine K.modYard ?_
          refine K.yPutPage ?_
          assumption
        · refine K.yStage ?_
          refine K.yPutPage ?_
          assumption

theorem K.rekeyCheck {a : State} {s} (hs : Keeps a s) : Keeps a (State.rekeyCheck s) := by
  unfold State.rekeyCheck
  extract_lets +onlyGivenNames z0
  try clear_value z0
  extract_lets +onlyGivenNames z1
  have h1 : Keeps a z1 := by
    subst z1
    refine K.modYard ?_
    assumption
  try clear_value z1
  split
  · assumption
  · extract_lets +onlyGivenNames z2
    try clear_value z2
    refine K.ite ?_ ?_
    · assumption
    · split
      · rename_i v3_0 v3_1 e3
        have h3 : Keeps a v3_1 := by
          refine K.eq2 e3 ?_
          refine K.random ?_
          assumption
        refine K.inc ?_
        refine K.modYard ?_
        assumption

theorem K.migratePage {a : State} {s s'} {r} {t page new} (hs : Keeps a s) (e : State.migratePage s r t page new = .done s') : Keeps a s' := by
  unfold State.migratePage at e
  split at e
  · cases e; exact hs
  · dsimp only at e
    repeat' split at e
    all_goals cases e
    all_goals first | exact hs | exact K.modYard hs

theorem K.migrateAll {a : State} {s} {r} {t new} {ps} (hs : Keeps a s) : Keeps a (State.migrateAll s r t new ps).1 := by
  induction ps generalizing s with
  | nil => exact hs
  | cons p ps ih =>
    unfold State.migrateAll
    split
    · rename_i e
      exact ih (K.migratePage hs e)
    · exact hs
    · exact hs

theorem K.showSet {a : State} {s} {rn} {t} {pages} (hs : Keeps a s) : Keeps a (State.showSet s rn t pages) := by
  unfold State.showSet
  extract_lets +onlyGivenNames z0
  try clear_value z0
  extract_lets +onlyGivenNames z1
  have h1 : Keeps a z1 := by
    subst z1
    refine K.foldl ?_ ?_
    · assumption
    · intro y2 y3 k2
      split
      · refine K.mwrNat ?_
        assumption
      · assumption
  try clear_value z1
  refine K.foldl ?_ ?_
  · assumption
  · intro y4 y5 k4
    refine K.yShowDir ?_
    assumption

theorem K.migrateSet {a : State} {s} (hs : Keeps a s) : Keeps a (State.migrateSet s) := by
  unfold State.migrateSet
  split
  · exact hs
  · extract_lets +onlyGivenNames z0 z1 z2
    clear_value z2
    split
    · rename_i e
      have h := K.eq1 e (K.migrateAll hs)
      exact K.ite (KO.getD (K.yDemotePage h) h) (K.ite h (K.evHub (K.modYard h)))
    · rename_i e
      exact K.eq1 e (K.migrateAll hs)
    · rename_i e
      have h := K.eq1 e (K.migrateAll hs)
      extract_lets +onlyGivenNames z3 z4
      have h4 : Keeps a z4 := K.showSet (K.modYard h)
      clear_value z4
      exact K.ite h4 (K.evHub (K.wrOf (K.modYard h4)))

theorem K.yFenceRead {a : State} {s} {q} (hs : Keeps a s) : Keeps a (State.yFenceRead s q) := by
  unfold State.yFenceRead
  refine K.yFences ?_
  refine K.modYard ?_
  assumption

theorem K.yRetry {a : State} {s} {home} {seq} (hs : Keeps a s) : Keeps a (State.yRetry s home seq) := by
  unfold State.yRetry
  split
  · refine K.yEmit ?_
    refine K.inc ?_
    assumption
  · assumption

theorem K.yQuery {a : State} {s} {home} {seq} (hs : Keeps a s) : Keeps a (State.yQuery s home seq) := by
  unfold State.yQuery
  refine K.ite ?_ ?_
  · refine K.ySend ?_
    assumption
  · assumption

theorem K.yExpire {a : State} {s} {src} {seq} (hs : Keeps a s) : Keeps a (State.yExpire s src seq) := by
  unfold State.yExpire
  refine K.modYard ?_
  assumption

theorem K.yRemove {a : State} {s} {i} (hs : Keeps a s) : Keeps a (State.yRemove s i) := by
  unfold State.yRemove
  refine K.yShowListed ?_
  refine K.modYard ?_
  assumption

theorem K.combineLate {a : State} {s} {c} (hs : Keeps a s) : Keeps a (State.combineLate s c) := by
  unfold State.combineLate
  extract_lets +onlyGivenNames z0
  try clear_value z0
  extract_lets +onlyGivenNames z1
  try clear_value z1
  refine K.combineMissing ?_
  assumption

end Sys2Proof.Machine
end

