-- ==== Sys2Proof/Laws/Keeps/RepairOps.lean ====
section
/-!
SUPPORT. What the operations of Machine/RepairOps.lean keep: the canonical forms, the queue, the build, the test port, the sticky
registers and storage; every frame already handed over stays, and the log's sequence and the draws only rise.
-/

namespace Sys2Proof.Machine

theorem K.repairWorking {a : State} {s} {a'} (hs : Keeps a s) : KO a (State.repairWorking s a') := by
  unfold State.repairWorking
  split
  · exact KO.ofNone
  · split
    · extract_lets +onlyGivenNames z0
      try clear_value z0
      extract_lets +onlyGivenNames z1
      try clear_value z1
      refine KO.ofSome ?_
      refine K.foldl ?_ ?_
      · first | refine K.cleared (s := s) ?_ | refine K.marked (s := s) ?_
        assumption
      · intro y2 y3 k2
        refine K.ite ?_ ?_
        · refine K.rederiveLine ?_
          assumption
        · assumption
    · exact KO.ofNone

theorem K.repairSeeds {a : State} {s} {a'} (hs : Keeps a s) : KO a (State.repairSeeds s a') := by
  unfold State.repairSeeds
  split
  · exact KO.ofNone
  · extract_lets +onlyGivenNames z0
    try clear_value z0
    extract_lets +onlyGivenNames z1
    try clear_value z1
    extract_lets +onlyGivenNames z2
    try clear_value z2
    refine KO.ofSome ?_
    refine K.writeSeeds ?_
    first | refine K.cleared (s := s) ?_ | refine K.marked (s := s) ?_
    assumption

theorem K.taintBank {a : State} {s} {a'} (hs : Keeps a s) : Keeps a (State.taintBank s a') := by
  unfold State.taintBank
  split
  · assumption
  · extract_lets +onlyGivenNames z0
    try clear_value z0
    extract_lets +onlyGivenNames z1
    try clear_value z1
    extract_lets +onlyGivenNames z2
    try clear_value z2
    extract_lets +onlyGivenNames z3
    try clear_value z3
    split
    · refine K.redSettle ?_
      refine K.taintChunk ?_
      refine K.receiverTaint ?_
      assumption
    · assumption

theorem K.repairCoded {a : State} {s} {l} {a'} {ws} (hs : Keeps a s) : Keeps a (State.repairCoded s l a' ws) := by
  unfold State.repairCoded
  refine K.inc ?_
  refine K.touchPage ?_
  refine K.mwr ?_
  assumption

theorem K.repairFelt {a : State} {s} {g} {sp} {n} {a'} {ws} (hs : Keeps a s) : Keeps a (State.repairFelt s g sp n a' ws) := by
  unfold State.repairFelt
  extract_lets +onlyGivenNames z0
  have h0 : Keeps a z0 := by
    subst z0
    refine K.inc ?_
    refine K.mwr ?_
    assumption
  try clear_value z0
  refine K.foldl ?_ ?_
  · assumption
  · intro y1 y2 k1
    refine K.foldVat ?_
    assumption

theorem K.retireLine {a : State} {s} {a'} {cls} {outcome} {waiters} (hs : Keeps a s) : Keeps a (State.retireLine s a' cls outcome waiters) := by
  unfold State.retireLine
  refine K.ite ?_ ?_
  · refine K.retirePlace ?_
    assumption
  · split
    · refine K.retirePlace ?_
      refine K.yPutPage ?_
      assumption
    · assumption

theorem K.answerWaiters {a : State} {s} {reqs} (hs : Keeps a s) : Keeps a (State.answerWaiters s reqs) := by
  unfold State.answerWaiters
  refine K.foldl ?_ ?_
  · assumption
  · intro y0 y1 k0
    extract_lets +onlyGivenNames z2
    try clear_value z2
    refine K.answer ?_
    assumption

theorem K.endRepair {a : State} {s} {a'} {ok} (hs : Keeps a s) : Keeps a (State.endRepair s a' ok) := by
  unfold State.endRepair
  split
  · assumption
  · extract_lets +onlyGivenNames z0
    have h0 : Keeps a z0 := by
      subst z0
      refine K.modProt ?_
      assumption
    try clear_value z0
    extract_lets +onlyGivenNames z1
    try clear_value z1
    extract_lets +onlyGivenNames z2
    have h2 : Keeps a z2 := by
      subst z2
      refine K.retireLine ?_
      assumption
    try clear_value z2
    extract_lets +onlyGivenNames z3
    have h3 : Keeps a z3 := by
      subst z3
      refine K.answerWaiters ?_
      assumption
    try clear_value z3
    extract_lets +onlyGivenNames z4
    try clear_value z4
    refine K.ite ?_ ?_
    · refine K.evSlice ?_
      refine K.inc ?_
      assumption
    · extract_lets +onlyGivenNames z5
      have h5 : Keeps a z5 := by
        subst z5
        refine K.evSlice ?_
        refine K.inc ?_
        assumption
      try clear_value z5
      refine K.ite ?_ ?_
      · refine K.unitFailed ?_
        assumption
      · assumption

theorem K.repair {a : State} {s} {a'} {answers} {parity} {lost} (hs : Keeps a s) : Keeps a (State.repair s a' answers parity lost) := by
  unfold State.repair
  split
  · assumption
  · split
    · split
      · refine K.endRepair ?_
        assumption
      · split
        · refine K.endRepair ?_
          refine K.repairCoded ?_
          assumption
        · refine K.endRepair ?_
          assumption
    · split
      · refine K.endRepair ?_
        assumption
      · split
        · refine K.endRepair ?_
          refine K.repairFelt ?_
          assumption
        · refine K.endRepair ?_
          assumption
    · split
      · rename_i v0_0 e0
        have h0 : Keeps a v0_0 := by
          refine KO.eq e0 ?_
          refine K.repairWorking ?_
          assumption
        refine K.endRepair ?_
        assumption
      · refine K.endRepair ?_
        assumption
    · split
      · rename_i v1_0 e1
        have h1 : Keeps a v1_0 := by
          refine KO.eq e1 ?_
          refine K.repairSeeds ?_
          assumption
        refine K.endRepair ?_
        assumption
      · refine K.endRepair ?_
        assumption
    · refine K.ite ?_ ?_
      · refine K.taintBank ?_
        assumption
      · refine K.endRepair ?_
        assumption
    · refine K.endRepair ?_
      assumption

theorem K.repairCut {a : State} {s} (hs : Keeps a s) : Keeps a (State.repairCut s) := by
  unfold State.repairCut
  refine K.foldl ?_ ?_
  · assumption
  · intro y0 y1 k0
    refine K.endRepair ?_
    assumption

theorem K.repairRelease {a : State} {s} (hs : Keeps a s) : Keeps a (State.repairRelease s) := by
  unfold State.repairRelease
  extract_lets +onlyGivenNames z0
  try clear_value z0
  extract_lets +onlyGivenNames z1
  have h1 : Keeps a z1 := by
    subst z1
    refine K.modProt ?_
    assumption
  try clear_value z1
  refine K.foldl ?_ ?_
  · assumption
  · intro y2 y3 k2
    refine K.modSPort ?_
    assumption

theorem K.patrolRow {a : State} {s} {mem} {slice} {row} {n} {hard} {cls} (hs : Keeps a s) : Keeps a (State.patrolRow s mem slice row n hard cls) := by
  unfold State.patrolRow
  split
  · rename_i v0_0 v0_1 e0
    have h0 : Keeps a v0_1 := by
      refine K.eq2 e0 ?_
      refine K.takeInjection ?_
      assumption
    extract_lets +onlyGivenNames z1
    have h1 : Keeps a z1 := by
      subst z1
      refine K.sramRead ?_
      assumption
    try clear_value z1
    refine K.ite ?_ ?_
    · refine K.sramLost ?_
      assumption
    · assumption

theorem K.injectError {a : State} {s} {w} (hs : Keeps a s) : Keeps a (State.injectError s w).2 := by
  unfold State.injectError
  dsimp -zeta only
  refine K.modProt ?_
  assumption

theorem K.ackRetirement {a : State} {s} {i} (hs : Keeps a s) : Keeps a (State.ackRetirement s i).2 := by
  unfold State.ackRetirement
  dsimp -zeta only
  refine K.showRetired ?_
  refine K.modProt ?_
  assumption

theorem K.patrolLine {a : State} {s} {n} {a'} {bad} {fin} (hs : Keeps a s) : Keeps a (State.patrolLine s n a' bad fin) := by
  unfold State.patrolLine
  refine K.ite ?_ ?_
  · assumption
  · split
    · extract_lets +onlyGivenNames z0
      try clear_value z0
      extract_lets +onlyGivenNames z1
      have h1 : Keeps a z1 := by
        subst z1
        split
        · refine K.yMoveRetired ?_
          assumption
        · assumption
      try clear_value z1
      extract_lets +onlyGivenNames z2
      try clear_value z2
      extract_lets +onlyGivenNames z3 z4
      have h3 : Keeps a z3 := by
        subst z3
        refine K.ite ?_ ?_
        · refine K.spoil ?_
          assumption
        · assumption
      try clear_value z3
      have h4 : Keeps a z4 := by
        subst z4
        refine K.ite ?_ ?_
        · refine K.ite ?_ ?_
          · refine K.unitFailed ?_
            refine K.evSlice ?_
            assumption
          · assumption
        · refine K.ite ?_ ?_
          · assumption
          · refine K.ite ?_ ?_
            · split
              · split
                · refine K.eraseFelt ?_
                  assumption
                · assumption
              · assumption
            · refine K.ite ?_ ?_
              · refine K.openRepair ?_
                assumption
              · assumption
      try clear_value z4
      refine K.ite ?_ ?_
      · refine K.modProt ?_
        refine K.wr ?_
        assumption
      · assumption

end Sys2Proof.Machine
end

