-- ==== Sys2Proof/Laws/Keeps/HookOps.lean ====
section
/-!
SUPPORT. What the operations of Machine/HookOps.lean keep: the canonical forms, the queue, the build, the test port, the sticky
registers and storage; every frame already handed over stays, and the log's sequence and the draws only rise.
-/

namespace Sys2Proof.Machine

theorem K.routeRestart {a : State} {s} {c} (hs : Keeps a s) : Keeps a (State.routeRestart s c) := by
  unfold State.routeRestart
  refine K.foldl ?_ ?_
  · assumption
  · intro y0 y1 k0
    refine K.sendRound ?_
    assumption

theorem K.foldDone {a : State} {s} {c} (hs : Keeps a s) : Keeps a (State.foldDone s c) := by
  unfold State.foldDone
  extract_lets +onlyGivenNames z0
  have h0 : Keeps a z0 := by
    subst z0
    refine K.inc ?_
    assumption
  try clear_value z0
  extract_lets +onlyGivenNames z1
  have h1 : Keeps a z1 := by
    subst z1
    refine K.journal ?_
    assumption
  try clear_value z1
  refine K.compareCommit ?_
  refine K.redCommit ?_
  assumption

theorem K.atCut {a : State} {s} {kind} {c} {_lost} (hs : Keeps a s) : Keeps a (State.atCut s kind c _lost) := by
  unfold State.atCut
  extract_lets +onlyGivenNames z0
  have h0 : Keeps a z0 := by
    subst z0
    refine K.modAudit ?_
    refine K.abandonBisect ?_
    assumption
  try clear_value z0
  split
  · refine K.redClear ?_
    assumption
  · refine K.exchLossCut ?_
    refine K.yLossCut ?_
    refine K.routeLossCut ?_
    refine K.redLossCut ?_
    refine K.repairCut ?_
    assumption
  · refine K.ite ?_ ?_
    · refine K.redJoiner ?_
      assumption
    · refine K.routeRestart ?_
      refine K.redRestart ?_
      assumption

theorem K.failIntake {a : State} {s} (hs : Keeps a s) : Keeps a (State.failIntake s) := by
  unfold State.failIntake
  extract_lets +onlyGivenNames z0
  try clear_value z0
  extract_lets +onlyGivenNames z1
  have h1 : Keeps a z1 := by
    subst z1
    refine K.modSPort ?_
    assumption
  try clear_value z1
  refine K.foldl ?_ ?_
  · assumption
  · intro y2 y3 k2
    refine K.answer ?_
    assumption

theorem K.atRelease {a : State} {s} {kind} (hs : Keeps a s) : Keeps a (State.atRelease s kind) := by
  unfold State.atRelease
  extract_lets +onlyGivenNames z0
  have h0 : Keeps a z0 := by
    subst z0
    refine K.ite ?_ ?_
    · refine K.modExch ?_
      refine K.repairRelease ?_
      refine K.failIntake ?_
      assumption
    · assumption
  try clear_value z0
  refine K.ite ?_ ?_
  · refine K.exchRoutes ?_
    assumption
  · refine K.wrO ?_
    assumption

end Sys2Proof.Machine
end

