-- ==== Sys2Proof/Laws/Keeps/SportOps.lean ====
section
/-!
SUPPORT. What the operations of Machine/SportOps.lean keep: the canonical forms, the queue, the build, the test port, the sticky
registers and storage; every frame already handed over stays, and the log's sequence and the draws only rise.
-/

namespace Sys2Proof.Machine

theorem K.pumpCtrl {a : State} {s} (hs : Keeps a s) : Keeps a (State.pumpCtrl s) := by
  unfold State.pumpCtrl
  extract_lets +onlyGivenNames z0
  try clear_value z0
  refine K.modSPort ?_
  assumption

theorem K.toCtrl {a : State} {s} {q} {served} (hs : Keeps a s) : Keeps a (State.toCtrl s q served) := by
  unfold State.toCtrl
  refine K.pumpCtrl ?_
  refine K.modSPort ?_
  assumption

theorem K.hold {a : State} {s} {q} {why} {old} (hs : Keeps a s) : Keeps a (State.hold s q why old) := by
  unfold State.hold
  extract_lets +onlyGivenNames z0
  try clear_value z0
  extract_lets +onlyGivenNames z1
  try clear_value z1
  extract_lets +onlyGivenNames z2
  try clear_value z2
  extract_lets +onlyGivenNames z3
  have h3 : Keeps a z3 := by
    subst z3
    refine K.ite ?_ ?_
    · assumption
    · refine K.ite ?_ ?_
      · refine K.inc ?_
        assumption
      · refine K.noteHold ?_
        assumption
  try clear_value z3
  refine K.modSPort ?_
  assumption

theorem K.storePlain {a : State} {s} {q} (hs : Keeps a s) : Keeps a (State.storePlain s q) := by
  unfold State.storePlain
  refine K.answer ?_
  refine K.markPoison ?_
  refine K.mwr ?_
  assumption

theorem K.applyCoded {a : State} {s} {q} {l} (hs : Keeps a s) : Keeps a (State.applyCoded s q l) := by
  unfold State.applyCoded
  extract_lets +onlyGivenNames z0
  try clear_value z0
  extract_lets +onlyGivenNames z1
  try clear_value z1
  extract_lets +onlyGivenNames z2
  try clear_value z2
  extract_lets +onlyGivenNames z3
  try clear_value z3
  extract_lets +onlyGivenNames z4
  have h4 : Keeps a z4 := by
    subst z4
    refine K.foldl ?_ ?_
    · assumption
    · intro y5 y6 k5
      refine K.evSlice ?_
      refine K.inc ?_
      assumption
  try clear_value z4
  extract_lets +onlyGivenNames z7
  try clear_value z7
  extract_lets +onlyGivenNames z8
  try clear_value z8
  refine K.answer ?_
  refine K.codedWrite ?_
  assumption

theorem K.applyInRoom {a : State} {s} {q} {l} {old} (hs : Keeps a s) : Keeps a (State.applyInRoom s q l old) := by
  unfold State.applyInRoom
  extract_lets +onlyGivenNames z0
  have h0 : Keeps a z0 := by
    subst z0
    refine K.applyCoded ?_
    assumption
  try clear_value z0
  refine K.ite ?_ ?_
  · assumption
  · extract_lets +onlyGivenNames z1
    have h1 : Keeps a z1 := by
      subst z1
      refine K.abandonBisect ?_
      assumption
    try clear_value z1
    extract_lets +onlyGivenNames z2
    have h2 : Keeps a z2 := by
      subst z2
      refine K.applyCoded ?_
      assumption
    try clear_value z2
    refine K.ite ?_ ?_
    · assumption
    · refine K.hold ?_
      assumption

theorem K.writeCoded {a : State} {s} {q} {l} {old} (hs : Keeps a s) : Keeps a (State.writeCoded s q l old) := by
  unfold State.writeCoded
  extract_lets +onlyGivenNames z0
  try clear_value z0
  extract_lets +onlyGivenNames z1
  try clear_value z1
  extract_lets +onlyGivenNames z2
  try clear_value z2
  refine K.ite ?_ ?_
  · refine K.refusePoison ?_
    assumption
  · refine K.ite ?_ ?_
    · refine K.refuse ?_
      assumption
    · refine K.ite ?_ ?_
      · refine K.answer ?_
        refine K.evSlice ?_
        refine K.inc ?_
        assumption
      · split
        · refine K.hold ?_
          assumption
        · refine K.ite ?_ ?_
          · refine K.hold ?_
            assumption
          · refine K.ite ?_ ?_
            · extract_lets +onlyGivenNames z3
              have h3 : Keeps a z3 := by
                subst z3
                refine K.ite ?_ ?_
                · assumption
                · refine K.openRepair ?_
                  assumption
              try clear_value z3
              refine K.hold ?_
              assumption
            · split
              · refine K.hold ?_
                refine K.rush ?_
                assumption
              · refine K.hold ?_
                assumption
              · refine K.ite ?_ ?_
                · refine K.applyInRoom ?_
                  assumption
                · refine K.markPoison ?_
                  refine K.applyCoded ?_
                  assumption

theorem K.writeIntake {a : State} {s} {q} {base} {n} {old} (hs : Keeps a s) : Keeps a (State.writeIntake s q base n old) := by
  unfold State.writeIntake
  extract_lets +onlyGivenNames z0
  try clear_value z0
  extract_lets +onlyGivenNames z1
  try clear_value z1
  extract_lets +onlyGivenNames z2
  try clear_value z2
  extract_lets +onlyGivenNames z3
  try clear_value z3
  refine K.ite ?_ ?_
  · refine K.answer ?_
    refine K.controlWrite ?_
    assumption
  · split
    · refine K.refuse ?_
      refine K.evSlice ?_
      refine K.inc ?_
      assumption
    · extract_lets +onlyGivenNames z4
      have h4 : Keeps a z4 := by
        subst z4
        refine K.ite ?_ ?_
        · assumption
        · refine K.evSlice ?_
          refine K.inc ?_
          assumption
      try clear_value z4
      refine K.hold ?_
      assumption
    · refine K.answer ?_
      refine K.intakeApply ?_
      assumption

theorem K.writeScores {a : State} {s} {q} {base} {n} (hs : Keeps a s) : Keeps a (State.writeScores s q base n) := by
  unfold State.writeScores
  extract_lets +onlyGivenNames z0
  try clear_value z0
  extract_lets +onlyGivenNames z1
  try clear_value z1
  refine K.ite ?_ ?_
  · refine K.answer ?_
    refine K.layerControl ?_
    assumption
  · split
    · refine K.refuse ?_
      refine K.evSlice ?_
      refine K.inc ?_
      assumption
    · refine K.storePlain ?_
      assumption

theorem K.discard {a : State} {s} {q} (hs : Keeps a s) : Keeps a (State.discard s q) := by
  unfold State.discard
  refine K.answer ?_
  assumption

theorem K.writeFelt {a : State} {s} {q} (hs : Keeps a s) : Keeps a (State.writeFelt s q) := by
  unfold State.writeFelt
  refine K.ite ?_ ?_
  · refine K.refusePoison ?_
    assumption
  · refine K.discard ?_
    refine K.tallyAt ?_
    refine K.inc ?_
    assumption

theorem K.serveWrite {a : State} {s} {q} {r} {old} (hs : Keeps a s) : Keeps a (State.serveWrite s q r old) := by
  unfold State.serveWrite
  split
  · refine K.writeCoded ?_
    assumption
  · split
    · refine K.discard ?_
      refine K.tallyAt ?_
      refine K.inc ?_
      assumption
    · refine K.discard ?_
      refine K.tallyAt ?_
      refine K.inc ?_
      assumption
    · refine K.storePlain ?_
      refine K.ite ?_ ?_
      · refine K.evStep ?_
        refine K.inc ?_
        assumption
      · assumption
    · refine K.writeFelt ?_
      assumption
    · refine K.writeFelt ?_
      assumption
    · refine K.writeFelt ?_
      assumption
    · refine K.writeIntake ?_
      assumption
    · refine K.discard ?_
      refine K.evSlice ?_
      refine K.inc ?_
      assumption
    · refine K.discard ?_
      refine K.evSlice ?_
      refine K.inc ?_
      assumption
    · refine K.writeScores ?_
      assumption
    · refine K.discard ?_
      assumption
    · refine K.discard ?_
      assumption
    · refine K.routeSettle ?_
      refine K.yHost ?_
      assumption
    · refine K.storePlain ?_
      assumption

theorem K.serveAtomic {a : State} {s} {q} {r} (hs : Keeps a s) : Keeps a (State.serveAtomic s q r) := by
  unfold State.serveAtomic
  split
  · refine K.routeSettle ?_
    refine K.yHost ?_
    assumption
  · refine K.refuse ?_
    assumption

theorem K.serveRead {a : State} {s} {q} {r} (hs : Keeps a s) : Keeps a (State.serveRead s q r) := by
  unfold State.serveRead
  split
  · refine K.answer ?_
    assumption
  · refine K.routeSettle ?_
    refine K.yHost ?_
    assumption
  · refine K.yFenceRead ?_
    assumption
  · extract_lets +onlyGivenNames z0
    try clear_value z0
    refine K.ite ?_ ?_
    · refine K.openRepair ?_
      assumption
    · refine K.toCtrl ?_
      assumption

theorem K.accept {a : State} {s} {q} {old} (hs : Keeps a s) : Keeps a (State.accept s q old) := by
  unfold State.accept
  extract_lets +onlyGivenNames z0
  try clear_value z0
  refine K.ite ?_ ?_
  · refine K.hold ?_
    assumption
  · split
    · refine K.toCtrl ?_
      refine K.ite ?_ ?_
      · assumption
      · refine K.inc ?_
        assumption
    · extract_lets +onlyGivenNames z1
      have h1 : Keeps a z1 := by
        subst z1
        refine K.ite ?_ ?_
        · assumption
        · refine K.inc ?_
          assumption
      try clear_value z1
      refine K.ite ?_ ?_
      · refine K.serveRead ?_
        assumption
      · refine K.ite ?_ ?_
        · refine K.serveWrite ?_
          assumption
        · refine K.serveAtomic ?_
          assumption

theorem K.reply {a : State} {s} {q} {status} {poison} {data} (hs : Keeps a s) : Keeps a (State.reply s q status poison data) := by
  unfold State.reply
  refine K.ite ?_ ?_
  · refine K.modSPort ?_
    assumption
  · refine K.answer ?_
    assumption

theorem K.frozenRequest {a : State} {s} {q} (hs : Keeps a s) : Keeps a (State.frozenRequest s q) := by
  unfold State.frozenRequest
  refine K.ite ?_ ?_
  · refine K.ite ?_ ?_
    · refine K.reply ?_
      assumption
    · refine K.reply ?_
      assumption
  · refine K.toCtrl ?_
    assumption

theorem K.acceptWhole {a : State} {s} {q} (hs : Keeps a s) : Keeps a (State.acceptWhole s q) := by
  unfold State.acceptWhole
  refine K.ite ?_ ?_
  · refine K.frozenRequest ?_
    assumption
  · refine K.accept ?_
    assumption

theorem K.runSecond {a : State} {s} (hs : Keeps a s) : Keeps a (State.runSecond s) := by
  unfold State.runSecond
  refine K.foldl ?_ ?_
  · assumption
  · intro y0 y1 k0
    extract_lets +onlyGivenNames z2
    try clear_value z2
    extract_lets +onlyGivenNames z3
    have h3 : Keeps a z3 := by
      subst z3
      refine K.modSPort ?_
      assumption
    try clear_value z3
    refine K.ite ?_ ?_
    · assumption
    · refine K.acceptWhole ?_
      assumption

theorem K.acceptParts {a : State} {s} {raw} {q} (hs : Keeps a s) : Keeps a (State.acceptParts s raw q) := by
  unfold State.acceptParts
  extract_lets +onlyGivenNames z0
  try clear_value z0
  refine K.ite ?_ ?_
  · refine K.runSecond ?_
    refine K.acceptWhole ?_
    assumption
  · extract_lets +onlyGivenNames z1
    try clear_value z1
    extract_lets +onlyGivenNames z2
    have h2 : Keeps a z2 := by
      subst z2
      refine K.modSPort ?_
      assumption
    try clear_value z2
    refine K.runSecond ?_
    refine K.acceptWhole ?_
    assumption

theorem K.drainHeld {a : State} {s} (hs : Keeps a s) : Keeps a (State.drainHeld s) := by
  unfold State.drainHeld
  extract_lets +onlyGivenNames z0
  try clear_value z0
  extract_lets +onlyGivenNames z1
  have h1 : Keeps a z1 := by
    subst z1
    refine K.askWaiting ?_
    refine K.tryFixes ?_
    refine K.freeCow ?_
    refine K.undoOwed ?_
    assumption
  try clear_value z1
  refine K.redSettle ?_
  refine K.countCow ?_
  refine K.runSecond ?_
  refine K.foldl ?_ ?_
  · refine K.modSPort ?_
    assumption
  · intro y2 y3 k2
    refine K.accept ?_
    assumption

theorem K.bypass {a : State} {s} {q} (hs : Keeps a s) : Keeps a (State.bypass s q) := by
  unfold State.bypass
  refine K.modSPort ?_
  assumption

theorem K.request {a : State} {s} {q} (hs : Keeps a s) : Keeps a (State.request s q) := by
  unfold State.request
  extract_lets +onlyGivenNames z0
  try clear_value z0
  extract_lets +onlyGivenNames z1
  try clear_value z1
  refine K.ite ?_ ?_
  · assumption
  · refine K.ite ?_ ?_
    · refine K.bypass ?_
      assumption
    · refine K.ite ?_ ?_
      · refine K.acceptParts ?_
        assumption
      · split
        · refine K.errorResp ?_
          refine K.evSlice ?_
          assumption
        · refine K.acceptParts ?_
          assumption

theorem K.passResponse {a : State} {s} {q} {status} {poison} (hs : Keeps a s) : Keeps a (State.passResponse s q status poison) := by
  unfold State.passResponse
  extract_lets +onlyGivenNames z0
  have h0 : Keeps a z0 := by
    subst z0
    refine K.ite ?_ ?_
    · assumption
    · refine K.incBy ?_
      assumption
  try clear_value z0
  refine K.ite ?_ ?_
  · refine K.reply ?_
    assumption
  · refine K.ite ?_ ?_
    · refine K.reply ?_
      assumption
    · refine K.ite ?_ ?_
      · refine K.reply ?_
        refine K.markPoison ?_
        refine K.mwr ?_
        assumption
      · extract_lets +onlyGivenNames z1
        try clear_value z1
        refine K.reply ?_
        refine K.mwrNat ?_
        assumption

theorem K.servedResponse {a : State} {s} {q} (hs : Keeps a s) : Keeps a (State.servedResponse s q) := by
  unfold State.servedResponse
  extract_lets +onlyGivenNames z0
  try clear_value z0
  extract_lets +onlyGivenNames z1
  try clear_value z1
  extract_lets +onlyGivenNames z2
  try clear_value z2
  extract_lets +onlyGivenNames z3
  try clear_value z3
  split
  · extract_lets +onlyGivenNames z4
    have h4 : Keeps a z4 := by
      subst z4
      refine K.eraseFelt ?_
      assumption
    try clear_value z4
    refine K.openRepair ?_
    assumption
  · refine K.ite ?_ ?_
    · refine K.openRepair ?_
      assumption
    · refine K.ite ?_ ?_
      · refine K.endRepair ?_
        refine K.openRepair ?_
        assumption
      · refine K.answer ?_
        assumption

theorem K.response {a : State} {s} {n} {kind} {tag} {status} {poison} (hs : Keeps a s) : Keeps a (State.response s n kind tag status poison) := by
  unfold State.response
  split
  · extract_lets +onlyGivenNames z0
    try clear_value z0
    extract_lets +onlyGivenNames z1
    have h1 : Keeps a z1 := by
      subst z1
      refine K.modSPort ?_
      assumption
    try clear_value z1
    extract_lets +onlyGivenNames z2
    try clear_value z2
    extract_lets +onlyGivenNames z3
    have h3 : Keeps a z3 := by
      subst z3
      refine K.ite ?_ ?_
      · refine K.markPoison ?_
        assumption
      · assumption
    try clear_value z3
    extract_lets +onlyGivenNames z4
    try clear_value z4
    extract_lets +onlyGivenNames z5
    have h5 : Keeps a z5 := by
      subst z5
      refine K.ite ?_ ?_
      · refine K.servedResponse ?_
        assumption
      · refine K.passResponse ?_
        assumption
    try clear_value z5
    refine K.pumpCtrl ?_
    assumption
  · refine K.ite ?_ ?_
    · refine K.modSPort ?_
      assumption
    · refine K.ite ?_ ?_
      · assumption
      · refine K.unitFailed ?_
        refine K.evSlice ?_
        assumption

theorem K.beginStall {a : State} {s} {n} {kind} (hs : Keeps a s) : Keeps a (State.beginStall s n kind) := by
  unfold State.beginStall
  refine K.ite ?_ ?_
  · assumption
  · refine K.inc ?_
    refine K.modSPort ?_
    assumption

theorem K.longStall {a : State} {s} {n} (hs : Keeps a s) : Keeps a (State.longStall s n) := by
  unfold State.longStall
  split
  · refine K.ite ?_ ?_
    · assumption
    · refine K.evSlice ?_
      refine K.inc ?_
      refine K.modSPort ?_
      assumption
  · assumption

theorem K.endStall {a : State} {s} {n} (hs : Keeps a s) : Keeps a (State.endStall s n) := by
  unfold State.endStall
  split
  · refine K.pumpCtrl ?_
    refine K.incBy ?_
    refine K.modSPort ?_
    assumption
  · assumption

end Sys2Proof.Machine
end

