-- ==== Sys2Proof/Laws/Keeps/CutOps.lean ====
section
/-!
SUPPORT. What the operations of Machine/CutOps.lean keep: the canonical forms, the queue, the build, the test port, the sticky
registers and storage; every frame already handed over stays, and the log's sequence and the draws only rise.
-/

namespace Sys2Proof.Machine

theorem K.gateChange {a : State} {s} {f} {named} {k} (hs : Keeps a s) (Hk : ∀ {y0}, Keeps a y0 → Keeps a (k y0)) : Keeps a (State.gateChange s f named k) := by
  unfold State.gateChange
  refine K.ite ?_ ?_
  · assumption
  · refine K.ite ?_ ?_
    · refine K.staleNotice ?_
      assumption
    · extract_lets +onlyGivenNames z0
      have h0 : Keeps a z0 := by
        subst z0
        refine K.ite ?_ ?_
        · refine K.hear ?_
          assumption
        · assumption
      try clear_value z0
      refine K.ite ?_ ?_
      · assumption
      · refine Hk ?_
        assumption

theorem K.readBlocked {a : State} {s} {g} {t} {sp} {n} (hs : Keeps a s) : KO a (State.readBlocked s g t sp n) := by
  unfold State.readBlocked
  refine KO.ite ?_ ?_
  · split
    · refine KO.ite ?_ ?_
      · refine KO.ofSome ?_
        refine K.ite ?_ ?_
        · assumption
        · refine K.openRepair ?_
          assumption
      · exact KO.ofNone
    · exact KO.ofNone
  · refine KO.ite ?_ ?_
    · split
      · exact KO.map fun _ => K.eraseFelt hs
      · exact KO.ofNone
    · exact KO.ofNone

theorem K.takeRead {a : State} {s} {f} (hs : Keeps a s) : Keeps a (State.takeRead s f) := by
  unfold State.takeRead
  extract_lets +onlyGivenNames z0
  try clear_value z0
  extract_lets +onlyGivenNames z1
  try clear_value z1
  extract_lets +onlyGivenNames z2
  try clear_value z2
  extract_lets +onlyGivenNames z3
  try clear_value z3
  extract_lets +onlyGivenNames z4
  try clear_value z4
  extract_lets +onlyGivenNames z5
  have Hz5 : ∀ {y0}, Keeps a y0 → Keeps a (z5 y0) := by
    subst z5
    intro y6 k6
    try dsimp -zeta only
    refine K.modMember ?_
    assumption
  try clear_value z5
  refine K.ite ?_ ?_
  · refine Hz5 ?_
    assumption
  · split
    · rename_i v7_0 e7
      have h7 : Keeps a v7_0 := by
        refine KO.eq e7 ?_
        exact KO.findSome fun _ => K.readBlocked (by assumption)
      refine Hz5 ?_
      assumption
    · extract_lets +onlyGivenNames z8
      try clear_value z8
      refine K.ite ?_ ?_
      · assumption
      · refine K.sendMember ?_
        assumption

theorem K.takeReads {a : State} {s} (hs : Keeps a s) : Keeps a (State.takeReads s) := by
  unfold State.takeReads
  refine K.foldl ?_ ?_
  · refine K.modMember ?_
    assumption
  · intro y0 y1 k0
    refine K.takeRead ?_
    assumption

theorem K.readRole {a : State} {s} {g} {t} {sp} (hs : Keeps a s) : Keeps a (State.readRole s g t sp) := by
  unfold State.readRole
  extract_lets +onlyGivenNames z0
  try clear_value z0
  extract_lets +onlyGivenNames z1
  try clear_value z1
  extract_lets +onlyGivenNames z2
  try clear_value z2
  refine K.foldl ?_ ?_
  · assumption
  · intro y3 y4 k3
    refine K.sendMember ?_
    assumption

theorem K.startRebuild {a : State} {s} (hs : Keeps a s) : Keeps a (State.startRebuild s) := by
  unfold State.startRebuild
  extract_lets +onlyGivenNames z0
  try clear_value z0
  extract_lets +onlyGivenNames z1
  try clear_value z1
  extract_lets +onlyGivenNames z2
  try clear_value z2
  extract_lets +onlyGivenNames z3
  have h3 : Keeps a z3 := by
    subst z3
    refine K.modMember ?_
    assumption
  try clear_value z3
  refine K.foldl ?_ ?_
  · assumption
  · intro y4 y5 k4
    split
    · extract_lets +onlyGivenNames z6
      try clear_value z6
      refine K.foldl ?_ ?_
      · assumption
      · intro y7 y8 k7
        refine K.readRole ?_
        refine K.readRole ?_
        assumption

theorem K.storeRebuilt {a : State} {s} {g} {t} {sp} {stripe} {ws} (hs : Keeps a s) : Keeps a (State.storeRebuilt s g t sp stripe ws) := by
  unfold State.storeRebuilt
  extract_lets +onlyGivenNames z0
  have h0 : Keeps a z0 := by
    subst z0
    refine K.modMember ?_
    assumption
  try clear_value z0
  extract_lets +onlyGivenNames z1
  have h1 : Keeps a z1 := by
    subst z1
    refine K.inc ?_
    assumption
  try clear_value z1
  refine K.ite ?_ ?_
  · split
    · split
      · refine K.rederive ?_
        refine K.touchPage ?_
        refine K.mwr ?_
        assumption
      · assumption
    · assumption
  · split
    · refine K.mwr ?_
      assumption
    · assumption

theorem K.rebuildDone {a : State} {s} (hs : Keeps a s) : Keeps a (State.rebuildDone s) := by
  unfold State.rebuildDone
  refine K.ite ?_ ?_
  · assumption
  · split
    · assumption
    · refine K.ite ?_ ?_
      · assumption
      · extract_lets +onlyGivenNames z0
        try clear_value z0
        extract_lets +onlyGivenNames z1
        have h1 : Keeps a z1 := by
          subst z1
          refine K.wr ?_
          assumption
        try clear_value z1
        extract_lets +onlyGivenNames z2
        have h2 : Keeps a z2 := by
          subst z2
          refine K.journal ?_
          assumption
        try clear_value z2
        extract_lets +onlyGivenNames z3
        have h3 : Keeps a z3 := by
          subst z3
          refine K.evHub ?_
          assumption
        try clear_value z3
        refine K.sendReady ?_
        assumption

theorem K.tryStripe {a : State} {s} {g} {sp} {stripe} (hs : Keeps a s) : Keeps a (State.tryStripe s g sp stripe) := by
  unfold State.tryStripe
  split
  · extract_lets +onlyGivenNames z0
    try clear_value z0
    refine K.ite ?_ ?_
    · assumption
    · extract_lets +onlyGivenNames z1
      try clear_value z1
      extract_lets +onlyGivenNames z2
      try clear_value z2
      extract_lets +onlyGivenNames z3
      have h3 : Keeps a z3 := by
        subst z3
        refine K.modMember ?_
        assumption
      try clear_value z3
      split
      · extract_lets +onlyGivenNames z4
        have h4 : Keeps a z4 := by
          subst z4
          refine K.modMember ?_
          assumption
        try clear_value z4
        extract_lets +onlyGivenNames z5
        have h5 : Keeps a z5 := by
          subst z5
          refine K.evHub ?_
          refine K.inc ?_
          assumption
        try clear_value z5
        refine K.foldl ?_ ?_
        · assumption
        · intro y6 y7 k6
          refine K.sendMember ?_
          assumption
      · refine K.foldl ?_ ?_
        · assumption
        · intro y8 y9 k8
          split
          · assumption
          · refine K.ite ?_ ?_
            · assumption
            · refine K.ite ?_ ?_
              · refine K.storeRebuilt ?_
                assumption
              · refine K.sendMember ?_
                assumption

theorem K.beyond {a : State} {s} {groups} (hs : Keeps a s) : Keeps a (State.beyond s groups) := by
  unfold State.beyond
  extract_lets +onlyGivenNames z0
  have h0 : Keeps a z0 := by
    subst z0
    refine K.wr ?_
    assumption
  try clear_value z0
  extract_lets +onlyGivenNames z1
  have h1 : Keeps a z1 := by
    subst z1
    refine K.wr ?_
    assumption
  try clear_value z1
  refine K.ite ?_ ?_
  · refine K.evHub ?_
    assumption
  · assumption

theorem K.handOver {a : State} {s} {j} {shard} (hs : Keeps a s) : Keeps a (State.handOver s j shard) := by
  unfold State.handOver
  refine K.foldl ?_ ?_
  · assumption
  · intro y0 y1 k0
    extract_lets +onlyGivenNames z2
    try clear_value z2
    refine K.foldl ?_ ?_
    · assumption
    · intro y3 y4 k3
      extract_lets +onlyGivenNames z5
      try clear_value z5
      extract_lets +onlyGivenNames z6
      try clear_value z6
      refine K.foldl ?_ ?_
      · assumption
      · intro y7 y8 k7
        refine K.takeRead ?_
        assumption

theorem K.dropPieces {a : State} {s} (hs : Keeps a s) : Keeps a (State.dropPieces s) := by
  unfold State.dropPieces
  refine K.showPieces ?_
  assumption

theorem K.shareOut {a : State} {s} (hs : Keeps a s) : Keeps a (State.shareOut s) := by
  unfold State.shareOut
  extract_lets +onlyGivenNames z0
  try clear_value z0
  refine K.modMember ?_
  assumption

theorem K.lossCut {a : State} {s} {p} {c} {verdict} {failing} {free} (hs : Keeps a s) : Keeps a (State.lossCut s p c verdict failing free) := by
  unfold State.lossCut
  extract_lets +onlyGivenNames z0
  try clear_value z0
  split
  · extract_lets +onlyGivenNames z1
    have h1 : Keeps a z1 := by
      subst z1
      refine K.ite ?_ ?_
      · refine K.evHub ?_
        refine K.inc ?_
        assumption
      · assumption
    try clear_value z1
    extract_lets +onlyGivenNames z2
    have h2 : Keeps a z2 := by
      subst z2
      refine K.modMember ?_
      assumption
    try clear_value z2
    extract_lets +onlyGivenNames z3
    have h3 : Keeps a z3 := by
      subst z3
      refine K.foldl ?_ ?_
      · assumption
      · intro y4 y5 k4
        refine K.evHub ?_
        assumption
    try clear_value z3
    extract_lets +onlyGivenNames z6
    have h6 : Keeps a z6 := by
      subst z6
      refine K.ite ?_ ?_
      · assumption
      · refine K.wr ?_
        assumption
    try clear_value z6
    extract_lets +onlyGivenNames z7 z8 z9 z10 z11 z12
    have h7 : Keeps a z7 := by
      subst z7
      refine K.modMember ?_
      assumption
    try clear_value z7
    have h8 : Keeps a z8 := by
      subst z8
      refine K.showGroups ?_
      assumption
    try clear_value z8
    have h9 : Keeps a z9 := by
      subst z9
      refine K.takePieces ?_
      assumption
    try clear_value z9
    have h10 : Keeps a z10 := by
      subst z10
      refine K.shareOut ?_
      assumption
    try clear_value z10
    have h11 : Keeps a z11 := by
      subst z11
      refine K.showTolerance ?_
      assumption
    try clear_value z11
    have h12 : Keeps a z12 := by
      subst z12
      refine K.ite ?_ ?_
      · refine K.wr ?_
        assumption
      · refine K.beyond ?_
        refine K.showPieces ?_
        refine K.showGroups ?_
        assumption
    try clear_value z12
    refine K.rollback ?_
    assumption

theorem K.fillComplete {a : State} {s} (hs : Keeps a s) : Keeps a (State.fillComplete s) := by
  unfold State.fillComplete
  refine K.ite ?_ ?_
  · refine K.sendReady ?_
    assumption
  · assumption

theorem K.restartFill {a : State} {s} {p} {c} {failing} (hs : Keeps a s) : Keeps a (State.restartFill s p c failing) := by
  unfold State.restartFill
  extract_lets +onlyGivenNames z0
  have h0 : Keeps a z0 := by
    subst z0
    refine K.modMember ?_
    assumption
  try clear_value z0
  extract_lets +onlyGivenNames z1
  have h1 : Keeps a z1 := by
    subst z1
    refine K.evHub ?_
    refine K.inc ?_
    assumption
  try clear_value z1
  split
  · rename_i v2_0 v2_1 e2
    have h2 : Keeps a v2_1 := by
      refine K.eq2 e2 ?_
      refine K.computePlacement ?_
      assumption
    extract_lets +onlyGivenNames z3
    have h3 : Keeps a z3 := by
      subst z3
      refine K.rollback ?_
      assumption
    try clear_value z3
    refine K.ite ?_ ?_
    · extract_lets +onlyGivenNames z4
      have h4 : Keeps a z4 := by
        subst z4
        refine K.setBands ?_
        assumption
      try clear_value z4
      extract_lets +onlyGivenNames z5
      have h5 : Keeps a z5 := by
        subst z5
        refine K.modMember ?_
        assumption
      try clear_value z5
      refine K.beginFill ?_
      assumption
    · refine K.beyond ?_
      assumption

theorem K.startCut {a : State} {s} {ms} {c} (hs : Keeps a s) : Keeps a (State.startCut s ms c) := by
  unfold State.startCut
  split
  · rename_i v0_0 v0_1 e0
    have h0 : Keeps a v0_1 := by
      refine K.eq2 e0 ?_
      refine K.computePlacement ?_
      assumption
    extract_lets +onlyGivenNames z1
    have h1 : Keeps a z1 := by
      subst z1
      refine K.setBands ?_
      assumption
    try clear_value z1
    extract_lets +onlyGivenNames z2
    have h2 : Keeps a z2 := by
      subst z2
      refine K.modMember ?_
      assumption
    try clear_value z2
    extract_lets +onlyGivenNames z3
    have h3 : Keeps a z3 := by
      subst z3
      refine K.wr ?_
      assumption
    try clear_value z3
    extract_lets +onlyGivenNames z4
    have h4 : Keeps a z4 := by
      subst z4
      refine K.wr ?_
      assumption
    try clear_value z4
    split
    · extract_lets +onlyGivenNames z5
      have h5 : Keeps a z5 := by
        subst z5
        refine K.ite ?_ ?_
        · refine K.evHub ?_
          assumption
        · assumption
      try clear_value z5
      refine K.startRefused ?_
      refine K.leaveJob ?_
      assumption
    · extract_lets +onlyGivenNames z6
      have h6 : Keeps a z6 := by
        subst z6
        refine K.steerAreas ?_
        assumption
      try clear_value z6
      extract_lets +onlyGivenNames z7
      have h7 : Keeps a z7 := by
        subst z7
        refine K.modMember ?_
        assumption
      try clear_value z7
      refine K.fillComplete ?_
      refine K.beginFill ?_
      assumption

theorem K.giveShard {a : State} {s} {j} {gs} (hs : Keeps a s) : Keeps a (State.giveShard s j gs) := by
  unfold State.giveShard
  extract_lets +onlyGivenNames z0
  try clear_value z0
  extract_lets +onlyGivenNames z1
  try clear_value z1
  extract_lets +onlyGivenNames z2
  have h2 : Keeps a z2 := by
    subst z2
    refine K.handOver ?_
    assumption
  try clear_value z2
  extract_lets +onlyGivenNames z3
  have h3 : Keeps a z3 := by
    subst z3
    refine K.modMember ?_
    assumption
  try clear_value z3
  extract_lets +onlyGivenNames z4
  have h4 : Keeps a z4 := by
    subst z4
    refine K.showTolerance ?_
    refine K.showGroups ?_
    assumption
  try clear_value z4
  refine K.wr ?_
  assumption

theorem K.joinPropose {a : State} {s} {p} (hs : Keeps a s) : Keeps a (State.joinPropose s p) := by
  unfold State.joinPropose
  extract_lets +onlyGivenNames z0
  try clear_value z0
  split
  · extract_lets +onlyGivenNames z1
    have h1 : Keeps a z1 := by
      subst z1
      refine K.drawn (s := s) ?_ (by omega)
      assumption
    try clear_value z1
    extract_lets +onlyGivenNames z2
    try clear_value z2
    extract_lets +onlyGivenNames z3
    have h3 : Keeps a z3 := by
      subst z3
      refine K.modMember ?_
      assumption
    try clear_value z3
    extract_lets +onlyGivenNames z4
    have h4 : Keeps a z4 := by
      subst z4
      refine K.shareOut ?_
      refine K.setBands ?_
      assumption
    try clear_value z4
    split
    · refine K.startRefused ?_
      refine K.leaveJob ?_
      refine K.evHub ?_
      assumption
    · extract_lets +onlyGivenNames z5
      have h5 : Keeps a z5 := by
        subst z5
        refine K.showTolerance ?_
        refine K.showRoles ?_
        refine K.showGroups ?_
        assumption
      try clear_value z5
      extract_lets +onlyGivenNames z6
      have h6 : Keeps a z6 := by
        subst z6
        refine K.wr ?_
        refine K.steerAreas ?_
        assumption
      try clear_value z6
      extract_lets +onlyGivenNames z7
      try clear_value z7
      refine K.modMember ?_
      assumption

theorem K.joinCut {a : State} {s} {p} {was} {gs} (hs : Keeps a s) : Keeps a (State.joinCut s p was gs) := by
  unfold State.joinCut
  refine K.ite ?_ ?_
  · refine K.joinPropose ?_
    assumption
  · split
    · assumption
    · refine K.giveShard ?_
      assumption

theorem K.switchCut {a : State} {s} (hs : Keeps a s) : Keeps a (State.switchCut s) := by
  unfold State.switchCut
  extract_lets +onlyGivenNames z0
  try clear_value z0
  extract_lets +onlyGivenNames z1
  try clear_value z1
  extract_lets +onlyGivenNames z2
  try clear_value z2
  extract_lets +onlyGivenNames z3
  try clear_value z3
  extract_lets +onlyGivenNames z4
  try clear_value z4
  extract_lets +onlyGivenNames z5
  try clear_value z5
  extract_lets +onlyGivenNames z6
  try clear_value z6
  extract_lets +onlyGivenNames z7
  try clear_value z7
  extract_lets +onlyGivenNames z8
  have h8 : Keeps a z8 := by
    subst z8
    refine K.modMember ?_
    assumption
  try clear_value z8
  extract_lets +onlyGivenNames z9
  have h9 : Keeps a z9 := by
    subst z9
    refine K.wr ?_
    assumption
  try clear_value z9
  extract_lets +onlyGivenNames z10
  have h10 : Keeps a z10 := by
    subst z10
    refine K.wr ?_
    assumption
  try clear_value z10
  extract_lets +onlyGivenNames z11
  have h11 : Keeps a z11 := by
    subst z11
    refine K.wr ?_
    assumption
  try clear_value z11
  extract_lets +onlyGivenNames z12
  have h12 : Keeps a z12 := by
    subst z12
    refine K.showRoles ?_
    refine K.showTolerance ?_
    refine K.showGroups ?_
    assumption
  try clear_value z12
  extract_lets +onlyGivenNames z13
  have h13 : Keeps a z13 := by
    subst z13
    refine K.wr ?_
    assumption
  try clear_value z13
  extract_lets +onlyGivenNames z14
  have h14 : Keeps a z14 := by
    subst z14
    refine K.showPieces ?_
    assumption
  try clear_value z14
  extract_lets +onlyGivenNames z15
  have h15 : Keeps a z15 := by
    subst z15
    refine K.wr ?_
    assumption
  try clear_value z15
  extract_lets +onlyGivenNames z16
  have h16 : Keeps a z16 := by
    subst z16
    refine K.journal ?_
    assumption
  try clear_value z16
  refine K.evHub ?_
  assumption

theorem K.cutRecord {a : State} {s} {p} {c} {verdict} (hs : Keeps a s) : Keeps a (State.cutRecord s p c verdict) := by
  unfold State.cutRecord
  extract_lets +onlyGivenNames z0
  have h0 : Keeps a z0 := by
    subst z0
    refine K.wr ?_
    assumption
  try clear_value z0
  extract_lets +onlyGivenNames z1
  have h1 : Keeps a z1 := by
    subst z1
    refine K.wr ?_
    assumption
  try clear_value z1
  extract_lets +onlyGivenNames z2
  try clear_value z2
  extract_lets +onlyGivenNames z3
  have h3 : Keeps a z3 := by
    subst z3
    refine K.journal ?_
    assumption
  try clear_value z3
  refine K.evHub ?_
  assumption

theorem K.adoptList {a : State} {s} {p} {c} {verdict} (hs : Keeps a s) : Keeps a (State.adoptList s p c verdict) := by
  unfold State.adoptList
  extract_lets +onlyGivenNames z0
  try clear_value z0
  extract_lets +onlyGivenNames z1
  try clear_value z1
  extract_lets +onlyGivenNames z2
  try clear_value z2
  extract_lets +onlyGivenNames z3
  have h3 : Keeps a z3 := by
    subst z3
    refine K.ite ?_ ?_
    · assumption
    · refine K.inc ?_
      refine K.wr ?_
      assumption
  try clear_value z3
  extract_lets +onlyGivenNames z4
  have h4 : Keeps a z4 := by
    subst z4
    refine K.modMember ?_
    assumption
  try clear_value z4
  extract_lets +onlyGivenNames z5
  try clear_value z5
  extract_lets +onlyGivenNames z6
  have h6 : Keeps a z6 := by
    subst z6
    refine K.wrO ?_
    assumption
  try clear_value z6
  extract_lets +onlyGivenNames z7
  have h7 : Keeps a z7 := by
    subst z7
    refine K.wr ?_
    assumption
  try clear_value z7
  extract_lets +onlyGivenNames z8
  have h8 : Keeps a z8 := by
    subst z8
    refine K.modCouch ?_
    assumption
  try clear_value z8
  extract_lets +onlyGivenNames z9
  try clear_value z9
  extract_lets +onlyGivenNames z10
  have h10 : Keeps a z10 := by
    subst z10
    refine K.couchCut ?_
    assumption
  try clear_value z10
  extract_lets +onlyGivenNames z11
  have h11 : Keeps a z11 := by
    subst z11
    refine K.ite ?_ ?_
    · refine K.foldDone ?_
      assumption
    · assumption
  try clear_value z11
  extract_lets +onlyGivenNames z12
  have h12 : Keeps a z12 := by
    subst z12
    refine K.cutRecord ?_
    assumption
  try clear_value z12
  refine K.wr ?_
  assumption

theorem K.cutSnapshot {a : State} {s} {c} (hs : Keeps a s) : Keeps a (State.cutSnapshot s c) := by
  unfold State.cutSnapshot
  split
  · refine K.ite ?_ ?_
    · refine K.modTiers ?_
      assumption
    · refine K.ite ?_ ?_
      · refine K.abandonSnap ?_
        assumption
      · assumption
  · assumption

theorem K.cutOrder {a : State} {s} {c} (hs : Keeps a s) : Keeps a (State.cutOrder s c) := by
  unfold State.cutOrder
  refine K.ite ?_ ?_
  · refine K.modTiers ?_
    assumption
  · assumption

theorem K.placeCut {a : State} {s} {p} {c} {verdict} {failing} {free} {was} {gs} (hs : Keeps a s) : Keeps a (State.placeCut s p c verdict failing free was gs) := by
  unfold State.placeCut
  refine K.ite ?_ ?_
  · refine K.lossCut ?_
    assumption
  · refine K.ite ?_ ?_
    · refine K.beyond ?_
      assumption
    · refine K.ite ?_ ?_
      · refine K.switchCut ?_
        assumption
      · refine K.joinCut ?_
        assumption

theorem K.adoptCut {a : State} {s} {p} {c} {verdict} {failing} {free} (hs : Keeps a s) : Keeps a (State.adoptCut s p c verdict failing free) := by
  unfold State.adoptCut
  extract_lets +onlyGivenNames z0
  try clear_value z0
  extract_lets +onlyGivenNames z1
  try clear_value z1
  extract_lets +onlyGivenNames z2
  try clear_value z2
  extract_lets +onlyGivenNames z3
  try clear_value z3
  extract_lets +onlyGivenNames z4
  try clear_value z4
  extract_lets +onlyGivenNames z5
  have h5 : Keeps a z5 := by
    subst z5
    refine K.cutOrder ?_
    refine K.cutSnapshot ?_
    refine K.adoptList ?_
    assumption
  try clear_value z5
  extract_lets +onlyGivenNames z6
  have h6 : Keeps a z6 := by
    subst z6
    refine K.ite ?_ ?_
    · refine K.stopPass ?_
      assumption
    · assumption
  try clear_value z6
  extract_lets +onlyGivenNames z7
  have h7 : Keeps a z7 := by
    subst z7
    refine K.atCut ?_
    assumption
  try clear_value z7
  extract_lets +onlyGivenNames z8
  have h8 : Keeps a z8 := by
    subst z8
    refine K.ite ?_ ?_
    · refine K.startCut ?_
      assumption
    · refine K.ite ?_ ?_
      · refine K.restartFill ?_
        assumption
      · refine K.placeCut ?_
        refine K.ite ?_ ?_
        · assumption
        · refine K.notePlacement ?_
          assumption
  try clear_value z8
  extract_lets +onlyGivenNames z9
  have h9 : Keeps a z9 := by
    subst z9
    refine K.ite ?_ ?_
    · assumption
    · refine K.writeSeeds ?_
      refine K.writeSeeds ?_
      assumption
  try clear_value z9
  extract_lets +onlyGivenNames z10
  have h10 : Keeps a z10 := by
    subst z10
    refine K.modMember ?_
    assumption
  try clear_value z10
  refine K.ite ?_ ?_
  · assumption
  · refine K.rebuildDone ?_
    assumption

theorem K.sendCut {a : State} {s} {p} (hs : Keeps a s) : Keeps a (State.sendCut s p) := by
  unfold State.sendCut
  extract_lets +onlyGivenNames z0
  try clear_value z0
  extract_lets +onlyGivenNames z1
  try clear_value z1
  extract_lets +onlyGivenNames z2
  try clear_value z2
  extract_lets +onlyGivenNames z3
  try clear_value z3
  extract_lets +onlyGivenNames z4
  try clear_value z4
  extract_lets +onlyGivenNames z5
  try clear_value z5
  extract_lets +onlyGivenNames z6
  have h6 : Keeps a z6 := by
    subst z6
    refine K.foldl ?_ ?_
    · assumption
    · intro y7 y8 k7
      refine K.sendMember ?_
      assumption
  try clear_value z6
  refine K.adoptCut ?_
  assumption

theorem K.tryCut {a : State} {s} (hs : Keeps a s) : Keeps a (State.tryCut s) := by
  unfold State.tryCut
  split
  · assumption
  · extract_lets +onlyGivenNames z0
    try clear_value z0
    extract_lets +onlyGivenNames z1
    try clear_value z1
    refine K.ite ?_ ?_
    · assumption
    · refine K.ite ?_ ?_
      · refine K.evHub ?_
        assumption
      · refine K.sendCut ?_
        assumption

theorem K.beginRestripe {a : State} {s} (hs : Keeps a s) : Keeps a (State.beginRestripe s) := by
  unfold State.beginRestripe
  extract_lets +onlyGivenNames z0
  try clear_value z0
  extract_lets +onlyGivenNames z1
  try clear_value z1
  split
  · refine K.evHub ?_
    assumption
  · extract_lets +onlyGivenNames z2
    try clear_value z2
    extract_lets +onlyGivenNames z3
    try clear_value z3
    refine K.ite ?_ ?_
    · refine K.evHub ?_
      assumption
    · extract_lets +onlyGivenNames z4
      have h4 : Keeps a z4 := by
        subst z4
        refine K.modMember ?_
        assumption
      try clear_value z4
      extract_lets +onlyGivenNames z5
      have h5 : Keeps a z5 := by
        subst z5
        refine K.foldl ?_ ?_
        · assumption
        · intro y6 y7 k6
          split
          · refine K.mzero ?_
            assumption
          · assumption
      try clear_value z5
      extract_lets +onlyGivenNames z8
      try clear_value z8
      extract_lets +onlyGivenNames z9
      try clear_value z9
      extract_lets +onlyGivenNames z10
      try clear_value z10
      extract_lets +onlyGivenNames z11
      have h11 : Keeps a z11 := by
        subst z11
        refine K.modMember ?_
        assumption
      try clear_value z11
      extract_lets +onlyGivenNames z12
      have h12 : Keeps a z12 := by
        subst z12
        refine K.wr ?_
        assumption
      try clear_value z12
      extract_lets +onlyGivenNames z13
      have h13 : Keeps a z13 := by
        subst z13
        refine K.wr ?_
        assumption
      try clear_value z13
      refine K.startStreams ?_
      assumption

theorem K.takeRelease {a : State} {s} {verdict} (hs : Keeps a s) : Keeps a (State.takeRelease s verdict) := by
  unfold State.takeRelease
  split
  · assumption
  · extract_lets +onlyGivenNames z0
    try clear_value z0
    extract_lets +onlyGivenNames z1
    try clear_value z1
    extract_lets +onlyGivenNames z2
    have h2 : Keeps a z2 := by
      subst z2
      refine K.ite ?_ ?_
      · refine K.dropPieces ?_
        refine K.ite ?_ ?_
        · assumption
        · refine K.inc ?_
          assumption
      · assumption
    try clear_value z2
    extract_lets +onlyGivenNames z3
    have h3 : Keeps a z3 := by
      subst z3
      refine K.modMember ?_
      assumption
    try clear_value z3
    extract_lets +onlyGivenNames z4
    have h4 : Keeps a z4 := by
      subst z4
      refine K.ite ?_ ?_
      · refine K.wr ?_
        assumption
      · assumption
    try clear_value z4
    extract_lets +onlyGivenNames z5
    have h5 : Keeps a z5 := by
      subst z5
      refine K.wr ?_
      assumption
    try clear_value z5
    extract_lets +onlyGivenNames z6
    have h6 : Keeps a z6 := by
      subst z6
      refine K.wr ?_
      assumption
    try clear_value z6
    extract_lets +onlyGivenNames z7
    have h7 : Keeps a z7 := by
      subst z7
      refine K.ite ?_ ?_
      · refine K.wr ?_
        refine K.wr ?_
        assumption
      · assumption
    try clear_value z7
    extract_lets +onlyGivenNames z8
    have h8 : Keeps a z8 := by
      subst z8
      refine K.modPass ?_
      assumption
    try clear_value z8
    extract_lets +onlyGivenNames z9
    have h9 : Keeps a z9 := by
      subst z9
      refine K.ite ?_ ?_
      · refine K.modCouch ?_
        refine K.modPass ?_
        assumption
      · assumption
    try clear_value z9
    extract_lets +onlyGivenNames z10
    have h10 : Keeps a z10 := by
      subst z10
      refine K.ite ?_ ?_
      · refine K.wr ?_
        assumption
      · assumption
    try clear_value z10
    extract_lets +onlyGivenNames z11
    have h11 : Keeps a z11 := by
      subst z11
      refine K.ite ?_ ?_
      · refine K.setFn ?_
        assumption
      · assumption
    try clear_value z11
    extract_lets +onlyGivenNames z12
    have h12 : Keeps a z12 := by
      subst z12
      refine K.startStreams ?_
      assumption
    try clear_value z12
    extract_lets +onlyGivenNames z13
    have h13 : Keeps a z13 := by
      subst z13
      refine K.modMember ?_
      assumption
    try clear_value z13
    extract_lets +onlyGivenNames z14
    have h14 : Keeps a z14 := by
      subst z14
      refine K.wr ?_
      assumption
    try clear_value z14
    extract_lets +onlyGivenNames z15
    have h15 : Keeps a z15 := by
      subst z15
      refine K.ite ?_ ?_
      · refine K.setDev ?_
        assumption
      · assumption
    try clear_value z15
    extract_lets +onlyGivenNames z16
    have h16 : Keeps a z16 := by
      subst z16
      refine K.atRelease ?_
      assumption
    try clear_value z16
    extract_lets +onlyGivenNames z17
    have h17 : Keeps a z17 := by
      subst z17
      refine K.ite ?_ ?_
      · assumption
      · refine K.beginRestripe ?_
        assumption
    try clear_value z17
    refine K.drainHeld ?_
    assumption

theorem K.sendRelease {a : State} {s} {verdict} {groups} (hs : Keeps a s) : Keeps a (State.sendRelease s verdict groups) := by
  unfold State.sendRelease
  split
  · assumption
  · extract_lets +onlyGivenNames z0
    try clear_value z0
    extract_lets +onlyGivenNames z1
    have h1 : Keeps a z1 := by
      subst z1
      refine K.foldl ?_ ?_
      · assumption
      · intro y2 y3 k2
        refine K.sendMember ?_
        assumption
    try clear_value z1
    extract_lets +onlyGivenNames z4
    have h4 : Keeps a z4 := by
      subst z4
      refine K.ite ?_ ?_
      · refine K.evHub ?_
        assumption
      · assumption
    try clear_value z4
    refine K.takeRelease ?_
    assumption

theorem K.judgeReadies {a : State} {s} (hs : Keeps a s) : Keeps a (State.judgeReadies s) := by
  unfold State.judgeReadies
  refine K.ite ?_ ?_
  · assumption
  · extract_lets +onlyGivenNames z0
    try clear_value z0
    extract_lets +onlyGivenNames z1
    try clear_value z1
    refine K.ite ?_ ?_
    · refine K.ite ?_ ?_
      · extract_lets +onlyGivenNames z2
        try clear_value z2
        refine K.sendRelease ?_
        assumption
      · assumption
    · refine K.ite ?_ ?_
      · refine K.tryCut ?_
        assumption
      · refine K.ite ?_ ?_
        · extract_lets +onlyGivenNames z3
          try clear_value z3
          extract_lets +onlyGivenNames z4
          try clear_value z4
          refine K.proposeAt ?_
          assumption
        · assumption

theorem K.sendJoin {a : State} {s} (hs : Keeps a s) : Keeps a (State.sendJoin s) := by
  unfold State.sendJoin
  refine K.ite ?_ ?_
  · refine K.sendMember ?_
    assumption
  · refine K.foldl ?_ ?_
    · assumption
    · intro y0 y1 k0
      refine K.sendMember ?_
      assumption

theorem K.askJoin {a : State} {s} (hs : Keeps a s) : Keeps a (State.askJoin s).2 := by
  unfold State.askJoin
  refine K.ite2 ?_ ?_
  · extract_lets +onlyGivenNames z0
    have h0 : Keeps a z0 := by
      subst z0
      refine K.modMember ?_
      assumption
    try clear_value z0
    extract_lets +onlyGivenNames z1
    have h1 : Keeps a z1 := by
      subst z1
      refine K.ite ?_ ?_
      · refine K.wr ?_
        assumption
      · assumption
    try clear_value z1
    dsimp -zeta only
    refine K.sendJoin ?_
    assumption
  · dsimp -zeta only
    assumption

theorem K.tryStart {a : State} {s} (hs : Keeps a s) : Keeps a (State.tryStart s) := by
  unfold State.tryStart
  extract_lets +onlyGivenNames z0
  try clear_value z0
  extract_lets +onlyGivenNames z1
  try clear_value z1
  refine K.ite ?_ ?_
  · assumption
  · extract_lets +onlyGivenNames z2
    have h2 : Keeps a z2 := by
      subst z2
      refine K.modMember ?_
      assumption
    try clear_value z2
    refine K.proposeAt ?_
    assumption

theorem K.flushEnd {a : State} {s} {complete} (hs : Keeps a s) : Keeps a (State.flushEnd s complete) := by
  unfold State.flushEnd
  split
  · assumption
  · extract_lets +onlyGivenNames z0
    try clear_value z0
    extract_lets +onlyGivenNames z1
    try clear_value z1
    extract_lets +onlyGivenNames z2
    have h2 : Keeps a z2 := by
      subst z2
      refine K.journal ?_
      refine K.toMembers ?_
      assumption
    try clear_value z2
    extract_lets +onlyGivenNames z3
    have h3 : Keeps a z3 := by
      subst z3
      refine K.sendTail ?_
      assumption
    try clear_value z3
    extract_lets +onlyGivenNames z4
    have h4 : Keeps a z4 := by
      subst z4
      refine K.modTwin ?_
      assumption
    try clear_value z4
    extract_lets +onlyGivenNames z5
    have h5 : Keeps a z5 := by
      subst z5
      refine K.wr ?_
      assumption
    try clear_value z5
    extract_lets +onlyGivenNames z6
    have h6 : Keeps a z6 := by
      subst z6
      refine K.ite ?_ ?_
      · refine K.evHub ?_
        assumption
      · refine K.evHub ?_
        assumption
    try clear_value z6
    refine K.enterPaddock ?_
    assumption

theorem K.flushCheck {a : State} {s} (hs : Keeps a s) : Keeps a (State.flushCheck s) := by
  unfold State.flushCheck
  refine K.ite ?_ ?_
  · refine K.flushEnd ?_
    assumption
  · assumption

end Sys2Proof.Machine
end

