-- ==== Sys2Proof/Laws/Keeps/TiersOps.lean ====
section
/-!
SUPPORT. What the operations of Machine/TiersOps.lean keep: the canonical forms, the queue, the build, the test port, the sticky
registers and storage; every frame already handed over stays, and the log's sequence and the draws only rise.
-/

namespace Sys2Proof.Machine

theorem K.takeSnapOrder {a : State} {s} {step} {ex} {num} (hs : Keeps a s) : Keeps a (State.takeSnapOrder s step ex num) := by
  unfold State.takeSnapOrder
  extract_lets +onlyGivenNames z0
  have h0 : Keeps a z0 := by
    subst z0
    refine K.modTiers ?_
    assumption
  try clear_value z0
  extract_lets +onlyGivenNames z1
  try clear_value z1
  refine K.ite ?_ ?_
  · refine K.snapReport ?_
    assumption
  · refine K.modTiers ?_
    assumption

theorem K.sendSnapOrder {a : State} {s} {ex} (hs : Keeps a s) : Keeps a (State.sendSnapOrder s ex) := by
  unfold State.sendSnapOrder
  extract_lets +onlyGivenNames z0
  try clear_value z0
  extract_lets +onlyGivenNames z1
  try clear_value z1
  extract_lets +onlyGivenNames z2
  try clear_value z2
  extract_lets +onlyGivenNames z3
  try clear_value z3
  extract_lets +onlyGivenNames z4
  have h4 : Keeps a z4 := by
    subst z4
    refine K.modTiers ?_
    assumption
  try clear_value z4
  extract_lets +onlyGivenNames z5
  try clear_value z5
  extract_lets +onlyGivenNames z6
  have h6 : Keeps a z6 := by
    subst z6
    refine K.foldl ?_ ?_
    · assumption
    · intro y7 y8 k7
      refine K.sendMember ?_
      assumption
  try clear_value z6
  refine K.takeSnapOrder ?_
  assumption

theorem K.fireSnap {a : State} {s} {ex} (hs : Keeps a s) : Keeps a (State.fireSnap s ex) := by
  unfold State.fireSnap
  refine K.ite ?_ ?_
  · assumption
  · split
    · refine K.sendSnapOrder ?_
      assumption
    · refine K.evHub ?_
      refine K.modTiers ?_
      assumption

theorem K.fireDeferred {a : State} {s} (hs : Keeps a s) : Keeps a (State.fireDeferred s) := by
  unfold State.fireDeferred
  split
  · assumption
  · refine K.fireSnap ?_
    refine K.modTiers ?_
    assumption

theorem K.fReadAll {a : State} {s} {use} {rs} (hs : Keeps a s) : Keeps a (State.fReadAll s use rs) := by
  unfold State.fReadAll
  refine K.foldl ?_ ?_
  · assumption
  · intro y0 y1 k0
    refine K.fIssue ?_
    assumption

theorem K.showNewest {a : State} {s} (hs : Keeps a s) : Keeps a (State.showNewest s) := by
  unfold State.showNewest
  refine K.wr ?_
  assumption

theorem K.findSlots {a : State} {s} (hs : Keeps a s) : Keeps a (State.findSlots s) := by
  unfold State.findSlots
  extract_lets +onlyGivenNames z0
  have h0 : Keeps a z0 := by
    subst z0
    refine K.of (s := s) ?_ rfl rfl rfl rfl rfl rfl rfl rfl rfl rfl rfl rfl rfl
    assumption
  try clear_value z0
  extract_lets +onlyGivenNames z1
  have h1 : Keeps a z1 := by
    subst z1
    refine K.foldl ?_ ?_
    · assumption
    · intro y2 y3 k2
      extract_lets +onlyGivenNames z4
      try clear_value z4
      refine K.fReadAll ?_
      refine K.slotStatus ?_
      assumption
  try clear_value z1
  refine K.showNewest ?_
  assumption

theorem K.slotUnread {a : State} {s} {lba} (hs : Keeps a s) : Keeps a (State.slotUnread s lba) := by
  unfold State.slotUnread
  extract_lets +onlyGivenNames z0
  try clear_value z0
  extract_lets +onlyGivenNames z1
  try clear_value z1
  refine K.ite ?_ ?_
  · assumption
  · refine K.showNewest ?_
    refine K.slotStatus ?_
    assumption

theorem K.fWriteAll {a : State} {s} {use} {lba} {bs} (hs : Keeps a s) : Keeps a (State.fWriteAll s use lba bs) := by
  unfold State.fWriteAll
  refine K.foldl1 ?_ ?_
  · dsimp -zeta only
    assumption
  · intro y0 y1 k0
    dsimp -zeta only
    refine K.fIssue ?_
    assumption

theorem K.sealSnap {a : State} {s} {ended} (hs : Keeps a s) : Keeps a (State.sealSnap s ended) := by
  unfold State.sealSnap
  split
  · assumption
  · refine K.ite ?_ ?_
    · assumption
    · extract_lets +onlyGivenNames z0
      try clear_value z0
      extract_lets +onlyGivenNames z1
      try clear_value z1
      extract_lets +onlyGivenNames z2
      try clear_value z2
      extract_lets +onlyGivenNames z3
      try clear_value z3
      extract_lets +onlyGivenNames z4
      try clear_value z4
      extract_lets +onlyGivenNames z5
      have h5 : Keeps a z5 := by
        subst z5
        refine K.modTiers ?_
        assumption
      try clear_value z5
      extract_lets +onlyGivenNames z6
      have h6 : Keeps a z6 := by
        subst z6
        refine K.slotStatus ?_
        assumption
      try clear_value z6
      refine K.wr ?_
      assumption

theorem K.sealRelease {a : State} {s} (hs : Keeps a s) : Keeps a (State.sealRelease s) := by
  unfold State.sealRelease
  split
  · assumption
  · refine K.ite ?_ ?_
    · assumption
    · extract_lets +onlyGivenNames z0
      try clear_value z0
      extract_lets +onlyGivenNames z1
      have h1 : Keeps a z1 := by
        subst z1
        refine K.modTiers ?_
        assumption
      try clear_value z1
      extract_lets +onlyGivenNames z2
      have h2 : Keeps a z2 := by
        subst z2
        refine K.wr ?_
        assumption
      try clear_value z2
      extract_lets +onlyGivenNames z3
      have h3 : Keeps a z3 := by
        subst z3
        refine K.wr ?_
        assumption
      try clear_value z3
      extract_lets +onlyGivenNames z4
      have h4 : Keeps a z4 := by
        subst z4
        refine K.wr ?_
        assumption
      try clear_value z4
      refine K.drainHeld ?_
      refine K.snapReport ?_
      assumption

theorem K.copyLine {a : State} {s} {n} (hs : Keeps a s) : Keeps a (State.copyLine s n) := by
  unfold State.copyLine
  split
  · assumption
  · refine K.ite ?_ ?_
    · assumption
    · extract_lets +onlyGivenNames z0
      have Hz0 : ∀ {y0}, Keeps a (z0 y0) := by
        subst z0
        intro y1
        try dsimp -zeta only
        refine K.modTiers ?_
        assumption
      try clear_value z0
      extract_lets +onlyGivenNames z2
      try clear_value z2
      extract_lets +onlyGivenNames z3
      try clear_value z3
      split
      · exact Hz0
      · extract_lets +onlyGivenNames z4
        try clear_value z4
        extract_lets +onlyGivenNames z5
        try clear_value z5
        split
        · exact Hz0
        · extract_lets +onlyGivenNames z6
          try clear_value z6
          extract_lets +onlyGivenNames z7
          try clear_value z7
          extract_lets +onlyGivenNames z8
          try clear_value z8
          refine K.ite ?_ ?_
          · exact Hz0
          · split
            · exact Hz0
            · refine K.ite ?_ ?_
              · refine K.ite ?_ ?_
                · assumption
                · refine K.openRepair ?_
                  assumption
              · exact Hz0

theorem K.nextPart {a : State} {s} (hs : Keeps a s) : Keeps a (State.nextPart s) := by
  unfold State.nextPart
  split
  · assumption
  · refine K.ite ?_ ?_
    · assumption
    · split
      · assumption
      · refine K.fIssue ?_
        refine K.modTiers ?_
        assumption

theorem K.finishCopy {a : State} {s} (hs : Keeps a s) : Keeps a (State.finishCopy s) := by
  unfold State.finishCopy
  split
  · assumption
  · refine K.ite ?_ ?_
    · assumption
    · extract_lets +onlyGivenNames z0
      try clear_value z0
      split
      · extract_lets +onlyGivenNames z1
        try clear_value z1
        extract_lets +onlyGivenNames z2
        try clear_value z2
        refine K.ite ?_ ?_
        · refine K.drainHeld ?_
          refine K.abandonSnap ?_
          assumption
        · extract_lets +onlyGivenNames z3
          try clear_value z3
          extract_lets +onlyGivenNames z4
          try clear_value z4
          extract_lets +onlyGivenNames z5
          try clear_value z5
          extract_lets +onlyGivenNames z6
          try clear_value z6
          extract_lets +onlyGivenNames z7
          have h7 : Keeps a z7 := by
            subst z7
            refine K.modTiers ?_
            assumption
          try clear_value z7
          extract_lets +onlyGivenNames z8
          have h8 : Keeps a z8 := by
            subst z8
            refine K.wr ?_
            assumption
          try clear_value z8
          refine K.nextPart ?_
          refine K.fWriteAll ?_
          assumption

theorem K.copyStep {a : State} {s} {n} (hs : Keeps a s) : Keeps a (State.copyStep s n) := by
  unfold State.copyStep
  refine K.finishCopy ?_
  refine K.drainHeld ?_
  refine K.copyLine ?_
  assumption

theorem K.abandonExport {a : State} {s} {reason} (hs : Keeps a s) : Keeps a (State.abandonExport s reason) := by
  unfold State.abandonExport
  split
  · assumption
  · extract_lets +onlyGivenNames z0
    have h0 : Keeps a z0 := by
      subst z0
      refine K.modTiers ?_
      assumption
    try clear_value z0
    extract_lets +onlyGivenNames z1
    have h1 : Keeps a z1 := by
      subst z1
      refine K.of (s := z0) ?_ rfl rfl rfl rfl rfl rfl rfl rfl rfl rfl rfl rfl rfl
      assumption
    try clear_value z1
    extract_lets +onlyGivenNames z2
    have h2 : Keeps a z2 := by
      subst z2
      refine K.ite ?_ ?_
      · refine K.slotStatus ?_
        assumption
      · assumption
    try clear_value z2
    refine K.evHub ?_
    refine K.inc ?_
    assumption

theorem K.startExport {a : State} {s} {c} (hs : Keeps a s) : Keeps a (State.startExport s c) := by
  unfold State.startExport
  refine K.ite ?_ ?_
  · assumption
  · refine K.fReadAll ?_
    refine K.modTiers ?_
    assumption

theorem K.writeExport {a : State} {s} (hs : Keeps a s) : Keeps a (State.writeExport s) := by
  unfold State.writeExport
  split
  · assumption
  · refine K.ite ?_ ?_
    · assumption
    · extract_lets +onlyGivenNames z0
      try clear_value z0
      refine K.ite ?_ ?_
      · refine K.abandonExport ?_
        assumption
      · extract_lets +onlyGivenNames z1
        have h1 : Keeps a z1 := by
          subst z1
          refine K.modTiers ?_
          assumption
        try clear_value z1
        extract_lets +onlyGivenNames z2
        have h2 : Keeps a z2 := by
          subst z2
          refine K.slotStatus ?_
          assumption
        try clear_value z2
        refine K.fWriteAll ?_
        assumption

theorem K.exportDone {a : State} {s} (hs : Keeps a s) : Keeps a (State.exportDone s) := by
  unfold State.exportDone
  split
  · assumption
  · refine K.ite ?_ ?_
    · assumption
    · extract_lets +onlyGivenNames z0
      have h0 : Keeps a z0 := by
        subst z0
        refine K.modTiers ?_
        assumption
      try clear_value z0
      extract_lets +onlyGivenNames z1
      have h1 : Keeps a z1 := by
        subst z1
        refine K.slotStatus ?_
        assumption
      try clear_value z1
      extract_lets +onlyGivenNames z2
      have h2 : Keeps a z2 := by
        subst z2
        refine K.incBy ?_
        refine K.inc ?_
        assumption
      try clear_value z2
      refine K.evHub ?_
      assumption

theorem K.snapComplete {a : State} {s} (hs : Keeps a s) : Keeps a (State.snapComplete s) := by
  unfold State.snapComplete
  split
  · assumption
  · refine K.ite ?_ ?_
    · assumption
    · extract_lets +onlyGivenNames z0
      have h0 : Keeps a z0 := by
        subst z0
        refine K.modTiers ?_
        assumption
      try clear_value z0
      extract_lets +onlyGivenNames z1
      have h1 : Keeps a z1 := by
        subst z1
        refine K.incBy ?_
        refine K.inc ?_
        assumption
      try clear_value z1
      extract_lets +onlyGivenNames z2
      have h2 : Keeps a z2 := by
        subst z2
        refine K.wr ?_
        refine K.wr ?_
        assumption
      try clear_value z2
      extract_lets +onlyGivenNames z3
      have h3 : Keeps a z3 := by
        subst z3
        refine K.slotStatus ?_
        assumption
      try clear_value z3
      extract_lets +onlyGivenNames z4
      have h4 : Keeps a z4 := by
        subst z4
        refine K.evHub ?_
        assumption
      try clear_value z4
      refine K.startExport ?_
      refine K.snapReport ?_
      refine K.freeChains ?_
      assumption

end Sys2Proof.Machine
end

