-- ==== Sys2Proof/Laws/Keeps/RestoreOps.lean ====
section
/-!
SUPPORT. What the operations of Machine/RestoreOps.lean keep: the canonical forms, the queue, the build, the test port, the sticky
registers and storage; every frame already handed over stays, and the log's sequence and the draws only rise.
-/

namespace Sys2Proof.Machine

theorem K.toDomain {a : State} {s} {f} (hs : Keeps a s) : Keeps a (State.toDomain s f) := by
  unfold State.toDomain
  refine K.foldl ?_ ?_
  · assumption
  · intro y0 y1 k0
    refine K.sendMember ?_
    assumption

theorem K.refuseRestore {a : State} {s} {reason} (hs : Keeps a s) : Keeps a (State.refuseRestore s reason) := by
  unfold State.refuseRestore
  extract_lets +onlyGivenNames z0
  have h0 : Keeps a z0 := by
    subst z0
    refine K.modTiers ?_
    assumption
  try clear_value z0
  refine K.ev ?_
  refine K.wr ?_
  refine K.wr ?_
  assumption

theorem K.takeRestoreOrder {a : State} {s} {step} {outcome} {picks} (hs : Keeps a s) : Keeps a (State.takeRestoreOrder s step outcome picks) := by
  unfold State.takeRestoreOrder
  refine K.ite ?_ ?_
  · assumption
  · extract_lets +onlyGivenNames z0
    try clear_value z0
    extract_lets +onlyGivenNames z1
    try clear_value z1
    extract_lets +onlyGivenNames z2
    have h2 : Keeps a z2 := by
      subst z2
      refine K.modTiers ?_
      assumption
    try clear_value z2
    extract_lets +onlyGivenNames z3
    have h3 : Keeps a z3 := by
      subst z3
      refine K.of (s := z2) ?_ rfl rfl rfl rfl rfl rfl rfl rfl rfl rfl rfl rfl rfl
      assumption
    try clear_value z3
    extract_lets +onlyGivenNames z4
    have h4 : Keeps a z4 := by
      subst z4
      refine K.wr ?_
      assumption
    try clear_value z4
    split
    · assumption
    · refine K.ite ?_ ?_
      · assumption
      · split
        · extract_lets +onlyGivenNames z5
          have h5 : Keeps a z5 := by
            subst z5
            refine K.modTiers ?_
            assumption
          try clear_value z5
          refine K.foldl ?_ ?_
          · assumption
          · intro y6 y7 k6
            refine K.fIssue ?_
            assumption

theorem K.runSelection {a : State} {s} (hs : Keeps a s) : Keeps a (State.runSelection s) := by
  unfold State.runSelection
  extract_lets +onlyGivenNames z0
  try clear_value z0
  refine K.ite ?_ ?_
  · refine K.refuseRestore ?_
    assumption
  · split
    · refine K.refuseRestore ?_
      assumption
    · refine K.takeRestoreOrder ?_
      refine K.toDomain ?_
      assumption

theorem K.takeInventory {a : State} {s} {dev} {cs} (hs : Keeps a s) : Keeps a (State.takeInventory s dev cs) := by
  unfold State.takeInventory
  extract_lets +onlyGivenNames z0
  have h0 : Keeps a z0 := by
    subst z0
    refine K.modTiers ?_
    assumption
  try clear_value z0
  refine K.ite ?_ ?_
  · refine K.runSelection ?_
    assumption
  · assumption

theorem K.listCandidates {a : State} {s} (hs : Keeps a s) : Keeps a (State.listCandidates s) := by
  unfold State.listCandidates
  refine K.ite ?_ ?_
  · assumption
  · extract_lets +onlyGivenNames z0
    try clear_value z0
    refine K.takeInventory ?_
    refine K.toDomain ?_
    assumption

theorem K.listRead {a : State} {s} {c} {ok} (hs : Keeps a s) : Keeps a (State.listRead s c ok) := by
  unfold State.listRead
  refine K.listCandidates ?_
  refine K.ite ?_ ?_
  · assumption
  · refine K.modTiers ?_
    assumption

theorem K.repeatInventory {a : State} {s} (hs : Keeps a s) : Keeps a (State.repeatInventory s) := by
  unfold State.repeatInventory
  split
  · refine K.ite ?_ ?_
    · refine K.toDomain ?_
      assumption
    · assumption
  · assumption

theorem K.askRestore {a : State} {s} (hs : Keeps a s) : Keeps a (State.askRestore s).2 := by
  unfold State.askRestore
  extract_lets +onlyGivenNames z0
  try clear_value z0
  extract_lets +onlyGivenNames z1
  have h1 : Keeps a z1 := by
    subst z1
    refine K.modTiers ?_
    assumption
  try clear_value z1
  extract_lets +onlyGivenNames z2
  have h2 : Keeps a z2 := by
    subst z2
    refine K.of (s := z1) ?_ rfl rfl rfl rfl rfl rfl rfl rfl rfl rfl rfl rfl rfl
    assumption
  try clear_value z2
  extract_lets +onlyGivenNames z3
  have h3 : Keeps a z3 := by
    subst z3
    refine K.wr ?_
    refine K.wr ?_
    assumption
  try clear_value z3
  extract_lets +onlyGivenNames z4
  try clear_value z4
  dsimp -zeta only
  refine K.listCandidates ?_
  refine K.ite ?_ ?_
  · refine K.fReadAll ?_
    assumption
  · assumption

theorem K.loadLines {a : State} {s} {sp} {nW} {n} {ls} (hs : Keeps a s) : Keeps a (State.loadLines s sp nW n ls) := by
  induction ls generalizing s n with
  | nil => exact hs
  | cons l ls ih => exact ih (K.mwr hs)

theorem K.absorbLoaded {a : State} {s} {nW} {nN} (hs : Keeps a s) : Keeps a (State.absorbLoaded s nW nN) := by
  unfold State.absorbLoaded
  extract_lets +onlyGivenNames z0
  try clear_value z0
  extract_lets +onlyGivenNames z1
  try clear_value z1
  extract_lets +onlyGivenNames z2
  try clear_value z2
  extract_lets +onlyGivenNames z3
  try clear_value z3
  extract_lets +onlyGivenNames z4
  try clear_value z4
  refine K.showPieces ?_
  refine K.modMember ?_
  assumption

theorem K.subtract {a : State} {s} {nW} {x} (hs : Keeps a s) : Keeps a (State.subtract s nW x) := by
  unfold State.subtract
  refine K.mwr ?_
  assumption

theorem K.rederiveAll {a : State} {s} {t} (hs : Keeps a s) : Keeps a (State.rederiveAll s t) := by
  unfold State.rederiveAll
  refine K.foldl ?_ ?_
  · assumption
  · intro y0 y1 k0
    refine K.rederive ?_
    assumption

theorem K.loadImage {a : State} {s} {a'} {n} {t} (hs : Keeps a s) : Keeps a (State.loadImage s a' n t).2 := by
  unfold State.loadImage
  extract_lets +onlyGivenNames z0
  try clear_value z0
  extract_lets +onlyGivenNames z1
  try clear_value z1
  extract_lets +onlyGivenNames z2
  try clear_value z2
  extract_lets +onlyGivenNames z3
  try clear_value z3
  extract_lets +onlyGivenNames z4
  try clear_value z4
  extract_lets +onlyGivenNames z5
  try clear_value z5
  extract_lets +onlyGivenNames z6
  try clear_value z6
  extract_lets +onlyGivenNames z7
  try clear_value z7
  extract_lets +onlyGivenNames z8
  try clear_value z8
  extract_lets +onlyGivenNames z9
  try clear_value z9
  extract_lets +onlyGivenNames z10
  have h10 : Keeps a z10 := by
    subst z10
    refine K.loadLines ?_
    assumption
  try clear_value z10
  extract_lets +onlyGivenNames z11
  have h11 : Keeps a z11 := by
    subst z11
    refine K.loadLines ?_
    assumption
  try clear_value z11
  extract_lets +onlyGivenNames z12
  try clear_value z12
  extract_lets +onlyGivenNames z13
  have h13 : Keeps a z13 := by
    subst z13
    refine K.foldl ?_ ?_
    · assumption
    · intro y14 y15 k14
      refine K.foldl ?_ ?_
      · assumption
      · intro y16 y17 k16
        refine K.subtract ?_
        assumption
  try clear_value z13
  extract_lets +onlyGivenNames z18
  try clear_value z18
  extract_lets +onlyGivenNames z19
  try clear_value z19
  extract_lets +onlyGivenNames z20
  try clear_value z20
  extract_lets +onlyGivenNames z21
  have h21 : Keeps a z21 := by
    subst z21
    refine K.rederiveAll ?_
    refine K.absorbLoaded ?_
    assumption
  try clear_value z21
  extract_lets +onlyGivenNames z22
  have h22 : Keeps a z22 := by
    subst z22
    refine K.modTiers ?_
    assumption
  try clear_value z22
  dsimp -zeta only
  assumption

theorem K.loadRecord {a : State} {s} {f} (hs : Keeps a s) : Keeps a (State.loadRecord s f).2 := by
  unfold State.loadRecord
  extract_lets +onlyGivenNames z0
  try clear_value z0
  extract_lets +onlyGivenNames z1
  try clear_value z1
  extract_lets +onlyGivenNames z2
  try clear_value z2
  split
  · dsimp -zeta only
    assumption
  · split
    · dsimp -zeta only
      assumption
    · extract_lets +onlyGivenNames z3
      try clear_value z3
      extract_lets +onlyGivenNames z4
      try clear_value z4
      extract_lets +onlyGivenNames z5
      try clear_value z5
      extract_lets +onlyGivenNames z6
      try clear_value z6
      refine K.ite2 ?_ ?_
      · dsimp -zeta only
        refine K.mwr ?_
        assumption
      · dsimp -zeta only
        assumption

theorem K.loadRecords {a : State} {s} {n} {bs} {off} {ok} (hs : Keeps a s) : Keeps a (State.loadRecords s n bs off ok).2.2 := by
  induction n generalizing s bs off ok with
  | zero => exact hs
  | succ n ih =>
    unfold State.loadRecords
    split
    · exact hs
    · exact ih (K.loadRecord hs)

theorem K.loadExport {a : State} {s} {x n t} (hs : Keeps a s) : Keeps a (State.loadExport s x n t).2 := by
  unfold State.loadExport
  extract_lets +onlyGivenNames z0
  have k := K.loadRecords (n := n / 64) (bs := List.drop 4096 z0) (off := 4096) (ok := true) hs
  split
  rename_i e
  rw [e] at k
  dsimp only
  exact K.modTiers (K.rederiveAll k)

theorem K.loadMemory {a : State} {s} {t} (hs : Keeps a s) : Keeps a (State.loadMemory s t).2 := by
  unfold State.loadMemory
  extract_lets +onlyGivenNames z0
  try clear_value z0
  extract_lets +onlyGivenNames z1
  have h1 : Keeps a z1 := by
    subst z1
    refine K.foldl ?_ ?_
    · assumption
    · intro y2 y3 k2
      refine K.undo ?_
      assumption
  try clear_value z1
  extract_lets +onlyGivenNames z4
  have h4 : Keeps a z4 := by
    subst z4
    refine K.modMember ?_
    assumption
  try clear_value z4
  extract_lets +onlyGivenNames z5
  have h5 : Keeps a z5 := by
    subst z5
    refine K.rederiveAll ?_
    assumption
  try clear_value z5
  extract_lets +onlyGivenNames z6
  have h6 : Keeps a z6 := by
    subst z6
    refine K.modTiers ?_
    assumption
  try clear_value z6
  dsimp -zeta only
  assumption

theorem K.finishRestore {a : State} {s} {t} {outcome} (hs : Keeps a s) : Keeps a (State.finishRestore s t outcome) := by
  unfold State.finishRestore
  split
  · extract_lets +onlyGivenNames z0
    have h0 : Keeps a z0 := by
      subst z0
      refine K.modTiers ?_
      assumption
    try clear_value z0
    extract_lets +onlyGivenNames z1
    have h1 : Keeps a z1 := by
      subst z1
      refine K.wr ?_
      refine K.wr ?_
      refine K.wr ?_
      assumption
    try clear_value z1
    extract_lets +onlyGivenNames z2
    have h2 : Keeps a z2 := by
      subst z2
      refine K.wr ?_
      refine K.wr ?_
      assumption
    try clear_value z2
    extract_lets +onlyGivenNames z3
    have h3 : Keeps a z3 := by
      subst z3
      refine K.wr ?_
      assumption
    try clear_value z3
    refine K.ev ?_
    refine K.inc ?_
    assumption

theorem K.takeRestoreReport {a : State} {s} {shard} {result} {cause} {t} (hs : Keeps a s) : Keeps a (State.takeRestoreReport s shard result cause t) := by
  unfold State.takeRestoreReport
  split
  · assumption
  · refine K.ite ?_ ?_
    · assumption
    · refine K.ite ?_ ?_
      · extract_lets +onlyGivenNames z0
        have h0 : Keeps a z0 := by
          subst z0
          refine K.modTiers ?_
          assumption
        try clear_value z0
        refine K.ite ?_ ?_
        · refine K.finishRestore ?_
          assumption
        · assumption
      · refine K.ite ?_ ?_
        · assumption
        · extract_lets +onlyGivenNames z1
          have h1 : Keeps a z1 := by
            subst z1
            refine K.modTiers ?_
            assumption
          try clear_value z1
          extract_lets +onlyGivenNames z2
          have h2 : Keeps a z2 := by
            subst z2
            refine K.ev ?_
            refine K.inc ?_
            assumption
          try clear_value z2
          refine K.runSelection ?_
          assumption

theorem K.restoreReport {a : State} {s} {shard} {result} {cause} {t} (hs : Keeps a s) : Keeps a (State.restoreReport s shard result cause t) := by
  unfold State.restoreReport
  extract_lets +onlyGivenNames z0
  have h0 : Keeps a z0 := by
    subst z0
    refine K.modTiers ?_
    assumption
  try clear_value z0
  extract_lets +onlyGivenNames z1
  try clear_value z1
  refine K.takeRestoreReport ?_
  refine K.toDomain ?_
  assumption

theorem K.shardLoaded {a : State} {s} (hs : Keeps a s) : Keeps a (State.shardLoaded s) := by
  unfold State.shardLoaded
  split
  · refine K.ite ?_ ?_
    · assumption
    · split
      · rename_i v0_0 v0_1 e0
        have h0 : Keeps a v0_1 := by
          refine K.eq2 e0 ?_
          split
          · refine K.loadMemory ?_
            assumption
          · refine K.loadImage ?_
            assumption
          · refine K.loadExport ?_
            assumption
        split
        · refine K.restoreReport ?_
          assumption
        · refine K.restoreReport ?_
          assumption
  · assumption

theorem K.restoreReadFailed {a : State} {s} (hs : Keeps a s) : Keeps a (State.restoreReadFailed s) := by
  unfold State.restoreReadFailed
  split
  · refine K.restoreReport ?_
    refine K.of (s := s) ?_ rfl rfl rfl rfl rfl rfl rfl rfl rfl rfl rfl rfl rfl
    assumption
  · assumption

end Sys2Proof.Machine
end

