-- ==== Sys2Proof/Laws/Keeps/LifeOps.lean ====
section
/-!
SUPPORT. What the operations of Machine/LifeOps.lean keep: the canonical forms, the queue, the build, the test port, the sticky
registers and storage; every frame already handed over stays, and the log's sequence and the draws only rise.
-/

namespace Sys2Proof.Machine

theorem K.setPair {a : State} {s} {n} {v} (hs : Keeps a s) : Keeps a (State.setPair s n v) := by
  unfold State.setPair
  refine K.ite ?_ ?_
  · assumption
  · refine K.wr ?_
    assumption

theorem K.feedJudge {a : State} {s} (hs : Keeps a s) : Keeps a (State.feedJudge s) := by
  unfold State.feedJudge
  refine K.modSensors ?_
  assumption

theorem K.feedBit {a : State} {s} {i} {v} (hs : Keeps a s) : Keeps a (State.feedBit s i v) := by
  unfold State.feedBit
  refine K.wr ?_
  assumption

theorem K.enterHoldover {a : State} {s} (hs : Keeps a s) : Keeps a (State.enterHoldover s) := by
  unfold State.enterHoldover
  refine K.ite ?_ ?_
  · assumption
  · extract_lets +onlyGivenNames z0
    have h0 : Keeps a z0 := by
      subst z0
      refine K.modClock ?_
      assumption
    try clear_value z0
    extract_lets +onlyGivenNames z1
    have h1 : Keeps a z1 := by
      subst z1
      refine K.inc ?_
      refine K.wr ?_
      assumption
    try clear_value z1
    refine K.evHub ?_
    assumption

theorem K.writeLogTail {a : State} {s} (hs : Keeps a s) : Keeps a (State.writeLogTail s) := by
  unfold State.writeLogTail
  extract_lets +onlyGivenNames z0
  try clear_value z0
  refine K.ite ?_ ?_
  · assumption
  · refine K.fIssue ?_
    assumption

theorem K.bareFlush {a : State} {s} (hs : Keeps a s) : Keeps a (State.bareFlush s) := by
  unfold State.bareFlush
  extract_lets +onlyGivenNames z0
  try clear_value z0
  extract_lets +onlyGivenNames z1
  have h1 : Keeps a z1 := by
    subst z1
    refine K.modCouch ?_
    assumption
  try clear_value z1
  extract_lets +onlyGivenNames z2
  have h2 : Keeps a z2 := by
    subst z2
    refine K.flushEnd ?_
    assumption
  try clear_value z2
  refine K.ite ?_ ?_
  · refine K.allOff ?_
    refine K.discardCoding ?_
    assumption
  · assumption

theorem K.startFlush {a : State} {s} (hs : Keeps a s) : Keeps a (State.startFlush s) := by
  unfold State.startFlush
  refine K.ite ?_ ?_
  · assumption
  · extract_lets +onlyGivenNames z0
    try clear_value z0
    extract_lets +onlyGivenNames z1
    have h1 : Keeps a z1 := by
      subst z1
      refine K.modCouch ?_
      assumption
    try clear_value z1
    extract_lets +onlyGivenNames z2
    have h2 : Keeps a z2 := by
      subst z2
      refine K.inc ?_
      refine K.wr ?_
      assumption
    try clear_value z2
    extract_lets +onlyGivenNames z3
    have h3 : Keeps a z3 := by
      subst z3
      refine K.evHub ?_
      assumption
    try clear_value z3
    extract_lets +onlyGivenNames z4
    have h4 : Keeps a z4 := by
      subst z4
      refine K.countCow ?_
      refine K.failHeld ?_
      assumption
    try clear_value z4
    extract_lets +onlyGivenNames z5
    have h5 : Keeps a z5 := by
      subst z5
      refine K.foldl ?_ ?_
      · assumption
      · intro y6 y7 k6
        refine K.errorResp ?_
        assumption
    try clear_value z5
    extract_lets +onlyGivenNames z8
    have h8 : Keeps a z8 := by
      subst z8
      refine K.yFlush ?_
      refine K.modProt ?_
      assumption
    try clear_value z8
    extract_lets +onlyGivenNames z9
    have h9 : Keeps a z9 := by
      subst z9
      refine K.stopPass ?_
      refine K.abandonExport ?_
      refine K.abandonSnap ?_
      assumption
    try clear_value z9
    extract_lets +onlyGivenNames z10
    have h10 : Keeps a z10 := by
      subst z10
      refine K.writeLogTail ?_
      assumption
    try clear_value z10
    refine K.ite ?_ ?_
    · refine K.bareFlush ?_
      assumption
    · refine K.flushCheck ?_
      refine K.pump ?_
      refine K.resendAll ?_
      assumption

theorem K.openStable {a : State} {s} {owner} {need} (hs : Keeps a s) : Keeps a (State.openStable s owner need).2 := by
  unfold State.openStable
  refine K.ite2 ?_ ?_
  · dsimp -zeta only
    assumption
  · refine K.ite2 ?_ ?_
    · dsimp -zeta only
      refine K.refreshStalls ?_
      refine K.wr ?_
      assumption
    · dsimp -zeta only
      refine K.ev ?_
      assumption

theorem K.grantAll {a : State} {s} {rs} (hs : Keeps a s) : Keeps a (State.grantAll s rs).2 := by
  induction rs generalizing s with
  | nil => exact hs
  | cons r rs ih =>
    unfold State.grantAll
    split
    · rename_i e
      exact ih (K.eq2 e (K.grant hs))
    · rename_i e
      exact K.eq2 e (K.grant hs)

theorem KO2.map {α β : Type} {a : State} {o : Option α} {f : α → β × State} (h : ∀ x, Keeps a (f x).2) : KO2 a (o.map f) := by
  intro p e
  cases o with
  | none => cases e
  | some x => cases e; exact h x

theorem K.startFault {a : State} {s} {f} (hs : Keeps a s) : KO2 a (State.startFault s f) := by
  unfold State.startFault
  cases f with
  | coding => exact KO2.ite (KO2.ofSome (K.ev hs)) (KO2.map fun _ => K.evHub hs)
  | deepTiers => exact KO2.ite (KO2.ofSome (K.ev hs)) KO2.ofNone
  | reduction => exact KO2.map (fun _ => K.ev (K.wr hs))
  | yard => exact KO2.map (fun _ => K.ev (K.wr hs))
  | routing => exact KO2.map (fun _ => K.ev (K.wr hs))
  | siteExchange => exact KO2.map (fun _ => K.ev (K.wr hs))

theorem K.beginCoding {a : State} {s} (hs : Keeps a s) : Keeps a (State.beginCoding s) := by
  unfold State.beginCoding
  extract_lets +onlyGivenNames z0
  have h0 : Keeps a z0 := by
    subst z0
    refine K.showCounts ?_
    refine K.modTwin ?_
    assumption
  try clear_value z0
  extract_lets +onlyGivenNames z1
  have h1 : Keeps a z1 := by
    subst z1
    refine K.modMember ?_
    assumption
  try clear_value z1
  refine K.ite ?_ ?_
  · assumption
  · refine K.tryStart ?_
    refine K.sendJoin ?_
    refine K.wr ?_
    assumption

theorem K.beginFn {a : State} {s} {f} (hs : Keeps a s) : Keeps a (State.beginFn s f) := by
  unfold State.beginFn
  split
  · refine K.beginCoding ?_
    assumption
  · refine K.setFn ?_
    refine K.findSlots ?_
    refine K.modTiers ?_
    assumption
  · refine K.setFn ?_
    refine K.resteer ?_
    refine K.redClear ?_
    assumption
  · refine K.setFn ?_
    refine K.resteer ?_
    refine K.yStart ?_
    assumption
  · refine K.setFn ?_
    refine K.resteer ?_
    assumption
  · refine K.setFn ?_
    refine K.exchStart ?_
    assumption

theorem K.startFn {a : State} {s} {f} (hs : Keeps a s) : Keeps a (State.startFn s f) := by
  unfold State.startFn
  extract_lets +onlyGivenNames z0
  have h0 : Keeps a z0 := by
    subst z0
    refine K.setFn ?_
    assumption
  try clear_value z0
  extract_lets +onlyGivenNames z1
  try clear_value z1
  split
  · rename_i v2_0 v2_1 e2
    have h2 : Keeps a v2_1 := by
      refine KO2.eq e2 ?_
      refine K.startFault ?_
      assumption
    refine K.startRefused ?_
    assumption
  · split
    · rename_i v3_0 e3
      have h3 : Keeps a v3_0 := by
        refine K.eq2 e3 ?_
        refine K.ite2 ?_ ?_
        · dsimp -zeta only
          assumption
        · refine K.openStable ?_
          assumption
      refine K.startRefused ?_
      assumption
    · rename_i v4_0 e4
      have h4 : Keeps a v4_0 := by
        refine K.eq2 e4 ?_
        refine K.ite2 ?_ ?_
        · dsimp -zeta only
          assumption
        · refine K.openStable ?_
          assumption
      split
      · rename_i v5_0 e5
        have h5 : Keeps a v5_0 := by
          refine K.eq2 e5 ?_
          refine K.grantAll ?_
          assumption
        refine K.startRefused ?_
        assumption
      · rename_i v6_0 e6
        have h6 : Keeps a v6_0 := by
          refine K.eq2 e6 ?_
          refine K.grantAll ?_
          assumption
        refine K.beginFn ?_
        assumption

theorem K.depart {a : State} {s} (hs : Keeps a s) : Keeps a (State.depart s) := by
  unfold State.depart
  refine K.ite ?_ ?_
  · extract_lets +onlyGivenNames z0
    have h0 : Keeps a z0 := by
      subst z0
      refine K.leaveJob ?_
      assumption
    try clear_value z0
    refine K.ite ?_ ?_
    · refine K.wr ?_
      assumption
    · assumption
  · extract_lets +onlyGivenNames z1
    have h1 : Keeps a z1 := by
      subst z1
      refine K.toMembers ?_
      assumption
    try clear_value z1
    extract_lets +onlyGivenNames z2
    have h2 : Keeps a z2 := by
      subst z2
      refine K.modTwin ?_
      assumption
    try clear_value z2
    extract_lets +onlyGivenNames z3
    have h3 : Keeps a z3 := by
      subst z3
      refine K.leaveJob ?_
      refine K.stopPass ?_
      refine K.failHeld ?_
      assumption
    try clear_value z3
    refine K.ite ?_ ?_
    · refine K.wr ?_
      assumption
    · assumption

theorem K.startDrain {a : State} {s} {f} {cause} (hs : Keeps a s) : Keeps a (State.startDrain s f cause) := by
  unfold State.startDrain
  extract_lets +onlyGivenNames z0
  try clear_value z0
  refine K.ite ?_ ?_
  · assumption
  · extract_lets +onlyGivenNames z1
    have h1 : Keeps a z1 := by
      subst z1
      refine K.setFn ?_
      assumption
    try clear_value z1
    refine K.ite ?_ ?_
    · assumption
    · refine K.ite ?_ ?_
      · refine K.depart ?_
        assumption
      · refine K.ite ?_ ?_
        · refine K.setDev ?_
          assumption
        · assumption

theorem K.drainAll {a : State} {s} {cause} (hs : Keeps a s) : Keeps a (State.drainAll s cause) := by
  unfold State.drainAll
  refine K.foldl ?_ ?_
  · assumption
  · intro y0 y1 k0
    refine K.startDrain ?_
    assumption

theorem K.takePending {a : State} {s} {f} (hs : Keeps a s) : Keeps a (State.takePending s f) := by
  unfold State.takePending
  refine K.ite ?_ ?_
  · assumption
  · extract_lets +onlyGivenNames z0
    have h0 : Keeps a z0 := by
      subst z0
      refine K.inc ?_
      refine K.wr ?_
      assumption
    try clear_value z0
    refine K.ite ?_ ?_
    · refine K.startFn ?_
      assumption
    · assumption

theorem K.endDrain {a : State} {s} {f} (hs : Keeps a s) : Keeps a (State.endDrain s f) := by
  unfold State.endDrain
  extract_lets +onlyGivenNames z0
  have h0 : Keeps a z0 := by
    subst z0
    split
    · refine K.depart ?_
      assumption
    · refine K.modTiers ?_
      assumption
    · refine K.wr ?_
      refine K.exchClear ?_
      assumption
    · assumption
  try clear_value z0
  extract_lets +onlyGivenNames z1
  have h1 : Keeps a z1 := by
    subst z1
    refine K.inc ?_
    refine K.setFn ?_
    assumption
  try clear_value z1
  extract_lets +onlyGivenNames z2
  have h2 : Keeps a z2 := by
    subst z2
    refine K.tidyFn ?_
    assumption
  try clear_value z2
  extract_lets +onlyGivenNames z3
  have h3 : Keeps a z3 := by
    subst z3
    refine K.ite ?_ ?_
    · refine K.setDev ?_
      assumption
    · assumption
  try clear_value z3
  refine K.takePending ?_
  assumption

theorem K.enableAct {a : State} {s} {f} {v} (hs : Keeps a s) : Keeps a (State.enableAct s f v).2 := by
  unfold State.enableAct
  extract_lets +onlyGivenNames z0
  try clear_value z0
  extract_lets +onlyGivenNames z1
  try clear_value z1
  refine K.ite2 ?_ ?_
  · refine K.ite2 ?_ ?_
    · dsimp -zeta only
      assumption
    · refine K.ite2 ?_ ?_
      · extract_lets +onlyGivenNames z2
        try clear_value z2
        refine K.ite2 ?_ ?_
        · dsimp -zeta only
          refine K.startFn ?_
          assumption
        · dsimp -zeta only
          assumption
      · refine K.ite2 ?_ ?_
        · dsimp -zeta only
          assumption
        · refine K.ite2 ?_ ?_
          · dsimp -zeta only
            refine K.wr ?_
            assumption
          · dsimp -zeta only
            assumption
  · refine K.ite2 ?_ ?_
    · dsimp -zeta only
      assumption
    · refine K.ite2 ?_ ?_
      · dsimp -zeta only
        refine K.wr ?_
        assumption
      · dsimp -zeta only
        refine K.startDrain ?_
        assumption

theorem K.readFuses {a : State} {s} (hs : Keeps a s) : Keeps a (State.readFuses s) := by
  unfold State.readFuses
  extract_lets +onlyGivenNames z0
  try clear_value z0
  extract_lets +onlyGivenNames z1
  have h1 : Keeps a z1 := by
    subst z1
    refine K.wr ?_
    assumption
  try clear_value z1
  extract_lets +onlyGivenNames z2
  have h2 : Keeps a z2 := by
    subst z2
    refine K.wr ?_
    assumption
  try clear_value z2
  refine K.wr ?_
  assumption

theorem K.releaseReset {a : State} {s} {pairs} (hs : Keeps a s) : Keeps a (State.releaseReset s pairs) := by
  unfold State.releaseReset
  extract_lets +onlyGivenNames z0
  have h0 : Keeps a z0 := by
    subst z0
    refine K.readFuses ?_
    assumption
  try clear_value z0
  extract_lets +onlyGivenNames z1
  have h1 : Keeps a z1 := by
    subst z1
    refine K.foldl ?_ ?_
    · assumption
    · intro y2 y3 k2
      refine K.wr ?_
      assumption
  try clear_value z1
  refine K.setDev ?_
  assumption

theorem K.showSlot {a : State} {s} {slot} {state} (hs : Keeps a s) : Keeps a (State.showSlot s slot state) := by
  unfold State.showSlot
  extract_lets +onlyGivenNames z0
  try clear_value z0
  refine K.wrO ?_
  assumption

theorem K.chunkAct {a : State} {s} {b} (hs : Keeps a s) : Keeps a (State.chunkAct s b).2 := by
  unfold State.chunkAct
  extract_lets +onlyGivenNames z0
  try clear_value z0
  extract_lets +onlyGivenNames z1
  try clear_value z1
  refine K.ite2 ?_ ?_
  · dsimp -zeta only
    assumption
  · extract_lets +onlyGivenNames z2
    have h2 : Keeps a z2 := by
      subst z2
      refine K.modFirmware ?_
      assumption
    try clear_value z2
    extract_lets +onlyGivenNames z3
    have h3 : Keeps a z3 := by
      subst z3
      refine K.fIssue ?_
      assumption
    try clear_value z3
    extract_lets +onlyGivenNames z4
    have h4 : Keeps a z4 := by
      subst z4
      refine K.wr ?_
      refine K.showSlot ?_
      assumption
    try clear_value z4
    dsimp -zeta only
    refine K.inc ?_
    assumption

theorem K.refuseImage {a : State} {s} {slot} {cause} (hs : Keeps a s) : Keeps a (State.refuseImage s slot cause) := by
  unfold State.refuseImage
  refine K.ev ?_
  assumption

theorem K.checkAct {a : State} {s} (hs : Keeps a s) : Keeps a (State.checkAct s).2 := by
  unfold State.checkAct
  extract_lets +onlyGivenNames z0
  try clear_value z0
  extract_lets +onlyGivenNames z1
  try clear_value z1
  extract_lets +onlyGivenNames z2
  have h2 : Keeps a z2 := by
    subst z2
    refine K.modFirmware ?_
    assumption
  try clear_value z2
  extract_lets +onlyGivenNames z3
  have h3 : Keeps a z3 := by
    subst z3
    refine K.showSlot ?_
    refine K.wr ?_
    assumption
  try clear_value z3
  dsimp -zeta only
  refine K.ite ?_ ?_
  · assumption
  · refine K.refuseImage ?_
    assumption

theorem K.activateAct {a : State} {s} (hs : Keeps a s) : Keeps a (State.activateAct s).2 := by
  unfold State.activateAct
  refine K.ite2 ?_ ?_
  · dsimp -zeta only
    assumption
  · dsimp -zeta only
    refine K.fIssue ?_
    assumption

theorem K.firmwareFailed {a : State} {s} (hs : Keeps a s) : Keeps a (State.firmwareFailed s) := by
  unfold State.firmwareFailed
  extract_lets +onlyGivenNames z0
  try clear_value z0
  extract_lets +onlyGivenNames z1
  have h1 : Keeps a z1 := by
    subst z1
    refine K.modFirmware ?_
    assumption
  try clear_value z1
  refine K.refuseImage ?_
  refine K.showSlot ?_
  refine K.wr ?_
  assumption

theorem K.fillBuild {a : State} {s} {us} {out} {mhz} (hs : Keeps a s) : Keeps a (State.fillBuild s us out mhz) := by
  unfold State.fillBuild
  extract_lets +onlyGivenNames z0
  try clear_value z0
  extract_lets +onlyGivenNames z1
  try clear_value z1
  extract_lets +onlyGivenNames z2
  have h2 : Keeps a z2 := by
    subst z2
    refine K.wr ?_
    refine K.wr ?_
    refine K.wr ?_
    assumption
  try clear_value z2
  extract_lets +onlyGivenNames z3
  have h3 : Keeps a z3 := by
    subst z3
    refine K.wr ?_
    assumption
  try clear_value z3
  extract_lets +onlyGivenNames z4
  have h4 : Keeps a z4 := by
    subst z4
    refine K.wrO ?_
    refine K.wrO ?_
    assumption
  try clear_value z4
  extract_lets +onlyGivenNames z5
  have h5 : Keeps a z5 := by
    subst z5
    refine K.wrO ?_
    assumption
  try clear_value z5
  extract_lets +onlyGivenNames z6
  have h6 : Keeps a z6 := by
    subst z6
    refine K.wr ?_
    assumption
  try clear_value z6
  extract_lets +onlyGivenNames z7
  have h7 : Keeps a z7 := by
    subst z7
    refine K.wrO ?_
    assumption
  try clear_value z7
  extract_lets +onlyGivenNames z8
  have h8 : Keeps a z8 := by
    subst z8
    refine K.wrO ?_
    refine K.wr ?_
    assumption
  try clear_value z8
  extract_lets +onlyGivenNames z9
  have h9 : Keeps a z9 := by
    subst z9
    refine K.wr ?_
    assumption
  try clear_value z9
  extract_lets +onlyGivenNames z10
  have h10 : Keeps a z10 := by
    subst z10
    refine K.wrO ?_
    assumption
  try clear_value z10
  extract_lets +onlyGivenNames z11
  have h11 : Keeps a z11 := by
    subst z11
    refine K.wr ?_
    refine K.wr ?_
    refine K.wr ?_
    assumption
  try clear_value z11
  extract_lets +onlyGivenNames z12
  have h12 : Keeps a z12 := by
    subst z12
    refine K.wr ?_
    assumption
  try clear_value z12
  extract_lets +onlyGivenNames z13
  have h13 : Keeps a z13 := by
    subst z13
    refine K.wr ?_
    assumption
  try clear_value z13
  extract_lets +onlyGivenNames z14
  have h14 : Keeps a z14 := by
    subst z14
    refine K.foldl ?_ ?_
    · assumption
    · intro y15 y16 k15
      refine K.wrOf ?_
      assumption
  try clear_value z14
  refine K.refreshStalls ?_
  refine K.wr ?_
  refine K.wr ?_
  assumption

theorem K.drawBoot {a : State} {s} (hs : Keeps a s) : Keeps a (State.drawBoot s) := by
  unfold State.drawBoot
  split
  · rename_i v0_0 v0_1 e0
    have h0 : Keeps a v0_1 := by
      refine K.eq2 e0 ?_
      refine K.random ?_
      assumption
    extract_lets +onlyGivenNames z1
    have h1 : Keeps a z1 := by
      subst z1
      refine K.modTwin ?_
      assumption
    try clear_value z1
    refine K.foldl ?_ ?_
    · assumption
    · intro y2 y3 k2
      split
      · rename_i v4_0 v4_1 e4
        have h4 : Keeps a v4_1 := by
          refine K.eq2 e4 ?_
          refine K.random ?_
          assumption
        refine K.of (s := v4_1) ?_ rfl rfl rfl rfl rfl rfl rfl rfl rfl rfl rfl rfl rfl
        assumption

theorem K.reportFuses {a : State} {s} (hs : Keeps a s) : Keeps a (State.reportFuses s) := by
  unfold State.reportFuses
  extract_lets +onlyGivenNames z0
  have h0 : Keeps a z0 := by
    subst z0
    refine K.ite ?_ ?_
    · refine K.ev ?_
      assumption
    · assumption
  try clear_value z0
  refine K.foldl ?_ ?_
  · assumption
  · intro y1 y2 k1
    refine K.ev ?_
    assumption

theorem K.judgeSelfTest {a : State} {s} {fails} {slot} {sec} (hs : Keeps a s) : Keeps a (State.judgeSelfTest s fails slot sec) := by
  unfold State.judgeSelfTest
  refine K.ite ?_ ?_
  · refine K.setDev ?_
    refine K.wr ?_
    assumption
  · split
    · refine K.setDev ?_
      refine K.ev ?_
      refine K.wr ?_
      assumption
    · extract_lets +onlyGivenNames z0
      have h0 : Keeps a z0 := by
        subst z0
        refine K.setDev ?_
        assumption
      try clear_value z0
      refine K.ite ?_ ?_
      · extract_lets +onlyGivenNames z1
        try clear_value z1
        refine K.ev ?_
        refine K.fIssue ?_
        refine K.wr ?_
        assumption
      · assumption

theorem K.tablesBad {a : State} {s} (hs : Keeps a s) : Keeps a (State.tablesBad s) := by
  unfold State.tablesBad
  split
  · rename_i v0_0 v0_1 e0
    have h0 : Keeps a v0_1 := by
      refine K.eq2 e0 ?_
      refine K.draw ?_
      assumption
    refine K.ev ?_
    refine K.wr ?_
    assumption

theorem K.fillSpares {a : State} {s} {hard} (hs : Keeps a s) : Keeps a (State.fillSpares s hard) := by
  unfold State.fillSpares
  extract_lets +onlyGivenNames z0
  have h0 : Keeps a z0 := by
    subst z0
    refine K.modProt ?_
    assumption
  try clear_value z0
  refine K.wr ?_
  assumption

theorem K.judgeSensor {a : State} {s} {n} {t} (hs : Keeps a s) : Keeps a (State.judgeSensor s n t) := by
  unfold State.judgeSensor
  extract_lets +onlyGivenNames z0
  try clear_value z0
  extract_lets +onlyGivenNames z1
  try clear_value z1
  extract_lets +onlyGivenNames z2
  have h2 : Keeps a z2 := by
    subst z2
    refine K.ite ?_ ?_
    · refine K.ev ?_
      refine K.inc ?_
      assumption
    · assumption
  try clear_value z2
  extract_lets +onlyGivenNames z3
  have h3 : Keeps a z3 := by
    subst z3
    refine K.ite ?_ ?_
    · refine K.ev ?_
      refine K.modSensors ?_
      assumption
    · assumption
  try clear_value z3
  refine K.modSensors ?_
  assumption

theorem K.sample {a : State} {s} {ts} (hs : Keeps a s) : Keeps a (State.sample s ts) := by
  unfold State.sample
  extract_lets +onlyGivenNames z0
  try clear_value z0
  extract_lets +onlyGivenNames z1
  try clear_value z1
  extract_lets +onlyGivenNames z2
  have h2 : Keeps a z2 := by
    subst z2
    refine K.wrO ?_
    assumption
  try clear_value z2
  extract_lets +onlyGivenNames z3
  have h3 : Keeps a z3 := by
    subst z3
    refine K.foldl ?_ ?_
    · assumption
    · intro y4 y5 k4
      refine K.judgeSensor ?_
      assumption
  try clear_value z3
  extract_lets +onlyGivenNames z6
  have h6 : Keeps a z6 := by
    subst z6
    refine K.ite ?_ ?_
    · refine K.modSensors ?_
      assumption
    · assumption
  try clear_value z6
  refine K.ite ?_ ?_
  · refine K.ite ?_ ?_
    · refine K.startFlush ?_
      assumption
    · refine K.drainAll ?_
      assumption
  · assumption

theorem K.refusePair {a : State} {s} {reason} (hs : Keeps a s) : Keeps a (State.refusePair s reason) := by
  unfold State.refusePair
  extract_lets +onlyGivenNames z0
  have h0 : Keeps a z0 := by
    subst z0
    refine K.ite ?_ ?_
    · assumption
    · refine K.ungrant ?_
      assumption
  try clear_value z0
  refine K.ev ?_
  refine K.inc ?_
  refine K.wr ?_
  refine K.wr ?_
  assumption

theorem K.takeTwinReserve {a : State} {s} (hs : Keeps a s) : Keeps a (State.takeTwinReserve s).2 := by
  unfold State.takeTwinReserve
  split
  · rename_i v0_0 e0
    have h0 : Keeps a v0_0 := by
      refine K.eq2 e0 ?_
      refine K.openStable ?_
      assumption
    dsimp -zeta only
    assumption
  · rename_i v1_0 e1
    have h1 : Keeps a v1_0 := by
      refine K.eq2 e1 ?_
      refine K.openStable ?_
      assumption
    refine K.grant ?_
    assumption

theorem K.enterPaired {a : State} {s} {shared} (hs : Keeps a s) : Keeps a (State.enterPaired s shared) := by
  unfold State.enterPaired
  extract_lets +onlyGivenNames z0
  have h0 : Keeps a z0 := by
    subst z0
    refine K.wr ?_
    refine K.wr ?_
    refine K.wr ?_
    assumption
  try clear_value z0
  extract_lets +onlyGivenNames z1
  have h1 : Keeps a z1 := by
    subst z1
    refine K.wr ?_
    refine K.wr ?_
    assumption
  try clear_value z1
  extract_lets +onlyGivenNames z2
  have h2 : Keeps a z2 := by
    subst z2
    refine K.setDev ?_
    refine K.wr ?_
    assumption
  try clear_value z2
  refine K.ev ?_
  assumption

theorem K.pairAct {a : State} {s} (hs : Keeps a s) : Keeps a (State.pairAct s).2 := by
  unfold State.pairAct
  refine K.ite2 ?_ ?_
  · dsimp -zeta only
    assumption
  · extract_lets +onlyGivenNames z0
    have h0 : Keeps a z0 := by
      subst z0
      refine K.wr ?_
      refine K.wr ?_
      assumption
    try clear_value z0
    dsimp -zeta only
    refine K.ite ?_ ?_
    · refine K.sendTwin ?_
      assumption
    · assumption

theorem K.takeOffer {a : State} {s} {f} (hs : Keeps a s) : Keeps a (State.takeOffer s f) := by
  unfold State.takeOffer
  refine K.ite ?_ ?_
  · assumption
  · extract_lets +onlyGivenNames z0
    try clear_value z0
    extract_lets +onlyGivenNames z1
    have h1 : Keeps a z1 := by
      subst z1
      refine K.modTwin ?_
      assumption
    try clear_value z1
    split
    · rename_i v2_0 v2_1 e2
      have h2 : Keeps a v2_1 := by
        refine K.eq2 e2 ?_
        refine K.ite2 ?_ ?_
        · dsimp -zeta only
          assumption
        · split
          · rename_i v3_0 e3
            have h3 : Keeps a v3_0 := by
              refine K.eq2 e3 ?_
              refine K.takeTwinReserve ?_
              assumption
            dsimp -zeta only
            assumption
          · rename_i v4_0 e4
            have h4 : Keeps a v4_0 := by
              refine K.eq2 e4 ?_
              refine K.takeTwinReserve ?_
              assumption
            dsimp -zeta only
            assumption
      extract_lets +onlyGivenNames z5
      have h5 : Keeps a z5 := by
        subst z5
        refine K.wr ?_
        assumption
      try clear_value z5
      extract_lets +onlyGivenNames z6
      have h6 : Keeps a z6 := by
        subst z6
        refine K.sendTwin ?_
        assumption
      try clear_value z6
      refine K.ite ?_ ?_
      · assumption
      · refine K.refusePair ?_
        assumption

theorem K.takeAccept {a : State} {s} {f} (hs : Keeps a s) : Keeps a (State.takeAccept s f) := by
  unfold State.takeAccept
  refine K.ite ?_ ?_
  · assumption
  · extract_lets +onlyGivenNames z0
    try clear_value z0
    extract_lets +onlyGivenNames z1
    have h1 : Keeps a z1 := by
      subst z1
      refine K.modTwin ?_
      assumption
    try clear_value z1
    refine K.ite ?_ ?_
    · refine K.refusePair ?_
      assumption
    · split
      · rename_i v2_0 e2
        have h2 : Keeps a v2_0 := by
          refine K.eq2 e2 ?_
          refine K.takeTwinReserve ?_
          assumption
        refine K.refusePair ?_
        assumption
      · rename_i v3_0 e3
        have h3 : Keeps a v3_0 := by
          refine K.eq2 e3 ?_
          refine K.takeTwinReserve ?_
          assumption
        refine K.enterPaired ?_
        refine K.sendTwin ?_
        assumption

theorem K.takeConfirm {a : State} {s} {f} (hs : Keeps a s) : Keeps a (State.takeConfirm s f) := by
  unfold State.takeConfirm
  refine K.ite ?_ ?_
  · assumption
  · refine K.enterPaired ?_
    assumption

theorem K.takeBeat {a : State} {s} {f} (hs : Keeps a s) : Keeps a (State.takeBeat s f) := by
  unfold State.takeBeat
  refine K.ite ?_ ?_
  · assumption
  · extract_lets +onlyGivenNames z0
    have h0 : Keeps a z0 := by
      subst z0
      refine K.modTwin ?_
      refine K.hearFrame ?_
      assumption
    try clear_value z0
    extract_lets +onlyGivenNames z1
    have h1 : Keeps a z1 := by
      subst z1
      refine K.wr ?_
      assumption
    try clear_value z1
    extract_lets +onlyGivenNames z2
    have h2 : Keeps a z2 := by
      subst z2
      refine K.ite ?_ ?_
      · refine K.sendTail ?_
        refine K.wr ?_
        refine K.wr ?_
        refine K.wr ?_
        assumption
      · assumption
    try clear_value z2
    extract_lets +onlyGivenNames z3
    have h3 : Keeps a z3 := by
      subst z3
      split
      · refine K.ev ?_
        refine K.inc ?_
        refine K.modTwin ?_
        assumption
      · assumption
    try clear_value z3
    refine K.ite ?_ ?_
    · refine K.unitFailed ?_
      assumption
    · assumption

theorem K.mirrorRec {a : State} {s} {r} (hs : Keeps a s) : Keeps a (State.mirrorRec s r) := by
  unfold State.mirrorRec
  have h : Keeps a (s.modLog fun l => { l with twin := (r :: l.twin).take 4096 }) := K.logged hs (Nat.le_refl _)
  exact K.ite (K.fIssue h) h

theorem K.takeLogMirror {a : State} {s} {f} (hs : Keeps a s) : Keeps a (State.takeLogMirror s f) := by
  unfold State.takeLogMirror
  refine K.ite ?_ ?_
  · assumption
  · refine K.foldl ?_ ?_
    · assumption
    · intro y0 y1 k0
      refine K.mirrorRec ?_
      assumption

theorem K.dropTwin {a : State} {s} (hs : Keeps a s) : Keeps a (State.dropTwin s) := by
  unfold State.dropTwin
  extract_lets +onlyGivenNames z0 z1 z2 z3 z4
  have h0 : Keeps a z0 := K.ite hs (K.ungrant hs)
  have h1 : Keeps a z1 := K.modMember h0
  have h2 : Keeps a z2 := K.logged h1 (Nat.le_refl _)
  have h3 : Keeps a z3 := K.modTwin h2
  exact K.wr (K.wr (K.wr (K.wr (K.wr h3))))

theorem K.toIdle {a : State} {s} (hs : Keeps a s) : Keeps a (State.toIdle s) := by
  unfold State.toIdle
  refine K.ite ?_ ?_
  · refine K.setDev ?_
    assumption
  · assumption

theorem K.unpairAct {a : State} {s} (hs : Keeps a s) : Keeps a (State.unpairAct s).2 := by
  unfold State.unpairAct
  refine K.ite2 ?_ ?_
  · dsimp -zeta only
    assumption
  · extract_lets +onlyGivenNames z0
    have h0 : Keeps a z0 := by
      subst z0
      refine K.ite ?_ ?_
      · refine K.sendTwin ?_
        assumption
      · assumption
    try clear_value z0
    dsimp -zeta only
    refine K.toIdle ?_
    refine K.dropTwin ?_
    assumption

theorem K.takeUnpair {a : State} {s} (hs : Keeps a s) : Keeps a (State.takeUnpair s) := by
  unfold State.takeUnpair
  refine K.ite ?_ ?_
  · assumption
  · refine K.ite ?_ ?_
    · refine K.toIdle ?_
      refine K.dropTwin ?_
      assumption
    · refine K.dropTwin ?_
      assumption

end Sys2Proof.Machine
end

