-- ==== Sys2Proof/Laws/Keeps/ActOps.lean ====
section
/-!
SUPPORT. What the operations of Machine/ActOps.lean keep: the canonical forms, the queue, the build, the test port, the sticky
registers and storage; every frame already handed over stays, and the log's sequence and the draws only rise.
-/

namespace Sys2Proof.Machine

theorem K.takeSquares {a : State} {s t} {m} (hs : Keeps a s) (e : State.takeSquares s m = .ok t) : Keeps a t := by
  unfold State.takeSquares at e
  extract_lets +onlyGivenNames z0 z1 at e
  have h : Keeps a z1 := by
    subst z1
    exact K.ite hs (K.ungrant hs)
  clear_value z1
  split at e
  · cases e; exact h
  · split at e
    · cases e
    · rename_i k
      have h1 := K.eq2 k (K.openStable h)
      split at e
      · cases e
      · cases e; exact K.refreshStalls (K.wrOf h1)

theorem K.reportRefusal {a : State} {s} {key} {code} {a'} (hs : Keeps a s) : Keeps a (State.reportRefusal s key code a') := by
  unfold State.reportRefusal
  split
  · assumption
  · refine K.ev ?_
    refine K.wr ?_
    assumption

theorem K.useMould {a : State} {s} {m} (hs : Keeps a s) : Keeps a (State.useMould s m) := by
  unfold State.useMould
  extract_lets +onlyGivenNames z0
  try clear_value z0
  extract_lets +onlyGivenNames z1
  have h1 : Keeps a z1 := by
    subst z1
    refine K.modPass ?_
    assumption
  try clear_value z1
  extract_lets +onlyGivenNames z2
  have h2 : Keeps a z2 := by
    subst z2
    refine K.resteer ?_
    assumption
  try clear_value z2
  extract_lets +onlyGivenNames z3
  have h3 : Keeps a z3 := by
    subst z3
    refine K.wrO ?_
    refine K.wr ?_
    refine K.wr ?_
    refine K.wr ?_
    refine K.wr ?_
    assumption
  try clear_value z3
  extract_lets +onlyGivenNames z4
  have h4 : Keeps a z4 := by
    subst z4
    refine K.ite ?_ ?_
    · refine K.resteer ?_
      refine K.redLayout ?_
      assumption
    · assumption
  try clear_value z4
  refine K.refreshSettings ?_
  assumption

theorem K.loadMould {a : State} {s} (hs : Keeps a s) : Keeps a (State.loadMould s) := by
  unfold State.loadMould
  extract_lets +onlyGivenNames z0 z1 z2 z3 z4 z5 z6
  split
  · exact K.ev (K.wr (K.wr (K.reportRefusal (K.reportRefusal (K.reportRefusal hs)))))
  · generalize e : z5 = r
    cases r with
    | error _ => exact hs
    | ok t => exact K.useMould (K.takeSquares hs e)

theorem K.discardStaging {a : State} {s} {cause} {p} (hs : Keeps a s) : Keeps a (State.discardStaging s cause p) := by
  unfold State.discardStaging
  extract_lets +onlyGivenNames z0
  try clear_value z0
  extract_lets +onlyGivenNames z1
  have h1 : Keeps a z1 := by
    subst z1
    refine K.modServer ?_
    assumption
  try clear_value z1
  refine K.foldl ?_ ?_
  · assumption
  · intro y2 y3 k2
    refine K.ev ?_
    refine K.inc ?_
    assumption

theorem K.showSessions {a : State} {s} (hs : Keeps a s) : Keeps a (State.showSessions s) := by
  unfold State.showSessions
  extract_lets +onlyGivenNames z0
  try clear_value z0
  refine K.wrO ?_
  assumption

theorem K.dropSession {a : State} {s} {id} (hs : Keeps a s) : Keeps a (State.dropSession s id) := by
  unfold State.dropSession
  extract_lets +onlyGivenNames z0
  have h0 : Keeps a z0 := by
    subst z0
    refine K.discardStaging ?_
    assumption
  try clear_value z0
  extract_lets +onlyGivenNames z1
  have h1 : Keeps a z1 := by
    subst z1
    refine K.modServer ?_
    assumption
  try clear_value z1
  refine K.showSessions ?_
  assumption

theorem K.endSession {a : State} {s} {cause} {id} (hs : Keeps a s) : Keeps a (State.endSession s cause id) := by
  unfold State.endSession
  refine K.ev ?_
  refine K.dropSession ?_
  assumption

theorem K.endPrincipal {a : State} {s} {cause} {p} (hs : Keeps a s) : Keeps a (State.endPrincipal s cause p) := by
  unfold State.endPrincipal
  refine K.foldl ?_ ?_
  · assumption
  · intro y0 y1 k0
    refine K.endSession ?_
    assumption

theorem K.takePrincipalKey {a : State} {s} {p} {b} (hs : Keeps a s) : Keeps a (State.takePrincipalKey s p b) := by
  unfold State.takePrincipalKey
  extract_lets +onlyGivenNames z0
  have h0 : Keeps a z0 := by
    subst z0
    refine K.modServer ?_
    refine K.wrO ?_
    assumption
  try clear_value z0
  refine K.endPrincipal ?_
  refine K.wr ?_
  assumption

theorem K.fillWindow {a : State} {s} (hs : Keeps a s) : Keeps a (State.fillWindow s) := by
  unfold State.fillWindow
  extract_lets +onlyGivenNames z0
  try clear_value z0
  extract_lets +onlyGivenNames z1
  try clear_value z1
  refine K.wrO ?_
  assumption

theorem K.follow {a : State} {s} {k} (hs : Keeps a s) : Keeps a (State.follow s k) := by
  unfold State.follow
  extract_lets +onlyGivenNames z0
  have h0 : Keeps a z0 := by
    subst z0
    split
    · refine K.wrO ?_
      assumption
    · refine K.wr ?_
      assumption
    · refine K.wr ?_
      assumption
    · refine K.wr ?_
      refine K.wr ?_
      assumption
    · refine K.wr ?_
      refine K.wr ?_
      assumption
    · refine K.wr ?_
      assumption
    · refine K.wr ?_
      assumption
    · refine K.wr ?_
      assumption
    · refine K.feedJudge ?_
      assumption
    · refine K.fillWindow ?_
      assumption
    · assumption
  try clear_value z0
  refine K.ite ?_ ?_
  · refine K.refreshSettings ?_
    assumption
  · assumption

theorem K.writeAct {a : State} {s} {k} {v} {b} (hs : Keeps a s) : Keeps a (State.writeAct s k v b).2 := by
  unfold State.writeAct
  split
  · dsimp -zeta only
    refine K.loadMould ?_
    assumption
  · refine K.importAsk ?_
    assumption
  · refine K.askJoin ?_
    assumption
  · dsimp -zeta only
    refine K.fireSnap ?_
    assumption
  · dsimp -zeta only
    refine K.fireSnap ?_
    assumption
  · refine K.askRestore ?_
    assumption
  · refine K.askSite ?_
    assumption
  · dsimp -zeta only
    refine K.yRemove ?_
    assumption
  · refine K.injectError ?_
    assumption
  · refine K.ackRetirement ?_
    assumption
  · refine K.takeJobKey ?_
    assumption
  · refine K.askStream ?_
    assumption
  · refine K.chunkAct ?_
    assumption
  · refine K.checkAct ?_
    assumption
  · refine K.activateAct ?_
    assumption
  · refine K.pairAct ?_
    assumption
  · refine K.unpairAct ?_
    assumption
  · split
    · rename_i v0_0 e0
      have h0 : Keeps a v0_0 := by
        refine K.eq2 e0 ?_
        refine K.enableAct ?_
        assumption
      dsimp -zeta only
      refine K.wr ?_
      assumption
    · refine K.enableAct ?_
      assumption
  · split
    · rename_i v2_0 e2
      have h2 : Keeps a v2_0 := by
        refine K.eq2 e2 ?_
        refine K.enableAct ?_
        assumption
      dsimp -zeta only
      refine K.wr ?_
      assumption
    · refine K.enableAct ?_
      assumption
  · split
    · rename_i v4_0 e4
      have h4 : Keeps a v4_0 := by
        refine K.eq2 e4 ?_
        refine K.enableAct ?_
        assumption
      dsimp -zeta only
      refine K.wr ?_
      assumption
    · refine K.enableAct ?_
      assumption
  · split
    · rename_i v6_0 e6
      have h6 : Keeps a v6_0 := by
        refine K.eq2 e6 ?_
        refine K.enableAct ?_
        assumption
      dsimp -zeta only
      refine K.wr ?_
      assumption
    · refine K.enableAct ?_
      assumption
  · split
    · rename_i v8_0 e8
      have h8 : Keeps a v8_0 := by
        refine K.eq2 e8 ?_
        refine K.enableAct ?_
        assumption
      dsimp -zeta only
      refine K.wr ?_
      assumption
    · refine K.enableAct ?_
      assumption
  · split
    · rename_i v10_0 e10
      have h10 : Keeps a v10_0 := by
        refine K.eq2 e10 ?_
        refine K.enableAct ?_
        assumption
      dsimp -zeta only
      refine K.wr ?_
      assumption
    · refine K.enableAct ?_
      assumption
  · extract_lets +onlyGivenNames z12
    try clear_value z12
    extract_lets +onlyGivenNames z13
    try clear_value z13
    refine K.ite2 ?_ ?_
    · dsimp -zeta only
      refine K.takePrincipalKey ?_
      assumption
    · extract_lets +onlyGivenNames z14
      have h14 : Keeps a z14 := by
        subst z14
        split
        · refine K.wrO ?_
          assumption
        · refine K.wr ?_
          assumption
      try clear_value z14
      extract_lets +onlyGivenNames z15
      have h15 : Keeps a z15 := by
        subst z15
        refine K.ite ?_ ?_
        · refine K.endPrincipal ?_
          assumption
        · assumption
      try clear_value z15
      dsimp -zeta only
      refine K.follow ?_
      assumption

end Sys2Proof.Machine
end

