-- ==== Sys2Proof/Laws/Keeps/Arrays.lean ====
section
/-!
SUPPORT. What the operations of Machine/Arrays.lean keep: the canonical forms, the queue, the build, the test port, the sticky
registers and storage; every frame already handed over stays, and the log's sequence and the draws only rise.
-/

namespace Sys2Proof.Machine

theorem K.execLogTile {a : State} {n} {bad} {cells} {row} {col} {cells2} {row2} {col2} {s} (hs : Keeps a s) :
    KR a (Sys2Proof.Machine.execLogTile n bad cells row col cells2 row2 col2 s) := by
  unfold Sys2Proof.Machine.execLogTile
  refine K.sliceServing ?_ ?_
  · assumption
  · intro y0 k0
    split
    · refine K.logTile ?_
      assumption
    · assumption

theorem K.execMacJob {a : State} {n} {word} {x0} {x1} {y} {s} (hs : Keeps a s) : KR a (Sys2Proof.Machine.execMacJob n word x0 x1 y s) := by
  unfold Sys2Proof.Machine.execMacJob
  refine K.sliceServing ?_ ?_
  · assumption
  · intro y0 k0
    refine K.ite ?_ ?_
    · refine K.macRefuse ?_
      assumption
    · refine K.macGo ?_
      refine K.modArr ?_
      refine K.wrO ?_
      assumption

theorem K.execMacJobReadout {a : State} {n} {more} {up} {s} (hs : Keeps a s) : KR a (Sys2Proof.Machine.execMacJobReadout n more up s) := by
  unfold Sys2Proof.Machine.execMacJobReadout
  refine K.sliceServing ?_ ?_
  · assumption
  · intro y0 k0
    split
    · assumption
    · extract_lets +onlyGivenNames z1
      try clear_value z1
      extract_lets +onlyGivenNames z2
      have h2 : Keeps a z2 := by
        subst z2
        refine K.macGo ?_
        refine K.modArr ?_
        assumption
      try clear_value z2
      refine K.ite ?_ ?_
      · assumption
      · refine K.macGo ?_
        refine K.macReadout ?_
        assumption

theorem K.execArrayHoldExpiry {a : State} {n} {a'} {s} (hs : Keeps a s) : KR a (Sys2Proof.Machine.execArrayHoldExpiry n a' s) := by
  unfold Sys2Proof.Machine.execArrayHoldExpiry
  refine K.sliceServing ?_ ?_
  · assumption
  · intro y0 k0
    refine K.modArr ?_
    assumption

theorem K.execArrayStopRampEnd {a : State} {n} {a'} {s} (hs : Keeps a s) : KR a (Sys2Proof.Machine.execArrayStopRampEnd n a' s) := by
  unfold Sys2Proof.Machine.execArrayStopRampEnd
  refine K.sliceServing ?_ ?_
  · assumption
  · intro y0 k0
    refine K.modArr ?_
    assumption

end Sys2Proof.Machine
end

