-- ==== Sys2Proof/Laws/Keeps/Audit.lean ====
section
/-!
SUPPORT. What the operations of Machine/Audit.lean keep: the canonical forms, the queue, the build, the test port, the sticky
registers and storage; every frame already handed over stays, and the log's sequence and the draws only rise.
-/

namespace Sys2Proof.Machine

theorem K.execWatermark {a : State} {r} {s} (hs : Keeps a s) : KR a (Sys2Proof.Machine.execWatermark r s) := by
  unfold Sys2Proof.Machine.execWatermark
  refine K.frameRow ?_ ?_
  · assumption
  · intro y0 k0
    refine K.auditTake ?_ ?_
    · assumption
    · intro y1 k1
      refine K.takeWatermark ?_
      assumption

theorem K.execBisectionStart {a : State} {commit} {s} (hs : Keeps a s) : KR a (Sys2Proof.Machine.execBisectionStart commit s) := by
  unfold Sys2Proof.Machine.execBisectionStart
  refine K.whenServing ?_ ?_
  · assumption
  · intro y0 k0
    refine K.startBisect ?_
    assumption

theorem K.execBisectQuery {a : State} {r} {own} {s} (hs : Keeps a s) : KR a (Sys2Proof.Machine.execBisectQuery r own s) := by
  unfold Sys2Proof.Machine.execBisectQuery
  refine K.frameRow ?_ ?_
  · assumption
  · intro y0 k0
    refine K.auditTake ?_ ?_
    · assumption
    · intro y1 k1
      refine K.takeQuery ?_
      assumption

theorem K.execBisectAnswer {a : State} {r} {s} (hs : Keeps a s) : KR a (Sys2Proof.Machine.execBisectAnswer r s) := by
  unfold Sys2Proof.Machine.execBisectAnswer
  refine K.frameRow ?_ ?_
  · assumption
  · intro y0 k0
    refine K.auditTake ?_ ?_
    · assumption
    · intro y1 k1
      refine K.takeBisectAnswer ?_
      assumption

theorem K.execBisectAnswerTimeout {a : State} {dev} {s} (hs : Keeps a s) : KR a (Sys2Proof.Machine.execBisectAnswerTimeout dev s) := by
  unfold Sys2Proof.Machine.execBisectAnswerTimeout
  refine K.whenServing ?_ ?_
  · assumption
  · intro y0 k0
    refine K.dropAnswer ?_
    assumption

theorem K.execLine {a : State} {r} {own} {s} (hs : Keeps a s) : KR a (Sys2Proof.Machine.execLine r own s) := by
  unfold Sys2Proof.Machine.execLine
  refine K.frameRow ?_ ?_
  · assumption
  · intro y0 k0
    refine K.auditTake ?_ ?_
    · assumption
    · intro y1 k1
      refine K.takeLine ?_
      assumption

theorem K.execBisectionLimit {a : State} {s} (hs : Keeps a s) : KR a (Sys2Proof.Machine.execBisectionLimit s) := by
  unfold Sys2Proof.Machine.execBisectionLimit
  refine K.whenServing ?_ ?_
  · assumption
  · intro y0 k0
    refine K.abandonBisect ?_
    assumption

end Sys2Proof.Machine
end

