-- ==== Sys2Proof/Laws/Keeps/HolderOps.lean ====
section
/-!
SUPPORT. What the operations of Machine/HolderOps.lean keep: the canonical forms, the queue, the build, the test port, the sticky
registers and storage; every frame already handed over stays, and the log's sequence and the draws only rise.
-/

namespace Sys2Proof.Machine

theorem K.markApplied {a : State} {s} {src} {g} {tgt} {q} (hs : Keeps a s) : Keeps a (State.markApplied s src g tgt q) := by
  unfold State.markApplied
  extract_lets +onlyGivenNames z0
  try clear_value z0
  extract_lets +onlyGivenNames z1
  try clear_value z1
  extract_lets +onlyGivenNames z2
  try clear_value z2
  refine K.modCouch ?_
  assumption

theorem K.sendAck {a : State} {s} {src} {g} {role} {j} {tgt} (hs : Keeps a s) : Keeps a (State.sendAck s src g role j tgt) := by
  unfold State.sendAck
  extract_lets +onlyGivenNames z0
  try clear_value z0
  extract_lets +onlyGivenNames z1
  try clear_value z1
  refine K.sendData ?_
  assumption

theorem K.couchDrop {a : State} {s} {counter} {code} {src} {payload} (hs : Keeps a s) : Keeps a (State.couchDrop s counter code src payload) := by
  unfold State.couchDrop
  extract_lets +onlyGivenNames z0
  have h0 : Keeps a z0 := by
    subst z0
    refine K.inc ?_
    assumption
  try clear_value z0
  extract_lets +onlyGivenNames z1
  try clear_value z1
  refine K.ite ?_ ?_
  · assumption
  · refine K.evHub ?_
    refine K.modCouch ?_
    assumption

theorem K.addTerms {a : State} {s} {tgt} {intoFelt} {g} {b} {sp} {j} {role} {ls} (hs : Keeps a s) : Keeps a (State.addTerms s tgt intoFelt g b sp j role ls) := by
  unfold State.addTerms
  extract_lets +onlyGivenNames z0
  have h0 : Keeps a z0 := by
    subst z0
    refine K.foldl ?_ ?_
    · assumption
    · intro y1 y2 k1
      extract_lets +onlyGivenNames z3
      try clear_value z3
      refine K.ite ?_ ?_
      · refine K.feltAdd ?_
        assumption
      · refine K.vatAdd ?_
        assumption
  try clear_value z0
  refine K.incBy ?_
  assumption

theorem K.withhold {a : State} {s} {tgt} {f} (hs : Keeps a s) : Keeps a (State.withhold s tgt f) := by
  unfold State.withhold
  refine K.ite ?_ ?_
  · assumption
  · refine K.modCouch ?_
    assumption

theorem K.takeData {a : State} {s} {tgt} {f} (hs : Keeps a s) : Keeps a (State.takeData s tgt f) := by
  unfold State.takeData
  extract_lets +onlyGivenNames z0
  try clear_value z0
  extract_lets +onlyGivenNames z1
  try clear_value z1
  extract_lets +onlyGivenNames z2
  try clear_value z2
  extract_lets +onlyGivenNames z3
  try clear_value z3
  extract_lets +onlyGivenNames z4
  try clear_value z4
  extract_lets +onlyGivenNames z5
  have h5 : Keeps a z5 := by
    subst z5
    refine K.hearFrame ?_
    assumption
  try clear_value z5
  split
  · refine K.ite ?_ ?_
    · assumption
    · refine K.ite ?_ ?_
      · refine K.couchDrop ?_
        assumption
      · extract_lets +onlyGivenNames z6
        have h6 : Keeps a z6 := by
          subst z6
          refine K.couchDrop ?_
          assumption
        try clear_value z6
        refine K.ite ?_ ?_
        · refine K.staleNotice ?_
          assumption
        · assumption
  · refine K.ite ?_ ?_
    · refine K.sendAck ?_
      refine K.inc ?_
      assumption
    · extract_lets +onlyGivenNames z7
      try clear_value z7
      extract_lets +onlyGivenNames z8
      try clear_value z8
      extract_lets +onlyGivenNames z9
      try clear_value z9
      extract_lets +onlyGivenNames z10
      try clear_value z10
      refine K.ite ?_ ?_
      · refine K.withhold ?_
        assumption
      · split
        · refine K.evSecond ?_
          refine K.inc ?_
          assumption
        · refine K.withhold ?_
          refine K.eraseFelt ?_
          assumption
        · extract_lets +onlyGivenNames z11
          have h11 : Keeps a z11 := by
            subst z11
            refine K.addTerms ?_
            assumption
          try clear_value z11
          refine K.sendAck ?_
          refine K.markApplied ?_
          assumption

theorem K.takeWithheld {a : State} {s} (hs : Keeps a s) : Keeps a (State.takeWithheld s) := by
  unfold State.takeWithheld
  refine K.foldl ?_ ?_
  · refine K.modCouch ?_
    assumption
  · intro y0 y1 k0
    refine K.takeData ?_
    assumption

end Sys2Proof.Machine
end

