-- ==== Sys2Proof/Laws/Keeps/Couch.lean ====
section
/-!
SUPPORT. What the operations of Machine/Couch.lean keep: the canonical forms, the queue, the build, the test port, the sticky
registers and storage; every frame already handed over stays, and the log's sequence and the draws only rise.
-/

namespace Sys2Proof.Machine

theorem K.execDataFrame {a : State} {r} {s} (hs : Keeps a s) : KR a (Sys2Proof.Machine.execDataFrame r s) := by
  unfold Sys2Proof.Machine.execDataFrame
  refine K.frameRow ?_ ?_
  · assumption
  · intro y0 k0
    refine K.takeData ?_
    assumption

theorem K.retire {a : State} {s} (hs : Keeps a s) : Keeps a (State.retire s) := by
  unfold State.retire
  extract_lets +onlyGivenNames z0
  try clear_value z0
  extract_lets +onlyGivenNames z1
  try clear_value z1
  extract_lets +onlyGivenNames z2
  have h2 : Keeps a z2 := by
    subst z2
    refine K.modCouch ?_
    assumption
  try clear_value z2
  refine K.ite ?_ ?_
  · assumption
  · refine K.wr ?_
    refine K.incBy ?_
    assumption

theorem K.overrunExit {a : State} {s} (hs : Keeps a s) : Keeps a (State.overrunExit s) := by
  unfold State.overrunExit
  refine K.ite ?_ ?_
  · refine K.endOverrun ?_
    assumption
  · assumption

theorem K.afterAck {a : State} {s} (hs : Keeps a s) : Keeps a (State.afterAck s) := by
  unfold State.afterAck
  refine K.judgeReadies ?_
  refine K.flushCheck ?_
  refine K.drainHeld ?_
  refine K.overrunExit ?_
  refine K.fillComplete ?_
  refine K.advance ?_
  refine K.pump ?_
  refine K.retire ?_
  assumption

theorem K.takeAck {a : State} {s} {tgt} {f} (hs : Keeps a s) : Keeps a (State.takeAck s tgt f) := by
  unfold State.takeAck
  extract_lets +onlyGivenNames z0
  try clear_value z0
  extract_lets +onlyGivenNames z1
  try clear_value z1
  extract_lets +onlyGivenNames z2
  try clear_value z2
  extract_lets +onlyGivenNames z3
  try clear_value z3
  refine K.ite ?_ ?_
  · assumption
  · extract_lets +onlyGivenNames z4
    try clear_value z4
    extract_lets +onlyGivenNames z5
    have h5 : Keeps a z5 := by
      subst z5
      refine K.modCouch ?_
      assumption
    try clear_value z5
    refine K.afterAck ?_
    assumption

theorem K.execAcknowledgement {a : State} {r} {s} (hs : Keeps a s) : KR a (Sys2Proof.Machine.execAcknowledgement r s) := by
  unfold Sys2Proof.Machine.execAcknowledgement
  refine K.frameRow ?_ ?_
  · assumption
  · intro y0 k0
    refine K.gated ?_ ?_
    · assumption
    · intro y1 k1
      refine K.takeAck ?_
      assumption

theorem K.execRetransmitTimeout {a : State} {stream} {role} {seq} {parity} {s} (hs : Keeps a s) : KR a (Sys2Proof.Machine.execRetransmitTimeout stream role seq parity s) := by
  unfold Sys2Proof.Machine.execRetransmitTimeout
  refine K.whenServing ?_ ?_
  · assumption
  · intro y0 k0
    split
    · assumption
    · split
      · assumption
      · refine K.resendTo ?_
        assumption

theorem K.execEpochDoneNotice {a : State} {r} {s} (hs : Keeps a s) : KR a (Sys2Proof.Machine.execEpochDoneNotice r s) := by
  unfold Sys2Proof.Machine.execEpochDoneNotice
  refine K.frameRow ?_ ?_
  · assumption
  · intro y0 k0
    refine K.gated ?_ ?_
    · assumption
    · intro y1 k1
      extract_lets +onlyGivenNames z2
      try clear_value z2
      extract_lets +onlyGivenNames z3
      try clear_value z3
      refine K.ite ?_ ?_
      · assumption
      · extract_lets +onlyGivenNames z4
        try clear_value z4
        extract_lets +onlyGivenNames z5
        have h5 : Keeps a z5 := by
          subst z5
          refine K.modCouch ?_
          assumption
        try clear_value z5
        extract_lets +onlyGivenNames z6
        have h6 : Keeps a z6 := by
          subst z6
          refine K.ite ?_ ?_
          · refine K.report ?_
            assumption
          · assumption
        try clear_value z6
        refine K.flushCheck ?_
        refine K.retire ?_
        refine K.sealCommit ?_
        assumption

theorem K.execNoticeRepeat {a : State} {s} (hs : Keeps a s) : KR a (Sys2Proof.Machine.execNoticeRepeat s) := by
  unfold Sys2Proof.Machine.execNoticeRepeat
  refine K.whenServing ?_ ?_
  · assumption
  · intro y0 k0
    split
    · refine K.toMembers ?_
      assumption
    · assumption

theorem K.execHolderSilenceLimit {a : State} {group} {parity} {s} (hs : Keeps a s) : KR a (Sys2Proof.Machine.execHolderSilenceLimit group parity s) := by
  unfold Sys2Proof.Machine.execHolderSilenceLimit
  refine K.whenServing ?_ ?_
  · assumption
  · intro y0 k0
    split
    · assumption
    · refine K.ite ?_ ?_
      · refine K.report ?_
        refine K.evHub ?_
        assumption
      · assumption

theorem K.execFlushTimeLimit {a : State} {s} (hs : Keeps a s) : KR a (Sys2Proof.Machine.execFlushTimeLimit s) := by
  unfold Sys2Proof.Machine.execFlushTimeLimit
  refine K.whenServing ?_ ?_
  · assumption
  · intro y0 k0
    refine K.ite ?_ ?_
    · refine K.flushEnd ?_
      assumption
    · assumption

theorem K.execRushHoldEnd {a : State} {n} {s} (hs : Keeps a s) : KR a (Sys2Proof.Machine.execRushHoldEnd n s) := by
  unfold Sys2Proof.Machine.execRushHoldEnd
  refine K.onActive ?_ ?_
  · assumption
  · intro y0 k0
    refine K.ite ?_ ?_
    · assumption
    · refine K.drainHeld ?_
      refine K.endRush ?_
      refine K.pump ?_
      assumption

theorem K.execFillLineRead {a : State} {s} (hs : Keeps a s) : KR a (Sys2Proof.Machine.execFillLineRead s) := by
  unfold Sys2Proof.Machine.execFillLineRead
  refine K.whenServing ?_ ?_
  · assumption
  · intro y0 k0
    split
    · assumption
    · split
      · extract_lets +onlyGivenNames z1
        try clear_value z1
        split
        · assumption
        · refine K.ite ?_ ?_
          · assumption
          · extract_lets +onlyGivenNames z2
            have h2 : Keeps a z2 := by
              subst z2
              refine K.modCouch ?_
              assumption
            try clear_value z2
            refine K.ite ?_ ?_
            · refine K.judgeReadies ?_
              refine K.fillComplete ?_
              refine K.wr ?_
              refine K.inc ?_
              assumption
            · extract_lets +onlyGivenNames z3
              try clear_value z3
              refine K.refreshOut ?_
              refine K.emit ?_
              assumption
      · refine K.wr ?_
        refine K.modCouch ?_
        assumption

theorem K.execReStripeData {a : State} {r} {s} (hs : Keeps a s) : KR a (Sys2Proof.Machine.execReStripeData r s) := by
  unfold Sys2Proof.Machine.execReStripeData
  refine K.frameRow ?_ ?_
  · assumption
  · intro y0 k0
    refine K.takeData ?_
    assumption

theorem K.execReStripeAcknowledgement {a : State} {r} {s} (hs : Keeps a s) : KR a (Sys2Proof.Machine.execReStripeAcknowledgement r s) := by
  unfold Sys2Proof.Machine.execReStripeAcknowledgement
  refine K.frameRow ?_ ?_
  · assumption
  · intro y0 k0
    refine K.gated ?_ ?_
    · assumption
    · intro y1 k1
      refine K.takeAck ?_
      assumption

end Sys2Proof.Machine
end

