-- ==== Sys2Proof/Laws/Keeps/DictOps.lean ====
section
/-!
SUPPORT. What the operations of Machine/DictOps.lean keep: the canonical forms, the queue, the build, the test port, the sticky
registers and storage; every frame already handed over stays, and the log's sequence and the draws only rise.
-/

namespace Sys2Proof.Machine

theorem K.commit {a : State} {s} {k} {b} (hs : Keeps a s) : Keeps a (State.commit s k b).2 := by
  unfold State.commit
  split
  · dsimp -zeta only
    assumption
  · extract_lets +onlyGivenNames z0
    try clear_value z0
    split
    · dsimp -zeta only
      assumption
    · dsimp -zeta only
      assumption
    · dsimp -zeta only
      assumption
    · refine K.writeAct ?_
      assumption
    · dsimp -zeta only
      assumption

theorem K.doWrite {a : State} {s} {q} (hs : Keeps a s) : Keeps a (State.doWrite s q).2 := by
  unfold State.doWrite
  split
  · rename_i v0_0 v0_1 e0
    have h0 : Keeps a v0_1 := by
      refine K.eq2 e0 ?_
      refine K.commit ?_
      assumption
    dsimp -zeta only
    assumption

theorem K.doWriteBlock {a : State} {s} {q} (hs : Keeps a s) : Keeps a (State.doWriteBlock s q).2 := by
  unfold State.doWriteBlock
  extract_lets +onlyGivenNames z0 z1
  have H {t} (h : Keeps a t) : Keeps a (z1 t) := by
    subst z1
    exact K.modServer h
  clear_value z1
  refine K.ite2 (H hs) ?_
  extract_lets +onlyGivenNames z2 z3
  clear_value z3
  refine K.ite2 ?_ ?_
  rotate_left
  · dsimp only
    exact K.modServer (H hs)
  extract_lets +onlyGivenNames z4
  have h4 : Keeps a z4 := by
    subst z4
    exact H hs
  clear_value z4
  refine K.ite2 h4 ?_
  have k : Keeps a (z4.commit z0 z3).2 := K.commit h4
  split
  · rename_i e
    rw [e] at k
    exact K.inc k
  · rename_i e
    rw [e] at k
    exact k

theorem K.openBeyond {a : State} {s} {q} (hs : Keeps a s) : Keeps a (State.openBeyond s q) := by
  unfold State.openBeyond
  refine K.ite ?_ ?_
  · refine K.modServer ?_
    assumption
  · assumption

theorem K.doReadBlock {a : State} {s} {q} (hs : Keeps a s) : Keeps a (State.doReadBlock s q).2 := by
  unfold State.doReadBlock
  extract_lets +onlyGivenNames z0
  try clear_value z0
  extract_lets +onlyGivenNames z1 z2
  try clear_value z1
  have h2 : Keeps a z2 := by
    subst z2
    refine K.ite ?_ ?_
    · refine K.modServer ?_
      assumption
    · assumption
  try clear_value z2
  extract_lets +onlyGivenNames z3
  try clear_value z3
  extract_lets +onlyGivenNames z4
  have h4 : Keeps a z4 := by
    subst z4
    refine K.ite ?_ ?_
    · refine K.modServer ?_
      assumption
    · assumption
  try clear_value z4
  dsimp -zeta only
  assumption

theorem K.doSubscribe {a : State} {s} {q} (hs : Keeps a s) : Keeps a (State.doSubscribe s q).2 := by
  unfold State.doSubscribe
  extract_lets +onlyGivenNames z0
  try clear_value z0
  extract_lets +onlyGivenNames z1
  try clear_value z1
  extract_lets +onlyGivenNames z2
  try clear_value z2
  refine K.ite2 ?_ ?_
  · dsimp -zeta only
    assumption
  · extract_lets +onlyGivenNames z3
    try clear_value z3
    dsimp -zeta only
    refine K.modServer ?_
    assumption

theorem K.operate {a : State} {s} {role} {q} (hs : Keeps a s) : Keeps a (State.operate s role q).2 := by
  unfold State.operate
  split
  · split
    · dsimp -zeta only
      assumption
    · refine K.doWrite ?_
      assumption
    · refine K.doReadBlock ?_
      assumption
    · refine K.doWriteBlock ?_
      assumption
    · refine K.doSubscribe ?_
      assumption
  · dsimp -zeta only
    refine K.openBeyond ?_
    assumption
  · dsimp -zeta only
    assumption

theorem K.privRefused {a : State} {s} {k} (hs : Keeps a s) : Keeps a (State.privRefused s k) := by
  unfold State.privRefused
  extract_lets +onlyGivenNames z0
  have h0 : Keeps a z0 := by
    subst z0
    refine K.evSecond ?_
    refine K.inc ?_
    assumption
  try clear_value z0
  refine K.discardStaging ?_
  assumption

theorem K.cPort {a : State} {s} {priv} {q} (hs : Keeps a s) : Keeps a (State.cPort s priv q) := by
  unfold State.cPort
  extract_lets +onlyGivenNames z0
  have h0 : Keeps a z0 := by
    subst z0
    refine K.inc ?_
    refine K.setPair ?_
    assumption
  try clear_value z0
  extract_lets +onlyGivenNames z1
  try clear_value z1
  split
  · rename_i v2_0 v2_1 e2
    have h2 : Keeps a v2_1 := by
      refine K.eq2 e2 ?_
      refine K.operate ?_
      assumption
    extract_lets +onlyGivenNames z3
    have h3 : Keeps a z3 := by
      subst z3
      refine K.ite ?_ ?_
      · refine K.privRefused ?_
        assumption
      · assumption
    try clear_value z3
    refine K.of (s := z3) ?_ rfl rfl rfl rfl rfl rfl rfl rfl rfl rfl rfl rfl rfl
    assumption

theorem K.ecSend {a : State} {s} {addr} {port} {f} (hs : Keeps a s) : Keeps a (State.ecSend s addr port f) := by
  unfold State.ecSend
  split
  · rename_i v0_0 v0_1 e0
    have h0 : Keeps a v0_1 := by
      refine K.eq2 e0 ?_
      refine K.draw ?_
      assumption
    refine K.send ?_
    assumption

theorem K.ecAuth {a : State} {s} {addr} {port} {key} {kind} {id} {seq} {body} (hs : Keeps a s) : Keeps a (State.ecAuth s addr port key kind id seq body) := by
  unfold State.ecAuth
  extract_lets +onlyGivenNames z0
  try clear_value z0
  refine K.ecSend ?_
  assumption

theorem K.ecRefuse {a : State} {s} {addr} {port} {id} {reason} (hs : Keeps a s) : Keeps a (State.ecRefuse s addr port id reason) := by
  unfold State.ecRefuse
  extract_lets +onlyGivenNames z0
  try clear_value z0
  extract_lets +onlyGivenNames z1
  try clear_value z1
  refine K.ite ?_ ?_
  · assumption
  · extract_lets +onlyGivenNames z2
    have h2 : Keeps a z2 := by
      subst z2
      refine K.modServer ?_
      assumption
    try clear_value z2
    refine K.ecSend ?_
    assumption

theorem K.ecDrop {a : State} {s} {r} {cause} (hs : Keeps a s) : Keeps a (State.ecDrop s r cause) := by
  unfold State.ecDrop
  extract_lets +onlyGivenNames z0
  have h0 : Keeps a z0 := by
    subst z0
    refine K.inc ?_
    assumption
  try clear_value z0
  refine K.evSecond ?_
  assumption

theorem K.ecTake {a : State} {s} {r} {k} (hs : Keeps a s) (Hk : ∀ {y0}, Keeps a y0 → Keeps a (k y0)) : Keeps a (State.ecTake s r k) := by
  unfold State.ecTake
  refine K.ite ?_ ?_
  · assumption
  · extract_lets +onlyGivenNames z0
    have h0 : Keeps a z0 := by
      subst z0
      refine K.inc ?_
      refine K.ce ?_
      assumption
    try clear_value z0
    split
    · refine Hk ?_
      assumption
    · extract_lets +onlyGivenNames z1
      have h1 : Keeps a z1 := by
        subst z1
        refine K.ecDrop ?_
        assumption
      try clear_value z1
      refine K.ite ?_ ?_
      · refine K.ecRefuse ?_
        assumption
      · assumption

theorem K.modSession {a : State} {s} {id} {f} (hs : Keeps a s) : Keeps a (State.modSession s id f) := by
  unfold State.modSession
  refine K.showSessions ?_
  refine K.modServer ?_
  assumption

theorem K.takeOpen {a : State} {s} {r} (hs : Keeps a s) : Keeps a (State.takeOpen s r) := by
  unfold State.takeOpen
  extract_lets +onlyGivenNames z0
  try clear_value z0
  extract_lets +onlyGivenNames z1
  try clear_value z1
  refine K.ite ?_ ?_
  · assumption
  · extract_lets +onlyGivenNames z2
    try clear_value z2
    extract_lets +onlyGivenNames z3
    try clear_value z3
    split
    · refine K.ecRefuse ?_
      refine K.inc ?_
      assumption
    · extract_lets +onlyGivenNames z4
      have h4 : Keeps a z4 := by
        subst z4
        split
        · refine K.dropSession ?_
          assumption
        · assumption
      try clear_value z4
      extract_lets +onlyGivenNames z5
      try clear_value z5
      split
      · rename_i v6_0 v6_1 e6
        have h6 : Keeps a v6_1 := by
          refine K.eq2 e6 ?_
          refine K.random ?_
          assumption
        extract_lets +onlyGivenNames z7
        try clear_value z7
        extract_lets +onlyGivenNames z8
        try clear_value z8
        extract_lets +onlyGivenNames z9
        try clear_value z9
        extract_lets +onlyGivenNames z10
        try clear_value z10
        extract_lets +onlyGivenNames z11
        try clear_value z11
        extract_lets +onlyGivenNames z12
        have h12 : Keeps a z12 := by
          subst z12
          refine K.modServer ?_
          assumption
        try clear_value z12
        refine K.ecAuth ?_
        refine K.showSessions ?_
        assumption

theorem K.takeConfirmSession {a : State} {s} {r} (hs : Keeps a s) : Keeps a (State.takeConfirmSession s r) := by
  unfold State.takeConfirmSession
  extract_lets +onlyGivenNames z0
  try clear_value z0
  split
  · assumption
  · refine K.ite ?_ ?_
    · assumption
    · extract_lets +onlyGivenNames z1
      have h1 : Keeps a z1 := by
        subst z1
        refine K.modSession ?_
        assumption
      try clear_value z1
      extract_lets +onlyGivenNames z2
      have h2 : Keeps a z2 := by
        subst z2
        refine K.ecAuth ?_
        assumption
      try clear_value z2
      refine K.ev ?_
      refine K.inc ?_
      assumption

theorem K.takeClose {a : State} {s} {r} (hs : Keeps a s) : Keeps a (State.takeClose s r) := by
  unfold State.takeClose
  extract_lets +onlyGivenNames z0
  try clear_value z0
  split
  · assumption
  · refine K.endSession ?_
    refine K.ecAuth ?_
    assumption

theorem K.takeRequest {a : State} {s} {r} (hs : Keeps a s) : Keeps a (State.takeRequest s r) := by
  unfold State.takeRequest
  extract_lets +onlyGivenNames z0
  try clear_value z0
  extract_lets +onlyGivenNames z1
  try clear_value z1
  extract_lets +onlyGivenNames z2
  try clear_value z2
  extract_lets +onlyGivenNames z3
  try clear_value z3
  split
  · assumption
  · refine K.ite ?_ ?_
    · assumption
    · refine K.ite ?_ ?_
      · split
        · rename_i v4_0 v4_1 e4
          have h4 : Keeps a v4_1 := by
            refine K.eq2 e4 ?_
            refine K.operate ?_
            assumption
          extract_lets +onlyGivenNames z5
          try clear_value z5
          extract_lets +onlyGivenNames z6
          try clear_value z6
          extract_lets +onlyGivenNames z7
          have h7 : Keeps a z7 := by
            subst z7
            refine K.modSession ?_
            assumption
          try clear_value z7
          refine K.ecSend ?_
          assumption
      · refine K.ite ?_ ?_
        · refine K.ecSend ?_
          refine K.inc ?_
          assumption
        · refine K.ecAuth ?_
          refine K.inc ?_
          assumption

theorem K.notify {a : State} {s} {x} {b} (hs : Keeps a s) : Keeps a (State.notify s x b) := by
  unfold State.notify
  extract_lets +onlyGivenNames z0
  try clear_value z0
  extract_lets +onlyGivenNames z1
  try clear_value z1
  refine K.ite ?_ ?_
  · refine K.inc ?_
    assumption
  · extract_lets +onlyGivenNames z2
    try clear_value z2
    extract_lets +onlyGivenNames z3
    try clear_value z3
    extract_lets +onlyGivenNames z4
    have h4 : Keeps a z4 := by
      subst z4
      refine K.ecAuth ?_
      assumption
    try clear_value z4
    extract_lets +onlyGivenNames z5
    have h5 : Keeps a z5 := by
      subst z5
      refine K.modSession ?_
      assumption
    try clear_value z5
    extract_lets +onlyGivenNames z6
    try clear_value z6
    extract_lets +onlyGivenNames z7
    have h7 : Keeps a z7 := by
      subst z7
      refine K.modServer ?_
      assumption
    try clear_value z7
    refine K.inc ?_
    assumption

end Sys2Proof.Machine
end

