-- ==== Sys2Proof/Laws/Keeps/Dictionary.lean ====
section
/-!
SUPPORT. What the operations of Machine/Dictionary.lean keep: the canonical forms, the queue, the build, the test port, the sticky
registers and storage; every frame already handed over stays, and the log's sequence and the draws only rise.
-/

namespace Sys2Proof.Machine

theorem K.dictRow {a : State} {ok} {v} {s} (hs : Keeps a s) : KR a (Sys2Proof.Machine.dictRow ok v s) := by
  unfold Sys2Proof.Machine.dictRow
  split
  · refine K.whenUp ?_ ?_
    · assumption
    · intro y0 k0
      refine K.ite ?_ ?_
      · assumption
      · split
        · assumption
        · refine K.ite ?_ ?_
          · refine K.cPort ?_
            assumption
          · assumption
  · refine K.whenUp ?_ ?_
    · assumption
    · intro y1 k1
      refine K.ite ?_ ?_
      · assumption
      · refine K.ecTake ?_ ?_
        · assumption
        · intro y2 k2
          refine K.takeRequest ?_
          assumption

theorem K.sessionRow {a : State} {kind} {r} {s} {k} (hs : Keeps a s) (Hk : ∀ {y0}, Keeps a y0 → Keeps a (k y0)) : KR a (Sys2Proof.Machine.sessionRow kind r s k) := by
  unfold Sys2Proof.Machine.sessionRow
  refine K.whenUp ?_ ?_
  · assumption
  · intro y0 k0
    refine K.ite ?_ ?_
    · assumption
    · refine K.ecTake ?_ ?_
      · assumption
      · intro y1 k1
        refine Hk ?_
        assumption

theorem K.execOpen {a : State} {r} {s} (hs : Keeps a s) : KR a (Sys2Proof.Machine.execOpen r s) := by
  unfold Sys2Proof.Machine.execOpen
  refine K.sessionRow ?_ ?_
  · assumption
  · intro y0 k0
    refine K.takeOpen ?_
    assumption

theorem K.execConfirm {a : State} {r} {s} (hs : Keeps a s) : KR a (Sys2Proof.Machine.execConfirm r s) := by
  unfold Sys2Proof.Machine.execConfirm
  refine K.sessionRow ?_ ?_
  · assumption
  · intro y0 k0
    refine K.takeConfirmSession ?_
    assumption

theorem K.execClose {a : State} {r} {s} (hs : Keeps a s) : KR a (Sys2Proof.Machine.execClose r s) := by
  unfold Sys2Proof.Machine.execClose
  refine K.sessionRow ?_ ?_
  · assumption
  · intro y0 k0
    refine K.takeClose ?_
    assumption

theorem K.execHalfOpenTimeout {a : State} {id} {s} (hs : Keeps a s) : KR a (Sys2Proof.Machine.execHalfOpenTimeout id s) := by
  unfold Sys2Proof.Machine.execHalfOpenTimeout
  refine K.whenUp ?_ ?_
  · assumption
  · intro y0 k0
    refine K.ite ?_ ?_
    · refine K.dropSession ?_
      assumption
    · assumption

theorem K.execIdleTimeout {a : State} {id} {s} (hs : Keeps a s) : KR a (Sys2Proof.Machine.execIdleTimeout id s) := by
  unfold Sys2Proof.Machine.execIdleTimeout
  refine K.whenUp ?_ ?_
  · assumption
  · intro y0 k0
    refine K.ite ?_ ?_
    · refine K.endSession ?_
      assumption
    · assumption

theorem K.execRead {a : State} {v} {s} (hs : Keeps a s) : KR a (Sys2Proof.Machine.execRead v s) := by
  unfold Sys2Proof.Machine.execRead
  refine K.dictRow ?_
  assumption

theorem K.execWrite {a : State} {v} {s} (hs : Keeps a s) : KR a (Sys2Proof.Machine.execWrite v s) := by
  unfold Sys2Proof.Machine.execWrite
  refine K.dictRow ?_
  assumption

theorem K.execReadBlock {a : State} {v} {s} (hs : Keeps a s) : KR a (Sys2Proof.Machine.execReadBlock v s) := by
  unfold Sys2Proof.Machine.execReadBlock
  refine K.dictRow ?_
  assumption

theorem K.execWriteBlock {a : State} {v} {s} (hs : Keeps a s) : KR a (Sys2Proof.Machine.execWriteBlock v s) := by
  unfold Sys2Proof.Machine.execWriteBlock
  refine K.dictRow ?_
  assumption

theorem K.execSubscribe {a : State} {v} {s} (hs : Keeps a s) : KR a (Sys2Proof.Machine.execSubscribe v s) := by
  unfold Sys2Proof.Machine.execSubscribe
  refine K.dictRow ?_
  assumption

theorem K.execBlockTimeout {a : State} {sess} {key} {copy} {s} (hs : Keeps a s) : KR a (Sys2Proof.Machine.execBlockTimeout sess key copy s) := by
  unfold Sys2Proof.Machine.execBlockTimeout
  refine K.whenUp ?_ ?_
  · assumption
  · intro y0 k0
    refine K.ite ?_ ?_
    · refine K.modServer ?_
      assumption
    · refine K.discardStaging ?_
      assumption

theorem K.execNotify {a : State} {sess} {key} {s} (hs : Keeps a s) : KR a (Sys2Proof.Machine.execNotify sess key s) := by
  unfold Sys2Proof.Machine.execNotify
  refine K.whenUp ?_ ?_
  · assumption
  · intro y0 k0
    refine K.ite ?_ ?_
    · assumption
    · split
      · refine K.ite ?_ ?_
        · assumption
        · refine K.notify ?_
          assumption
      · assumption

theorem K.execMouldLoad {a : State} {v} {s} (hs : Keeps a s) : KR a (Sys2Proof.Machine.execMouldLoad v s) := by
  unfold Sys2Proof.Machine.execMouldLoad
  refine K.dictRow ?_
  assumption

theorem K.execImportRequest {a : State} {v} {s} (hs : Keeps a s) : KR a (Sys2Proof.Machine.execImportRequest v s) := by
  unfold Sys2Proof.Machine.execImportRequest
  refine K.dictRow ?_
  assumption

theorem K.execJoin {a : State} {v} {s} (hs : Keeps a s) : KR a (Sys2Proof.Machine.execJoin v s) := by
  unfold Sys2Proof.Machine.execJoin
  refine K.dictRow ?_
  assumption

theorem K.execSnapshotNow {a : State} {v} {s} (hs : Keeps a s) : KR a (Sys2Proof.Machine.execSnapshotNow v s) := by
  unfold Sys2Proof.Machine.execSnapshotNow
  refine K.dictRow ?_
  assumption

theorem K.execEvaluationExportNow {a : State} {v} {s} (hs : Keeps a s) : KR a (Sys2Proof.Machine.execEvaluationExportNow v s) := by
  unfold Sys2Proof.Machine.execEvaluationExportNow
  refine K.dictRow ?_
  assumption

theorem K.execRestoreRequest {a : State} {v} {s} (hs : Keeps a s) : KR a (Sys2Proof.Machine.execRestoreRequest v s) := by
  unfold Sys2Proof.Machine.execRestoreRequest
  refine K.dictRow ?_
  assumption

theorem K.execSiteJoin {a : State} {v} {s} (hs : Keeps a s) : KR a (Sys2Proof.Machine.execSiteJoin v s) := by
  unfold Sys2Proof.Machine.execSiteJoin
  refine K.dictRow ?_
  assumption

theorem K.execRemoveEntry {a : State} {v} {s} (hs : Keeps a s) : KR a (Sys2Proof.Machine.execRemoveEntry v s) := by
  unfold Sys2Proof.Machine.execRemoveEntry
  refine K.dictRow ?_
  assumption

theorem K.execErrorInjection {a : State} {v} {s} (hs : Keeps a s) : KR a (Sys2Proof.Machine.execErrorInjection v s) := by
  unfold Sys2Proof.Machine.execErrorInjection
  refine K.dictRow ?_
  assumption

theorem K.execAcknowledgeRetirement {a : State} {v} {s} (hs : Keeps a s) : KR a (Sys2Proof.Machine.execAcknowledgeRetirement v s) := by
  unfold Sys2Proof.Machine.execAcknowledgeRetirement
  refine K.dictRow ?_
  assumption

theorem K.execJobKey {a : State} {v} {s} (hs : Keeps a s) : KR a (Sys2Proof.Machine.execJobKey v s) := by
  unfold Sys2Proof.Machine.execJobKey
  refine K.dictRow ?_
  assumption

theorem K.execStreamQuery {a : State} {v} {s} (hs : Keeps a s) : KR a (Sys2Proof.Machine.execStreamQuery v s) := by
  unfold Sys2Proof.Machine.execStreamQuery
  refine K.dictRow ?_
  assumption

theorem K.execPrincipalKey {a : State} {v} {s} (hs : Keeps a s) : KR a (Sys2Proof.Machine.execPrincipalKey v s) := by
  unfold Sys2Proof.Machine.execPrincipalKey
  refine K.dictRow ?_
  assumption

theorem K.execPrincipalEnabled {a : State} {v} {s} (hs : Keeps a s) : KR a (Sys2Proof.Machine.execPrincipalEnabled v s) := by
  unfold Sys2Proof.Machine.execPrincipalEnabled
  refine K.dictRow ?_
  assumption

theorem K.execFunctionEnable {a : State} {v} {s} (hs : Keeps a s) : KR a (Sys2Proof.Machine.execFunctionEnable v s) := by
  unfold Sys2Proof.Machine.execFunctionEnable
  refine K.dictRow ?_
  assumption

theorem K.execFunctionDisable {a : State} {v} {s} (hs : Keeps a s) : KR a (Sys2Proof.Machine.execFunctionDisable v s) := by
  unfold Sys2Proof.Machine.execFunctionDisable
  refine K.dictRow ?_
  assumption

theorem K.execImageChunk {a : State} {v} {s} (hs : Keeps a s) : KR a (Sys2Proof.Machine.execImageChunk v s) := by
  unfold Sys2Proof.Machine.execImageChunk
  refine K.dictRow ?_
  assumption

theorem K.execCheckSlot {a : State} {v} {s} (hs : Keeps a s) : KR a (Sys2Proof.Machine.execCheckSlot v s) := by
  unfold Sys2Proof.Machine.execCheckSlot
  refine K.dictRow ?_
  assumption

theorem K.execActivate {a : State} {v} {s} (hs : Keeps a s) : KR a (Sys2Proof.Machine.execActivate v s) := by
  unfold Sys2Proof.Machine.execActivate
  refine K.dictRow ?_
  assumption

theorem K.execPair {a : State} {v} {s} (hs : Keeps a s) : KR a (Sys2Proof.Machine.execPair v s) := by
  unfold Sys2Proof.Machine.execPair
  refine K.dictRow ?_
  assumption

theorem K.execUnpair {a : State} {v} {s} (hs : Keeps a s) : KR a (Sys2Proof.Machine.execUnpair v s) := by
  unfold Sys2Proof.Machine.execUnpair
  refine K.dictRow ?_
  assumption

end Sys2Proof.Machine
end

