-- ==== Sys2Proof/Laws/Keeps/Exchange.lean ====
section
/-!
SUPPORT. What the operations of Machine/Exchange.lean keep: the canonical forms, the queue, the build, the test port, the sticky
registers and storage; every frame already handed over stays, and the log's sequence and the draws only rise.
-/

namespace Sys2Proof.Machine

theorem K.whenExchange {a : State} {s} {k} (hs : Keeps a s) (Hk : ∀ {y0}, Keeps a y0 → Keeps a (k y0)) : KR a (Sys2Proof.Machine.whenExchange s k) := by
  unfold Sys2Proof.Machine.whenExchange
  refine K.whenServing ?_ ?_
  · assumption
  · intro y0 k0
    refine K.ite ?_ ?_
    · refine Hk ?_
      assumption
    · assumption

theorem K.exchFrame {a : State} {kind} {r} {s} {k} (hs : Keeps a s) (Hk : ∀ {y0}, Keeps a y0 → Keeps a (k y0)) : KR a (Sys2Proof.Machine.exchFrame kind r s k) := by
  unfold Sys2Proof.Machine.exchFrame
  refine K.frameRow ?_ ?_
  · assumption
  · intro y0 k0
    refine K.ite ?_ ?_
    · refine Hk ?_
      assumption
    · assumption

theorem K.execSweepStart {a : State} {s} (hs : Keeps a s) : KR a (Sys2Proof.Machine.execSweepStart s) := by
  unfold Sys2Proof.Machine.execSweepStart
  refine K.whenExchange ?_ ?_
  · assumption
  · intro y0 k0
    refine K.startSweep ?_
    assumption

theorem K.execSweepBlock {a : State} {s} (hs : Keeps a s) : KR a (Sys2Proof.Machine.execSweepBlock s) := by
  unfold Sys2Proof.Machine.execSweepBlock
  refine K.whenExchange ?_ ?_
  · assumption
  · intro y0 k0
    refine K.drainHeld ?_
    refine K.yieldLog ?_
    refine K.sweepBlock ?_
    assumption

theorem K.execRoundClose {a : State} {round} {s} (hs : Keeps a s) : KR a (Sys2Proof.Machine.execRoundClose round s) := by
  unfold Sys2Proof.Machine.execRoundClose
  refine K.whenExchange ?_ ?_
  · assumption
  · intro y0 k0
    refine K.closeRound ?_
    assumption

theorem K.execManifest {a : State} {r} {s} (hs : Keeps a s) : KR a (Sys2Proof.Machine.execManifest r s) := by
  unfold Sys2Proof.Machine.execManifest
  refine K.exchFrame ?_ ?_
  · assumption
  · intro y0 k0
    refine K.takeManifest ?_
    assumption

theorem K.execLongHaulPacket {a : State} {r} {s} (hs : Keeps a s) : KR a (Sys2Proof.Machine.execLongHaulPacket r s) := by
  unfold Sys2Proof.Machine.execLongHaulPacket
  refine K.exchFrame ?_ ?_
  · assumption
  · intro y0 k0
    refine K.takePacket ?_
    assumption

theorem K.execRepairWait {a : State} {site} {shard} {round} {block} {set} {s} (hs : Keeps a s) : KR a (Sys2Proof.Machine.execRepairWait site shard round block set s) := by
  unfold Sys2Proof.Machine.execRepairWait
  refine K.whenExchange ?_ ?_
  · assumption
  · intro y0 k0
    refine K.waitRepair ?_
    assumption

theorem K.execRepairRequest {a : State} {r} {s} (hs : Keeps a s) : KR a (Sys2Proof.Machine.execRepairRequest r s) := by
  unfold Sys2Proof.Machine.execRepairRequest
  refine K.exchFrame ?_ ?_
  · assumption
  · intro y0 k0
    split
    · refine K.ite ?_ ?_
      · refine K.answerRepair ?_
        assumption
      · refine K.xDrop ?_
        assumption
    · refine K.xDrop ?_
      assumption

theorem K.execShardSummary {a : State} {r} {s} (hs : Keeps a s) : KR a (Sys2Proof.Machine.execShardSummary r s) := by
  unfold Sys2Proof.Machine.execShardSummary
  refine K.exchFrame ?_ ?_
  · assumption
  · intro y0 k0
    refine K.takeSummary ?_
    assumption

theorem K.execShardComplete {a : State} {r} {s} (hs : Keeps a s) : KR a (Sys2Proof.Machine.execShardComplete r s) := by
  unfold Sys2Proof.Machine.execShardComplete
  refine K.exchFrame ?_ ?_
  · assumption
  · intro y0 k0
    refine K.gated ?_ ?_
    · assumption
    · intro y1 k1
      refine K.takeComplete ?_
      assumption

theorem K.execManifestWait {a : State} {s} (hs : Keeps a s) : KR a (Sys2Proof.Machine.execManifestWait s) := by
  unfold Sys2Proof.Machine.execManifestWait
  refine K.whenExchange ?_ ?_
  · assumption
  · intro y0 k0
    refine K.detachSite ?_
    assumption

theorem K.execSiteJoinRequest {a : State} {r} {s} (hs : Keeps a s) : KR a (Sys2Proof.Machine.execSiteJoinRequest r s) := by
  unfold Sys2Proof.Machine.execSiteJoinRequest
  refine K.exchFrame ?_ ?_
  · assumption
  · intro y0 k0
    refine K.ite ?_ ?_
    · refine K.judgeSite ?_
      assumption
    · refine K.xDrop ?_
      assumption

theorem K.execJoinAnswer {a : State} {r} {s} (hs : Keeps a s) : KR a (Sys2Proof.Machine.execJoinAnswer r s) := by
  unfold Sys2Proof.Machine.execJoinAnswer
  refine K.exchFrame ?_ ?_
  · assumption
  · intro y0 k0
    refine K.ite ?_ ?_
    · refine K.takeAnswer ?_
      assumption
    · refine K.xDrop ?_
      assumption

end Sys2Proof.Machine
end

