-- ==== Sys2Proof/Laws/Keeps/Life.lean ====
section
/-!
SUPPORT. What the operations of Machine/Life.lean keep: the canonical forms, the queue, the build, the test port, the sticky
registers and storage; every frame already handed over stays, and the log's sequence and the draws only rise.
-/

namespace Sys2Proof.Machine

theorem K.execVresetNRelease {a : State} {pairs} {s} (hs : Keeps a s) : KR a (Sys2Proof.Machine.execVresetNRelease pairs s) := by
  unfold Sys2Proof.Machine.execVresetNRelease
  refine KR.ite ?_ ?_
  · refine KR.next ?_
    refine K.releaseReset ?_
    assumption
  · refine KR.next ?_
    assumption

theorem K.execFeedwarnChange {a : State} {pad} {v} {s} (hs : Keeps a s) : KR a (Sys2Proof.Machine.execFeedwarnChange pad v s) := by
  unfold Sys2Proof.Machine.execFeedwarnChange
  refine K.whenUp ?_ ?_
  · assumption
  · intro y0 k0
    refine K.ite ?_ ?_
    · assumption
    · refine K.feedJudge ?_
      refine K.feedBit ?_
      refine K.setPair ?_
      assumption

theorem K.execFeedDeclared {a : State} {s} (hs : Keeps a s) : KR a (Sys2Proof.Machine.execFeedDeclared s) := by
  unfold Sys2Proof.Machine.execFeedDeclared
  refine K.whenUp ?_ ?_
  · assumption
  · intro y0 k0
    refine K.ite ?_ ?_
    · assumption
    · extract_lets +onlyGivenNames z1
      have h1 : Keeps a z1 := by
        subst z1
        refine K.inc ?_
        refine K.wr ?_
        refine K.feedBit ?_
        assumption
      try clear_value z1
      extract_lets +onlyGivenNames z2
      have h2 : Keeps a z2 := by
        subst z2
        refine K.ev ?_
        assumption
      try clear_value z2
      refine K.ite ?_ ?_
      · refine K.startFlush ?_
        assumption
      · refine K.sendTail ?_
        refine K.writeLogTail ?_
        assumption

theorem K.execDrainComplete {a : State} {f} {s} (hs : Keeps a s) : KR a (Sys2Proof.Machine.execDrainComplete f s) := by
  unfold Sys2Proof.Machine.execDrainComplete
  refine K.whenServing ?_ ?_
  · assumption
  · intro y0 k0
    refine K.ite ?_ ?_
    · refine K.endDrain ?_
      assumption
    · assumption

theorem K.execDrainLimit {a : State} {s} (hs : Keeps a s) : KR a (Sys2Proof.Machine.execDrainLimit s) := by
  unfold Sys2Proof.Machine.execDrainLimit
  refine K.whenServing ?_ ?_
  · assumption
  · intro y0 k0
    refine K.ite ?_ ?_
    · refine K.endDrain ?_
      assumption
    · assumption

theorem K.execThermalSample {a : State} {ts} {s} (hs : Keeps a s) : KR a (Sys2Proof.Machine.execThermalSample ts s) := by
  unfold Sys2Proof.Machine.execThermalSample
  refine K.whenUp ?_ ?_
  · assumption
  · intro y0 k0
    refine K.sample ?_
    assumption

theorem K.execDroopLimit {a : State} {slice} {count} {s} (hs : Keeps a s) : KR a (Sys2Proof.Machine.execDroopLimit slice count s) := by
  unfold Sys2Proof.Machine.execDroopLimit
  refine K.onActive ?_ ?_
  · assumption
  · intro y0 k0
    refine K.ite ?_ ?_
    · assumption
    · extract_lets +onlyGivenNames z1
      have h1 : Keeps a z1 := by
        subst z1
        refine K.incBy ?_
        assumption
      try clear_value z1
      refine K.ite ?_ ?_
      · refine K.ev ?_
        assumption
      · assumption

theorem K.twinFrame {a : State} {kind} {r} {s} {k} (hs : Keeps a s) (Hk : ∀ {y0}, Keeps a y0 → Keeps a (k y0)) : KR a (Sys2Proof.Machine.twinFrame kind r s k) := by
  unfold Sys2Proof.Machine.twinFrame
  refine K.frameRow ?_ ?_
  · assumption
  · intro y0 k0
    refine K.ite ?_ ?_
    · refine Hk ?_
      assumption
    · assumption

theorem K.execOfferRepeat {a : State} {s} (hs : Keeps a s) : KR a (Sys2Proof.Machine.execOfferRepeat s) := by
  unfold Sys2Proof.Machine.execOfferRepeat
  refine K.whenServing ?_ ?_
  · assumption
  · intro y0 k0
    refine K.ite ?_ ?_
    · refine K.sendTwin ?_
      assumption
    · assumption

theorem K.execOffer {a : State} {r} {s} (hs : Keeps a s) : KR a (Sys2Proof.Machine.execOffer r s) := by
  unfold Sys2Proof.Machine.execOffer
  refine K.twinFrame ?_ ?_
  · assumption
  · intro y0 k0
    refine K.takeOffer ?_
    assumption

theorem K.execTwinAccept {a : State} {r} {s} (hs : Keeps a s) : KR a (Sys2Proof.Machine.execTwinAccept r s) := by
  unfold Sys2Proof.Machine.execTwinAccept
  refine K.twinFrame ?_ ?_
  · assumption
  · intro y0 k0
    refine K.takeAccept ?_
    assumption

theorem K.execTwinConfirm {a : State} {r} {s} (hs : Keeps a s) : KR a (Sys2Proof.Machine.execTwinConfirm r s) := by
  unfold Sys2Proof.Machine.execTwinConfirm
  refine K.twinFrame ?_ ?_
  · assumption
  · intro y0 k0
    refine K.takeConfirm ?_
    assumption

theorem K.execPairTimeout {a : State} {s} (hs : Keeps a s) : KR a (Sys2Proof.Machine.execPairTimeout s) := by
  unfold Sys2Proof.Machine.execPairTimeout
  refine K.whenServing ?_ ?_
  · assumption
  · intro y0 k0
    refine K.ite ?_ ?_
    · refine K.refusePair ?_
      assumption
    · assumption

theorem K.execHeartbeatTimer {a : State} {s} (hs : Keeps a s) : KR a (Sys2Proof.Machine.execHeartbeatTimer s) := by
  unfold Sys2Proof.Machine.execHeartbeatTimer
  refine K.whenServing ?_ ?_
  · assumption
  · intro y0 k0
    refine K.ite ?_ ?_
    · refine K.sendBeat ?_
      assumption
    · assumption

theorem K.execHeartbeat {a : State} {r} {s} (hs : Keeps a s) : KR a (Sys2Proof.Machine.execHeartbeat r s) := by
  unfold Sys2Proof.Machine.execHeartbeat
  refine K.twinFrame ?_ ?_
  · assumption
  · intro y0 k0
    refine K.takeBeat ?_
    assumption

theorem K.execTwinSilence {a : State} {s} (hs : Keeps a s) : KR a (Sys2Proof.Machine.execTwinSilence s) := by
  unfold Sys2Proof.Machine.execTwinSilence
  refine K.whenServing ?_ ?_
  · assumption
  · intro y0 k0
    refine K.ite ?_ ?_
    · assumption
    · extract_lets +onlyGivenNames z1
      have h1 : Keeps a z1 := by
        subst z1
        refine K.inc ?_
        refine K.wr ?_
        assumption
      try clear_value z1
      extract_lets +onlyGivenNames z2
      have h2 : Keeps a z2 := by
        subst z2
        refine K.modTwin ?_
        assumption
      try clear_value z2
      refine K.ev ?_
      refine K.wr ?_
      refine K.wr ?_
      assumption

theorem K.execLogMirror {a : State} {r} {s} (hs : Keeps a s) : KR a (Sys2Proof.Machine.execLogMirror r s) := by
  unfold Sys2Proof.Machine.execLogMirror
  refine K.twinFrame ?_ ?_
  · assumption
  · intro y0 k0
    refine K.takeLogMirror ?_
    assumption

theorem K.execUnpairFrame {a : State} {r} {s} (hs : Keeps a s) : KR a (Sys2Proof.Machine.execUnpairFrame r s) := by
  unfold Sys2Proof.Machine.execUnpairFrame
  refine K.twinFrame ?_ ?_
  · assumption
  · intro y0 k0
    refine K.takeUnpair ?_
    assumption

end Sys2Proof.Machine
end

