-- ==== Sys2Proof/Laws/Keeps/Membership.lean ====
section
/-!
SUPPORT. What the operations of Machine/Membership.lean keep: the canonical forms, the queue, the build, the test port, the sticky
registers and storage; every frame already handed over stays, and the log's sequence and the draws only rise.
-/

namespace Sys2Proof.Machine

theorem K.execSuspect {a : State} {r} {s} (hs : Keeps a s) : KR a (Sys2Proof.Machine.execSuspect r s) := by
  unfold Sys2Proof.Machine.execSuspect
  refine K.frameRow ?_ ?_
  · assumption
  · intro y0 k0
    refine K.judgeReadies ?_
    refine K.gated ?_ ?_
    · assumption
    · intro y1 k1
      extract_lets +onlyGivenNames z2
      try clear_value z2
      extract_lets +onlyGivenNames z3
      try clear_value z3
      refine K.ite ?_ ?_
      · refine K.leadSuspect ?_
        assumption
      · refine K.ite ?_ ?_
        · extract_lets +onlyGivenNames z4
          try clear_value z4
          refine K.sendMember ?_
          assumption
        · assumption

theorem K.execSilenceLimit {a : State} {dev} {s} (hs : Keeps a s) : KR a (Sys2Proof.Machine.execSilenceLimit dev s) := by
  unfold Sys2Proof.Machine.execSilenceLimit
  refine K.whenServing ?_ ?_
  · assumption
  · intro y0 k0
    refine K.ite ?_ ?_
    · refine K.judgeReadies ?_
      refine K.report ?_
      assumption
    · assumption

theorem K.execTwinWait {a : State} {dev} {s} (hs : Keeps a s) : KR a (Sys2Proof.Machine.execTwinWait dev s) := by
  unfold Sys2Proof.Machine.execTwinWait
  refine K.whenServing ?_ ?_
  · assumption
  · intro y0 k0
    refine K.judgeReadies ?_
    split
    · assumption
    · extract_lets +onlyGivenNames z1
      try clear_value z1
      refine K.ite ?_ ?_
      · assumption
      · refine K.ite ?_ ?_
        · refine K.modMember ?_
          assumption
        · refine K.ite ?_ ?_
          · refine K.modMember ?_
            assumption
          · refine K.declareLost ?_
            assumption

theorem K.execTwinReport {a : State} {r} {s} (hs : Keeps a s) : KR a (Sys2Proof.Machine.execTwinReport r s) := by
  unfold Sys2Proof.Machine.execTwinReport
  refine K.frameRow ?_ ?_
  · assumption
  · intro y0 k0
    refine K.judgeReadies ?_
    refine K.gated ?_ ?_
    · assumption
    · intro y1 k1
      refine K.ite ?_ ?_
      · refine K.twinVerdict ?_
        assumption
      · assumption

theorem K.execPropose {a : State} {r} {s} (hs : Keeps a s) : KR a (Sys2Proof.Machine.execPropose r s) := by
  unfold Sys2Proof.Machine.execPropose
  refine K.frameRow ?_ ?_
  · assumption
  · intro y0 k0
    refine K.gateChange ?_ ?_
    · assumption
    · intro y1 k1
      extract_lets +onlyGivenNames z2
      try clear_value z2
      extract_lets +onlyGivenNames z3
      try clear_value z3
      extract_lets +onlyGivenNames z4
      try clear_value z4
      extract_lets +onlyGivenNames z5
      try clear_value z5
      extract_lets +onlyGivenNames z6
      try clear_value z6
      extract_lets +onlyGivenNames z7
      try clear_value z7
      extract_lets +onlyGivenNames z8
      try clear_value z8
      extract_lets +onlyGivenNames z9
      try clear_value z9
      refine K.ite ?_ ?_
      · refine K.ite ?_ ?_
        · refine K.takeProposal ?_
          assumption
        · assumption
      · refine K.ite ?_ ?_
        · assumption
        · refine K.ite ?_ ?_
          · refine K.enterPaddock ?_
            assumption
          · refine K.ite ?_ ?_
            · assumption
            · refine K.ite ?_ ?_
              · assumption
              · refine K.ite ?_ ?_
                · refine K.takeProposal ?_
                  assumption
                · assumption

theorem K.execRebuildRead {a : State} {r} {s} (hs : Keeps a s) : KR a (Sys2Proof.Machine.execRebuildRead r s) := by
  unfold Sys2Proof.Machine.execRebuildRead
  refine K.frameRow ?_ ?_
  · assumption
  · intro y0 k0
    refine K.gated ?_ ?_
    · assumption
    · intro y1 k1
      refine K.takeRead ?_
      assumption

theorem K.execRebuildData {a : State} {r} {s} (hs : Keeps a s) : KR a (Sys2Proof.Machine.execRebuildData r s) := by
  unfold Sys2Proof.Machine.execRebuildData
  refine K.frameRow ?_ ?_
  · assumption
  · intro y0 k0
    refine K.gated ?_ ?_
    · assumption
    · intro y1 k1
      extract_lets +onlyGivenNames z2
      try clear_value z2
      extract_lets +onlyGivenNames z3
      try clear_value z3
      extract_lets +onlyGivenNames z4
      try clear_value z4
      extract_lets +onlyGivenNames z5
      try clear_value z5
      extract_lets +onlyGivenNames z6
      try clear_value z6
      extract_lets +onlyGivenNames z7
      try clear_value z7
      extract_lets +onlyGivenNames z8
      try clear_value z8
      extract_lets +onlyGivenNames z9
      try clear_value z9
      extract_lets +onlyGivenNames z10
      try clear_value z10
      refine K.ite ?_ ?_
      · refine K.judgeReadies ?_
        refine K.rebuildDone ?_
        refine K.modMember ?_
        assumption
      · refine K.ite ?_ ?_
        · assumption
        · extract_lets +onlyGivenNames z11
          have h11 : Keeps a z11 := by
            subst z11
            refine K.foldl ?_ ?_
            · assumption
            · intro y12 y13 k12
              extract_lets +onlyGivenNames z14
              try clear_value z14
              extract_lets +onlyGivenNames z15
              try clear_value z15
              refine K.ite ?_ ?_
              · extract_lets +onlyGivenNames z16
                have h16 : Keeps a z16 := by
                  subst z16
                  refine K.modMember ?_
                  assumption
                try clear_value z16
                refine K.storeRebuilt ?_
                assumption
              · refine K.ite ?_ ?_
                · extract_lets +onlyGivenNames z17
                  have h17 : Keeps a z17 := by
                    subst z17
                    refine K.modMember ?_
                    assumption
                  try clear_value z17
                  refine K.tryStripe ?_
                  assumption
                · assumption
          try clear_value z11
          refine K.judgeReadies ?_
          refine K.rebuildDone ?_
          assumption

theorem K.execAccept {a : State} {r} {s} (hs : Keeps a s) : KR a (Sys2Proof.Machine.execAccept r s) := by
  unfold Sys2Proof.Machine.execAccept
  refine K.frameRow ?_ ?_
  · assumption
  · intro y0 k0
    split
    · refine K.gated ?_ ?_
      · assumption
      · intro y1 k1
        assumption
    · refine K.gateChange ?_ ?_
      · assumption
      · intro y2 k2
        extract_lets +onlyGivenNames z3
        try clear_value z3
        extract_lets +onlyGivenNames z4
        try clear_value z4
        extract_lets +onlyGivenNames z5
        try clear_value z5
        refine K.ite ?_ ?_
        · assumption
        · refine K.ite ?_ ?_
          · refine K.proposeAt ?_
            refine K.inc ?_
            assumption
          · refine K.ite ?_ ?_
            · assumption
            · extract_lets +onlyGivenNames z6
              have h6 : Keeps a z6 := by
                subst z6
                refine K.modMember ?_
                assumption
              try clear_value z6
              refine K.tryCut ?_
              assumption

theorem K.execAcceptTimeout {a : State} {s} (hs : Keeps a s) : KR a (Sys2Proof.Machine.execAcceptTimeout s) := by
  unfold Sys2Proof.Machine.execAcceptTimeout
  refine K.whenServing ?_ ?_
  · assumption
  · intro y0 k0
    split
    · assumption
    · extract_lets +onlyGivenNames z1
      try clear_value z1
      refine K.ite ?_ ?_
      · assumption
      · extract_lets +onlyGivenNames z2
        have h2 : Keeps a z2 := by
          subst z2
          refine K.inc ?_
          assumption
        try clear_value z2
        refine K.ite ?_ ?_
        · refine K.foldl ?_ ?_
          · assumption
          · intro y3 y4 k3
            refine K.sendMember ?_
            assumption
        · extract_lets +onlyGivenNames z5
          have h5 : Keeps a z5 := by
            subst z5
            refine K.foldl ?_ ?_
            · assumption
            · intro y6 y7 k6
              refine K.ite ?_ ?_
              · assumption
              · extract_lets +onlyGivenNames z8
                have h8 : Keeps a z8 := by
                  subst z8
                  refine K.modMember ?_
                  assumption
                try clear_value z8
                refine K.evHub ?_
                refine K.inc ?_
                assumption
          try clear_value z5
          refine K.judgeReadies ?_
          refine K.proposeLoss ?_
          assumption

theorem K.execCut {a : State} {r} {s} (hs : Keeps a s) : KR a (Sys2Proof.Machine.execCut r s) := by
  unfold Sys2Proof.Machine.execCut
  refine K.frameRow ?_ ?_
  · assumption
  · intro y0 k0
    refine K.gateChange ?_ ?_
    · assumption
    · intro y1 k1
      extract_lets +onlyGivenNames z2
      try clear_value z2
      extract_lets +onlyGivenNames z3
      try clear_value z3
      split
      · refine K.ite ?_ ?_
        · refine K.enterPaddock ?_
          assumption
        · assumption
      · extract_lets +onlyGivenNames z4
        try clear_value z4
        refine K.ite ?_ ?_
        · assumption
        · extract_lets +onlyGivenNames z5
          try clear_value z5
          refine K.judgeReadies ?_
          refine K.adoptCut ?_
          assumption

theorem K.execRollbackComplete {a : State} {s} (hs : Keeps a s) : KR a (Sys2Proof.Machine.execRollbackComplete s) := by
  unfold Sys2Proof.Machine.execRollbackComplete
  refine K.whenServing ?_ ?_
  · assumption
  · intro y0 k0
    split
    · assumption
    · extract_lets +onlyGivenNames z1
      have h1 : Keeps a z1 := by
        subst z1
        refine K.endRollback ?_
        assumption
      try clear_value z1
      extract_lets +onlyGivenNames z2
      have h2 : Keeps a z2 := by
        subst z2
        refine K.sendReady ?_
        assumption
      try clear_value z2
      extract_lets +onlyGivenNames z3
      have h3 : Keeps a z3 := by
        subst z3
        refine K.takeReads ?_
        assumption
      try clear_value z3
      refine K.judgeReadies ?_
      refine K.ite ?_ ?_
      · refine K.sendReady ?_
        assumption
      · refine K.ite ?_ ?_
        · refine K.fillComplete ?_
          assumption
        · refine K.rebuildDone ?_
          refine K.startRebuild ?_
          assumption

theorem K.execReady {a : State} {r} {s} (hs : Keeps a s) : KR a (Sys2Proof.Machine.execReady r s) := by
  unfold Sys2Proof.Machine.execReady
  refine K.frameRow ?_ ?_
  · assumption
  · intro y0 k0
    extract_lets +onlyGivenNames z1
    try clear_value z1
    refine K.gateChange ?_ ?_
    · assumption
    · intro y2 k2
      extract_lets +onlyGivenNames z3
      try clear_value z3
      extract_lets +onlyGivenNames z4
      try clear_value z4
      extract_lets +onlyGivenNames z5
      try clear_value z5
      extract_lets +onlyGivenNames z6
      have h6 : Keeps a z6 := by
        subst z6
        refine K.modMember ?_
        assumption
      try clear_value z6
      refine K.judgeReadies ?_
      assumption

theorem K.execRelease {a : State} {r} {s} (hs : Keeps a s) : KR a (Sys2Proof.Machine.execRelease r s) := by
  unfold Sys2Proof.Machine.execRelease
  refine K.frameRow ?_ ?_
  · assumption
  · intro y0 k0
    refine K.gated ?_ ?_
    · assumption
    · intro y1 k1
      refine K.ite ?_ ?_
      · refine K.takeRelease ?_
        assumption
      · assumption

theorem K.execReStripeFillRead {a : State} {s} (hs : Keeps a s) : KR a (Sys2Proof.Machine.execReStripeFillRead s) := by
  unfold Sys2Proof.Machine.execReStripeFillRead
  refine K.whenServing ?_ ?_
  · assumption
  · intro y0 k0
    split
    · assumption
    · refine K.ite ?_ ?_
      · assumption
      · extract_lets +onlyGivenNames z1
        have h1 : Keeps a z1 := by
          subst z1
          refine K.pump ?_
          refine K.rush ?_
          assumption
        try clear_value z1
        split
        · split
          · assumption
          · refine K.ite ?_ ?_
            · assumption
            · extract_lets +onlyGivenNames z2
              try clear_value z2
              extract_lets +onlyGivenNames z3
              have h3 : Keeps a z3 := by
                subst z3
                refine K.modMember ?_
                assumption
              try clear_value z3
              extract_lets +onlyGivenNames z4
              have h4 : Keeps a z4 := by
                subst z4
                refine K.wr ?_
                assumption
              try clear_value z4
              extract_lets +onlyGivenNames z5
              have h5 : Keeps a z5 := by
                subst z5
                refine K.ite ?_ ?_
                · assumption
                · refine K.emit ?_
                  assumption
              try clear_value z5
              refine K.ite ?_ ?_
              · refine K.judgeReadies ?_
                refine K.sendReady ?_
                assumption
              · assumption
        · extract_lets +onlyGivenNames z6
          have h6 : Keeps a z6 := by
            subst z6
            refine K.modMember ?_
            assumption
          try clear_value z6
          extract_lets +onlyGivenNames z7
          have h7 : Keeps a z7 := by
            subst z7
            refine K.wr ?_
            assumption
          try clear_value z7
          refine K.ite ?_ ?_
          · refine K.judgeReadies ?_
            refine K.sendReady ?_
            assumption
          · assumption

theorem K.execHoldLimit {a : State} {s} (hs : Keeps a s) : KR a (Sys2Proof.Machine.execHoldLimit s) := by
  unfold Sys2Proof.Machine.execHoldLimit
  refine K.whenServing ?_ ?_
  · assumption
  · intro y0 k0
    refine K.ite ?_ ?_
    · refine K.enterPaddock ?_
      assumption
    · assumption

theorem K.execStaleNotice {a : State} {r} {s} (hs : Keeps a s) : KR a (Sys2Proof.Machine.execStaleNotice r s) := by
  unfold Sys2Proof.Machine.execStaleNotice
  refine K.frameRow ?_ ?_
  · assumption
  · intro y0 k0
    refine K.ite ?_ ?_
    · refine K.enterPaddock ?_
      assumption
    · assumption

theorem K.execJoinRequestRepeat {a : State} {refused} {s} (hs : Keeps a s) : KR a (Sys2Proof.Machine.execJoinRequestRepeat refused s) := by
  unfold Sys2Proof.Machine.execJoinRequestRepeat
  refine K.whenServing ?_ ?_
  · assumption
  · intro y0 k0
    refine K.ite ?_ ?_
    · refine K.evHub ?_
      refine K.modMember ?_
      assumption
    · refine K.ite ?_ ?_
      · refine K.sendJoin ?_
        assumption
      · assumption

theorem K.execJoinRequest {a : State} {r} {s} (hs : Keeps a s) : KR a (Sys2Proof.Machine.execJoinRequest r s) := by
  unfold Sys2Proof.Machine.execJoinRequest
  refine K.frameRow ?_ ?_
  · assumption
  · intro y0 k0
    extract_lets +onlyGivenNames z1
    try clear_value z1
    extract_lets +onlyGivenNames z2
    try clear_value z2
    extract_lets +onlyGivenNames z3
    try clear_value z3
    extract_lets +onlyGivenNames z4
    try clear_value z4
    refine K.ite ?_ ?_
    · assumption
    · refine K.ite ?_ ?_
      · refine K.ite ?_ ?_
        · assumption
        · extract_lets +onlyGivenNames z5
          have h5 : Keeps a z5 := by
            subst z5
            refine K.modMember ?_
            assumption
          try clear_value z5
          refine K.ite ?_ ?_
          · refine K.tryStart ?_
            assumption
          · assumption
      · refine K.ite ?_ ?_
        · assumption
        · split
          · assumption
          · extract_lets +onlyGivenNames z6
            have h6 : Keeps a z6 := by
              subst z6
              refine K.modMember ?_
              assumption
            try clear_value z6
            refine K.proposeAt ?_
            assumption

theorem K.execJournalMirror {a : State} {r} {s} (hs : Keeps a s) : KR a (Sys2Proof.Machine.execJournalMirror r s) := by
  unfold Sys2Proof.Machine.execJournalMirror
  refine K.frameRow ?_ ?_
  · assumption
  · intro y0 k0
    refine K.ite ?_ ?_
    · assumption
    · refine K.ite ?_ ?_
      · refine K.staleNotice ?_
        assumption
      · extract_lets +onlyGivenNames z1
        have h1 : Keeps a z1 := by
          subst z1
          refine K.hearFrame ?_
          assumption
        try clear_value z1
        extract_lets +onlyGivenNames z2
        try clear_value z2
        refine K.modMember ?_
        assumption

end Sys2Proof.Machine
end

