-- ==== Sys2Proof/Laws/Keeps/Pass.lean ====
section
/-!
SUPPORT. What the operations of Machine/Pass.lean keep: the canonical forms, the queue, the build, the test port, the sticky
registers and storage; every frame already handed over stays, and the log's sequence and the draws only rise.
-/

namespace Sys2Proof.Machine

theorem K.whenPass {a : State} {s} {k} (hs : Keeps a s) (Hk : ∀ {y0 y1}, Keeps a y1 → Keeps a (k y0 y1)) : KR a (Sys2Proof.Machine.whenPass s k) := by
  unfold Sys2Proof.Machine.whenPass
  refine K.whenServing ?_ ?_
  · assumption
  · intro y0 k0
    split
    · refine K.ite ?_ ?_
      · refine Hk ?_
        assumption
      · assumption
    · assumption

theorem K.execPassTensorStart {a : State} {s} (hs : Keeps a s) : KR a (Sys2Proof.Machine.execPassTensorStart s) := by
  unfold Sys2Proof.Machine.execPassTensorStart
  refine K.whenPass ?_ ?_
  · assumption
  · intro y0 y1 k1
    refine K.startTensor ?_
    assumption

theorem K.execPassLine {a : State} {n} {lanes} {bad} {chk} {s} (hs : Keeps a s) : KR a (Sys2Proof.Machine.execPassLine n lanes bad chk s) := by
  unfold Sys2Proof.Machine.execPassLine
  refine K.sliceServing ?_ ?_
  · assumption
  · intro y0 k0
    split
    · refine K.ite ?_ ?_
      · assumption
      · extract_lets +onlyGivenNames z1
        have h1 : Keeps a z1 := by
          subst z1
          refine K.countCommitHold ?_
          assumption
        try clear_value z1
        refine K.ite ?_ ?_
        · refine K.yieldLog ?_
          refine K.passLine ?_
          assumption
        · assumption
    · assumption

theorem K.execFactorsCompute {a : State} {desc} {s} (hs : Keeps a s) : KR a (Sys2Proof.Machine.execFactorsCompute desc s) := by
  unfold Sys2Proof.Machine.execFactorsCompute
  refine K.whenPass ?_ ?_
  · assumption
  · intro y0 y1 k1
    refine K.computeFactors ?_
    assumption

theorem K.execFactorBroadcast {a : State} {desc} {s} (hs : Keeps a s) : KR a (Sys2Proof.Machine.execFactorBroadcast desc s) := by
  unfold Sys2Proof.Machine.execFactorBroadcast
  refine K.whenPass ?_ ?_
  · assumption
  · intro y0 y1 k1
    refine K.castFactors ?_
    assumption

theorem K.execWorkingCopyCheck {a : State} {desc} {again} {s} (hs : Keeps a s) : KR a (Sys2Proof.Machine.execWorkingCopyCheck desc again s) := by
  unfold Sys2Proof.Machine.execWorkingCopyCheck
  refine K.whenPass ?_ ?_
  · assumption
  · intro y0 y1 k1
    refine K.checkWorking ?_
    assumption

theorem K.execCompletionWordWrite {a : State} {desc} {s} (hs : Keeps a s) : KR a (Sys2Proof.Machine.execCompletionWordWrite desc s) := by
  unfold Sys2Proof.Machine.execCompletionWordWrite
  refine K.whenPass ?_ ?_
  · assumption
  · intro y0 y1 k1
    refine K.ite ?_ ?_
    · refine K.wordDone ?_
      assumption
    · assumption

theorem K.execStepDone {a : State} {s} (hs : Keeps a s) : KR a (Sys2Proof.Machine.execStepDone s) := by
  unfold Sys2Proof.Machine.execStepDone
  refine K.whenPass ?_ ?_
  · assumption
  · intro y0 y1 k1
    refine K.ite ?_ ?_
    · refine K.drainHeld ?_
      refine K.driveDone ?_
      assumption
    · assumption

theorem K.execStepdoneLevelFrame {a : State} {s} (hs : Keeps a s) : KR a (Sys2Proof.Machine.execStepdoneLevelFrame s) := by
  unfold Sys2Proof.Machine.execStepdoneLevelFrame
  refine K.whenUp ?_ ?_
  · assumption
  · intro y0 k0
    refine K.drainHeld ?_
    refine K.doneFrame ?_
    assumption

theorem K.execImportComplete {a : State} {s} (hs : Keeps a s) : KR a (Sys2Proof.Machine.execImportComplete s) := by
  unfold Sys2Proof.Machine.execImportComplete
  refine K.whenServing ?_ ?_
  · assumption
  · intro y0 k0
    refine K.importEnd ?_
    assumption

end Sys2Proof.Machine
end

