-- ==== Sys2Proof/Laws/Keeps/Ports.lean ====
section
/-!
SUPPORT. What the operations of Machine/Ports.lean keep: the canonical forms, the queue, the build, the test port, the sticky
registers and storage; every frame already handed over stays, and the log's sequence and the draws only rise.
-/

namespace Sys2Proof.Machine

theorem K.logLost {a : State} {s} {n} (hs : Keeps a s) : Keeps a (State.logLost s n) := by
  unfold State.logLost
  refine K.ite ?_ ?_
  · assumption
  · refine K.ev ?_
    refine K.incBy ?_
    assumption

theorem K.fDone {a : State} {s} {c} {ok} (hs : Keeps a s) : Keeps a (State.fDone s c ok) := by
  unfold State.fDone
  split
  · refine K.ite ?_ ?_
    · refine K.ite ?_ ?_
      · assumption
      · refine K.wr ?_
        assumption
    · extract_lets +onlyGivenNames z0
      have h0 : Keeps a z0 := by
        subst z0
        refine K.wr ?_
        assumption
      try clear_value z0
      refine K.ite ?_ ?_
      · refine K.logLost ?_
        assumption
      · assumption
  · refine K.ite ?_ ?_
    · refine K.nextPart ?_
      assumption
    · refine K.drainHeld ?_
      refine K.abandonSnap ?_
      assumption
  · refine K.ite ?_ ?_
    · refine K.exportDone ?_
      assumption
    · refine K.abandonExport ?_
      assumption
  · refine K.ite ?_ ?_
    · assumption
    · refine K.restoreReadFailed ?_
      assumption
  · refine K.yTransferred ?_
    assumption
  · refine K.ite ?_ ?_
    · assumption
    · refine K.firmwareFailed ?_
      assumption
  · refine K.ite ?_ ?_
    · refine K.writeExport ?_
      assumption
    · refine K.abandonExport ?_
      assumption
  · refine K.ite ?_ ?_
    · assumption
    · refine K.slotUnread ?_
      assumption
  · refine K.listRead ?_
    assumption
  · assumption

theorem K.fFail {a : State} {s} {c} {status} (hs : Keeps a s) : Keeps a (State.fFail s c status) := by
  unfold State.fFail
  refine K.fDone ?_
  refine K.evHub ?_
  assumption

theorem K.portBit {a : State} {s} {i} {v} (hs : Keeps a s) : Keeps a (State.portBit s i v) := by
  unfold State.portBit
  refine K.wr ?_
  assumption

theorem K.stopFPort {a : State} {s} (hs : Keeps a s) : Keeps a (State.stopFPort s) := by
  unfold State.stopFPort
  extract_lets +onlyGivenNames z0
  have h0 : Keeps a z0 := by
    subst z0
    refine K.modSensors ?_
    assumption
  try clear_value z0
  extract_lets +onlyGivenNames z1
  try clear_value z1
  extract_lets +onlyGivenNames z2
  have h2 : Keeps a z2 := by
    subst z2
    refine K.of (s := z0) ?_ rfl rfl rfl rfl rfl rfl rfl rfl rfl rfl rfl rfl rfl
    assumption
  try clear_value z2
  split
  · rename_i v3_0 v3_1 e3
    have h3 : Keeps a v3_1 := by
      refine K.eq2 e3 ?_
      refine K.draw ?_
      assumption
    extract_lets +onlyGivenNames z4
    have h4 : Keeps a z4 := by
      subst z4
      refine K.foldl ?_ ?_
      · assumption
      · intro y5 y6 k5
        refine K.fFail ?_
        assumption
    try clear_value z4
    refine K.wr ?_
    assumption

theorem K.execClockLostLock {a : State} {domain} {s} (hs : Keeps a s) : KR a (Sys2Proof.Machine.execClockLostLock domain s) := by
  unfold Sys2Proof.Machine.execClockLostLock
  refine K.whenUp ?_ ?_
  · assumption
  · intro y0 k0
    refine K.ite ?_ ?_
    · refine K.ite ?_ ?_
      · refine K.unitFailed ?_
        assumption
      · assumption
    · refine K.ite ?_ ?_
      · refine K.ite ?_ ?_
        · assumption
        · refine K.ev ?_
          refine K.portBit ?_
          refine K.modSensors ?_
          assumption
      · refine K.ite ?_ ?_
        · refine K.ite ?_ ?_
          · assumption
          · refine K.stopFPort ?_
            refine K.ev ?_
            refine K.portBit ?_
            assumption
        · refine K.ite ?_ ?_
          · refine K.unitFailed ?_
            assumption
          · assumption

theorem K.logCatchUp {a : State} {s} (hs : Keeps a s) : Keeps a (State.logCatchUp s) := by
  unfold State.logCatchUp
  extract_lets +onlyGivenNames z0
  try clear_value z0
  extract_lets +onlyGivenNames z1
  try clear_value z1
  extract_lets +onlyGivenNames z2
  try clear_value z2
  extract_lets +onlyGivenNames z3
  try clear_value z3
  extract_lets +onlyGivenNames z4
  have h4 : Keeps a z4 := by
    subst z4
    refine K.foldl ?_ ?_
    · assumption
    · intro y5 y6 k5
      refine K.logBlock ?_
      assumption
  try clear_value z4
  extract_lets +onlyGivenNames z7
  have h7 : Keeps a z7 := by
    subst z7
    refine K.wr ?_
    assumption
  try clear_value z7
  refine K.logLost ?_
  assumption

theorem K.execPortClockResume {a : State} {domain} {s} (hs : Keeps a s) : KR a (Sys2Proof.Machine.execPortClockResume domain s) := by
  unfold Sys2Proof.Machine.execPortClockResume
  refine K.whenUp ?_ ?_
  · assumption
  · intro y0 k0
    refine K.ite ?_ ?_
    · refine K.portBit ?_
      refine K.modSensors ?_
      assumption
    · refine K.ite ?_ ?_
      · refine K.logCatchUp ?_
        refine K.portBit ?_
        refine K.modSensors ?_
        assumption
      · assumption

theorem K.execSidebandWireFault {a : State} {pair} {code} {s} (hs : Keeps a s) : KR a (Sys2Proof.Machine.execSidebandWireFault pair code s) := by
  unfold Sys2Proof.Machine.execSidebandWireFault
  refine K.whenUp ?_ ?_
  · assumption
  · intro y0 k0
    refine K.ite ?_ ?_
    · assumption
    · extract_lets +onlyGivenNames z1
      have h1 : Keeps a z1 := by
        subst z1
        refine K.inc ?_
        refine K.wr ?_
        assumption
      try clear_value z1
      extract_lets +onlyGivenNames z2
      have h2 : Keeps a z2 := by
        subst z2
        refine K.ev ?_
        assumption
      try clear_value z2
      split
      · extract_lets +onlyGivenNames z3
        have h3 : Keeps a z3 := by
          subst z3
          refine K.inc ?_
          refine K.feedBit ?_
          refine K.feedBit ?_
          assumption
        try clear_value z3
        refine K.feedJudge ?_
        refine K.ev ?_
        assumption
      · extract_lets +onlyGivenNames z4
        have h4 : Keeps a z4 := by
          subst z4
          refine K.inc ?_
          refine K.feedBit ?_
          refine K.feedBit ?_
          assumption
        try clear_value z4
        refine K.feedJudge ?_
        refine K.ev ?_
        assumption
      · refine K.modSensors ?_
        assumption
      · refine K.enterHoldover ?_
        assumption
      · refine K.ite ?_ ?_
        · assumption
        · refine K.wr ?_
          assumption
      · assumption

theorem K.execSidebandPairRecovered {a : State} {pair} {s} (hs : Keeps a s) : KR a (Sys2Proof.Machine.execSidebandPairRecovered pair s) := by
  unfold Sys2Proof.Machine.execSidebandPairRecovered
  refine K.whenUp ?_ ?_
  · assumption
  · intro y0 k0
    refine K.ite ?_ ?_
    · assumption
    · extract_lets +onlyGivenNames z1
      have h1 : Keeps a z1 := by
        subst z1
        refine K.ev ?_
        refine K.wr ?_
        assumption
      try clear_value z1
      refine K.ite ?_ ?_
      · refine K.feedJudge ?_
        refine K.feedBit ?_
        assumption
      · assumption

theorem K.execReservedKindFrame {a : State} {_r} {s} (hs : Keeps a s) : KR a (Sys2Proof.Machine.execReservedKindFrame _r s) := by
  unfold Sys2Proof.Machine.execReservedKindFrame
  refine KR.next ?_
  assumption

theorem K.execChecksumErrorDatagram {a : State} {_r} {s} (hs : Keeps a s) : KR a (Sys2Proof.Machine.execChecksumErrorDatagram _r s) := by
  unfold Sys2Proof.Machine.execChecksumErrorDatagram
  refine K.whenUp ?_ ?_
  · assumption
  · intro y0 k0
    refine K.inc ?_
    assumption

end Sys2Proof.Machine
end

