-- ==== Sys2Proof/Laws/Keeps/Protection.lean ====
section
/-!
SUPPORT. What the operations of Machine/Protection.lean keep: the canonical forms, the queue, the build, the test port, the sticky
registers and storage; every frame already handed over stays, and the log's sequence and the draws only rise.
-/

namespace Sys2Proof.Machine

theorem K.afterRepair {a : State} {s} (hs : Keeps a s) : Keeps a (State.afterRepair s) := by
  unfold State.afterRepair
  refine K.judgeReadies ?_
  refine K.drainHeld ?_
  refine K.rebuildDone ?_
  refine K.takeReads ?_
  refine K.takeWithheld ?_
  assumption

theorem K.execRepairComplete {a : State} {addr} {answers} {parity} {lost} {s} (hs : Keeps a s) : KR a (Sys2Proof.Machine.execRepairComplete addr answers parity lost s) := by
  unfold Sys2Proof.Machine.execRepairComplete
  refine K.whenServing ?_ ?_
  · assumption
  · intro y0 k0
    refine K.afterRepair ?_
    refine K.repair ?_
    assumption

theorem K.execRepairLimit {a : State} {addr} {s} (hs : Keeps a s) : KR a (Sys2Proof.Machine.execRepairLimit addr s) := by
  unfold Sys2Proof.Machine.execRepairLimit
  refine K.whenServing ?_ ?_
  · assumption
  · intro y0 k0
    refine K.afterRepair ?_
    refine K.endRepair ?_
    assumption

theorem K.execSramPatrol {a : State} {mem} {slice} {row} {flips} {hard} {cls} {s} (hs : Keeps a s) : KR a (Sys2Proof.Machine.execSramPatrol mem slice row flips hard cls s) := by
  unfold Sys2Proof.Machine.execSramPatrol
  refine K.onSlice ?_ ?_
  · assumption
  · intro y0 k0
    refine K.ite ?_ ?_
    · refine K.settle ?_
      refine K.patrolRow ?_
      assumption
    · assumption

theorem K.execHbmPatrol {a : State} {n} {addr} {bad} {fin} {s} (hs : Keeps a s) : KR a (Sys2Proof.Machine.execHbmPatrol n addr bad fin s) := by
  unfold Sys2Proof.Machine.execHbmPatrol
  refine K.sliceServing ?_ ?_
  · assumption
  · intro y0 k0
    refine K.patrolLine ?_
    assumption

end Sys2Proof.Machine
end

