-- ==== Sys2Proof/Laws/Keeps/Reduction.lean ====
section
/-!
SUPPORT. What the operations of Machine/Reduction.lean keep: the canonical forms, the queue, the build, the test port, the sticky
registers and storage; every frame already handed over stays, and the log's sequence and the draws only rise.
-/

namespace Sys2Proof.Machine

theorem K.execContribution {a : State} {r} {s} (hs : Keeps a s) : KR a (Sys2Proof.Machine.execContribution r s) := by
  unfold Sys2Proof.Machine.execContribution
  refine K.frameRow ?_ ?_
  · assumption
  · intro y0 k0
    refine K.redSettle ?_
    refine K.takeContribution ?_
    assumption

theorem K.execResult {a : State} {r} {s} (hs : Keeps a s) : KR a (Sys2Proof.Machine.execResult r s) := by
  unfold Sys2Proof.Machine.execResult
  refine K.frameRow ?_ ?_
  · assumption
  · intro y0 k0
    refine K.redSettle ?_
    refine K.takeResult ?_
    assumption

theorem K.execResultTimeout {a : State} {step} {stream} {phase} {chunk} {s} (hs : Keeps a s) : KR a (Sys2Proof.Machine.execResultTimeout step stream phase chunk s) := by
  unfold Sys2Proof.Machine.execResultTimeout
  refine K.whenServing ?_ ?_
  · assumption
  · intro y0 k0
    extract_lets +onlyGivenNames z1
    try clear_value z1
    split
    · assumption
    · refine K.ite ?_ ?_
      · refine K.redSettle ?_
        refine K.taintChunk ?_
        assumption
      · assumption

theorem K.execTaint {a : State} {r} {s} (hs : Keeps a s) : KR a (Sys2Proof.Machine.execTaint r s) := by
  unfold Sys2Proof.Machine.execTaint
  refine K.frameRow ?_ ?_
  · assumption
  · intro y0 k0
    refine K.redSettle ?_
    refine K.takeTaint ?_
    assumption

theorem K.execTaintHorizon {a : State} {step} {stream} {phase} {chunk} {s} (hs : Keeps a s) : KR a (Sys2Proof.Machine.execTaintHorizon step stream phase chunk s) := by
  unfold Sys2Proof.Machine.execTaintHorizon
  refine K.whenServing ?_ ?_
  · assumption
  · intro y0 k0
    refine K.redSettle ?_
    refine K.finalize ?_
    assumption

theorem K.execPeakNotice {a : State} {r} {s} (hs : Keeps a s) : KR a (Sys2Proof.Machine.execPeakNotice r s) := by
  unfold Sys2Proof.Machine.execPeakNotice
  refine K.frameRow ?_ ?_
  · assumption
  · intro y0 k0
    refine K.redSettle ?_
    refine K.takePeak ?_
    assumption

theorem K.execLateTaintTimeout {a : State} {step} {stream} {phase} {chunk} {s} (hs : Keeps a s) : KR a (Sys2Proof.Machine.execLateTaintTimeout step stream phase chunk s) := by
  unfold Sys2Proof.Machine.execLateTaintTimeout
  refine K.whenServing ?_ ?_
  · assumption
  · intro y0 k0
    extract_lets +onlyGivenNames z1
    try clear_value z1
    split
    · refine K.ite ?_ ?_
      · refine K.lateEnd ?_
        assumption
      · assumption
    · assumption

end Sys2Proof.Machine
end

