-- ==== Sys2Proof/Laws/Keeps/Rhythm.lean ====
section
/-!
SUPPORT. What the operations of Machine/Rhythm.lean keep: the canonical forms, the queue, the build, the test port, the sticky
registers and storage; every frame already handed over stays, and the log's sequence and the draws only rise.
-/

namespace Sys2Proof.Machine

theorem K.tickTime {a : State} {s} (hs : Keeps a s) : Keeps a (State.tickTime s) := by
  unfold State.tickTime
  extract_lets +onlyGivenNames z0
  try clear_value z0
  refine K.wr ?_
  refine K.modClock ?_
  assumption

theorem K.tickService {a : State} {s} (hs : Keeps a s) : Keeps a (State.tickService s) := by
  unfold State.tickService
  refine K.ite ?_ ?_
  · assumption
  · extract_lets +onlyGivenNames z0
    try clear_value z0
    refine K.wr ?_
    refine K.modTiers ?_
    assumption

theorem K.tickOverrun {a : State} {s} (hs : Keeps a s) : Keeps a (State.tickOverrun s) := by
  unfold State.tickOverrun
  refine K.ite ?_ ?_
  · assumption
  · extract_lets +onlyGivenNames z0
    have h0 : Keeps a z0 := by
      subst z0
      refine K.modCouch ?_
      assumption
    try clear_value z0
    extract_lets +onlyGivenNames z1
    have h1 : Keeps a z1 := by
      subst z1
      refine K.ite ?_ ?_
      · refine K.wr ?_
        assumption
      · assumption
    try clear_value z1
    refine K.evHub ?_
    refine K.inc ?_
    assumption

theorem K.tickWatermarks {a : State} {s} {ended} (hs : Keeps a s) : Keeps a (State.tickWatermarks s ended) := by
  unfold State.tickWatermarks
  refine K.foldl ?_ ?_
  · assumption
  · intro y0 y1 k0
    refine K.stepWatermark ?_
    assumption

theorem K.tickWindow {a : State} {s} (hs : Keeps a s) : Keeps a (State.tickWindow s) := by
  unfold State.tickWindow
  refine K.ite ?_ ?_
  · assumption
  · refine K.wr ?_
    refine K.wr ?_
    assumption

theorem K.execEpochTick {a : State} {s} (hs : Keeps a s) : KR a (Sys2Proof.Machine.execEpochTick s) := by
  unfold Sys2Proof.Machine.execEpochTick
  refine K.whenUp ?_ ?_
  · assumption
  · intro y0 k0
    extract_lets +onlyGivenNames z1
    try clear_value z1
    extract_lets +onlyGivenNames z2
    have h2 : Keeps a z2 := by
      subst z2
      refine K.tickTime ?_
      refine K.tickService ?_
      assumption
    try clear_value z2
    refine K.ite ?_ ?_
    · assumption
    · extract_lets +onlyGivenNames z3
      have h3 : Keeps a z3 := by
        subst z3
        refine K.modPass ?_
        assumption
      try clear_value z3
      extract_lets +onlyGivenNames z4
      have h4 : Keeps a z4 := by
        subst z4
        refine K.tickRush ?_
        refine K.sealSnap ?_
        refine K.tickWatermarks ?_
        refine K.tickWindow ?_
        assumption
      try clear_value z4
      refine K.judgeReadies ?_
      refine K.flushCheck ?_
      refine K.drainHeld ?_
      refine K.advance ?_
      refine K.pump ?_
      refine K.tickOverrun ?_
      assumption

theorem K.mark {a : State} {s} (hs : Keeps a s) : Keeps a (State.mark s) := by
  unfold State.mark
  refine K.ite ?_ ?_
  · refine K.evHub ?_
    refine K.inc ?_
    assumption
  · refine K.ite ?_ ?_
    · refine K.evHub ?_
      refine K.inc ?_
      assumption
    · refine K.ite ?_ ?_
      · refine K.evHub ?_
        refine K.inc ?_
        assumption
      · extract_lets +onlyGivenNames z0
        have h0 : Keeps a z0 := by
          subst z0
          refine K.touchMark ?_
          refine K.redMark ?_
          refine K.takeMark ?_
          assumption
        try clear_value z0
        refine K.drainHeld ?_
        refine K.routeMarks ?_
        assumption

theorem K.execStepMark {a : State} {s} (hs : Keeps a s) : KR a (Sys2Proof.Machine.execStepMark s) := by
  unfold Sys2Proof.Machine.execStepMark
  refine K.whenUp ?_ ?_
  · assumption
  · intro y0 k0
    refine K.ite ?_ ?_
    · assumption
    · extract_lets +onlyGivenNames z1
      have h1 : Keeps a z1 := by
        subst z1
        refine K.setPair ?_
        assumption
      try clear_value z1
      refine K.ite ?_ ?_
      · assumption
      · refine K.judgeReadies ?_
        refine K.mark ?_
        assumption

theorem K.execStepmarkLevelZero {a : State} {s} (hs : Keeps a s) : KR a (Sys2Proof.Machine.execStepmarkLevelZero s) := by
  unfold Sys2Proof.Machine.execStepmarkLevelZero
  refine K.whenUp ?_ ?_
  · assumption
  · intro y0 k0
    refine K.ite ?_ ?_
    · assumption
    · refine K.setPair ?_
      refine K.modSensors ?_
      assumption

theorem K.quietReady {a : State} {s} {was} (hs : Keeps a s) : Keeps a (State.quietReady s was) := by
  unfold State.quietReady
  split
  · refine K.ite ?_ ?_
    · refine K.sendReady ?_
      assumption
    · assumption
  · assumption

theorem K.execFoldComplete {a : State} {s} (hs : Keeps a s) : KR a (Sys2Proof.Machine.execFoldComplete s) := by
  unfold Sys2Proof.Machine.execFoldComplete
  refine K.whenServing ?_ ?_
  · assumption
  · intro y0 k0
    split
    · assumption
    · extract_lets +onlyGivenNames z1
      try clear_value z1
      extract_lets +onlyGivenNames z2
      try clear_value z2
      extract_lets +onlyGivenNames z3
      have h3 : Keeps a z3 := by
        subst z3
        refine K.foldBank ?_
        assumption
      try clear_value z3
      refine K.ite ?_ ?_
      · assumption
      · extract_lets +onlyGivenNames z4
        have h4 : Keeps a z4 := by
          subst z4
          refine K.wr ?_
          refine K.modCouch ?_
          assumption
        try clear_value z4
        extract_lets +onlyGivenNames z5
        have h5 : Keeps a z5 := by
          subst z5
          refine K.quietReady ?_
          refine K.takeWithheld ?_
          refine K.freeChains ?_
          refine K.foldDone ?_
          assumption
        try clear_value z5
        refine K.judgeReadies ?_
        refine K.drainHeld ?_
        refine K.sealCommit ?_
        refine K.finishCopy ?_
        assumption

theorem K.execTimeStrobe {a : State} {t} {s} (hs : Keeps a s) : KR a (Sys2Proof.Machine.execTimeStrobe t s) := by
  unfold Sys2Proof.Machine.execTimeStrobe
  refine K.whenUp ?_ ?_
  · assumption
  · intro y0 k0
    extract_lets +onlyGivenNames z1
    try clear_value z1
    extract_lets +onlyGivenNames z2
    have h2 : Keeps a z2 := by
      subst z2
      refine K.wr ?_
      refine K.modClock ?_
      assumption
    try clear_value z2
    refine K.ite ?_ ?_
    · assumption
    · extract_lets +onlyGivenNames z3
      have h3 : Keeps a z3 := by
        subst z3
        refine K.wr ?_
        refine K.modClock ?_
        assumption
      try clear_value z3
      refine K.ite ?_ ?_
      · assumption
      · refine K.repeatInventory ?_
        refine K.wr ?_
        assumption

theorem K.execTimeStrobeMissing {a : State} {s} (hs : Keeps a s) : KR a (Sys2Proof.Machine.execTimeStrobeMissing s) := by
  unfold Sys2Proof.Machine.execTimeStrobeMissing
  refine K.whenUp ?_ ?_
  · assumption
  · intro y0 k0
    refine K.ite ?_ ?_
    · assumption
    · refine K.enterHoldover ?_
      refine K.ev ?_
      refine K.wr ?_
      assumption

theorem K.execTimelockChange {a : State} {v} {s} (hs : Keeps a s) : KR a (Sys2Proof.Machine.execTimelockChange v s) := by
  unfold Sys2Proof.Machine.execTimelockChange
  refine K.whenUp ?_ ?_
  · assumption
  · intro y0 k0
    refine K.ite ?_ ?_
    · assumption
    · extract_lets +onlyGivenNames z1
      have h1 : Keeps a z1 := by
        subst z1
        refine K.setPair ?_
        assumption
      try clear_value z1
      refine K.ite ?_ ?_
      · assumption
      · refine K.enterHoldover ?_
        assumption

theorem K.execHoldoverLimitExpiry {a : State} {s} (hs : Keeps a s) : KR a (Sys2Proof.Machine.execHoldoverLimitExpiry s) := by
  unfold Sys2Proof.Machine.execHoldoverLimitExpiry
  refine K.whenUp ?_ ?_
  · assumption
  · intro y0 k0
    refine K.ite ?_ ?_
    · assumption
    · extract_lets +onlyGivenNames z1
      have h1 : Keeps a z1 := by
        subst z1
        refine K.inc ?_
        refine K.wr ?_
        assumption
      try clear_value z1
      extract_lets +onlyGivenNames z2
      have h2 : Keeps a z2 := by
        subst z2
        refine K.evHub ?_
        assumption
      try clear_value z2
      refine K.startDrain ?_
      assumption

end Sys2Proof.Machine
end

