-- ==== Sys2Proof/Laws/Keeps/Routing.lean ====
section
/-!
SUPPORT. What the operations of Machine/Routing.lean keep: the canonical forms, the queue, the build, the test port, the sticky
registers and storage; every frame already handed over stays, and the log's sequence and the draws only rise.
-/

namespace Sys2Proof.Machine

theorem K.execAllotmentRound {a : State} {layer} {step} {call} {s} (hs : Keeps a s) : KR a (Sys2Proof.Machine.execAllotmentRound layer step call s) := by
  unfold Sys2Proof.Machine.execAllotmentRound
  refine K.whenServing ?_ ?_
  · assumption
  · intro y0 k0
    split
    · refine K.ite ?_ ?_
      · assumption
      · refine K.runSecond ?_
        refine K.routeSettle ?_
        refine K.allotRound ?_
        assumption
    · assumption

theorem K.execReturnWindowWrite {a : State} {off} {data} {s} (hs : Keeps a s) : KR a (Sys2Proof.Machine.execReturnWindowWrite off data s) := by
  unfold Sys2Proof.Machine.execReturnWindowWrite
  refine K.whenServing ?_ ?_
  · assumption
  · intro y0 k0
    refine K.ite ?_ ?_
    · refine K.runSecond ?_
      refine K.routeSettle ?_
      refine K.yieldLog ?_
      refine K.windowStore ?_
      assumption
    · assumption

theorem K.execCombineComplete {a : State} {layer} {step} {call} {s} (hs : Keeps a s) : KR a (Sys2Proof.Machine.execCombineComplete layer step call s) := by
  unfold Sys2Proof.Machine.execCombineComplete
  refine K.whenServing ?_ ?_
  · assumption
  · intro y0 k0
    split
    · refine K.ite ?_ ?_
      · refine K.runSecond ?_
        refine K.routeSettle ?_
        refine K.writeCombine ?_
        assumption
      · assumption
    · assumption

theorem K.execCombineTimeout {a : State} {layer} {step} {call} {s} (hs : Keeps a s) : KR a (Sys2Proof.Machine.execCombineTimeout layer step call s) := by
  unfold Sys2Proof.Machine.execCombineTimeout
  refine K.whenServing ?_ ?_
  · assumption
  · intro y0 k0
    split
    · refine K.ite ?_ ?_
      · refine K.runSecond ?_
        refine K.routeSettle ?_
        refine K.combineLate ?_
        assumption
      · assumption
    · assumption

end Sys2Proof.Machine
end

