-- ==== Sys2Proof/Laws/Keeps/Sport.lean ====
section
/-!
SUPPORT. What the operations of Machine/Sport.lean keep: the canonical forms, the queue, the build, the test port, the sticky
registers and storage; every frame already handed over stays, and the log's sequence and the draws only rise.
-/

namespace Sys2Proof.Machine

theorem K.atPort {a : State} {n} {s} {k} (hs : Keeps a s) (Hk : ∀ {y0}, Keeps a y0 → Keeps a (k y0)) : KR a (Sys2Proof.Machine.atPort n s k) := by
  unfold Sys2Proof.Machine.atPort
  refine K.onSlice ?_ ?_
  · assumption
  · intro y0 k0
    refine K.ite ?_ ?_
    · assumption
    · refine K.ite ?_ ?_
      · refine Hk ?_
        assumption
      · refine K.settle ?_
        refine Hk ?_
        assumption

theorem K.execSPortRead {a : State} {q} {s} (hs : Keeps a s) : KR a (Sys2Proof.Machine.execSPortRead q s) := by
  unfold Sys2Proof.Machine.execSPortRead
  refine K.atPort ?_ ?_
  · assumption
  · intro y0 k0
    refine K.request ?_
    assumption

theorem K.execSPortWrite {a : State} {q} {s} (hs : Keeps a s) : KR a (Sys2Proof.Machine.execSPortWrite q s) := by
  unfold Sys2Proof.Machine.execSPortWrite
  refine K.atPort ?_ ?_
  · assumption
  · intro y0 k0
    refine K.request ?_
    assumption

theorem K.execIntakeHoldRelease {a : State} {s} (hs : Keeps a s) : KR a (Sys2Proof.Machine.execIntakeHoldRelease s) := by
  unfold Sys2Proof.Machine.execIntakeHoldRelease
  refine K.whenServing ?_ ?_
  · assumption
  · intro y0 k0
    refine K.drainHeld ?_
    assumption

theorem K.execReleaseCursorWrite {a : State} {q} {s} (hs : Keeps a s) : KR a (Sys2Proof.Machine.execReleaseCursorWrite q s) := by
  unfold Sys2Proof.Machine.execReleaseCursorWrite
  refine K.atPort ?_ ?_
  · assumption
  · intro y0 k0
    refine K.request ?_
    assumption

theorem K.execCallRelease {a : State} {q} {s} (hs : Keeps a s) : KR a (Sys2Proof.Machine.execCallRelease q s) := by
  unfold Sys2Proof.Machine.execCallRelease
  refine K.atPort ?_ ?_
  · assumption
  · intro y0 k0
    refine K.request ?_
    assumption

theorem K.execCombineCursorWrite {a : State} {q} {s} (hs : Keeps a s) : KR a (Sys2Proof.Machine.execCombineCursorWrite q s) := by
  unfold Sys2Proof.Machine.execCombineCursorWrite
  refine K.atPort ?_ ?_
  · assumption
  · intro y0 k0
    refine K.request ?_
    assumption

theorem K.execControllerResponse {a : State} {n} {kind} {tag} {status} {poison} {s} (hs : Keeps a s) : KR a (Sys2Proof.Machine.execControllerResponse n kind tag status poison s) := by
  unfold Sys2Proof.Machine.execControllerResponse
  refine K.atPort ?_ ?_
  · assumption
  · intro y0 k0
    extract_lets +onlyGivenNames z1
    have h1 : Keeps a z1 := by
      subst z1
      refine K.response ?_
      assumption
    try clear_value z1
    refine K.ite ?_ ?_
    · refine K.runSecond ?_
      assumption
    · refine K.drainHeld ?_
      assumption

theorem K.execControllerStall {a : State} {n} {kind} {s} (hs : Keeps a s) : KR a (Sys2Proof.Machine.execControllerStall n kind s) := by
  unfold Sys2Proof.Machine.execControllerStall
  refine K.onActive ?_ ?_
  · assumption
  · intro y0 k0
    refine K.ite ?_ ?_
    · refine K.beginStall ?_
      assumption
    · assumption

theorem K.execLongControllerStall {a : State} {n} {s} (hs : Keeps a s) : KR a (Sys2Proof.Machine.execLongControllerStall n s) := by
  unfold Sys2Proof.Machine.execLongControllerStall
  refine K.onActive ?_ ?_
  · assumption
  · intro y0 k0
    refine K.ite ?_ ?_
    · refine K.longStall ?_
      assumption
    · assumption

theorem K.execStallIndicatorCleared {a : State} {n} {s} (hs : Keeps a s) : KR a (Sys2Proof.Machine.execStallIndicatorCleared n s) := by
  unfold Sys2Proof.Machine.execStallIndicatorCleared
  refine K.onActive ?_ ?_
  · assumption
  · intro y0 k0
    refine K.ite ?_ ?_
    · refine K.endStall ?_
      assumption
    · assumption

theorem K.execLoad {a : State} {q} {s} (hs : Keeps a s) : KR a (Sys2Proof.Machine.execLoad q s) := by
  unfold Sys2Proof.Machine.execLoad
  refine K.atPort ?_ ?_
  · assumption
  · intro y0 k0
    refine K.request ?_
    assumption

theorem K.execStore {a : State} {q} {s} (hs : Keeps a s) : KR a (Sys2Proof.Machine.execStore q s) := by
  unfold Sys2Proof.Machine.execStore
  refine K.atPort ?_ ?_
  · assumption
  · intro y0 k0
    refine K.request ?_
    assumption

theorem K.execAdd {a : State} {q} {s} (hs : Keeps a s) : KR a (Sys2Proof.Machine.execAdd q s) := by
  unfold Sys2Proof.Machine.execAdd
  refine K.atPort ?_ ?_
  · assumption
  · intro y0 k0
    refine K.request ?_
    assumption

theorem K.execSmin {a : State} {q} {s} (hs : Keeps a s) : KR a (Sys2Proof.Machine.execSmin q s) := by
  unfold Sys2Proof.Machine.execSmin
  refine K.atPort ?_ ?_
  · assumption
  · intro y0 k0
    refine K.request ?_
    assumption

theorem K.execSmax {a : State} {q} {s} (hs : Keeps a s) : KR a (Sys2Proof.Machine.execSmax q s) := by
  unfold Sys2Proof.Machine.execSmax
  refine K.atPort ?_ ?_
  · assumption
  · intro y0 k0
    refine K.request ?_
    assumption

theorem K.execUmin {a : State} {q} {s} (hs : Keeps a s) : KR a (Sys2Proof.Machine.execUmin q s) := by
  unfold Sys2Proof.Machine.execUmin
  refine K.atPort ?_ ?_
  · assumption
  · intro y0 k0
    refine K.request ?_
    assumption

theorem K.execUmax {a : State} {q} {s} (hs : Keeps a s) : KR a (Sys2Proof.Machine.execUmax q s) := by
  unfold Sys2Proof.Machine.execUmax
  refine K.atPort ?_ ?_
  · assumption
  · intro y0 k0
    refine K.request ?_
    assumption

theorem K.execAnd {a : State} {q} {s} (hs : Keeps a s) : KR a (Sys2Proof.Machine.execAnd q s) := by
  unfold Sys2Proof.Machine.execAnd
  refine K.atPort ?_ ?_
  · assumption
  · intro y0 k0
    refine K.request ?_
    assumption

theorem K.execOr {a : State} {q} {s} (hs : Keeps a s) : KR a (Sys2Proof.Machine.execOr q s) := by
  unfold Sys2Proof.Machine.execOr
  refine K.atPort ?_ ?_
  · assumption
  · intro y0 k0
    refine K.request ?_
    assumption

theorem K.execXor {a : State} {q} {s} (hs : Keeps a s) : KR a (Sys2Proof.Machine.execXor q s) := by
  unfold Sys2Proof.Machine.execXor
  refine K.atPort ?_ ?_
  · assumption
  · intro y0 k0
    refine K.request ?_
    assumption

theorem K.execSwap {a : State} {q} {s} (hs : Keeps a s) : KR a (Sys2Proof.Machine.execSwap q s) := by
  unfold Sys2Proof.Machine.execSwap
  refine K.atPort ?_ ?_
  · assumption
  · intro y0 k0
    refine K.request ?_
    assumption

theorem K.execCas {a : State} {q} {s} (hs : Keeps a s) : KR a (Sys2Proof.Machine.execCas q s) := by
  unfold Sys2Proof.Machine.execCas
  refine K.atPort ?_ ?_
  · assumption
  · intro y0 k0
    refine K.request ?_
    assumption

theorem K.execFenceRead {a : State} {q} {s} (hs : Keeps a s) : KR a (Sys2Proof.Machine.execFenceRead q s) := by
  unfold Sys2Proof.Machine.execFenceRead
  refine K.atPort ?_ ?_
  · assumption
  · intro y0 k0
    refine K.request ?_
    assumption

end Sys2Proof.Machine
end

