-- ==== Sys2Proof/Laws/Keeps/TestAccess.lean ====
section
/-!
SUPPORT. What the operations of Machine/TestAccess.lean keep: the canonical forms, the queue, the build, the test port, the sticky
registers and storage; every frame already handed over stays, and the log's sequence and the draws only rise.
-/

namespace Sys2Proof.Machine

theorem K.answerFrozen {a : State} {s} (hs : Keeps a s) : Keeps a (State.answerFrozen s) := by
  unfold State.answerFrozen
  extract_lets +onlyGivenNames z0
  try clear_value z0
  extract_lets +onlyGivenNames z1
  have h1 : Keeps a z1 := by
    subst z1
    refine K.modSPort ?_
    assumption
  try clear_value z1
  extract_lets +onlyGivenNames z2 z3
  try clear_value z2
  have h3 : Keeps a z3 := by
    subst z3
    refine K.of (s := z1) ?_ rfl rfl rfl rfl rfl rfl rfl rfl rfl rfl rfl rfl rfl
    assumption
  try clear_value z3
  extract_lets +onlyGivenNames z4
  have h4 : Keeps a z4 := by
    subst z4
    refine K.modProt ?_
    assumption
  try clear_value z4
  refine K.foldl ?_ ?_
  · assumption
  · intro y5 y6 k5
    refine K.frozenRequest ?_
    assumption

theorem K.deferPads {a : State} {s} (hs : Keeps a s) : Keeps a (State.deferPads s) := by
  unfold State.deferPads
  refine K.ite ?_ ?_
  · assumption
  · refine K.inc ?_
    assumption

theorem K.samplePads {a : State} {s} (hs : Keeps a s) : Keeps a (State.samplePads s).2 := by
  unfold State.samplePads
  dsimp -zeta only
  refine K.drawn (s := s) ?_ (by omega)
  assumption

theorem K.inSegment {a : State} {g} {s} {k} (hs : Keeps a s) (Hk : ∀ {y0}, Keeps a y0 → Keeps a (k y0)) : KR a (Sys2Proof.Machine.inSegment g s k) := by
  unfold Sys2Proof.Machine.inSegment
  refine KR.ite ?_ ?_
  · exact KR.ofFault
  · refine KR.next ?_
    refine K.ite ?_ ?_
    · refine Hk ?_
      assumption
    · assumption

end Sys2Proof.Machine
end

