-- ==== Sys2Proof/Laws/Keeps/Tiers.lean ====
section
/-!
SUPPORT. What the operations of Machine/Tiers.lean keep: the canonical forms, the queue, the build, the test port, the sticky
registers and storage; every frame already handed over stays, and the log's sequence and the draws only rise.
-/

namespace Sys2Proof.Machine

theorem K.execSnapshotStepTrigger {a : State} {s} (hs : Keeps a s) : KR a (Sys2Proof.Machine.execSnapshotStepTrigger s) := by
  unfold Sys2Proof.Machine.execSnapshotStepTrigger
  refine K.whenServing ?_ ?_
  · assumption
  · intro y0 k0
    refine K.ite ?_ ?_
    · refine K.fireSnap ?_
      assumption
    · assumption

theorem K.execSnapshotTimerTrigger {a : State} {s} (hs : Keeps a s) : KR a (Sys2Proof.Machine.execSnapshotTimerTrigger s) := by
  unfold Sys2Proof.Machine.execSnapshotTimerTrigger
  refine K.whenServing ?_ ?_
  · assumption
  · intro y0 k0
    refine K.ite ?_ ?_
    · refine K.fireSnap ?_
      assumption
    · assumption

theorem K.execSnapshotDeferralCleared {a : State} {s} (hs : Keeps a s) : KR a (Sys2Proof.Machine.execSnapshotDeferralCleared s) := by
  unfold Sys2Proof.Machine.execSnapshotDeferralCleared
  refine K.whenServing ?_ ?_
  · assumption
  · intro y0 k0
    refine K.fireDeferred ?_
    assumption

theorem K.execSnapshotOrder {a : State} {r} {s} (hs : Keeps a s) : KR a (Sys2Proof.Machine.execSnapshotOrder r s) := by
  unfold Sys2Proof.Machine.execSnapshotOrder
  refine K.frameRow ?_ ?_
  · assumption
  · intro y0 k0
    refine K.gated ?_ ?_
    · assumption
    · intro y1 k1
      refine K.takeSnapOrder ?_
      assumption

theorem K.execSnapshotReport {a : State} {r} {s} (hs : Keeps a s) : KR a (Sys2Proof.Machine.execSnapshotReport r s) := by
  unfold Sys2Proof.Machine.execSnapshotReport
  refine K.frameRow ?_ ?_
  · assumption
  · intro y0 k0
    refine K.gated ?_ ?_
    · assumption
    · intro y1 k1
      refine K.takeSnapReport ?_
      assumption

theorem K.execSealRelease {a : State} {s} (hs : Keeps a s) : KR a (Sys2Proof.Machine.execSealRelease s) := by
  unfold Sys2Proof.Machine.execSealRelease
  refine K.whenServing ?_ ?_
  · assumption
  · intro y0 k0
    refine K.sealRelease ?_
    assumption

theorem K.execCopierLineRead {a : State} {n} {s} (hs : Keeps a s) : KR a (Sys2Proof.Machine.execCopierLineRead n s) := by
  unfold Sys2Proof.Machine.execCopierLineRead
  refine K.sliceServing ?_ ?_
  · assumption
  · intro y0 k0
    refine K.copyStep ?_
    assumption

theorem K.execCopyOnWriteHoldLimit {a : State} {s} (hs : Keeps a s) : KR a (Sys2Proof.Machine.execCopyOnWriteHoldLimit s) := by
  unfold Sys2Proof.Machine.execCopyOnWriteHoldLimit
  refine K.whenServing ?_ ?_
  · assumption
  · intro y0 k0
    refine K.ite ?_ ?_
    · refine K.drainHeld ?_
      refine K.abandonSnap ?_
      assumption
    · assumption

theorem K.execSnapshotComplete {a : State} {s} (hs : Keeps a s) : KR a (Sys2Proof.Machine.execSnapshotComplete s) := by
  unfold Sys2Proof.Machine.execSnapshotComplete
  refine K.whenServing ?_ ?_
  · assumption
  · intro y0 k0
    refine K.snapComplete ?_
    assumption

theorem K.whenRestore {a : State} {kind} {r} {s} {k} (hs : Keeps a s) (Hk : ∀ {y0}, Keeps a y0 → Keeps a (k y0)) : KR a (Sys2Proof.Machine.whenRestore kind r s k) := by
  unfold Sys2Proof.Machine.whenRestore
  refine K.frameRow ?_ ?_
  · assumption
  · intro y0 k0
    refine K.ite ?_ ?_
    · refine Hk ?_
      assumption
    · assumption

theorem K.execInventory {a : State} {r} {s} (hs : Keeps a s) : KR a (Sys2Proof.Machine.execInventory r s) := by
  unfold Sys2Proof.Machine.execInventory
  refine K.whenRestore ?_ ?_
  · assumption
  · intro y0 k0
    refine K.takeInventory ?_
    assumption

theorem K.execRestoreOrder {a : State} {r} {s} (hs : Keeps a s) : KR a (Sys2Proof.Machine.execRestoreOrder r s) := by
  unfold Sys2Proof.Machine.execRestoreOrder
  refine K.whenRestore ?_ ?_
  · assumption
  · intro y0 k0
    refine K.takeRestoreOrder ?_
    assumption

theorem K.execShardLoadComplete {a : State} {s} (hs : Keeps a s) : KR a (Sys2Proof.Machine.execShardLoadComplete s) := by
  unfold Sys2Proof.Machine.execShardLoadComplete
  refine K.whenServing ?_ ?_
  · assumption
  · intro y0 k0
    refine K.shardLoaded ?_
    assumption

theorem K.execRestoreReport {a : State} {r} {s} (hs : Keeps a s) : KR a (Sys2Proof.Machine.execRestoreReport r s) := by
  unfold Sys2Proof.Machine.execRestoreReport
  refine K.whenRestore ?_ ?_
  · assumption
  · intro y0 k0
    refine K.takeRestoreReport ?_
    assumption

end Sys2Proof.Machine
end

