-- ==== Sys2Proof/Laws/Keeps/Yard.lean ====
section
/-!
SUPPORT. What the operations of Machine/Yard.lean keep: the canonical forms, the queue, the build, the test port, the sticky
registers and storage; every frame already handed over stays, and the log's sequence and the draws only rise.
-/

namespace Sys2Proof.Machine

theorem K.execYardRequest {a : State} {r} {s} (hs : Keeps a s) : KR a (Sys2Proof.Machine.execYardRequest r s) := by
  unfold Sys2Proof.Machine.execYardRequest
  refine K.frameRow ?_ ?_
  · assumption
  · intro y0 k0
    refine K.runSecond ?_
    refine K.routeSettle ?_
    refine K.yTake ?_ ?_
    · assumption
    · intro y1 k1
      refine K.yTakeRequests ?_
      assumption

theorem K.execCombiningEntryClose {a : State} {line} {s} (hs : Keeps a s) : KR a (Sys2Proof.Machine.execCombiningEntryClose line s) := by
  unfold Sys2Proof.Machine.execCombiningEntryClose
  refine K.whenServing ?_ ?_
  · assumption
  · intro y0 k0
    refine K.runSecond ?_
    refine K.routeSettle ?_
    refine K.yieldLog ?_
    refine K.yClose ?_
    assumption

theorem K.execYardAnswer {a : State} {r} {s} (hs : Keeps a s) : KR a (Sys2Proof.Machine.execYardAnswer r s) := by
  unfold Sys2Proof.Machine.execYardAnswer
  refine K.frameRow ?_ ?_
  · assumption
  · intro y0 k0
    refine K.runSecond ?_
    refine K.routeSettle ?_
    refine K.yTake ?_ ?_
    · assumption
    · intro y1 k1
      refine K.yTakeAnswers ?_
      assumption

theorem K.execYardRetryTimeout {a : State} {home} {seq} {s} (hs : Keeps a s) : KR a (Sys2Proof.Machine.execYardRetryTimeout home seq s) := by
  unfold Sys2Proof.Machine.execYardRetryTimeout
  refine K.whenServing ?_ ?_
  · assumption
  · intro y0 k0
    refine K.runSecond ?_
    refine K.routeSettle ?_
    refine K.yRetry ?_
    assumption

theorem K.execOperationIndeterminate {a : State} {home} {seq} {s} (hs : Keeps a s) : KR a (Sys2Proof.Machine.execOperationIndeterminate home seq s) := by
  unfold Sys2Proof.Machine.execOperationIndeterminate
  refine K.whenServing ?_ ?_
  · assumption
  · intro y0 k0
    split
    · refine K.runSecond ?_
      refine K.routeSettle ?_
      refine K.yIndeterminate ?_
      assumption
    · assumption

theorem K.execReceiptQueryTimer {a : State} {home} {seq} {s} (hs : Keeps a s) : KR a (Sys2Proof.Machine.execReceiptQueryTimer home seq s) := by
  unfold Sys2Proof.Machine.execReceiptQueryTimer
  refine K.whenServing ?_ ?_
  · assumption
  · intro y0 k0
    refine K.runSecond ?_
    refine K.routeSettle ?_
    refine K.yQuery ?_
    assumption

theorem K.execReceiptQuery {a : State} {r} {s} (hs : Keeps a s) : KR a (Sys2Proof.Machine.execReceiptQuery r s) := by
  unfold Sys2Proof.Machine.execReceiptQuery
  refine K.frameRow ?_ ?_
  · assumption
  · intro y0 k0
    refine K.runSecond ?_
    refine K.routeSettle ?_
    refine K.yTake ?_ ?_
    · assumption
    · intro y1 k1
      refine K.yTakeQuery ?_
      assumption

theorem K.execReceiptStatus {a : State} {r} {s} (hs : Keeps a s) : KR a (Sys2Proof.Machine.execReceiptStatus r s) := by
  unfold Sys2Proof.Machine.execReceiptStatus
  refine K.frameRow ?_ ?_
  · assumption
  · intro y0 k0
    refine K.runSecond ?_
    refine K.routeSettle ?_
    refine K.yTake ?_ ?_
    · assumption
    · intro y1 k1
      refine K.yTakeStatus ?_
      assumption

theorem K.execReceiptExpiry {a : State} {src} {seq} {s} (hs : Keeps a s) : KR a (Sys2Proof.Machine.execReceiptExpiry src seq s) := by
  unfold Sys2Proof.Machine.execReceiptExpiry
  refine K.whenServing ?_ ?_
  · assumption
  · intro y0 k0
    refine K.runSecond ?_
    refine K.routeSettle ?_
    refine K.yExpire ?_
    assumption

theorem K.execRollbackNotice {a : State} {r} {s} (hs : Keeps a s) : KR a (Sys2Proof.Machine.execRollbackNotice r s) := by
  unfold Sys2Proof.Machine.execRollbackNotice
  refine K.frameRow ?_ ?_
  · assumption
  · intro y0 k0
    refine K.runSecond ?_
    refine K.routeSettle ?_
    refine K.yTake ?_ ?_
    · assumption
    · intro y1 k1
      refine K.yTakeNotice ?_
      assumption

theorem K.execRekeyCheck {a : State} {s} (hs : Keeps a s) : KR a (Sys2Proof.Machine.execRekeyCheck s) := by
  unfold Sys2Proof.Machine.execRekeyCheck
  refine K.whenServing ?_ ?_
  · assumption
  · intro y0 k0
    refine K.ite ?_ ?_
    · refine K.runSecond ?_
      refine K.routeSettle ?_
      refine K.rekeyCheck ?_
      assumption
    · assumption

theorem K.execMigrationSet {a : State} {s} (hs : Keeps a s) : KR a (Sys2Proof.Machine.execMigrationSet s) := by
  unfold Sys2Proof.Machine.execMigrationSet
  refine K.whenServing ?_ ?_
  · assumption
  · intro y0 k0
    refine K.ite ?_ ?_
    · refine K.runSecond ?_
      refine K.routeSettle ?_
      refine K.migrateSet ?_
      assumption
    · assumption

end Sys2Proof.Machine
end

