-- ==== Sys2Proof/Laws/Kept.lean ====
section
/-!
SUPPORT. What even a reset, a freeze, a fuse and the storage keep: the canonical forms, the queue, the built slices and every
frame already handed over. One lemma for each operation that Laws/Keeps/ leaves out because it changes more.
-/

namespace Sys2Proof.Machine

/-- From a, the state s has kept what no command at all changes. -/
structure Kept (a s : State) : Prop where
  canon : a.Canon → s.Canon
  pending : s.pending = a.pending
  slices : s.hw.slices = a.hw.slices
  tx : a.tx <+: s.tx

/-- The same of a meaning's next state. -/
def KeptBy (a : State) (o : Out) : Prop := ∀ t, o = .next t → Kept a t

theorem Keeps.kept {a s : State} (h : Keeps a s) : Kept a s := ⟨h.canon, h.pending, congrArg Hw.slices h.hw, h.tx⟩

theorem KR.kept {a : State} {o : Out} (h : KR a o) : KeptBy a o := fun t e => (h t e).kept

namespace Kept

theorem trans {a b c : State} (h : Kept a b) (k : Kept b c) : Kept a c :=
  ⟨k.1 ∘ h.1, k.2.trans h.2, k.3.trans h.3, h.4.trans k.4⟩

theorem refl (a : State) : Kept a a := (K.rfl' a).kept

theorem step {a s t : State} (h : Kept a s) (k : Keeps s t) : Kept a t := h.trans k.kept

theorem ite {a s t : State} {c : Prop} [Decidable c] (hs : Kept a s) (ht : Kept a t) : Kept a (if c then s else t) := by
  split <;> assumption

/-- A kept state whose sticky registers, ports or test port are written. -/
theorem of {a s t : State} (h : Kept a s) (e1 : t.mem = s.mem) (e2 : t.oct = s.oct) (e3 : t.dict = s.dict) (e4 : t.changes = s.changes)
    (e5 : t.poison = s.poison) (e6 : t.pending = s.pending) (e7 : t.hw.slices = s.hw.slices) (e9 : t.flash = s.flash) (e11 : t.tx = s.tx) : Kept a t := by
  refine ⟨fun c => ?_, e6.trans h.2, e7.trans h.3, e11 ▸ h.4⟩
  have k := h.1 c
  exact ⟨e1 ▸ k.1, e9 ▸ k.2, e2 ▸ k.3, e3 ▸ k.4, e4 ▸ k.5, e5 ▸ k.6⟩

theorem modSticky {a s : State} {f} (h : Kept a s) : Kept a (s.modSticky f) := of h rfl rfl rfl rfl rfl rfl rfl rfl rfl

theorem modTap {a s : State} {f} (h : Kept a s) : Kept a (s.modTap f) := of h rfl rfl rfl rfl rfl rfl rfl rfl rfl

/-- Bytes stored in flash. -/
theorem stored {a s : State} {x : Nat} {bs : Bytes} (h : Kept a s) : Kept a { s with flash := Sparse.putBytes s.flash x bs } := by
  refine ⟨fun c => ?_, h.2, h.3, h.4⟩
  have k := h.1 c
  exact ⟨k.1, Sparse.wf_putBytes k.2 _ _, k.3, k.4, k.5, k.6⟩

theorem resetBlock {a s : State} (h : Kept a s) : Kept a s.resetBlock := by
  refine ⟨fun c => ?_, h.2, h.3, h.4⟩
  have k := h.1 c
  exact ⟨k.1, k.2, rfl, (by decide : Sparse.wf dfltOf [(0x1200_01, 0)] = true), rfl, k.6⟩

theorem selfReset {a s : State} (h : Kept a s) : Kept a s.selfReset := (resetBlock h).step (K.modSPort (K.rfl' _))

theorem releaseReset {a s : State} {p : List Nat} (h : Kept a s) : Kept a (s.releaseReset p) := h.trans (K.releaseReset (K.rfl' s)).kept

theorem fallback {a s : State} (h : Kept a s) : Kept a s.fallback := by
  unfold State.fallback
  extract_lets +onlyGivenNames _ _ z1 z2
  have h1 : Kept a z1 := stored h
  have h2 : Kept a z2 := modSticky h1
  exact releaseReset (selfReset h2)

theorem lockRefuses {a s : State} {u : Nat} (h : Kept a s) : Kept a (s.lockRefuses u) := by
  unfold State.lockRefuses
  split
  · exact modSticky h
  · split
    · exact h
    · exact h.trans (K.evSecond (K.inc (K.rfl' s))).kept

theorem loadTap {a s : State} {ir dr : Nat} (h : Kept a s) : Kept a (s.loadTap ir dr) := modTap h

theorem copySticky {a s : State} {n : Nat} (h : Kept a s) : Kept a (s.copySticky n) := by
  unfold State.copySticky
  extract_lets +onlyGivenNames z0 z1 z2 z3 z4 z5 z6 z7
  have h1 : Kept a z1 := h.step (K.wr (K.rfl' s))
  have h2 : Kept a z2 := ite h1 (h1.step (K.ev (K.rfl' z1)))
  have h3 : Kept a z3 := ite (h2.step (K.ev (K.rfl' z2))) h2
  have h4 : Kept a z4 := ite (h3.step (K.evHub (K.wr (K.wr (K.rfl' z3))))) h3
  have h6 : Kept a z6 := h4.step (K.wr (K.rfl' z4))
  have h7 : Kept a z7 := ite h6 (h6.step (K.ev (K.rfl' z6)))
  exact modSticky h7

theorem endSelfTest {a s : State} {fails us out mhz hard} (h : Kept a s) : Kept a (s.endSelfTest fails us out mhz hard) := by
  unfold State.endSelfTest
  refine ite h ?_
  split
  extract_lets +onlyGivenNames ok found
  refine ite (fallback h) ?_
  extract_lets +onlyGivenNames slot rom pb bits z0 z1 z2 z3 z4 z5 hd z6 z7 z8 z9 z10 z11 z12
  have h0 : Kept a z0 := h.step (K.modFirmware (K.rfl' s))
  have h1 : Kept a z1 := h0.step (K.fillSpares (K.fillBuild (K.rfl' z0)))
  have h2 : Kept a z2 := h1.step (K.wr (K.rfl' z1))
  have h3 : Kept a z3 := h2.step (K.wr (K.rfl' z2))
  have h4 : Kept a z4 := h3.step (K.wr (K.rfl' z3))
  have h5 : Kept a z5 := h4.step (K.showSlot (K.showSlot (K.rfl' z4)))
  have h6 : Kept a z6 := ite h5 (h5.step (K.wr (K.wr (K.rfl' z5))))
  have h7 : Kept a z7 := copySticky (h6.step (K.drawBoot (K.rfl' z6)))
  have h8 : Kept a z8 := h7.step (K.reportFuses (K.rfl' z7))
  have h9 : Kept a z9 := ite h8 (h8.step (K.refuseImage (K.rfl' z8)))
  have h10 : Kept a z10 := ite (h9.step (K.tablesBad (K.rfl' z9))) h9
  have h11 : Kept a z11 := h10.step (K.refreshSettings (K.rfl' z10))
  have h12 : Kept a z12 := h11.step (K.judgeSelfTest (K.rfl' z11))
  exact ite h12 (h12.step (K.enterHoldover (K.rfl' z12)))

theorem freeze {a s : State} (h : Kept a s) : Kept a s.freeze := by
  unfold State.freeze
  extract_lets +onlyGivenNames z0 z1 z2 z3 z4
  have h0 : Kept a z0 := h.step (K.setDev (K.rfl' s))
  have h1 : Kept a z1 := by
    refine ⟨fun c => ?_, h0.2, h0.3, h.4⟩
    have k := h0.1 c
    exact ⟨k.1, k.2, k.3, k.4, k.5, k.6⟩
  have h2 : Kept a z2 := modSticky h1
  have h3 : Kept a z3 := h2.step (K.modServer (K.rfl' z2))
  have h4 : Kept a z4 := h3.step (K.modSensors (K.rfl' z3))
  have h5 : Kept a (z4.modTap fun p => { p with era := z4.draws }) := modTap h4
  exact h5.step (K.answerFrozen (K.rfl' _))

theorem fComplete {a s : State} {c n} (h : Kept a s) : Kept a (s.fComplete c n) := by
  unfold State.fComplete
  refine ite ?_ (h.step ?_)
  · extract_lets +onlyGivenNames z0 z1
    have h0 : Kept a z0 := of h rfl rfl rfl rfl rfl rfl rfl rfl rfl
    have h1 : Kept a z1 := ite (stored h0) h0
    exact h1.step (K.fDone (K.rfl' z1))
  · extract_lets +onlyGivenNames z0
    have h0 : Keeps s z0 := K.inc (K.rfl' s)
    refine K.ite (K.fFail ?_) ?_ <;> exact K.of h0 rfl rfl rfl rfl rfl rfl rfl rfl rfl rfl rfl rfl rfl

theorem deferPads {a s : State} (h : Kept a s) : Kept a s.deferPads := h.trans (K.deferPads (K.rfl' s)).kept

end Kept

namespace KeptBy

theorem next {a s : State} (h : Kept a s) : KeptBy a (.next s) := fun _ e => by cases e; exact h

theorem ofFault {a : State} {r : Fault} : KeptBy a (.fault r) := fun _ e => by cases e

theorem ite {a : State} {s t : Out} {c : Prop} [Decidable c] (hs : KeptBy a s) (ht : KeptBy a t) : KeptBy a (if c then s else t) := by
  split <;> assumption

theorem inSegment {a s : State} {g : Nat} {k : State → State} (h : Kept a s) (hk : Kept a (k s)) : KeptBy a (inSegment g s k) := by
  unfold Machine.inSegment
  split
  · exact ofFault
  · refine next ?_
    split
    · exact hk
    · exact h

end KeptBy

/-! ### The commands that Laws/Keeps/ leaves out -/

theorem kept_vresetNAssert (s : State) : KeptBy s (execVresetNAssert s) :=
  .ite (.next (.refl s)) (.next (.resetBlock (.modSticky (.refl s))))

theorem kept_railsFall (s : State) : KeptBy s (execRailsFall s) := by
  refine .next ⟨fun c => ?_, rfl, rfl, List.prefix_rfl⟩
  have k := (Kept.resetBlock (.refl s)).1 c
  exact ⟨rfl, k.2, k.3, k.4, k.5, .nil⟩

theorem kept_watchdogExpiry (s : State) : KeptBy s (execWatchdogExpiry s) := by
  refine .next (.ite (.step ?_ (K.settle (K.rfl' _))) (.refl s))
  refine .modSticky (Keeps.kept ?_)
  have h := K.failHeld (K.modTwin (f := fun t => { t with failed := true })
    (K.modSensors (f := fun x => { x with noWrites := true, watchdog := true }) (K.rfl' s)))
  exact K.ite (K.sendBeat (K.ite h (K.sendSuspect h))) (K.ite h (K.sendSuspect h))

theorem kept_watchdogReset (s : State) : KeptBy s (execWatchdogReset s) := by
  unfold execWatchdogReset
  exact .ite (.next (.refl s)) (.ite (.next (.fallback (.refl s))) (.next (.releaseReset (.selfReset (.refl s)))))

theorem kept_selfTestComplete (s : State) (fails us out mhz hard) : KeptBy s (execSelfTestComplete fails us out mhz hard s) :=
  .next (.endSelfTest (.refl s))

theorem kept_fPortCompletion (s : State) (tag status : Nat) : KeptBy s (execFPortCompletion tag status s) := by
  unfold execFPortCompletion
  split
  · exact .next (.refl s)
  · refine .ite (.next (.refl s)) (.ite (.next (.ite ?_ (.refl s))) (.next ?_))
    · refine ⟨fun k => ?_, rfl, rfl, List.prefix_rfl⟩
      exact ⟨k.1, Sparse.wf_putBytes k.2 _ _, k.3, k.4, k.5, k.6⟩
    · exact (Kept.fComplete (.refl s)).step (K.settle (K.rfl' _))

theorem kept_freeze (s : State) (bits : Nat) : KeptBy s (execFreeze bits s) := by
  unfold execFreeze
  refine .ite (.next (.refl s)) (.next (.freeze ?_))
  exact (Kept.refl s).step (K.setPair (K.ite (K.wr (K.rfl' s)) (K.rfl' s)))

theorem kept_testLogicReset (s : State) : KeptBy s (execTestLogicReset s) := .next (.modTap (.loadTap (.refl s)))

theorem kept_idcode (s : State) : KeptBy s (execIdcode s) := .next (.loadTap (.refl s))

theorem kept_samplePreload (s : State) (x : Nat) : KeptBy s (execSamplePreload x s) :=
  .next (.modTap (.loadTap (.of (.refl s) rfl rfl rfl rfl rfl rfl rfl rfl rfl)))

theorem kept_extest (s : State) (x : Nat) : KeptBy s (execExtest x s) :=
  .ite (.next (.modTap (.loadTap (.of (.refl s) rfl rfl rfl rfl rfl rfl rfl rfl rfl)))) (.next (.loadTap (.deferPads (.refl s))))

theorem kept_clamp (s : State) : KeptBy s (execClamp s) := .next (.loadTap (.deferPads (.refl s)))

theorem kept_highz (s : State) : KeptBy s (execHighz s) := .next (.loadTap (.deferPads (.refl s)))

theorem kept_ijtag (s : State) (x : Nat) : KeptBy s (execIjtag x s) := .next (.modTap (.loadTap (.refl s)))

theorem kept_scan (s : State) : KeptBy s (execScan s) :=
  .ite (.next (.loadTap (.lockRefuses (.refl s))))
    (.ite (.next (.loadTap ((Kept.refl s).step (K.draw (K.rfl' s))))) (.next (.loadTap (.refl s))))

theorem kept_bypass (s : State) (x : Nat) : KeptBy s (execBypass x s) := .next (.loadTap (.refl s))

theorem kept_sramReadout (s : State) (g x : Nat) : KeptBy s (execSramReadout g x s) :=
  .inSegment (.refl s) (.ite (.lockRefuses (.modTap (.refl s))) (.ite (.modTap (.refl s)) (.modTap (.modTap (.refl s)))))

theorem kept_registerCapture (s : State) (g : Nat) : KeptBy s (execRegisterCapture g s) :=
  .inSegment (.refl s) (.ite (.lockRefuses (.modTap (.refl s))) (.ite (.modTap (.refl s)) (.modTap (.modTap (.refl s)))))

theorem kept_memoryBist (s : State) (g pass spares : Nat) : KeptBy s (execMemoryBist g pass spares s) := by
  refine .inSegment (.refl s) ?_
  extract_lets +onlyGivenNames ms z0 z1
  have h0 : Kept s z0 := .modTap (.refl s)
  have h1 : Kept s z1 := .ite (.lockRefuses h0) h0
  refine .ite h1 ?_
  extract_lets +onlyGivenNames n z2 z3
  have h2 : Kept s z2 := h1.step (K.modProt (K.rfl' z1))
  have h3 : Kept s z3 := .modTap h2
  exact .of h3 rfl rfl rfl rfl rfl rfl rfl rfl rfl

theorem kept_freezeStatus (s : State) : KeptBy s (execFreezeStatus s) := .inSegment (.refl s) (.modTap (.refl s))

theorem kept_fuseReader (s : State) : KeptBy s (execFuseReader s) := .inSegment (.refl s) (.modTap (.refl s))

theorem blowFuse_slices (fuse copy : Nat) (h : Hw) : (blowFuse fuse copy h).slices = h.slices := by
  unfold blowFuse
  repeat' split
  all_goals rfl

theorem kept_fuseProgrammer (s : State) (fuse copy : Nat) (rail : Bool) : KeptBy s (execFuseProgrammer fuse copy rail s) := by
  refine .inSegment (.refl s) (.ite (.lockRefuses (.refl s)) (.ite (.refl s) ?_))
  exact .of (.refl s) rfl rfl rfl rfl rfl rfl (blowFuse_slices _ _ _) rfl rfl

end Sys2Proof.Machine
end

