-- ==== Sys2Proof/Laws/State.lean ====
section
/-!
SUPPORT. One lemma for each field of State under each named update of one record, and the pieces of State that an object
write, a frame handed over and a queue change leave alone. No later proof unfolds a record update.
-/

namespace Sys2Proof.Machine

namespace State

variable (s : State)

/-! ### modCouch -/

@[simp] theorem modCouch_pending (f : Couch → Couch) : (s.modCouch f).pending = s.pending := rfl
@[simp] theorem modCouch_hw (f : Couch → Couch) : (s.modCouch f).hw = s.hw := rfl
@[simp] theorem modCouch_sticky (f : Couch → Couch) : (s.modCouch f).sticky = s.sticky := rfl
@[simp] theorem modCouch_clock (f : Couch → Couch) : (s.modCouch f).clock = s.clock := rfl
@[simp] theorem modCouch_dict (f : Couch → Couch) : (s.modCouch f).dict = s.dict := rfl
@[simp] theorem modCouch_oct (f : Couch → Couch) : (s.modCouch f).oct = s.oct := rfl
@[simp] theorem modCouch_changes (f : Couch → Couch) : (s.modCouch f).changes = s.changes := rfl
@[simp] theorem modCouch_mem (f : Couch → Couch) : (s.modCouch f).mem = s.mem := rfl
@[simp] theorem modCouch_poison (f : Couch → Couch) : (s.modCouch f).poison = s.poison := rfl
@[simp] theorem modCouch_flash (f : Couch → Couch) : (s.modCouch f).flash = s.flash := rfl
@[simp] theorem modCouch_tx (f : Couch → Couch) : (s.modCouch f).tx = s.tx := rfl
@[simp] theorem modCouch_cOut (f : Couch → Couch) : (s.modCouch f).cOut = s.cOut := rfl
@[simp] theorem modCouch_fOut (f : Couch → Couch) : (s.modCouch f).fOut = s.fOut := rfl
@[simp] theorem modCouch_draws (f : Couch → Couch) : (s.modCouch f).draws = s.draws := rfl
@[simp] theorem modCouch_log (f : Couch → Couch) : (s.modCouch f).log = s.log := rfl
@[simp] theorem modCouch_server (f : Couch → Couch) : (s.modCouch f).server = s.server := rfl
@[simp] theorem modCouch_firmware (f : Couch → Couch) : (s.modCouch f).firmware = s.firmware := rfl
@[simp] theorem modCouch_twin (f : Couch → Couch) : (s.modCouch f).twin = s.twin := rfl
@[simp] theorem modCouch_sensors (f : Couch → Couch) : (s.modCouch f).sensors = s.sensors := rfl
@[simp] theorem modCouch_tap (f : Couch → Couch) : (s.modCouch f).tap = s.tap := rfl
@[simp] theorem modCouch_pass (f : Couch → Couch) : (s.modCouch f).pass = s.pass := rfl
@[simp] theorem modCouch_couch (f : Couch → Couch) : (s.modCouch f).couch = f s.couch := rfl
@[simp] theorem modCouch_member (f : Couch → Couch) : (s.modCouch f).member = s.member := rfl
@[simp] theorem modCouch_sport (f : Couch → Couch) : (s.modCouch f).sport = s.sport := rfl
@[simp] theorem modCouch_steer (f : Couch → Couch) : (s.modCouch f).steer = s.steer := rfl
@[simp] theorem modCouch_tiers (f : Couch → Couch) : (s.modCouch f).tiers = s.tiers := rfl
@[simp] theorem modCouch_audit (f : Couch → Couch) : (s.modCouch f).audit = s.audit := rfl
@[simp] theorem modCouch_prot (f : Couch → Couch) : (s.modCouch f).prot = s.prot := rfl
@[simp] theorem modCouch_arrays (f : Couch → Couch) : (s.modCouch f).arrays = s.arrays := rfl
@[simp] theorem modCouch_red (f : Couch → Couch) : (s.modCouch f).red = s.red := rfl
@[simp] theorem modCouch_route (f : Couch → Couch) : (s.modCouch f).route = s.route := rfl
@[simp] theorem modCouch_yard (f : Couch → Couch) : (s.modCouch f).yard = s.yard := rfl
@[simp] theorem modCouch_exch (f : Couch → Couch) : (s.modCouch f).exch = s.exch := rfl

/-! ### modMember -/

@[simp] theorem modMember_pending (f : Member → Member) : (s.modMember f).pending = s.pending := rfl
@[simp] theorem modMember_hw (f : Member → Member) : (s.modMember f).hw = s.hw := rfl
@[simp] theorem modMember_sticky (f : Member → Member) : (s.modMember f).sticky = s.sticky := rfl
@[simp] theorem modMember_clock (f : Member → Member) : (s.modMember f).clock = s.clock := rfl
@[simp] theorem modMember_dict (f : Member → Member) : (s.modMember f).dict = s.dict := rfl
@[simp] theorem modMember_oct (f : Member → Member) : (s.modMember f).oct = s.oct := rfl
@[simp] theorem modMember_changes (f : Member → Member) : (s.modMember f).changes = s.changes := rfl
@[simp] theorem modMember_mem (f : Member → Member) : (s.modMember f).mem = s.mem := rfl
@[simp] theorem modMember_poison (f : Member → Member) : (s.modMember f).poison = s.poison := rfl
@[simp] theorem modMember_flash (f : Member → Member) : (s.modMember f).flash = s.flash := rfl
@[simp] theorem modMember_tx (f : Member → Member) : (s.modMember f).tx = s.tx := rfl
@[simp] theorem modMember_cOut (f : Member → Member) : (s.modMember f).cOut = s.cOut := rfl
@[simp] theorem modMember_fOut (f : Member → Member) : (s.modMember f).fOut = s.fOut := rfl
@[simp] theorem modMember_draws (f : Member → Member) : (s.modMember f).draws = s.draws := rfl
@[simp] theorem modMember_log (f : Member → Member) : (s.modMember f).log = s.log := rfl
@[simp] theorem modMember_server (f : Member → Member) : (s.modMember f).server = s.server := rfl
@[simp] theorem modMember_firmware (f : Member → Member) : (s.modMember f).firmware = s.firmware := rfl
@[simp] theorem modMember_twin (f : Member → Member) : (s.modMember f).twin = s.twin := rfl
@[simp] theorem modMember_sensors (f : Member → Member) : (s.modMember f).sensors = s.sensors := rfl
@[simp] theorem modMember_tap (f : Member → Member) : (s.modMember f).tap = s.tap := rfl
@[simp] theorem modMember_pass (f : Member → Member) : (s.modMember f).pass = s.pass := rfl
@[simp] theorem modMember_couch (f : Member → Member) : (s.modMember f).couch = s.couch := rfl
@[simp] theorem modMember_member (f : Member → Member) : (s.modMember f).member = f s.member := rfl
@[simp] theorem modMember_sport (f : Member → Member) : (s.modMember f).sport = s.sport := rfl
@[simp] theorem modMember_steer (f : Member → Member) : (s.modMember f).steer = s.steer := rfl
@[simp] theorem modMember_tiers (f : Member → Member) : (s.modMember f).tiers = s.tiers := rfl
@[simp] theorem modMember_audit (f : Member → Member) : (s.modMember f).audit = s.audit := rfl
@[simp] theorem modMember_prot (f : Member → Member) : (s.modMember f).prot = s.prot := rfl
@[simp] theorem modMember_arrays (f : Member → Member) : (s.modMember f).arrays = s.arrays := rfl
@[simp] theorem modMember_red (f : Member → Member) : (s.modMember f).red = s.red := rfl
@[simp] theorem modMember_route (f : Member → Member) : (s.modMember f).route = s.route := rfl
@[simp] theorem modMember_yard (f : Member → Member) : (s.modMember f).yard = s.yard := rfl
@[simp] theorem modMember_exch (f : Member → Member) : (s.modMember f).exch = s.exch := rfl

/-! ### modPass -/

@[simp] theorem modPass_pending (f : Pass → Pass) : (s.modPass f).pending = s.pending := rfl
@[simp] theorem modPass_hw (f : Pass → Pass) : (s.modPass f).hw = s.hw := rfl
@[simp] theorem modPass_sticky (f : Pass → Pass) : (s.modPass f).sticky = s.sticky := rfl
@[simp] theorem modPass_clock (f : Pass → Pass) : (s.modPass f).clock = s.clock := rfl
@[simp] theorem modPass_dict (f : Pass → Pass) : (s.modPass f).dict = s.dict := rfl
@[simp] theorem modPass_oct (f : Pass → Pass) : (s.modPass f).oct = s.oct := rfl
@[simp] theorem modPass_changes (f : Pass → Pass) : (s.modPass f).changes = s.changes := rfl
@[simp] theorem modPass_mem (f : Pass → Pass) : (s.modPass f).mem = s.mem := rfl
@[simp] theorem modPass_poison (f : Pass → Pass) : (s.modPass f).poison = s.poison := rfl
@[simp] theorem modPass_flash (f : Pass → Pass) : (s.modPass f).flash = s.flash := rfl
@[simp] theorem modPass_tx (f : Pass → Pass) : (s.modPass f).tx = s.tx := rfl
@[simp] theorem modPass_cOut (f : Pass → Pass) : (s.modPass f).cOut = s.cOut := rfl
@[simp] theorem modPass_fOut (f : Pass → Pass) : (s.modPass f).fOut = s.fOut := rfl
@[simp] theorem modPass_draws (f : Pass → Pass) : (s.modPass f).draws = s.draws := rfl
@[simp] theorem modPass_log (f : Pass → Pass) : (s.modPass f).log = s.log := rfl
@[simp] theorem modPass_server (f : Pass → Pass) : (s.modPass f).server = s.server := rfl
@[simp] theorem modPass_firmware (f : Pass → Pass) : (s.modPass f).firmware = s.firmware := rfl
@[simp] theorem modPass_twin (f : Pass → Pass) : (s.modPass f).twin = s.twin := rfl
@[simp] theorem modPass_sensors (f : Pass → Pass) : (s.modPass f).sensors = s.sensors := rfl
@[simp] theorem modPass_tap (f : Pass → Pass) : (s.modPass f).tap = s.tap := rfl
@[simp] theorem modPass_pass (f : Pass → Pass) : (s.modPass f).pass = f s.pass := rfl
@[simp] theorem modPass_couch (f : Pass → Pass) : (s.modPass f).couch = s.couch := rfl
@[simp] theorem modPass_member (f : Pass → Pass) : (s.modPass f).member = s.member := rfl
@[simp] theorem modPass_sport (f : Pass → Pass) : (s.modPass f).sport = s.sport := rfl
@[simp] theorem modPass_steer (f : Pass → Pass) : (s.modPass f).steer = s.steer := rfl
@[simp] theorem modPass_tiers (f : Pass → Pass) : (s.modPass f).tiers = s.tiers := rfl
@[simp] theorem modPass_audit (f : Pass → Pass) : (s.modPass f).audit = s.audit := rfl
@[simp] theorem modPass_prot (f : Pass → Pass) : (s.modPass f).prot = s.prot := rfl
@[simp] theorem modPass_arrays (f : Pass → Pass) : (s.modPass f).arrays = s.arrays := rfl
@[simp] theorem modPass_red (f : Pass → Pass) : (s.modPass f).red = s.red := rfl
@[simp] theorem modPass_route (f : Pass → Pass) : (s.modPass f).route = s.route := rfl
@[simp] theorem modPass_yard (f : Pass → Pass) : (s.modPass f).yard = s.yard := rfl
@[simp] theorem modPass_exch (f : Pass → Pass) : (s.modPass f).exch = s.exch := rfl

/-! ### modTiers -/

@[simp] theorem modTiers_pending (f : Tiers → Tiers) : (s.modTiers f).pending = s.pending := rfl
@[simp] theorem modTiers_hw (f : Tiers → Tiers) : (s.modTiers f).hw = s.hw := rfl
@[simp] theorem modTiers_sticky (f : Tiers → Tiers) : (s.modTiers f).sticky = s.sticky := rfl
@[simp] theorem modTiers_clock (f : Tiers → Tiers) : (s.modTiers f).clock = s.clock := rfl
@[simp] theorem modTiers_dict (f : Tiers → Tiers) : (s.modTiers f).dict = s.dict := rfl
@[simp] theorem modTiers_oct (f : Tiers → Tiers) : (s.modTiers f).oct = s.oct := rfl
@[simp] theorem modTiers_changes (f : Tiers → Tiers) : (s.modTiers f).changes = s.changes := rfl
@[simp] theorem modTiers_mem (f : Tiers → Tiers) : (s.modTiers f).mem = s.mem := rfl
@[simp] theorem modTiers_poison (f : Tiers → Tiers) : (s.modTiers f).poison = s.poison := rfl
@[simp] theorem modTiers_flash (f : Tiers → Tiers) : (s.modTiers f).flash = s.flash := rfl
@[simp] theorem modTiers_tx (f : Tiers → Tiers) : (s.modTiers f).tx = s.tx := rfl
@[simp] theorem modTiers_cOut (f : Tiers → Tiers) : (s.modTiers f).cOut = s.cOut := rfl
@[simp] theorem modTiers_fOut (f : Tiers → Tiers) : (s.modTiers f).fOut = s.fOut := rfl
@[simp] theorem modTiers_draws (f : Tiers → Tiers) : (s.modTiers f).draws = s.draws := rfl
@[simp] theorem modTiers_log (f : Tiers → Tiers) : (s.modTiers f).log = s.log := rfl
@[simp] theorem modTiers_server (f : Tiers → Tiers) : (s.modTiers f).server = s.server := rfl
@[simp] theorem modTiers_firmware (f : Tiers → Tiers) : (s.modTiers f).firmware = s.firmware := rfl
@[simp] theorem modTiers_twin (f : Tiers → Tiers) : (s.modTiers f).twin = s.twin := rfl
@[simp] theorem modTiers_sensors (f : Tiers → Tiers) : (s.modTiers f).sensors = s.sensors := rfl
@[simp] theorem modTiers_tap (f : Tiers → Tiers) : (s.modTiers f).tap = s.tap := rfl
@[simp] theorem modTiers_pass (f : Tiers → Tiers) : (s.modTiers f).pass = s.pass := rfl
@[simp] theorem modTiers_couch (f : Tiers → Tiers) : (s.modTiers f).couch = s.couch := rfl
@[simp] theorem modTiers_member (f : Tiers → Tiers) : (s.modTiers f).member = s.member := rfl
@[simp] theorem modTiers_sport (f : Tiers → Tiers) : (s.modTiers f).sport = s.sport := rfl
@[simp] theorem modTiers_steer (f : Tiers → Tiers) : (s.modTiers f).steer = s.steer := rfl
@[simp] theorem modTiers_tiers (f : Tiers → Tiers) : (s.modTiers f).tiers = f s.tiers := rfl
@[simp] theorem modTiers_audit (f : Tiers → Tiers) : (s.modTiers f).audit = s.audit := rfl
@[simp] theorem modTiers_prot (f : Tiers → Tiers) : (s.modTiers f).prot = s.prot := rfl
@[simp] theorem modTiers_arrays (f : Tiers → Tiers) : (s.modTiers f).arrays = s.arrays := rfl
@[simp] theorem modTiers_red (f : Tiers → Tiers) : (s.modTiers f).red = s.red := rfl
@[simp] theorem modTiers_route (f : Tiers → Tiers) : (s.modTiers f).route = s.route := rfl
@[simp] theorem modTiers_yard (f : Tiers → Tiers) : (s.modTiers f).yard = s.yard := rfl
@[simp] theorem modTiers_exch (f : Tiers → Tiers) : (s.modTiers f).exch = s.exch := rfl

/-! ### modSPort -/

@[simp] theorem modSPort_pending (f : SPort → SPort) : (s.modSPort f).pending = s.pending := rfl
@[simp] theorem modSPort_hw (f : SPort → SPort) : (s.modSPort f).hw = s.hw := rfl
@[simp] theorem modSPort_sticky (f : SPort → SPort) : (s.modSPort f).sticky = s.sticky := rfl
@[simp] theorem modSPort_clock (f : SPort → SPort) : (s.modSPort f).clock = s.clock := rfl
@[simp] theorem modSPort_dict (f : SPort → SPort) : (s.modSPort f).dict = s.dict := rfl
@[simp] theorem modSPort_oct (f : SPort → SPort) : (s.modSPort f).oct = s.oct := rfl
@[simp] theorem modSPort_changes (f : SPort → SPort) : (s.modSPort f).changes = s.changes := rfl
@[simp] theorem modSPort_mem (f : SPort → SPort) : (s.modSPort f).mem = s.mem := rfl
@[simp] theorem modSPort_poison (f : SPort → SPort) : (s.modSPort f).poison = s.poison := rfl
@[simp] theorem modSPort_flash (f : SPort → SPort) : (s.modSPort f).flash = s.flash := rfl
@[simp] theorem modSPort_tx (f : SPort → SPort) : (s.modSPort f).tx = s.tx := rfl
@[simp] theorem modSPort_cOut (f : SPort → SPort) : (s.modSPort f).cOut = s.cOut := rfl
@[simp] theorem modSPort_fOut (f : SPort → SPort) : (s.modSPort f).fOut = s.fOut := rfl
@[simp] theorem modSPort_draws (f : SPort → SPort) : (s.modSPort f).draws = s.draws := rfl
@[simp] theorem modSPort_log (f : SPort → SPort) : (s.modSPort f).log = s.log := rfl
@[simp] theorem modSPort_server (f : SPort → SPort) : (s.modSPort f).server = s.server := rfl
@[simp] theorem modSPort_firmware (f : SPort → SPort) : (s.modSPort f).firmware = s.firmware := rfl
@[simp] theorem modSPort_twin (f : SPort → SPort) : (s.modSPort f).twin = s.twin := rfl
@[simp] theorem modSPort_sensors (f : SPort → SPort) : (s.modSPort f).sensors = s.sensors := rfl
@[simp] theorem modSPort_tap (f : SPort → SPort) : (s.modSPort f).tap = s.tap := rfl
@[simp] theorem modSPort_pass (f : SPort → SPort) : (s.modSPort f).pass = s.pass := rfl
@[simp] theorem modSPort_couch (f : SPort → SPort) : (s.modSPort f).couch = s.couch := rfl
@[simp] theorem modSPort_member (f : SPort → SPort) : (s.modSPort f).member = s.member := rfl
@[simp] theorem modSPort_sport (f : SPort → SPort) : (s.modSPort f).sport = f s.sport := rfl
@[simp] theorem modSPort_steer (f : SPort → SPort) : (s.modSPort f).steer = s.steer := rfl
@[simp] theorem modSPort_tiers (f : SPort → SPort) : (s.modSPort f).tiers = s.tiers := rfl
@[simp] theorem modSPort_audit (f : SPort → SPort) : (s.modSPort f).audit = s.audit := rfl
@[simp] theorem modSPort_prot (f : SPort → SPort) : (s.modSPort f).prot = s.prot := rfl
@[simp] theorem modSPort_arrays (f : SPort → SPort) : (s.modSPort f).arrays = s.arrays := rfl
@[simp] theorem modSPort_red (f : SPort → SPort) : (s.modSPort f).red = s.red := rfl
@[simp] theorem modSPort_route (f : SPort → SPort) : (s.modSPort f).route = s.route := rfl
@[simp] theorem modSPort_yard (f : SPort → SPort) : (s.modSPort f).yard = s.yard := rfl
@[simp] theorem modSPort_exch (f : SPort → SPort) : (s.modSPort f).exch = s.exch := rfl

/-! ### modLog -/

@[simp] theorem modLog_pending (f : Log → Log) : (s.modLog f).pending = s.pending := rfl
@[simp] theorem modLog_hw (f : Log → Log) : (s.modLog f).hw = s.hw := rfl
@[simp] theorem modLog_sticky (f : Log → Log) : (s.modLog f).sticky = s.sticky := rfl
@[simp] theorem modLog_clock (f : Log → Log) : (s.modLog f).clock = s.clock := rfl
@[simp] theorem modLog_dict (f : Log → Log) : (s.modLog f).dict = s.dict := rfl
@[simp] theorem modLog_oct (f : Log → Log) : (s.modLog f).oct = s.oct := rfl
@[simp] theorem modLog_changes (f : Log → Log) : (s.modLog f).changes = s.changes := rfl
@[simp] theorem modLog_mem (f : Log → Log) : (s.modLog f).mem = s.mem := rfl
@[simp] theorem modLog_poison (f : Log → Log) : (s.modLog f).poison = s.poison := rfl
@[simp] theorem modLog_flash (f : Log → Log) : (s.modLog f).flash = s.flash := rfl
@[simp] theorem modLog_tx (f : Log → Log) : (s.modLog f).tx = s.tx := rfl
@[simp] theorem modLog_cOut (f : Log → Log) : (s.modLog f).cOut = s.cOut := rfl
@[simp] theorem modLog_fOut (f : Log → Log) : (s.modLog f).fOut = s.fOut := rfl
@[simp] theorem modLog_draws (f : Log → Log) : (s.modLog f).draws = s.draws := rfl
@[simp] theorem modLog_log (f : Log → Log) : (s.modLog f).log = f s.log := rfl
@[simp] theorem modLog_server (f : Log → Log) : (s.modLog f).server = s.server := rfl
@[simp] theorem modLog_firmware (f : Log → Log) : (s.modLog f).firmware = s.firmware := rfl
@[simp] theorem modLog_twin (f : Log → Log) : (s.modLog f).twin = s.twin := rfl
@[simp] theorem modLog_sensors (f : Log → Log) : (s.modLog f).sensors = s.sensors := rfl
@[simp] theorem modLog_tap (f : Log → Log) : (s.modLog f).tap = s.tap := rfl
@[simp] theorem modLog_pass (f : Log → Log) : (s.modLog f).pass = s.pass := rfl
@[simp] theorem modLog_couch (f : Log → Log) : (s.modLog f).couch = s.couch := rfl
@[simp] theorem modLog_member (f : Log → Log) : (s.modLog f).member = s.member := rfl
@[simp] theorem modLog_sport (f : Log → Log) : (s.modLog f).sport = s.sport := rfl
@[simp] theorem modLog_steer (f : Log → Log) : (s.modLog f).steer = s.steer := rfl
@[simp] theorem modLog_tiers (f : Log → Log) : (s.modLog f).tiers = s.tiers := rfl
@[simp] theorem modLog_audit (f : Log → Log) : (s.modLog f).audit = s.audit := rfl
@[simp] theorem modLog_prot (f : Log → Log) : (s.modLog f).prot = s.prot := rfl
@[simp] theorem modLog_arrays (f : Log → Log) : (s.modLog f).arrays = s.arrays := rfl
@[simp] theorem modLog_red (f : Log → Log) : (s.modLog f).red = s.red := rfl
@[simp] theorem modLog_route (f : Log → Log) : (s.modLog f).route = s.route := rfl
@[simp] theorem modLog_yard (f : Log → Log) : (s.modLog f).yard = s.yard := rfl
@[simp] theorem modLog_exch (f : Log → Log) : (s.modLog f).exch = s.exch := rfl

/-! ### modServer -/

@[simp] theorem modServer_pending (f : Server → Server) : (s.modServer f).pending = s.pending := rfl
@[simp] theorem modServer_hw (f : Server → Server) : (s.modServer f).hw = s.hw := rfl
@[simp] theorem modServer_sticky (f : Server → Server) : (s.modServer f).sticky = s.sticky := rfl
@[simp] theorem modServer_clock (f : Server → Server) : (s.modServer f).clock = s.clock := rfl
@[simp] theorem modServer_dict (f : Server → Server) : (s.modServer f).dict = s.dict := rfl
@[simp] theorem modServer_oct (f : Server → Server) : (s.modServer f).oct = s.oct := rfl
@[simp] theorem modServer_changes (f : Server → Server) : (s.modServer f).changes = s.changes := rfl
@[simp] theorem modServer_mem (f : Server → Server) : (s.modServer f).mem = s.mem := rfl
@[simp] theorem modServer_poison (f : Server → Server) : (s.modServer f).poison = s.poison := rfl
@[simp] theorem modServer_flash (f : Server → Server) : (s.modServer f).flash = s.flash := rfl
@[simp] theorem modServer_tx (f : Server → Server) : (s.modServer f).tx = s.tx := rfl
@[simp] theorem modServer_cOut (f : Server → Server) : (s.modServer f).cOut = s.cOut := rfl
@[simp] theorem modServer_fOut (f : Server → Server) : (s.modServer f).fOut = s.fOut := rfl
@[simp] theorem modServer_draws (f : Server → Server) : (s.modServer f).draws = s.draws := rfl
@[simp] theorem modServer_log (f : Server → Server) : (s.modServer f).log = s.log := rfl
@[simp] theorem modServer_server (f : Server → Server) : (s.modServer f).server = f s.server := rfl
@[simp] theorem modServer_firmware (f : Server → Server) : (s.modServer f).firmware = s.firmware := rfl
@[simp] theorem modServer_twin (f : Server → Server) : (s.modServer f).twin = s.twin := rfl
@[simp] theorem modServer_sensors (f : Server → Server) : (s.modServer f).sensors = s.sensors := rfl
@[simp] theorem modServer_tap (f : Server → Server) : (s.modServer f).tap = s.tap := rfl
@[simp] theorem modServer_pass (f : Server → Server) : (s.modServer f).pass = s.pass := rfl
@[simp] theorem modServer_couch (f : Server → Server) : (s.modServer f).couch = s.couch := rfl
@[simp] theorem modServer_member (f : Server → Server) : (s.modServer f).member = s.member := rfl
@[simp] theorem modServer_sport (f : Server → Server) : (s.modServer f).sport = s.sport := rfl
@[simp] theorem modServer_steer (f : Server → Server) : (s.modServer f).steer = s.steer := rfl
@[simp] theorem modServer_tiers (f : Server → Server) : (s.modServer f).tiers = s.tiers := rfl
@[simp] theorem modServer_audit (f : Server → Server) : (s.modServer f).audit = s.audit := rfl
@[simp] theorem modServer_prot (f : Server → Server) : (s.modServer f).prot = s.prot := rfl
@[simp] theorem modServer_arrays (f : Server → Server) : (s.modServer f).arrays = s.arrays := rfl
@[simp] theorem modServer_red (f : Server → Server) : (s.modServer f).red = s.red := rfl
@[simp] theorem modServer_route (f : Server → Server) : (s.modServer f).route = s.route := rfl
@[simp] theorem modServer_yard (f : Server → Server) : (s.modServer f).yard = s.yard := rfl
@[simp] theorem modServer_exch (f : Server → Server) : (s.modServer f).exch = s.exch := rfl

/-! ### modSensors -/

@[simp] theorem modSensors_pending (f : Sensors → Sensors) : (s.modSensors f).pending = s.pending := rfl
@[simp] theorem modSensors_hw (f : Sensors → Sensors) : (s.modSensors f).hw = s.hw := rfl
@[simp] theorem modSensors_sticky (f : Sensors → Sensors) : (s.modSensors f).sticky = s.sticky := rfl
@[simp] theorem modSensors_clock (f : Sensors → Sensors) : (s.modSensors f).clock = s.clock := rfl
@[simp] theorem modSensors_dict (f : Sensors → Sensors) : (s.modSensors f).dict = s.dict := rfl
@[simp] theorem modSensors_oct (f : Sensors → Sensors) : (s.modSensors f).oct = s.oct := rfl
@[simp] theorem modSensors_changes (f : Sensors → Sensors) : (s.modSensors f).changes = s.changes := rfl
@[simp] theorem modSensors_mem (f : Sensors → Sensors) : (s.modSensors f).mem = s.mem := rfl
@[simp] theorem modSensors_poison (f : Sensors → Sensors) : (s.modSensors f).poison = s.poison := rfl
@[simp] theorem modSensors_flash (f : Sensors → Sensors) : (s.modSensors f).flash = s.flash := rfl
@[simp] theorem modSensors_tx (f : Sensors → Sensors) : (s.modSensors f).tx = s.tx := rfl
@[simp] theorem modSensors_cOut (f : Sensors → Sensors) : (s.modSensors f).cOut = s.cOut := rfl
@[simp] theorem modSensors_fOut (f : Sensors → Sensors) : (s.modSensors f).fOut = s.fOut := rfl
@[simp] theorem modSensors_draws (f : Sensors → Sensors) : (s.modSensors f).draws = s.draws := rfl
@[simp] theorem modSensors_log (f : Sensors → Sensors) : (s.modSensors f).log = s.log := rfl
@[simp] theorem modSensors_server (f : Sensors → Sensors) : (s.modSensors f).server = s.server := rfl
@[simp] theorem modSensors_firmware (f : Sensors → Sensors) : (s.modSensors f).firmware = s.firmware := rfl
@[simp] theorem modSensors_twin (f : Sensors → Sensors) : (s.modSensors f).twin = s.twin := rfl
@[simp] theorem modSensors_sensors (f : Sensors → Sensors) : (s.modSensors f).sensors = f s.sensors := rfl
@[simp] theorem modSensors_tap (f : Sensors → Sensors) : (s.modSensors f).tap = s.tap := rfl
@[simp] theorem modSensors_pass (f : Sensors → Sensors) : (s.modSensors f).pass = s.pass := rfl
@[simp] theorem modSensors_couch (f : Sensors → Sensors) : (s.modSensors f).couch = s.couch := rfl
@[simp] theorem modSensors_member (f : Sensors → Sensors) : (s.modSensors f).member = s.member := rfl
@[simp] theorem modSensors_sport (f : Sensors → Sensors) : (s.modSensors f).sport = s.sport := rfl
@[simp] theorem modSensors_steer (f : Sensors → Sensors) : (s.modSensors f).steer = s.steer := rfl
@[simp] theorem modSensors_tiers (f : Sensors → Sensors) : (s.modSensors f).tiers = s.tiers := rfl
@[simp] theorem modSensors_audit (f : Sensors → Sensors) : (s.modSensors f).audit = s.audit := rfl
@[simp] theorem modSensors_prot (f : Sensors → Sensors) : (s.modSensors f).prot = s.prot := rfl
@[simp] theorem modSensors_arrays (f : Sensors → Sensors) : (s.modSensors f).arrays = s.arrays := rfl
@[simp] theorem modSensors_red (f : Sensors → Sensors) : (s.modSensors f).red = s.red := rfl
@[simp] theorem modSensors_route (f : Sensors → Sensors) : (s.modSensors f).route = s.route := rfl
@[simp] theorem modSensors_yard (f : Sensors → Sensors) : (s.modSensors f).yard = s.yard := rfl
@[simp] theorem modSensors_exch (f : Sensors → Sensors) : (s.modSensors f).exch = s.exch := rfl

/-! ### modTwin -/

@[simp] theorem modTwin_pending (f : Twin → Twin) : (s.modTwin f).pending = s.pending := rfl
@[simp] theorem modTwin_hw (f : Twin → Twin) : (s.modTwin f).hw = s.hw := rfl
@[simp] theorem modTwin_sticky (f : Twin → Twin) : (s.modTwin f).sticky = s.sticky := rfl
@[simp] theorem modTwin_clock (f : Twin → Twin) : (s.modTwin f).clock = s.clock := rfl
@[simp] theorem modTwin_dict (f : Twin → Twin) : (s.modTwin f).dict = s.dict := rfl
@[simp] theorem modTwin_oct (f : Twin → Twin) : (s.modTwin f).oct = s.oct := rfl
@[simp] theorem modTwin_changes (f : Twin → Twin) : (s.modTwin f).changes = s.changes := rfl
@[simp] theorem modTwin_mem (f : Twin → Twin) : (s.modTwin f).mem = s.mem := rfl
@[simp] theorem modTwin_poison (f : Twin → Twin) : (s.modTwin f).poison = s.poison := rfl
@[simp] theorem modTwin_flash (f : Twin → Twin) : (s.modTwin f).flash = s.flash := rfl
@[simp] theorem modTwin_tx (f : Twin → Twin) : (s.modTwin f).tx = s.tx := rfl
@[simp] theorem modTwin_cOut (f : Twin → Twin) : (s.modTwin f).cOut = s.cOut := rfl
@[simp] theorem modTwin_fOut (f : Twin → Twin) : (s.modTwin f).fOut = s.fOut := rfl
@[simp] theorem modTwin_draws (f : Twin → Twin) : (s.modTwin f).draws = s.draws := rfl
@[simp] theorem modTwin_log (f : Twin → Twin) : (s.modTwin f).log = s.log := rfl
@[simp] theorem modTwin_server (f : Twin → Twin) : (s.modTwin f).server = s.server := rfl
@[simp] theorem modTwin_firmware (f : Twin → Twin) : (s.modTwin f).firmware = s.firmware := rfl
@[simp] theorem modTwin_twin (f : Twin → Twin) : (s.modTwin f).twin = f s.twin := rfl
@[simp] theorem modTwin_sensors (f : Twin → Twin) : (s.modTwin f).sensors = s.sensors := rfl
@[simp] theorem modTwin_tap (f : Twin → Twin) : (s.modTwin f).tap = s.tap := rfl
@[simp] theorem modTwin_pass (f : Twin → Twin) : (s.modTwin f).pass = s.pass := rfl
@[simp] theorem modTwin_couch (f : Twin → Twin) : (s.modTwin f).couch = s.couch := rfl
@[simp] theorem modTwin_member (f : Twin → Twin) : (s.modTwin f).member = s.member := rfl
@[simp] theorem modTwin_sport (f : Twin → Twin) : (s.modTwin f).sport = s.sport := rfl
@[simp] theorem modTwin_steer (f : Twin → Twin) : (s.modTwin f).steer = s.steer := rfl
@[simp] theorem modTwin_tiers (f : Twin → Twin) : (s.modTwin f).tiers = s.tiers := rfl
@[simp] theorem modTwin_audit (f : Twin → Twin) : (s.modTwin f).audit = s.audit := rfl
@[simp] theorem modTwin_prot (f : Twin → Twin) : (s.modTwin f).prot = s.prot := rfl
@[simp] theorem modTwin_arrays (f : Twin → Twin) : (s.modTwin f).arrays = s.arrays := rfl
@[simp] theorem modTwin_red (f : Twin → Twin) : (s.modTwin f).red = s.red := rfl
@[simp] theorem modTwin_route (f : Twin → Twin) : (s.modTwin f).route = s.route := rfl
@[simp] theorem modTwin_yard (f : Twin → Twin) : (s.modTwin f).yard = s.yard := rfl
@[simp] theorem modTwin_exch (f : Twin → Twin) : (s.modTwin f).exch = s.exch := rfl

/-! ### modClock -/

@[simp] theorem modClock_pending (f : Clock → Clock) : (s.modClock f).pending = s.pending := rfl
@[simp] theorem modClock_hw (f : Clock → Clock) : (s.modClock f).hw = s.hw := rfl
@[simp] theorem modClock_sticky (f : Clock → Clock) : (s.modClock f).sticky = s.sticky := rfl
@[simp] theorem modClock_clock (f : Clock → Clock) : (s.modClock f).clock = f s.clock := rfl
@[simp] theorem modClock_dict (f : Clock → Clock) : (s.modClock f).dict = s.dict := rfl
@[simp] theorem modClock_oct (f : Clock → Clock) : (s.modClock f).oct = s.oct := rfl
@[simp] theorem modClock_changes (f : Clock → Clock) : (s.modClock f).changes = s.changes := rfl
@[simp] theorem modClock_mem (f : Clock → Clock) : (s.modClock f).mem = s.mem := rfl
@[simp] theorem modClock_poison (f : Clock → Clock) : (s.modClock f).poison = s.poison := rfl
@[simp] theorem modClock_flash (f : Clock → Clock) : (s.modClock f).flash = s.flash := rfl
@[simp] theorem modClock_tx (f : Clock → Clock) : (s.modClock f).tx = s.tx := rfl
@[simp] theorem modClock_cOut (f : Clock → Clock) : (s.modClock f).cOut = s.cOut := rfl
@[simp] theorem modClock_fOut (f : Clock → Clock) : (s.modClock f).fOut = s.fOut := rfl
@[simp] theorem modClock_draws (f : Clock → Clock) : (s.modClock f).draws = s.draws := rfl
@[simp] theorem modClock_log (f : Clock → Clock) : (s.modClock f).log = s.log := rfl
@[simp] theorem modClock_server (f : Clock → Clock) : (s.modClock f).server = s.server := rfl
@[simp] theorem modClock_firmware (f : Clock → Clock) : (s.modClock f).firmware = s.firmware := rfl
@[simp] theorem modClock_twin (f : Clock → Clock) : (s.modClock f).twin = s.twin := rfl
@[simp] theorem modClock_sensors (f : Clock → Clock) : (s.modClock f).sensors = s.sensors := rfl
@[simp] theorem modClock_tap (f : Clock → Clock) : (s.modClock f).tap = s.tap := rfl
@[simp] theorem modClock_pass (f : Clock → Clock) : (s.modClock f).pass = s.pass := rfl
@[simp] theorem modClock_couch (f : Clock → Clock) : (s.modClock f).couch = s.couch := rfl
@[simp] theorem modClock_member (f : Clock → Clock) : (s.modClock f).member = s.member := rfl
@[simp] theorem modClock_sport (f : Clock → Clock) : (s.modClock f).sport = s.sport := rfl
@[simp] theorem modClock_steer (f : Clock → Clock) : (s.modClock f).steer = s.steer := rfl
@[simp] theorem modClock_tiers (f : Clock → Clock) : (s.modClock f).tiers = s.tiers := rfl
@[simp] theorem modClock_audit (f : Clock → Clock) : (s.modClock f).audit = s.audit := rfl
@[simp] theorem modClock_prot (f : Clock → Clock) : (s.modClock f).prot = s.prot := rfl
@[simp] theorem modClock_arrays (f : Clock → Clock) : (s.modClock f).arrays = s.arrays := rfl
@[simp] theorem modClock_red (f : Clock → Clock) : (s.modClock f).red = s.red := rfl
@[simp] theorem modClock_route (f : Clock → Clock) : (s.modClock f).route = s.route := rfl
@[simp] theorem modClock_yard (f : Clock → Clock) : (s.modClock f).yard = s.yard := rfl
@[simp] theorem modClock_exch (f : Clock → Clock) : (s.modClock f).exch = s.exch := rfl

/-! ### modTap -/

@[simp] theorem modTap_pending (f : Tap → Tap) : (s.modTap f).pending = s.pending := rfl
@[simp] theorem modTap_hw (f : Tap → Tap) : (s.modTap f).hw = s.hw := rfl
@[simp] theorem modTap_sticky (f : Tap → Tap) : (s.modTap f).sticky = s.sticky := rfl
@[simp] theorem modTap_clock (f : Tap → Tap) : (s.modTap f).clock = s.clock := rfl
@[simp] theorem modTap_dict (f : Tap → Tap) : (s.modTap f).dict = s.dict := rfl
@[simp] theorem modTap_oct (f : Tap → Tap) : (s.modTap f).oct = s.oct := rfl
@[simp] theorem modTap_changes (f : Tap → Tap) : (s.modTap f).changes = s.changes := rfl
@[simp] theorem modTap_mem (f : Tap → Tap) : (s.modTap f).mem = s.mem := rfl
@[simp] theorem modTap_poison (f : Tap → Tap) : (s.modTap f).poison = s.poison := rfl
@[simp] theorem modTap_flash (f : Tap → Tap) : (s.modTap f).flash = s.flash := rfl
@[simp] theorem modTap_tx (f : Tap → Tap) : (s.modTap f).tx = s.tx := rfl
@[simp] theorem modTap_cOut (f : Tap → Tap) : (s.modTap f).cOut = s.cOut := rfl
@[simp] theorem modTap_fOut (f : Tap → Tap) : (s.modTap f).fOut = s.fOut := rfl
@[simp] theorem modTap_draws (f : Tap → Tap) : (s.modTap f).draws = s.draws := rfl
@[simp] theorem modTap_log (f : Tap → Tap) : (s.modTap f).log = s.log := rfl
@[simp] theorem modTap_server (f : Tap → Tap) : (s.modTap f).server = s.server := rfl
@[simp] theorem modTap_firmware (f : Tap → Tap) : (s.modTap f).firmware = s.firmware := rfl
@[simp] theorem modTap_twin (f : Tap → Tap) : (s.modTap f).twin = s.twin := rfl
@[simp] theorem modTap_sensors (f : Tap → Tap) : (s.modTap f).sensors = s.sensors := rfl
@[simp] theorem modTap_tap (f : Tap → Tap) : (s.modTap f).tap = f s.tap := rfl
@[simp] theorem modTap_pass (f : Tap → Tap) : (s.modTap f).pass = s.pass := rfl
@[simp] theorem modTap_couch (f : Tap → Tap) : (s.modTap f).couch = s.couch := rfl
@[simp] theorem modTap_member (f : Tap → Tap) : (s.modTap f).member = s.member := rfl
@[simp] theorem modTap_sport (f : Tap → Tap) : (s.modTap f).sport = s.sport := rfl
@[simp] theorem modTap_steer (f : Tap → Tap) : (s.modTap f).steer = s.steer := rfl
@[simp] theorem modTap_tiers (f : Tap → Tap) : (s.modTap f).tiers = s.tiers := rfl
@[simp] theorem modTap_audit (f : Tap → Tap) : (s.modTap f).audit = s.audit := rfl
@[simp] theorem modTap_prot (f : Tap → Tap) : (s.modTap f).prot = s.prot := rfl
@[simp] theorem modTap_arrays (f : Tap → Tap) : (s.modTap f).arrays = s.arrays := rfl
@[simp] theorem modTap_red (f : Tap → Tap) : (s.modTap f).red = s.red := rfl
@[simp] theorem modTap_route (f : Tap → Tap) : (s.modTap f).route = s.route := rfl
@[simp] theorem modTap_yard (f : Tap → Tap) : (s.modTap f).yard = s.yard := rfl
@[simp] theorem modTap_exch (f : Tap → Tap) : (s.modTap f).exch = s.exch := rfl

/-! ### modAudit -/

@[simp] theorem modAudit_pending (f : Audit → Audit) : (s.modAudit f).pending = s.pending := rfl
@[simp] theorem modAudit_hw (f : Audit → Audit) : (s.modAudit f).hw = s.hw := rfl
@[simp] theorem modAudit_sticky (f : Audit → Audit) : (s.modAudit f).sticky = s.sticky := rfl
@[simp] theorem modAudit_clock (f : Audit → Audit) : (s.modAudit f).clock = s.clock := rfl
@[simp] theorem modAudit_dict (f : Audit → Audit) : (s.modAudit f).dict = s.dict := rfl
@[simp] theorem modAudit_oct (f : Audit → Audit) : (s.modAudit f).oct = s.oct := rfl
@[simp] theorem modAudit_changes (f : Audit → Audit) : (s.modAudit f).changes = s.changes := rfl
@[simp] theorem modAudit_mem (f : Audit → Audit) : (s.modAudit f).mem = s.mem := rfl
@[simp] theorem modAudit_poison (f : Audit → Audit) : (s.modAudit f).poison = s.poison := rfl
@[simp] theorem modAudit_flash (f : Audit → Audit) : (s.modAudit f).flash = s.flash := rfl
@[simp] theorem modAudit_tx (f : Audit → Audit) : (s.modAudit f).tx = s.tx := rfl
@[simp] theorem modAudit_cOut (f : Audit → Audit) : (s.modAudit f).cOut = s.cOut := rfl
@[simp] theorem modAudit_fOut (f : Audit → Audit) : (s.modAudit f).fOut = s.fOut := rfl
@[simp] theorem modAudit_draws (f : Audit → Audit) : (s.modAudit f).draws = s.draws := rfl
@[simp] theorem modAudit_log (f : Audit → Audit) : (s.modAudit f).log = s.log := rfl
@[simp] theorem modAudit_server (f : Audit → Audit) : (s.modAudit f).server = s.server := rfl
@[simp] theorem modAudit_firmware (f : Audit → Audit) : (s.modAudit f).firmware = s.firmware := rfl
@[simp] theorem modAudit_twin (f : Audit → Audit) : (s.modAudit f).twin = s.twin := rfl
@[simp] theorem modAudit_sensors (f : Audit → Audit) : (s.modAudit f).sensors = s.sensors := rfl
@[simp] theorem modAudit_tap (f : Audit → Audit) : (s.modAudit f).tap = s.tap := rfl
@[simp] theorem modAudit_pass (f : Audit → Audit) : (s.modAudit f).pass = s.pass := rfl
@[simp] theorem modAudit_couch (f : Audit → Audit) : (s.modAudit f).couch = s.couch := rfl
@[simp] theorem modAudit_member (f : Audit → Audit) : (s.modAudit f).member = s.member := rfl
@[simp] theorem modAudit_sport (f : Audit → Audit) : (s.modAudit f).sport = s.sport := rfl
@[simp] theorem modAudit_steer (f : Audit → Audit) : (s.modAudit f).steer = s.steer := rfl
@[simp] theorem modAudit_tiers (f : Audit → Audit) : (s.modAudit f).tiers = s.tiers := rfl
@[simp] theorem modAudit_audit (f : Audit → Audit) : (s.modAudit f).audit = f s.audit := rfl
@[simp] theorem modAudit_prot (f : Audit → Audit) : (s.modAudit f).prot = s.prot := rfl
@[simp] theorem modAudit_arrays (f : Audit → Audit) : (s.modAudit f).arrays = s.arrays := rfl
@[simp] theorem modAudit_red (f : Audit → Audit) : (s.modAudit f).red = s.red := rfl
@[simp] theorem modAudit_route (f : Audit → Audit) : (s.modAudit f).route = s.route := rfl
@[simp] theorem modAudit_yard (f : Audit → Audit) : (s.modAudit f).yard = s.yard := rfl
@[simp] theorem modAudit_exch (f : Audit → Audit) : (s.modAudit f).exch = s.exch := rfl

/-! ### modProt -/

@[simp] theorem modProt_pending (f : Prot → Prot) : (s.modProt f).pending = s.pending := rfl
@[simp] theorem modProt_hw (f : Prot → Prot) : (s.modProt f).hw = s.hw := rfl
@[simp] theorem modProt_sticky (f : Prot → Prot) : (s.modProt f).sticky = s.sticky := rfl
@[simp] theorem modProt_clock (f : Prot → Prot) : (s.modProt f).clock = s.clock := rfl
@[simp] theorem modProt_dict (f : Prot → Prot) : (s.modProt f).dict = s.dict := rfl
@[simp] theorem modProt_oct (f : Prot → Prot) : (s.modProt f).oct = s.oct := rfl
@[simp] theorem modProt_changes (f : Prot → Prot) : (s.modProt f).changes = s.changes := rfl
@[simp] theorem modProt_mem (f : Prot → Prot) : (s.modProt f).mem = s.mem := rfl
@[simp] theorem modProt_poison (f : Prot → Prot) : (s.modProt f).poison = s.poison := rfl
@[simp] theorem modProt_flash (f : Prot → Prot) : (s.modProt f).flash = s.flash := rfl
@[simp] theorem modProt_tx (f : Prot → Prot) : (s.modProt f).tx = s.tx := rfl
@[simp] theorem modProt_cOut (f : Prot → Prot) : (s.modProt f).cOut = s.cOut := rfl
@[simp] theorem modProt_fOut (f : Prot → Prot) : (s.modProt f).fOut = s.fOut := rfl
@[simp] theorem modProt_draws (f : Prot → Prot) : (s.modProt f).draws = s.draws := rfl
@[simp] theorem modProt_log (f : Prot → Prot) : (s.modProt f).log = s.log := rfl
@[simp] theorem modProt_server (f : Prot → Prot) : (s.modProt f).server = s.server := rfl
@[simp] theorem modProt_firmware (f : Prot → Prot) : (s.modProt f).firmware = s.firmware := rfl
@[simp] theorem modProt_twin (f : Prot → Prot) : (s.modProt f).twin = s.twin := rfl
@[simp] theorem modProt_sensors (f : Prot → Prot) : (s.modProt f).sensors = s.sensors := rfl
@[simp] theorem modProt_tap (f : Prot → Prot) : (s.modProt f).tap = s.tap := rfl
@[simp] theorem modProt_pass (f : Prot → Prot) : (s.modProt f).pass = s.pass := rfl
@[simp] theorem modProt_couch (f : Prot → Prot) : (s.modProt f).couch = s.couch := rfl
@[simp] theorem modProt_member (f : Prot → Prot) : (s.modProt f).member = s.member := rfl
@[simp] theorem modProt_sport (f : Prot → Prot) : (s.modProt f).sport = s.sport := rfl
@[simp] theorem modProt_steer (f : Prot → Prot) : (s.modProt f).steer = s.steer := rfl
@[simp] theorem modProt_tiers (f : Prot → Prot) : (s.modProt f).tiers = s.tiers := rfl
@[simp] theorem modProt_audit (f : Prot → Prot) : (s.modProt f).audit = s.audit := rfl
@[simp] theorem modProt_prot (f : Prot → Prot) : (s.modProt f).prot = f s.prot := rfl
@[simp] theorem modProt_arrays (f : Prot → Prot) : (s.modProt f).arrays = s.arrays := rfl
@[simp] theorem modProt_red (f : Prot → Prot) : (s.modProt f).red = s.red := rfl
@[simp] theorem modProt_route (f : Prot → Prot) : (s.modProt f).route = s.route := rfl
@[simp] theorem modProt_yard (f : Prot → Prot) : (s.modProt f).yard = s.yard := rfl
@[simp] theorem modProt_exch (f : Prot → Prot) : (s.modProt f).exch = s.exch := rfl

/-! ### modFirmware -/

@[simp] theorem modFirmware_pending (f : Firmware → Firmware) : (s.modFirmware f).pending = s.pending := rfl
@[simp] theorem modFirmware_hw (f : Firmware → Firmware) : (s.modFirmware f).hw = s.hw := rfl
@[simp] theorem modFirmware_sticky (f : Firmware → Firmware) : (s.modFirmware f).sticky = s.sticky := rfl
@[simp] theorem modFirmware_clock (f : Firmware → Firmware) : (s.modFirmware f).clock = s.clock := rfl
@[simp] theorem modFirmware_dict (f : Firmware → Firmware) : (s.modFirmware f).dict = s.dict := rfl
@[simp] theorem modFirmware_oct (f : Firmware → Firmware) : (s.modFirmware f).oct = s.oct := rfl
@[simp] theorem modFirmware_changes (f : Firmware → Firmware) : (s.modFirmware f).changes = s.changes := rfl
@[simp] theorem modFirmware_mem (f : Firmware → Firmware) : (s.modFirmware f).mem = s.mem := rfl
@[simp] theorem modFirmware_poison (f : Firmware → Firmware) : (s.modFirmware f).poison = s.poison := rfl
@[simp] theorem modFirmware_flash (f : Firmware → Firmware) : (s.modFirmware f).flash = s.flash := rfl
@[simp] theorem modFirmware_tx (f : Firmware → Firmware) : (s.modFirmware f).tx = s.tx := rfl
@[simp] theorem modFirmware_cOut (f : Firmware → Firmware) : (s.modFirmware f).cOut = s.cOut := rfl
@[simp] theorem modFirmware_fOut (f : Firmware → Firmware) : (s.modFirmware f).fOut = s.fOut := rfl
@[simp] theorem modFirmware_draws (f : Firmware → Firmware) : (s.modFirmware f).draws = s.draws := rfl
@[simp] theorem modFirmware_log (f : Firmware → Firmware) : (s.modFirmware f).log = s.log := rfl
@[simp] theorem modFirmware_server (f : Firmware → Firmware) : (s.modFirmware f).server = s.server := rfl
@[simp] theorem modFirmware_firmware (f : Firmware → Firmware) : (s.modFirmware f).firmware = f s.firmware := rfl
@[simp] theorem modFirmware_twin (f : Firmware → Firmware) : (s.modFirmware f).twin = s.twin := rfl
@[simp] theorem modFirmware_sensors (f : Firmware → Firmware) : (s.modFirmware f).sensors = s.sensors := rfl
@[simp] theorem modFirmware_tap (f : Firmware → Firmware) : (s.modFirmware f).tap = s.tap := rfl
@[simp] theorem modFirmware_pass (f : Firmware → Firmware) : (s.modFirmware f).pass = s.pass := rfl
@[simp] theorem modFirmware_couch (f : Firmware → Firmware) : (s.modFirmware f).couch = s.couch := rfl
@[simp] theorem modFirmware_member (f : Firmware → Firmware) : (s.modFirmware f).member = s.member := rfl
@[simp] theorem modFirmware_sport (f : Firmware → Firmware) : (s.modFirmware f).sport = s.sport := rfl
@[simp] theorem modFirmware_steer (f : Firmware → Firmware) : (s.modFirmware f).steer = s.steer := rfl
@[simp] theorem modFirmware_tiers (f : Firmware → Firmware) : (s.modFirmware f).tiers = s.tiers := rfl
@[simp] theorem modFirmware_audit (f : Firmware → Firmware) : (s.modFirmware f).audit = s.audit := rfl
@[simp] theorem modFirmware_prot (f : Firmware → Firmware) : (s.modFirmware f).prot = s.prot := rfl
@[simp] theorem modFirmware_arrays (f : Firmware → Firmware) : (s.modFirmware f).arrays = s.arrays := rfl
@[simp] theorem modFirmware_red (f : Firmware → Firmware) : (s.modFirmware f).red = s.red := rfl
@[simp] theorem modFirmware_route (f : Firmware → Firmware) : (s.modFirmware f).route = s.route := rfl
@[simp] theorem modFirmware_yard (f : Firmware → Firmware) : (s.modFirmware f).yard = s.yard := rfl
@[simp] theorem modFirmware_exch (f : Firmware → Firmware) : (s.modFirmware f).exch = s.exch := rfl

/-! ### modSticky -/

@[simp] theorem modSticky_pending (f : Sticky → Sticky) : (s.modSticky f).pending = s.pending := rfl
@[simp] theorem modSticky_hw (f : Sticky → Sticky) : (s.modSticky f).hw = s.hw := rfl
@[simp] theorem modSticky_sticky (f : Sticky → Sticky) : (s.modSticky f).sticky = f s.sticky := rfl
@[simp] theorem modSticky_clock (f : Sticky → Sticky) : (s.modSticky f).clock = s.clock := rfl
@[simp] theorem modSticky_dict (f : Sticky → Sticky) : (s.modSticky f).dict = s.dict := rfl
@[simp] theorem modSticky_oct (f : Sticky → Sticky) : (s.modSticky f).oct = s.oct := rfl
@[simp] theorem modSticky_changes (f : Sticky → Sticky) : (s.modSticky f).changes = s.changes := rfl
@[simp] theorem modSticky_mem (f : Sticky → Sticky) : (s.modSticky f).mem = s.mem := rfl
@[simp] theorem modSticky_poison (f : Sticky → Sticky) : (s.modSticky f).poison = s.poison := rfl
@[simp] theorem modSticky_flash (f : Sticky → Sticky) : (s.modSticky f).flash = s.flash := rfl
@[simp] theorem modSticky_tx (f : Sticky → Sticky) : (s.modSticky f).tx = s.tx := rfl
@[simp] theorem modSticky_cOut (f : Sticky → Sticky) : (s.modSticky f).cOut = s.cOut := rfl
@[simp] theorem modSticky_fOut (f : Sticky → Sticky) : (s.modSticky f).fOut = s.fOut := rfl
@[simp] theorem modSticky_draws (f : Sticky → Sticky) : (s.modSticky f).draws = s.draws := rfl
@[simp] theorem modSticky_log (f : Sticky → Sticky) : (s.modSticky f).log = s.log := rfl
@[simp] theorem modSticky_server (f : Sticky → Sticky) : (s.modSticky f).server = s.server := rfl
@[simp] theorem modSticky_firmware (f : Sticky → Sticky) : (s.modSticky f).firmware = s.firmware := rfl
@[simp] theorem modSticky_twin (f : Sticky → Sticky) : (s.modSticky f).twin = s.twin := rfl
@[simp] theorem modSticky_sensors (f : Sticky → Sticky) : (s.modSticky f).sensors = s.sensors := rfl
@[simp] theorem modSticky_tap (f : Sticky → Sticky) : (s.modSticky f).tap = s.tap := rfl
@[simp] theorem modSticky_pass (f : Sticky → Sticky) : (s.modSticky f).pass = s.pass := rfl
@[simp] theorem modSticky_couch (f : Sticky → Sticky) : (s.modSticky f).couch = s.couch := rfl
@[simp] theorem modSticky_member (f : Sticky → Sticky) : (s.modSticky f).member = s.member := rfl
@[simp] theorem modSticky_sport (f : Sticky → Sticky) : (s.modSticky f).sport = s.sport := rfl
@[simp] theorem modSticky_steer (f : Sticky → Sticky) : (s.modSticky f).steer = s.steer := rfl
@[simp] theorem modSticky_tiers (f : Sticky → Sticky) : (s.modSticky f).tiers = s.tiers := rfl
@[simp] theorem modSticky_audit (f : Sticky → Sticky) : (s.modSticky f).audit = s.audit := rfl
@[simp] theorem modSticky_prot (f : Sticky → Sticky) : (s.modSticky f).prot = s.prot := rfl
@[simp] theorem modSticky_arrays (f : Sticky → Sticky) : (s.modSticky f).arrays = s.arrays := rfl
@[simp] theorem modSticky_red (f : Sticky → Sticky) : (s.modSticky f).red = s.red := rfl
@[simp] theorem modSticky_route (f : Sticky → Sticky) : (s.modSticky f).route = s.route := rfl
@[simp] theorem modSticky_yard (f : Sticky → Sticky) : (s.modSticky f).yard = s.yard := rfl
@[simp] theorem modSticky_exch (f : Sticky → Sticky) : (s.modSticky f).exch = s.exch := rfl

/-! ### modHw -/

@[simp] theorem modHw_pending (f : Hw → Hw) : (s.modHw f).pending = s.pending := rfl
@[simp] theorem modHw_hw (f : Hw → Hw) : (s.modHw f).hw = f s.hw := rfl
@[simp] theorem modHw_sticky (f : Hw → Hw) : (s.modHw f).sticky = s.sticky := rfl
@[simp] theorem modHw_clock (f : Hw → Hw) : (s.modHw f).clock = s.clock := rfl
@[simp] theorem modHw_dict (f : Hw → Hw) : (s.modHw f).dict = s.dict := rfl
@[simp] theorem modHw_oct (f : Hw → Hw) : (s.modHw f).oct = s.oct := rfl
@[simp] theorem modHw_changes (f : Hw → Hw) : (s.modHw f).changes = s.changes := rfl
@[simp] theorem modHw_mem (f : Hw → Hw) : (s.modHw f).mem = s.mem := rfl
@[simp] theorem modHw_poison (f : Hw → Hw) : (s.modHw f).poison = s.poison := rfl
@[simp] theorem modHw_flash (f : Hw → Hw) : (s.modHw f).flash = s.flash := rfl
@[simp] theorem modHw_tx (f : Hw → Hw) : (s.modHw f).tx = s.tx := rfl
@[simp] theorem modHw_cOut (f : Hw → Hw) : (s.modHw f).cOut = s.cOut := rfl
@[simp] theorem modHw_fOut (f : Hw → Hw) : (s.modHw f).fOut = s.fOut := rfl
@[simp] theorem modHw_draws (f : Hw → Hw) : (s.modHw f).draws = s.draws := rfl
@[simp] theorem modHw_log (f : Hw → Hw) : (s.modHw f).log = s.log := rfl
@[simp] theorem modHw_server (f : Hw → Hw) : (s.modHw f).server = s.server := rfl
@[simp] theorem modHw_firmware (f : Hw → Hw) : (s.modHw f).firmware = s.firmware := rfl
@[simp] theorem modHw_twin (f : Hw → Hw) : (s.modHw f).twin = s.twin := rfl
@[simp] theorem modHw_sensors (f : Hw → Hw) : (s.modHw f).sensors = s.sensors := rfl
@[simp] theorem modHw_tap (f : Hw → Hw) : (s.modHw f).tap = s.tap := rfl
@[simp] theorem modHw_pass (f : Hw → Hw) : (s.modHw f).pass = s.pass := rfl
@[simp] theorem modHw_couch (f : Hw → Hw) : (s.modHw f).couch = s.couch := rfl
@[simp] theorem modHw_member (f : Hw → Hw) : (s.modHw f).member = s.member := rfl
@[simp] theorem modHw_sport (f : Hw → Hw) : (s.modHw f).sport = s.sport := rfl
@[simp] theorem modHw_steer (f : Hw → Hw) : (s.modHw f).steer = s.steer := rfl
@[simp] theorem modHw_tiers (f : Hw → Hw) : (s.modHw f).tiers = s.tiers := rfl
@[simp] theorem modHw_audit (f : Hw → Hw) : (s.modHw f).audit = s.audit := rfl
@[simp] theorem modHw_prot (f : Hw → Hw) : (s.modHw f).prot = s.prot := rfl
@[simp] theorem modHw_arrays (f : Hw → Hw) : (s.modHw f).arrays = s.arrays := rfl
@[simp] theorem modHw_red (f : Hw → Hw) : (s.modHw f).red = s.red := rfl
@[simp] theorem modHw_route (f : Hw → Hw) : (s.modHw f).route = s.route := rfl
@[simp] theorem modHw_yard (f : Hw → Hw) : (s.modHw f).yard = s.yard := rfl
@[simp] theorem modHw_exch (f : Hw → Hw) : (s.modHw f).exch = s.exch := rfl

/-! ### modArrays -/

@[simp] theorem modArrays_pending (f : Arrays → Arrays) : (s.modArrays f).pending = s.pending := rfl
@[simp] theorem modArrays_hw (f : Arrays → Arrays) : (s.modArrays f).hw = s.hw := rfl
@[simp] theorem modArrays_sticky (f : Arrays → Arrays) : (s.modArrays f).sticky = s.sticky := rfl
@[simp] theorem modArrays_clock (f : Arrays → Arrays) : (s.modArrays f).clock = s.clock := rfl
@[simp] theorem modArrays_dict (f : Arrays → Arrays) : (s.modArrays f).dict = s.dict := rfl
@[simp] theorem modArrays_oct (f : Arrays → Arrays) : (s.modArrays f).oct = s.oct := rfl
@[simp] theorem modArrays_changes (f : Arrays → Arrays) : (s.modArrays f).changes = s.changes := rfl
@[simp] theorem modArrays_mem (f : Arrays → Arrays) : (s.modArrays f).mem = s.mem := rfl
@[simp] theorem modArrays_poison (f : Arrays → Arrays) : (s.modArrays f).poison = s.poison := rfl
@[simp] theorem modArrays_flash (f : Arrays → Arrays) : (s.modArrays f).flash = s.flash := rfl
@[simp] theorem modArrays_tx (f : Arrays → Arrays) : (s.modArrays f).tx = s.tx := rfl
@[simp] theorem modArrays_cOut (f : Arrays → Arrays) : (s.modArrays f).cOut = s.cOut := rfl
@[simp] theorem modArrays_fOut (f : Arrays → Arrays) : (s.modArrays f).fOut = s.fOut := rfl
@[simp] theorem modArrays_draws (f : Arrays → Arrays) : (s.modArrays f).draws = s.draws := rfl
@[simp] theorem modArrays_log (f : Arrays → Arrays) : (s.modArrays f).log = s.log := rfl
@[simp] theorem modArrays_server (f : Arrays → Arrays) : (s.modArrays f).server = s.server := rfl
@[simp] theorem modArrays_firmware (f : Arrays → Arrays) : (s.modArrays f).firmware = s.firmware := rfl
@[simp] theorem modArrays_twin (f : Arrays → Arrays) : (s.modArrays f).twin = s.twin := rfl
@[simp] theorem modArrays_sensors (f : Arrays → Arrays) : (s.modArrays f).sensors = s.sensors := rfl
@[simp] theorem modArrays_tap (f : Arrays → Arrays) : (s.modArrays f).tap = s.tap := rfl
@[simp] theorem modArrays_pass (f : Arrays → Arrays) : (s.modArrays f).pass = s.pass := rfl
@[simp] theorem modArrays_couch (f : Arrays → Arrays) : (s.modArrays f).couch = s.couch := rfl
@[simp] theorem modArrays_member (f : Arrays → Arrays) : (s.modArrays f).member = s.member := rfl
@[simp] theorem modArrays_sport (f : Arrays → Arrays) : (s.modArrays f).sport = s.sport := rfl
@[simp] theorem modArrays_steer (f : Arrays → Arrays) : (s.modArrays f).steer = s.steer := rfl
@[simp] theorem modArrays_tiers (f : Arrays → Arrays) : (s.modArrays f).tiers = s.tiers := rfl
@[simp] theorem modArrays_audit (f : Arrays → Arrays) : (s.modArrays f).audit = s.audit := rfl
@[simp] theorem modArrays_prot (f : Arrays → Arrays) : (s.modArrays f).prot = s.prot := rfl
@[simp] theorem modArrays_arrays (f : Arrays → Arrays) : (s.modArrays f).arrays = f s.arrays := rfl
@[simp] theorem modArrays_red (f : Arrays → Arrays) : (s.modArrays f).red = s.red := rfl
@[simp] theorem modArrays_route (f : Arrays → Arrays) : (s.modArrays f).route = s.route := rfl
@[simp] theorem modArrays_yard (f : Arrays → Arrays) : (s.modArrays f).yard = s.yard := rfl
@[simp] theorem modArrays_exch (f : Arrays → Arrays) : (s.modArrays f).exch = s.exch := rfl

/-! ### modRed -/

@[simp] theorem modRed_pending (f : Red → Red) : (s.modRed f).pending = s.pending := rfl
@[simp] theorem modRed_hw (f : Red → Red) : (s.modRed f).hw = s.hw := rfl
@[simp] theorem modRed_sticky (f : Red → Red) : (s.modRed f).sticky = s.sticky := rfl
@[simp] theorem modRed_clock (f : Red → Red) : (s.modRed f).clock = s.clock := rfl
@[simp] theorem modRed_dict (f : Red → Red) : (s.modRed f).dict = s.dict := rfl
@[simp] theorem modRed_oct (f : Red → Red) : (s.modRed f).oct = s.oct := rfl
@[simp] theorem modRed_changes (f : Red → Red) : (s.modRed f).changes = s.changes := rfl
@[simp] theorem modRed_mem (f : Red → Red) : (s.modRed f).mem = s.mem := rfl
@[simp] theorem modRed_poison (f : Red → Red) : (s.modRed f).poison = s.poison := rfl
@[simp] theorem modRed_flash (f : Red → Red) : (s.modRed f).flash = s.flash := rfl
@[simp] theorem modRed_tx (f : Red → Red) : (s.modRed f).tx = s.tx := rfl
@[simp] theorem modRed_cOut (f : Red → Red) : (s.modRed f).cOut = s.cOut := rfl
@[simp] theorem modRed_fOut (f : Red → Red) : (s.modRed f).fOut = s.fOut := rfl
@[simp] theorem modRed_draws (f : Red → Red) : (s.modRed f).draws = s.draws := rfl
@[simp] theorem modRed_log (f : Red → Red) : (s.modRed f).log = s.log := rfl
@[simp] theorem modRed_server (f : Red → Red) : (s.modRed f).server = s.server := rfl
@[simp] theorem modRed_firmware (f : Red → Red) : (s.modRed f).firmware = s.firmware := rfl
@[simp] theorem modRed_twin (f : Red → Red) : (s.modRed f).twin = s.twin := rfl
@[simp] theorem modRed_sensors (f : Red → Red) : (s.modRed f).sensors = s.sensors := rfl
@[simp] theorem modRed_tap (f : Red → Red) : (s.modRed f).tap = s.tap := rfl
@[simp] theorem modRed_pass (f : Red → Red) : (s.modRed f).pass = s.pass := rfl
@[simp] theorem modRed_couch (f : Red → Red) : (s.modRed f).couch = s.couch := rfl
@[simp] theorem modRed_member (f : Red → Red) : (s.modRed f).member = s.member := rfl
@[simp] theorem modRed_sport (f : Red → Red) : (s.modRed f).sport = s.sport := rfl
@[simp] theorem modRed_steer (f : Red → Red) : (s.modRed f).steer = s.steer := rfl
@[simp] theorem modRed_tiers (f : Red → Red) : (s.modRed f).tiers = s.tiers := rfl
@[simp] theorem modRed_audit (f : Red → Red) : (s.modRed f).audit = s.audit := rfl
@[simp] theorem modRed_prot (f : Red → Red) : (s.modRed f).prot = s.prot := rfl
@[simp] theorem modRed_arrays (f : Red → Red) : (s.modRed f).arrays = s.arrays := rfl
@[simp] theorem modRed_red (f : Red → Red) : (s.modRed f).red = f s.red := rfl
@[simp] theorem modRed_route (f : Red → Red) : (s.modRed f).route = s.route := rfl
@[simp] theorem modRed_yard (f : Red → Red) : (s.modRed f).yard = s.yard := rfl
@[simp] theorem modRed_exch (f : Red → Red) : (s.modRed f).exch = s.exch := rfl

/-! ### modRoute -/

@[simp] theorem modRoute_pending (f : Route → Route) : (s.modRoute f).pending = s.pending := rfl
@[simp] theorem modRoute_hw (f : Route → Route) : (s.modRoute f).hw = s.hw := rfl
@[simp] theorem modRoute_sticky (f : Route → Route) : (s.modRoute f).sticky = s.sticky := rfl
@[simp] theorem modRoute_clock (f : Route → Route) : (s.modRoute f).clock = s.clock := rfl
@[simp] theorem modRoute_dict (f : Route → Route) : (s.modRoute f).dict = s.dict := rfl
@[simp] theorem modRoute_oct (f : Route → Route) : (s.modRoute f).oct = s.oct := rfl
@[simp] theorem modRoute_changes (f : Route → Route) : (s.modRoute f).changes = s.changes := rfl
@[simp] theorem modRoute_mem (f : Route → Route) : (s.modRoute f).mem = s.mem := rfl
@[simp] theorem modRoute_poison (f : Route → Route) : (s.modRoute f).poison = s.poison := rfl
@[simp] theorem modRoute_flash (f : Route → Route) : (s.modRoute f).flash = s.flash := rfl
@[simp] theorem modRoute_tx (f : Route → Route) : (s.modRoute f).tx = s.tx := rfl
@[simp] theorem modRoute_cOut (f : Route → Route) : (s.modRoute f).cOut = s.cOut := rfl
@[simp] theorem modRoute_fOut (f : Route → Route) : (s.modRoute f).fOut = s.fOut := rfl
@[simp] theorem modRoute_draws (f : Route → Route) : (s.modRoute f).draws = s.draws := rfl
@[simp] theorem modRoute_log (f : Route → Route) : (s.modRoute f).log = s.log := rfl
@[simp] theorem modRoute_server (f : Route → Route) : (s.modRoute f).server = s.server := rfl
@[simp] theorem modRoute_firmware (f : Route → Route) : (s.modRoute f).firmware = s.firmware := rfl
@[simp] theorem modRoute_twin (f : Route → Route) : (s.modRoute f).twin = s.twin := rfl
@[simp] theorem modRoute_sensors (f : Route → Route) : (s.modRoute f).sensors = s.sensors := rfl
@[simp] theorem modRoute_tap (f : Route → Route) : (s.modRoute f).tap = s.tap := rfl
@[simp] theorem modRoute_pass (f : Route → Route) : (s.modRoute f).pass = s.pass := rfl
@[simp] theorem modRoute_couch (f : Route → Route) : (s.modRoute f).couch = s.couch := rfl
@[simp] theorem modRoute_member (f : Route → Route) : (s.modRoute f).member = s.member := rfl
@[simp] theorem modRoute_sport (f : Route → Route) : (s.modRoute f).sport = s.sport := rfl
@[simp] theorem modRoute_steer (f : Route → Route) : (s.modRoute f).steer = s.steer := rfl
@[simp] theorem modRoute_tiers (f : Route → Route) : (s.modRoute f).tiers = s.tiers := rfl
@[simp] theorem modRoute_audit (f : Route → Route) : (s.modRoute f).audit = s.audit := rfl
@[simp] theorem modRoute_prot (f : Route → Route) : (s.modRoute f).prot = s.prot := rfl
@[simp] theorem modRoute_arrays (f : Route → Route) : (s.modRoute f).arrays = s.arrays := rfl
@[simp] theorem modRoute_red (f : Route → Route) : (s.modRoute f).red = s.red := rfl
@[simp] theorem modRoute_route (f : Route → Route) : (s.modRoute f).route = f s.route := rfl
@[simp] theorem modRoute_yard (f : Route → Route) : (s.modRoute f).yard = s.yard := rfl
@[simp] theorem modRoute_exch (f : Route → Route) : (s.modRoute f).exch = s.exch := rfl

/-! ### modYard -/

@[simp] theorem modYard_pending (f : Yard → Yard) : (s.modYard f).pending = s.pending := rfl
@[simp] theorem modYard_hw (f : Yard → Yard) : (s.modYard f).hw = s.hw := rfl
@[simp] theorem modYard_sticky (f : Yard → Yard) : (s.modYard f).sticky = s.sticky := rfl
@[simp] theorem modYard_clock (f : Yard → Yard) : (s.modYard f).clock = s.clock := rfl
@[simp] theorem modYard_dict (f : Yard → Yard) : (s.modYard f).dict = s.dict := rfl
@[simp] theorem modYard_oct (f : Yard → Yard) : (s.modYard f).oct = s.oct := rfl
@[simp] theorem modYard_changes (f : Yard → Yard) : (s.modYard f).changes = s.changes := rfl
@[simp] theorem modYard_mem (f : Yard → Yard) : (s.modYard f).mem = s.mem := rfl
@[simp] theorem modYard_poison (f : Yard → Yard) : (s.modYard f).poison = s.poison := rfl
@[simp] theorem modYard_flash (f : Yard → Yard) : (s.modYard f).flash = s.flash := rfl
@[simp] theorem modYard_tx (f : Yard → Yard) : (s.modYard f).tx = s.tx := rfl
@[simp] theorem modYard_cOut (f : Yard → Yard) : (s.modYard f).cOut = s.cOut := rfl
@[simp] theorem modYard_fOut (f : Yard → Yard) : (s.modYard f).fOut = s.fOut := rfl
@[simp] theorem modYard_draws (f : Yard → Yard) : (s.modYard f).draws = s.draws := rfl
@[simp] theorem modYard_log (f : Yard → Yard) : (s.modYard f).log = s.log := rfl
@[simp] theorem modYard_server (f : Yard → Yard) : (s.modYard f).server = s.server := rfl
@[simp] theorem modYard_firmware (f : Yard → Yard) : (s.modYard f).firmware = s.firmware := rfl
@[simp] theorem modYard_twin (f : Yard → Yard) : (s.modYard f).twin = s.twin := rfl
@[simp] theorem modYard_sensors (f : Yard → Yard) : (s.modYard f).sensors = s.sensors := rfl
@[simp] theorem modYard_tap (f : Yard → Yard) : (s.modYard f).tap = s.tap := rfl
@[simp] theorem modYard_pass (f : Yard → Yard) : (s.modYard f).pass = s.pass := rfl
@[simp] theorem modYard_couch (f : Yard → Yard) : (s.modYard f).couch = s.couch := rfl
@[simp] theorem modYard_member (f : Yard → Yard) : (s.modYard f).member = s.member := rfl
@[simp] theorem modYard_sport (f : Yard → Yard) : (s.modYard f).sport = s.sport := rfl
@[simp] theorem modYard_steer (f : Yard → Yard) : (s.modYard f).steer = s.steer := rfl
@[simp] theorem modYard_tiers (f : Yard → Yard) : (s.modYard f).tiers = s.tiers := rfl
@[simp] theorem modYard_audit (f : Yard → Yard) : (s.modYard f).audit = s.audit := rfl
@[simp] theorem modYard_prot (f : Yard → Yard) : (s.modYard f).prot = s.prot := rfl
@[simp] theorem modYard_arrays (f : Yard → Yard) : (s.modYard f).arrays = s.arrays := rfl
@[simp] theorem modYard_red (f : Yard → Yard) : (s.modYard f).red = s.red := rfl
@[simp] theorem modYard_route (f : Yard → Yard) : (s.modYard f).route = s.route := rfl
@[simp] theorem modYard_yard (f : Yard → Yard) : (s.modYard f).yard = f s.yard := rfl
@[simp] theorem modYard_exch (f : Yard → Yard) : (s.modYard f).exch = s.exch := rfl

/-! ### modExch -/

@[simp] theorem modExch_pending (f : Exch → Exch) : (s.modExch f).pending = s.pending := rfl
@[simp] theorem modExch_hw (f : Exch → Exch) : (s.modExch f).hw = s.hw := rfl
@[simp] theorem modExch_sticky (f : Exch → Exch) : (s.modExch f).sticky = s.sticky := rfl
@[simp] theorem modExch_clock (f : Exch → Exch) : (s.modExch f).clock = s.clock := rfl
@[simp] theorem modExch_dict (f : Exch → Exch) : (s.modExch f).dict = s.dict := rfl
@[simp] theorem modExch_oct (f : Exch → Exch) : (s.modExch f).oct = s.oct := rfl
@[simp] theorem modExch_changes (f : Exch → Exch) : (s.modExch f).changes = s.changes := rfl
@[simp] theorem modExch_mem (f : Exch → Exch) : (s.modExch f).mem = s.mem := rfl
@[simp] theorem modExch_poison (f : Exch → Exch) : (s.modExch f).poison = s.poison := rfl
@[simp] theorem modExch_flash (f : Exch → Exch) : (s.modExch f).flash = s.flash := rfl
@[simp] theorem modExch_tx (f : Exch → Exch) : (s.modExch f).tx = s.tx := rfl
@[simp] theorem modExch_cOut (f : Exch → Exch) : (s.modExch f).cOut = s.cOut := rfl
@[simp] theorem modExch_fOut (f : Exch → Exch) : (s.modExch f).fOut = s.fOut := rfl
@[simp] theorem modExch_draws (f : Exch → Exch) : (s.modExch f).draws = s.draws := rfl
@[simp] theorem modExch_log (f : Exch → Exch) : (s.modExch f).log = s.log := rfl
@[simp] theorem modExch_server (f : Exch → Exch) : (s.modExch f).server = s.server := rfl
@[simp] theorem modExch_firmware (f : Exch → Exch) : (s.modExch f).firmware = s.firmware := rfl
@[simp] theorem modExch_twin (f : Exch → Exch) : (s.modExch f).twin = s.twin := rfl
@[simp] theorem modExch_sensors (f : Exch → Exch) : (s.modExch f).sensors = s.sensors := rfl
@[simp] theorem modExch_tap (f : Exch → Exch) : (s.modExch f).tap = s.tap := rfl
@[simp] theorem modExch_pass (f : Exch → Exch) : (s.modExch f).pass = s.pass := rfl
@[simp] theorem modExch_couch (f : Exch → Exch) : (s.modExch f).couch = s.couch := rfl
@[simp] theorem modExch_member (f : Exch → Exch) : (s.modExch f).member = s.member := rfl
@[simp] theorem modExch_sport (f : Exch → Exch) : (s.modExch f).sport = s.sport := rfl
@[simp] theorem modExch_steer (f : Exch → Exch) : (s.modExch f).steer = s.steer := rfl
@[simp] theorem modExch_tiers (f : Exch → Exch) : (s.modExch f).tiers = s.tiers := rfl
@[simp] theorem modExch_audit (f : Exch → Exch) : (s.modExch f).audit = s.audit := rfl
@[simp] theorem modExch_prot (f : Exch → Exch) : (s.modExch f).prot = s.prot := rfl
@[simp] theorem modExch_arrays (f : Exch → Exch) : (s.modExch f).arrays = s.arrays := rfl
@[simp] theorem modExch_red (f : Exch → Exch) : (s.modExch f).red = s.red := rfl
@[simp] theorem modExch_route (f : Exch → Exch) : (s.modExch f).route = s.route := rfl
@[simp] theorem modExch_yard (f : Exch → Exch) : (s.modExch f).yard = s.yard := rfl
@[simp] theorem modExch_exch (f : Exch → Exch) : (s.modExch f).exch = f s.exch := rfl

/-! ### send -/

@[simp] theorem send_pending (t : Tx) : (s.send t).pending = s.pending := by
  unfold send
  split <;> rfl
@[simp] theorem send_hw (t : Tx) : (s.send t).hw = s.hw := by
  unfold send
  split <;> rfl
@[simp] theorem send_sticky (t : Tx) : (s.send t).sticky = s.sticky := by
  unfold send
  split <;> rfl
@[simp] theorem send_clock (t : Tx) : (s.send t).clock = s.clock := by
  unfold send
  split <;> rfl
@[simp] theorem send_dict (t : Tx) : (s.send t).dict = s.dict := by
  unfold send
  split <;> rfl
@[simp] theorem send_oct (t : Tx) : (s.send t).oct = s.oct := by
  unfold send
  split <;> rfl
@[simp] theorem send_changes (t : Tx) : (s.send t).changes = s.changes := by
  unfold send
  split <;> rfl
@[simp] theorem send_mem (t : Tx) : (s.send t).mem = s.mem := by
  unfold send
  split <;> rfl
@[simp] theorem send_poison (t : Tx) : (s.send t).poison = s.poison := by
  unfold send
  split <;> rfl
@[simp] theorem send_flash (t : Tx) : (s.send t).flash = s.flash := by
  unfold send
  split <;> rfl
@[simp] theorem send_tx (t : Tx) :
    (s.send t).tx = if s.muted ∧ t.srcPort = 45306 ∧ fld t.f 0 1 ≠ 0x28 then s.tx else s.tx ++ [t] := by
  unfold send
  split <;> rfl
@[simp] theorem send_cOut (t : Tx) : (s.send t).cOut = s.cOut := by
  unfold send
  split <;> rfl
@[simp] theorem send_fOut (t : Tx) : (s.send t).fOut = s.fOut := by
  unfold send
  split <;> rfl
@[simp] theorem send_draws (t : Tx) : (s.send t).draws = s.draws := by
  unfold send
  split <;> rfl
@[simp] theorem send_log (t : Tx) : (s.send t).log = s.log := by
  unfold send
  split <;> rfl
@[simp] theorem send_server (t : Tx) : (s.send t).server = s.server := by
  unfold send
  split <;> rfl
@[simp] theorem send_firmware (t : Tx) : (s.send t).firmware = s.firmware := by
  unfold send
  split <;> rfl
@[simp] theorem send_twin (t : Tx) : (s.send t).twin = s.twin := by
  unfold send
  split <;> rfl
@[simp] theorem send_sensors (t : Tx) : (s.send t).sensors = s.sensors := by
  unfold send
  split <;> rfl
@[simp] theorem send_tap (t : Tx) : (s.send t).tap = s.tap := by
  unfold send
  split <;> rfl
@[simp] theorem send_pass (t : Tx) : (s.send t).pass = s.pass := by
  unfold send
  split <;> rfl
@[simp] theorem send_couch (t : Tx) : (s.send t).couch = s.couch := by
  unfold send
  split <;> rfl
@[simp] theorem send_member (t : Tx) : (s.send t).member = s.member := by
  unfold send
  split <;> rfl
@[simp] theorem send_sport (t : Tx) : (s.send t).sport = s.sport := by
  unfold send
  split <;> rfl
@[simp] theorem send_steer (t : Tx) : (s.send t).steer = s.steer := by
  unfold send
  split <;> rfl
@[simp] theorem send_tiers (t : Tx) : (s.send t).tiers = s.tiers := by
  unfold send
  split <;> rfl
@[simp] theorem send_audit (t : Tx) : (s.send t).audit = s.audit := by
  unfold send
  split <;> rfl
@[simp] theorem send_prot (t : Tx) : (s.send t).prot = s.prot := by
  unfold send
  split <;> rfl
@[simp] theorem send_arrays (t : Tx) : (s.send t).arrays = s.arrays := by
  unfold send
  split <;> rfl
@[simp] theorem send_red (t : Tx) : (s.send t).red = s.red := by
  unfold send
  split <;> rfl
@[simp] theorem send_route (t : Tx) : (s.send t).route = s.route := by
  unfold send
  split <;> rfl
@[simp] theorem send_yard (t : Tx) : (s.send t).yard = s.yard := by
  unfold send
  split <;> rfl
@[simp] theorem send_exch (t : Tx) : (s.send t).exch = s.exch := by
  unfold send
  split <;> rfl

/-! ### keepRec -/

@[simp] theorem keepRec_pending (r : EvRec) : (s.keepRec r).pending = s.pending := rfl
@[simp] theorem keepRec_hw (r : EvRec) : (s.keepRec r).hw = s.hw := rfl
@[simp] theorem keepRec_sticky (r : EvRec) : (s.keepRec r).sticky = s.sticky := rfl
@[simp] theorem keepRec_clock (r : EvRec) : (s.keepRec r).clock = s.clock := rfl
@[simp] theorem keepRec_dict (r : EvRec) : (s.keepRec r).dict = s.dict := rfl
@[simp] theorem keepRec_oct (r : EvRec) : (s.keepRec r).oct = s.oct := rfl
@[simp] theorem keepRec_changes (r : EvRec) : (s.keepRec r).changes = s.changes := rfl
@[simp] theorem keepRec_mem (r : EvRec) : (s.keepRec r).mem = s.mem := rfl
@[simp] theorem keepRec_poison (r : EvRec) : (s.keepRec r).poison = s.poison := rfl
@[simp] theorem keepRec_flash (r : EvRec) : (s.keepRec r).flash = s.flash := rfl
@[simp] theorem keepRec_tx (r : EvRec) : (s.keepRec r).tx = s.tx := rfl
@[simp] theorem keepRec_cOut (r : EvRec) : (s.keepRec r).cOut = s.cOut := rfl
@[simp] theorem keepRec_fOut (r : EvRec) : (s.keepRec r).fOut = s.fOut := rfl
@[simp] theorem keepRec_draws (r : EvRec) : (s.keepRec r).draws = s.draws := rfl
@[simp] theorem keepRec_server (r : EvRec) : (s.keepRec r).server = s.server := rfl
@[simp] theorem keepRec_firmware (r : EvRec) : (s.keepRec r).firmware = s.firmware := rfl
@[simp] theorem keepRec_twin (r : EvRec) : (s.keepRec r).twin = s.twin := rfl
@[simp] theorem keepRec_sensors (r : EvRec) : (s.keepRec r).sensors = s.sensors := rfl
@[simp] theorem keepRec_tap (r : EvRec) : (s.keepRec r).tap = s.tap := rfl
@[simp] theorem keepRec_pass (r : EvRec) : (s.keepRec r).pass = s.pass := rfl
@[simp] theorem keepRec_couch (r : EvRec) : (s.keepRec r).couch = s.couch := rfl
@[simp] theorem keepRec_member (r : EvRec) : (s.keepRec r).member = s.member := rfl
@[simp] theorem keepRec_sport (r : EvRec) : (s.keepRec r).sport = s.sport := rfl
@[simp] theorem keepRec_steer (r : EvRec) : (s.keepRec r).steer = s.steer := rfl
@[simp] theorem keepRec_tiers (r : EvRec) : (s.keepRec r).tiers = s.tiers := rfl
@[simp] theorem keepRec_audit (r : EvRec) : (s.keepRec r).audit = s.audit := rfl
@[simp] theorem keepRec_prot (r : EvRec) : (s.keepRec r).prot = s.prot := rfl
@[simp] theorem keepRec_arrays (r : EvRec) : (s.keepRec r).arrays = s.arrays := rfl
@[simp] theorem keepRec_red (r : EvRec) : (s.keepRec r).red = s.red := rfl
@[simp] theorem keepRec_route (r : EvRec) : (s.keepRec r).route = s.route := rfl
@[simp] theorem keepRec_yard (r : EvRec) : (s.keepRec r).yard = s.yard := rfl
@[simp] theorem keepRec_exch (r : EvRec) : (s.keepRec r).exch = s.exch := rfl

/-! ### fIssue -/

@[simp] theorem fIssue_pending (u st : Nat) (w : Bool) (lba n : Nat) (d : Bytes) : (s.fIssue u st w lba n d).pending = s.pending := rfl
@[simp] theorem fIssue_hw (u st : Nat) (w : Bool) (lba n : Nat) (d : Bytes) : (s.fIssue u st w lba n d).hw = s.hw := rfl
@[simp] theorem fIssue_sticky (u st : Nat) (w : Bool) (lba n : Nat) (d : Bytes) : (s.fIssue u st w lba n d).sticky = s.sticky := rfl
@[simp] theorem fIssue_clock (u st : Nat) (w : Bool) (lba n : Nat) (d : Bytes) : (s.fIssue u st w lba n d).clock = s.clock := rfl
@[simp] theorem fIssue_dict (u st : Nat) (w : Bool) (lba n : Nat) (d : Bytes) : (s.fIssue u st w lba n d).dict = s.dict := rfl
@[simp] theorem fIssue_oct (u st : Nat) (w : Bool) (lba n : Nat) (d : Bytes) : (s.fIssue u st w lba n d).oct = s.oct := rfl
@[simp] theorem fIssue_changes (u st : Nat) (w : Bool) (lba n : Nat) (d : Bytes) : (s.fIssue u st w lba n d).changes = s.changes := rfl
@[simp] theorem fIssue_mem (u st : Nat) (w : Bool) (lba n : Nat) (d : Bytes) : (s.fIssue u st w lba n d).mem = s.mem := rfl
@[simp] theorem fIssue_poison (u st : Nat) (w : Bool) (lba n : Nat) (d : Bytes) : (s.fIssue u st w lba n d).poison = s.poison := rfl
@[simp] theorem fIssue_flash (u st : Nat) (w : Bool) (lba n : Nat) (d : Bytes) : (s.fIssue u st w lba n d).flash = s.flash := rfl
@[simp] theorem fIssue_tx (u st : Nat) (w : Bool) (lba n : Nat) (d : Bytes) : (s.fIssue u st w lba n d).tx = s.tx := rfl
@[simp] theorem fIssue_cOut (u st : Nat) (w : Bool) (lba n : Nat) (d : Bytes) : (s.fIssue u st w lba n d).cOut = s.cOut := rfl
@[simp] theorem fIssue_draws (u st : Nat) (w : Bool) (lba n : Nat) (d : Bytes) : (s.fIssue u st w lba n d).draws = s.draws := rfl
@[simp] theorem fIssue_log (u st : Nat) (w : Bool) (lba n : Nat) (d : Bytes) : (s.fIssue u st w lba n d).log = s.log := rfl
@[simp] theorem fIssue_server (u st : Nat) (w : Bool) (lba n : Nat) (d : Bytes) : (s.fIssue u st w lba n d).server = s.server := rfl
@[simp] theorem fIssue_firmware (u st : Nat) (w : Bool) (lba n : Nat) (d : Bytes) : (s.fIssue u st w lba n d).firmware = s.firmware := rfl
@[simp] theorem fIssue_twin (u st : Nat) (w : Bool) (lba n : Nat) (d : Bytes) : (s.fIssue u st w lba n d).twin = s.twin := rfl
@[simp] theorem fIssue_sensors (u st : Nat) (w : Bool) (lba n : Nat) (d : Bytes) : (s.fIssue u st w lba n d).sensors = s.sensors := rfl
@[simp] theorem fIssue_tap (u st : Nat) (w : Bool) (lba n : Nat) (d : Bytes) : (s.fIssue u st w lba n d).tap = s.tap := rfl
@[simp] theorem fIssue_pass (u st : Nat) (w : Bool) (lba n : Nat) (d : Bytes) : (s.fIssue u st w lba n d).pass = s.pass := rfl
@[simp] theorem fIssue_couch (u st : Nat) (w : Bool) (lba n : Nat) (d : Bytes) : (s.fIssue u st w lba n d).couch = s.couch := rfl
@[simp] theorem fIssue_member (u st : Nat) (w : Bool) (lba n : Nat) (d : Bytes) : (s.fIssue u st w lba n d).member = s.member := rfl
@[simp] theorem fIssue_sport (u st : Nat) (w : Bool) (lba n : Nat) (d : Bytes) : (s.fIssue u st w lba n d).sport = s.sport := rfl
@[simp] theorem fIssue_steer (u st : Nat) (w : Bool) (lba n : Nat) (d : Bytes) : (s.fIssue u st w lba n d).steer = s.steer := rfl
@[simp] theorem fIssue_tiers (u st : Nat) (w : Bool) (lba n : Nat) (d : Bytes) : (s.fIssue u st w lba n d).tiers = s.tiers := rfl
@[simp] theorem fIssue_audit (u st : Nat) (w : Bool) (lba n : Nat) (d : Bytes) : (s.fIssue u st w lba n d).audit = s.audit := rfl
@[simp] theorem fIssue_prot (u st : Nat) (w : Bool) (lba n : Nat) (d : Bytes) : (s.fIssue u st w lba n d).prot = s.prot := rfl
@[simp] theorem fIssue_arrays (u st : Nat) (w : Bool) (lba n : Nat) (d : Bytes) : (s.fIssue u st w lba n d).arrays = s.arrays := rfl
@[simp] theorem fIssue_red (u st : Nat) (w : Bool) (lba n : Nat) (d : Bytes) : (s.fIssue u st w lba n d).red = s.red := rfl
@[simp] theorem fIssue_route (u st : Nat) (w : Bool) (lba n : Nat) (d : Bytes) : (s.fIssue u st w lba n d).route = s.route := rfl
@[simp] theorem fIssue_yard (u st : Nat) (w : Bool) (lba n : Nat) (d : Bytes) : (s.fIssue u st w lba n d).yard = s.yard := rfl
@[simp] theorem fIssue_exch (u st : Nat) (w : Bool) (lba n : Nat) (d : Bytes) : (s.fIssue u st w lba n d).exch = s.exch := rfl

/-! ### mwr -/

@[simp] theorem mwr_pending (a : Nat) (bs : Bytes) : (s.mwr a bs).pending = s.pending := rfl
@[simp] theorem mwr_hw (a : Nat) (bs : Bytes) : (s.mwr a bs).hw = s.hw := rfl
@[simp] theorem mwr_sticky (a : Nat) (bs : Bytes) : (s.mwr a bs).sticky = s.sticky := rfl
@[simp] theorem mwr_clock (a : Nat) (bs : Bytes) : (s.mwr a bs).clock = s.clock := rfl
@[simp] theorem mwr_dict (a : Nat) (bs : Bytes) : (s.mwr a bs).dict = s.dict := rfl
@[simp] theorem mwr_oct (a : Nat) (bs : Bytes) : (s.mwr a bs).oct = s.oct := rfl
@[simp] theorem mwr_changes (a : Nat) (bs : Bytes) : (s.mwr a bs).changes = s.changes := rfl
@[simp] theorem mwr_flash (a : Nat) (bs : Bytes) : (s.mwr a bs).flash = s.flash := rfl
@[simp] theorem mwr_tx (a : Nat) (bs : Bytes) : (s.mwr a bs).tx = s.tx := rfl
@[simp] theorem mwr_cOut (a : Nat) (bs : Bytes) : (s.mwr a bs).cOut = s.cOut := rfl
@[simp] theorem mwr_fOut (a : Nat) (bs : Bytes) : (s.mwr a bs).fOut = s.fOut := rfl
@[simp] theorem mwr_draws (a : Nat) (bs : Bytes) : (s.mwr a bs).draws = s.draws := rfl
@[simp] theorem mwr_log (a : Nat) (bs : Bytes) : (s.mwr a bs).log = s.log := rfl
@[simp] theorem mwr_server (a : Nat) (bs : Bytes) : (s.mwr a bs).server = s.server := rfl
@[simp] theorem mwr_firmware (a : Nat) (bs : Bytes) : (s.mwr a bs).firmware = s.firmware := rfl
@[simp] theorem mwr_twin (a : Nat) (bs : Bytes) : (s.mwr a bs).twin = s.twin := rfl
@[simp] theorem mwr_sensors (a : Nat) (bs : Bytes) : (s.mwr a bs).sensors = s.sensors := rfl
@[simp] theorem mwr_tap (a : Nat) (bs : Bytes) : (s.mwr a bs).tap = s.tap := rfl
@[simp] theorem mwr_pass (a : Nat) (bs : Bytes) : (s.mwr a bs).pass = s.pass := rfl
@[simp] theorem mwr_couch (a : Nat) (bs : Bytes) : (s.mwr a bs).couch = s.couch := rfl
@[simp] theorem mwr_member (a : Nat) (bs : Bytes) : (s.mwr a bs).member = s.member := rfl
@[simp] theorem mwr_sport (a : Nat) (bs : Bytes) : (s.mwr a bs).sport = s.sport := rfl
@[simp] theorem mwr_steer (a : Nat) (bs : Bytes) : (s.mwr a bs).steer = s.steer := rfl
@[simp] theorem mwr_tiers (a : Nat) (bs : Bytes) : (s.mwr a bs).tiers = s.tiers := rfl
@[simp] theorem mwr_audit (a : Nat) (bs : Bytes) : (s.mwr a bs).audit = s.audit := rfl
@[simp] theorem mwr_prot (a : Nat) (bs : Bytes) : (s.mwr a bs).prot = s.prot := rfl
@[simp] theorem mwr_arrays (a : Nat) (bs : Bytes) : (s.mwr a bs).arrays = s.arrays := rfl
@[simp] theorem mwr_red (a : Nat) (bs : Bytes) : (s.mwr a bs).red = s.red := rfl
@[simp] theorem mwr_route (a : Nat) (bs : Bytes) : (s.mwr a bs).route = s.route := rfl
@[simp] theorem mwr_yard (a : Nat) (bs : Bytes) : (s.mwr a bs).yard = s.yard := rfl
@[simp] theorem mwr_exch (a : Nat) (bs : Bytes) : (s.mwr a bs).exch = s.exch := rfl

/-! ### bump, wr, incBy, inc, wrO and wrOf -/

@[simp] theorem bump_pending (k : Nat) : (s.bump k).pending = s.pending := by
  unfold bump
  split <;> rfl
@[simp] theorem bump_hw (k : Nat) : (s.bump k).hw = s.hw := by
  unfold bump
  split <;> rfl
@[simp] theorem bump_sticky (k : Nat) : (s.bump k).sticky = s.sticky := by
  unfold bump
  split <;> rfl
@[simp] theorem bump_clock (k : Nat) : (s.bump k).clock = s.clock := by
  unfold bump
  split <;> rfl
@[simp] theorem bump_dict (k : Nat) : (s.bump k).dict = s.dict := by
  unfold bump
  split <;> rfl
@[simp] theorem bump_oct (k : Nat) : (s.bump k).oct = s.oct := by
  unfold bump
  split <;> rfl
@[simp] theorem bump_mem (k : Nat) : (s.bump k).mem = s.mem := by
  unfold bump
  split <;> rfl
@[simp] theorem bump_poison (k : Nat) : (s.bump k).poison = s.poison := by
  unfold bump
  split <;> rfl
@[simp] theorem bump_flash (k : Nat) : (s.bump k).flash = s.flash := by
  unfold bump
  split <;> rfl
@[simp] theorem bump_tx (k : Nat) : (s.bump k).tx = s.tx := by
  unfold bump
  split <;> rfl
@[simp] theorem bump_cOut (k : Nat) : (s.bump k).cOut = s.cOut := by
  unfold bump
  split <;> rfl
@[simp] theorem bump_fOut (k : Nat) : (s.bump k).fOut = s.fOut := by
  unfold bump
  split <;> rfl
@[simp] theorem bump_draws (k : Nat) : (s.bump k).draws = s.draws := by
  unfold bump
  split <;> rfl
@[simp] theorem bump_log (k : Nat) : (s.bump k).log = s.log := by
  unfold bump
  split <;> rfl
@[simp] theorem bump_server (k : Nat) : (s.bump k).server = s.server := by
  unfold bump
  split <;> rfl
@[simp] theorem bump_firmware (k : Nat) : (s.bump k).firmware = s.firmware := by
  unfold bump
  split <;> rfl
@[simp] theorem bump_twin (k : Nat) : (s.bump k).twin = s.twin := by
  unfold bump
  split <;> rfl
@[simp] theorem bump_sensors (k : Nat) : (s.bump k).sensors = s.sensors := by
  unfold bump
  split <;> rfl
@[simp] theorem bump_tap (k : Nat) : (s.bump k).tap = s.tap := by
  unfold bump
  split <;> rfl
@[simp] theorem bump_pass (k : Nat) : (s.bump k).pass = s.pass := by
  unfold bump
  split <;> rfl
@[simp] theorem bump_couch (k : Nat) : (s.bump k).couch = s.couch := by
  unfold bump
  split <;> rfl
@[simp] theorem bump_member (k : Nat) : (s.bump k).member = s.member := by
  unfold bump
  split <;> rfl
@[simp] theorem bump_sport (k : Nat) : (s.bump k).sport = s.sport := by
  unfold bump
  split <;> rfl
@[simp] theorem bump_steer (k : Nat) : (s.bump k).steer = s.steer := by
  unfold bump
  split <;> rfl
@[simp] theorem bump_tiers (k : Nat) : (s.bump k).tiers = s.tiers := by
  unfold bump
  split <;> rfl
@[simp] theorem bump_audit (k : Nat) : (s.bump k).audit = s.audit := by
  unfold bump
  split <;> rfl
@[simp] theorem bump_prot (k : Nat) : (s.bump k).prot = s.prot := by
  unfold bump
  split <;> rfl
@[simp] theorem bump_arrays (k : Nat) : (s.bump k).arrays = s.arrays := by
  unfold bump
  split <;> rfl
@[simp] theorem bump_red (k : Nat) : (s.bump k).red = s.red := by
  unfold bump
  split <;> rfl
@[simp] theorem bump_route (k : Nat) : (s.bump k).route = s.route := by
  unfold bump
  split <;> rfl
@[simp] theorem bump_yard (k : Nat) : (s.bump k).yard = s.yard := by
  unfold bump
  split <;> rfl
@[simp] theorem bump_exch (k : Nat) : (s.bump k).exch = s.exch := by
  unfold bump
  split <;> rfl
@[simp] theorem wr_pending (k v : Nat) : (s.wr k v).pending = s.pending := by
  unfold wr
  split
  · rfl
  · simp only [bump_pending]
@[simp] theorem incBy_pending (k n : Nat) : (s.incBy k n).pending = s.pending := wr_pending ..
@[simp] theorem inc_pending (k : Nat) : (s.inc k).pending = s.pending := wr_pending ..
@[simp] theorem wr_hw (k v : Nat) : (s.wr k v).hw = s.hw := by
  unfold wr
  split
  · rfl
  · simp only [bump_hw]
@[simp] theorem incBy_hw (k n : Nat) : (s.incBy k n).hw = s.hw := wr_hw ..
@[simp] theorem inc_hw (k : Nat) : (s.inc k).hw = s.hw := wr_hw ..
@[simp] theorem wr_sticky (k v : Nat) : (s.wr k v).sticky = s.sticky := by
  unfold wr
  split
  · rfl
  · simp only [bump_sticky]
@[simp] theorem incBy_sticky (k n : Nat) : (s.incBy k n).sticky = s.sticky := wr_sticky ..
@[simp] theorem inc_sticky (k : Nat) : (s.inc k).sticky = s.sticky := wr_sticky ..
@[simp] theorem wr_clock (k v : Nat) : (s.wr k v).clock = s.clock := by
  unfold wr
  split
  · rfl
  · simp only [bump_clock]
@[simp] theorem incBy_clock (k n : Nat) : (s.incBy k n).clock = s.clock := wr_clock ..
@[simp] theorem inc_clock (k : Nat) : (s.inc k).clock = s.clock := wr_clock ..
@[simp] theorem wr_oct (k v : Nat) : (s.wr k v).oct = s.oct := by
  unfold wr
  split
  · rfl
  · simp only [bump_oct]
@[simp] theorem incBy_oct (k n : Nat) : (s.incBy k n).oct = s.oct := wr_oct ..
@[simp] theorem inc_oct (k : Nat) : (s.inc k).oct = s.oct := wr_oct ..
@[simp] theorem wr_mem (k v : Nat) : (s.wr k v).mem = s.mem := by
  unfold wr
  split
  · rfl
  · simp only [bump_mem]
@[simp] theorem incBy_mem (k n : Nat) : (s.incBy k n).mem = s.mem := wr_mem ..
@[simp] theorem inc_mem (k : Nat) : (s.inc k).mem = s.mem := wr_mem ..
@[simp] theorem wr_poison (k v : Nat) : (s.wr k v).poison = s.poison := by
  unfold wr
  split
  · rfl
  · simp only [bump_poison]
@[simp] theorem incBy_poison (k n : Nat) : (s.incBy k n).poison = s.poison := wr_poison ..
@[simp] theorem inc_poison (k : Nat) : (s.inc k).poison = s.poison := wr_poison ..
@[simp] theorem wr_flash (k v : Nat) : (s.wr k v).flash = s.flash := by
  unfold wr
  split
  · rfl
  · simp only [bump_flash]
@[simp] theorem incBy_flash (k n : Nat) : (s.incBy k n).flash = s.flash := wr_flash ..
@[simp] theorem inc_flash (k : Nat) : (s.inc k).flash = s.flash := wr_flash ..
@[simp] theorem wr_tx (k v : Nat) : (s.wr k v).tx = s.tx := by
  unfold wr
  split
  · rfl
  · simp only [bump_tx]
@[simp] theorem incBy_tx (k n : Nat) : (s.incBy k n).tx = s.tx := wr_tx ..
@[simp] theorem inc_tx (k : Nat) : (s.inc k).tx = s.tx := wr_tx ..
@[simp] theorem wr_cOut (k v : Nat) : (s.wr k v).cOut = s.cOut := by
  unfold wr
  split
  · rfl
  · simp only [bump_cOut]
@[simp] theorem incBy_cOut (k n : Nat) : (s.incBy k n).cOut = s.cOut := wr_cOut ..
@[simp] theorem inc_cOut (k : Nat) : (s.inc k).cOut = s.cOut := wr_cOut ..
@[simp] theorem wr_fOut (k v : Nat) : (s.wr k v).fOut = s.fOut := by
  unfold wr
  split
  · rfl
  · simp only [bump_fOut]
@[simp] theorem incBy_fOut (k n : Nat) : (s.incBy k n).fOut = s.fOut := wr_fOut ..
@[simp] theorem inc_fOut (k : Nat) : (s.inc k).fOut = s.fOut := wr_fOut ..
@[simp] theorem wr_draws (k v : Nat) : (s.wr k v).draws = s.draws := by
  unfold wr
  split
  · rfl
  · simp only [bump_draws]
@[simp] theorem incBy_draws (k n : Nat) : (s.incBy k n).draws = s.draws := wr_draws ..
@[simp] theorem inc_draws (k : Nat) : (s.inc k).draws = s.draws := wr_draws ..
@[simp] theorem wr_log (k v : Nat) : (s.wr k v).log = s.log := by
  unfold wr
  split
  · rfl
  · simp only [bump_log]
@[simp] theorem incBy_log (k n : Nat) : (s.incBy k n).log = s.log := wr_log ..
@[simp] theorem inc_log (k : Nat) : (s.inc k).log = s.log := wr_log ..
@[simp] theorem wr_server (k v : Nat) : (s.wr k v).server = s.server := by
  unfold wr
  split
  · rfl
  · simp only [bump_server]
@[simp] theorem incBy_server (k n : Nat) : (s.incBy k n).server = s.server := wr_server ..
@[simp] theorem inc_server (k : Nat) : (s.inc k).server = s.server := wr_server ..
@[simp] theorem wr_firmware (k v : Nat) : (s.wr k v).firmware = s.firmware := by
  unfold wr
  split
  · rfl
  · simp only [bump_firmware]
@[simp] theorem incBy_firmware (k n : Nat) : (s.incBy k n).firmware = s.firmware := wr_firmware ..
@[simp] theorem inc_firmware (k : Nat) : (s.inc k).firmware = s.firmware := wr_firmware ..
@[simp] theorem wr_twin (k v : Nat) : (s.wr k v).twin = s.twin := by
  unfold wr
  split
  · rfl
  · simp only [bump_twin]
@[simp] theorem incBy_twin (k n : Nat) : (s.incBy k n).twin = s.twin := wr_twin ..
@[simp] theorem inc_twin (k : Nat) : (s.inc k).twin = s.twin := wr_twin ..
@[simp] theorem wr_sensors (k v : Nat) : (s.wr k v).sensors = s.sensors := by
  unfold wr
  split
  · rfl
  · simp only [bump_sensors]
@[simp] theorem incBy_sensors (k n : Nat) : (s.incBy k n).sensors = s.sensors := wr_sensors ..
@[simp] theorem inc_sensors (k : Nat) : (s.inc k).sensors = s.sensors := wr_sensors ..
@[simp] theorem wr_tap (k v : Nat) : (s.wr k v).tap = s.tap := by
  unfold wr
  split
  · rfl
  · simp only [bump_tap]
@[simp] theorem incBy_tap (k n : Nat) : (s.incBy k n).tap = s.tap := wr_tap ..
@[simp] theorem inc_tap (k : Nat) : (s.inc k).tap = s.tap := wr_tap ..
@[simp] theorem wr_pass (k v : Nat) : (s.wr k v).pass = s.pass := by
  unfold wr
  split
  · rfl
  · simp only [bump_pass]
@[simp] theorem incBy_pass (k n : Nat) : (s.incBy k n).pass = s.pass := wr_pass ..
@[simp] theorem inc_pass (k : Nat) : (s.inc k).pass = s.pass := wr_pass ..
@[simp] theorem wr_couch (k v : Nat) : (s.wr k v).couch = s.couch := by
  unfold wr
  split
  · rfl
  · simp only [bump_couch]
@[simp] theorem incBy_couch (k n : Nat) : (s.incBy k n).couch = s.couch := wr_couch ..
@[simp] theorem inc_couch (k : Nat) : (s.inc k).couch = s.couch := wr_couch ..
@[simp] theorem wr_member (k v : Nat) : (s.wr k v).member = s.member := by
  unfold wr
  split
  · rfl
  · simp only [bump_member]
@[simp] theorem incBy_member (k n : Nat) : (s.incBy k n).member = s.member := wr_member ..
@[simp] theorem inc_member (k : Nat) : (s.inc k).member = s.member := wr_member ..
@[simp] theorem wr_sport (k v : Nat) : (s.wr k v).sport = s.sport := by
  unfold wr
  split
  · rfl
  · simp only [bump_sport]
@[simp] theorem incBy_sport (k n : Nat) : (s.incBy k n).sport = s.sport := wr_sport ..
@[simp] theorem inc_sport (k : Nat) : (s.inc k).sport = s.sport := wr_sport ..
@[simp] theorem wr_steer (k v : Nat) : (s.wr k v).steer = s.steer := by
  unfold wr
  split
  · rfl
  · simp only [bump_steer]
@[simp] theorem incBy_steer (k n : Nat) : (s.incBy k n).steer = s.steer := wr_steer ..
@[simp] theorem inc_steer (k : Nat) : (s.inc k).steer = s.steer := wr_steer ..
@[simp] theorem wr_tiers (k v : Nat) : (s.wr k v).tiers = s.tiers := by
  unfold wr
  split
  · rfl
  · simp only [bump_tiers]
@[simp] theorem incBy_tiers (k n : Nat) : (s.incBy k n).tiers = s.tiers := wr_tiers ..
@[simp] theorem inc_tiers (k : Nat) : (s.inc k).tiers = s.tiers := wr_tiers ..
@[simp] theorem wr_audit (k v : Nat) : (s.wr k v).audit = s.audit := by
  unfold wr
  split
  · rfl
  · simp only [bump_audit]
@[simp] theorem incBy_audit (k n : Nat) : (s.incBy k n).audit = s.audit := wr_audit ..
@[simp] theorem inc_audit (k : Nat) : (s.inc k).audit = s.audit := wr_audit ..
@[simp] theorem wr_prot (k v : Nat) : (s.wr k v).prot = s.prot := by
  unfold wr
  split
  · rfl
  · simp only [bump_prot]
@[simp] theorem incBy_prot (k n : Nat) : (s.incBy k n).prot = s.prot := wr_prot ..
@[simp] theorem inc_prot (k : Nat) : (s.inc k).prot = s.prot := wr_prot ..
@[simp] theorem wr_arrays (k v : Nat) : (s.wr k v).arrays = s.arrays := by
  unfold wr
  split
  · rfl
  · simp only [bump_arrays]
@[simp] theorem incBy_arrays (k n : Nat) : (s.incBy k n).arrays = s.arrays := wr_arrays ..
@[simp] theorem inc_arrays (k : Nat) : (s.inc k).arrays = s.arrays := wr_arrays ..
@[simp] theorem wr_red (k v : Nat) : (s.wr k v).red = s.red := by
  unfold wr
  split
  · rfl
  · simp only [bump_red]
@[simp] theorem incBy_red (k n : Nat) : (s.incBy k n).red = s.red := wr_red ..
@[simp] theorem inc_red (k : Nat) : (s.inc k).red = s.red := wr_red ..
@[simp] theorem wr_route (k v : Nat) : (s.wr k v).route = s.route := by
  unfold wr
  split
  · rfl
  · simp only [bump_route]
@[simp] theorem incBy_route (k n : Nat) : (s.incBy k n).route = s.route := wr_route ..
@[simp] theorem inc_route (k : Nat) : (s.inc k).route = s.route := wr_route ..
@[simp] theorem wr_yard (k v : Nat) : (s.wr k v).yard = s.yard := by
  unfold wr
  split
  · rfl
  · simp only [bump_yard]
@[simp] theorem incBy_yard (k n : Nat) : (s.incBy k n).yard = s.yard := wr_yard ..
@[simp] theorem inc_yard (k : Nat) : (s.inc k).yard = s.yard := wr_yard ..
@[simp] theorem wr_exch (k v : Nat) : (s.wr k v).exch = s.exch := by
  unfold wr
  split
  · rfl
  · simp only [bump_exch]
@[simp] theorem incBy_exch (k n : Nat) : (s.incBy k n).exch = s.exch := wr_exch ..
@[simp] theorem inc_exch (k : Nat) : (s.inc k).exch = s.exch := wr_exch ..
@[simp] theorem wrO_pending (k off : Nat) (bs : Bytes) : (s.wrO k off bs).pending = s.pending := by
  unfold wrO
  split
  · rfl
  · simp only [bump_pending]
@[simp] theorem wrOf_pending (k off n v : Nat) : (s.wrOf k off n v).pending = s.pending := wrO_pending ..
@[simp] theorem wrO_hw (k off : Nat) (bs : Bytes) : (s.wrO k off bs).hw = s.hw := by
  unfold wrO
  split
  · rfl
  · simp only [bump_hw]
@[simp] theorem wrOf_hw (k off n v : Nat) : (s.wrOf k off n v).hw = s.hw := wrO_hw ..
@[simp] theorem wrO_sticky (k off : Nat) (bs : Bytes) : (s.wrO k off bs).sticky = s.sticky := by
  unfold wrO
  split
  · rfl
  · simp only [bump_sticky]
@[simp] theorem wrOf_sticky (k off n v : Nat) : (s.wrOf k off n v).sticky = s.sticky := wrO_sticky ..
@[simp] theorem wrO_clock (k off : Nat) (bs : Bytes) : (s.wrO k off bs).clock = s.clock := by
  unfold wrO
  split
  · rfl
  · simp only [bump_clock]
@[simp] theorem wrOf_clock (k off n v : Nat) : (s.wrOf k off n v).clock = s.clock := wrO_clock ..
@[simp] theorem wrO_dict (k off : Nat) (bs : Bytes) : (s.wrO k off bs).dict = s.dict := by
  unfold wrO
  split
  · rfl
  · simp only [bump_dict]
@[simp] theorem wrOf_dict (k off n v : Nat) : (s.wrOf k off n v).dict = s.dict := wrO_dict ..
@[simp] theorem wrO_mem (k off : Nat) (bs : Bytes) : (s.wrO k off bs).mem = s.mem := by
  unfold wrO
  split
  · rfl
  · simp only [bump_mem]
@[simp] theorem wrOf_mem (k off n v : Nat) : (s.wrOf k off n v).mem = s.mem := wrO_mem ..
@[simp] theorem wrO_poison (k off : Nat) (bs : Bytes) : (s.wrO k off bs).poison = s.poison := by
  unfold wrO
  split
  · rfl
  · simp only [bump_poison]
@[simp] theorem wrOf_poison (k off n v : Nat) : (s.wrOf k off n v).poison = s.poison := wrO_poison ..
@[simp] theorem wrO_flash (k off : Nat) (bs : Bytes) : (s.wrO k off bs).flash = s.flash := by
  unfold wrO
  split
  · rfl
  · simp only [bump_flash]
@[simp] theorem wrOf_flash (k off n v : Nat) : (s.wrOf k off n v).flash = s.flash := wrO_flash ..
@[simp] theorem wrO_tx (k off : Nat) (bs : Bytes) : (s.wrO k off bs).tx = s.tx := by
  unfold wrO
  split
  · rfl
  · simp only [bump_tx]
@[simp] theorem wrOf_tx (k off n v : Nat) : (s.wrOf k off n v).tx = s.tx := wrO_tx ..
@[simp] theorem wrO_cOut (k off : Nat) (bs : Bytes) : (s.wrO k off bs).cOut = s.cOut := by
  unfold wrO
  split
  · rfl
  · simp only [bump_cOut]
@[simp] theorem wrOf_cOut (k off n v : Nat) : (s.wrOf k off n v).cOut = s.cOut := wrO_cOut ..
@[simp] theorem wrO_fOut (k off : Nat) (bs : Bytes) : (s.wrO k off bs).fOut = s.fOut := by
  unfold wrO
  split
  · rfl
  · simp only [bump_fOut]
@[simp] theorem wrOf_fOut (k off n v : Nat) : (s.wrOf k off n v).fOut = s.fOut := wrO_fOut ..
@[simp] theorem wrO_draws (k off : Nat) (bs : Bytes) : (s.wrO k off bs).draws = s.draws := by
  unfold wrO
  split
  · rfl
  · simp only [bump_draws]
@[simp] theorem wrOf_draws (k off n v : Nat) : (s.wrOf k off n v).draws = s.draws := wrO_draws ..
@[simp] theorem wrO_log (k off : Nat) (bs : Bytes) : (s.wrO k off bs).log = s.log := by
  unfold wrO
  split
  · rfl
  · simp only [bump_log]
@[simp] theorem wrOf_log (k off n v : Nat) : (s.wrOf k off n v).log = s.log := wrO_log ..
@[simp] theorem wrO_server (k off : Nat) (bs : Bytes) : (s.wrO k off bs).server = s.server := by
  unfold wrO
  split
  · rfl
  · simp only [bump_server]
@[simp] theorem wrOf_server (k off n v : Nat) : (s.wrOf k off n v).server = s.server := wrO_server ..
@[simp] theorem wrO_firmware (k off : Nat) (bs : Bytes) : (s.wrO k off bs).firmware = s.firmware := by
  unfold wrO
  split
  · rfl
  · simp only [bump_firmware]
@[simp] theorem wrOf_firmware (k off n v : Nat) : (s.wrOf k off n v).firmware = s.firmware := wrO_firmware ..
@[simp] theorem wrO_twin (k off : Nat) (bs : Bytes) : (s.wrO k off bs).twin = s.twin := by
  unfold wrO
  split
  · rfl
  · simp only [bump_twin]
@[simp] theorem wrOf_twin (k off n v : Nat) : (s.wrOf k off n v).twin = s.twin := wrO_twin ..
@[simp] theorem wrO_sensors (k off : Nat) (bs : Bytes) : (s.wrO k off bs).sensors = s.sensors := by
  unfold wrO
  split
  · rfl
  · simp only [bump_sensors]
@[simp] theorem wrOf_sensors (k off n v : Nat) : (s.wrOf k off n v).sensors = s.sensors := wrO_sensors ..
@[simp] theorem wrO_tap (k off : Nat) (bs : Bytes) : (s.wrO k off bs).tap = s.tap := by
  unfold wrO
  split
  · rfl
  · simp only [bump_tap]
@[simp] theorem wrOf_tap (k off n v : Nat) : (s.wrOf k off n v).tap = s.tap := wrO_tap ..
@[simp] theorem wrO_pass (k off : Nat) (bs : Bytes) : (s.wrO k off bs).pass = s.pass := by
  unfold wrO
  split
  · rfl
  · simp only [bump_pass]
@[simp] theorem wrOf_pass (k off n v : Nat) : (s.wrOf k off n v).pass = s.pass := wrO_pass ..
@[simp] theorem wrO_couch (k off : Nat) (bs : Bytes) : (s.wrO k off bs).couch = s.couch := by
  unfold wrO
  split
  · rfl
  · simp only [bump_couch]
@[simp] theorem wrOf_couch (k off n v : Nat) : (s.wrOf k off n v).couch = s.couch := wrO_couch ..
@[simp] theorem wrO_member (k off : Nat) (bs : Bytes) : (s.wrO k off bs).member = s.member := by
  unfold wrO
  split
  · rfl
  · simp only [bump_member]
@[simp] theorem wrOf_member (k off n v : Nat) : (s.wrOf k off n v).member = s.member := wrO_member ..
@[simp] theorem wrO_sport (k off : Nat) (bs : Bytes) : (s.wrO k off bs).sport = s.sport := by
  unfold wrO
  split
  · rfl
  · simp only [bump_sport]
@[simp] theorem wrOf_sport (k off n v : Nat) : (s.wrOf k off n v).sport = s.sport := wrO_sport ..
@[simp] theorem wrO_steer (k off : Nat) (bs : Bytes) : (s.wrO k off bs).steer = s.steer := by
  unfold wrO
  split
  · rfl
  · simp only [bump_steer]
@[simp] theorem wrOf_steer (k off n v : Nat) : (s.wrOf k off n v).steer = s.steer := wrO_steer ..
@[simp] theorem wrO_tiers (k off : Nat) (bs : Bytes) : (s.wrO k off bs).tiers = s.tiers := by
  unfold wrO
  split
  · rfl
  · simp only [bump_tiers]
@[simp] theorem wrOf_tiers (k off n v : Nat) : (s.wrOf k off n v).tiers = s.tiers := wrO_tiers ..
@[simp] theorem wrO_audit (k off : Nat) (bs : Bytes) : (s.wrO k off bs).audit = s.audit := by
  unfold wrO
  split
  · rfl
  · simp only [bump_audit]
@[simp] theorem wrOf_audit (k off n v : Nat) : (s.wrOf k off n v).audit = s.audit := wrO_audit ..
@[simp] theorem wrO_prot (k off : Nat) (bs : Bytes) : (s.wrO k off bs).prot = s.prot := by
  unfold wrO
  split
  · rfl
  · simp only [bump_prot]
@[simp] theorem wrOf_prot (k off n v : Nat) : (s.wrOf k off n v).prot = s.prot := wrO_prot ..
@[simp] theorem wrO_arrays (k off : Nat) (bs : Bytes) : (s.wrO k off bs).arrays = s.arrays := by
  unfold wrO
  split
  · rfl
  · simp only [bump_arrays]
@[simp] theorem wrOf_arrays (k off n v : Nat) : (s.wrOf k off n v).arrays = s.arrays := wrO_arrays ..
@[simp] theorem wrO_red (k off : Nat) (bs : Bytes) : (s.wrO k off bs).red = s.red := by
  unfold wrO
  split
  · rfl
  · simp only [bump_red]
@[simp] theorem wrOf_red (k off n v : Nat) : (s.wrOf k off n v).red = s.red := wrO_red ..
@[simp] theorem wrO_route (k off : Nat) (bs : Bytes) : (s.wrO k off bs).route = s.route := by
  unfold wrO
  split
  · rfl
  · simp only [bump_route]
@[simp] theorem wrOf_route (k off n v : Nat) : (s.wrOf k off n v).route = s.route := wrO_route ..
@[simp] theorem wrO_yard (k off : Nat) (bs : Bytes) : (s.wrO k off bs).yard = s.yard := by
  unfold wrO
  split
  · rfl
  · simp only [bump_yard]
@[simp] theorem wrOf_yard (k off n v : Nat) : (s.wrOf k off n v).yard = s.yard := wrO_yard ..
@[simp] theorem wrO_exch (k off : Nat) (bs : Bytes) : (s.wrO k off bs).exch = s.exch := by
  unfold wrO
  split
  · rfl
  · simp only [bump_exch]
@[simp] theorem wrOf_exch (k off n v : Nat) : (s.wrOf k off n v).exch = s.exch := wrO_exch ..

end State

end Sys2Proof.Machine
end

