-- ==== Sys2Proof/Laws/Objects.lean ====
section
/-!
SUPPORT. What the writes of scalar objects and the counters do, said once: the value, the other objects, the change count.
-/

namespace Sys2Proof.Machine

/-- The scalar objects stand in their canonical form. -/
abbrev State.DictOk (s : State) : Prop := Sparse.wf dfltOf s.dict = true

namespace State

@[simp] theorem rd_bump (s : State) (k x : Nat) : (s.bump k).rd x = s.rd x := by
  unfold rd
  rw [bump_dict]

/-- R331: what an object reads as after a write. -/
theorem rd_wr {s : State} (h : s.DictOk) (k v x : Nat) : (s.wr k v).rd x = if x = k then v else s.rd x := by
  unfold wr
  split
  · rename_i e
    by_cases hx : x = k
    · subst hx; simpa using e
    · simp [hx]
  · rw [rd_bump]
    exact Sparse.get_put h k v x

@[simp] theorem rd_wr_self {s : State} (h : s.DictOk) (k v : Nat) : (s.wr k v).rd k = v := by rw [rd_wr h, if_pos rfl]

theorem rd_wr_ne {s : State} (h : s.DictOk) {k x : Nat} (hx : x ≠ k) (v : Nat) : (s.wr k v).rd x = s.rd x := by rw [rd_wr h, if_neg hx]

theorem dictOk_wr {s : State} (h : s.DictOk) (k v : Nat) : (s.wr k v).DictOk := by
  unfold DictOk wr
  split
  · exact h
  · rw [bump_dict]
    exact Sparse.wf_put (d := dfltOf) h k v

theorem dictOk_inc {s : State} (h : s.DictOk) (k : Nat) : (s.inc k).DictOk := dictOk_wr h ..

/-- R329: a counter after it rises. -/
theorem rd_incBy {s : State} (h : s.DictOk) (k n x : Nat) :
    (s.incBy k n).rd x = if x = k then min (s.rd k + n) (objMax k) else s.rd x := rd_wr h ..

theorem rd_inc {s : State} (h : s.DictOk) (k x : Nat) : (s.inc k).rd x = if x = k then min (s.rd k + 1) (objMax k) else s.rd x := rd_wr h ..

/-- A state with the same scalar objects reads the same. -/
theorem rd_congr {a s : State} (h : s.dict = a.dict) (x : Nat) : s.rd x = a.rd x := by
  unfold rd
  rw [h]

@[simp] theorem rd_wrO (s : State) (k off : Nat) (bs : Bytes) (x : Nat) : (s.wrO k off bs).rd x = s.rd x := rd_congr (wrO_dict ..) x

@[simp] theorem rd_wrOf (s : State) (k off n v x : Nat) : (s.wrOf k off n v).rd x = s.rd x := rd_congr (wrOf_dict ..) x

end State

end Sys2Proof.Machine
end

