-- ==== Sys2Proof/Laws/Settle.lean ====
section
/-!
SUPPORT. What an event and the settling of the stalls leave alone, said once: every record but the log, the stalls, what
functions that are OFF held, and what leaves the block; and every scalar object but the few that they show.
-/

namespace Sys2Proof.Machine

/-- The scalar objects that events and the settling of the stalls write: the records' sequence (0x7003), the count of events,
of bad frees, of quarantined stalls, of error responses, the line counts and the stall counts. -/
def quietKeys : List Nat :=
  [0x7003_01, 0x7003_02, 0x8700_03, 0x8510_04, 0x8510_05, 0x8710_03, 0x8710_04, 0x3002_06, 0x3002_07, 0x5100_04, 0x5100_05, 0x5100_06, 0x5100_07]

/-- A state without what events and the settling of the stalls write. -/
def State.core (s : State) : State :=
  { s with dict := [], oct := [], changes := [], tx := [], fOut := [], log := {}, sport := {}, steer := [], prot := {}, red := {}, route := {}, yard := {} }

/-- s differs from a at most in what events and the settling of the stalls write. -/
structure Quiet (a s : State) : Prop where
  core : s.core = a.core
  dictOk : a.DictOk → s.DictOk
  rd : a.DictOk → ∀ k, k ∉ quietKeys → s.rd k = a.rd k

namespace Quiet

theorem pending {a s : State} (h : Quiet a s) : s.pending = a.pending := by
  have e := congrArg State.pending h.core
  exact e

theorem hw {a s : State} (h : Quiet a s) : s.hw = a.hw := by
  have e := congrArg State.hw h.core
  exact e

theorem sticky {a s : State} (h : Quiet a s) : s.sticky = a.sticky := by
  have e := congrArg State.sticky h.core
  exact e

theorem clock {a s : State} (h : Quiet a s) : s.clock = a.clock := by
  have e := congrArg State.clock h.core
  exact e

theorem mem {a s : State} (h : Quiet a s) : s.mem = a.mem := by
  have e := congrArg State.mem h.core
  exact e

theorem poison {a s : State} (h : Quiet a s) : s.poison = a.poison := by
  have e := congrArg State.poison h.core
  exact e

theorem flash {a s : State} (h : Quiet a s) : s.flash = a.flash := by
  have e := congrArg State.flash h.core
  exact e

theorem cOut {a s : State} (h : Quiet a s) : s.cOut = a.cOut := by
  have e := congrArg State.cOut h.core
  exact e

theorem draws {a s : State} (h : Quiet a s) : s.draws = a.draws := by
  have e := congrArg State.draws h.core
  exact e

theorem server {a s : State} (h : Quiet a s) : s.server = a.server := by
  have e := congrArg State.server h.core
  exact e

theorem firmware {a s : State} (h : Quiet a s) : s.firmware = a.firmware := by
  have e := congrArg State.firmware h.core
  exact e

theorem twin {a s : State} (h : Quiet a s) : s.twin = a.twin := by
  have e := congrArg State.twin h.core
  exact e

theorem sensors {a s : State} (h : Quiet a s) : s.sensors = a.sensors := by
  have e := congrArg State.sensors h.core
  exact e

theorem tap {a s : State} (h : Quiet a s) : s.tap = a.tap := by
  have e := congrArg State.tap h.core
  exact e

theorem pass {a s : State} (h : Quiet a s) : s.pass = a.pass := by
  have e := congrArg State.pass h.core
  exact e

theorem couch {a s : State} (h : Quiet a s) : s.couch = a.couch := by
  have e := congrArg State.couch h.core
  exact e

theorem member {a s : State} (h : Quiet a s) : s.member = a.member := by
  have e := congrArg State.member h.core
  exact e

theorem tiers {a s : State} (h : Quiet a s) : s.tiers = a.tiers := by
  have e := congrArg State.tiers h.core
  exact e

theorem audit {a s : State} (h : Quiet a s) : s.audit = a.audit := by
  have e := congrArg State.audit h.core
  exact e

theorem arrays {a s : State} (h : Quiet a s) : s.arrays = a.arrays := by
  have e := congrArg State.arrays h.core
  exact e

theorem exch {a s : State} (h : Quiet a s) : s.exch = a.exch := by
  have e := congrArg State.exch h.core
  exact e

theorem refl (a : State) : Quiet a a := ⟨rfl, id, fun _ _ _ => rfl⟩

/-- A further change of what nothing here speaks of. -/
theorem of {a s t : State} (h : Quiet a s) (e : t.core = s.core) (d : t.dict = s.dict) : Quiet a t :=
  ⟨e.trans h.core, fun c => by unfold State.DictOk; rw [d]; exact h.dictOk c, fun c k hk => (State.rd_congr d k).trans (h.rd c k hk)⟩

theorem bump {a s : State} {k : Nat} (h : Quiet a s) : Quiet a (s.bump k) := by
  unfold State.bump
  split
  · exact h
  · exact of h rfl rfl

theorem core_bump (s : State) (k : Nat) : (s.bump k).core = s.core := by
  unfold State.bump
  split <;> rfl

theorem wr {a s : State} {k v : Nat} (hk : k ∈ quietKeys) (h : Quiet a s) : Quiet a (s.wr k v) where
  core := by
    unfold State.wr
    split
    · exact h.core
    · exact (core_bump ..).trans h.core
  dictOk c := State.dictOk_wr (h.dictOk c) k v
  rd c x hx := by
    have e : x ≠ k := fun e => hx (e ▸ hk)
    rw [State.rd_wr_ne (h.dictOk c) e]
    exact h.rd c x hx

theorem wrO {a s : State} {k off : Nat} {bs : Bytes} (h : Quiet a s) : Quiet a (s.wrO k off bs) := by
  unfold State.wrO
  split
  · exact h
  · exact bump (of h rfl rfl)

theorem wrOf {a s : State} {k off n v : Nat} (h : Quiet a s) : Quiet a (s.wrOf k off n v) := wrO h

theorem ite {a s t : State} {c : Prop} [Decidable c] (hs : Quiet a s) (ht : Quiet a t) : Quiet a (if c then s else t) := by
  split <;> assumption

theorem foldl {β : Type} {a s : State} {f : State → β → State} {l : List β} (hs : Quiet a s) (hf : ∀ z y, Quiet a z → Quiet a (f z y)) :
    Quiet a (l.foldl f s) := by
  induction l generalizing s with
  | nil => exact hs
  | cons y l ih => exact ih (hf s y hs)

theorem windowSlot {a s : State} {n : Nat} {b : Bytes} (h : Quiet a s) : Quiet a (s.windowSlot n b) := ite (wrO h) h

theorem logBlock {a s : State} {n : Nat} (h : Quiet a s) : Quiet a (s.logBlock n) := of h rfl rfl

theorem send {a s : State} {t : Tx} (h : Quiet a s) : Quiet a (s.send t) := ite h (of h rfl rfl)

theorem sendTwin {a s : State} {k f : Nat} {b : Bytes} (h : Quiet a s) : Quiet a (s.sendTwin k f b) := send h

/-- An event changes the log, what shows it, and what leaves the block. -/
theorem evFrom {a s : State} {n c : Nat} {p : Bytes} (h : Quiet a s) : Quiet a (s.evFrom n c p) := by
  unfold State.evFrom
  extract_lets +onlyGivenNames r z0 z1 z2 z3 z4 z5 z6 z7
  have h0 : Quiet a z0 := of h rfl rfl
  have h1 : Quiet a z1 := wr (by decide) h0
  have h2 : Quiet a z2 := wr (by decide) h1
  have h3 : Quiet a z3 := wrO h2
  have h4 : Quiet a z4 := windowSlot h3
  have h5 : Quiet a z5 := ite h4 (windowSlot h4)
  have h6 : Quiet a z6 := wr (by decide) h5
  have h7 : Quiet a z7 := ite (logBlock h6) h6
  exact ite (sendTwin h7) h7

theorem ev {a s : State} {c : Nat} {p : Bytes} (h : Quiet a s) : Quiet a (s.ev c p) := evFrom h

theorem evHub {a s : State} {c : Nat} {p : Bytes} (h : Quiet a s) : Quiet a (s.evHub c p) := evFrom h

theorem evSlice {a s : State} {n c : Nat} {p : Bytes} (h : Quiet a s) : Quiet a (s.evSlice n c p) := evFrom h

theorem answer {a s : State} {r : SReq} {st po : Nat} {d : Bytes} (h : Quiet a s) : Quiet a (s.answer r st po d) := by
  unfold State.answer
  extract_lets +onlyGivenNames _ z0
  have h0 : Quiet a z0 := of h rfl rfl
  exact ite (wr (by decide) h0) (ite (wr (by decide) h0) h0)

theorem giveUp {a s : State} {r : SReq} (h : Quiet a s) : Quiet a (s.giveUp r) := ite (answer h) (answer h)

theorem refreshStalls {a s : State} (h : Quiet a s) : Quiet a s.refreshStalls := by
  unfold State.refreshStalls
  exact wr (by decide) (wr (by decide) (wr (by decide) (wr (by decide) h)))

theorem ungrant {a s : State} {o : Nat} (h : Quiet a s) : Quiet a (s.ungrant o) := refreshStalls (wrOf (of h rfl rfl))

theorem forget {a s : State} {f : Fn} (h : Quiet a s) : Quiet a (s.forget f) := by
  cases f
  case reduction => exact of h rfl rfl
  case routing => exact of h rfl rfl
  case yard => exact of (foldl h fun _ _ k => giveUp k) rfl rfl
  all_goals exact h

theorem tidyFn {a s : State} {f : Fn} (h : Quiet a s) : Quiet a (s.tidyFn f) := by
  unfold State.tidyFn
  refine ite h (foldl (forget (of h rfl rfl)) fun z y k => ite k (ungrant k))

theorem quarantine {a s : State} {n k : Nat} (h : Quiet a s) : Quiet a (s.quarantine n k) := by
  unfold State.quarantine
  exact evSlice (wr (by decide) (of h rfl rfl))

theorem alloc {a s : State} {n o : Nat} (h : Quiet a s) : Quiet a (s.alloc n o) := by
  unfold State.alloc
  refine ite (wrOf h) ?_
  split
  · exact h
  · extract_lets +onlyGivenNames met z0
    have h0 : Quiet a z0 := by
      subst z0
      exact foldl h fun _ _ k => quarantine k
    exact ite h0 (wrOf (of h0 rfl rfl))

theorem badFree {a s : State} {n x o r : Nat} (h : Quiet a s) : Quiet a (State.freeStall.badFree s n x o r) := by
  unfold State.freeStall.badFree
  extract_lets +onlyGivenNames z0 t
  have h0 : Quiet a z0 := wr (by decide) h
  exact ite h0 (evSlice (of h0 rfl rfl))

theorem freeStall {a s : State} {n x o : Nat} (h : Quiet a s) : Quiet a (s.freeStall n x o) := by
  unfold State.freeStall
  split
  · exact ite (of h rfl rfl) (badFree h)
  · exact badFree h

theorem allocN {a s : State} {n o k : Nat} (h : Quiet a s) : Quiet a (s.allocN n o k) := by
  induction k generalizing s with
  | zero => exact h
  | succ k ih => exact ih (alloc h)

theorem freeN {a s : State} {n o k : Nat} (h : Quiet a s) : Quiet a (s.freeN n o k) := by
  induction k generalizing s with
  | zero => exact h
  | succ k ih =>
    unfold State.freeN
    split
    · exact ih (freeStall h)
    · exact h

theorem settleOne {a s : State} {n o : Nat} (h : Quiet a s) : Quiet a (s.settleOne n o) := ite h (ite (allocN h) (freeN h))

/-- What every command ends with. -/
theorem settle {a s : State} (h : Quiet a s) : Quiet a s.settle := by
  unfold State.settle
  extract_lets +onlyGivenNames z0 z1
  have h0 : Quiet a z0 := by
    subst z0
    unfold State.showCounts
    exact wr (by decide) (wr (by decide) (foldl h fun _ _ k => tidyFn k))
  have h1 : Quiet a z1 := by
    subst z1
    exact foldl h0 fun _ _ k => foldl k fun _ _ j => settleOne j
  exact ite h0 (refreshStalls h1)

end Quiet

/-- The objects that settling shows stand apart from every other. -/
theorem rd_settle {s : State} (h : s.DictOk) {k : Nat} (hk : k ∉ quietKeys) : s.settle.rd k = s.rd k := (Quiet.refl s).settle.rd h k hk

end Sys2Proof.Machine
end

