-- ==== Sys2Proof/WellFormed.lean ====
section
/-!
DEFINITION. Which commands are well formed: every operand fits the field that the spec gives it.

The block takes any command: a meaning trims an operand, or finds nothing that it names. Free operands that the spec gives no
width (what the physical part does) are always well formed.
-/

namespace Sys2Proof

/-- A number below a bound. -/
def below (bound n : Nat) : Bool := decide (n < bound)

/-- Numbers below a bound. -/
def allBelow (bound : Nat) (l : List Nat) : Bool := l.all (below bound)

/-- A slice number: a build has at most 32 (R1). -/
def okSlice (n : Nat) : Bool := below 32 n

/-- Upsets name arrays 0 and 1, cells 0 to 1,023 and residues 0 to 31 (R93). -/
def okUpsets (u : Upsets) : Bool :=
  u.cells.all (fun e => below 2 e.1 && below 1024 e.2.1) && (u.row ++ u.col).all (fun e => below 2 e.1 && below 32 e.2.1)

/-- A datagram: IPv6 address, UDP port, ECN, and a UDP payload (R384). -/
def okRx (r : Rx) : Bool := below (2 ^ 128) r.addr && below (2 ^ 16) r.port && below 4 r.ecn && below 65528 r.f.length

/-- A dictionary request: 64-bit words at the C-port (R342), or a datagram. -/
def okVia : Via → Bool
  | .cport _ words => allBelow (2 ^ 64) words
  | .net r => okRx r

/-- A request within Table 17-1. -/
def okReq (q : SReq) : Bool :=
  okSlice q.slice && below 16 q.kind && below 257 q.size && below 4096 q.tag && below (2 ^ 57) q.addr && below (2 ^ 32) q.poison && below 257 q.data.length

/-- The command is well formed. -/
def wellFormed : Instr → Bool
  | .vresetNAssert => true
  | .vresetNRelease pairs => allBelow 32 pairs
  | .selfTestComplete _ us out mhz _ => below (2 ^ 32) us && below (2 ^ 64) out && allBelow (2 ^ 16) mhz
  | .watchdogExpiry => true
  | .watchdogReset => true
  | .epochTick => true
  | .timelockChange _ => true
  | .timeStrobe t => below (2 ^ 64) t
  | .timeStrobeMissing => true
  | .holdoverLimitExpiry => true
  | .stepMark => true
  | .snapshotStepTrigger => true
  | .passTensorStart => true
  | .passLine slice lanes _ chk => okSlice slice && allBelow 64 lanes && below (2 ^ 64) chk
  | .logTile slice _ cells row col cells2 row2 col2 => okSlice slice && okUpsets ⟨cells, row, col⟩ && okUpsets ⟨cells2, row2, col2⟩
  | .macJob slice word _ _ _ => okSlice slice && below (2 ^ 128) word
  | .macJobReadout slice _ up => okSlice slice && okUpsets up.1 && okUpsets up.2
  | .arrayHoldExpiry slice array => okSlice slice && below 2 array
  | .arrayStopRampEnd slice array => okSlice slice && below 2 array
  | .factorsCompute desc => below 4096 desc
  | .factorBroadcast desc => below 4096 desc
  | .workingCopyCheck desc again => below 4096 desc && allBelow 32 again
  | .completionWordWrite desc => below 4096 desc
  | .stepDone => true
  | .sPortRead q => okReq q
  | .sPortWrite q => okReq q
  | .intakeHoldRelease => true
  | .releaseCursorWrite q => okReq q
  | .controllerResponse slice kind tag status poison => okSlice slice && below 16 kind && below (2 ^ 16) tag && below (2 ^ 8) status && below (2 ^ 32) poison
  | .controllerStall slice kind => okSlice slice && below 16 kind
  | .longControllerStall slice => okSlice slice
  | .load q => okReq q
  | .store q => okReq q
  | .add q => okReq q
  | .smin q => okReq q
  | .smax q => okReq q
  | .umin q => okReq q
  | .umax q => okReq q
  | .and q => okReq q
  | .or q => okReq q
  | .xor q => okReq q
  | .swap q => okReq q
  | .cas q => okReq q
  | .fenceRead q => okReq q
  | .yardRequest r => okRx r
  | .combiningEntryClose line => below (2 ^ 57) line
  | .yardAnswer r => okRx r
  | .yardRetryTimeout home seq => below (2 ^ 16) home && below (2 ^ 32) seq
  | .operationIndeterminate home seq => below (2 ^ 16) home && below (2 ^ 32) seq
  | .receiptQueryTimer home seq => below (2 ^ 16) home && below (2 ^ 32) seq
  | .receiptQuery r => okRx r
  | .receiptStatus r => okRx r
  | .receiptExpiry src seq => below (2 ^ 16) src && below (2 ^ 32) seq
  | .rollbackNotice r => okRx r
  | .removeEntry v => okVia v
  | .rekeyCheck => true
  | .migrationSet => true
  | .dataFrame r => okRx r
  | .acknowledgement r => okRx r
  | .retransmitTimeout stream role seq parity => below (2 ^ 16) stream.group && below (2 ^ 8) role && below (2 ^ 32) seq && below (2 ^ 8) parity
  | .epochDoneNotice r => okRx r
  | .noticeRepeat => true
  | .foldComplete => true
  | .holderSilenceLimit group parity => below (2 ^ 16) group && below (2 ^ 8) parity
  | .feedwarnChange pad _ => below 3 pad
  | .feedDeclared => true
  | .flushTimeLimit => true
  | .suspect r => okRx r
  | .silenceLimit dev => below (2 ^ 16) dev
  | .twinWait dev => below (2 ^ 16) dev
  | .twinReport r => okRx r
  | .propose r => okRx r
  | .accept r => okRx r
  | .acceptTimeout => true
  | .cut r => okRx r
  | .rollbackComplete => true
  | .ready r => okRx r
  | .release r => okRx r
  | .reStripeFillRead => true
  | .reStripeData r => okRx r
  | .reStripeAcknowledgement r => okRx r
  | .holdLimit => true
  | .staleNotice r => okRx r
  | .joinRequest r => okRx r
  | .joinRequestRepeat n => decide (n ≤ 6)
  | .join v => okVia v
  | .rebuildRead r => okRx r
  | .rebuildData r => okRx r
  | .journalMirror r => okRx r
  | .snapshotTimerTrigger => true
  | .snapshotNow v => okVia v
  | .snapshotDeferralCleared => true
  | .snapshotOrder r => okRx r
  | .snapshotReport r => okRx r
  | .sealRelease => true
  | .copyOnWriteHoldLimit => true
  | .snapshotComplete => true
  | .evaluationExportNow v => okVia v
  | .restoreRequest v => okVia v
  | .inventory r => okRx r
  | .restoreOrder r => okRx r
  | .shardLoadComplete => true
  | .restoreReport r => okRx r
  | .fPortCompletion tag status => below (2 ^ 16) tag && below (2 ^ 8) status
  | .contribution r => okRx r
  | .result r => okRx r
  | .resultTimeout step stream phase chunk => below (2 ^ 64) step && below (2 ^ 16) stream && below (2 ^ 8) phase && below (2 ^ 32) chunk
  | .taint r => okRx r
  | .taintHorizon step stream phase chunk => below (2 ^ 64) step && below (2 ^ 16) stream && below (2 ^ 8) phase && below (2 ^ 32) chunk
  | .peakNotice r => okRx r
  | .lateTaintTimeout step stream phase chunk => below (2 ^ 64) step && below (2 ^ 16) stream && below (2 ^ 8) phase && below (2 ^ 32) chunk
  | .callRelease q => okReq q
  | .allotmentRound layer step call => below (2 ^ 8) layer && below (2 ^ 64) step && below (2 ^ 32) call
  | .combineCursorWrite q => okReq q
  | .returnWindowWrite off _ => below (2 ^ 57) off
  | .combineComplete layer step call => below (2 ^ 8) layer && below (2 ^ 64) step && below (2 ^ 32) call
  | .combineTimeout layer step call => below (2 ^ 8) layer && below (2 ^ 64) step && below (2 ^ 32) call
  | .sweepStart => true
  | .sweepBlock => true
  | .roundClose round => below (2 ^ 32) round
  | .manifest r => okRx r
  | .longHaulPacket r => okRx r
  | .repairWait site shard round block set => below (2 ^ 16) site && below (2 ^ 16) shard && below (2 ^ 32) round && below (2 ^ 32) block && below (2 ^ 16) set
  | .repairRequest r => okRx r
  | .shardSummary r => okRx r
  | .shardComplete r => okRx r
  | .manifestWait => true
  | .siteJoin v => okVia v
  | .siteJoinRequest r => okRx r
  | .joinAnswer r => okRx r
  | .repairComplete addr _ _ lost => below (2 ^ 57) addr && allBelow (2 ^ 8) lost
  | .repairLimit addr => below (2 ^ 57) addr
  | .sramPatrol mem slice row flips _ cls => below 5 mem && okSlice slice && below (2 ^ 32) row && below 66 flips && below 7 cls
  | .hbmPatrol slice addr _ _ => okSlice slice && below (2 ^ 57) addr
  | .errorInjection v => okVia v
  | .acknowledgeRetirement v => okVia v
  | .jobKey v => okVia v
  | .streamQuery v => okVia v
  | .watermark r => okRx r
  | .bisectionStart commit => below (2 ^ 64) commit
  | .bisectQuery r _ => okRx r
  | .bisectAnswer r => okRx r
  | .bisectAnswerTimeout dev => below (2 ^ 16) dev
  | .line r _ => okRx r
  | .bisectionLimit => true
  | .open_ r => okRx r
  | .confirm r => okRx r
  | .close r => okRx r
  | .halfOpenTimeout id => below (2 ^ 32) id
  | .idleTimeout id => below (2 ^ 32) id
  | .read v => okVia v
  | .write v => okVia v
  | .readBlock v => okVia v
  | .writeBlock v => okVia v
  | .subscribe v => okVia v
  | .blockTimeout sess key _ => below (2 ^ 32) sess && below (2 ^ 24) key
  | .notify sess key => below (2 ^ 32) sess && below (2 ^ 24) key
  | .principalKey v => okVia v
  | .principalEnabled v => okVia v
  | .mouldLoad v => okVia v
  | .importRequest v => okVia v
  | .importComplete => true
  | .functionEnable v => okVia v
  | .functionDisable v => okVia v
  | .drainComplete _ => true
  | .drainLimit => true
  | .thermalSample _ => true
  | .droopLimit slice count => okSlice slice && below (2 ^ 32) count
  | .clockLostLock domain => below 40 domain
  | .portClockResume domain => below 40 domain
  | .imageChunk v => okVia v
  | .checkSlot v => okVia v
  | .activate v => okVia v
  | .pair v => okVia v
  | .offerRepeat => true
  | .offer r => okRx r
  | .twinAccept r => okRx r
  | .twinConfirm r => okRx r
  | .pairTimeout => true
  | .heartbeatTimer => true
  | .heartbeat r => okRx r
  | .twinSilence => true
  | .logMirror r => okRx r
  | .unpair v => okVia v
  | .unpairFrame r => okRx r
  | .sidebandWireFault pair code => below 9 pair && below (2 ^ 8) code
  | .sidebandPairRecovered pair => below 9 pair
  | .reservedKindFrame r => okRx r
  | .checksumErrorDatagram r => okRx r
  | .freeze bits => below (2 ^ 32) bits
  | .testLogicReset => true
  | .idcode => true
  | .samplePreload _ => true
  | .extest _ => true
  | .clamp => true
  | .highz => true
  | .ijtag sibs => below (2 ^ 34) sibs
  | .scan => true
  | .bypass code => below (2 ^ 8) code
  | .sramReadout g addr => below 34 g && below (2 ^ 57) addr
  | .registerCapture g => below 34 g
  | .memoryBist g pass spares => below 34 g && below 8 pass && below (2 ^ 32) spares
  | .fuseReader => true
  | .freezeStatus => true
  | .fuseProgrammer fuse copy _ => below 161 fuse && below 3 copy
  | .railsFall => true
  | .stallIndicatorCleared slice => okSlice slice
  | .rushHoldEnd slice => okSlice slice
  | .copierLineRead slice => okSlice slice
  | .fillLineRead => true
  | .stepdoneLevelFrame => true
  | .stepmarkLevelZero => true

end Sys2Proof
end

