-- ==== Sys2Proof/Tests/Slice0.lean ====
section
/-!
SUPPORT. Tests: the ill-formed commands that WellFormed refuses; a witness for the hypotheses of each statement; the worked examples of the
spec. A theorem witness_<Name> shows states and operands that meet the hypotheses of the statement <Name>, clause by clause.
-/

namespace Sys2Proof.Tests

set_option Elab.async false

open Sys2Proof Sys2Proof.Machine

/-! ### Small states -/

/-- The canonical form as a Bool. -/
def canonB (s : State) : Bool :=
  Sparse.wf (fun _ => 0) s.mem && Sparse.wf (fun _ => 0) s.flash && Sparse.wf octAt s.oct && Sparse.wf dfltOf s.dict &&
    Sparse.wf (fun _ => 0) s.changes && decide (s.poison.Pairwise (· < ·))

theorem canon_of {s : State} (h : canonB s = true) : s.Canon := by
  simp only [canonB, Bool.and_eq_true, decide_eq_true_eq] at h
  exact ⟨h.1.1.1.1.1, h.1.1.1.1.2, h.1.1.1.2, h.1.1.2, h.1.2, h.2⟩

/-- An outcome is a next state of which p says yes. -/
def nextB (p : State → Bool) : Host.Outcome State Fault Refusal → Bool
  | .next t => p t
  | _ => false

theorem next_of {p : State → Bool} {o : Host.Outcome State Fault Refusal} (h : nextB p o = true) : ∃ t, o = .next t ∧ p t = true := by
  cases o with
  | next t => exact ⟨t, rfl, h⟩
  | fault f => cases h
  | refused f => cases h

/-- A state with objects set. -/
def withObjs (s : State) (l : List (Nat × Nat)) : State := { s with dict := l.foldl (fun m x => Sparse.put (dfltOf x.1) m x.1 x.2) s.dict }

/-- The block right after reset, in another device state. -/
def inDev (d : Nat) : State := withObjs State.reset [(0x1200_01, d)]

/-- A block in IDLE. -/
def idle : State := inDev 3

/-- A FROZEN block with every segment of the test port open. -/
def frozen : State := { inDev 8 with tap := { ir := 0x10, sibs := 2 ^ 34 - 1 } }

/-- A datagram with a payload. -/
def rx (f : Bytes) : Rx := ⟨0, 0, 0, f⟩

/-- A dictionary request in C-port words: the data bytes are those of the wire, an OCTETS value's in order, a scalar's least significant first. -/
def cWords (op flags key off : Nat) (data : Bytes) : List Nat :=
  [op + flags * 2 ^ 8 + key / 256 * 2 ^ 16 + key % 256 * 2 ^ 32 + 255 * 2 ^ 40 + data.length * 2 ^ 48, off] ++ bytesWords data

/-- The request that such words spell. -/
def cReq (op flags key off : Nat) (data : Bytes) : DReq := ⟨0, op, flags, key / 256, key % 256, 255, off, data.length, data⟩

/-! ### Witnesses: the queue, the frames, the dictionary -/

theorem witness_StepRunsFrontCommand : (inDev 3).pending = [] := by decide +kernel

theorem witness_StepKeepsCanonical :
    ({ idle with pending := [.bypass 5] } : State).Canon ∧ ∃ t, step { idle with pending := [.bypass 5] } = .next t ∧ (t.pending == []) = true :=
  ⟨canon_of (by decide +kernel), next_of (p := fun t => t.pending == []) (by decide +kernel)⟩

theorem witness_StepTakesOneCommandAndWithdrawsNothing : ∃ t, step { idle with pending := [.bypass 5] } = .next t ∧ (t.pending == []) = true :=
  next_of (p := fun t => t.pending == []) (by decide +kernel)

theorem witness_OnlyAbsentSlicesStop :
    (∃ n, namedSlice (.droopLimit 8 0) = some n ∧ idle.hw.slices ≤ n) ∧ (∀ n, namedSlice (.droopLimit 7 0) = some n → n < idle.hw.slices) ∧
      ∀ n, namedSlice .stepDone = some n → n < idle.hw.slices :=
  ⟨⟨8, by decide⟩, fun n h => by cases h; decide, nofun⟩

theorem witness_CommandsKeepWhatIsNotTheirs :
    (∃ t, exec (.droopLimit 0 0) idle = .next t ∧ (t.dev == 3) = true) ∧ (∀ g st, Instr.droopLimit 0 0 ≠ .fPortCompletion g st) ∧
      (∀ a b d e f, Instr.droopLimit 0 0 ≠ .selfTestComplete a b d e f) ∧ Instr.droopLimit 0 0 ≠ .watchdogReset ∧
      (∀ f n r, Instr.droopLimit 0 0 ≠ .fuseProgrammer f n r) ∧ ofTestPort (.droopLimit 0 0) = false ∧ (∀ b, Instr.droopLimit 0 0 ≠ .freeze b) ∧
      Instr.droopLimit 0 0 ≠ .railsFall ∧ Instr.droopLimit 0 0 ≠ .vresetNAssert ∧ Instr.droopLimit 0 0 ≠ .watchdogExpiry :=
  ⟨next_of (p := fun t => t.dev == 3) (by decide +kernel), nofun, nofun, nofun, nofun, rfl, nofun, nofun, nofun, nofun⟩

theorem witness_FrozenMovesNothing :
    let s : State := { frozen with sport := { ctrl := [⟨⟨0, 1, 8, 1, 64, 0, []⟩, false, true⟩] } }
    s.dev = 8 ∧ (∀ x ∈ s.sport.ctrl, x.served = false) ∧ Instr.freezeStatus ≠ .vresetNAssert ∧ Instr.freezeStatus ≠ .railsFall ∧
      ∃ t, exec .freezeStatus s = .next t ∧ (t.dev == 8) = true :=
  ⟨by decide +kernel, by decide, nofun, nofun, next_of (p := fun t => t.dev == 8) (by decide +kernel)⟩

theorem witness_OnlyServingStatesServe :
    (ofEngine .stepDone = true ∧ (inDev 1).serving = false) ∧ (ofRunning .freezeStatus = false) ∧ (ofRunning (.droopLimit 0 0) = true ∧ frozen.up = false) ∧
      ofSPort (.sPortRead ⟨0, 1, 8, 1, 64, 0, []⟩) = true ∧ (inDev 0).dev = 0 := by decide +kernel

theorem witness_FusesOnlyBlowWhileFrozen :
    ∃ t, exec (.fuseProgrammer 1 0 true) { frozen with hw := { slices := 32 } } = .next t ∧ (t.hw.disableA == 1) = true :=
  next_of (p := fun t => t.hw.disableA == 1) (by decide +kernel)

theorem witness_ObjectWritesChangeOneObject :
    idle.Canon ∧ (16777212 + (zeros 4).length ≤ 2 ^ 24) ∧ (0x7003_03 ≠ 0x7003_05) ∧ 0 + 4 ≤ 16777212 ∧ idle.rd 0x8120_01 ≤ objMax 0x8120_01 :=
  ⟨canon_of (by decide +kernel), by decide +kernel⟩

theorem witness_EventsJoinTheLog : idle.Canon ∧ idle.mirroring = false ∧ (withObjs idle [(0x7005_08, 2)]).Canon ∧
    ((withObjs idle [(0x7005_08, 2)]).mirroring = true ∧ (withObjs idle [(0x7005_08, 2)]).muted = false) ∧ (inDev 7).Canon ∧ (inDev 7).muted = true :=
  ⟨canon_of (by decide +kernel), by decide +kernel, canon_of (by decide +kernel), by decide +kernel, canon_of (by decide +kernel), by decide +kernel⟩

theorem witness_RefusedOperationsChangeNothing :
    idle.gateStatus 0 (cReq 2 0 0x1001_03 0 [1]) ≠ 0 ∧ idle.gateStatus 2 (cReq 4 1 0x3303_07 31 [1, 1]) = 11 ∧ idle.indexServed 0x0FFF = false ∧
      (idle.indexServed 0x1200 = true ∧ objOf 0x1200_FF = none) ∧ objOf 0x1200_01 = some ⟨0x1200_01, .u8, .ro, 0, 1, 1, 0, 255, 1⟩ ∧
      (objOf 0x1001_03 = some ⟨0x1001_03, .u8, .rw, 0, 16, 1, 1, 16, 1⟩ ∧ (cReq 2 0 0x1001_03 0 [1]).writes = true ∧ idle.indexServed 0x1001 = true) ∧
      (inDev 1).stateBad (cReq 2 0 0x1001_03 0 [1]) = true ∧
      (idle.stateBad (cReq 2 0 0x3000_01 0 [1]) = false ∧ (withObjs idle [(0x1202_01, 2)]).ownerBusy (cReq 2 0 0x3000_01 0 [1]) = true) ∧
      (idle.ownerBusy (cReq 2 0 0x1001_03 0 [0, 1]) = false ∧ typeBad (cReq 2 0 0x1001_03 0 [0, 1]) = true) ∧
      (let s : State := { idle with server := { staging := [⟨0x3303_07, 1, [0]⟩] } }
       let q := cReq 4 1 0x3303_07 0 [1]
       s.stateBad q = false ∧ s.ownerBusy q = false ∧ typeBad q = false ∧ s.busy q = true) := by decide +kernel

/-- The start of an Eciabo frame of a kind, for a session, with a sequence number and a body length. -/
def ecHead (kind id seq n : Nat) : Bytes := be 2 0xEC1A ++ be 1 1 ++ be 1 kind ++ be 4 id ++ be 4 seq ++ be 2 0xFFFF ++ be 2 n

/-- An open session of principal 0. -/
def sess : Session := ⟨5, 0, 2, 7, 9, 4000, 0, [1, 2, 3], [1], [2], 0⟩

/-- A block in IDLE with principal 0 enabled, a session open and a session half-open. -/
def serving : State :=
  { withObjs idle [(0x1100_03, 1), (0x1100_02, 2)] with server := { sessions := [sess, { sess with id := 6, st := 1 }], nextId := 7, subs := [⟨5, 0x1200_01, 2, 10, 0⟩] } }

/-- A good frame of session 5 or 6. -/
def ecRx (h : Bytes) : Rx := ⟨9, 4000, 0, h ++ ecMac [1, 2, 3] h⟩

/-- The start of a frame that asks a READ of 0x1200.01 with a sequence number. -/
def readHead (seq : Nat) : Bytes := ecHead 5 5 seq 16 ++ be 1 1 ++ zeros 1 ++ be 2 0x1200 ++ be 1 1 ++ be 1 255 ++ zeros 10

theorem witness_NoPrincipalIsEnabledAtReset : (7 : Nat) < 8 ∧ idle.rd (0x1100_03 + 256 * fld (ecHead 1 0 0 20 ++ zeros 20) 16 1) ≠ 1 ∧ idle.Canon ∧
    ∃ t, exec (.open_ (rx [])) idle = .next t ∧ true = true :=
  ⟨by decide, by decide +kernel, canon_of (by decide +kernel), next_of (p := fun _ => true) (by decide +kernel)⟩

theorem witness_CPortRequestsAreAnswered :
    CAsks idle (cWords 1 0 0x1200_01 0 []) (cReq 1 0 0x1200_01 0 []) ∧ (∃ e ∈ dictRows, e.2 (cReq 1 0 0x1200_01 0 []) = true) ∧
      ∃ e ∈ dictRows, e.2 (cReq 1 0 0x1200_01 0 []) = false :=
  ⟨⟨by decide +kernel, by decide +kernel, by decide +kernel⟩, by decide +kernel, by decide +kernel⟩

theorem witness_OperationsDoWhatTheirOpSays :
    let q3 (fl : Nat) : DReq := { cReq 3 fl 0x3303_07 0 [] with len := 32, sess := 5 }
    let s : State := { idle with server := { frozen := [⟨0x3303_07, 5, zeros 32, 0⟩], staging := [⟨0x3303_07, 5, zeros 32⟩] } }
    let sub (m p : Nat) : DReq := { cReq 5 0 0x1200_01 0 (be 1 m ++ zeros 3 ++ be 4 p) with sess := 5 }
    idle.gateStatus 0 (cReq 1 0 0x1200_01 0 []) = 0 ∧ idle.gateStatus 2 (cReq 2 0 0x1001_03 0 [16]) = 0 ∧
      (idle.gateStatus 0 (q3 0) = 0 ∧ (q3 0).first = false ∧ (q3 0).last = false ∧ idle.frozenOf 5 0x3303_07 = none) ∧
      (idle.gateStatus 0 (q3 1) = 0 ∧ (q3 1).first = true ∧ (q3 1).last = false) ∧ (s.gateStatus 0 (q3 0) = 0 ∧ (s.frozenOf 5 0x3303_07).isSome = true) ∧
      (idle.gateStatus 2 (cReq 4 4 0x3303_07 0 []) = 0 ∧ (cReq 4 4 0x3303_07 0 []).abort = true) ∧
      (idle.gateStatus 2 (cReq 4 1 0x3303_07 31 [1]) = 0 ∧ (cReq 4 1 0x3303_07 31 [1]).abort = false ∧ (cReq 4 1 0x3303_07 31 [1]).last = false) ∧
      (s.gateStatus 2 { cReq 4 2 0x3303_07 31 [1] with sess := 5 } = 0 ∧ (cReq 4 2 0x3303_07 31 [1]).last = true) ∧
      (idle.gateStatus 1 (sub 0 0) = 0 ∧ fld (sub 0 0).data 0 1 = 0) ∧
      (idle.gateStatus 1 (sub 1 1) = 0 ∧ fld (sub 1 1).data 0 1 = 1 ∧ fld (sub 1 1).data 4 4 = 1) ∧
      (idle.gateStatus 1 (sub 2 3600000) = 0 ∧ fld (sub 2 3600000).data 0 1 = 2 ∧ fld (sub 2 3600000).data 4 4 = 3600000) := by decide +kernel

theorem witness_CommandWritesTakeEffect :
    let o : Obj := ⟨0x3301_04, .u8, .wo, 0, 0, 1, 1, 1, 1⟩
    let q := cReq 2 0 0x3301_04 0 [1]
    let o2 : Obj := ⟨0x6000_01, .octets, .wo, 1, 0, 32, 0, 0, 1⟩
    let q2 := cReq 4 3 0x6000_01 0 (zeros 32)
    CAsks idle (cWords 2 0 0x3301_04 0 [1]) q ∧ objOf 0x3301_04 = some o ∧ (idle.asked true).gateStatus (idle.asked true).cRole q = 0 ∧
      (idle.asked true).ownerCheck 0x3301_04 1 q.data = 0 ∧ rangeStatus o 1 = 0 ∧
      CAsks idle (cWords 4 3 0x6000_01 0 (zeros 32)) q2 ∧ objOf 0x6000_01 = some o2 ∧ (idle.asked true).gateStatus (idle.asked true).cRole q2 = 0 ∧ q2.last = true ∧ q2.abort = false :=
  ⟨⟨by decide +kernel, by decide +kernel, by decide +kernel⟩, by decide +kernel, by decide +kernel, by decide +kernel, by decide +kernel,
    ⟨by decide +kernel, by decide +kernel, by decide +kernel⟩, by decide +kernel⟩

/-- A write of v at the C-port with privilege meets every check. -/
def okWrite (s : State) (k v : Nat) (d : Bytes) : Bool :=
  match objOf k with
  | some o => (s.asked true).gateStatus (s.asked true).cRole (cReq 2 0 k 0 d) == 0 && (s.asked true).ownerCheck k v d == 0 && rangeStatus o v == 0 &&
      v == (if o.ty = .octets ∨ o.ty = .str then 0 else beNat d) && decide (cRequest (cWords 2 0 k 0 d) = some (cReq 2 0 k 0 d)) && s.up && !s.sensors.cStopped
  | none => false

theorem witness_PrincipalAndFunctionWritesTakeEffect :
    (okWrite idle 0x1107_01 0 (zeros 32) = true ∧ okWrite idle 0x1107_03 0 [0] = true ∧ okWrite idle 0x1201_06 1 [1] = true ∧ okWrite idle 0x1201_01 0 [0] = true ∧
      okWrite idle 0x1001_03 16 [16] = true ∧ okWrite idle 0x3303_07 0 (zeros 32) = true ∧ ∀ e ∈ commandWrites, (0x1001_03 ≠ e.1 ∧ 0x3303_07 ≠ e.1)) ∧
      (let s := withObjs idle [(0x1202_02, 3)]
       s.serving = true ∧ s.fn .deepTiers = 3 ∧ s.drained .deepTiers = true ∧ s.rd (0x1203_00 + fnCode .deepTiers) = 0) ∧
      (withObjs idle [(0x1202_02, 3)]).Canon ∧ idle.fn .deepTiers ≠ 3 ∧ (withObjs idle [(0x1202_01, 3)]).fn .coding = 3 ∧
      ({ withObjs idle [(0x1202_04, 3)] with yard := { fences := [(⟨0, 1, 8, 1, 0, 0, []⟩, 0)] } } : State).drained .yard = false :=
  ⟨by decide +kernel, by decide +kernel, canon_of (by decide +kernel), by decide +kernel⟩

theorem witness_SessionRequestsRunOnce :
    serving.Canon ∧ NAsks serving (ecRx (readHead 8)) (ecRequest (ecRx (readHead 8)).f) ∧
      serving.server.sessions.find? (·.id = 5) = some sess ∧ sess.st = 2 ∧ fld (readHead 8) 8 4 = sess.lastSeq + 1 ∧ fld (readHead 7) 8 4 = sess.lastSeq ∧
      (readHead 7 = ({ sess with lastReq := readHead 7 } : Session).lastReq) ∧ fld (readHead 9) 8 4 ≠ sess.lastSeq + 1 ∧ fld (readHead 9) 8 4 ≠ sess.lastSeq :=
  ⟨canon_of (by decide +kernel), ⟨by decide +kernel, ecCause_session serving sess (readHead 8) 5 (by decide +kernel) (by decide +kernel) (by decide +kernel)
    (by decide +kernel) (by decide +kernel) (by decide +kernel) (by decide +kernel) (by decide +kernel), by decide +kernel, rfl⟩, by decide +kernel⟩

theorem witness_SessionsOpenConfirmAndEnd :
    serving.Canon ∧ serving.ecServed = true ∧
      (serving.ecCause ⟨9, 4000, 0, (ecHead 1 0 0 20 ++ zeros 20) ++ ecMac (serving.principalKey (fld (ecHead 1 0 0 20 ++ zeros 20) 16 1)) (ecHead 1 0 0 20 ++ zeros 20)⟩ = 0 ∧
        serving.rd (0x1100_03 + 256 * fld (ecHead 1 0 0 20 ++ zeros 20) 16 1) = 1 ∧ serving.server.sessions.length < serving.rd 0x1001_03) ∧
      (serving.ecCause (ecRx (ecHead 3 6 0 0)) = 0 ∧ serving.server.sessions.find? (·.id = 6) = some { sess with id := 6, st := 1 }) ∧
      serving.ecCause (ecRx (ecHead 8 5 8 0)) = 0 ∧
      (serving.up = true ∧ serving.server.sessions.any (fun x => x.id == 6 && x.st == 1) = true ∧ serving.server.sessions.any (fun x => x.id == 5 && x.st == 2) = true) ∧
      (serving.flushing = false ∧ serving.server.sessions.find? (fun y => y.id == 5 && y.st == 2) = some sess ∧
        serving.server.subs.find? (fun y => y.sess == 5 && y.key == 0x1200_01) = some ⟨5, 0x1200_01, 2, 10, 0⟩ ∧
        (if serving.server.notified.1 = serving.now / 1000000000 then serving.server.notified.2 else 0) < serving.rd 0x1001_07) :=
  ⟨canon_of (by decide +kernel), by decide +kernel,
    ⟨ecCause_open serving 9 4000 _ (by decide +kernel) (by decide +kernel) (by decide +kernel) (by decide +kernel) (by decide +kernel) (by decide +kernel) (by decide +kernel),
      by decide +kernel⟩,
    ⟨ecCause_session serving { sess with id := 6, st := 1 } (ecHead 3 6 0 0) 3 (by decide +kernel) (by decide +kernel) (by decide +kernel) (by decide +kernel) (by decide +kernel)
      (by decide +kernel) (by decide +kernel) (by decide +kernel), by decide +kernel⟩,
    ecCause_session serving sess (ecHead 8 5 8 0) 8 (by decide +kernel) (by decide +kernel) (by decide +kernel) (by decide +kernel) (by decide +kernel) (by decide +kernel)
      (by decide +kernel) (by decide +kernel),
    by decide +kernel, by decide +kernel⟩

/-- A block whose boot record says that the boot is a trial. -/
def trialBoot : State := { inDev 1 with flash := Sparse.putBytes [] (2048 * 4096) (le 4 0x47425452 ++ le 1 1 ++ le 1 1) }

theorem witness_ResetPinAndRails : idle.dev ≠ 0 ∧ (inDev 0).dev = 0 := by decide +kernel

theorem witness_ReleaseReadsFusesAndEntersSelfTest : (inDev 0).Canon ∧ (inDev 0).dev = 0 ∧ idle.dev ≠ 0 ∧ (6 : Nat) < 7 := ⟨canon_of (by decide +kernel), by decide +kernel⟩

theorem witness_SelfTestEnds :
    idle.dev ≠ 1 ∧ (inDev 1).Canon ∧ (inDev 1).dev = 1 ∧ (bootRecord (inDev 1).flash).2.1 = false ∧ ([(11, 0)] : List (Nat × Nat)).any (·.1 = 11) = true ∧
      (∃ x ∈ ([(11, 0)] : List (Nat × Nat)), x.1 ∈ [0, 2, 3, 4, 5, 6, 8, 9, 10, 11]) ∧ trialBoot.dev = 1 ∧ (bootRecord trialBoot.flash).2.1 = true ∧
      ([(10, 0)] : List (Nat × Nat)).any (·.1 = 11) = false ∧ ∃ x ∈ ([(10, 0)] : List (Nat × Nat)), x.1 ∈ [0, 2, 3, 4, 5, 6, 8, 9, 10] :=
  ⟨by decide +kernel, canon_of (by decide +kernel), by decide +kernel⟩

/-- A block in IDLE whose watchdog has expired. -/
def expired (trial : Nat) : State := { withObjs idle [(0x7004_04, trial)] with sensors := { watchdog := true } }

theorem witness_WatchdogStopsThenResets :
    idle.up = true ∧ idle.sensors.watchdog = false ∧ (expired 0).Canon ∧ (expired 0).up = true ∧ (expired 0).sensors.watchdog = true ∧ (expired 0).rd 0x7004_04 ≠ 1 ∧
      (expired 1).Canon ∧ (expired 1).up = true ∧ (expired 1).rd 0x7004_04 = 1 :=
  ⟨by decide +kernel, by decide +kernel, canon_of (by decide +kernel), by decide +kernel, by decide +kernel, by decide +kernel, canon_of (by decide +kernel), by decide +kernel⟩

/-- A block in MEMBER with coding ON, in holdover. -/
def holding : State := withObjs (inDev 5) [(0x3180_04, 1), (0x1202_01, 2), (0x3200_02, 2)]

theorem witness_TimeInputSetsTheTimer :
    idle.Canon ∧ idle.up = true ∧ (withObjs idle [(pairKey 6, 16)]).Canon ∧ (withObjs idle [(pairKey 6, 16)]).up = true ∧ (withObjs idle [(pairKey 6, 16)]).pairValue 6 = true ∧
      idle.pairValue 6 = false ∧ idle.rd 0x7100_08 ≠ 1 ∧ idle.pairFault 6 = false ∧ idle.pairFault 4 = false ∧ holding.Canon ∧ holding.up = true ∧ holding.rd 0x3180_04 = 1 ∧
      holding.fn .coding = 2 ∧ holding.dev = 5 ∧ idle.rd 0x3180_04 ≠ 1 :=
  ⟨canon_of (by decide +kernel), by decide +kernel, canon_of (by decide +kernel), by decide +kernel, by decide +kernel, by decide +kernel, by decide +kernel, by decide +kernel,
    by decide +kernel, canon_of (by decide +kernel), by decide +kernel⟩

theorem witness_EpochTicksAndStepMarks :
    (inDev 1).Canon ∧ (inDev 1).up = true ∧ (inDev 1).serving = false ∧ idle.Canon ∧ idle.serving = true ∧
      (idle.pairFault 4 = false ∧ idle.pairValue 4 = false ∧ idle.sensors.markHeld = false ∧ idle.dev ≠ 5) ∧
      (holding.Canon ∧ holding.pairFault 4 = false ∧ holding.pairValue 4 = false ∧ holding.sensors.markHeld = false ∧ holding.dev = 5 ∧ holding.rd 0x3200_02 = 2 ∧
        holding.pass.armed = false) ∧
      ({ holding with pass := { armed := true } } : State).Canon ∧ ({ holding with pass := { armed := true } } : State).pass.armed = true ∧
      ({ idle with sensors := { markHeld := true } } : State).pairValue 4 = false ∧ ({ idle with sensors := { markHeld := true } } : State).pairFault 4 = false :=
  ⟨canon_of (by decide +kernel), by decide +kernel, by decide +kernel, canon_of (by decide +kernel), by decide +kernel, by decide +kernel,
    ⟨canon_of (by decide +kernel), by decide +kernel⟩, canon_of (by decide +kernel), by decide +kernel⟩

/-- A block in IDLE whose last slice is mapped out. -/
def noSeven : State := withObjs idle [(0x7F00_02, 128)]

theorem witness_FeedsFlushInTime :
    (idle.up = true ∧ idle.pairFault 1 = false ∧ idle.pairFault 2 = false) ∧
      (let s : State := { idle with sensors := { debouncing := true } }
       s.up = true ∧ s.sensors.debouncing = true ∧ (s.rd 0x7002_03).testBit 2 = false) ∧
      idle.sensors.debouncing = false ∧ idle.Canon ∧ ((withObjs idle [(0x7002_01, 0)]).rd 0x7002_01 = 0 ∧ (withObjs idle [(0x7002_01, 1)]).rd 0x7002_01 = 1 ∧
        (withObjs idle [(0x7002_01, 2)]).rd 0x7002_01 = 2) ∧ (4 : Nat) ≠ 5 ∧ (7 < idle.hw.slices ∧ idle.active 7 = true) ∧
      (7 < noSeven.hw.slices ∧ noSeven.active 7 = false) :=
  ⟨by decide +kernel, by decide +kernel, by decide +kernel, canon_of (by decide +kernel), by decide +kernel⟩

theorem witness_ClocksAndSideband :
    (idle.up = true ∧ idle.active 7 = true ∧ noSeven.up = true ∧ noSeven.active 7 = false) ∧ idle.sensors.fStopped = false ∧ idle.Canon ∧ (idle.pairFault 1 = false ∧ idle.pairFault 7 = false ∧ idle.pairFault 4 = false ∧ idle.pairFault 6 = false) ∧
      idle.rd 0x3180_04 = 0 ∧ (withObjs idle [(pairKey 7, 8)]).Canon ∧ (withObjs idle [(pairKey 7, 8)]).pairFault 7 = true ∧ (withObjs idle [(pairKey 1, 8)]).Canon ∧
      (withObjs idle [(pairKey 1, 8)]).pairFault 1 = true :=
  ⟨by decide +kernel, by decide +kernel, canon_of (by decide +kernel), by decide +kernel, by decide +kernel, canon_of (by decide +kernel), by decide +kernel,
    canon_of (by decide +kernel), by decide +kernel⟩

theorem witness_StorageCommandsComplete :
    let c : FCmd := ⟨3, 0, true, 9, 1, zeros 16, 4, false⟩
    let s : State := { idle with fOut := [c, { c with tag := 4, write := false, again := true }] }
    let z : State := { frozen with fOut := [c] }
    idle.fOpen.find? (·.tag = 3) = none ∧ s.fOpen.find? (·.tag = 3) = some c ∧ s.sensors.fStopped = false ∧ s.dev ≠ 8 ∧ c.again = false ∧
      s.fOpen.find? (·.tag = 4) = some { c with tag := 4, write := false, again := true } ∧ z.fOpen.find? (·.tag = 3) = some c ∧ z.dev = 8 ∧ z.sensors.fStopped = false ∧ c.write = true ∧
      255 % 256 ≠ 0 := by decide +kernel

theorem witness_FreezeStopsAndAnswers : idle.Canon ∧ idle.up = true ∧ idle.pairFault 3 = false ∧ (inDev 0).up = false ∧ (withObjs idle [(pairKey 3, 2)]).pairFault 3 = true :=
  ⟨canon_of (by decide +kernel), by decide +kernel⟩

/-- A FROZEN block under the lock. -/
def lockedFrozen : State := withObjs frozen [(0x7F00_01, 1)]

theorem witness_TestPortInstructions :
    frozen.padsFree = true ∧ idle.padsFree = false ∧ idle.Canon ∧ (frozen.locked = false ∧ frozen.dev = 8) ∧ (idle.locked = false ∧ idle.dev ≠ 8) ∧ lockedFrozen.locked = true :=
  ⟨by decide +kernel, by decide +kernel, canon_of (by decide +kernel), by decide +kernel⟩

theorem witness_InstrumentsCaptureOnlyWhenTheyMay :
    let o : State := { idle with tap := frozen.tap }
    let m : State := withObjs frozen [(0x7F00_02, 128)]
    let few : State := withObjs frozen [(0x7F00_07, 9)]
    (m.dev = 8 ∧ m.locked = false ∧ m.tap.ir = 0x10 ∧ m.tap.sibs.testBit 9 = true ∧ m.mappedOut 9 = true) ∧ (1 ≤ 32 ∧ (blowFuse 32 0 few.hw).activeAfter < few.rd 0x7F00_07) ∧
      (lockedFrozen.tap.ir = 0x10 ∧ lockedFrozen.tap.sibs.testBit 0 = true ∧ lockedFrozen.locked = true ∧ 32 < 33) ∧ (o.tap.sibs.testBit 0 = true ∧ o.dev ≠ 8) ∧ idle.tap.ir ≠ 0x10 ∧ ({ frozen with tap := { ir := 0x10 } } : State).tap.sibs.testBit 9 = false ∧ 9 < 2 + frozen.hw.slices ∧ frozen.tap.ir = 0x10 ∧ frozen.tap.sibs.testBit 0 = true ∧
      frozen.tap.sibs.testBit 9 = true ∧ (frozen.dev = 8 ∧ frozen.locked = false ∧ frozen.mappedOut 9 = false) ∧ (o.tap.ir = 0x10 ∧ o.dev ≠ 8 ∧ o.locked = false) ∧
      (lockedFrozen.dev = 8 ∧ lockedFrozen.locked = true ∧ lockedFrozen.sticky.refused < 65535 ∧ lockedFrozen.mappedOut 9 = false) ∧
      ((frozen.locked = true → 1 ≤ 32 ∧ 32 ≤ 32) ∧ frozen.rd 0x7F00_07 ≤ (blowFuse 32 0 frozen.hw).activeAfter) := by decide +kernel

/-! ### A member of a job: device 2 of 1 to 4, two data and two parity members in one group -/

/-- The start of a frame of job 7 at halter number 1. -/
def hdr (kind src : Nat) : Bytes := be 1 kind ++ be 1 0 ++ be 2 src ++ be 4 1 ++ be 8 7

/-- Device `own` of the job, in a device state, with coding in a state. -/
def job (own d c : Nat) : State :=
  { withObjs ((inDev d).wrO 0x7102_01 0 (le 8 0 ++ le 8 (2 ^ 30) ++ le 4 12 ++ le 4 255)) [(0x1000_08, own), (0x3200_09, 7), (0x3200_01, 1), (0x3200_02, 2), (0x1202_01, c), (0x3000_01, 2), (0x3000_02, 2), (0x3002_04, 128), (0x3002_05, 128), (0x3002_01, 0x100000), (0x3002_02, 0x100000), (0x3201_01, 0x200000), (0x3201_02, 0x100000)] with
    member := { members := [1, 2, 3, 4], groups := [[1, 2, 3, 4]], order := [1, 2, 3, 4] } }

/-- Device 2 pairing with device 3, in its domain table. -/
def twinned (d st : Nat) : State :=
  withObjs { ((job 2 d 0).wrO 0x5101_01 0 (le 4 1)).wrO 0x3001_01 0 (le 2 2 ++ zeros 10 ++ le 2 3 ++ zeros 10) with audit := { keyed := true }, twin := { incarnation := 4 } }
    [(0x7005_01, 3), (0x7005_08, st), (0x7005_0B, 0), (0x3001_02, 31), (0x5100_03, 513)]

/-- An Offer or an Accept from device 3, with a verdict. -/
def offerFrame (kind verdict : Nat) : Bytes := hdr kind 3 ++ be 2 2 ++ be 1 1 ++ be 1 verdict ++ zeros 4 ++ be 4 ((twinned 3 1).rd 0x3180_01) ++ be 8 0 ++ be 4 9 ++ zeros 32

theorem witness_TwinsPairAndPart :
    let s := twinned 3 1
    (s.serving = true ∧ s.pairing = true ∧ s.own < s.rd 0x7005_01) ∧ s.Canon ∧
      (frameKind (rx (offerFrame 0x80 0)) = 0x80 ∧ (s.ce (rx (offerFrame 0x80 0))).fromTwin (offerFrame 0x80 0) = true ∧ (s.ce (rx (offerFrame 0x80 0))).pairing = true) ∧
      (frameKind (rx (offerFrame 0x81 1)) = 0x81 ∧ s.fromTwin (offerFrame 0x81 1) = true ∧ frameKind (rx (offerFrame 0x81 0)) = 0x81 ∧ s.fromTwin (offerFrame 0x81 0) = true) ∧
      fld (offerFrame 0x81 1) 19 1 ≠ 0 ∧ (fld (offerFrame 0x81 0) 19 1 = 0 ∧ s.pairReason (offerFrame 0x81 0) = 0) ∧
      (s.modTwin fun x => { x with partner := fld (offerFrame 0x81 0) 36 4 }).takeTwinReserve.1 = true ∧
      (let c : State := s.wrO 0x5101_01 144 (le 4 1)
       c.Canon ∧ c.serving = true ∧ c.pairing = true ∧ c.reserve 9 ≠ 0 ∧ frameKind (rx (hdr 0x82 3 ++ be 4 4)) = 0x82 ∧ c.fromTwin (hdr 0x82 3 ++ be 4 4) = true ∧ fld (hdr 0x82 3 ++ be 4 4) 16 4 = c.twin.incarnation) ∧
      (let p := twinned 4 2
       p.Canon ∧ p.serving = true ∧ p.paired = true ∧ p.rd 0x7005_08 = 2 ∧ (frameKind (rx (hdr 0x83 3 ++ zeros 40)) = 0x83 ∧ frameKind (rx (hdr 0x84 3 ++ zeros 8 ++ be 2 1 ++ zeros 70)) = 0x84 ∧ frameKind (rx (hdr 0x85 3)) = 0x85) ∧
         p.fromTwin (hdr 0x83 3 ++ zeros 40) = true ∧ p.fromTwin (hdr 0x84 3 ++ zeros 8 ++ be 2 1 ++ zeros 70) = true ∧ p.fromTwin (hdr 0x85 3) = true ∧ (fld (hdr 0x83 3 ++ zeros 40) 16 1).testBit 2 = false ∧
         fld (hdr 0x84 3 ++ zeros 8 ++ be 2 1 ++ zeros 70) 24 2 = 1) :=
  ⟨by decide +kernel, canon_of (by decide +kernel), by decide +kernel, by decide +kernel, by decide +kernel, by decide +kernel, by decide +kernel,
    ⟨canon_of (by decide +kernel), by decide +kernel⟩, canon_of (by decide +kernel), by decide +kernel⟩

theorem witness_RotationsMultiply : canonical (p61 - 1) = true ∧ canonical 0 = true ∧ 60 ≤ 60 := by decide +kernel

theorem witness_DeltasHaveExactFieldImages : clamp60 w64Max = w64Max ∧ clamp60 (-w64Max) = -w64Max := by decide +kernel

theorem witness_FieldArithmeticIsExact : 2 ^ 122 - 1 < 2 ^ 122 ∧ canonical (p61 - 1) = true ∧ clamp60 w64Max = w64Max := by decide +kernel

/-- A line of space W with one delta at the end of its range. -/
def edgeLine : List Int := (2 ^ 61 - 2) :: List.replicate 31 0

theorem witness_LinesPackAndUnpack :
    (1 < 2 ∧ edgeLine.length = elems 0 ∧ (∀ x ∈ edgeLine, deltaOk 0 x = true) ∧ edgeLine.any (· != 0) = true) ∧ (65 : Byte).toNat > 64 ∧ ([] : Bytes).length < 32 * (1 : Byte).toNat / 8 := by
  decide +kernel

theorem witness_DataFramesReadAsTheyWereSent :
    let s := job 1 5 2
    let h := job 3 5 2
    let ls : List (Nat × List Int) := [(3, edgeLine), (66, edgeLine)]
    0 < 2 ∧ ls ≠ [] ∧ ls.Pairwise (fun a b => a.1 < b.1) ∧ (∀ l ∈ ls, 3 ≤ l.1 ∧ l.1 < 3 + 64 ∧ l.1 < h.band false 0 ∧ l.2.length = elems 0 ∧ l.2.all (deltaOk 0) = true) ∧
      ls.head?.map (·.1) = some 3 ∧ 3 < 2 ^ 32 ∧ sumN (ls.map (fun l => (packLine l.2).length)) < 65536 ∧ 254 < 256 ∧ 254 % 2 = 0 ∧ s.stepOf 5 < 2 ^ 64 ∧ s.own < 65536 ∧
      s.halter < 2 ^ 32 ∧ s.job < 2 ^ 64 ∧ h.job = s.job ∧ h.halter = s.halter ∧ h.parityIn false 0 = some 0 ∧ 0 < h.k ∧ (h.groupOf false 0).getD 0 0xFFFF = s.own := by decide +kernel

/-- A data frame of device 1 with the lines of two stripes. -/
def goodData (flags : Nat) : Bytes := (job 1 5 2).dataFrame false flags 0 5 0 0 0 [(3, edgeLine), (66, edgeLine)]

/-- A judgement with an error of the number n, or a good one. -/
def judged (n : Nat) : Except Nat (Nat × List (Nat × List Int)) → Bool
  | .error m => m == n
  | .ok (j, ls) => n == 0 && j == 0 && ls == [(3, edgeLine), (66, edgeLine)]

/-- The start of a data frame of device 1 at a halter number, of a job. -/
def headOnly (num job : Nat) : Bytes := be 1 0x10 ++ be 1 0 ++ be 2 1 ++ be 4 num ++ be 8 job

/-- A state after the frame's congestion mark and its note of the sender. -/
def hearing (s : State) (f : Bytes) : State := (s.ce (rx f)).hearFrame f

/-- A frame of a kind whose judgement in a state has the number n. -/
def judgesAs (s : State) (f : Bytes) (n : Nat) : Bool := frameKind (rx f) == 0x10 && judged n ((hearing s f).judgeData false f)

theorem witness_DataFramesJoinOnceOrAreDropped :
    let s := job 3 5 2
    let f := goodData 0
    let u := hearing s f
    let fill := goodData 2
    let covered := hearing (s.modCouch fun c => { c with ins := [⟨1, 0, false, 1, 0⟩] }) f
    let folding := hearing (s.modCouch fun c => { c with folding := some 1 }) f
    let none_ := hearing (withObjs s [(0x3100_0A, 0)]) f
    let bad := hearing { s with poison := [(s.feltAddr false 0 0 3).getD 0 / 8] } fill
    s.serving = true ∧ judgesAs s (headOnly 1 8) 1 = true ∧ (judgesAs s (headOnly 2 7) 2 = true ∧ fld (headOnly 2 7) 4 4 > (hearing s (headOnly 2 7)).halter) ∧
      (judgesAs s (headOnly 0 7) 2 = true ∧ fld (headOnly 0 7) 4 4 ≤ (hearing s (headOnly 0 7)).halter) ∧
      judgesAs s (patch f 56 (be 8 1)) 10 = true ∧ judgesAs s f 0 = true ∧ (covered.inStream 1 0 false).covers (fld f 36 4) = true ∧
      ((u.inStream 1 0 false).covers (fld f 36 4) = false ∧ u.stripeErased 0 0 [3, 66] = false ∧ u.couch.folding = none ∧ u.fn .coding = 2 ∧
        bit (fld f 1 1) 1 = false ∧ u.vatLack false 0 (u.bankOf (windowOf u.deckle (fld f 24 8))) 0 [3, 66] = none) ∧
      (folding.couch.folding = some 1 ∧ folding.bankOf 1 = folding.bankOf (windowOf folding.deckle (fld f 24 8))) ∧
      none_.vatLack false 0 (none_.bankOf (windowOf none_.deckle (fld f 24 8))) 0 [3, 66] = some 0 ∧
      (judgesAs s fill 0 = true ∧ bit (fld fill 1 1) 1 = true ∧ (hearing s fill).feltFaultIn 0 0 [3, 66] = none) ∧ (bad.feltFaultIn 0 0 [3, 66]).isSome = true := by decide +kernel

/-- A descriptor of 64 W64 elements at 0x40000, with a working copy at 0x60000. -/
def desc : Desc := ⟨0, 10, 0, 0, 0, 0, 20, 0, 0, 0, 0, 0, 0, 2, 32, 0x40000, 0, 0, 0, 0x60000, false, true, false, 64, 0⟩

/-- A mould of that descriptor, with the completion area at 0x70000. -/
def mould : Mould := ⟨[desc], [], [], [], [], 0, 0, 0, 0x70000⟩

/-- Device `own` with that mould, whose W band lies in group 0. -/
def coded (own d c : Nat) : State := { (job own d c).wrO 0x3003_02 0 (le 2 0 ++ le 2 0xFFFF) with pass := { mould := some mould } }

theorem witness_TermsAreAddedElementByElement :
    (job 3 5 2).Canon ∧ (job 3 5 2).feltAddr false 0 1 127 = some (0x100000 + 256 * 128 + 512 * 127) ∧ (List.replicate 64 (p61 - 1)).length = elems 1 ∧
      (∀ w ∈ (job 3 5 2).feltWords (0x100000 + 256 * 128 + 512 * 127) 1, canonical w = true) ∧ (∀ w ∈ List.replicate 64 (p61 - 1), canonical w = true) ∧
      (∃ v ∈ [(⟨0, false, 0, 1, 127, [1]⟩ : VatLine)], v.is false 0 0 1 127 = true) ∧ (⟨0, false, 0, 1, 127, [1]⟩ : VatLine).is false 0 1 1 127 = false :=
  ⟨canon_of (by decide +kernel), by decide +kernel⟩

/-- A frame of stream 0 of group 0 that parity 0 has acknowledged and parity 1 has not. -/
def outFrame : OutFrame := ⟨0, 0, false, 5, 1, be 1 0x10 ++ zeros 63, false, false, [], [0]⟩

theorem witness_AcknowledgedFramesLeave :
    let s := (job 1 5 2).modCouch fun c => { c with out := [outFrame], own := some [1] }
    let f : Bytes := hdr 0x11 4 ++ be 2 0 ++ be 1 0 ++ be 1 1 ++ be 4 5 ++ be 8 0
    s.serving = true ∧ (frameKind (rx (be 1 0x11 ++ be 1 0 ++ be 2 4 ++ be 4 1 ++ be 8 8)) = 0x11 ∧ (s.gate (be 1 0x11 ++ be 1 0 ++ be 2 4 ++ be 4 1 ++ be 8 8)).1 = false) ∧
      (frameKind (rx f) = 0x11 ∧ (s.gate f).1 = true) ∧
      ((s.gate f).2.holders false 0).getD 1 0xFFFF = fld f 2 2 ∧ ((s.gate f).2.groupOf false 0).getD 0 0xFFFF = (s.gate f).2.own ∧
      ¬ (((s.gate f).2.holders false 0).getD 0 0xFFFF = fld f 2 2) ∧ s.couch.out.find? (fun o => o.group == 0 && o.role == 0 && o.tgt == false && o.seq == 5 && !(o.acked.contains 1)) = some outFrame ∧
      (s.holders false 0)[1]? = some 4 ∧ (∀ o ∈ s.couch.out, ¬ (o.group = 0 ∧ o.role = 0 ∧ o.tgt = false ∧ o.seq = 5 ∧ 0 ∉ o.acked)) ∧ (∀ o ∈ s.couch.out, ¬ (o.group = 0 ∧ o.tgt = false ∧ 0 ∉ o.acked)) ∧ (∃ o ∈ s.couch.out, o.group = 0 ∧ o.tgt = false ∧ 1 ∉ o.acked) ∧
      s.couch.own = some [1] := by decide +kernel

theorem witness_WindowsSealAndFold :
    let n (d : Nat) : Notice := ⟨d, 9, 1, 4, false⟩
    let s := (job 3 5 2).modCouch fun c => { c with notices := [n 1, n 2, n 3, n 4] }
    let fold (v : List VatLine) : State := s.modCouch fun c => { c with folding := some 1, vats := v }
    let stuck : State := { fold [⟨0, false, 1, 0, 0, [1]⟩] with poison := [(s.feltAddr false 0 0 0).getD 0 / 8] }
    ([n 1, n 2].find? (fun x => x.dev = (n 2).dev) = some (n 2)) ∧ (s.serving = true ∧ frameKind (rx (hdr 0x12 1 ++ zeros 40)) = 0x12 ∧ frameKind (rx (hdr 0x12 9 ++ zeros 40)) = 0x12 ∧ s.flushing = false) ∧ (s.gate (hdr 0x12 1 ++ zeros 40)).1 = true ∧ fld (hdr 0x12 1) 2 2 ∈ (s.gate (hdr 0x12 1 ++ zeros 40)).2.member.members ∧
      fld (hdr 0x12 9) 2 2 ∉ (s.gate (hdr 0x12 9 ++ zeros 40)).2.member.members ∧ s.Canon ∧
      (s.member.members ≠ [] ∧ s.fn .coding ≠ 1 ∧ 1 = (s.committed / max s.deckle 1 + 1) * max s.deckle 1) ∧
      (∀ d ∈ s.member.members, ∃ x, s.couch.notices.find? (fun y => y.dev = d) = some x ∧ 1 ≤ x.bstep) ∧ s.couch.folding = none ∧ s.member.cut = none ∧
      (fold [⟨0, false, 1, 0, 0, [1]⟩]).couch.folding = some 1 ∧
      ((fold [⟨0, false, 1, 0, 0, [1]⟩]).foldBank ((fold [⟨0, false, 1, 0, 0, [1]⟩]).bankOf 1)).couch.vats.any (fun v => v.bank == (fold [⟨0, false, 1, 0, 0, [1]⟩]).bankOf 1) = false ∧
      (fold []).Canon ∧ (7 < s.hw.slices ∧ s.active 7 = true) ∧
      (stuck.couch.folding = some 1 ∧ (stuck.foldBank (stuck.bankOf 1)).couch.vats.any (fun v => v.bank == stuck.bankOf 1) = true) := by
  refine ⟨by decide +kernel, by decide +kernel, by decide +kernel, by decide +kernel, by decide +kernel, canon_of (by decide +kernel), by decide +kernel, ?_, by decide +kernel,
    by decide +kernel, by decide +kernel, by decide +kernel, canon_of (by decide +kernel), by decide +kernel, by decide +kernel⟩
  intro d h
  have : d = 1 ∨ d = 2 ∨ d = 3 ∨ d = 4 := by simpa [job, State.modCouch] using h
  rcases this with rfl | rfl | rfl | rfl <;> exact ⟨_, rfl, by decide⟩

theorem witness_FillsCoverEveryLine :
    let st : OutStream := ⟨0, 0, false, 5, 0, []⟩
    let s (b : Bytes) : State := ((coded 1 5 1).mwr 0x40000 b).modCouch fun c => { c with fill := [⟨1, 0, 0⟩], streams := [st] }
    let z := s []
    let t : State := { withObjs (coded 1 5 2) [(0x3202_02, 2)] with
      member := { (coded 1 5 2).member with refill := [⟨1, 0, 0⟩], target := [[1, 2, 3, 4]], targetW := 128, targetN := 128 }, couch := { streams := [{ st with tgt := true }] } }
    let u := (t.rush ⟨1, 0, 0⟩).pump
    (z.serving = true ∧ z.couch.fill = [⟨1, 0, 0⟩] ∧ z.lineRole ⟨1, 0, 0⟩ = some (0, 0, 0) ∧ z.lineAddr ⟨1, 0, 0⟩ = some 0x40000 ∧
      z.couch.streams.find? (fun t => t.group == 0 && t.role == 0 && !t.tgt) = some st ∧ z.fn .coding = 1 ∧ z.unacked st < 64) ∧ (z.lineVals 0 0x40000).all (· == 0) = true ∧
      ((s [1]).lineVals 0 0x40000).all (· == 0) = false ∧ (job 1 5 1).couch.fill = [] ∧ (job 1 5 1).member.refill = [] ∧
      (t.serving = true ∧ t.member.refill = [⟨1, 0, 0⟩] ∧ t.rd 0x3202_02 = 2 ∧ t.member.cut = none) ∧
      (u.targetRole ⟨1, 0, 0⟩ = some (0, 0, 0) ∧ u.lineAddr ⟨1, 0, 0⟩ = some 0x40000 ∧ u.couch.streams.find? (fun t => t.group == 0 && t.role == 0 && t.tgt) = some { st with tgt := true } ∧
        u.unacked { st with tgt := true } < 64 ∧ u.entry ⟨1, 0, 0⟩ = none) ∧ st.group = 0 ∧ st.role = 0 ∧ st.tgt = false := by decide +kernel

theorem witness_SuspectsBecomeLost :
    let x : SuspectRec := ⟨4, 1, 10, 2, false⟩
    let s (own : Nat) : State := { withObjs (job own 5 2) [(0x7005_01, 4), (0x7005_08, 2)] with
      member := { (job own 5 2).member with suspects := [x, { x with dev := 3, waits := 1, postponed := true }], heard := [(4, 10), (3, 10)] } }
    let f : Bytes := hdr 0x20 2 ++ be 2 4 ++ be 1 2
    let u (own : Nat) := ((s own).gate f).2
    ((s 1).serving = true ∧ frameKind (rx f) = 0x20 ∧ frameKind (rx (be 1 0x20 ++ be 1 0 ++ be 2 2 ++ be 4 0 ++ be 8 7)) = 0x20) ∧
      (frameKind (rx (hdr 0x27 4 ++ be 2 4 ++ be 1 2)) = 0x27 ∧ ((s 1).gate (hdr 0x27 4 ++ be 2 4 ++ be 1 2)).1 = true ∧ ((s 2).gate (hdr 0x27 4 ++ be 2 4 ++ be 1 2)).2.leadOf ≠ (u 2).own) ∧ ((s 1).gate (be 1 0x20 ++ be 1 0 ++ be 2 2 ++ be 4 0 ++ be 8 7)).1 = false ∧ ((s 1).gate f).1 = true ∧ (u 1).leadOf = (u 1).own ∧ (u 1).paired = true ∧
      fld f 16 2 = (u 1).rd 0x7005_01 ∧ fld (hdr 0x20 2 ++ be 2 3) 16 2 ≠ (u 1).rd 0x7005_01 ∧ (u 2).leadOf ≠ (u 2).own ∧ (u 2).paired = true ∧ fld f 16 2 = (u 2).rd 0x7005_01 ∧
      ((s 1).leadOf = (s 1).own ∧ (s 1).member.suspects.find? (fun y => y.dev = 4) = some x ∧ 10 ≤ x.since ∧ 1 < x.waits) ∧
      ((s 1).member.suspects.find? (fun y => y.dev = 3) = some { x with dev := 3, waits := 1, postponed := true }) ∧
      (((s 1).modMember fun m => { m with heard := [(4, 11)] }).member.heard.find? (fun y => y.1 == 4) = some (4, 11)) ∧
      (4 ∈ (s 1).member.members ∧ 4 ∉ (s 1).member.lost ∧ (s 1).halter ≠ 0xFFFF_FFFF ∧ (s 1).member.proposal = none ∧ (3 ≠ 3 ∨ 4 ∈ (s 1).member.members)) ∧ ¬ ((s 2).paired = true ∧ 3 = (s 2).rd 0x7005_01) ∧ canonB (s 1) = true := by decide +kernel

theorem witness_ProposalsAreTakenAndCounted :
    let p : Proposal := ⟨2, 1, 1, [1, 2, 3], [4], 0⟩
    let f (ms : List Nat) (num : Nat) : Bytes := hdr 0x21 1 ++ be 4 num ++ be 1 1 ++ be 1 ms.length ++ be 1 1 ++ zeros 1 ++ be 8 0 ++ (ms.map (be 2)).flatten ++ be 2 4
    let s := job 2 5 2
    let u := s.hear 1
    let z : State := withObjs (job 2 5 2) [(0x3200_01, 0)]
    let l (acc : List AcceptRec) : State := { job 1 5 2 with member := { (job 1 5 2).member with proposal := some p, accepts := acc } }
    let a (dev num cur : Nat) (k : Bytes) : Bytes := hdr 0x22 dev ++ be 4 num ++ be 4 cur ++ zeros 32 ++ k
    (s.serving = true ∧ s.flushing = false ∧ frameKind (rx (f [1, 2, 3] 2)) = 0x21 ∧ (l []).flushing = false ∧ frameKind (rx (a 2 2 1 (zeros 32))) = 0x22) ∧
    (s.serving = true ∧ s.ourJob (f [1, 2, 3] 2) = true ∧ fld (f [1, 2, 3] 2) 4 4 = s.halter ∧ 1 ∈ s.member.members) ∧
      (u.halter ≠ 0 ∧ u.halter < fld (f [1, 2, 3] 2) 16 4 ∧ u.leadOf = fld (f [1, 2, 3] 2) 2 2) ∧ u.own ∈ idsAt (f [1, 2, 3] 2) 32 (fld (f [1, 2, 3] 2) 21 1) ∧ u.dev ≠ 7 ∧
      u.own ∉ idsAt (f [1, 3] 2) 32 (fld (f [1, 3] 2) 21 1) ∧ fld (f [1, 2, 3] 1) 16 4 ≤ u.halter ∧
      (z.halter = 0 ∧ z.own ∈ idsAt (f [1, 2, 3] 1) 32 3 ∧ fld (f [1, 2, 3] 1) 16 4 = 1 ∧ z.preferred 1 1 = true ∧ z.ourJob (f [1, 2, 3] 1) = true ∧ z.flushing = false) ∧
      ({ z with member := { z.member with proposal := some p } }.halter = 0 ∧ ∃ d ∈ p.members, ∀ x ∈ z.member.accepts, x.dev ≠ d) ∧
      ((l []).serving = true ∧ (l []).member.proposal = some p ∧ (l []).ourJob (a 2 2 1 (zeros 32)) = true ∧ fld (a 2 2 1 (zeros 32)) 4 4 = (l []).halter) ∧
      fld (a 2 3 1 (zeros 32)) 16 4 ≠ p.num ∧ (fld (a 2 2 2 (zeros 32)) 16 4 = p.num ∧ 2 ∈ p.members ∧ p.num ≤ fld (a 2 2 2 (zeros 32)) 20 4 ∧ fld (a 2 2 2 (zeros 32)) 20 4 < 0xFFFF_FFFF) ∧ fld (a 2 2 1 (zeros 32)) 20 4 < p.num ∧
      slice (a 2 2 1 (be 32 1)) 56 32 ≠ ((l []).hear 2).settingsKey ∧ slice (a 2 2 1 (zeros 32)) 56 32 = ((l []).hear 2).settingsKey ∧
      (∃ d ∈ p.members, ∀ x ∈ (l []).member.accepts, x.dev ≠ d) ∧
      (let q := l (p.members.map (fun d => ⟨d, 1, 0, 0, 0⟩))
       p.kind = 1 ∧ (∀ d ∈ p.members, ∃ x ∈ q.member.accepts, x.dev = d) ∧ q.quorum p.members = true) ∧ canonB (l []) = true ∧ canonB z = true ∧ (l []).halter ≠ 0 ∧
      s.member.proposal = none := by decide +kernel

/-- A proposal of halter number 2 by device 1, which leaves device 4 out. -/
def prop2 : Proposal := ⟨2, 1, 1, [1, 2, 3], [4], 0⟩

/-- A Cut for halter number `num` with a list of `n` members. -/
def cutFrame (num n : Nat) : Bytes := hdr 0x23 1 ++ be 4 num ++ be 8 6 ++ zeros 32 ++ be 1 0 ++ zeros 3 ++ be 1 n ++ zeros (7 + 8 * n)

theorem witness_CutsAndReleasesMoveTheJob :
    let s : State := { job 2 5 2 with member := { (job 2 5 2).member with accepted := some prop2 } }
    let roll (c : Nat) : State := { job 2 4 2 with member := { (job 2 4 2).member with rolling := some c } }
    let owes : State := { roll 5 with member := { (roll 5).member with owed := [⟨⟨1, 0, 0⟩, 0, 1, 0, []⟩] } }
    let ready (d v : Nat) : ReadyRec := ⟨d, 2, v, 6, 0⟩
    let lead : State := { job 1 4 2 with member := { (job 1 4 2).member with cut := some (6, 1, 0), readies := [ready 1 0, ready 2 0, ready 3 1, ready 4 0] } }
    (s.serving = true ∧ s.flushing = false ∧ frameKind (rx (cutFrame 2 3)) = 0x23 ∧ s.ourJob (cutFrame 2 3) = true ∧ fld (cutFrame 2 3) 4 4 = s.halter ∧ s.member.accepted = some prop2) ∧
      ((job 2 5 2).member.accepted = none ∧ (job 2 5 2).halter ≠ 0 ∧ (job 2 5 2).halter < fld (cutFrame 2 3) 16 4 ∧ (job 2 5 2).dev ≠ 7 ∧ fld (cutFrame 2 3) 2 2 ≤ (job 2 5 2).leadOf) ∧ s.halter ≠ 0xFFFF_FFFF ∧
      (fld (cutFrame 2 3) 16 4 = prop2.num ∧ fld (cutFrame 2 3) 2 2 = prop2.sender ∧ fld (cutFrame 2 3) 64 1 = prop2.members.length) ∧ fld (cutFrame 3 3) 16 4 ≠ prop2.num ∧
      fld (cutFrame 2 4) 64 1 ≠ prop2.members.length ∧ canonB s = true ∧ (job 2 5 2).member.rolling = none ∧ ((roll 5).serving = true ∧ (roll 5).member.rolling = some 5 ∧ (roll 5).member.owed = []) ∧ owes.member.owed ≠ [] ∧
      (let f : Bytes := hdr 0x24 2 ++ be 4 2 ++ be 1 2 ++ be 1 0
       (frameKind (rx f) = 0x24 ∧ s.ourJob f = true ∧ fld f 4 4 = s.halter)) ∧
      (lead.leadOf = lead.own ∧ lead.member.cut.isSome = true ∧ ∀ d ∈ lead.member.members, ∃ x ∈ lead.member.readies, x.phase = 2 ∧ x.dev = d) ∧ s.leadOf ≠ s.own ∧
      (let f : Bytes := hdr 0x25 1 ++ be 4 1 ++ zeros 8 ++ be 1 0
       (frameKind (rx f) = 0x25 ∧ (s.gate f).1 = true ∧ fld f 16 4 = (s.gate f).2.halter ∧ fld f 2 2 = (s.gate f).2.leadOf)) ∧
      (s.member.accepted.isSome = true ∧ s.halter ≠ 0 ∧ s.flushing = false) ∧
      (let f : Bytes := hdr 0x26 1 ++ be 4 2 ++ be 2 2
       (frameKind (rx f) = 0x26 ∧ s.ourJob f = true ∧ s.halter < fld f 16 4 ∧ fld f 20 2 = s.own)) ∧ s.dev ≠ 7 := by decide +kernel

/-- A Join request of device 5, late or not, as twin of device 4, of this settings key. -/
def joinReqFrame (late : Nat) (key : Bytes) : Bytes := hdr 0x28 5 ++ be 2 4 ++ be 1 late ++ zeros 1 ++ be 4 10 ++ be 4 10 ++ be 8 (2 ^ 20) ++ be 4 (State.reset.rd 0x3180_01) ++ be 8 (State.reset.rd 0x3180_02) ++ key

/-- Rebuild data of one line of felt, with its check. -/
def rebuiltFrame (e chk : Nat) : Bytes := hdr 0x2A 1 ++ be 2 0 ++ be 1 0 ++ be 1 1 ++ be 4 3 ++ be 1 2 ++ zeros 7 ++ be 8 chk ++ (List.replicate e (be 8 (p61 - 1))).flatten

/-- A Journal mirror of device 3 at halter number 0. -/
def oldMirror : Bytes := be 1 0x2B ++ be 1 0 ++ be 2 3 ++ be 4 0 ++ be 8 7 ++ zeros 20

/-- A Rebuild read of one line of the data role 0 of group 0. -/
def rdFrame : Bytes := hdr 0x29 2 ++ be 2 0 ++ be 1 0 ++ be 1 1 ++ be 4 0 ++ be 1 0 ++ zeros 7

/-- Device 1 with an unreadable line of its own. -/
def readBlk : State := { coded 1 5 2 with poison := [0x40000 / 8] }

/-- The line that the read names cannot be read. -/
def readBlocked : Bool :=
  ((List.range (min (fld rdFrame 19 1) (readBlk.band false 0 - fld rdFrame 20 4))).findSome? (fun i => readBlk.readBlocked (fld rdFrame 16 2) (fld rdFrame 24 1) 0 (fld rdFrame 20 4 + i))).isSome

theorem witness_JoinsRebuildsAndMirrors :
    let s (own h : Nat) : State := { withObjs ((job own 5 2).wrO 0x3001_01 0 (le 2 5 ++ zeros 10)) [(0x3200_01, h)] with member := { (job own 5 2).member with dead := [4] } }
    let f (late : Nat) := joinReqFrame late (zeros 32)
    let g : Bytes := rebuiltFrame (elems 0) (couchCheck (elems 0) [(0, List.replicate (elems 0) ((p61 - 1 : Nat) : Int))])
    let g0 : Bytes := hdr 0x2A 1 ++ be 2 0 ++ be 1 0 ++ be 1 0 ++ be 4 3 ++ be 1 2 ++ zeros 15
    let t : State := { job 3 4 2 with member := { (job 3 4 2).member with awaited := [(0, 0, 3, 2)] } }
    let p : State := twinned 4 2
    let w : State := { s 1 0 with member := { (s 1 0).member with joining := true } }
    (w.serving = true ∧ w.member.joining = true ∧ 6 ≠ 0 ∧ frameKind (rx (f 0)) = 0x28 ∧ frameKind (rx (f 1)) = 0x28) ∧
    ((s 1 0).serving = true ∧ frameKind (rx (be 1 0x28 ++ zeros 7 ++ be 8 8)) = 0x28 ∧ (s 1 0).ourJob (be 1 0x28 ++ zeros 7 ++ be 8 8) = false ∧ (s 1 0).ourJob (f 0) = true) ∧
      ((s 1 0).halter = 0 ∧ fld (f 1) 18 1 = 1 ∧ slice (joinReqFrame 0 (be 32 1)) 48 32 ≠ (s 1 0).settingsKey) ∧
      (fld (f 0) 18 1 ≠ 1 ∧ slice (f 0) 48 32 = (s 1 0).settingsKey ∧ fld (f 0) 36 4 = (s 1 0).rd 0x3180_01 ∧ fld (f 0) 40 8 = (s 1 0).rd 0x3180_02) ∧
      ((s 1 1).halter ≠ 0 ∧ (s 1 1).leadOf = (s 1 1).own ∧ (s 1 1).member.cut = none ∧ (s 1 1).member.proposal = none ∧ (s 1 1).halter ≠ 0xFFFF_FFFF ∧ (s 1 1).ourJob (f 1) = true) ∧
      ((s 1 1).joinRefusal (f 1) = none ∧ (s 1 1).joinRefusal (joinReqFrame 1 (be 32 1)) = some 1 ∧
      (readBlk.serving = true ∧ (readBlk.gate rdFrame).1 = true ∧ (readBlk.gate rdFrame).2.member.rolling = none ∧ readBlocked = true) ∧
      ((s 1 1).serving = true ∧ frameKind (rx (hdr 0x29 2 ++ zeros 16)) = 0x29 ∧ ((s 1 1).gate (hdr 0x29 2 ++ zeros 16)).1 = true ∧ ((s 1 1).gate (hdr 0x29 2 ++ zeros 16)).2.member.rolling = none ∧
        ({ s 1 1 with member := { (s 1 1).member with rolling := some 5 } }.gate (hdr 0x29 2 ++ zeros 16)).2.member.rolling = some 5)) ∧
      (frameKind (rx g0) = 0x2A ∧ (t.gate g0).1 = true ∧ fld g0 19 1 = 0) ∧ (frameKind (rx (rebuiltFrame 1 0)) = 0x2A ∧ fld (rebuiltFrame 1 0) 19 1 ≠ 0) ∧
      (t.serving = true ∧ frameKind (rx g) = 0x2A ∧ (t.gate g).1 = true ∧ fld g 18 1 ≤ 1 ∧ g.length = 40 + 8 * fld g 19 1 * elems (fld g 18 1) ∧
        (∀ i < elems 0, canonical (fld g (40 + 8 * i) 8) = true) ∧ fld g 19 1 = 1 ∧ (fld g 16 2, fld g 18 1, fld g 20 4, fld g 24 1) ∈ (t.gate g).2.member.awaited) ∧
      fld g 32 8 = couchCheck (elems 0) ((List.range 1).map (fun i => (i, (((List.range 1).map (fun i => (List.range (elems 0)).map (fun x => fld g (40 + 8 * (i * elems 0 + x)) 8))).getD i []).map Int.ofNat))) ∧
      fld (rebuiltFrame 1 0) 18 1 ≤ 1 ∧ (rebuiltFrame 1 0).length ≠ 40 + 8 * fld (rebuiltFrame 1 0) 19 1 * elems 0 ∧
      (p.serving = true ∧ frameKind (rx (hdr 0x2B 3 ++ zeros 20)) = 0x2B ∧ p.paired = true ∧ fld (hdr 0x2B 3 ++ zeros 20) 2 2 = p.rd 0x7005_01 ∧ p.ourJob (hdr 0x2B 3 ++ zeros 20) = true ∧
        p.halter ≤ fld (hdr 0x2B 3 ++ zeros 20) 4 4) ∧ fld (hdr 0x2B 2 ++ zeros 20) 2 2 ≠ p.rd 0x7005_01 ∧
      (fld oldMirror 2 2 = p.rd 0x7005_01 ∧ p.ourJob oldMirror = true ∧ fld oldMirror 4 4 < p.halter) :=
  ⟨by decide +kernel, by decide +kernel, by decide +kernel, by decide +kernel, by decide +kernel, by decide +kernel⟩

theorem witness_LostImagesAreRebuiltExactly :
    (31 ≤ 31 ∧ (∀ i < 31, canonical ((fun i => p61 - 1 - i) i) = true) ∧ [0, 1, 30].Pairwise (· < ·) ∧ (∀ a ∈ [0, 1, 30], a < 31) ∧ [0, 1, 2].Pairwise (· < ·) ∧ (∀ j ∈ [0, 1, 2], j < 3) ∧
      [0, 1, 2].length = [0, 1, 30].length) := by decide +kernel

/-- Member 2 of a yard of members 2 and 9, with region 0 of one page at offset 0. -/
def yarded : State :=
  { withObjs (((job 2 3 0).wrO 0x5001_01 0 (le 32 (1 + 2 ^ 128))).wrO 0x5003_01 180 (le 4 (2 ^ 16))) [(0x1202_04, 2), (0x5000_01, 77), (0x5000_04, 2)] with
    yard := { maps := [⟨9, 1, 70000, [(70000, 1), (69999, 2), (69998, 3)]⟩], receipts := [⟨9, 69999, 0, 5, 8⟩], pages := [⟨0, 0, 1, true, false, 0, 0⟩] } }

/-- A receipt query of one record from yard member 9. -/
def queryFrame (chk : Nat) : Bytes := be 1 0x62 ++ zeros 1 ++ be 2 9 ++ be 2 2 ++ be 2 1 ++ be 4 77 ++ be 4 1 ++ zeros 8 ++ be 8 chk ++ be 4 5 ++ zeros 4

theorem witness_YardOperationsRunOnceAndOnTheirWord :
    let s := yarded
    let f := queryFrame (frameCheck (queryFrame 0))
    let q (seq : Nat) : YReq := ⟨9, 1, seq, 3, 8, 248, 1, 0, [], false⟩
    let v (seq : Nat) : Nat := (s.yMap 9 1 seq).val seq
    let o : YOp := ⟨0, 9, 3, 248, 8, 1, 0, [], 0, [], none, true, false, true, 5, 0⟩
    let t : State := s.modYard fun y => { y with ops := [o] }
    let c : YComb := ⟨0, [q 5], false⟩
    let u : State := s.modYard fun y => { y with combs := [c] }
    (s.serving = true ∧ frameKind (rx f) = 0x62 ∧ s.yDrop (queryFrame 1) ≠ 0 ∧ s.yDrop f = 0) ∧
      (∀ k ∈ [0x60, 0x61, 0x62, 0x63, 0x64], frameKind (rx (be 1 k ++ zeros 40)) = k ∧ s.yDrop (be 1 k ++ zeros 40) ≠ 0) ∧ (v 4463 = 4 ∧ v 4464 ≠ 4) ∧ v 70000 = 1 ∧ v 69998 = 3 ∧
      (v 69999 = 2 ∧ s.yard.receipts.find? (fun r => r.src == 9 && r.seq == 69999) = some ⟨9, 69999, 0, 5, 8⟩) ∧
      (List.replicate 256 (0 : Byte)).length = 256 ∧ 248 % 256 + 8 ≤ 256 ∧ 252 % 256 + 4 ≤ 256 ∧ 3 ≤ 12 ∧
      t.ySentOp 9 5 = some o ∧ s.ySentOp 9 5 = none ∧ (∀ c ∈ s.yard.combs, c.line ≠ 0) ∧
      (u.yard.combs.find? (fun c => c.line == 255 / 256 * 256) = some c ∧ u.yPageAt (255 / 256 * 256) = some (s.yRegion 0, 0) ∧
        u.yPage (s.yRegion 0).num 0 = some ⟨0, 0, 1, true, false, 0, 0⟩ ∧ u.yard.rehash = none ∧ (s.yRegion 0).num = 0 ∧ (s.yRegion 0).coded = false ∧ (s.yRegion 0).cls = 0) ∧
      2 ≤ s.fn .yard ∧ (job 2 3 0).fn .yard < 2 ∧ (job 2 3 0).serving = true := by decide +kernel

/-- Call 1 of layer 0 at step 1, of one token, with its places allotted or not. -/
def call (allotted : Bool) : Call := ⟨0, 1, 1, 0, 0, 1, 0, [0], [⟨0, 0, 0, some 0, 0, 0⟩], [], [], allotted, true, true, [], [], [], [], []⟩

/-- A unit with that call, whose layer 0 has a mode and one expert. -/
def routing (mode : Nat) (c : Call) : State :=
  { (job 1 3 0).wrO 0x4101_01 0 (le 64 (1 + mode * 2 + 2 ^ 32 + 2 ^ 48 + 2 ^ 64 + 2 ^ 112 + 2 ^ 12 * 11)) with route := { calls := [c] } }

theorem witness_CallsAreRankedAllottedAndCombined :
    let cnt := [[0, 0, 0, 0, 0, 1], [0, 0, 0, 0, 0, 2]]
    let P := [(0, 1)]
    let Q := [(3, 1), (4, 1)]
    (0 ≤ 1 ∧ 1 < cnt.length ∧ (∀ x ∈ P, x.2 < 2) ∧ (∀ x ∈ Q, x.2 < 2) ∧ (∀ e < 2, (P.filter (fun x => x.2 = e)).length = (cnt.getD 0 []).getD (e + 4) 0)) ∧
      ((assign 3 0 2 cnt [0, 0] P).1[0]? = some (0, some 0) ∧ (assign 3 1 2 cnt [0, 0] Q).1[1]? = some (4, some 2)) ∧
      ((routing 0 (call true)).serving = true ∧ (routing 0 (call true)).flushing = false ∧ (routing 0 (call true)).callOf 0 1 2 = none ∧ (routing 0 (call true)).callOf 0 1 1 = some (call true)) ∧
      (call true).allotted = true ∧ (call false).allotted = false ∧ (routing 0 (call false)).accComplete (call false) = false ∧ (routing 0 (call true)).accComplete (call true) = true ∧
      (call true).passed = true ∧ ((routing 1 (call true)).layerAt 0).mode = 1 ∧ ((routing 0 (call true)).layerAt 0).mode ≠ 1 ∧
      (routing 0 (call false)).roundRows (call false) = none ∧ canonB (routing 0 (call true)) = true ∧
      (let y := (routing 0 (call true)).layerAt 0
       (∀ j < (call true).count, y.combAt 1 j y.dh ≤ 40) ∧ y.scores + 40 ≤ 40) := by decide +kernel

theorem witness_SumsAreExactInAnyOrder :
    [([1] : Bytes), [2]].Perm [[2], [1]] ∧ [(2 : Int) ^ 63].length = [(-2 : Int) ^ 63].length ∧ 511 < 512 := by decide

/-- Device `own` with stream 0 reduced in member mode. -/
def reducing (own : Nat) : State := withObjs ((job own 5 2).wrO 0x4001_01 0 (le 64 0x205)) [(0x1202_03, 2)]

/-- The header of a reduction frame over counts, of chunk 0 of stream 0 at a step, from device 2. -/
def sumFrame (kind flags step stream e c idx : Nat) : Bytes :=
  be 1 kind ++ be 1 (2 + flags) ++ be 2 2 ++ be 4 1 ++ be 8 7 ++ be 8 step ++ be 2 stream ++ be 1 0xC ++ be 1 1 ++ be 4 0 ++ be 2 e ++ be 2 c ++ be 4 0 ++ be 2 0 ++ be 2 idx ++ zeros 20

theorem slice_zeros (h : Bytes) (n o m : Nat) (k : h.length ≤ o) : slice (h ++ zeros n) o m = zeros m := by
  have e : (h ++ zeros n).drop o = zeros (n - (o - h.length)) := by
    rw [List.drop_append, List.drop_of_length_le k]
    simp [zeros]
  unfold slice
  rw [e]
  simp only [zeros, List.take_replicate, List.length_replicate, List.replicate_append_replicate]
  congr 1
  omega

theorem residues_zeros (n : Nat) : residues (List.replicate n 0) = (0, 0) := by
  have d (x : Nat) : (List.replicate n (0 : Int)).getD x 0 = 0 := by
    rw [List.getD_eq_getElem?_getD, List.getElem?_replicate]
    split <;> rfl
  have e (l : List Nat) : l.foldl (fun (a : Nat × Nat) x => let v := (List.replicate n (0 : Int)).getD x 0
      ((a.1 + (v % (q31 : Int)).toNat) % q31, (a.2 + (((x + 1 : Nat) : Int) * v % (q31 : Int)).toNat) % q31)) (0, 0) = (0, 0) := by
    induction l with
    | nil => rfl
    | cons x l k =>
      simp only [d] at k ⊢
      simpa using k
  unfold residues
  exact e _

/-- A result of zeros with a good header passes R213. -/
theorem resultFault_zeros (s : State) (k : CKey) (h : Bytes) (n : h.length = 64) (f : s.keyFmt k = 0xC) (f' : fld h 26 1 = 0xC) (w : (fld h 1 1).testBit 0 = false)
    (e : some (fld h 32 2) = s.expectE k) (c : fld h 34 2 = fld h 32 2) (r : fld h 48 4 = 0 ∧ fld h 52 4 = 0) : s.resultFault k (h ++ zeros 2048) = none := by
  have v : elemVals 0xC (h ++ zeros 2048) = List.replicate 512 0 := by
    have z : ∀ i, fld (h ++ zeros 2048) (64 + 4 * i) 4 = 0 := fun i => by
      unfold fld
      rw [slice_zeros _ _ _ _ (by omega)]
      rfl
    simp [elemVals, gWidth, z, List.map_const', -List.reduceReplicate]
  have g (o m : Nat) (k : o + m ≤ 64 := by decide) : fld (h ++ zeros 2048) o m = fld h o m := fld_append h _ o m (by omega)
  have z : (zeros 2048).length = 2048 := List.length_replicate
  have h1 : ¬ (fld (h ++ zeros 2048) 26 1 ≠ s.keyFmt k ∨ (h ++ zeros 2048).length ≠ 64 + 512 * gWidth (s.keyFmt k) ∨
      (elemVals (s.keyFmt k) (h ++ zeros 2048)).any (fun v => decide (¬ elemOk (s.keyFmt k) v = true)) = true) := by
    rw [f, v, g 26 1, List.length_append, n, z, List.any_replicate]
    simp [f', gWidth, elemOk]
  have h2 : ¬ (fld (h ++ zeros 2048) 1 1).testBit 0 = true := by rw [g 1 1, w]; exact Bool.false_ne_true
  have h3 : ¬ (some (fld (h ++ zeros 2048) 32 2) ≠ s.expectE k ∨ fld (h ++ zeros 2048) 34 2 ≠ fld (h ++ zeros 2048) 32 2) := by simp [g 32 2, g 34 2, e, c]
  have h4 : ¬ residues (elemVals (s.keyFmt k) (h ++ zeros 2048)) ≠ (fld (h ++ zeros 2048) 48 4, fld (h ++ zeros 2048) 52 4) := by
    rw [f, v, residues_zeros, g 48 4, g 52 4, r.1, r.2]
    exact fun x => x rfl
  exact (if_neg h1).trans ((if_neg h2).trans ((if_neg h3).trans (if_neg h4)))

theorem witness_ResultsTaintsAndPeaksArrive :
    let s := reducing 1
    let f := sumFrame 0x40 8 1 0 4 1 1 ++ zeros 2048
    let k := keyOf f
    let h (n : Nat) : HomeSlot := ⟨k, 1, 4, 0xC, List.range n, [], 0, 0, 0, 0, 0, 0, false, n⟩
    let withHome (n : Nat) : State := s.modRed fun r => { r with homes := [h n] }
    let x (a : Nat) : Sent := ⟨k, a, 0, []⟩
    let y (a st : Nat) (late : Bool) : RRes := ⟨k, a, st, late, false, false, [], 0, 0, 0, 0⟩
    let withRes (r : RRes) : State := s.modRed fun m => { m with res := [r], sent := [x 1] }
    let full : State := withObjs s [(0x4000_09, 0)]
    let alone := HomeSlot.add ⟨k, 1, 4, 0xC, [], [], 0, -32768, 0, 0, 0, 0, false, 0⟩
    let note := sumFrame 0x43 0 1 0 1 0 1
    (∀ x ∈ [0x40, 0x41, 0x42, 0x43], frameKind (rx (sumFrame x 8 1 0 4 1 1)) = x) ∧ s.serving = true ∧ ((fld (sumFrame 0x40 0 1 0 4 1 1) 1 1).testBit 3 = false ∧ s.keyKnown (keyOf (sumFrame 0x40 8 1 1 4 1 1)) = false ∧ (reducing 2).homeOf k ≠ (reducing 2).own ∧
        (keyOf (sumFrame 0x40 8 0 0 4 1 1)).step ≤ s.committed) ∧
      ((fld f 1 1).testBit 3 = true ∧ s.keyKnown k = true ∧ s.homeOf k = s.own ∧ s.committed < k.step ∧ (s.redGate f k).1 = true ∧ fld f 26 1 = 0xC ∧ fld f 42 2 < fld f 32 2 ∧
        f.length = 64 + 512 * gWidth (fld f 26 1)) ∧
      ((s.redGate f k).2.red.homes = [] ∧ (s.redGate f k).2.redRoom k = true ∧ (full.redGate f k).1 = true ∧ (full.redGate f k).2.redRoom k = false ∧
        (alone f).c ≠ fld f 32 2 ∧ (alone (sumFrame 0x40 8 1 0 4 4 1)).c = 4) ∧
      (((withHome 1).redGate f k).2.red.homes.find? (fun h => h.key = k ∧ h.attempt = fld f 27 1) = some (h 1) ∧ (h 1).e = fld f 32 2 ∧ (h 1).fmt = fld f 26 1 ∧ fld f 42 2 ∉ (h 1).seen ∧
        ((h 1).add f).c ≠ fld f 32 2) ∧
      fld f 42 2 ∈ (h 2).seen ∧ (fld (sumFrame 0x40 8 1 0 4 1 3) 42 2 ∉ (h 3).seen ∧ ((h 3).add (sumFrame 0x40 8 1 0 4 1 3)).c = 4) ∧
      (s.receives k = true ∧ (withRes (y 1 0 false)).resOf k = some (y 1 0 false) ∧ fld f 27 1 ≤ (y 1 0 false).attempt ∧ (y 0 0 true).attempt < fld f 27 1) ∧ s.resOf k = none ∧
      s.resultFault k (sumFrame 0x41 8 1 0 4 3 1) ≠ none ∧
      ((withRes (y 0 0 true)).resOf k = some (y 0 0 true) ∧ ((withRes (y 0 0 true)).redGate f k).2.resOf k = some (y 0 0 true) ∧
        (y 0 0 true).late = true) ∧
      (s.keyKnown ⟨1, 0, false, false, 0⟩ = true ∧ fld note 32 2 ≠ 0 ∧ fld note 32 2 ≤ 1024 ∧ 40 + 6 * fld note 32 2 ≤ note.length ∧ (s.redGate note ⟨1, 0, false, false, 0⟩).1 = true ∧
        (s.redGate note ⟨1, 0, false, false, 0⟩).2.committed < 1) ∧
      ((s.inc 0x8400_04).keyKnown k = true ∧ (s.inc 0x8400_04).flushing = false ∧ ((s.inc 0x8400_04).redGate f k).1 = true) ∧
      (s.awaitedAttempt k = none ∧ (withRes (y 0 0 true)).awaitedAttempt k = some 1) ∧ s.flushing = false ∧ (sumFrame 0x43 0 1 0 335 0 1).length < 40 + 6 * 335 ∧ fld (sumFrame 0x43 0 1 0 0 0 1) 32 2 = 0 ∧
      ((s.modRed fun m => { m with sent := [x 6] }).sentOf k = some (x 6) ∧ 6 < 7 ∧ 6 ≠ (s.modRed fun m => { m with sent := [x 6] }).rd 0x4000_03) ∧
      ((withRes (y 0 0 true)).sentOf k = some (x 1) ∧ (withRes (y 0 0 true)).receives k = true ∧ (y 0 0 true).attempt < (x 1).attempt) ∧ s.sentOf k = none ∧
      (withRes (y 0 0 false)).resOf k = some (y 0 0 false) ∧ (y 0 0 false).late = false ∧ (y 0 0 false).st ≠ 1 :=
  ⟨by decide +kernel, by decide +kernel, by decide +kernel, by decide +kernel, by decide +kernel, by decide +kernel, by decide +kernel, by decide +kernel, by decide +kernel, by decide +kernel⟩

theorem witness_ResultsTaintsAndPeaksArrive_good :
    (reducing 1).resultFault (keyOf (sumFrame 0x41 8 1 0 4 4 1)) (sumFrame 0x41 8 1 0 4 4 1 ++ zeros 2048) = none ∧
      keyOf (sumFrame 0x41 8 1 0 4 4 1) = keyOf (sumFrame 0x41 8 1 0 4 4 1 ++ zeros 2048) :=
  ⟨resultFault_zeros _ _ _ (by decide +kernel) (by decide +kernel) (by decide +kernel) (by decide +kernel) (by decide +kernel) (by decide +kernel) (by decide +kernel), by decide +kernel⟩

/-- The mould with the descriptor in form 2. -/
def mould2 : Mould := { mould with descs := [{ desc with form := 2 }] }

/-- A unit in the step of a form-2 update, whose lines lie at slice 0. -/
def tiled : State := { job 1 3 0 with pass := { mould := some mould2, live := [⟨.update 0, List.replicate 8 0, [], 1, []⟩] } }

theorem witness_ArraysComputeTilesAndProducts :
    let s := job 1 3 0
    let out := withObjs s [(0x7F00_02, 128)]
    let w := 1 + 2 * 2 ^ 17
    let v : List (List Int) := [List.replicate 32 1]
    let q (x : List (List Int)) (u : Nat) : State := s.modArr 7 fun a => { a with jobs := [⟨w, x, v, v⟩], started := true, upd := u }
    let go (x : List (List Int)) (u : Nat) : State := ((q x u).modArr 7 fun a => { a with jobs := [⟨w, x, v, v⟩] }).macGo 7
    let ramp (r : Ramp) : State := s.modArr 7 fun a => { a with arr1 := { a.arr1 with ramp := r } }
    (31 < 32 ∧ 1 % 3 ≠ 0 ∧ (List.replicate 32 (5 : Int)).length = 32) ∧ (7 < out.hw.slices ∧ out.active 7 = false) ∧
      (7 < s.hw.slices ∧ s.active 7 = true ∧ s.serving = true ∧ s.pass.mould = none) ∧
      (tiled.pass.mould = some mould2 ∧ tiled.tileSet mould2 7 = [] ∧ tiled.tileSet mould2 0 ≠ [] ∧ tiled.active 0 = true) ∧
      (macRefused 0 = true ∧ macRefused w = false) ∧ (s.arr 7).jobs = [] ∧
      (((q [] 0).arr 7).jobs = [⟨w, [], v, v⟩] ∧ (MacJob.more ⟨w, [], v, v⟩ {}) = ⟨w, [], v, v⟩ ∧ ((go [] 0).arr 7).upd < macLen w) ∧
      (((q v 1).arr 7).jobs = [⟨w, v, v, v⟩] ∧ (MacJob.more ⟨w, v, v, v⟩ {}) = ⟨w, v, v, v⟩ ∧ ((go v 1).arr 7).paused = false ∧ (go v 1).tileNeeded 7 = false ∧ macLen w ≤ ((go v 1).arr 7).upd) ∧
      (((ramp .hold).arr 7).get 1).ramp = .hold ∧ (((ramp .stopping).arr 7).get 1).ramp = .stopping ∧ ((s.arr 7).get 1).ramp ≠ .hold ∧ ((s.arr 7).get 1).ramp ≠ .stopping := by decide +kernel

theorem witness_PassUpdatesInRangeAndEndsTheStep :
    let s : State := coded 1 5 0
    let t : TPass := ⟨.update 0, List.replicate 8 2, List.replicate 8 (0, 0), 0, []⟩
    let run (p : Pass) : State := { s with pass := { p with mould := some mould, running := true } }
    let ended : TPass := { t with cursors := List.replicate 8 64 }
    (s.serving = true ∧ s.pass.running = false ∧ State.reset.pass.mould = none ∧ 7 < s.hw.slices ∧ s.active 7 = true) ∧
      ((run {}).serving = true ∧ (run {}).pass.mould = some mould ∧ (run {}).pass.running = true ∧ (run {}).pass.todo = []) ∧
      ((run { todo := [.update 0] }).pass.todo = [.update 0] ∧ mould.desc 0 = some desc ∧ (∀ x ∈ (run { todo := [.update 0] }).pass.live, x.work ≠ .update 0) ∧
        (run { todo := [.update 0] }).reduced (run { todo := [.update 0] }).step desc = some false) ∧
      ((run {}).countCommitHold.passMayWrite = false ∧ (run { ticked := true }).countCommitHold.passMayWrite = true) ∧ (run {}).nextCast mould = none ∧
      (let u := run { todo := [.ema 0 0], live := [{ t with cursors := List.replicate 8 0 }] }
       u.pass.todo = [.ema 0 0] ∧ (∀ x ∈ u.pass.live, x.work ≠ .ema 0 0) ∧ (∃ x ∈ u.pass.live, u.linesDone mould x = false) ∧
         ∀ x ∈ (run { live := [ended] }).pass.live, (run { live := [ended] }).linesDone mould x = true) ∧
      (let u := run { live := [{ ended with sums := [(1, 0)] }] }
       u.pass.live.find? (fun x => x.work.desc == 0 && u.linesDone mould x) = some { ended with sums := [(1, 0)] } ∧ ({ ended with sums := [(1, 0)] } : TPass).agrees = false) ∧
      (desc.work = true ∧ (run { live := [ended] }).pass.live.find? (fun x => x.work.desc == 0 && (run { live := [ended] }).linesDone mould x) = some ended ∧ ended.agrees = true) ∧
      (∀ x ∈ (run {}).pass.live, x.work.desc ≠ 0) ∧
      (0 ∈ (run { done := [0] }).pass.done ∧ (run { done := [0] }).pass.todo = [] ∧ (run { done := [0] }).pass.live = []) ∧ 0 ∉ (run {}).pass.done ∧
      (canonB (run {}) = true ∧ mould.compl ≠ 0 ∧ mould.compl - 1 + 1 ≤ mould.compl + 8 * 0 ∧ mould.compl + 8 * 0 + 8 ≤ mould.compl + 8) ∧
      ((run {}).stepReady = true ∧ (run {}).sensors.doneWaits = none) ∧ (run { todo := [.update 0] }).stepReady = false ∧
      ((run {}).sensors.doneLevel = 0 ∧ 3 ≤ (run {}).sensors.doneFrames ∧ ((run {}).modSensors fun x => { x with doneFrames := 2 }).sensors.doneFrames < 3 ∧ (run {}).up = true ∧
        ((run {}).modSensors fun x => { x with doneLevel := 1 }).sensors.doneLevel = 1) ∧
      (let u := (run {}).modSensors fun x => { x with doneWaits := some 4 }
       u.sensors.doneLevel = 0 ∧ u.sensors.doneWaits = some 4 ∧ 2 ≤ u.sensors.doneFrames) ∧
      ((run {}).pass.importing = none ∧ (run { importing := some (0, 10, 0x80000) }).pass.importing = some (0, 10, 0x80000)) :=
  ⟨by decide +kernel, by decide +kernel, by decide +kernel, by decide +kernel, by decide +kernel, by decide +kernel⟩

/-- A tensor of 512 gradients of stream 0, with its stream declared, before and after the reduction is complete. -/
def graded (r : List RRes) : State :=
  let d : Desc := { desc with stream := 0 }
  { withObjs ((coded 1 5 0).wrO 0x4001_01 0 (le 64 0x205)) [(0x1202_03, 2)] with pass := { mould := some { mould with descs := [d] }, running := true, todo := [.update 0] }, red := { res := r } }

theorem witness_PassUpdates_waits_and_starts :
    let d : Desc := { desc with stream := 0 }
    (graded []).reduced (graded []).step d = none ∧ (graded [⟨⟨(graded []).step, 0, false, false, 0⟩, 0, 2, false, true, false, [], 0, 0, 0, 0⟩]).reduced (graded []).step d = some true ∧
      (∀ x ∈ (graded []).pass.live, x.work ≠ .update 0) ∧ d.form ≠ 2 ∧ d.form ≠ 3 ∧ d.num = 0 := by decide +kernel

theorem witness_PassUpdates_form2 :
    let d : Desc := { desc with stream := 0, form := 2 }
    let u (c : List (Nat × Nat)) : State :=
      { graded [⟨⟨(graded []).step, 0, false, false, 0⟩, 0, 2, false, true, false, [], 0, 0, 0, 0⟩] with
        pass := { (graded []).pass with mould := some { mould with descs := [d] } }, arrays := { cast := c } }
    (u []).reduced (u []).step d = some true ∧ (∀ c ∈ (u []).arrays.cast, c.2 ≠ (u []).pass.turns + 1) ∧ ∃ c ∈ (u [(0, 1)]).arrays.cast, c.2 = (u [(0, 1)]).pass.turns + 1 := by decide +kernel

theorem witness_PassUpdates_cuts_the_step_of_form_3 :
    let d : Desc := { desc with stream := 0, form := 3, amul := 31000 }
    let m : Mould := { mould with descs := [d] }
    (step3 d (m.aEta d 0)).2 = true := by decide +kernel

theorem witness_PassUpdates_imports :
    (∃ e, importAll 10 20 0 [0x7F80] = .error e) ∧ ∃ vs, importAll 10 20 0 [0x3F80] = .ok vs := ⟨⟨_, rfl⟩, ⟨_, rfl⟩⟩

/-- Device 1, lead of site 1, which coordinates sites 1 and 2, with site exchange on and a round due at step 1. -/
def exchanging : State :=
  { withObjs (((job 1 5 2).wrO 0x4201_02 0 (le 2 1 ++ le 2 1 ++ be 16 (2 ^ 64))).wrO 0x4201_02 20 (le 2 2 ++ le 2 1 ++ be 16 (2 ^ 65))) [(0x1202_06, 2), (0x4200_01, 1), (0x4200_02, 1), (0x4200_14, 2), (0x3181_01, 1)] with
    exch := { released := some 1 }, pass := { ticked := true } }

/-- A packet of one symbol for block 0 of device 1's shard, from site 2. -/
def hauled (sym : Nat) : Bytes := be 1 0x50 ++ be 1 0 ++ be 2 2 ++ be 2 1 ++ zeros 2 ++ be 8 7 ++ be 4 0 ++ be 4 0 ++ be 4 7 ++ be 2 0 ++ be 1 0 ++ be 1 1 ++ be 1 0 ++ zeros 1 ++ be 2 1 ++ zeros 4 ++ be 8 5 ++ zeros 16 ++ be 7 sym

theorem witness_RoundsSweepAndMerge :
    let s := exchanging
    let x (f : Exch → Exch) : State := s.modExch f
    let away : State := withObjs s [(0x4200_01, 2)]
    let manifest : Bytes := zeros 20 ++ be 4 1 ++ zeros 72
    let held : State := x fun e => { e with pays := [⟨false, 2, 1, 0, 0, []⟩] }
    let set : XSet := ⟨false, 2, 1, 0, 0, 7, 0, 2, 1, [(0, [5])], none⟩
    let f (site shard job : Nat) : Bytes := be 1 0x53 ++ zeros 1 ++ be 2 shard ++ zeros 4 ++ be 8 job ++ be 2 site ++ be 1 0 ++ zeros 100
    let full : XSet := { set with data := some [5, 6] }
    let y (t : List XSet) : Option XSet := t.find? (fun q => !q.anchor && q.site == 2 && q.shard == 1 && q.round == 0 && q.block == 0 && q.set == 0)
    [((1 : Nat), (3 : Int)), (2, -4)].Perm [(2, -4), (1, 3)] ∧ (0 : Int) < 2 ^ 31 ∧ (∀ k ∈ [0x50, 0x51, 0x52, 0x53, 0x54, 0x55, 0x56], frameKind (rx (be 1 k ++ zeros 80)) = k) ∧ ((job 1 5 2).serving = true ∧ (job 1 5 2).exchOn = false) ∧ (s.serving = true ∧ s.exchOn = true) ∧
      (x fun e => { e with released := none }).xRound = none ∧ (x fun e => { e with sweep := some (1, 0, 0) }).exch.sweep.isSome = true ∧
      (canonB s = true ∧ s.xRound = some 1 ∧ s.exch.sweep = none ∧ s.passMayWrite = true ∧ s.rd 0x4200_14 ≠ 1) ∧
      (away.site ≠ away.coordinator ∧ (job 2 5 2).leadOf ≠ (job 2 5 2).own ∧ s.rd 0x4200_13 < 1 ∧ ((x fun e => { e with manifests := [manifest] }).manifestOf 1).isSome = true) ∧
      (s.site = s.coordinator ∧ s.leadOf = s.own ∧ 0 ≤ s.rd 0x4200_13 ∧ s.manifestOf 0 = none) ∧ s.exch.holdAt = none ∧ (x fun e => { e with holdAt := some 0 }).exch.holdAt ≠ none ∧
      (held.payOf false 2 1 0 0).isSome = true ∧
      (s.payOf false 2 1 0 0 = none ∧ (x fun e => { e with sets := [set] }).exch.sets.find? (fun q => !q.anchor && q.site == 2 && q.shard == 1 && q.round == 0 && q.block == 0 && q.set == 0) = some set ∧ set.data = none) ∧
      (y (x fun e => { e with sets := [full] }).exch.sets = some full ∧ full.data.isSome = true ∧ y s.exch.sets = none) ∧
      s.manifestOk (zeros 96) = false ∧ s.packetDrop (hauled 6) ≠ 0 ∧ (s.packetDrop (hauled 5) = 0 ∧ held.packetDrop (hauled 5) = 0 ∧
        (held.payOf ((fld (hauled 5) 1 1).testBit 1) (fld (hauled 5) 2 2) (fld (hauled 5) 4 2) (fld (hauled 5) 16 4) (fld (hauled 5) 20 4)).isSome = true) ∧
      s.siteFrom 0 = none ∧ (s.siteFrom (2 ^ 65 + 3) = some 2 ∧ fld (f 2 1 8) 8 8 ≠ s.job ∧ fld (f 2 1 7) 8 8 = s.job) ∧ (∀ y ∈ s.sites, y.1 ≠ fld (f 3 1 7) 16 2) ∧
      (∃ y ∈ s.sites, y.1 = fld (f 2 1 7) 16 2) ∧ (s.gate (f 2 1 7)).1 = false ∧ ((s.gate (hdr 0x50 2)).1 = true ∧ ((job 2 5 2).gate (hdr 0x50 3)).2.leadOf ≠ ((job 2 5 2).gate (hdr 0x50 3)).2.own) ∧
      ((withObjs s [(0x4200_14, 1)]).rd 0x4200_14 = 1 ∧ fld (f 1 1 7) 16 2 = s.coordinator ∧ fld (f 1 1 7) 18 1 = 0 ∧ fld (patch (f 1 1 7) 18 [1]) 18 1 ≠ 0) := by decide +kernel

theorem slice_append (h m : Bytes) (o n : Nat) (k : o + n ≤ h.length) : slice (h ++ m) o n = slice h o n := by
  have e : ((h ++ m).drop o).take n = (h.drop o).take n := by
    rw [List.drop_append_of_le_length (by omega), List.take_append_of_le_length (by simp; omega)]
  unfold slice
  rw [e]

/-- The first manifest of site 1, for round 1 and without contributions, before its digest. -/
def firstManifest : Bytes := zeros 8 ++ be 8 7 ++ be 2 1 ++ be 2 0 ++ be 4 1 ++ zeros 8 ++ zeros 32

theorem witness_RoundsSweepAndMerge_manifest : exchanging.manifestOk (firstManifest ++ sha256 firstManifest) = true := by
  have n : firstManifest.length = 64 := by decide +kernel
  have g (o m : Nat) (k : o + m ≤ 64 := by decide) : fld (firstManifest ++ sha256 firstManifest) o m = fld firstManifest o m := fld_append _ _ o m (by omega)
  have p : slice (firstManifest ++ sha256 firstManifest) 32 32 = zeros 32 := by
    rw [slice_append _ _ _ _ (by omega)]
    decide +kernel
  have e : manifestDigest (firstManifest ++ sha256 firstManifest) = sha256 firstManifest := by
    have z : fld firstManifest 18 2 = 0 := by decide +kernel
    unfold manifestDigest slice
    rw [g 18 2, z, Nat.mul_zero, Nat.add_zero, ← n, List.drop_left, ← sha256_length firstManifest, List.take_length]
    simp
  have z : fld firstManifest 18 2 = 0 ∧ fld firstManifest 8 8 = exchanging.job ∧ fld firstManifest 16 2 = exchanging.coordinator ∧ fld firstManifest 20 4 = 1 ∧ exchanging.exch.manifests = [] ∧
      exchanging.exch.joined = none := by decide +kernel
  have k : (firstManifest ++ sha256 firstManifest).take 64 = firstManifest := by rw [← n, List.take_left]
  simp [State.manifestOk, State.manifestOf, p, e, k, g 8 8, g 16 2, g 18 2, g 20 4, z, n, sha256_length]

/-- An audit frame of set 9 from device 8, with its check. -/
def auditing (kind commit : Nat) (body : Bytes) : Bytes := be 1 kind ++ be 1 0 ++ be 2 8 ++ be 4 9 ++ be 4 1 ++ zeros 4 ++ be 8 commit ++ be 8 (wordCheck (beWords body 0)) ++ body

/-- A bisection that device 1 leads, with a query in hand and one answer of two. -/
def bisecting : Bisect := ⟨6, 1, [1, 8], [0], [], [], [3], some ⟨1, 0, 0, 64, 2, 32⟩, [(1, [0, 0])], none, [⟨1, 0, []⟩], false, false⟩

theorem witness_ReplicasAreComparedAndBisected :
    let s : State := { withObjs ((job 1 5 2).wrO 0x6001_01 0 (le 2 8 ++ le 2 1 ++ be 16 3)) [(0x6001_02, 9)] with audit := { own := [(6, 10, 20)] } }
    let b (x : Bisect) : State := s.modAudit fun a => { a with bisect := some x }
    let ours : State := s.modAudit fun a => { a with compared := [6] }
    let w (n : Nat) : WmRec := ⟨8, 6, 10, n, s.rd 0x3002_06, s.rd 0x3002_07, s.settingsKey⟩
    let f : Bytes := auditing 0x72 6 (be 1 0 ++ be 1 2 ++ zeros 14 ++ zeros 16)
    (∀ k ∈ [0x70, 0x71, 0x72, 0x73], frameKind (rx (auditing k 6 [])) = k ∧ s.auditDrop (auditing k 6 []) ≠ 0) ∧ s.serving = true ∧ s.auditDrop (auditing 0x70 6 (zeros 56)) = 0 ∧ canonB s = true ∧ s.ownWm 7 = none ∧ s.ownWm 6 = some (10, 20) ∧
      s.comparable { w 20 with linesW := s.rd 0x3002_06 + 1 } = false ∧ (s.comparable (w 20) = true ∧ (w 20).wmW = 10 ∧ (w 20).wmN = 20 ∧ s.audit.bisect = none) ∧
      (s.comparable (w 21) = true ∧ ¬ ((w 21).wmW = 10 ∧ (w 21).wmN = 20)) ∧ ((b bisecting).audit.bisect = some bisecting ∧ bisecting.lead = s.own ∧ 8 ∈ bisecting.parts ∧ 8 ≠ s.own ∧ 7 ∉ bisecting.parts) ∧
      (bisecting.commit ≠ 7 ∧ bisecting.parts ≠ []) ∧ (fld (auditing 0x71 7 []) 16 8 ∉ ours.audit.compared ∧ 6 ∈ ours.audit.compared ∧ ours.audit.bisect = none) ∧ ({ s with member := { s.member with cut := some (5, 1, 0) } } : State).member.cut.isSome = true ∧
      bisecting.query = some ⟨1, 0, 0, 64, 2, 32⟩ ∧ (∀ a ∈ bisecting.answers, a.1 ≠ fld f 2 2) ∧ fld f 2 2 ∈ bisecting.parts ∧ 1 = fld f 8 4 ∧ bisecting.commit = fld f 16 8 ∧ fld f 33 1 = 2 ∧
      s.auditDrop f = 0 ∧ (∃ a ∈ bisecting.answers, a.1 = 1) ∧ (∃ d ∈ bisecting.parts, ∀ a ∈ bisecting.lineAns, a.dev ≠ d) ∧ (∃ d ∈ bisecting.parts, ∀ a ∈ bisecting.answers, a.1 ≠ d) := by decide +kernel

theorem witness_RepairsAndPatrolsEndWhatTheyFind :
    let line : Repair := ⟨0x40000, 0, 0, [], 1, 0⟩
    let felt : Repair := ⟨0x100000, 1, 0, [], 1, 0⟩
    let s : State := { coded 1 5 2 with prot := { repairs := [line] } }
    let h : State := { job 3 5 2 with prot := { repairs := [felt] } }
    let z := List.replicate 32 0
    let w := 2 + 7 * 2 ^ 8 + 2 * 2 ^ 13 + 9 * 2 ^ 16
    let t : State := { coded 1 5 2 with prot := { injected := [w] } }
    let p : State := withObjs (coded 1 5 2) [(0x5102_02, 1), (0x5100_01, 0x90000), (0x5100_02, 0x3000), (0x5100_03, 1)]
    let q := p.markPoison 0x40000 1
    (s.serving = true ∧ s.repairOf 0x80000 = none ∧ s.repairOf 0x400FF = some line ∧ line.cls = 0 ∧ s.lineAt line.addr = some ⟨1, 0, 0⟩ ∧ s.fn .coding = 2 ∧
        s.solveLine ⟨1, 0, 0⟩ [(0, 1, z)] [(0, z)] [] = some z) ∧ s.solveLine ⟨1, 0, 0⟩ [] [(0, z)] [] = none ∧
      (h.serving = true ∧ h.repairOf 0x100000 = some felt ∧ felt.cls = 1 ∧ h.feltAt felt.addr = some (0, 0, 0, 0x100000, 0) ∧ h.fn .coding = 2 ∧ h.solveFelt 0 0 0 0 [(0, 0, z), (0, 1, z)] [] [] = some z) ∧
      h.solveFelt 0 0 0 0 [(0, 0, z)] [] [] = none ∧ (s.active 7 = true ∧ noSeven.up = true ∧ noSeven.active 7 = false ∧ p.active 0 = true) ∧ (zeros 8).length = 8 ∧
      (0, 7, 9) ∈ ({ prot := { poisonRows := [(0, 7, 9)] } } : State).prot.poisonRows ∧ (∀ a ∈ [0x900FF, 0x92FFF, 0x40000], p.viewAddr a = a ∧ a < yardV) ∧ canonB s = true ∧ (s.up = true ∧ 4 ≤ 4 ∧ 7 < s.hw.slices ∧ s.prot.injected = []) ∧
      t.prot.injected.find? (fun w => bits w 0 8 == 2 && (bits w 8 5 == 7 || decide (2 ≥ 3)) && bits w 16 32 == 9) = some w ∧ (withObjs p [(0x5102_02, 0)]).rd 0x5102_02 = 0 ∧
      (p.serving = true ∧ p.rd 0x5102_02 ≠ 0 ∧ p.inStallTable 0 0x900FF = true) ∧ (p.stableRegion.1 ≤ 0x92FFF ∧ 0x92FFF < p.stableRegion.1 + p.stableRegion.2 ∧ p.inStallTable 0 0x92FFF = false) ∧
      (¬ (p.stableRegion.1 ≤ 0x40000 ∧ 0x40000 < p.stableRegion.1 + p.stableRegion.2) ∧ p.lineClass 0x40000 = 0 ∧ p.inSlice 0 0x40000 = true ∧ p.repairOf 0x40000 = none ∧ p.unreadable 0x40000 = false) ∧
      (q.rd 0x5102_02 ≠ 0 ∧ q.lineClass 0x40000 = 0 ∧ q.unreadable 0x40000 = true) :=
  ⟨by decide +kernel, by decide +kernel, by decide +kernel, by decide +kernel, by decide +kernel, by decide +kernel, by decide +kernel, by decide +kernel⟩

/-- A request that the fabric face takes whole, as a Bool. -/
def takesB (s : State) (p : SReq) : Bool :=
  decide (p.slice < s.hw.slices) && decide (s.dev ≠ 0) && decide (s.dev ≠ 8) && decide (s.protocolFault p = none) && decide (p.size ≤ 256 - p.addr % 256) && decide (s.sport.second = [])

theorem takes_of {s : State} {p : SReq} (h : takesB s p = true) : s.Takes p := by
  simp only [takesB, Bool.and_eq_true, decide_eq_true_eq] at h
  exact ⟨h.1.1.1.1.1, h.1.1.1.1.2, h.1.1.1.2, h.1.1.2, h.1.2, h.2⟩

/-- A unit with one steering range, in the memory of slice 7. -/
def ranged (k : RKind) : State := { job 1 3 0 with steer := [⟨0x87000, 0x1000, k, 0⟩] }

/-- A request of 8 bytes at slice 7. -/
def ask (kind addr poison : Nat) : SReq := ⟨7, kind, 8, 4095, addr, poison, zeros 8⟩

theorem witness_HostRequestsAreAnsweredByTheirRange :
    let at_ (k : RKind) (a : Nat) : Bool := (ranged k).served 7 a == some ⟨0x87000, 0x1000, k, 0⟩
    let rep : State := { ranged .scores with prot := { repairs := [⟨0x87000, 5, 7, [], 1, 0⟩] } }
    (7 < (inDev 0).hw.slices ∧ (inDev 0).dev = 0 ∧ (inDev 8).dev = 8 ∧ (inDev 8).active 7 = true ∧ (inDev 8).sport.second = [] ∧ 8 ≤ 256 - 0x87FF8 % 256 ∧ noSeven.active 7 = false ∧
        noSeven.dev ≠ 0 ∧ noSeven.dev ≠ 8) ∧
      (idle.active 7 = true ∧ idle.dev ≠ 0 ∧ idle.dev ≠ 8 ∧ idle.protocolFault (reqTrim (asKind 3 { ask 1 0 0 with size := 5 })) = some 2) ∧
      (∀ x ∈ sportRows, x.2 = (reqTrim (asKind x.2 (ask 1 0x87000 0))).kind ∧ takesB (ranged .aperture) (reqTrim (asKind x.2 (ask 1 0x87FF8 0))) = true) ∧
      ((ranged .fence).served 7 0x88000 = none ∧ (ranged .fence).active 7 = true ∧ at_ .fence 0x87FF8 = true) ∧
      (∀ k ∈ [RKind.intake, .aperture, .fence, .working, .completion, .felt, .spare, .reserve, .staging, .result, .backing, .count, .seed, .routeOut, .combine, .window, .list, .scores],
        at_ k 0x87000 = true ∧ (ranged k).lineAt 0x87000 = none) ∧
      (RKind.scores ∉ [RKind.intake, .aperture, .fence] ∧ (ranged .scores).repairOf ((ranged .scores).viewAddr 0x87000) = none ∧ rep.repairOf (rep.viewAddr 0x87000) ≠ none) ∧
      ((0x87000 - 0x87000 < 256 ∧ 256 ≤ 0x87100 - 0x87000) ∧ (ranged .intake).judgeIntake ((ranged .intake).streamAt 0) (ranged .intake).intakeStep false 257 8 = .refuse 1 ∧
        (let s := (graded []).modRed fun r => { r with exps := [(99, 0, 0)] }
         s.judgeIntake (s.streamAt 0) s.intakeStep false 256 8 = .hold 1 10) ∧
        (ranged .intake).judgeIntake ((ranged .intake).streamAt 0) (ranged .intake).intakeStep false 256 8 = .go) :=
  ⟨by decide +kernel, by decide +kernel, by decide +kernel, by decide +kernel, by decide +kernel, by decide +kernel, by decide +kernel⟩

/-- A unit whose coded line at 0x40000 lies in a range of its own, in the memory of slice 0, with functions and a flush limit. -/
def lined (flush : Bool) (held : List Held) : State :=
  { coded 1 5 2 with steer := [⟨0x40000, 0x1000, .state, 0⟩], sensors := { noWrites := flush }, sport := { held := held } }

/-- A write of 8 bytes to that line. -/
def askLine (poison : Nat) : SReq := reqTrim (asKind 2 { ask 1 0x40008 poison with slice := 0 })

theorem witness_HostRequests_to_coded_lines :
    let q := askLine
    let other : SReq := ⟨0, 2, 8, 1, 0x40010, 0, zeros 8⟩
    let s := lined false []
    let uncoded : State := { s with dict := (withObjs s [(0x1202_01, 0)]).dict }
    let x : State := withObjs (s.wrO 0x4201_01 0 (le 8 (5 + 7 * 2 ^ 32 + 2 ^ 48))) [(0x1202_06, 2)]
    (takesB s (q 0) = true ∧ (q 0).kind = 2 ∧ s.active 0 = true ∧ s.served 0 0x40008 = some ⟨0x40000, 0x1000, .state, 0⟩ ∧ s.lineAt 0x40008 = some ⟨1, 0, 0⟩) ∧
      ((q 2).poison ≠ 0 ∧ s.coding = true) ∧ ((q 0).poison = 0 ∧ (lined true []).writesFail = true) ∧
      (s.writesFail = false ∧ s.exchOn = false ∧ (lined false [⟨other, .seal, 0, 0⟩]).heldBefore 0x40008 = some .seal) ∧
      (s.heldBefore 0x40008 = none ∧ s.repairOf 0x40000 = none ∧ s.poisonBits 0x40000 &&& spanMask 0x40008 8 = 0 ∧ s.holdWhy ⟨1, 0, 0⟩ 0 0x40000 false = none) ∧
      ({ s with prot := { repairs := [⟨0x40000, 0, 0, [], 1, 0⟩] } } : State).repairOf 0x40000 ≠ none ∧ ({ s with member := { s.member with cut := some (5, 1, 0) } } : State).holdWhy ⟨1, 0, 0⟩ 0 0x40000 false = some .couch ∧
      (uncoded.lineAt 0x40008).isSome = true ∧ uncoded.coding = false ∧ uncoded.heldBefore 0x40008 = none ∧
      (x.exchOn = true ∧ x.writesFail = false ∧ x.exchLine 0x40000 = some (true, 0, 0) ∧ x.own = 1) :=
  ⟨by decide +kernel, by decide +kernel, by decide +kernel, by decide +kernel, by decide +kernel⟩

theorem witness_HostRequests_room (k : RKind) : (ranged k).HoldRoom 7 ∧ (ranged k).Takes (reqTrim (asKind 2 (ask 1 0x87008 0))) ∧
    (lined false []).HoldRoom 0 := by
  refine ⟨⟨by cases k <;> decide, nofun⟩, ?_, ⟨by decide, nofun⟩⟩
  cases k <;> exact takes_of (by decide +kernel)

theorem witness_HostRequests_full :
    let h : List Held := List.replicate 256 ⟨⟨7, 2, 8, 1, 0x97000, 0, []⟩, .reserve, 0, 0⟩
    let s : State := { ranged .fence with sport := { held := h } }
    takesB s (reqTrim (asKind 2 (ask 1 0x87000 0))) = true ∧ (reqTrim (asKind 2 (ask 1 0x87000 0))).kind ≠ 1 ∧ 256 ≤ s.queued 7 := by decide +kernel

theorem witness_ControllersAreServedInOrder :
    let q (kind : Nat) : SReq := ⟨7, kind, 8, 4095, 0x80000, 0, zeros 16⟩
    let c (served issued : Bool) (kind : Nat) : CtrlReq := ⟨q kind, served, issued⟩
    let s (l : List CtrlReq) : State := { job 1 3 0 with sport := { ctrl := l } }
    let stall (long : List Nat) : State := { job 1 3 0 with sport := { stalls := [(7, 3, 0)], longStalls := long } }
    let find (t : State) (kind : Nat) := t.sport.ctrl.find? (fun c => c.issued && c.req.slice == 7 && c.req.tag == 4095 && c.req.kind == kind)
    ((s [c false true 1, c false false 1]).sport.ctrl[1]? = some (c false false 1) ∧ (s [c false true 1, c false false 1]).pumpCtrl.sport.ctrl[1]? = some (c false true 1)) ∧
      (canonB (s []) = true ∧ 7 < (s []).hw.slices ∧ (inDev 0).dev = 0 ∧ (s []).dev ≠ 0 ∧ (s []).dev ≠ 8 ∧ find (s []) 1 = none ∧ 2 < 3 ∧ (s []).active 7 = true) ∧
      (noSeven.active 7 = false ∧ noSeven.dev ≠ 0 ∧ noSeven.dev ≠ 8 ∧ (withObjs (inDev 8) [(0x7F00_02, 128)]).active 7 = false ∧ (inDev 8).active 7 = true ∧ find (inDev 8) 1 = none) ∧
      (find (s [c false true 1]) 1 = some (c false true 1) ∧ 2 ≤ 2 ∧ (c false true 1).served = false ∧ ({ inDev 8 with sport := { ctrl := [c false true 1] } } : State).dev = 8) ∧
      (find (s [c true true 1]) 1 = some (c true true 1) ∧ (c true true 1).served = true ∧ (s [c true true 1]).lineClass 0x80000 ≠ 1 ∧ (s [c true true 1]).poisonBits 0x80000 = 0) ∧
      ((q 3).kind ≠ 1 ∧ (q 2).kind = 2 ∧ 3 ≤ (q 3).kind) ∧ ((s []).up = true ∧ (stall []).stallOf 7 = 3 ∧ (∀ x ∈ (s []).sport.stalls, x.1 ≠ 7)) ∧
      ((stall []).sport.stalls.find? (fun x => x.1 == 7) = some (7, 3, 0) ∧ 7 ∈ (stall [7]).sport.longStalls ∧ 7 ∉ (stall []).sport.longStalls) ∧
      ((s []).serving = true ∧ (s []).sport.held = [] ∧ (s []).sport.second = []) ∧ (31, pat 64 (-w64Max)) ∈ (s []).clampWords 0 0 (zeros 248 ++ le 8 (2 ^ 63)) := by decide +kernel

/-- A snapshot in hand, in a phase. -/
def snap (phase : Nat) : Snap := ⟨3, 12, 0, phase, 0, 0, 0, List.range 8, List.replicate 8 0, [], [], 0, [], 0, [], 4, 4, 0, 0, (0, 0), 0, 0, 0, []⟩

theorem witness_SnapshotsAreOrderedSealedCopiedAndEnded :
    let s (f : Tiers → Tiers) : State := { withObjs (job 1 5 2) [(0x1202_02, 2), (0x3301_01, 7), (0x3301_03, 1), (0x3181_01, 4)] with tiers := f {} }
    let z := s id
    let deferring := withObjs z [(0x3202_02, 1)]
    let waiting : Tiers → Tiers := fun t => { t with orderNum := 3, awaited := [2, 3], costs := [5] }
    z.serving = true ∧ (bit (z.rd 0x3301_01) 1 = true ∧ z.tiers.orderStep + z.rd 0x3301_03 ≤ z.step) ∧ bit (z.rd 0x3301_01) 0 = true ∧ z.tiers.deferred.find? (fun d => d.1 ≠ z.deferReason) = none ∧
      ((s fun t => { t with deferred := [(1, 0)] }).tiers.deferred.find? (fun d => d.1 ≠ z.deferReason) = some (1, 0)) ∧ (job 2 5 2).leadOf ≠ (job 2 5 2).own ∧
      (z.leadOf = z.own ∧ z.tiersOn = true ∧ z.deferReason = 0) ∧ (deferring.leadOf = deferring.own ∧ deferring.tiersOn = true ∧ deferring.deferReason ≠ 0) ∧
      ((z.gate (be 1 0x30 ++ be 1 0 ++ be 2 2 ++ be 4 1 ++ be 8 8)).1 = false ∧ (z.gate (hdr 0x30 2 ++ be 8 12 ++ be 4 0 ++ be 4 4)).1 = true) ∧
      ((job 1 5 2).tiersOn = false ∧ (s fun t => { t with snap := some (snap 1) }).tiers.snap.isSome = true ∧ ¬ (12 < z.stepDone) ∧ z.tiers.snap = none ∧ z.couch.bounds = [] ∧ 0 < (withObjs z [(0x3181_02, 13)]).stepDone) ∧
      (3 = (s waiting).tiers.orderNum ∧ 2 ∈ (s waiting).tiers.awaited ∧ 4 ∉ (s waiting).tiers.awaited ∧ 4 ≠ (s waiting).tiers.orderNum ∧ canonB (s waiting) = true ∧ (s waiting).meanFailure = none) ∧
      (60 < adaptive 350000000 14400 ∧ adaptive 350000000 14400 < 3600) ∧ (s fun t => { t with snap := some (snap 0) }).tiers.snap = some (snap 0) ∧
      ((snap 1).phase = 1 ∧ (∀ n ∈ z.actives, n ∈ (snap 1).armed) ∧ (∃ n ∈ z.actives, n ∉ ({ snap 1 with armed := [0] } : Snap).armed)) ∧ ((snap 3).phase = 3 ∧ (snap 3).parts = [] ∧ ∀ x ∈ z.fOut, x.use ≠ 1) ∧ ({ snap 3 with parts := [(0, [])] } : Snap).parts ≠ [] ∧
      (let u : State := { s (fun t => { t with snap := some (snap 2) }) with sport := { held := [⟨⟨0, 2, 8, 1, 0x40010, 0, zeros 8⟩, .cow, 0, 0⟩] } }
       u.cowSince.isSome = true ∧ u.tiers.snap.any (fun c => c.phase ≠ 0) = true) ∧
      (∃ x ∈ ({ z with fOut := [⟨1, 0, true, 0, 1, [], 1, false⟩] } : State).fOut, x.use = 1) ∧ (7 < z.hw.slices ∧ z.active 7 = true ∧ frameKind (rx (hdr 0x30 2)) = 0x30 ∧ frameKind (rx (hdr 0x31 2)) = 0x31) ∧ (0 = 0 ∧ 3 < (snap 2).linesW ∧ (0, 3) ≠ (1, 0)) ∧
      Sparse.wf (fun _ => 0) (snap 2).img = true ∧ (zeros 256).length = 256 :=
  ⟨by decide +kernel, by decide +kernel, by decide +kernel, by decide +kernel, by decide +kernel, by decide +kernel, by decide +kernel, by decide +kernel, by decide +kernel, by decide +kernel, by decide +kernel, by decide +kernel, by decide +kernel, by decide +kernel⟩

theorem witness_RestoresSelectTheNewestCommonStep :
    let c (shard step r : Nat) : Cand := ⟨shard, shard, 0, 0, r, step, 0⟩
    let pick (l : List Cand) := selectRestore [1, 2] l 6
    let s (d : Nat) : State := job 1 3 d
    let f (job_ : Nat) : Bytes := be 1 0x35 ++ be 1 0 ++ be 2 2 ++ be 4 1 ++ be 8 job_ ++ be 8 12 ++ be 1 0 ++ zeros 1 ++ be 2 64
    let o (l : List Nat) : State := { s 0 with tiers := { order := some (12, 0, [c 1 12 0, c 2 12 0]), loaded := l } }
    (match pick [c 1 12 0] with | .error e => decide (e = 2) | .ok _ => false) = true ∧ (match pick [c 1 12 0, c 2 6 0] with | .error e => decide (e = 3) | .ok _ => false) = true ∧
      (match pick [c 1 12 1, c 2 6 0] with | .ok (t, o, l) => decide (t = 6 ∧ o = 1 ∧ l = [c 1 12 1, c 2 6 0]) | .error _ => false) = true ∧
      (match pick [c 1 12 1, c 2 12 0] with | .ok (t, o, l) => decide (t = 12 ∧ o = 0 ∧ l = [c 1 12 1, c 2 12 0]) | .error _ => false) = true ∧
      (match pick [c 1 12 1, c 2 15 0, c 2 6 0] with | .ok (t, o, _) => decide (t = 6 ∧ o = 2) | .error _ => false) = true ∧
      ((∀ k ∈ [0x32, 0x33, 0x34], frameKind (rx (be 1 k)) = k) ∧ 12 < 2 ^ 64 ∧ (s 0).serving = true ∧ fld (f 8) 8 8 ≠ (s 0).job ∧ fld (f 7) 8 8 = (s 0).job ∧ (s 0).fn .coding = 0 ∧ (s 2).fn .coding ≠ 0) ∧ ((s 0).rd 0x3304_02 ≠ 1) ∧ (s 0).tiers.order = none ∧
      ((o [1]).tiers.order = some (12, 0, [c 1 12 0, c 2 12 0]) ∧ (∀ x ∈ [c 1 12 0, c 2 12 0], x.shard = 2 ∨ x.shard ∈ (o [1]).tiers.loaded) ∧ 11 ≠ 12 ∧ canonB (o [1]) = true) ∧
      (o []).tiers.reading = none := by decide +kernel

/-! ### Ill-formed commands -/

theorem test_wellFormed_refuses :
    wellFormed (.longControllerStall 32) = false ∧ wellFormed (.joinRequestRepeat 7) = false ∧ wellFormed (.timeStrobe (2 ^ 64)) = false ∧ wellFormed (.vresetNRelease [32]) = false ∧
      wellFormed (.cut ⟨2 ^ 128, 0, 0, []⟩) = false ∧ wellFormed (.cut ⟨0, 2 ^ 16, 0, []⟩) = false ∧ wellFormed (.cut ⟨0, 0, 4, []⟩) = false ∧ wellFormed (.read (.cport true [2 ^ 64])) = false ∧
      wellFormed (.read (.net ⟨0, 0, 4, []⟩)) = false ∧ wellFormed (.load ⟨32, 1, 8, 0, 0, 0, []⟩) = false ∧ wellFormed (.load ⟨0, 16, 8, 0, 0, 0, []⟩) = false ∧
      wellFormed (.load ⟨0, 1, 257, 0, 0, 0, []⟩) = false ∧ wellFormed (.load ⟨0, 1, 8, 4096, 0, 0, []⟩) = false ∧ wellFormed (.load ⟨0, 1, 8, 0, 2 ^ 57, 0, []⟩) = false ∧
      wellFormed (.load ⟨0, 1, 8, 0, 0, 2 ^ 32, []⟩) = false := by decide

theorem test_wellFormed_refuses_long_data : wellFormed (.load ⟨0, 1, 8, 0, 0, 0, zeros 257⟩) = false := by decide +kernel

theorem test_wellFormed_refuses_long_frames (n : Nat) (h : 65527 < n) : wellFormed (.cut ⟨0, 0, 0, zeros n⟩) = false := by
  have k : (zeros n).length = n := List.length_replicate
  have b : below 65528 n = false := decide_eq_false (by omega)
  change okRx ⟨0, 0, 0, zeros n⟩ = false
  rw [okRx, k, b, Bool.and_false]

theorem test_wellFormed_takes : wellFormed (.load ⟨31, 15, 256, 4095, 2 ^ 57 - 1, 2 ^ 32 - 1, []⟩) = true ∧ wellFormed (.cut ⟨2 ^ 128 - 1, 2 ^ 16 - 1, 3, []⟩) = true := by decide

/-- No row of the table gives bits, so no word spells a command. -/
theorem test_no_word_spells_a_command (n w : Nat) : decodeTableWord n w = none := rfl

/-- The state right after reset is the power-on state with its reset released (R353). -/
theorem test_reset_is_released : State.reset.dev = 1 ∧ State.reset.pending = [] ∧ State.reset.mem = [] := by decide +kernel

/-! ### The worked examples of the spec -/

/-- Table 2-6: 0.75, −3.0 and 1.044921875 at f = 48 in L8 and BF16, the last also stochastically. -/
theorem test_table_2_6 :
    w64ToLog 0x0000_C000_0000_0000 48 l8 0 0 = (0x3D, false) ∧ w64ToIeee 0x0000_C000_0000_0000 48 7 16 0 0 = 0x3F40 ∧ w64ToLog (sgn 64 0xFFFD_0000_0000_0000) 48 l8 0 0 = (0xCD, false) ∧
      w64ToIeee (sgn 64 0xFFFD_0000_0000_0000) 48 7 16 0 0 = 0xC040 ∧ w64ToLog 0x0001_0B80_0000_0000 48 l8 0 0 = (0x40, false) ∧
      w64ToLog 0x0001_0B80_0000_0000 48 l8 1 0x4000_0000 = (0x41, false) ∧ w64ToLog 0x0001_0B80_0000_0000 48 l8 1 0xC000_0000 = (0x40, false) := by decide +kernel

/-- The LA17 word of the worked example of 02_state_and_number_formats.md. -/
theorem test_la17_word : wordOfLa17 (-9428) = 0xFFFF_DB2C ∧ la17OfWord 0xFFFF_DB2C = (-9428, false) := by decide +kernel

/-- Element 0 of the form-2 tensor of Table 3-9. -/
def table39 : ElemOut :=
  updateElem { desc with form := 2, f := 48, s1 := -40, s2 := -47, decay := true } ⟨57344, 65280, -5120, -30720, 0⟩
    ⟨0x0000_C000_0000_0000, 2 ^ 30, 0, -14336, 40, -5120, 0, 0⟩

/-- Table 3-9: the new moment and state word, and the field image of the delta. -/
theorem test_table_3_9 : table39.m = 2 ^ 27 ∧ table39.w = 210556275392512 ∧ toField (table39.w - 0x0000_C000_0000_0000) = 0x1FFF_FF7F_F3FF_FFFF := by decide +kernel

/-- Table 3-8: a factor word, and the log that the factors expand to. -/
theorem test_table_3_8 : emaM 0 (2 ^ 61) (-33) 65280 0 0 = (2 ^ 20, false) ∧ (expand (-13824) (-13824) (-13312)).1 = -14336 := by decide +kernel

/-- Table 4-7: the cells of array row 3 in tile (1, 2). -/
theorem test_table_4_7 : (expand (-13000) (-12800) (-11000)).1 = -14800 ∧ (expand (-13000) (-65536) (-11000)).1 = -65536 ∧ expand (-13000) (-64000) (-11000) = (-65536, 1) := by decide +kernel

/-- Table 6-9: the two packed lines. -/
theorem test_table_6_9 :
    packLine ([-3, 6] ++ List.replicate 30 0) = [0x04, 0x5C] ++ zeros 15 ∧ packLine (List.replicate 31 0 ++ [-1000]) = [0x0B] ++ zeros 42 ++ [0x07, 0xCF] := by decide +kernel

/-- R180's example: C = 0.35 s and M = 14,400 s give 100 s. -/
theorem test_adaptive_example : adaptive 350000000 14400 = 100 := by decide +kernel

/-- The grain of the worked example of 09_exact_gradient_reduction.md, and the residues of Table 9-6a. -/
theorem test_table_9_6a :
    intakeConvert 0xA 0x3B80 33 27 = (33554432, false, false) ∧ residues ([33554432, 0, 0, 0, 0, -12]) = (33554420, 33554360) ∧
      residues ([-16777216, 0]) = (2130706431, 2130706431) ∧ residues ([16778216, 0, 0, 0, 0, 96]) = (16778312, 16778792) := by decide +kernel

/-- A routing layer with four experts and BF16 scores. -/
def layer4 : RLayer := ⟨2, true, 0, 0, 0xA, 0xB, 0xB, 2, 0, 4, 2, 1, 20, 0, false, 0, 0, 3, 0, 0, 0, 0, 0, 0, 0, 0, 0⟩

/-- Table 10-7: the ranking of tokens 100, 101 and 103. -/
theorem test_table_10_7 :
    (ranked layer4 [0x3F00, 0x3E80, 0x3E80, 0x0000]).1.take 2 = [0, 1] ∧ ((ranked layer4 [0x7FC0, 0x3E00, 0x8000, 0x0000]).1.take 2 = [1, 2] ∧ (ranked layer4 [0x7FC0, 0x3E00, 0x8000, 0x0000]).2 = 1) ∧
      (ranked layer4 [0x3E80, 0x3F40, 0x0000, 0x3F00]).1.take 2 = [1, 3] := by decide +kernel

/-- Round 0 of the worked example of 10_expert_routing_support.md: at cap 2 the third choice of expert 1 finds no slot. -/
theorem test_round_0 :
    (assign 2 0 4 [[0, 0, 0, 0, 2, 3, 1, 0], [0, 0, 0, 0, 1, 1, 2, 2]] [0, 0, 0, 0] [(0, 0), (1, 1), (2, 1), (3, 2), (4, 1), (5, 0)]).1.map (·.2) = [some 0, some 0, some 1, some 0, none, some 1] := by
  decide +kernel

/-- Manifest 40's element of the worked example of 11_site_exchange.md. -/
theorem test_merged_example : mergedDelta [(0, 3000), (0, -1000), (1, 5000)] 45875 = 1260 := by decide +kernel

/-- The interleave example of 17_ports_clocks_and_integration.md: entry 6 of mask 0xFFDF is controller 7, and region lines in range 0 reach controller 5. -/
theorem test_interleave_example :
    IRange.ctrl ⟨0xF_0000_0000, 0x3C_0000_0000, 12, 0xFFDF⟩ ((0xF_0012_3400 - 0xF_0000_0000) / 2 ^ 12) = 7 ∧ IRange.ctrl ⟨0, 0xF_0000_0000, 8, 0xFFFF⟩ (0x100_0500 / 2 ^ 8) = 5 := by decide +kernel

/-- The three ADDs of Table 12-9 on one word of 100, in the order of their members. -/
theorem test_table_12_9 :
    let q (src operand : Nat) : YReq := ⟨src, 1, 1, 3, 8, 0x32A48, operand, 0, [], false⟩
    let step (x : Bytes × List Nat) (q : YReq) : Bytes × List Nat := let y := applyReq x.1 q; (y.1, x.2 ++ [y.2])
    let r := [q 3 5, q 17 7, q 40 11].foldl step (patch (zeros 256) (0x32A48 % 256) (le 8 100), [])
    r.2 = [100, 105, 112] ∧ fldLe r.1 (0x32A48 % 256) 8 = 123 := by decide +kernel

/-- The domain table of the worked example of 05_code_groups_and_placement.md: chip c in feed and shelf c / 16, loop c / 8, tray c / 4. -/
def rack : List DomEntry := (List.range 64).map (fun c => (c, [0xFFFF, c / 16, c / 16, c / 8, c / 4]))

/-- The deal of that rack starts as Table 5-5 lists, and chip 21 stands at position 25. -/
theorem test_table_5_5 : let o := deal rack 5 (List.range 64)
    o.take 12 = [0, 16, 32, 48, 8, 24, 40, 56, 4, 20, 36, 52] ∧ o[25]? = some 21 := by decide +kernel

end Sys2Proof.Tests
end

section
/-!
The home's exact sum (R207, R209, R210): what one contribution adds, why the order of two contributions does not
matter, and the residues as remainders of exact sums.
-/

namespace Sys2Proof.Machine

theorem sumI_cons (x : Int) (xs : List Int) : sumI (x :: xs) = x + sumI xs := by
  simp only [sumI, ← List.sum_eq_foldl, List.sum_cons]

/-! ### One contribution -/

namespace HomeSlot

/-- The slot without the record of who contributed: all that the order of arrival must not change. -/
def unseen (h : HomeSlot) : HomeSlot := { h with seen := [] }

@[simp] theorem add_fmt (h : HomeSlot) (f : Bytes) : (h.add f).fmt = h.fmt := rfl

@[simp] theorem add_seen (h : HomeSlot) (f : Bytes) : (h.add f).seen = h.seen ++ [fld f 42 2] := rfl

theorem add_sum (h : HomeSlot) (f : Bytes) :
    (h.add f).sum = (List.range 512).map fun i => h.sum.getD i 0 + (elemVals h.fmt f).getD i 0 := by
  simp only [HomeSlot.add]

/-- Within a chunk, element i of the sum grows by element i of the contribution. -/
theorem add_sum_getD (h : HomeSlot) (f : Bytes) {i : Nat} (hi : i < 512) :
    (h.add f).sum.getD i 0 = h.sum.getD i 0 + (elemVals h.fmt f).getD i 0 := by
  simp [add_sum, hi]

/-- What a contribution adds does not depend on who has been seen. -/
theorem unseen_add (h : HomeSlot) (f : Bytes) : (h.unseen.add f).unseen = (h.add f).unseen := rfl

/-- The two element sums of R209 step 4 commute. -/
theorem add_add_sum_comm (h : HomeSlot) (f g : Bytes) : ((h.add f).add g).sum = ((h.add g).add f).sum := by
  rw [add_sum (h.add f), add_sum (h.add g)]
  refine List.map_congr_left fun i hi => ?_
  rw [List.mem_range] at hi
  rw [add_sum_getD h f hi, add_sum_getD h g hi, add_fmt, add_fmt, Int.add_right_comm]

/-- Two contributions in either order leave the same slot but for the order in which they were seen. -/
theorem add_add_unseen_comm (h : HomeSlot) (f g : Bytes) : ((h.add f).add g).unseen = ((h.add g).add f).unseen := by
  have grains : ((h.grains + fld f 36 4) % 2 ^ 32 + fld g 36 4) % 2 ^ 32 = ((h.grains + fld g 36 4) % 2 ^ 32 + fld f 36 4) % 2 ^ 32 := by
    omega
  have peak : max (max h.peak (sgn 16 (fld f 40 2))) (sgn 16 (fld g 40 2)) = max (max h.peak (sgn 16 (fld g 40 2))) (sgn 16 (fld f 40 2)) := by
    omega
  have saturating (a x y : Nat) : min 65535 (min 65535 (a + x) + y) = min 65535 (min 65535 (a + y) + x) := by omega
  have residue (a x y : Nat) : ((a + x) % q31 + y) % q31 = ((a + y) % q31 + x) % q31 := by
    rw [Nat.mod_add_mod, Nat.mod_add_mod, Nat.add_right_comm]
  have wrap := Bool.or_right_comm h.wrap ((fld f 1 1).testBit 0) ((fld g 1 1).testBit 0)
  have count := Nat.add_right_comm h.c (fld f 34 2) (fld g 34 2)
  unfold unseen
  rw [add_add_sum_comm]
  simp only [HomeSlot.add]
  rw [grains, peak, saturating h.sat, saturating h.nonfin, residue h.ra, residue h.rb, wrap, count]

/-! ### All contributions of a chunk -/

theorem foldl_add_seen (fs : List Bytes) (h : HomeSlot) : (fs.foldl add h).seen = h.seen ++ fs.map (fld · 42 2) := by
  induction fs generalizing h with
  | nil => simp
  | cons f fs ih => simp [ih]

/-- The slot but for its record is a fold over the contributions that never reads the record. -/
theorem foldl_add_unseen (fs : List Bytes) (h : HomeSlot) :
    (fs.foldl add h).unseen = fs.foldl (fun k f => (k.add f).unseen) h.unseen := by
  induction fs generalizing h with
  | nil => rfl
  | cons f fs ih => rw [List.foldl_cons, List.foldl_cons, ih, unseen_add]

/-- A fold of steps that commute does not depend on the order. -/
theorem foldl_add_unseen_perm {fs gs : List Bytes} (p : fs.Perm gs) (h : HomeSlot) :
    (fs.foldl add h).unseen = (gs.foldl add h).unseen := by
  rw [foldl_add_unseen, foldl_add_unseen]
  refine p.foldl_eq' (fun f _ g _ k => ?_) _
  rw [unseen_add, unseen_add, add_add_unseen_comm]

theorem foldl_add_seen_perm {fs gs : List Bytes} (p : fs.Perm gs) (h : HomeSlot) :
    (fs.foldl add h).seen.Perm (gs.foldl add h).seen := by
  rw [foldl_add_seen, foldl_add_seen]
  exact (p.map _).append_left _

theorem foldl_add_sum_getD (fs : List Bytes) (h : HomeSlot) {i : Nat} (hi : i < 512) :
    (fs.foldl add h).sum.getD i 0 = h.sum.getD i 0 + sumI (fs.map fun f => (elemVals h.fmt f).getD i 0) := by
  induction fs generalizing h with
  | nil => simp [sumI]
  | cons f fs ih => rw [List.foldl_cons, ih, add_fmt, add_sum_getD h f hi, List.map_cons, sumI_cons, Int.add_assoc]

end HomeSlot

/-! ### Residues (R207) -/

/-- A value modulo q, as a natural number. -/
def modQ (v : Int) : Nat := (v % (q31 : Int)).toNat

theorem modQ_add (v w : Int) : modQ (v + w) = (modQ v + modQ w) % q31 := by
  have q : q31 = 2147483647 := rfl
  simp only [modQ, q]
  omega

/-- The exact sum of a x over x below n. -/
def sumBelow (a : Nat → Int) : Nat → Int
  | 0 => 0
  | n + 1 => sumBelow a n + a n

theorem sumBelow_add (a b : Nat → Int) (n : Nat) : sumBelow (fun x => a x + b x) n = sumBelow a n + sumBelow b n := by
  induction n with
  | zero => rfl
  | succ n ih =>
    simp only [sumBelow, ih]
    omega

/-- R_a of R207 before it is reduced: the exact sum of the elements. -/
def plainSum (vs : List Int) : Int := sumBelow (fun x => vs.getD x 0) vs.length

/-- R_b of R207 before it is reduced: the exact sum with element x counted x + 1 times. -/
def weightedSum (vs : List Int) : Int := sumBelow (fun x => ((x + 1 : Nat) : Int) * vs.getD x 0) vs.length

/-- Residues reduced as they are added are the residues of the exact sums. -/
theorem foldl_modQ_range (a b : Nat → Int) (n : Nat) :
    (List.range n).foldl (fun r x => ((r.1 + modQ (a x)) % q31, (r.2 + modQ (b x)) % q31)) (0, 0) =
      (modQ (sumBelow a n), modQ (sumBelow b n)) := by
  induction n with
  | zero => rfl
  | succ n ih => simp only [List.range_succ, List.foldl_append, ih, List.foldl_cons, List.foldl_nil, sumBelow, modQ_add]

theorem residues_eq (vs : List Int) : residues vs = (modQ (plainSum vs), modQ (weightedSum vs)) :=
  foldl_modQ_range _ _ _

theorem getD_zipWith_add {v w : List Int} (e : v.length = w.length) (x : Nat) :
    (v.zipWith (· + ·) w).getD x 0 = v.getD x 0 + w.getD x 0 := by
  simp only [List.getD_eq_getElem?_getD, List.getElem?_zipWith]
  by_cases hx : x < v.length
  · rw [List.getElem?_eq_getElem hx, List.getElem?_eq_getElem (e ▸ hx)]
    rfl
  · rw [List.getElem?_eq_none (Nat.le_of_not_lt hx), List.getElem?_eq_none (e ▸ Nat.le_of_not_lt hx)]
    rfl

theorem length_zipWith_add {v w : List Int} (e : v.length = w.length) : (v.zipWith (· + ·) w).length = v.length := by
  rw [List.length_zipWith, ← e, Nat.min_self]

theorem plainSum_zipWith_add {v w : List Int} (e : v.length = w.length) :
    plainSum (v.zipWith (· + ·) w) = plainSum v + plainSum w := by
  simp only [plainSum, length_zipWith_add e, getD_zipWith_add e, ← e, sumBelow_add]

theorem weightedSum_zipWith_add {v w : List Int} (e : v.length = w.length) :
    weightedSum (v.zipWith (· + ·) w) = weightedSum v + weightedSum w := by
  simp only [weightedSum, length_zipWith_add e, getD_zipWith_add e, ← e, Int.mul_add, sumBelow_add]

theorem residues_zipWith_add {v w : List Int} (e : v.length = w.length) :
    residues (v.zipWith (· + ·) w) = (((residues v).1 + (residues w).1) % q31, ((residues v).2 + (residues w).2) % q31) := by
  simp only [residues_eq, plainSum_zipWith_add e, weightedSum_zipWith_add e, modQ_add]

/-- Settles O50: the slot but for its record is a fold of commuting steps, and the residues are remainders of exact sums. -/
theorem sumsAreExactInAnyOrder : Obligations.SumsAreExactInAnyOrder :=
  ⟨fun h _ _ p => ⟨HomeSlot.foldl_add_unseen_perm p h, HomeSlot.foldl_add_seen_perm p h⟩, fun _ _ => residues_zipWith_add,
    fun h fs _ => HomeSlot.foldl_add_sum_getD fs h⟩

end Sys2Proof.Machine
end

section
/-!
What every command keeps: the lemmas of Laws/Keeps/ and Laws/Kept.lean brought together over the commands.
-/

namespace Sys2Proof.Machine

/-- The commands that Laws/Keeps/ leaves out: they may reset the block or change storage, fuses, the test port or the sticky
registers. -/
def beyondKeeps : Instr → Bool
  | .vresetNAssert | .selfTestComplete .. | .watchdogExpiry | .watchdogReset | .fPortCompletion .. | .freeze ..
  | .testLogicReset | .idcode | .samplePreload .. | .extest .. | .clamp | .highz | .ijtag .. | .scan | .bypass ..
  | .sramReadout .. | .registerCapture .. | .memoryBist .. | .fuseReader | .freezeStatus | .fuseProgrammer .. | .railsFall => true
  | _ => false

/-- Each other command keeps what the lemma of its own meaning says. -/
theorem exec_keeps {c : Instr} (h : beyondKeeps c = false) (s : State) : KR s (exec c s) := by
  cases c with
  | vresetNAssert | selfTestComplete | watchdogExpiry | watchdogReset | fPortCompletion | freeze | testLogicReset | idcode
  | samplePreload | extest | clamp | highz | ijtag | scan | bypass | sramReadout | registerCapture | memoryBist | fuseReader
  | freezeStatus | fuseProgrammer | railsFall => cases h
  | vresetNRelease => exact K.execVresetNRelease (K.rfl' s)
  | epochTick => exact K.execEpochTick (K.rfl' s)
  | timelockChange => exact K.execTimelockChange (K.rfl' s)
  | timeStrobe => exact K.execTimeStrobe (K.rfl' s)
  | timeStrobeMissing => exact K.execTimeStrobeMissing (K.rfl' s)
  | holdoverLimitExpiry => exact K.execHoldoverLimitExpiry (K.rfl' s)
  | stepMark => exact K.execStepMark (K.rfl' s)
  | snapshotStepTrigger => exact K.execSnapshotStepTrigger (K.rfl' s)
  | passTensorStart => exact K.execPassTensorStart (K.rfl' s)
  | passLine => exact K.execPassLine (K.rfl' s)
  | logTile => exact K.execLogTile (K.rfl' s)
  | macJob => exact K.execMacJob (K.rfl' s)
  | macJobReadout => exact K.execMacJobReadout (K.rfl' s)
  | arrayHoldExpiry => exact K.execArrayHoldExpiry (K.rfl' s)
  | arrayStopRampEnd => exact K.execArrayStopRampEnd (K.rfl' s)
  | factorsCompute => exact K.execFactorsCompute (K.rfl' s)
  | factorBroadcast => exact K.execFactorBroadcast (K.rfl' s)
  | workingCopyCheck => exact K.execWorkingCopyCheck (K.rfl' s)
  | completionWordWrite => exact K.execCompletionWordWrite (K.rfl' s)
  | stepDone => exact K.execStepDone (K.rfl' s)
  | sPortRead => exact K.execSPortRead (K.rfl' s)
  | sPortWrite => exact K.execSPortWrite (K.rfl' s)
  | intakeHoldRelease => exact K.execIntakeHoldRelease (K.rfl' s)
  | releaseCursorWrite => exact K.execReleaseCursorWrite (K.rfl' s)
  | controllerResponse => exact K.execControllerResponse (K.rfl' s)
  | controllerStall => exact K.execControllerStall (K.rfl' s)
  | longControllerStall => exact K.execLongControllerStall (K.rfl' s)
  | load => exact K.execLoad (K.rfl' s)
  | store => exact K.execStore (K.rfl' s)
  | add => exact K.execAdd (K.rfl' s)
  | smin => exact K.execSmin (K.rfl' s)
  | smax => exact K.execSmax (K.rfl' s)
  | umin => exact K.execUmin (K.rfl' s)
  | umax => exact K.execUmax (K.rfl' s)
  | and => exact K.execAnd (K.rfl' s)
  | or => exact K.execOr (K.rfl' s)
  | xor => exact K.execXor (K.rfl' s)
  | swap => exact K.execSwap (K.rfl' s)
  | cas => exact K.execCas (K.rfl' s)
  | fenceRead => exact K.execFenceRead (K.rfl' s)
  | yardRequest => exact K.execYardRequest (K.rfl' s)
  | combiningEntryClose => exact K.execCombiningEntryClose (K.rfl' s)
  | yardAnswer => exact K.execYardAnswer (K.rfl' s)
  | yardRetryTimeout => exact K.execYardRetryTimeout (K.rfl' s)
  | operationIndeterminate => exact K.execOperationIndeterminate (K.rfl' s)
  | receiptQueryTimer => exact K.execReceiptQueryTimer (K.rfl' s)
  | receiptQuery => exact K.execReceiptQuery (K.rfl' s)
  | receiptStatus => exact K.execReceiptStatus (K.rfl' s)
  | receiptExpiry => exact K.execReceiptExpiry (K.rfl' s)
  | rollbackNotice => exact K.execRollbackNotice (K.rfl' s)
  | removeEntry => exact K.execRemoveEntry (K.rfl' s)
  | rekeyCheck => exact K.execRekeyCheck (K.rfl' s)
  | migrationSet => exact K.execMigrationSet (K.rfl' s)
  | dataFrame => exact K.execDataFrame (K.rfl' s)
  | acknowledgement => exact K.execAcknowledgement (K.rfl' s)
  | retransmitTimeout => exact K.execRetransmitTimeout (K.rfl' s)
  | epochDoneNotice => exact K.execEpochDoneNotice (K.rfl' s)
  | noticeRepeat => exact K.execNoticeRepeat (K.rfl' s)
  | foldComplete => exact K.execFoldComplete (K.rfl' s)
  | holderSilenceLimit => exact K.execHolderSilenceLimit (K.rfl' s)
  | feedwarnChange => exact K.execFeedwarnChange (K.rfl' s)
  | feedDeclared => exact K.execFeedDeclared (K.rfl' s)
  | flushTimeLimit => exact K.execFlushTimeLimit (K.rfl' s)
  | suspect => exact K.execSuspect (K.rfl' s)
  | silenceLimit => exact K.execSilenceLimit (K.rfl' s)
  | twinWait => exact K.execTwinWait (K.rfl' s)
  | twinReport => exact K.execTwinReport (K.rfl' s)
  | propose => exact K.execPropose (K.rfl' s)
  | accept => exact K.execAccept (K.rfl' s)
  | acceptTimeout => exact K.execAcceptTimeout (K.rfl' s)
  | cut => exact K.execCut (K.rfl' s)
  | rollbackComplete => exact K.execRollbackComplete (K.rfl' s)
  | ready => exact K.execReady (K.rfl' s)
  | release => exact K.execRelease (K.rfl' s)
  | reStripeFillRead => exact K.execReStripeFillRead (K.rfl' s)
  | reStripeData => exact K.execReStripeData (K.rfl' s)
  | reStripeAcknowledgement => exact K.execReStripeAcknowledgement (K.rfl' s)
  | holdLimit => exact K.execHoldLimit (K.rfl' s)
  | staleNotice => exact K.execStaleNotice (K.rfl' s)
  | joinRequest => exact K.execJoinRequest (K.rfl' s)
  | joinRequestRepeat => exact K.execJoinRequestRepeat (K.rfl' s)
  | join => exact K.execJoin (K.rfl' s)
  | rebuildRead => exact K.execRebuildRead (K.rfl' s)
  | rebuildData => exact K.execRebuildData (K.rfl' s)
  | journalMirror => exact K.execJournalMirror (K.rfl' s)
  | snapshotTimerTrigger => exact K.execSnapshotTimerTrigger (K.rfl' s)
  | snapshotNow => exact K.execSnapshotNow (K.rfl' s)
  | snapshotDeferralCleared => exact K.execSnapshotDeferralCleared (K.rfl' s)
  | snapshotOrder => exact K.execSnapshotOrder (K.rfl' s)
  | snapshotReport => exact K.execSnapshotReport (K.rfl' s)
  | sealRelease => exact K.execSealRelease (K.rfl' s)
  | copyOnWriteHoldLimit => exact K.execCopyOnWriteHoldLimit (K.rfl' s)
  | snapshotComplete => exact K.execSnapshotComplete (K.rfl' s)
  | evaluationExportNow => exact K.execEvaluationExportNow (K.rfl' s)
  | restoreRequest => exact K.execRestoreRequest (K.rfl' s)
  | inventory => exact K.execInventory (K.rfl' s)
  | restoreOrder => exact K.execRestoreOrder (K.rfl' s)
  | shardLoadComplete => exact K.execShardLoadComplete (K.rfl' s)
  | restoreReport => exact K.execRestoreReport (K.rfl' s)
  | contribution => exact K.execContribution (K.rfl' s)
  | result => exact K.execResult (K.rfl' s)
  | resultTimeout => exact K.execResultTimeout (K.rfl' s)
  | taint => exact K.execTaint (K.rfl' s)
  | taintHorizon => exact K.execTaintHorizon (K.rfl' s)
  | peakNotice => exact K.execPeakNotice (K.rfl' s)
  | lateTaintTimeout => exact K.execLateTaintTimeout (K.rfl' s)
  | callRelease => exact K.execCallRelease (K.rfl' s)
  | allotmentRound => exact K.execAllotmentRound (K.rfl' s)
  | combineCursorWrite => exact K.execCombineCursorWrite (K.rfl' s)
  | returnWindowWrite => exact K.execReturnWindowWrite (K.rfl' s)
  | combineComplete => exact K.execCombineComplete (K.rfl' s)
  | combineTimeout => exact K.execCombineTimeout (K.rfl' s)
  | sweepStart => exact K.execSweepStart (K.rfl' s)
  | sweepBlock => exact K.execSweepBlock (K.rfl' s)
  | roundClose => exact K.execRoundClose (K.rfl' s)
  | manifest => exact K.execManifest (K.rfl' s)
  | longHaulPacket => exact K.execLongHaulPacket (K.rfl' s)
  | repairWait => exact K.execRepairWait (K.rfl' s)
  | repairRequest => exact K.execRepairRequest (K.rfl' s)
  | shardSummary => exact K.execShardSummary (K.rfl' s)
  | shardComplete => exact K.execShardComplete (K.rfl' s)
  | manifestWait => exact K.execManifestWait (K.rfl' s)
  | siteJoin => exact K.execSiteJoin (K.rfl' s)
  | siteJoinRequest => exact K.execSiteJoinRequest (K.rfl' s)
  | joinAnswer => exact K.execJoinAnswer (K.rfl' s)
  | repairComplete => exact K.execRepairComplete (K.rfl' s)
  | repairLimit => exact K.execRepairLimit (K.rfl' s)
  | sramPatrol => exact K.execSramPatrol (K.rfl' s)
  | hbmPatrol => exact K.execHbmPatrol (K.rfl' s)
  | errorInjection => exact K.execErrorInjection (K.rfl' s)
  | acknowledgeRetirement => exact K.execAcknowledgeRetirement (K.rfl' s)
  | jobKey => exact K.execJobKey (K.rfl' s)
  | streamQuery => exact K.execStreamQuery (K.rfl' s)
  | watermark => exact K.execWatermark (K.rfl' s)
  | bisectionStart => exact K.execBisectionStart (K.rfl' s)
  | bisectQuery => exact K.execBisectQuery (K.rfl' s)
  | bisectAnswer => exact K.execBisectAnswer (K.rfl' s)
  | bisectAnswerTimeout => exact K.execBisectAnswerTimeout (K.rfl' s)
  | line => exact K.execLine (K.rfl' s)
  | bisectionLimit => exact K.execBisectionLimit (K.rfl' s)
  | open_ => exact K.execOpen (K.rfl' s)
  | confirm => exact K.execConfirm (K.rfl' s)
  | close => exact K.execClose (K.rfl' s)
  | halfOpenTimeout => exact K.execHalfOpenTimeout (K.rfl' s)
  | idleTimeout => exact K.execIdleTimeout (K.rfl' s)
  | read => exact K.execRead (K.rfl' s)
  | write => exact K.execWrite (K.rfl' s)
  | readBlock => exact K.execReadBlock (K.rfl' s)
  | writeBlock => exact K.execWriteBlock (K.rfl' s)
  | subscribe => exact K.execSubscribe (K.rfl' s)
  | blockTimeout => exact K.execBlockTimeout (K.rfl' s)
  | notify => exact K.execNotify (K.rfl' s)
  | principalKey => exact K.execPrincipalKey (K.rfl' s)
  | principalEnabled => exact K.execPrincipalEnabled (K.rfl' s)
  | mouldLoad => exact K.execMouldLoad (K.rfl' s)
  | importRequest => exact K.execImportRequest (K.rfl' s)
  | importComplete => exact K.execImportComplete (K.rfl' s)
  | functionEnable => exact K.execFunctionEnable (K.rfl' s)
  | functionDisable => exact K.execFunctionDisable (K.rfl' s)
  | drainComplete => exact K.execDrainComplete (K.rfl' s)
  | drainLimit => exact K.execDrainLimit (K.rfl' s)
  | thermalSample => exact K.execThermalSample (K.rfl' s)
  | droopLimit => exact K.execDroopLimit (K.rfl' s)
  | clockLostLock => exact K.execClockLostLock (K.rfl' s)
  | portClockResume => exact K.execPortClockResume (K.rfl' s)
  | imageChunk => exact K.execImageChunk (K.rfl' s)
  | checkSlot => exact K.execCheckSlot (K.rfl' s)
  | activate => exact K.execActivate (K.rfl' s)
  | pair => exact K.execPair (K.rfl' s)
  | offerRepeat => exact K.execOfferRepeat (K.rfl' s)
  | offer => exact K.execOffer (K.rfl' s)
  | twinAccept => exact K.execTwinAccept (K.rfl' s)
  | twinConfirm => exact K.execTwinConfirm (K.rfl' s)
  | pairTimeout => exact K.execPairTimeout (K.rfl' s)
  | heartbeatTimer => exact K.execHeartbeatTimer (K.rfl' s)
  | heartbeat => exact K.execHeartbeat (K.rfl' s)
  | twinSilence => exact K.execTwinSilence (K.rfl' s)
  | logMirror => exact K.execLogMirror (K.rfl' s)
  | unpair => exact K.execUnpair (K.rfl' s)
  | unpairFrame => exact K.execUnpairFrame (K.rfl' s)
  | sidebandWireFault => exact K.execSidebandWireFault (K.rfl' s)
  | sidebandPairRecovered => exact K.execSidebandPairRecovered (K.rfl' s)
  | reservedKindFrame r => exact K.execReservedKindFrame (_r := r) (K.rfl' s)
  | checksumErrorDatagram r => exact K.execChecksumErrorDatagram (_r := r) (K.rfl' s)
  | stallIndicatorCleared => exact K.execStallIndicatorCleared (K.rfl' s)
  | rushHoldEnd => exact K.execRushHoldEnd (K.rfl' s)
  | copierLineRead => exact K.execCopierLineRead (K.rfl' s)
  | fillLineRead => exact K.execFillLineRead (K.rfl' s)
  | stepdoneLevelFrame => exact K.execStepdoneLevelFrame (K.rfl' s)
  | stepmarkLevelZero => exact K.execStepmarkLevelZero (K.rfl' s)

/-- No command touches the queue, the number of slices or a frame handed over, and every one keeps the canonical forms. -/
theorem exec_kept (c : Instr) (s : State) : KeptBy s (exec c s) := by
  cases c with
  | vresetNAssert => exact kept_vresetNAssert s
  | selfTestComplete => exact kept_selfTestComplete s _ _ _ _ _
  | watchdogExpiry => exact kept_watchdogExpiry s
  | watchdogReset => exact kept_watchdogReset s
  | fPortCompletion => exact kept_fPortCompletion s _ _
  | freeze => exact kept_freeze s _
  | testLogicReset => exact kept_testLogicReset s
  | idcode => exact kept_idcode s
  | samplePreload => exact kept_samplePreload s _
  | extest => exact kept_extest s _
  | clamp => exact kept_clamp s
  | highz => exact kept_highz s
  | ijtag => exact kept_ijtag s _
  | scan => exact kept_scan s
  | bypass => exact kept_bypass s _
  | sramReadout => exact kept_sramReadout s _ _
  | registerCapture => exact kept_registerCapture s _
  | memoryBist => exact kept_memoryBist s _ _ _
  | fuseReader => exact kept_fuseReader s
  | freezeStatus => exact kept_freezeStatus s
  | fuseProgrammer => exact kept_fuseProgrammer s _ _ _
  | railsFall => exact kept_railsFall s
  | _ => exact (exec_keeps rfl s).kept

/-- A step idles on an empty queue, or runs the front command on the queue's rest. -/
theorem step_cases {s t : State} (h : step s = .next t) :
    (s.pending = [] ∧ t = s) ∨ ∃ c rest, s.pending = c :: rest ∧ exec c { s with pending := rest } = .next t := by
  unfold step at h
  split at h
  · next empty => exact .inl ⟨empty, (Host.Outcome.next.inj h).symm⟩
  · next c rest front => exact .inr ⟨c, rest, front, h⟩

/-- Settles O4, from what every command keeps. -/
theorem stepTakesOneCommandAndWithdrawsNothing : Obligations.StepTakesOneCommandAndWithdrawsNothing := by
  intro s t h
  obtain ⟨empty, rfl⟩ | ⟨c, rest, front, run⟩ := step_cases h
  · exact ⟨by rw [empty, List.tail_nil], rfl, List.prefix_rfl⟩
  · have kept := exec_kept c _ t run
    exact ⟨by rw [front]; exact kept.pending, kept.slices, kept.tx⟩

end Sys2Proof.Machine
end

section
/-!
Which commands stop (R1, R405): a command that names a slice runs at that slice or stops, every other completes.
-/

namespace Sys2Proof.Machine

/-- What a command of slice n does: it completes where the slice is built and stops where it is not. -/
def AtSlice (n : Nat) (s : State) (o : Out) : Prop :=
  (n < s.hw.slices → ∃ t, o = .next t) ∧ (s.hw.slices ≤ n → o = .fault .absentSlice)

namespace AtSlice

theorem onSlice (n : Nat) (s : State) (k : State → State) : AtSlice n s (onSlice n s k) :=
  ⟨fun built => ⟨k s, if_pos built⟩, fun absent => if_neg (Nat.not_lt.mpr absent)⟩

theorem onActive (n : Nat) (s : State) (k : State → State) : AtSlice n s (onActive n s k) := .onSlice n s _

theorem sliceServing (n : Nat) (s : State) (k : State → State) : AtSlice n s (sliceServing n s k) := .onActive n s _

theorem atPort (n : Nat) (s : State) (k : State → State) : AtSlice n s (atPort n s k) := .onSlice n s _

/-- The test segment of slice n is segment n + 2 (R405). -/
theorem inSegment {g : Nat} (hg : 2 ≤ g) (s : State) (k : State → State) : AtSlice (g - 2) s (inSegment g s k) :=
  ⟨fun built => ⟨_, if_neg (by omega)⟩, fun absent => if_pos (by omega)⟩

end AtSlice

/-- The two segments that are no slice's are always there (R405). -/
theorem inSegment_completes {g : Nat} (hg : g < 2) (s : State) (k : State → State) : ∃ t, inSegment g s k = .next t :=
  ⟨_, if_neg (by omega)⟩

theorem segment_eq_some {g n : Nat} (h : (if g < 2 then none else some (g - 2)) = some n) : 2 ≤ g ∧ n = g - 2 := by
  split at h
  · cases h
  · exact ⟨by omega, (Option.some.inj h).symm⟩

theorem segment_eq_none {g : Nat} (h : (if g < 2 then none else some (g - 2)) = none) : g < 2 := by
  split at h
  · assumption
  · cases h

/-- A command that names a slice is a command of that slice. -/
theorem exec_atSlice {c : Instr} {n : Nat} (h : namedSlice c = some n) (s : State) : AtSlice n s (exec c s) := by
  cases c with
  | sramReadout | registerCapture | memoryBist =>
    obtain ⟨hg, rfl⟩ := segment_eq_some h
    unfold exec
    exact .inSegment hg s _
  | sramPatrol =>
    cases h
    unfold exec
    exact .onSlice _ s _
  | controllerStall | longControllerStall | droopLimit | stallIndicatorCleared | rushHoldEnd =>
    cases h
    unfold exec
    exact .onActive _ s _
  | passLine | logTile | macJob | macJobReadout | arrayHoldExpiry | arrayStopRampEnd | hbmPatrol | copierLineRead =>
    cases h
    unfold exec
    exact .sliceServing _ s _
  | sPortRead | sPortWrite | releaseCursorWrite | controllerResponse | load | store | add | smin | smax | umin | umax | and
  | or | xor | swap | cas | fenceRead | callRelease | combineCursorWrite =>
    cases h
    unfold exec
    exact .atPort _ s _
  | _ => cases h

theorem dictRow_completes (ok : DReq → Bool) (v : Via) (s : State) : ∃ t, dictRow ok v s = .next t := by
  cases v <;> exact ⟨_, rfl⟩

theorem completes_ite {p : Prop} [Decidable p] {o o' : Out} (h : ∃ t, o = .next t) (h' : ∃ t, o' = .next t) :
    ∃ t, (if p then o else o') = .next t := by
  split <;> assumption

theorem execFPortCompletion_completes (tag status : Nat) (s : State) : ∃ t, execFPortCompletion tag status s = .next t := by
  unfold execFPortCompletion
  split
  · exact ⟨_, rfl⟩
  · exact completes_ite ⟨_, rfl⟩ (completes_ite ⟨_, rfl⟩ ⟨_, rfl⟩)

theorem exec_completes_of_namedSlice_eq_none {c : Instr} (h : namedSlice c = none) (s : State) : Completes c s := by
  cases c with
  | sramReadout | registerCapture | memoryBist =>
    unfold Completes exec
    exact inSegment_completes (segment_eq_none h) s _
  | passLine | logTile | macJob | macJobReadout | arrayHoldExpiry | arrayStopRampEnd | sPortRead | sPortWrite
  | releaseCursorWrite | controllerResponse | controllerStall | longControllerStall | load | store | add | smin | smax | umin
  | umax | and | or | xor | swap | cas | fenceRead | callRelease | combineCursorWrite | sramPatrol | hbmPatrol | droopLimit
  | stallIndicatorCleared | rushHoldEnd | copierLineRead => cases h
  | freezeStatus | fuseReader | fuseProgrammer =>
    unfold Completes exec
    exact inSegment_completes Nat.zero_lt_two s _
  | vresetNAssert | vresetNRelease | freeze | extest => exact completes_ite ⟨_, rfl⟩ ⟨_, rfl⟩
  | watchdogReset | scan => exact completes_ite ⟨_, rfl⟩ (completes_ite ⟨_, rfl⟩ ⟨_, rfl⟩)
  | fPortCompletion => exact execFPortCompletion_completes _ _ s
  | removeEntry | join | snapshotNow | evaluationExportNow | restoreRequest | siteJoin | errorInjection
  | acknowledgeRetirement | jobKey | streamQuery | read | write | readBlock | writeBlock | subscribe | principalKey
  | principalEnabled | mouldLoad | importRequest | functionEnable | functionDisable | imageChunk | checkSlot | activate
  | pair | unpair => exact dictRow_completes _ _ s
  | _ => exact ⟨_, rfl⟩

/-- Settles O5, by whether the command names a slice. -/
theorem onlyAbsentSlicesStop : Obligations.OnlyAbsentSlicesStop := by
  refine fun c s => ⟨fun ⟨n, named, absent⟩ => (exec_atSlice named s).2 absent, fun built => ?_⟩
  cases named : namedSlice c with
  | none => exact exec_completes_of_namedSlice_eq_none named s
  | some n => exact (exec_atSlice named s).1 (built n named)

end Sys2Proof.Machine
end

section
/-!
The arithmetic of the coding field (R9, R43): the folding reduction, the multiplier, the field images of W64
words, and powers by square and multiply.
-/

namespace Sys2Proof.Machine

theorem p61_eq : p61 = 2305843009213693951 := rfl

theorem canonical_iff {y : Nat} : canonical y = true ↔ y < p61 := by
  simp [canonical]

/-- One folding step of R43: the low 61 bits and what stands above them, added. -/
def foldHigh (x : Nat) : Nat := x % 2 ^ 61 + x / 2 ^ 61

/-- 2^61 is 1 modulo p, so folding keeps the remainder. -/
theorem foldHigh_mod (x : Nat) : foldHigh x % p61 = x % p61 := by
  unfold foldHigh
  have split : x = x % 2 ^ 61 + x / 2 ^ 61 + p61 * (x / 2 ^ 61) := by rw [p61_eq]; omega
  calc (x % 2 ^ 61 + x / 2 ^ 61) % p61
      = (x % 2 ^ 61 + x / 2 ^ 61 + p61 * (x / 2 ^ 61)) % p61 := (Nat.add_mul_mod_self_left _ _ _).symm
    _ = x % p61 := by rw [← split]

/-- Two foldings bring a word below 2^122 to p or below. -/
theorem foldHigh_foldHigh_le {x : Nat} (h : x < 2 ^ 122) : foldHigh (foldHigh x) ≤ p61 := by
  unfold foldHigh
  rw [p61_eq]
  omega

/-- The last step of R43: one subtraction reduces a word of at most p. -/
theorem sub_p61_eq_mod {x : Nat} (h : x ≤ p61) : (if x ≥ p61 then x - p61 else x) = x % p61 := by
  split
  · obtain rfl : x = p61 := by omega
    simp
  · exact (Nat.mod_eq_of_lt (by omega)).symm

theorem red_eq_mod {x : Nat} (h : x < 2 ^ 122) : red x = x % p61 := by
  calc red x = foldHigh (foldHigh x) % p61 := sub_p61_eq_mod (foldHigh_foldHigh_le h)
    _ = x % p61 := by rw [foldHigh_mod, foldHigh_mod]

theorem mod_p61_lt (x : Nat) : x % p61 < p61 := Nat.mod_lt _ (by decide)

theorem mulP_eq_mod {y z : Nat} (hy : canonical y = true) (hz : canonical z = true) : mulP y z = y * z % p61 := by
  have hy' : y < 2 ^ 61 := Nat.lt_trans (canonical_iff.mp hy) (by decide)
  have hz' : z < 2 ^ 61 := Nat.lt_trans (canonical_iff.mp hz) (by decide)
  have product : y * z < 2 ^ 61 * 2 ^ 61 := Nat.mul_lt_mul'' hy' hz'
  exact red_eq_mod (by omega)

theorem clamp60_eq_ite (v : Int) :
    clamp60 v = if v > 2 ^ 60 - 1 then 2 ^ 60 - 1 else if v < -(2 ^ 60 - 1) then -(2 ^ 60 - 1) else v := by
  unfold clamp60 clampI w64Max
  split
  · omega
  · split <;> omega

theorem clamp60_eq_self_iff {v : Int} : clamp60 v = v ↔ -(2 ^ 60 - 1) ≤ v ∧ v ≤ 2 ^ 60 - 1 := by
  unfold clamp60 clampI w64Max
  omega

theorem canonical_toField (v : Int) : canonical (toField v) = true := by
  rw [canonical_iff, toField, p61_eq]
  omega

/-- The field image of a non-negative in-range word is the word, that of a negative one the word plus p. -/
theorem ofField_toField {v : Int} (h : clamp60 v = v) : ofField (toField v) = v := by
  obtain ⟨lo, hi⟩ := clamp60_eq_self_iff.mp h
  unfold ofField toField
  rw [p61_eq]
  split <;> omega

/-- Square and multiply is exact once the fuel covers the bits of the exponent. -/
theorem powPAux_eq (fuel : Nat) : ∀ b e : Nat, e < 2 ^ fuel → powPAux b fuel e = b ^ e % p61 := by
  induction fuel with
  | zero =>
    intro b e he
    obtain rfl : e = 0 := by omega
    rfl
  | succ fuel ih =>
    intro b e he
    have half : powPAux (b * b % p61) fuel (e / 2) = b ^ (2 * (e / 2)) % p61 := by
      rw [ih _ _ (by omega), ← Nat.pow_mod, ← Nat.pow_two, ← Nat.pow_mul]
    simp only [powPAux, half]
    split
    · subst e; rfl
    · split
      · rw [Nat.mul_mod_mod, ← Nat.pow_add_one', show 2 * (e / 2) + 1 = e by omega]
      · rw [show 2 * (e / 2) = e by omega]

theorem lt_two_pow_bitLength (e : Nat) : e < 2 ^ bitLength e := by
  unfold bitLength
  split
  · subst e; decide
  · exact Nat.lt_log2_self

theorem powP_eq (b e : Nat) : powP b e = b ^ e % p61 := by
  rw [powP, powPAux_eq _ _ _ (lt_two_pow_bitLength e), ← Nat.pow_mod]

/-- Settles O35, from the folding reduction, the field image of an in-range word and square and multiply. -/
theorem fieldArithmeticIsExact : Obligations.FieldArithmeticIsExact := by
  refine ⟨fun x => red_eq_mod, fun y z hy hz => ?_, fun v hv => ⟨canonical_toField v, ofField_toField hv⟩, clamp60_eq_ite, powP_eq⟩
  have product := mulP_eq_mod hy hz
  exact ⟨canonical_iff.mpr (product ▸ mod_p61_lt _), product⟩

end Sys2Proof.Machine
end

section
/-!
Rotations of canonical words and the deltas of W64 words (R38, R44): a rotation exchanges the two parts of a word,
so it keeps the one bits, and the field image turns differences of words into differences in the field.
-/

namespace Sys2Proof.Machine

/-! ### One bits -/

theorem popcount_succ (w n : Nat) : popcount w (n + 1) = popcount w n + (if w.testBit n then 1 else 0) := rfl

theorem popcount_congr {v w n : Nat} (h : ∀ i < n, v.testBit i = w.testBit i) : popcount v n = popcount w n := by
  induction n with
  | zero => rfl
  | succ n ih => rw [popcount_succ, popcount_succ, ih fun i hi => h i (by omega), h n (by omega)]

theorem popcount_le (w n : Nat) : popcount w n ≤ n := by
  induction n with
  | zero => exact Nat.le_refl _
  | succ n ih => rw [popcount_succ]; split <;> omega

/-- The one bits of a word are those of its low m bits and those of what stands above them. -/
theorem popcount_two_pow_mul_add (hi : Nat) {lo m : Nat} (h : lo < 2 ^ m) (n : Nat) :
    popcount (2 ^ m * hi + lo) (m + n) = popcount lo m + popcount hi n := by
  induction n with
  | zero => exact popcount_congr fun i lt => by rw [Nat.testBit_two_pow_mul_add hi h, if_pos (show i < m from lt)]
  | succ n ih =>
    have top : (2 ^ m * hi + lo).testBit (m + n) = hi.testBit n := by
      rw [Nat.testBit_two_pow_mul_add hi h, if_neg (by omega), Nat.add_sub_cancel_left]
    rw [← Nat.add_assoc, popcount_succ, popcount_succ, ih, top, Nat.add_assoc]

theorem testBit_of_popcount_eq {w n : Nat} (h : popcount w n = n) : ∀ i < n, w.testBit i = true := by
  induction n with
  | zero => exact fun i hi => absurd hi (Nat.not_lt_zero i)
  | succ n ih =>
    have most := popcount_le w n
    rw [popcount_succ] at h
    split at h
    · intro i hi
      obtain lt | rfl := Nat.lt_succ_iff_lt_or_eq.mp hi
      · exact ih (by omega) i lt
      · assumption
    · omega

/-- Only the word of all ones has n ones among n bits. -/
theorem eq_all_ones_of_popcount_eq {w n : Nat} (h : w < 2 ^ n) (full : popcount w n = n) : w = 2 ^ n - 1 := by
  refine Nat.eq_of_testBit_eq fun i => ?_
  rw [Nat.testBit_two_pow_sub_one]
  by_cases hi : i < n
  · rw [testBit_of_popcount_eq full i hi, decide_eq_true hi]
  · rw [Nat.testBit_lt_two_pow (Nat.lt_of_lt_of_le h (Nat.pow_le_pow_right (by decide) (by omega))), decide_eq_false hi]

/-! ### Rotations (R44) -/

/-- A shift by i takes the low part of a word up to bit i and the top part beyond the word. -/
theorem shift_parts (top low m i : Nat) : (2 ^ m * top + low) * 2 ^ i = 2 ^ i * low + 2 ^ m * 2 ^ i * top := by
  rw [Nat.add_mul, Nat.mul_right_comm, Nat.mul_comm low, Nat.add_comm]

/-- A rotation by i exchanges the top i bits of a word with the 61 - i below them. -/
theorem rotmul_parts {top low m i : Nat} (width : m + i = 61) (hlow : low < 2 ^ m) :
    rotmul (2 ^ m * top + low) i = 2 ^ i * low + top := by
  have whole : 2 ^ m * 2 ^ i = 2 ^ 61 := by rw [← Nat.pow_add, width]
  have fits : 2 ^ i * low < 2 ^ 61 := by
    rw [← whole, Nat.mul_comm]; exact Nat.mul_lt_mul_of_pos_right hlow (Nat.two_pow_pos i)
  rw [rotmul, shift_parts, whole, Nat.add_mul_mod_self_left, Nat.mod_eq_of_lt fits, show 61 - i = m by omega,
    Nat.mul_add_div (Nat.two_pow_pos m), Nat.div_eq_of_lt hlow, Nat.add_zero]

/-- The two parts that a rotation by i exchanges. -/
theorem rotation_parts {y i : Nat} (hy : y < 2 ^ 61) (hi : i ≤ 61) :
    ∃ m top low, m + i = 61 ∧ low < 2 ^ m ∧ top < 2 ^ i ∧ y = 2 ^ m * top + low := by
  refine ⟨61 - i, y / 2 ^ (61 - i), y % 2 ^ (61 - i), by omega, Nat.mod_lt _ (Nat.two_pow_pos _), ?_, (Nat.div_add_mod _ _).symm⟩
  rw [Nat.div_lt_iff_lt_mul (Nat.two_pow_pos _), ← Nat.pow_add, show i + (61 - i) = 61 by omega]
  exact hy

theorem rotmul_lt {y i : Nat} (hy : y < 2 ^ 61) (hi : i ≤ 61) : rotmul y i < 2 ^ 61 := by
  obtain ⟨m, top, low, width, hlow, htop, rfl⟩ := rotation_parts hy hi
  rw [rotmul_parts width hlow]
  calc 2 ^ i * low + top < 2 ^ i * (low + 1) := by rw [Nat.mul_succ]; omega
    _ ≤ 2 ^ i * 2 ^ m := Nat.mul_le_mul_left _ hlow
    _ = 2 ^ 61 := by rw [← Nat.pow_add, Nat.add_comm, width]

theorem popcount_rotmul {y i : Nat} (hy : y < 2 ^ 61) (hi : i ≤ 61) : popcount (rotmul y i) 61 = popcount y 61 := by
  obtain ⟨m, top, low, width, hlow, htop, rfl⟩ := rotation_parts hy hi
  rw [rotmul_parts width hlow]
  calc popcount (2 ^ i * low + top) 61
      = popcount (2 ^ i * low + top) (i + m) := by rw [Nat.add_comm i m, width]
    _ = popcount top i + popcount low m := popcount_two_pow_mul_add low htop m
    _ = popcount low m + popcount top i := Nat.add_comm _ _
    _ = popcount (2 ^ m * top + low) (m + i) := (popcount_two_pow_mul_add top hlow i).symm
    _ = popcount (2 ^ m * top + low) 61 := by rw [width]

/-- What leaves a word at its top by a shift of i comes back at its bottom, and 2^61 is 1 modulo p. -/
theorem rotmul_mod {y i : Nat} (hy : y < 2 ^ 61) (hi : i ≤ 61) : rotmul y i % p61 = y * 2 ^ i % p61 := by
  obtain ⟨m, top, low, width, hlow, -, rfl⟩ := rotation_parts hy hi
  have whole : 2 ^ m * 2 ^ i = p61 + 1 := by rw [← Nat.pow_add, width, p61_eq]
  have shifted : (2 ^ m * top + low) * 2 ^ i = 2 ^ i * low + top + p61 * top := by
    rw [shift_parts, whole, Nat.succ_mul, Nat.add_comm (p61 * top), Nat.add_assoc]
  rw [rotmul_parts width hlow, shifted, Nat.add_mul_mod_self_left]

/-- R44: p is the word of all ones, which a canonical word is not and does not become by a rotation. -/
theorem rotmul_ne_p61 {y i : Nat} (hy : y < p61) (hi : i ≤ 61) : rotmul y i ≠ p61 := by
  intro all
  have width : y < 2 ^ 61 := Nat.lt_trans hy (by decide)
  have ones : popcount y 61 = 61 := by
    rw [← popcount_rotmul width hi, all]
    decide
  exact Nat.ne_of_lt hy (eq_all_ones_of_popcount_eq width ones)

theorem rotmul_eq_mod {y i : Nat} (hy : y < p61) (hi : i ≤ 61) : rotmul y i = y * 2 ^ i % p61 := by
  have width : y < 2 ^ 61 := Nat.lt_trans hy (by decide)
  have below : rotmul y i < p61 := Nat.lt_of_le_of_ne (Nat.le_sub_one_of_lt (rotmul_lt width hi)) (rotmul_ne_p61 hy hi)
  rw [← rotmul_mod width hi, Nat.mod_eq_of_lt below]

/-- Settles O33, by the two parts of a word that a rotation exchanges. -/
theorem rotationsMultiply : Obligations.RotationsMultiply := by
  intro y i hy hi
  have below := canonical_iff.mp hy
  have turn : i ≤ 61 := Nat.le_succ_of_le hi
  exact ⟨rotmul_eq_mod below turn, rotmul_ne_p61 below turn, popcount_rotmul (Nat.lt_trans below (by decide)) turn⟩

/-! ### Deltas of W64 words (R38) -/

theorem sgn_pat_64 {v : Int} (lo : -2 ^ 63 ≤ v) (hi : v < 2 ^ 63) : sgn 64 (pat 64 v) = v := by
  unfold sgn pat
  dsimp only
  split <;> omega

theorem delta_bounds {new old : Int} (hn : clamp60 new = new) (ho : clamp60 old = old) :
    -2 ^ 61 < new - old ∧ new - old < 2 ^ 61 := by
  obtain ⟨nlo, nhi⟩ := clamp60_eq_self_iff.mp hn
  obtain ⟨olo, ohi⟩ := clamp60_eq_self_iff.mp ho
  omega

theorem toField_sub (x y : Int) : toField (x - y) = subP (toField x) (toField y) := by
  unfold toField subP
  rw [p61_eq]
  omega

theorem toField_add (x y : Int) : toField (x + y) = addP (toField x) (toField y) := by
  unfold toField addP
  rw [p61_eq]
  omega

/-- Settles O34, since the field image keeps sums and differences; the least and the greatest word have a delta that
leaves the interval of R35. -/
theorem deltasHaveExactFieldImages : Obligations.DeltasHaveExactFieldImages := by
  intro new old hn ho
  obtain ⟨lo, hi⟩ := delta_bounds hn ho
  refine ⟨rfl, sgn_pat_64 (by omega) (by omega), lo, hi, toField_sub new old, ?_, w64Max, -w64Max, by decide, by decide, by decide⟩
  rw [← toField_add, show old + (new - old) = new by omega]

end Sys2Proof.Machine
end

section
/-!
Host memory word by word (R7): what a run of bytes or words reads as after a write of it, and that a write leaves
every other byte; then the terms that join a vat line or a felt line (R130, R131, R116).
-/

namespace Sys2Proof.Machine

/-! ### Runs of bytes -/

theorem Sparse.getBytes_congr {l m : List (Nat × Byte)} {a n : Nat}
    (h : ∀ x, a ≤ x → x < a + n → Sparse.get 0 l x = Sparse.get 0 m x) : Sparse.getBytes l a n = Sparse.getBytes m a n := by
  induction n generalizing a with
  | zero => rfl
  | succ n ih =>
    simp only [Sparse.getBytes]
    rw [h a (Nat.le_refl a) (by omega), ih fun x lo hi => h x (by omega) (by omega)]

theorem Sparse.length_getBytes (m : List (Nat × Byte)) (a n : Nat) : (Sparse.getBytes m a n).length = n := by
  induction n generalizing a with
  | zero => rfl
  | succ n ih => simp only [Sparse.getBytes, List.length_cons, ih]

theorem Sparse.getBytes_add (m : List (Nat × Byte)) (a j k : Nat) :
    Sparse.getBytes m a (j + k) = Sparse.getBytes m a j ++ Sparse.getBytes m (a + j) k := by
  induction j generalizing a with
  | zero => simp [Sparse.getBytes]
  | succ j ih =>
    rw [Nat.add_right_comm, Sparse.getBytes, ih, Sparse.getBytes, List.cons_append, Nat.add_assoc a 1 j, Nat.add_comm 1 j]

/-- A write leaves the bytes outside it. -/
theorem Sparse.get_putBytes_outside {m : List (Nat × Byte)} (h : Sparse.wf (fun _ => 0) m = true) {a x : Nat} {bs : Bytes}
    (out : x < a ∨ a + bs.length ≤ x) : Sparse.get 0 (Sparse.putBytes m a bs) x = Sparse.get 0 m x := by
  induction bs generalizing m a with
  | nil => rfl
  | cons b bs ih =>
    rw [List.length_cons] at out
    rw [Sparse.putBytes, ih (Sparse.wf_put (d := fun _ => 0) h a b) (by omega), Sparse.get_put (d := fun _ => 0) h,
      if_neg (by omega)]

/-- A run of bytes reads back as it was written. -/
theorem Sparse.getBytes_putBytes {m : List (Nat × Byte)} (h : Sparse.wf (fun _ => 0) m = true) (a : Nat) (bs : Bytes) :
    Sparse.getBytes (Sparse.putBytes m a bs) a bs.length = bs := by
  induction bs generalizing m a with
  | nil => rfl
  | cons b bs ih =>
    have stored := Sparse.wf_put (d := fun _ => 0) h a b
    have first : Sparse.get 0 (Sparse.putBytes (Sparse.put 0 m a b) (a + 1) bs) a = b := by
      rw [Sparse.get_putBytes_outside stored (.inl (Nat.lt_succ_self a)), Sparse.get_put (d := fun _ => 0) h, if_pos rfl]
    rw [Sparse.putBytes, List.length_cons, Sparse.getBytes, first, ih stored]

/-! ### Host memory -/

theorem mrd_mwr_same {s : State} (h : Sparse.wf (fun _ => 0) s.mem = true) (a : Nat) (bs : Bytes) :
    (s.mwr a bs).mrd a bs.length = bs :=
  Sparse.getBytes_putBytes h a bs

theorem mrd_mwr_apart {s : State} (h : Sparse.wf (fun _ => 0) s.mem = true) {a x k : Nat} {bs : Bytes}
    (apart : x + k ≤ a ∨ a + bs.length ≤ x) : (s.mwr a bs).mrd x k = s.mrd x k :=
  Sparse.getBytes_congr fun _ _ _ => Sparse.get_putBytes_outside h (by omega)

theorem length_littleEndian (n v : Nat) : (le n v).length = n := by
  induction n generalizing v with
  | zero => rfl
  | succ n ih => rw [le, List.length_cons, ih]

theorem leNat_littleEndian {n v : Nat} (h : v < 256 ^ n) : leNat (le n v) = v := by
  induction n generalizing v with
  | zero => rw [Nat.pow_zero] at h; simp only [le, leNat]; omega
  | succ n ih =>
    have rest : v / 256 < 256 ^ n := Nat.div_lt_of_lt_mul (by rwa [Nat.mul_comm, ← Nat.pow_succ])
    rw [le, leNat, ih rest, BitVec.toNat_ofNat]
    omega

theorem wordsBytes_cons (n w : Nat) (ws : List Nat) : wordsBytes n (w :: ws) = le n w ++ wordsBytes n ws := rfl

theorem length_wordsBytes (n : Nat) (ws : List Nat) : (wordsBytes n ws).length = n * ws.length := by
  induction ws with
  | nil => rfl
  | cons w ws ih => rw [wordsBytes_cons, List.length_append, length_littleEndian, ih, List.length_cons, Nat.mul_succ, Nat.add_comm]

theorem length_mWords (s : State) (a n k : Nat) : (s.mWords a n k).length = k := by
  induction k generalizing a with
  | zero => rfl
  | succ k ih => rw [State.mWords, List.length_cons, ih]

/-- Where memory holds words as one run of bytes, it reads as those words. -/
theorem mWords_of_mrd {s : State} {n : Nat} {ws : List Nat} (small : ∀ w ∈ ws, w < 256 ^ n) {a : Nat}
    (held : s.mrd a (n * ws.length) = wordsBytes n ws) : s.mWords a n ws.length = ws := by
  induction ws generalizing a with
  | nil => rfl
  | cons w ws ih =>
    obtain ⟨first, others⟩ := List.forall_mem_cons.mp small
    rw [List.length_cons, Nat.mul_succ, Nat.add_comm, State.mrd, Sparse.getBytes_add, wordsBytes_cons] at held
    obtain ⟨head, tail⟩ := List.append_inj held (by rw [Sparse.length_getBytes, length_littleEndian])
    rw [List.length_cons, State.mWords, State.mNat, State.mrd, head, leNat_littleEndian first, ih others tail]

theorem mWords_mwr_wordsBytes {s : State} (h : Sparse.wf (fun _ => 0) s.mem = true) {n : Nat} {ws : List Nat}
    (small : ∀ w ∈ ws, w < 256 ^ n) (a : Nat) : (s.mwr a (wordsBytes n ws)).mWords a n ws.length = ws :=
  mWords_of_mrd small (length_wordsBytes n ws ▸ mrd_mwr_same h a (wordsBytes n ws))

/-! ### Sums of lines -/

theorem addLists_eq_zipWith {xs ys : List Nat} (h : xs.length = ys.length) :
    addLists xs ys = xs.zipWith (fun x y => (x + y) % p61) ys := by
  induction xs generalizing ys with
  | nil => rw [List.length_eq_zero_iff.mp h.symm]; rfl
  | cons x xs ih =>
    cases ys with
    | nil => exact absurd h (Nat.succ_ne_zero _)
    | cons y ys => rw [addLists, ih (Nat.succ.inj h), List.zipWith_cons_cons, addP]

theorem length_addLists {xs ys : List Nat} (h : xs.length = ys.length) : (addLists xs ys).length = ys.length := by
  rw [addLists_eq_zipWith h, List.length_zipWith, h, Nat.min_self]

theorem lt_p61_of_mem_addLists {xs ys : List Nat} (h : xs.length = ys.length) : ∀ w ∈ addLists xs ys, w < p61 := by
  rw [addLists_eq_zipWith h, ← List.map_uncurry_zip_eq_zipWith]
  simp only [List.mem_map]
  rintro w ⟨_, _, rfl⟩
  exact mod_p61_lt _

/-! ### Felt lines (R116, R133) -/

theorem length_feltWords (s : State) (a sp : Nat) : (s.feltWords a sp).length = elems sp := length_mWords s a 8 (elems sp)

section
variable {s : State} {tgt : Bool} {g sp n a : Nat} {ts : List Nat}

theorem feltAdd_eq_mwr (at_ : s.feltAddr tgt g sp n = some a) :
    s.feltAdd tgt g sp n ts = s.mwr a (wordsBytes 8 (addLists (s.feltWords a sp) ts)) := by
  rw [State.feltAdd, at_]

theorem feltWords_feltAdd (hs : s.Canon) (at_ : s.feltAddr tgt g sp n = some a) (len : ts.length = elems sp) :
    (s.feltAdd tgt g sp n ts).feltWords a sp = (s.feltWords a sp).zipWith (fun x y => (x + y) % p61) ts := by
  have same : (s.feltWords a sp).length = ts.length := by rw [length_feltWords, len]
  have count : (addLists (s.feltWords a sp) ts).length = elems sp := (length_addLists same).trans len
  have small : ∀ w ∈ addLists (s.feltWords a sp) ts, w < 256 ^ 8 :=
    fun w hw => Nat.lt_trans (lt_p61_of_mem_addLists same w hw) (by decide)
  have read := mWords_mwr_wordsBytes hs.mem small a
  rw [count] at read
  rw [feltAdd_eq_mwr at_, ← addLists_eq_zipWith same, State.feltWords, read]

theorem mrd_feltAdd_apart (hs : s.Canon) (at_ : s.feltAddr tgt g sp n = some a) (len : ts.length = elems sp) {x k : Nat}
    (apart : x + k ≤ a ∨ a + 8 * elems sp ≤ x) : (s.feltAdd tgt g sp n ts).mrd x k = s.mrd x k := by
  have same : (s.feltWords a sp).length = ts.length := by rw [length_feltWords, len]
  rw [feltAdd_eq_mwr at_]
  refine mrd_mwr_apart hs.mem ?_
  rwa [length_wordsBytes, length_addLists same, len]

end

/-! ### Vat lines (R130, R131) -/

/-- An entry that p leaves out stands in a mapped list as before, where f keeps within p. -/
theorem mem_mapWhere_of_false {α : Type} {p : α → Bool} {f : α → α} (keeps : ∀ a, p a = true → p (f a) = true) {l : List α} {a : α}
    (h : p a = false) : a ∈ mapWhere p f l ↔ a ∈ l := by
  rw [mapWhere, List.mem_map]
  constructor
  · rintro ⟨b, hb, rfl⟩
    split at h
    · next hp => exact absurd h (by rw [keeps b hp]; decide)
    · next hp => rwa [if_neg hp]
  · exact fun ha => ⟨a, ha, by rw [h]; rfl⟩

theorem mem_mapWhere_of_true {α : Type} {p : α → Bool} {f : α → α} {l : List α} {a : α} (ha : a ∈ l) (h : p a = true) :
    f a ∈ mapWhere p f l :=
  List.mem_map.mpr ⟨a, ha, if_pos h⟩

/-- A vat line with each of its values raised by a term. -/
def VatLine.gain (ts : List Nat) (v : VatLine) : VatLine := { v with vals := addLists v.vals ts }

@[simp] theorem VatLine.is_gain (ts : List Nat) (v : VatLine) (tgt : Bool) (g b sp n : Nat) :
    (v.gain ts).is tgt g b sp n = v.is tgt g b sp n := rfl

theorem VatLine.is_self (g b sp n : Nat) (tgt : Bool) (ts : List Nat) : (⟨g, tgt, b, sp, n, ts⟩ : VatLine).is tgt g b sp n = true := by
  simp [VatLine.is]

section
variable (s : State) (tgt : Bool) (g b sp n : Nat) (ts : List Nat)

/-- Terms join a vat line within the vats. -/
theorem vatAdd_frame : s.vatAdd tgt g b sp n ts = { s with couch := { s.couch with vats := (s.vatAdd tgt g b sp n ts).couch.vats } } := by
  unfold State.vatAdd
  split <;> rfl

variable {s tgt g b sp n}

theorem vatAdd_vats_of_standing (h : ∃ v ∈ s.couch.vats, v.is tgt g b sp n = true) :
    (s.vatAdd tgt g b sp n ts).couch.vats = mapWhere (·.is tgt g b sp n) (VatLine.gain ts) s.couch.vats := by
  rw [State.vatAdd, if_pos (List.any_eq_true.mpr h)]
  rfl

theorem vatAdd_vats_of_absent (h : ∀ v ∈ s.couch.vats, v.is tgt g b sp n = false) :
    (s.vatAdd tgt g b sp n ts).couch.vats = s.couch.vats ++ [⟨g, tgt, b, sp, n, ts⟩] := by
  rw [State.vatAdd, if_neg]
  simpa using h

end

/-- Every other vat line stands. -/
theorem mem_vatAdd_of_other {s : State} {tgt : Bool} {g b sp n : Nat} {ts : List Nat} {v : VatLine} (h : v.is tgt g b sp n = false) :
    v ∈ (s.vatAdd tgt g b sp n ts).couch.vats ↔ v ∈ s.couch.vats := by
  by_cases stands : ∃ w ∈ s.couch.vats, w.is tgt g b sp n = true
  · rw [vatAdd_vats_of_standing ts stands]
    exact mem_mapWhere_of_false (fun w same => (w.is_gain ts tgt g b sp n).trans same) h
  · have absent : ∀ w ∈ s.couch.vats, w.is tgt g b sp n = false := by simpa using stands
    have new : v ≠ ⟨g, tgt, b, sp, n, ts⟩ := by
      rintro rfl
      exact absurd h (by rw [VatLine.is_self]; decide)
    rw [vatAdd_vats_of_absent ts absent, List.mem_append, List.mem_singleton, or_iff_left new]

/-- Settles O39: a felt line is one run of words in host memory, and a vat line one entry of the vats. -/
theorem termsAreAddedElementByElement : Obligations.TermsAreAddedElementByElement := by
  refine ⟨fun s tgt g b sp n ts => ⟨vatAdd_frame s tgt g b sp n ts, fun v hv => mem_vatAdd_of_other hv, ?_, ?_⟩, ?_⟩
  · intro v hv is
    rw [vatAdd_vats_of_standing ts ⟨v, hv, is⟩]
    exact mem_mapWhere_of_true (f := VatLine.gain ts) hv is
  · intro absent
    rw [vatAdd_vats_of_absent ts absent]
    exact List.mem_append_right _ (List.mem_singleton_self _)
  · intro s tgt g sp n a ts hs at_ len _ _
    exact ⟨feltWords_feltAdd hs at_ len, fun x k apart => mrd_feltAdd_apart hs at_ len apart⟩

end Sys2Proof.Machine
end

section
/-!
Writes that command (R330, R338, R339, R342 to R344): a request at the C-port that no check refuses commits its data, and
the commit of an object that only commands runs the operation of its owner.
-/

namespace Sys2Proof.Machine

/-! ### A request at the C-port (R342, R344) -/

/-- Words that spell a request of the command's kind are taken as that request. -/
theorem dictRow_cport {ok : DReq → Bool} {s : State} {ws : List Nat} {q : DReq} (asks : CAsks s ws q) (kind : ok q = true) (priv : Bool) :
    dictRow ok (.cport priv ws) s = .next (s.cPort priv q).settle := by
  obtain ⟨up, runs, spells⟩ := asks
  simp only [dictRow, whenUp, up, runs, spells, kind, if_true, Bool.false_eq_true, if_false]

/-- R344: a request is judged with the role of the sampled pair, a lack of privilege is counted and reported, and one
response goes out. -/
theorem cPort_eq (s : State) (priv : Bool) (q : DReq) :
    s.cPort priv q =
      (let a := (s.asked priv).operate (s.asked priv).cRole q
       (if a.1.status = 4 ∧ q.writes = true then a.2.privRefused q.key else a.2).replied q a.1) := rfl

theorem cPort_of_operate {s t : State} {priv : Bool} {q : DReq} {r : DRep}
    (operates : (s.asked priv).operate (s.asked priv).cRole q = (r, t)) (allowed : r.status ≠ 4) : s.cPort priv q = t.replied q r := by
  simp only [cPort_eq, operates, allowed, false_and, if_false]

/-! ### Writes that no common check refuses (R330, R338, R339) -/

/-- R326: a value that neither its owner nor its range refuses is written. -/
theorem commit_of_accepted {s : State} {k v : Nat} {b : Bytes} {o : Obj} (listed : objOf k = some o)
    (value : v = if o.ty = .octets ∨ o.ty = .str then 0 else beNat b) (owner : s.ownerCheck k v b = 0) (range : rangeStatus o v = 0) :
    s.commit k b = s.writeAct k v b := by
  simp only [State.commit, listed, ← value, owner, range]

theorem operate_write {s : State} {role : Nat} {q : DReq} (gate : s.gateStatus role q = 0) (op : q.op = 2) :
    s.operate role q = (⟨(s.commit q.key q.data).1, []⟩, (s.commit q.key q.data).2) := by
  simp only [State.operate, gate, op, State.doWrite]

/-- R421: a check that gives a status refuses where it applies. -/
theorem passed {c : Prop} [Decidable c] {n m : Nat} (h : (if c then n else m) = 0) (refusing : n ≠ 0 := by decide) : ¬ c ∧ m = 0 := by
  split at h
  · exact absurd h refusing
  · exact ⟨‹_›, h⟩

/-- The check of the owner's state is the seventh of R421. -/
theorem ownerBusy_of_gate {s : State} {role : Nat} {q : DReq} (gate : s.gateStatus role q = 0) : s.ownerBusy q = false := by
  unfold State.gateStatus at gate
  obtain ⟨_, listed⟩ := passed gate
  obtain ⟨_, answered⟩ := passed listed
  obtain ⟨_, accessible⟩ := passed answered
  obtain ⟨_, privileged⟩ := passed accessible
  obtain ⟨_, timely⟩ := passed privileged
  obtain ⟨_, owned⟩ := passed timely
  exact Bool.eq_false_iff.mpr (passed owned).1

/-- The staging copy of an object is gone (R339). -/
def State.unstage (s : State) (k : Nat) : State := s.modServer fun v => { v with staging := v.staging.filter (·.key ≠ k) }

/-- The bytes that the last segment of a block write commits (R339). -/
def State.stagedWith (s : State) (q : DReq) : Bytes :=
  patch (match s.stagingOf q.key with | some c => c.data | none => s.octs q.key 0 (keySize q)) q.off (slice q.data 0 q.len)

theorem ownerBusy_unstage (s : State) (k : Nat) (q : DReq) : (s.unstage k).ownerBusy q = s.ownerBusy q := rfl

/-- R339: the last segment commits the staging copy, which goes; a commit of status 0 is counted. -/
theorem operate_lastSegment {s : State} {role : Nat} {q : DReq} {x : Nat × State} (gate : s.gateStatus role q = 0) (op : q.op = 4)
    (last : q.last = true) (goesOn : q.abort = false) (commits : (s.unstage q.key).commit q.key (s.stagedWith q) = x) :
    s.operate role q = (⟨x.1, []⟩, if x.1 = 0 then x.2.inc 0x8100_08 else x.2) := by
  have free : (s.unstage q.key).ownerBusy q = false := (ownerBusy_unstage ..).trans (ownerBusy_of_gate gate)
  have block : s.operate role q = (match (s.unstage q.key).commit q.key (s.stagedWith q) with
      | (0, t) => (⟨0, []⟩, t.inc 0x8100_08)
      | (c, t) => (⟨c, []⟩, t)) := by
    unfold State.unstage at free
    simp only [State.operate, gate, op, State.doWriteBlock, goesOn, last, free, if_true, Bool.false_eq_true, if_false]
    rfl
  rw [block, commits]
  obtain ⟨c, t⟩ := x
  cases c with
  | zero => rfl
  | succ c => rfl

/-! ### The objects that only command -/

/-- The statuses with which an operation of a command answers (Table 15-7). -/
def operationStatuses : List Nat := [0, 6, 13, 14]

theorem done_mem : 0 ∈ operationStatuses := by decide

theorem outOfRange_mem : 6 ∈ operationStatuses := by decide

theorem notReady_mem : 13 ∈ operationStatuses := by decide

theorem reserved_mem : 14 ∈ operationStatuses := by decide

theorem status_ite {c : Prop} [Decidable c] {x y : Nat × State} (hx : x.1 ∈ operationStatuses) (hy : y.1 ∈ operationStatuses) :
    (if c then x else y).1 ∈ operationStatuses := by
  split <;> assumption

theorem importAsk_status (s : State) (b : Bytes) : (s.importAsk b).1 ∈ operationStatuses := by
  unfold State.importAsk
  refine status_ite reserved_mem (status_ite outOfRange_mem ?_)
  split
  · exact status_ite notReady_mem done_mem
  · exact notReady_mem

theorem askJoin_status (s : State) : s.askJoin.1 ∈ operationStatuses := status_ite done_mem notReady_mem

theorem askSite_status (s : State) : s.askSite.1 ∈ operationStatuses := status_ite notReady_mem done_mem

theorem askStream_status (s : State) (b : Bytes) : (s.askStream b).1 ∈ operationStatuses :=
  status_ite reserved_mem (status_ite notReady_mem done_mem)

theorem chunkAct_status (s : State) (b : Bytes) : (s.chunkAct b).1 ∈ operationStatuses := status_ite notReady_mem done_mem

theorem activateAct_status (s : State) : s.activateAct.1 ∈ operationStatuses := status_ite notReady_mem done_mem

theorem pairAct_status (s : State) : s.pairAct.1 ∈ operationStatuses := status_ite notReady_mem done_mem

theorem unpairAct_status (s : State) : s.unpairAct.1 ∈ operationStatuses := status_ite notReady_mem done_mem

/-- R302: of the objects that only command, the one with an owner's check is a number. -/
theorem errorInjection_not_octets {o : Obj} (listed : objOf 0x5102_04 = some o) : o.ty ≠ .octets := by
  intro octets
  have row : (objOf 0x5102_04).all (fun o => o.ty != .octets) = true := by decide +kernel
  rw [listed, Option.all_some, octets] at row
  exact absurd row (by decide)

/-- What a row (object, command, operation) of `commandWrites` says of the model. -/
structure CommandRow (e : Nat × (Via → Instr) × (State → Nat → Bytes → Nat × State)) : Prop where
  isDictRow : ∀ v s, exec (e.2.1 v) s = dictRow (fun q => q.writes && (q.key == e.1)) v s
  writes : ∀ (s : State) (v : Nat) (b : Bytes), s.writeAct e.1 v b = e.2.2 s v b
  status : ∀ s v b, (e.2.2 s v b).1 ∈ operationStatuses
  /-- Of these objects only the error injection has an owner's check (R302). -/
  unchecked : e.1 ≠ 0x5102_04 → ∀ (s : State) (v : Nat) (b : Bytes), s.ownerCheck e.1 v b = 0

theorem commandRow_of_mem : ∀ e ∈ commandWrites, CommandRow e := by
  simp only [commandWrites, List.forall_mem_cons]
  refine ⟨⟨?_, ?_, fun _ _ _ => done_mem, ?_⟩, ⟨?_, ?_, fun s _ b => importAsk_status s b, ?_⟩,
    ⟨?_, ?_, fun s _ _ => askJoin_status s, ?_⟩, ⟨?_, ?_, fun _ _ _ => done_mem, ?_⟩, ⟨?_, ?_, fun _ _ _ => done_mem, ?_⟩,
    ⟨?_, ?_, fun _ _ _ => done_mem, ?_⟩, ⟨?_, ?_, fun s _ _ => askSite_status s, ?_⟩, ⟨?_, ?_, fun _ _ _ => done_mem, ?_⟩,
    ⟨?_, ?_, fun _ _ _ => done_mem, fun other => absurd rfl other⟩, ⟨?_, ?_, fun _ _ _ => done_mem, ?_⟩,
    ⟨?_, ?_, fun _ _ _ => done_mem, ?_⟩, ⟨?_, ?_, fun s _ b => askStream_status s b, ?_⟩,
    ⟨?_, ?_, fun s _ b => chunkAct_status s b, ?_⟩, ⟨?_, ?_, fun _ _ _ => done_mem, ?_⟩,
    ⟨?_, ?_, fun s _ _ => activateAct_status s, ?_⟩, ⟨?_, ?_, fun s _ _ => pairAct_status s, ?_⟩,
    ⟨?_, ?_, fun s _ _ => unpairAct_status s, ?_⟩, List.forall_mem_nil _⟩
  all_goals (intros; rfl)

namespace CommandRow

variable {e : Nat × (Via → Instr) × (State → Nat → Bytes → Nat × State)} {s t : State} {o : Obj} {b : Bytes}

/-- A value of the object that nothing refuses is committed by running the operation. -/
theorem commit_eq (row : CommandRow e) {v : Nat} (listed : objOf e.1 = some o) (value : v = if o.ty = .octets ∨ o.ty = .str then 0 else beNat b)
    (owner : s.ownerCheck e.1 v b = 0) (range : rangeStatus o v = 0) : s.commit e.1 b = e.2.2 s v b :=
  (commit_of_accepted listed value owner range).trans (row.writes s v b)

/-- Bytes have neither an owner's check nor a range here: every commit of an OCTETS object runs the operation. -/
theorem commit_octets (row : CommandRow e) (listed : objOf e.1 = some o) (octets : o.ty = .octets) : s.commit e.1 b = e.2.2 s 0 b := by
  have other : e.1 ≠ 0x5102_04 := fun same => errorInjection_not_octets (same ▸ listed) octets
  refine row.commit_eq listed ?_ (row.unchecked other s 0 b) ?_
  · rw [if_pos (.inl octets)]
  · rw [rangeStatus, octets]

/-- A request that runs an operation ends the command with the response that carries the operation's status. -/
theorem ends (row : CommandRow e) {priv : Bool} {ws : List Nat} {q : DReq} {n : Nat} (asks : CAsks s ws q) (key : q.key = e.1)
    (writing : q.writes = true) (status : n ∈ operationStatuses)
    (operates : (s.asked priv).operate (s.asked priv).cRole q = (⟨n, []⟩, t)) : Ends (e.2.1 (.cport priv ws)) s (t.replied q ⟨n, []⟩) := by
  have allowed : n ≠ 4 := fun refused => absurd (refused ▸ status) (by decide)
  have kind : (q.writes && (q.key == e.1)) = true := by rw [writing, key, beq_self_eq_true, Bool.and_self]
  unfold Ends
  rw [row.isDictRow, dictRow_cport asks kind, cPort_of_operate operates allowed]

end CommandRow

theorem writes_of_write {q : DReq} (op : q.op = 2) : q.writes = true := congrArg (fun n => n == 2 || n == 4) op

theorem writes_of_writeBlock {q : DReq} (op : q.op = 4) : q.writes = true := congrArg (fun n => n == 2 || n == 4) op

/-- Settles O16: a commit of the object runs the operation of its row, and no operation answers with the status 4 that the
port would report. -/
theorem commandWritesTakeEffect : Obligations.CommandWritesTakeEffect := by
  intro e he priv ws q s o asks key listed gate
  have row := commandRow_of_mem e he
  refine ⟨fun v op value owner range => ?_, fun u d op last goesOn octets hu hd => ?_⟩
  · refine row.ends asks key (writes_of_write op) (row.status ..) ?_
    rw [operate_write gate op, key, row.commit_eq listed value owner range]
  · have unstaged : u = (s.asked priv).unstage q.key := by
      rw [hu, ← key]
      rfl
    have staged : d = (s.asked priv).stagedWith q := by
      rw [hd, ← key]
      rfl
    refine row.ends asks key (writes_of_writeBlock op) (row.status ..) (operate_lastSegment gate op last goesOn ?_)
    rw [← unstaged, ← staged, key, row.commit_octets listed octets]

end Sys2Proof.Machine
end

section
/-!
The cells of an outer-product array, row by row: their sums along rows and columns, and the residue checks modulo 3 (R93).
-/

namespace Sys2Proof.Machine

/-! ### Cells, row by row -/

/-- Rows of k values each, one after another, are the values at quotient and remainder. -/
theorem flatten_rows {α : Type} (f : Nat → Nat → α) {k : Nat} (hk : 0 < k) (m : Nat) :
    ((List.range m).map fun i => (List.range k).map (f i)).flatten = (List.range (k * m)).map fun c => f (c / k) (c % k) := by
  induction m with
  | zero => rfl
  | succ m ih =>
    have row : (List.range k).map (f m) = (List.range k).map fun j => f ((k * m + j) / k) ((k * m + j) % k) := by
      refine List.map_congr_left fun j hj => ?_
      have lt := List.mem_range.mp hj
      rw [Nat.mul_add_div hk, Nat.div_eq_of_lt lt, Nat.mul_add_mod, Nat.mod_eq_of_lt lt, Nat.add_zero]
    rw [List.range_succ, List.map_append, List.flatten_append, ih, List.map_singleton, List.flatten_singleton, row, Nat.mul_succ,
      List.range_add, List.map_append, List.map_map]
    rfl

/-- The 1,024 cells of an array, row-major. -/
def rowMajor (f : Nat → Nat → Int) : List Int := ((List.range 32).map fun i => (List.range 32).map (f i)).flatten

theorem rowMajor_eq_map (f : Nat → Nat → Int) : rowMajor f = (List.range 1024).map fun c => f (c / 32) (c % 32) :=
  flatten_rows f (by decide) 32

@[simp] theorem length_rowMajor (f : Nat → Nat → Int) : (rowMajor f).length = 1024 := by
  rw [rowMajor_eq_map, List.length_map, List.length_range]

theorem getElem?_rowMajor (f : Nat → Nat → Int) {i j : Nat} (hi : i < 32) (hj : j < 32) : (rowMajor f)[32 * i + j]? = some (f i j) := by
  rw [rowMajor_eq_map, List.getElem?_map, List.getElem?_range (by omega), Option.map_some, Nat.mul_add_div (by decide),
    Nat.div_eq_of_lt hj, Nat.mul_add_mod, Nat.mod_eq_of_lt hj, Nat.add_zero]

theorem getD_rowMajor (f : Nat → Nat → Int) {i j : Nat} (hi : i < 32) (hj : j < 32) : (rowMajor f).getD (32 * i + j) 0 = f i j := by
  rw [List.getD_eq_getElem?_getD, getElem?_rowMajor f hi hj, Option.getD_some]

/-! ### Sums -/

theorem sumBelow_succ (f : Nat → Int) (n : Nat) : sumBelow f (n + 1) = sumBelow f n + f n := rfl

theorem sumBelow_congr {f g : Nat → Int} {n : Nat} (h : ∀ i < n, f i = g i) : sumBelow f n = sumBelow g n := by
  induction n with
  | zero => rfl
  | succ n ih => rw [sumBelow_succ, sumBelow_succ, ih fun i hi => h i (Nat.lt_succ_of_lt hi), h n (Nat.lt_succ_self n)]

theorem sumBelow_const (c : Int) (n : Nat) : sumBelow (fun _ => c) n = n * c := by
  induction n with
  | zero => rw [Int.natCast_zero, Int.zero_mul]; rfl
  | succ n ih => rw [sumBelow_succ, ih, Int.natCast_succ, Int.add_mul, Int.one_mul]

theorem sumBelow_zero (n : Nat) : sumBelow (fun _ => 0) n = 0 := by
  rw [sumBelow_const, Int.mul_zero]

theorem mul_sumBelow (c : Int) (f : Nat → Int) (n : Nat) : c * sumBelow f n = sumBelow (fun i => c * f i) n := by
  induction n with
  | zero => exact Int.mul_zero c
  | succ n ih => rw [sumBelow_succ, sumBelow_succ, Int.mul_add, ih]

theorem sumBelow_mul (c : Int) (f : Nat → Int) (n : Nat) : sumBelow f n * c = sumBelow (fun i => f i * c) n := by
  rw [Int.mul_comm, mul_sumBelow]
  exact sumBelow_congr fun i _ => Int.mul_comm c (f i)

/-- A double sum in either order. -/
theorem sumBelow_comm (f : Nat → Nat → Int) (m n : Nat) :
    sumBelow (fun i => sumBelow (f i) n) m = sumBelow (fun j => sumBelow (fun i => f i j) m) n := by
  induction m with
  | zero => exact (sumBelow_zero n).symm
  | succ m ih => rw [sumBelow_succ, ih, ← sumBelow_add]; rfl

/-- A sum is known modulo k where its summands are. -/
theorem sumBelow_emod {f g : Nat → Int} {k : Int} {n : Nat} (h : ∀ i < n, f i % k = g i % k) : sumBelow f n % k = sumBelow g n % k := by
  induction n with
  | zero => rfl
  | succ n ih =>
    rw [sumBelow_succ, sumBelow_succ, Int.add_emod, ih fun i hi => h i (Nat.lt_succ_of_lt hi), h n (Nat.lt_succ_self n), ← Int.add_emod]

/-- A sum whose summands are zero but for one. -/
theorem sumBelow_single (c : Int) {i n : Nat} (hi : i < n) : sumBelow (fun k => if k = i then c else 0) n = c := by
  induction n with
  | zero => exact absurd hi (Nat.not_lt_zero i)
  | succ n ih =>
    rw [sumBelow_succ]
    by_cases last : n = i
    · have before : sumBelow (fun k => if k = i then c else 0) n = 0 :=
        (sumBelow_congr fun k hk => if_neg (by omega)).trans (sumBelow_zero n)
      rw [before, if_pos last, Int.zero_add]
    · rw [ih (by omega), if_neg last, Int.add_zero]

theorem sumI_map_range (f : Nat → Int) (n : Nat) : sumI ((List.range n).map f) = sumBelow f n := by
  induction n with
  | zero => rfl
  | succ n ih =>
    rw [sumI] at ih ⊢
    rw [List.range_succ, List.map_append, List.foldl_append, ih, List.map_singleton, List.foldl_cons, List.foldl_nil, sumBelow_succ]

theorem map_getD_range (l : List Int) : (List.range l.length).map (l.getD · 0) = l :=
  List.ext_getElem (by rw [List.length_map, List.length_range]) fun i _ hi => by
    rw [List.getElem_map, List.getElem_range, List.getD_eq_getElem?_getD, List.getElem?_eq_getElem hi, Option.getD_some]

theorem sumI_eq_sumBelow {l : List Int} {n : Nat} (h : l.length = n) : sumI l = sumBelow (l.getD · 0) n := by
  rw [← h, ← sumI_map_range, map_getD_range]

theorem rowSum_rowMajor (f : Nat → Nat → Int) {i : Nat} (hi : i < 32) : rowSum (rowMajor f) i = sumBelow (f i) 32 := by
  have row : ((rowMajor f).drop (32 * i)).take 32 = (List.range 32).map (f i) := by
    refine List.ext_getElem? fun j => ?_
    rw [List.getElem?_take, List.getElem?_drop, List.getElem?_map]
    split
    · next hj => rw [getElem?_rowMajor f hi hj, List.getElem?_range hj, Option.map_some]
    · next hj => rw [List.getElem?_eq_none (by rw [List.length_range]; omega), Option.map_none]
  rw [rowSum, row, sumI_map_range]

theorem colSum_rowMajor (f : Nat → Nat → Int) {j : Nat} (hj : j < 32) : colSum (rowMajor f) j = sumBelow (f · j) 32 := by
  rw [colSum, sumI_map_range]
  exact sumBelow_congr fun i hi => getD_rowMajor f hi hj

/-! ### The residue checks (R93) -/

theorem failed_iff (a b : Int) : (a - b) % 3 ≠ 0 ↔ a % 3 ≠ b % 3 := by omega

theorem filter_failed_eq_nil_iff (p q : Nat → Int) :
    (List.range 32).filter (fun i => (p i - q i) % 3 ≠ 0) = [] ↔ ∀ i < 32, p i % 3 = q i % 3 := by
  simp only [List.filter_eq_nil_iff, List.mem_range, decide_eq_true_eq, failed_iff, ne_eq, Decidable.not_not]

theorem filter_range_beq : ∀ i < 32, (List.range 32).filter (· == i) = [i] := by decide

/-- Where one check of 32 fails, it is the only one found. -/
theorem filter_failed_eq_singleton {p q : Nat → Int} {i : Nat} (hi : i < 32) (h : ∀ k < 32, p k % 3 = q k % 3 ↔ k ≠ i) :
    (List.range 32).filter (fun k => (p k - q k) % 3 ≠ 0) = [i] := by
  have only : ∀ k ∈ List.range 32, decide ((p k - q k) % 3 ≠ 0) = (k == i) := fun k hk => by
    rw [Bool.eq_iff_iff, decide_eq_true_iff, beq_iff_eq, failed_iff, ne_eq, h k (List.mem_range.mp hk), Decidable.not_not]
  rw [List.filter_congr only, filter_range_beq i hi]

theorem faultyCell_eq_none_iff {v r c : List Int} :
    faultyCell v r c = none ↔ (∀ i < 32, rowSum v i % 3 = c.getD i 0 % 3) ∧ ∀ j < 32, colSum v j % 3 = r.getD j 0 % 3 := by
  rw [← filter_failed_eq_nil_iff, ← filter_failed_eq_nil_iff]
  simp only [faultyCell, ite_eq_left_iff, Bool.and_eq_true, List.isEmpty_iff, reduceCtorEq, imp_false, Decidable.not_not]

theorem faultyCell_eq_some {v r c : List Int} {i j : Nat} (hi : i < 32) (hj : j < 32)
    (rows : ∀ k < 32, rowSum v k % 3 = c.getD k 0 % 3 ↔ k ≠ i) (cols : ∀ k < 32, colSum v k % 3 = r.getD k 0 % 3 ↔ k ≠ j) :
    faultyCell v r c = some (32 * i + j) := by
  unfold faultyCell
  rw [filter_failed_eq_singleton hi rows, filter_failed_eq_singleton hj cols]
  rfl

theorem getD_map_range (f : Nat → Int) {n i : Nat} (hi : i < n) : ((List.range n).map f).getD i 0 = f i := by
  rw [List.getD_eq_getElem?_getD, List.getElem?_map, List.getElem?_range hi, Option.map_some, Option.getD_some]

@[simp] theorem upset_nil (a c : Nat) : upset [] a c = 0 := rfl

theorem upset_singleton (a p : Nat) (k : Int) (c : Nat) : upset [(a, p, k)] a c = if c = p then k else 0 := by
  unfold upset
  by_cases here : c = p
  · rw [List.filter_cons_of_pos (by rw [here, beq_self_eq_true, beq_self_eq_true]; rfl), if_pos here]
    exact Int.zero_add k
  · rw [List.filter_cons_of_neg (by rw [beq_self_eq_true, beq_eq_false_iff_ne.mpr (Ne.symm here)]; exact Bool.false_ne_true), if_neg here]
    rfl

theorem getD_upsetResidues (e : List (Nat × Nat × Int)) (a : Nat) (v : List Int) {i : Nat} (hi : i < 32) :
    (upsetResidues e a v).getD i 0 = (v.getD i 0 + upset e a i) % 3 :=
  getD_map_range _ hi

/-- Residues without an upset check as before. -/
theorem faultyCell_upsetResidues_nil (v r c : List Int) (a : Nat) (checked : faultyCell v r c = none) :
    faultyCell v (upsetResidues [] a r) (upsetResidues [] a c) = none := by
  obtain ⟨rows, cols⟩ := faultyCell_eq_none_iff.mp checked
  have same (w : List Int) {i : Nat} (hi : i < 32) : (upsetResidues [] a w).getD i 0 % 3 = w.getD i 0 % 3 := by
    rw [getD_upsetResidues [] a w hi, upset_nil, Int.add_zero, Int.emod_emod]
  exact faultyCell_eq_none_iff.mpr ⟨fun i hi => (rows i hi).trans (same c hi).symm, fun j hj => (cols j hj).trans (same r hj).symm⟩

end Sys2Proof.Machine
end

section
/-!
What the arrays compute: the results and raw sums of a tile (R84), the accumulators of a MAC job (R89), and that both meet
their residue checks but for what upsets add (R93).
-/

namespace Sys2Proof.Machine

/-! ### Tiles (R84) -/

theorem expand_fst (r c t : Int) :
    (expand r c t).1 = if r = -65536 ∨ c = -65536 ∨ t = -65536 ∨ r + c - t < -65535 then -65536 else min 65535 (r + c - t) := by
  unfold expand expandU la17Zero
  by_cases zero : r = -65536 ∨ c = -65536 ∨ t = -65536
  · rw [if_pos zero, if_pos (by omega)]
  · rw [if_neg zero]
    by_cases under : r + c - t < -65535
    · rw [if_pos under, if_pos (by omega)]
    · have latched : ¬ (r = -65536 ∨ c = -65536 ∨ t = -65536 ∨ r + c - t < -65535) := by omega
      rw [if_neg under, if_neg latched]
      by_cases above : r + c - t > 65535
      · rw [if_pos above, Int.min_eq_left (by omega)]
      · rw [if_neg above, Int.min_eq_right (by omega)]

section
variable (x : TileIn) (e : List (Nat × Nat × Int)) (a : Nat)

theorem raw_eq_rowMajor : x.raw e a = rowMajor fun i j => x.r.getD i 0 + x.y.getD j 0 - x.t + upset e a (32 * i + j) := rfl

theorem results_getElem? {i j : Nat} (hi : i < 32) (hj : j < 32) :
    (x.results (x.raw [] a))[32 * i + j]? = some (expand (x.r.getD i 0) (x.y.getD j 0) x.t) := by
  have row : (32 * i + j) / 32 = i := by omega
  have col : (32 * i + j) % 32 = j := by omega
  rw [TileIn.results, List.getElem?_map, List.getElem?_range (by omega), Option.map_some, row, col, raw_eq_rowMajor, getD_rowMajor _ hi hj,
    upset_nil, Int.add_zero, expand]

/-- The sum of 32 raw sums that share the operand v: each takes an operand of w, and what an upset adds. -/
theorem sumBelow_raw {w : List Int} (len : w.length = 32) (v t : Int) (u : Nat → Int) :
    sumBelow (fun k => v + w.getD k 0 - t + u k) 32 = 32 * v + sumI w - 32 * t + sumBelow u 32 := by
  have parts : sumBelow (fun k => v + w.getD k 0 - t + u k) 32 = sumBelow (fun k => (v - t) + w.getD k 0 + u k) 32 :=
    sumBelow_congr fun k _ => by omega
  rw [parts, sumBelow_add, sumBelow_add, sumBelow_const, ← sumI_eq_sumBelow len]
  omega

/-- A row of raw sums misses its check by what upsets add to the row. -/
theorem rowSum_raw (len : x.y.length = 32) {i : Nat} (hi : i < 32) :
    rowSum (x.raw e a) i % 3 = (x.chkCol.getD i 0 + sumBelow (fun j => upset e a (32 * i + j)) 32) % 3 := by
  rw [raw_eq_rowMajor, rowSum_rowMajor _ hi, sumBelow_raw len, TileIn.chkCol, getD_map_range _ hi, Int.emod_add_emod]

/-- A column of raw sums misses its check by what upsets add to the column. -/
theorem colSum_raw (len : x.r.length = 32) {j : Nat} (hj : j < 32) :
    colSum (x.raw e a) j % 3 = (x.chkRow.getD j 0 + sumBelow (fun i => upset e a (32 * i + j)) 32) % 3 := by
  have swapped : sumBelow (fun i => x.r.getD i 0 + x.y.getD j 0 - x.t + upset e a (32 * i + j)) 32 =
      sumBelow (fun i => x.y.getD j 0 + x.r.getD i 0 - x.t + upset e a (32 * i + j)) 32 :=
    sumBelow_congr fun i _ => by rw [Int.add_comm (x.r.getD i 0)]
  rw [raw_eq_rowMajor, colSum_rowMajor _ hj, swapped, sumBelow_raw len, TileIn.chkRow, getD_map_range _ hj, Int.emod_add_emod,
    Int.add_comm (sumI x.r)]

end

theorem upset_cell (a : Nat) (k : Int) {i j m n : Nat} (hj : j < 32) (hn : n < 32) :
    upset [(a, 32 * i + j, k)] a (32 * m + n) = if m = i ∧ n = j then k else 0 := by
  simp only [upset_singleton, show 32 * m + n = 32 * i + j ↔ m = i ∧ n = j by omega]

/-- One upset of a cell adds to the row of that cell alone. -/
theorem sum_upset_row (a : Nat) (k : Int) {i j : Nat} (hj : j < 32) (m : Nat) :
    sumBelow (fun n => upset [(a, 32 * i + j, k)] a (32 * m + n)) 32 = if m = i then k else 0 := by
  rw [sumBelow_congr fun n hn => upset_cell a k hj hn]
  by_cases h : m = i
  · simp only [h, true_and, if_true, sumBelow_single k hj]
  · simp only [h, false_and, if_false, sumBelow_zero]

/-- One upset of a cell adds to the column of that cell alone. -/
theorem sum_upset_col (a : Nat) (k : Int) {i j n : Nat} (hi : i < 32) (hj : j < 32) (hn : n < 32) :
    sumBelow (fun m => upset [(a, 32 * i + j, k)] a (32 * m + n)) 32 = if n = j then k else 0 := by
  rw [sumBelow_congr fun m _ => upset_cell a k hj hn]
  by_cases h : n = j
  · simp only [h, and_true, if_true, sumBelow_single k hi]
  · simp only [h, and_false, if_false, sumBelow_zero]

/-- A residue that gains k, no multiple of 3, at one place alone, differs there and nowhere else. -/
theorem gained_iff {u v k : Int} {m i : Nat} (gain : u % 3 = (v + (if m = i then k else 0)) % 3) (hk : k % 3 ≠ 0) :
    u % 3 = v % 3 ↔ m ≠ i := by
  by_cases here : m = i
  · rw [if_pos here] at gain
    omega
  · rw [if_neg here] at gain
    omega

theorem faultyCell_raw (x : TileIn) (a : Nat) (hr : x.r.length = 32) (hy : x.y.length = 32) :
    faultyCell (x.raw [] a) x.chkRow x.chkCol = none := by
  refine faultyCell_eq_none_iff.mpr ⟨fun i hi => ?_, fun j hj => ?_⟩
  · simpa only [upset_nil, sumBelow_zero, Int.add_zero] using rowSum_raw x [] a hy hi
  · simpa only [upset_nil, sumBelow_zero, Int.add_zero] using colSum_raw x [] a hr hj

theorem faultyCell_raw_upset (x : TileIn) (a : Nat) (hr : x.r.length = 32) (hy : x.y.length = 32) {i j : Nat} {k : Int}
    (hi : i < 32) (hj : j < 32) (hk : k % 3 ≠ 0) :
    faultyCell (x.raw [(a, 32 * i + j, k)] a) x.chkRow x.chkCol = some (32 * i + j) := by
  refine faultyCell_eq_some hi hj (fun m hm => ?_) (fun n hn => ?_)
  · exact gained_iff (sum_upset_row a k hj m ▸ rowSum_raw x _ a hy hm) hk
  · exact gained_iff (sum_upset_col a k hi hj hn ▸ colSum_raw x _ a hr hn) hk

theorem faultyCell_upset_residue (x : TileIn) (a : Nat) (hr : x.r.length = 32) {j : Nat} {k : Int} (hj : j < 32) (hk : k % 3 ≠ 0) :
    faultyCell (x.raw [] a) (upsetResidues [(a, j, k)] a x.chkRow) x.chkCol ≠ none := by
  intro passes
  have check := (faultyCell_eq_none_iff.mp passes).2 j hj
  rw [colSum_raw x [] a hr hj, getD_upsetResidues _ _ _ hj, upset_singleton, if_pos rfl] at check
  simp only [upset_nil, sumBelow_zero] at check
  omega

/-! ### MAC jobs (R89, R93) -/

@[simp] theorem length_vec16 (v : List Int) : (vec16 v).length = 32 := by
  rw [vec16, List.length_map, List.length_range]

/-- A factor reduced modulo k gives the same product modulo k. -/
theorem mul_emod_factor (a b k : Int) : a * (b % k) % k = a * b % k := by
  rw [Int.mul_emod, Int.emod_emod, ← Int.mul_emod]

section
variable (L : Nat) (x y : List (List Int))

theorem macAcc_eq_rowMajor :
    macAcc L x y = rowMajor fun i j => sumI ((List.range L).map fun n => (vec16 (x.getD n [])).getD i 0 * (vec16 (y.getD n [])).getD j 0) := rfl

/-- A row of accumulators sums to the products of the row's operand and the sum of each y vector. -/
theorem rowSum_macAcc {i : Nat} (hi : i < 32) :
    rowSum (macAcc L x y) i = sumBelow (fun n => (vec16 (x.getD n [])).getD i 0 * sumI (vec16 (y.getD n []))) L := by
  simp only [macAcc_eq_rowMajor, rowSum_rowMajor _ hi, sumI_map_range, sumI_eq_sumBelow (length_vec16 _), mul_sumBelow]
  exact sumBelow_comm _ 32 L

/-- A column of accumulators sums to the products of the sum of each x vector and the column's operand. -/
theorem colSum_macAcc {j : Nat} (hj : j < 32) :
    colSum (macAcc L x y) j = sumBelow (fun n => sumI (vec16 (x.getD n [])) * (vec16 (y.getD n [])).getD j 0) L := by
  simp only [macAcc_eq_rowMajor, colSum_rowMajor _ hj, sumI_map_range, sumI_eq_sumBelow (length_vec16 _), sumBelow_mul]
  exact sumBelow_comm _ 32 L

theorem macAcc_row {i : Nat} (hi : i < 32) : rowSum (macAcc L x y) i % 3 = (macChkCol L x y).getD i 0 % 3 := by
  rw [rowSum_macAcc L x y hi, macChkCol, getD_map_range _ hi, sumI_map_range, Int.emod_emod]
  exact sumBelow_emod fun n _ => by rw [Int.emod_emod, mul_emod_factor]

theorem macAcc_col {j : Nat} (hj : j < 32) : colSum (macAcc L x y) j % 3 = (macChkRow L x y).getD j 0 % 3 := by
  rw [colSum_macAcc L x y hj, macChkRow, getD_map_range _ hj, sumI_map_range, Int.emod_emod]
  exact sumBelow_emod fun n _ => by rw [Int.emod_emod, Int.mul_comm (_ % 3), mul_emod_factor, Int.mul_comm]

theorem faultyCell_macAcc : faultyCell (macAcc L x y) (macChkRow L x y) (macChkCol L x y) = none :=
  faultyCell_eq_none_iff.mpr ⟨fun _ => macAcc_row L x y, fun _ => macAcc_col L x y⟩

/-- The sums that a readout without an upset takes are the accumulators. -/
theorem macAcc_read (a : Nat) : (List.range 1024).map (fun c => (macAcc L x y).getD c 0 + upset [] a c) = macAcc L x y := by
  have len : (macAcc L x y).length = 1024 := length_rowMajor _
  simpa only [upset_nil, Int.add_zero, len] using map_getD_range (macAcc L x y)

end

theorem macReadArray_of_no_upset (s : State) (n : Nat) (j : MacJob) (e2 : Upsets) (a : Nat) :
    s.macReadArray n j {} e2 a = s.sramWrite 2 n (readOff a) (wordsBytes 8 ((macAcc (macLen j.word) (j.x a) j.y).map (pat 64))) := by
  unfold State.macReadArray
  extract_lets L put sums r c
  have read : sums [] = macAcc L (j.x a) j.y := macAcc_read L (j.x a) j.y a
  have passes : faultyCell (sums []) (upsetResidues [] a r) (upsetResidues [] a c) = none :=
    read ▸ faultyCell_upsetResidues_nil _ _ _ a (faultyCell_macAcc L (j.x a) j.y)
  dsimp only
  rw [passes, read]

end Sys2Proof.Machine
end

section
/-!
The commands of the arrays: what they change of one slice, and what they leave (R83, R87, R89 to R92).
-/

namespace Sys2Proof.Machine

/-! ### An event leaves the arrays (R366) -/

@[simp] theorem State.windowSlot_arrays (s : State) (seq : Nat) (b : Bytes) : (s.windowSlot seq b).arrays = s.arrays := by
  simp only [State.windowSlot, apply_ite State.arrays, State.wrO_arrays, ite_self]

@[simp] theorem State.logBlock_arrays (s : State) (b : Nat) : (s.logBlock b).arrays = s.arrays := rfl

@[simp] theorem State.sendTwin_arrays (s : State) (kind flags : Nat) (body : Bytes) : (s.sendTwin kind flags body).arrays = s.arrays :=
  State.send_arrays ..

theorem State.evFrom_arrays (s : State) (source code : Nat) (payload : Bytes) : (s.evFrom source code payload).arrays = s.arrays := by
  simp only [State.evFrom, apply_ite State.arrays, State.sendTwin_arrays, State.logBlock_arrays,
    State.inc_arrays, State.windowSlot_arrays, State.wrO_arrays, State.wr_arrays, State.keepRec_arrays, ite_self]

theorem macRefuse_slices (s : State) (n w : Nat) : (s.macRefuse n w).arrays.slices = s.arrays.slices := by
  rw [State.macRefuse, State.modArrays_arrays, State.evSlice, State.evFrom_arrays]

/-! ### The arrays of one slice -/

theorem arr_slice (s : State) (n : Nat) : (s.arr n).slice = n := by
  unfold State.arr
  cases found : s.arrays.slices.find? (·.slice == n) with
  | none => rfl
  | some x => exact beq_iff_eq.mp (List.find?_some (p := fun x : ArraySlice => x.slice == n) found)

/-- The arrays of slice n stand once, and last, after a change of them; every other slice's stand as before. -/
theorem find?_replaced {xs : List ArraySlice} {a : ArraySlice} {n : Nat} (slot : a.slice = n) (m : Nat) :
    (xs.filter (·.slice ≠ n) ++ [a]).find? (·.slice == m) = if m = n then some a else xs.find? (·.slice == m) := by
  rw [List.find?_append, List.find?_singleton, slot]
  by_cases same : m = n
  · subst same
    have gone : (xs.filter (·.slice ≠ m)).find? (·.slice == m) = none := by
      refine List.find?_eq_none.mpr fun x hx here => ?_
      exact of_decide_eq_true (List.mem_filter.mp hx).2 (beq_iff_eq.mp here)
    simp only [gone, beq_self_eq_true, if_true, Option.none_or]
  · have others (x : ArraySlice) : decide (decide (x.slice ≠ n) = true ∧ (x.slice == m) = true) = (x.slice == m) := by
      rw [Bool.eq_iff_iff, decide_eq_true_iff, decide_eq_true_iff]
      exact and_iff_right_of_imp fun here => beq_iff_eq.mp here ▸ same
    have kept : (xs.filter (·.slice ≠ n)).find? (·.slice == m) = xs.find? (·.slice == m) := by
      rw [List.find?_filter, funext others]
    simp only [kept, same, beq_eq_false_iff_ne.mpr (Ne.symm same), Bool.false_eq_true, if_false, Option.or_none]

theorem arr_modArr (s : State) (n : Nat) {f : ArraySlice → ArraySlice} (keeps : ∀ x, (f x).slice = x.slice) (m : Nat) :
    (s.modArr n f).arr m = if m = n then f (s.arr n) else s.arr m := by
  have slot : (f (s.arr n)).slice = n := (keeps _).trans (arr_slice s n)
  rw [State.arr, State.modArr, State.modArrays_arrays, find?_replaced slot]
  split <;> rfl

namespace ArraySlice

variable (x : ArraySlice) (f : Arr → Arr) {a b : Nat}

@[simp] theorem set_slice (a : Nat) : (x.set a f).slice = x.slice := by
  unfold ArraySlice.set
  split <;> rfl

@[simp] theorem get_set_self (a : Nat) : (x.set a f).get a = f (x.get a) := by
  unfold ArraySlice.get ArraySlice.set
  split <;> rfl

/-- A change of one array of a slice leaves the other one. -/
theorem get_set_other (ha : a ≤ 1) (other : b = 1 - a) : (x.set a f).get b = x.get b := by
  obtain rfl | rfl : a = 0 ∨ a = 1 := by omega
  · subst other; rfl
  · subst other; rfl

end ArraySlice

/-! ### The commands of an active slice (R2) -/

theorem exec_logTile (n : Nat) (bad : Option Nat) (cells row col cells2 row2 col2 : List (Nat × Nat × Int)) (s : State) :
    exec (.logTile n bad cells row col cells2 row2 col2) s = execLogTile n bad cells row col cells2 row2 col2 s := rfl

theorem exec_macJob (n w : Nat) (x0 x1 y : List (List Int)) (s : State) :
    exec (.macJob n w x0 x1 y) s = execMacJob n w x0 x1 y s := rfl

theorem exec_macJobReadout (n : Nat) (more : MacVecs) (up : Upsets × Upsets) (s : State) :
    exec (.macJobReadout n more up) s = execMacJobReadout n more up s := rfl

theorem exec_arrayHoldExpiry (n a : Nat) (s : State) : exec (.arrayHoldExpiry n a) s = execArrayHoldExpiry n a s := rfl

theorem exec_arrayStopRampEnd (n a : Nat) (s : State) : exec (.arrayStopRampEnd n a) s = execArrayStopRampEnd n a s := rfl

section
variable {s : State} {n : Nat} (built : n < s.hw.slices)
include built

theorem sliceServing_inactive (inactive : s.active n = false) (k : State → State) : sliceServing n s k = .next s := by
  simp only [sliceServing, onActive, onSlice, built, inactive, if_true, Bool.false_eq_true, if_false]

theorem sliceServing_active (active : s.active n = true) (serves : s.serving = true) (k : State → State) :
    sliceServing n s k = .next (k s).settle := by
  simp only [sliceServing, onActive, onSlice, built, active, serves, if_true]

/-- The commands of the arrays do nothing at a slice that is not active. -/
theorem arrayCommands_inactive (inactive : s.active n = false) (a w : Nat) (bad : Option Nat) (e1 e2 : Upsets) (v : MacVecs) :
    ∀ c ∈ [Instr.logTile n bad e1.cells e1.row e1.col e2.cells e2.row e2.col, .macJob n w v.x0 v.x1 v.y,
      .macJobReadout n v (e1, e2), .arrayHoldExpiry n a, .arrayStopRampEnd n a], exec c s = .next s := by
  simp only [List.forall_mem_cons, List.not_mem_nil, false_implies, implies_true, and_true]
  refine ⟨?logTile, ?macJob, ?macJobReadout, ?arrayHoldExpiry, ?arrayStopRampEnd⟩
  case logTile => rw [exec_logTile, execLogTile, sliceServing_inactive built inactive]
  case macJob => rw [exec_macJob, execMacJob, sliceServing_inactive built inactive]
  case macJobReadout => rw [exec_macJobReadout, execMacJobReadout, sliceServing_inactive built inactive]
  case arrayHoldExpiry => rw [exec_arrayHoldExpiry, execArrayHoldExpiry, sliceServing_inactive built inactive]
  case arrayStopRampEnd => rw [exec_arrayStopRampEnd, execArrayStopRampEnd, sliceServing_inactive built inactive]

variable (active : s.active n = true) (serves : s.serving = true)
include active serves

theorem ends_of_sliceServing {c : Instr} {k : State → State} (means : exec c s = sliceServing n s k) : Ends c s (k s) :=
  means.trans (sliceServing_active built active serves k)

/-! ### Tiles and MAC jobs (R87, R90, R91) -/

theorem logTile_ends (bad : Option Nat) (e1 e2 : Upsets) :
    let c := Instr.logTile n bad e1.cells e1.row e1.col e2.cells e2.row e2.col
    (s.pass.mould = none → Ends c s s) ∧
      ∀ m, s.pass.mould = some m → (s.tileSet m n = [] → Ends c s s) ∧ (s.tileSet m n ≠ [] → Ends c s (s.logTile m n bad e1 e2)) := by
  intro c
  have ends := ends_of_sliceServing built active serves (exec_logTile n bad e1.cells e1.row e1.col e2.cells e2.row e2.col s)
  refine ⟨fun unloaded => ?_, fun m loaded => ⟨fun unneeded => ?_, fun _ => ?_⟩⟩
  · rwa [unloaded] at ends
  · simpa only [loaded, State.logTile, unneeded] using ends
  · rwa [loaded] at ends

theorem macJob_ends (w : Nat) (x0 x1 y : List (List Int)) :
    (macRefused w = true → Ends (.macJob n w x0 x1 y) s (s.macRefuse n w)) ∧
      (macRefused w = false → Ends (.macJob n w x0 x1 y) s
        (((s.wrO 0x2201_01 0 (le 16 w)).modArr n fun a => { a with jobs := a.jobs ++ [⟨w, x0, x1, y⟩] }).macGo n)) := by
  have ends := ends_of_sliceServing built active serves (exec_macJob n w x0 x1 y s)
  refine ⟨fun refused => ?_, fun accepted => ?_⟩
  · rwa [if_pos refused] at ends
  · rwa [if_neg (by rw [accepted]; exact Bool.false_ne_true)] at ends

/-- The readout of the oldest job waits where it is paused, a tile is needed or an update is missing, and else takes place. -/
theorem macJobReadout_ends (v : MacVecs) (e1 e2 : Upsets) :
    ((s.arr n).jobs = [] → Ends (.macJobReadout n v (e1, e2)) s s) ∧
      ∀ j rest, (s.arr n).jobs = j :: rest →
        let k := j.more v
        let u := (s.modArr n fun a => { a with jobs := k :: rest }).macGo n
        ((u.arr n).paused = true ∨ u.tileNeeded n = true ∨ (u.arr n).upd < macLen k.word → Ends (.macJobReadout n v (e1, e2)) s u) ∧
          ((u.arr n).paused = false → u.tileNeeded n = false → macLen k.word ≤ (u.arr n).upd →
            Ends (.macJobReadout n v (e1, e2)) s ((u.macReadout n k e1 e2).macGo n)) := by
  have ends := ends_of_sliceServing built active serves (exec_macJobReadout n v (e1, e2) s)
  refine ⟨fun idle => ?_, fun j rest oldest => ?_⟩
  · rwa [idle] at ends
  · intro k u
    simp only [oldest] at ends
    refine ⟨fun waits => ?_, fun going untiled complete => ?_⟩
    · rwa [if_pos waits] at ends
    · have ready : ¬ ((u.arr n).paused = true ∨ u.tileNeeded n = true ∨ (u.arr n).upd < macLen k.word) := by
        simp only [going, untiled, Bool.false_eq_true, false_or, Nat.not_lt, complete]
      rwa [if_neg ready] at ends

/-! ### The activity ramp (R92) -/

/-- A command that changes one array by g where its ramp stands at p leaves the other one, every other slice's arrays and
memory, and leaves an array that stands elsewhere. -/
theorem rampChange_ends {c : Instr} {a b : Nat} (ha : a ≤ 1) (other : b = 1 - a) {p : Ramp} {g : Arr → Arr}
    (means : exec c s = sliceServing n s fun s => s.modArr n fun x => x.set a fun y => if y.ramp = p then g y else y) :
    ∃ t, Ends c s t ∧ (∀ m, m ≠ n → t.arr m = s.arr m) ∧ (t.arr n).get b = (s.arr n).get b ∧ t.mem = s.mem ∧
      (((s.arr n).get a).ramp = p → (t.arr n).get a = g ((s.arr n).get a)) ∧
      (((s.arr n).get a).ramp ≠ p → (t.arr n).get a = (s.arr n).get a) := by
  have arrays := arr_modArr s n (f := (·.set a fun y => if y.ramp = p then g y else y)) (·.set_slice _ a)
  refine ⟨_, ends_of_sliceServing built active serves means, fun m hm => ?_, ?_, rfl, fun at_ => ?_, fun at_ => ?_⟩
  · rw [arrays, if_neg hm]
  · rw [arrays, if_pos rfl, ArraySlice.get_set_other _ _ ha other]
  · rw [arrays, if_pos rfl, ArraySlice.get_set_self, if_pos at_]
  · rw [arrays, if_pos rfl, ArraySlice.get_set_self, if_neg at_]

theorem arrayHoldExpiry_ends {a b : Nat} (ha : a ≤ 1) (other : b = 1 - a) :
    ∃ t, Ends (.arrayHoldExpiry n a) s t ∧ (∀ m, m ≠ n → t.arr m = s.arr m) ∧ (t.arr n).get b = (s.arr n).get b ∧ t.mem = s.mem ∧
      (((s.arr n).get a).ramp = .hold → ((t.arr n).get a).ramp = .stopping ∧ ((t.arr n).get a).cols = 31) ∧
      (((s.arr n).get a).ramp ≠ .hold → (t.arr n).get a = (s.arr n).get a) := by
  obtain ⟨t, ends, slices, array, mem, holds, stands⟩ := rampChange_ends built active serves ha other (exec_arrayHoldExpiry n a s)
  exact ⟨t, ends, slices, array, mem, fun at_ => holds at_ ▸ ⟨rfl, rfl⟩, stands⟩

theorem arrayStopRampEnd_ends {a b : Nat} (ha : a ≤ 1) (other : b = 1 - a) :
    ∃ t, Ends (.arrayStopRampEnd n a) s t ∧ (∀ m, m ≠ n → t.arr m = s.arr m) ∧ (t.arr n).get b = (s.arr n).get b ∧ t.mem = s.mem ∧
      (((s.arr n).get a).ramp = .stopping → ((t.arr n).get a).ramp = .gated ∧ ((t.arr n).get a).cols = 0) ∧
      (((s.arr n).get a).ramp ≠ .stopping → (t.arr n).get a = (s.arr n).get a) := by
  obtain ⟨t, ends, slices, array, mem, stops, stands⟩ := rampChange_ends built active serves ha other (exec_arrayStopRampEnd n a s)
  exact ⟨t, ends, slices, array, mem, fun at_ => stops at_ ▸ ⟨rfl, rfl⟩, stands⟩

end

/-- Settles O52: raw sums and accumulators are cells whose row and column sums are their residues modulo 3 but for what upsets
add, and each command of the arrays is a change of an active slice. -/
theorem arraysComputeTilesAndProducts : Obligations.ArraysComputeTilesAndProducts :=
  ⟨expand_fst, fun x a _ _ => results_getElem? x a,
    fun x a hr hy => ⟨faultyCell_raw x a hr hy, fun _ _ _ hi hj hk =>
      ⟨faultyCell_raw_upset x a hr hy hi hj hk, faultyCell_upset_residue x a hr hj hk⟩⟩,
    fun L _ _ x y hi hj => (macAcc_eq_rowMajor L x y).symm ▸ getElem?_rowMajor _ hi hj, faultyCell_macAcc, macReadArray_of_no_upset,
    macRefuse_slices, fun _ _ a w bad e1 e2 v built inactive => arrayCommands_inactive built inactive a w bad e1 e2 v,
    fun _ _ built active serves => ⟨logTile_ends built active serves, macJob_ends built active serves, macJobReadout_ends built active serves,
      fun _ _ ha other => ⟨arrayHoldExpiry_ends built active serves ha other, arrayStopRampEnd_ends built active serves ha other⟩⟩⟩

end Sys2Proof.Machine
end

section
/-!
Commands that act in the serving states, and frame commands, end with the stalls settled (R333, R351, R385, R422).
-/

namespace Sys2Proof.Machine

theorem ends_of_whenServing {c : Instr} {s : State} {k : State → State} (means : exec c s = whenServing s k) (serves : s.serving = true) :
    Ends c s (k s) := by
  rw [Ends, means, whenServing, if_pos serves]

/-- A frame of a command's own kind is taken after its congestion mark is counted (R385, R422). -/
theorem ends_of_frameRow {c : Instr} {r : Rx} {s : State} {kinds : List Nat} {n : Nat} {k : State → State}
    (means : exec c s = frameRow kinds r s k) (serves : s.serving = true) (kind : frameKind r = n) (own : n ∈ kinds) (assigned : n ∈ assignedKinds) :
    Ends c s (k (s.ce r)) := by
  have taken : (knownKind r && kinds.contains (frameKind r)) = true := by
    simp only [knownKind, kind, List.contains_eq_mem, own, assigned, decide_true, Bool.and_self]
  simpa only [taken, if_true] using ends_of_whenServing means serves

theorem Ends.of_eq {c : Instr} {s t u : State} (ends : Ends c s t) (same : t = u) : Ends c s u := same ▸ ends

end Sys2Proof.Machine
end

section
/-!
Rebuild arithmetic (R98, R99, R101, R167): Gauss-Jordan elimination over the coding field keeps the solution of a system and
finds it where every pivot can be divided by; the pivots of a rebuild are products of powers of 2 and of their differences,
each of which has its inverse.
-/

namespace Sys2Proof.Machine

/-! ### Congruence modulo p -/

/-- Two integers are the same element of the coding field. -/
def Cong (a b : Int) : Prop := ∃ k, a = b + p61 * k

namespace Cong

variable {a b c d : Int}

theorem refl (a : Int) : Cong a a := ⟨0, by rw [Int.mul_zero, Int.add_zero]⟩

theorem of_eq (h : a = b) : Cong a b := h ▸ refl a

theorem symm (h : Cong a b) : Cong b a := by
  obtain ⟨k, rfl⟩ := h
  exact ⟨-k, by grind⟩

theorem trans (h : Cong a b) (g : Cong b c) : Cong a c := by
  obtain ⟨k, rfl⟩ := h
  obtain ⟨l, rfl⟩ := g
  exact ⟨k + l, by grind⟩

theorem add (h : Cong a b) (g : Cong c d) : Cong (a + c) (b + d) := by
  obtain ⟨k, rfl⟩ := h
  obtain ⟨l, rfl⟩ := g
  exact ⟨k + l, by grind⟩

theorem sub (h : Cong a b) (g : Cong c d) : Cong (a - c) (b - d) := by
  obtain ⟨k, rfl⟩ := h
  obtain ⟨l, rfl⟩ := g
  exact ⟨k - l, by grind⟩

theorem mul (h : Cong a b) (g : Cong c d) : Cong (a * c) (b * d) := by
  obtain ⟨k, rfl⟩ := h
  obtain ⟨l, rfl⟩ := g
  exact ⟨b * l + k * d + p61 * k * l, by grind⟩

theorem pow (h : Cong a b) (n : Nat) : Cong (a ^ n) (b ^ n) := by
  induction n with
  | zero => exact of_eq (by rw [Int.pow_zero, Int.pow_zero])
  | succ n ih =>
    rw [Int.pow_succ, Int.pow_succ]
    exact ih.mul h

theorem of_emod (h : a % p61 = b % p61) : Cong a b := ⟨a / p61 - b / p61, by
  have ha := Int.mul_ediv_add_emod a p61
  have hb := Int.mul_ediv_add_emod b p61
  grind⟩

/-- Canonical words that are congruent are equal. -/
theorem eq {y z : Nat} (hy : y < p61) (hz : z < p61) (h : Cong y z) : y = z := by
  obtain ⟨k, equal⟩ := h
  rw [p61_eq] at hy hz equal
  omega

theorem sumBelow {f g : Nat → Int} {n : Nat} (h : ∀ i < n, Cong (f i) (g i)) : Cong (sumBelow f n) (sumBelow g n) := by
  induction n with
  | zero => exact refl 0
  | succ n ih => exact (ih fun i hi => h i (Nat.lt_succ_of_lt hi)).add (h n (Nat.lt_succ_self n))

end Cong

theorem cong_mod (y : Nat) : Cong (y % p61 : Nat) y := .of_emod (by rw [p61_eq]; omega)

theorem cong_addP (y z : Nat) : Cong (addP y z) (y + z) := cong_mod (y + z)

theorem cong_subP (y z : Nat) : Cong (subP y z) (y - z) := .of_emod (by rw [subP, p61_eq]; omega)

theorem cong_mulP {y z : Nat} (hy : y < p61) (hz : z < p61) : Cong (mulP y z) (y * z) := by
  rw [mulP_eq_mod (canonical_iff.mpr hy) (canonical_iff.mpr hz), ← Int.natCast_mul]
  exact cong_mod _

theorem cong_rotmul {y i : Nat} (hy : y < p61) (hi : i ≤ 61) : Cong (rotmul y i) (y * 2 ^ i) := by
  have word : ((y * 2 ^ i : Nat) : Int) = y * 2 ^ i := by rw [Int.natCast_mul, Int.natCast_pow]; rfl
  rw [rotmul_eq_mod hy hi, ← word]
  exact cong_mod _

theorem subP_lt (y z : Nat) : subP y z < p61 := mod_p61_lt _

theorem mulP_lt {y z : Nat} (hy : y < p61) (hz : z < p61) : mulP y z < p61 := by
  rw [mulP_eq_mod (canonical_iff.mpr hy) (canonical_iff.mpr hz)]
  exact mod_p61_lt _

theorem invP_lt (y : Nat) : invP y < p61 := by
  rw [invP, powP_eq]
  exact mod_p61_lt _

/-! ### Elements with an inverse (R167) -/

/-- The inverse of R167 is one: the power p - 1 is 1, as Fermat's little theorem says of every element but 0. -/
def Fermat (a : Int) : Prop := Cong (a ^ (p61 - 1)) 1

namespace Fermat

variable {a b x y : Int}

theorem congr (h : Cong a b) (ha : Fermat a) : Fermat b := (h.pow _).symm.trans ha

theorem mul (ha : Fermat a) (hb : Fermat b) : Fermat (a * b) := by
  unfold Fermat
  rw [Int.mul_pow]
  exact Cong.mul ha hb

theorem pow_mul_self (ha : Fermat a) : Cong (a ^ (p61 - 2) * a) 1 := by
  rw [← Int.pow_succ]
  exact ha

theorem cancel (ha : Fermat a) (h : Cong (a * x) (a * y)) : Cong x y := by
  have left (z : Int) : Cong (a ^ (p61 - 2) * (a * z)) z := by
    rw [← Int.mul_assoc]
    exact (ha.pow_mul_self.mul (.refl z)).trans (.of_eq (Int.one_mul z))
  exact (left x).symm.trans (((Cong.refl _).mul h).trans (left y))

theorem ne_zero {y : Nat} (hy : Fermat y) : y ≠ 0 := by
  rintro rfl
  obtain ⟨k, equal⟩ : Cong 0 1 := by
    have zero : ((0 : Nat) : Int) ^ (p61 - 1) = 0 := Int.zero_pow (by decide)
    exact zero ▸ hy
  rw [p61_eq] at equal
  omega

theorem cong_invP_mul {y : Nat} (hy : Fermat y) : Cong (invP y * y) 1 := by
  have power : Cong (invP y) ((y : Int) ^ (p61 - 2)) := by
    rw [invP, powP_eq, ← Int.natCast_pow]
    exact cong_mod _
  exact (power.mul (.refl _)).trans hy.pow_mul_self

/-- Square and multiply finds an element to have an inverse. -/
theorem of_powP {y : Nat} (h : powP y (p61 - 1) = 1) : Fermat y := by
  unfold Fermat
  rw [powP_eq] at h
  rw [← Int.natCast_pow]
  exact (cong_mod _).symm.trans (.of_eq (by rw [h]; rfl))

theorem two_pow (n : Nat) : Fermat (2 ^ n) := by
  induction n with
  | zero => exact .of_eq (by rw [Int.pow_zero, Int.one_pow])
  | succ n ih =>
    rw [Int.pow_succ]
    exact ih.mul (of_powP (y := 2) (by decide +kernel))

theorem two_pow_sub_one {n : Nat} (positive : 0 < n) (hn : n ≤ 60) : Fermat (2 ^ n - 1) := by
  have checked : (List.range 60).all (fun d => powP (2 ^ (d + 1) - 1) (p61 - 1) == 1) = true := by decide +kernel
  have power := eq_of_beq (List.all_eq_true.mp checked (n - 1) (List.mem_range.mpr (by omega)))
  rw [Nat.sub_add_cancel positive] at power
  have cast : ((2 ^ n - 1 : Nat) : Int) = 2 ^ n - 1 := by rw [Int.natCast_sub Nat.one_le_two_pow, Int.natCast_pow]; rfl
  exact cast ▸ of_powP power

/-- Different powers of 2 below the order of 2 have a difference with an inverse. -/
theorem two_pow_sub {m n : Nat} (apart : m < n) (hn : n ≤ 60) : Fermat (2 ^ n - 2 ^ m) := by
  have factors : (2 : Int) ^ n - 2 ^ m = 2 ^ m * (2 ^ (n - m) - 1) := by
    rw [Int.mul_sub, ← Int.pow_add, Nat.add_sub_cancel' (Nat.le_of_lt apart), Int.mul_one]
  rw [factors]
  exact (two_pow m).mul (two_pow_sub_one (by omega) (by omega))

end Fermat

/-! ### Lists by their places -/

theorem setAt_eq_set {α : Type} (l : List α) (i : Nat) (a : α) : setAt l i a = l.set i a := by
  induction l generalizing i with
  | nil => rfl
  | cons x l ih =>
    cases i with
    | zero => rfl
    | succ i => exact congrArg (x :: ·) (ih i)

theorem getD_of_lt {α : Type} {l : List α} {i : Nat} (hi : i < l.length) (d : α) : l.getD i d = l[i] := by
  rw [List.getD_eq_getElem?_getD, List.getElem?_eq_getElem hi, Option.getD_some]

theorem getD_of_le {α : Type} {l : List α} {i : Nat} (hi : l.length ≤ i) (d : α) : l.getD i d = d := by
  rw [List.getD_eq_getElem?_getD, List.getElem?_eq_none hi, Option.getD_none]

theorem setAt_getD_self {α : Type} {l : List α} {i : Nat} (hi : i < l.length) (d : α) : setAt l i (l.getD i d) = l := by
  rw [setAt_eq_set, getD_of_lt hi, List.set_getElem_self]

theorem getD_range_map {α : Type} (f : Nat → α) {n i : Nat} (hi : i < n) (d : α) : ((List.range n).map f).getD i d = f i := by
  rw [getD_of_lt (by rwa [List.length_map, List.length_range]), List.getElem_map, List.getElem_range]

theorem getD_map_of_lt {α β : Type} (f : α → β) {l : List α} {i : Nat} (hi : i < l.length) (a : α) (b : β) :
    (l.map f).getD i b = f (l.getD i a) := by
  rw [getD_of_lt (by rwa [List.length_map]), List.getElem_map, getD_of_lt hi]

theorem getD_append_of_lt {α : Type} {l m : List α} {i : Nat} (hi : i < l.length) (d : α) : (l ++ m).getD i d = l.getD i d := by
  rw [getD_of_lt (by rw [List.length_append]; omega), List.getElem_append_left hi, getD_of_lt hi]

theorem getD_concat {α : Type} (l : List α) (a d : α) : (l ++ [a]).getD l.length d = a := by
  rw [getD_of_lt (by rw [List.length_append, List.length_singleton]; omega), List.getElem_concat_length rfl]

theorem getD_mem {l : List Nat} {i : Nat} (hi : i < l.length) : l.getD i 0 ∈ l := by
  rw [getD_of_lt hi]
  exact List.getElem_mem hi

/-- A sum over the places of a list is the sum of the list. -/
theorem sumBelow_getD (f : Nat → Int) (l : List Nat) : sumBelow (fun c => f (l.getD c 0)) l.length = sumI (l.map f) := by
  rw [sumI_eq_sumBelow (List.length_map f)]
  exact sumBelow_congr fun c hc => (getD_map_of_lt f hc 0 0).symm

theorem sumI_append (l m : List Int) : sumI (l ++ m) = sumI l + sumI m := by
  induction l with
  | nil => rw [List.nil_append]; exact (Int.zero_add _).symm
  | cons a l ih => rw [List.cons_append, sumI_cons, sumI_cons, ih, Int.add_assoc]

theorem sumI_perm {l m : List Int} (p : l.Perm m) : sumI l = sumI m :=
  p.foldl_eq' (fun x _ y _ z => Int.add_right_comm z x y) 0

/-! ### Systems of linear equations -/

/-- Entry x of row i of a system: a coefficient, or behind the coefficients the right side. -/
def coeff (rows : List (List Nat)) (i x : Nat) : Nat := (rows.getD i []).getD x 0

/-- A system of n equations in n unknowns: canonical coefficients and, behind them, a canonical right side. -/
structure System (n : Nat) (rows : List (List Nat)) : Prop where
  height : rows.length = n
  width : ∀ i < n, (rows.getD i []).length = n + 1
  small : ∀ i < n, ∀ x, coeff rows i x < p61

/-- The values y satisfy every equation. -/
def Solves (n : Nat) (rows : List (List Nat)) (y : Nat → Int) : Prop :=
  ∀ i < n, Cong (sumBelow (fun x => coeff rows i x * y x) n) (coeff rows i n)

/-- Row c multiplied by the inverse of its entry c. -/
def unitRow (rows : List (List Nat)) (c : Nat) : List Nat := (rows.getD c []).map (mulP (invP (coeff rows c c)))

/-- Row c normalised, and column c cleared from every other row. -/
def clearColumn (rows : List (List Nat)) (c : Nat) : List (List Nat) :=
  (List.range rows.length).map fun i =>
    if i = c then unitRow rows c
    else (List.range (rows.getD i []).length).map fun x => subP (coeff rows i x) (mulP (coeff rows i c) ((unitRow rows c).getD x 0))

section
variable {n c : Nat} {rows : List (List Nat)}

/-- Where row c has a non-zero entry c, the pivot of column c stays in its place. -/
theorem pivot_eq (hc : c < rows.length) (lead : coeff rows c c ≠ 0) : pivot rows c = clearColumn rows c := by
  have found : (List.range rows.length).find? (fun r => c ≤ r ∧ coeff rows r c ≠ 0) = some c :=
    List.find?_range_eq_some.mpr ⟨decide_eq_true ⟨Nat.le_refl c, lead⟩, List.mem_range.mpr hc,
      fun r hr => by rw [decide_eq_false fun up => absurd up.1 (Nat.not_le_of_lt hr)]; rfl⟩
  unfold coeff at found
  simp only [pivot, found, setAt_getD_self hc]
  rfl

variable (sys : System n rows) (hc : c < n)
include sys hc

theorem unitRow_getD {x : Nat} (hx : x ≤ n) : (unitRow rows c).getD x 0 = mulP (invP (coeff rows c c)) (coeff rows c x) :=
  getD_map_of_lt _ (by rw [sys.width c hc]; exact Nat.lt_succ_of_le hx) 0 0

theorem unitRow_lt (x : Nat) : (unitRow rows c).getD x 0 < p61 := by
  by_cases hx : x ≤ n
  · rw [unitRow_getD sys hc hx]
    exact mulP_lt (invP_lt _) (sys.small c hc x)
  · rw [getD_of_le (by rw [unitRow, List.length_map, sys.width c hc]; omega)]
    decide

omit hc in
theorem getD_clearColumn {i : Nat} (hi : i < n) :
    (clearColumn rows c).getD i [] = if i = c then unitRow rows c
      else (List.range (n + 1)).map fun x => subP (coeff rows i x) (mulP (coeff rows i c) ((unitRow rows c).getD x 0)) := by
  rw [clearColumn, getD_range_map _ (sys.height ▸ hi), sys.width i hi]

theorem System.clearColumn : System n (clearColumn rows c) := by
  refine ⟨?_, fun i hi => ?_, fun i hi x => ?_⟩
  · rw [Machine.clearColumn, List.length_map, List.length_range, sys.height]
  · rw [getD_clearColumn sys hi]
    split
    · rw [unitRow, List.length_map, sys.width c hc]
    · rw [List.length_map, List.length_range]
  · rw [coeff, getD_clearColumn sys hi]
    split
    · exact unitRow_lt sys hc x
    · by_cases hx : x < n + 1
      · rw [getD_range_map _ hx]
        exact subP_lt _ _
      · rw [getD_of_le (by rw [List.length_map, List.length_range]; omega)]
        decide

theorem cong_unitRow {x : Nat} (hx : x ≤ n) : Cong ((unitRow rows c).getD x 0) (invP (coeff rows c c) * coeff rows c x) := by
  rw [unitRow_getD sys hc hx]
  exact cong_mulP (invP_lt _) (sys.small c hc x)

theorem cong_clearColumn_self {x : Nat} (hx : x ≤ n) :
    Cong (coeff (clearColumn rows c) c x) (invP (coeff rows c c) * coeff rows c x) := by
  rw [coeff, getD_clearColumn sys hc, if_pos rfl]
  exact cong_unitRow sys hc hx

theorem cong_clearColumn_other {i x : Nat} (hi : i < n) (other : i ≠ c) (hx : x ≤ n) :
    Cong (coeff (clearColumn rows c) i x) (coeff rows i x - coeff rows i c * (invP (coeff rows c c) * coeff rows c x)) := by
  rw [coeff, getD_clearColumn sys hi, if_neg other, getD_range_map _ (Nat.lt_succ_of_le hx)]
  have product := cong_mulP (sys.small i hi c) (unitRow_lt sys hc x)
  exact (cong_subP _ _).trans ((Cong.refl _).sub (product.trans ((Cong.refl _).mul (cong_unitRow sys hc hx))))

/-- Clearing a column by a row keeps a solution. -/
theorem Solves.clearColumn {y : Nat → Int} (solves : Solves n rows y) : Solves n (clearColumn rows c) y := by
  intro i hi
  have own := solves c hc
  by_cases other : i = c
  · rw [other]
    have terms : ∀ x < n, Cong (coeff (Machine.clearColumn rows c) c x * y x) (invP (coeff rows c c) * (coeff rows c x * y x)) := fun x hx =>
      ((cong_clearColumn_self sys hc (Nat.le_of_lt hx)).mul (.refl (y x))).trans (.of_eq (Int.mul_assoc ..))
    have sum := Cong.sumBelow terms
    rw [← mul_sumBelow] at sum
    exact sum.trans (((Cong.refl _).mul own).trans (cong_clearColumn_self sys hc (Nat.le_refl n)).symm)
  · have terms : ∀ x < n, Cong (coeff (Machine.clearColumn rows c) i x * y x)
        (coeff rows i x * y x + -(coeff rows i c * invP (coeff rows c c)) * (coeff rows c x * y x)) := fun x hx =>
      ((cong_clearColumn_other sys hc hi other (Nat.le_of_lt hx)).mul (.refl (y x))).trans (.of_eq (by grind))
    have sum := Cong.sumBelow terms
    rw [sumBelow_add, ← mul_sumBelow] at sum
    refine sum.trans (((solves i hi).add ((Cong.refl _).mul own)).trans (Cong.trans (.of_eq ?_) (cong_clearColumn_other sys hc hi other (Nat.le_refl n)).symm))
    grind

/-- An entry that a pivot leaves in another row, without its division: four congruent values tell it. -/
theorem cong_pivot {i x : Nat} (hi : i < n) (other : i ≠ c) (hx : x ≤ n) {lead entry left right result : Int}
    (divides : Fermat lead) (hl : Cong (coeff rows c c) lead) (he : Cong (coeff rows i x) entry) (hf : Cong (coeff rows i c) left)
    (hr : Cong (coeff rows c x) right) (told : lead * result = lead * entry - left * right) :
    Cong (coeff (pivot rows c) i x) result := by
  have divides' : Fermat (coeff rows c c) := divides.congr hl.symm
  rw [pivot_eq (sys.height ▸ hc) divides'.ne_zero]
  refine (cong_clearColumn_other sys hc hi other hx).trans (divides.cancel ?_)
  have inverse : Cong (lead * invP (coeff rows c c)) 1 :=
    ((hl.symm.mul (.refl _)).trans (.of_eq (Int.mul_comm ..))).trans divides'.cong_invP_mul
  have expanded : Cong (lead * (coeff rows i x - coeff rows i c * (invP (coeff rows c c) * coeff rows c x)))
      (lead * entry - left * (1 * right)) := by
    have taken := hf.mul (inverse.mul hr)
    refine Cong.trans (.of_eq ?_) (((Cong.refl lead).mul he).sub taken)
    grind
  rw [told, ← Int.one_mul right]
  exact expanded

end

/-! ### Elimination -/

/-- After c pivots: the first c columns are those of the unit matrix, and x still is a solution. -/
structure Reduced (n c : Nat) (rows : List (List Nat)) (x : Nat → Int) : Prop where
  system : System n rows
  unit : ∀ i < n, ∀ d < c, coeff rows i d = if i = d then 1 else 0
  solves : Solves n rows x

section
variable {n c : Nat} {rows : List (List Nat)} {x : Nat → Int}

/-- Column c cleared by its row c becomes one of the unit matrix. -/
theorem Reduced.clearColumn (red : Reduced n c rows x) (hc : c < n) (divides : Fermat (coeff rows c c)) :
    Reduced n (c + 1) (clearColumn rows c) x := by
  have sys := red.system
  refine ⟨sys.clearColumn hc, fun i hi d hd => ?_, red.solves.clearColumn sys hc⟩
  have cong : Cong (coeff (Machine.clearColumn rows c) i d) (if i = d then 1 else 0 : Nat) := by
    by_cases own : i = c
    · subst own
      refine (cong_clearColumn_self sys hi (by omega)).trans ?_
      by_cases last : d = i
      · rw [last, if_pos rfl]
        exact divides.cong_invP_mul
      · rw [red.unit i hi d (by omega), if_neg (Ne.symm last)]
        exact .of_eq (Int.mul_zero _)
    · refine (cong_clearColumn_other sys hc hi own (by omega)).trans ?_
      by_cases last : d = c
      · rw [last, if_neg own]
        exact ((Cong.refl _).sub ((Cong.refl _).mul divides.cong_invP_mul)).trans (.of_eq (by rw [Int.mul_one, Int.sub_self]; rfl))
      · rw [red.unit i hi d (by omega), red.unit c hc d (by omega), if_neg (Ne.symm last)]
        exact .of_eq (by rw [Int.natCast_zero, Int.mul_zero, Int.mul_zero, Int.sub_zero])
  refine Cong.eq ((sys.clearColumn hc).small i hi d) ?_ cong
  split <;> decide

theorem Reduced.pivot (red : Reduced n c rows x) (hc : c < n) (divides : Fermat (coeff rows c c)) : Reduced n (c + 1) (pivot rows c) x := by
  rw [pivot_eq (red.system.height ▸ hc) divides.ne_zero]
  exact red.clearColumn hc divides

theorem Reduced.foldl_pivot (red : Reduced n 0 rows x) (divides : ∀ c < n, Fermat (coeff ((List.range c).foldl Machine.pivot rows) c c))
    {c : Nat} (hc : c ≤ n) : Reduced n c ((List.range c).foldl Machine.pivot rows) x := by
  induction c with
  | zero => exact red
  | succ c ih =>
    rw [List.range_succ, List.foldl_append]
    exact (ih (Nat.le_of_succ_le hc)).pivot hc (divides c hc)

/-- Where all columns are those of the unit matrix, the right side is the solution. -/
theorem Reduced.rightSide (red : Reduced n n rows x) {i : Nat} (hi : i < n) : Cong (coeff rows i n) (x i) := by
  have terms : ∀ d < n, (coeff rows i d * x d : Int) = if d = i then x i else 0 := fun d hd => by
    rw [red.unit i hi d hd]
    by_cases same : i = d
    · rw [if_pos same, if_pos same.symm, same]
      exact Int.one_mul _
    · rw [if_neg same, if_neg (Ne.symm same)]
      exact Int.zero_mul _
  have row := red.solves i hi
  rw [sumBelow_congr terms, sumBelow_single _ hi] at row
  exact row.symm

/-! ### The pivots of a rebuild (R101) -/

/-- Where the columns are powers of different nodes u, each with a weight w, every pivot of at most three columns is a product
of weights and of differences of nodes. -/
theorem powers_pivots (sys : System n rows) (few : n ≤ 3) {u w : Nat → Int} (powers : ∀ i < n, ∀ x < n, Cong (coeff rows i x) (w x * u x ^ i))
    (weights : ∀ x < n, Fermat (w x)) (apart : ∀ x < n, ∀ y < x, Fermat (u x - u y)) :
    ∀ c < n, Fermat (coeff ((List.range c).foldl pivot rows) c c) := by
  have top : ∀ x < n, Cong (coeff rows 0 x) (w x) := fun x hx =>
    (powers 0 (by omega) x hx).trans (.of_eq (by rw [Int.pow_zero, Int.mul_one]))
  have first : ∀ i < n, i ≠ 0 → ∀ x < n, Cong (coeff (pivot rows 0) i x) (w x * (u x ^ i - u 0 ^ i)) := fun i hi low x hx =>
    cong_pivot sys (by omega) hi low (Nat.le_of_lt hx) (weights 0 (by omega)) (top 0 (by omega)) (powers i hi x hx)
      (powers i hi 0 (by omega)) (top x hx) (by grind)
  have lead : ∀ x < n, 1 < n → Cong (coeff (pivot rows 0) 1 x) (w x * (u x - u 0)) := fun x hx two =>
    (first 1 two Nat.one_ne_zero x hx).trans (.of_eq (by rw [Int.pow_succ, Int.pow_zero, Int.one_mul, Int.pow_succ, Int.pow_zero, Int.one_mul]))
  intro c hc
  obtain rfl | rfl | rfl : c = 0 ∨ c = 1 ∨ c = 2 := by omega
  · exact (weights 0 hc).congr (top 0 hc).symm
  · exact ((weights 1 hc).mul (apart 1 hc 0 Nat.zero_lt_one)).congr (lead 1 hc hc).symm
  · have sys' : System n (pivot rows 0) := by
      rw [pivot_eq (sys.height ▸ (by omega)) ((weights 0 (by omega)).congr (top 0 (by omega)).symm).ne_zero]
      exact sys.clearColumn (by omega)
    have second : Cong (coeff (pivot (pivot rows 0) 1) 2 2) (w 2 * (u 2 - u 0) * (u 2 - u 1)) :=
      cong_pivot sys' (by omega) hc (by decide) (Nat.le_of_lt hc) ((weights 1 (by omega)).mul (apart 1 (by omega) 0 Nat.zero_lt_one))
        (lead 1 (by omega) (by omega)) (first 2 hc (by decide) 2 hc) (first 2 hc (by decide) 1 (by omega)) (lead 2 hc (by omega)) (by grind)
    exact (((weights 2 hc).mul (apart 2 hc 0 (by decide))).mul (apart 2 hc 1 (by decide))).congr second.symm

end

/-! ### The system of a rebuild (R167) -/

/-- The equations of a rebuild: a row for each parity used, a column for each lost data index, and the syndromes. -/
def rebuildRows (lost J sig : List Nat) : List (List Nat) :=
  (List.range J.length).map fun r => lost.map (fun a => rotmul 1 (J.getD r 0 * a)) ++ [sig.getD r 0]

/-- Rising parity indices below 3 are in arithmetic progression. -/
theorem parities_progression {J : List Nat} (rising : J.Pairwise (· < ·)) (below : ∀ j ∈ J, j < 3) :
    ∃ b s, 1 ≤ s ∧ s ≤ 2 ∧ ∀ i < J.length, J.getD i 0 = b + s * i := by
  match J with
  | [] => exact ⟨0, 1, Nat.le_refl 1, by decide, fun i hi => absurd hi (Nat.not_lt_zero i)⟩
  | [j] =>
    refine ⟨j, 1, Nat.le_refl 1, by decide, fun i hi => ?_⟩
    obtain rfl : i = 0 := Nat.lt_one_iff.mp hi
    rfl
  | [j, l] =>
    simp only [List.pairwise_cons, List.forall_mem_cons] at rising below
    refine ⟨j, l - j, by omega, by omega, fun i hi => ?_⟩
    obtain rfl | rfl : i = 0 ∨ i = 1 := by simp at hi; omega
    · rfl
    · simp; omega
  | [j, l, m] =>
    simp only [List.pairwise_cons, List.forall_mem_cons] at rising below
    refine ⟨j, 1, Nat.le_refl 1, by decide, fun i hi => ?_⟩
    obtain rfl | rfl | rfl : i = 0 ∨ i = 1 ∨ i = 2 := by simp at hi; omega
    · rfl
    · simp; omega
    · simp; omega
  | j :: l :: m :: o :: rest =>
    simp only [List.pairwise_cons, List.forall_mem_cons] at rising below
    omega

theorem length_le_three {J : List Nat} (rising : J.Pairwise (· < ·)) (below : ∀ j ∈ J, j < 3) : J.length ≤ 3 := by
  match J with
  | [] | [_] | [_, _] | [_, _, _] => exact Nat.le_of_ble_eq_true rfl
  | j :: l :: m :: o :: rest =>
    simp only [List.pairwise_cons, List.forall_mem_cons] at rising below
    omega

section
variable {lost J sig : List Nat}

theorem solveField_eq_coeff (lost J sig : List Nat) : solveField lost J sig = (List.range lost.length).map fun r =>
    coeff ((List.range lost.length).foldl pivot (rebuildRows lost J sig)) r lost.length := rfl

theorem getD_rebuildRows {i : Nat} (hi : i < J.length) :
    (rebuildRows lost J sig).getD i [] = lost.map (fun a => rotmul 1 (J.getD i 0 * a)) ++ [sig.getD i 0] :=
  getD_range_map _ hi []

theorem coeff_rebuildRows {i c : Nat} (hi : i < J.length) (hc : c < lost.length) :
    coeff (rebuildRows lost J sig) i c = rotmul 1 (J.getD i 0 * lost.getD c 0) := by
  rw [coeff, getD_rebuildRows hi, getD_append_of_lt (by rwa [List.length_map]), getD_map_of_lt _ hc 0]

theorem coeff_rebuildRows_right {i : Nat} (hi : i < J.length) : coeff (rebuildRows lost J sig) i lost.length = sig.getD i 0 := by
  have place : lost.length = (lost.map fun a => rotmul 1 (J.getD i 0 * a)).length := (List.length_map _).symm
  rw [coeff, getD_rebuildRows hi, place, getD_concat]

/-- The rotations of a rebuild stay below the order of 2. -/
theorem rotation_le (below : ∀ j ∈ J, j < 3) (within : ∀ a ∈ lost, a < 31) {i c : Nat} (hi : i < J.length) (hc : c < lost.length) :
    J.getD i 0 * lost.getD c 0 ≤ 60 := by
  have hj : J.getD i 0 ≤ 2 := Nat.le_of_lt_succ (below _ (getD_mem hi))
  have ha : lost.getD c 0 ≤ 30 := Nat.le_of_lt_succ (within _ (getD_mem hc))
  exact Nat.mul_le_mul hj ha

theorem cong_coeff_rebuildRows (below : ∀ j ∈ J, j < 3) (within : ∀ a ∈ lost, a < 31) {i c : Nat} (hi : i < J.length)
    (hc : c < lost.length) : Cong (coeff (rebuildRows lost J sig) i c) (2 ^ (J.getD i 0 * lost.getD c 0)) := by
  rw [coeff_rebuildRows hi hc]
  exact (cong_rotmul (by decide) (Nat.le_succ_of_le (rotation_le below within hi hc))).trans (.of_eq (Int.one_mul _))

theorem system_rebuildRows (below : ∀ j ∈ J, j < 3) (within : ∀ a ∈ lost, a < 31) (same : J.length = lost.length)
    (small : ∀ w ∈ sig, w < p61) : System lost.length (rebuildRows lost J sig) := by
  refine ⟨?_, fun i hi => ?_, fun i hi x => ?_⟩
  · rw [rebuildRows, List.length_map, List.length_range, same]
  · rw [getD_rebuildRows (same ▸ hi), List.length_append, List.length_map, List.length_singleton]
  · have hi' : i < J.length := same ▸ hi
    obtain low | last | high := Nat.lt_trichotomy x lost.length
    · rw [coeff_rebuildRows hi' low, rotmul_eq_mod (by decide) (Nat.le_succ_of_le (rotation_le below within hi' low))]
      exact mod_p61_lt _
    · rw [last, coeff_rebuildRows_right hi']
      by_cases present : i < sig.length
      · exact small _ (getD_mem present)
      · rw [getD_of_le (Nat.le_of_not_lt present)]
        decide
    · rw [coeff, getD_rebuildRows hi', getD_of_le (by rw [List.length_append, List.length_map, List.length_singleton]; omega)]
      decide

/-- R101: the powers of 2 that rising parities carry for rising data indices leave no pivot without an inverse. -/
theorem rebuildRows_pivots (apart : lost.Pairwise (· < ·)) (within : ∀ a ∈ lost, a < 31) (rising : J.Pairwise (· < ·))
    (below : ∀ j ∈ J, j < 3) (same : J.length = lost.length) (small : ∀ w ∈ sig, w < p61) :
    ∀ c < lost.length, Fermat (coeff ((List.range c).foldl pivot (rebuildRows lost J sig)) c c) := by
  obtain ⟨b, s, positive, few, progression⟩ := parities_progression rising below
  refine powers_pivots (u := fun c => 2 ^ (s * lost.getD c 0)) (w := fun c => 2 ^ (b * lost.getD c 0)) (system_rebuildRows below within same small)
    (same ▸ length_le_three rising below) (fun i hi c hc => ?_) (fun c _ => .two_pow _) fun c hc d hd => .two_pow_sub ?_ ?_
  · have powers : (2 : Int) ^ (J.getD i 0 * lost.getD c 0) = 2 ^ (b * lost.getD c 0) * (2 ^ (s * lost.getD c 0)) ^ i := by
      rw [progression i (same ▸ hi), ← Int.pow_mul, ← Int.pow_add, Nat.add_mul, Nat.mul_right_comm]
    exact powers ▸ cong_coeff_rebuildRows below within (same ▸ hi) hc
  · have lower := List.pairwise_iff_getElem.mp apart d c (Nat.lt_trans hd hc) hc hd
    rw [getD_of_lt hc, getD_of_lt (Nat.lt_trans hd hc)]
    exact Nat.mul_lt_mul_of_pos_left lower positive
  · exact Nat.mul_le_mul few (Nat.le_of_lt_succ (within _ (getD_mem hc)))

/-- R167: where the syndromes are the sums of the lost images' terms, elimination gives the lost images. -/
theorem solveField_eq (apart : lost.Pairwise (· < ·)) (within : ∀ a ∈ lost, a < 31) (rising : J.Pairwise (· < ·))
    (below : ∀ j ∈ J, j < 3) (same : J.length = lost.length) (small : ∀ w ∈ sig, w < p61) {x : Nat → Nat} (images : ∀ a ∈ lost, x a < p61)
    (syndromes : ∀ i < J.length, Cong (sig.getD i 0) (sumI (lost.map fun a => x a * 2 ^ (J.getD i 0 * a)))) :
    solveField lost J sig = lost.map x := by
  have start : Reduced lost.length 0 (rebuildRows lost J sig) fun c => x (lost.getD c 0) := by
    refine ⟨system_rebuildRows below within same small, fun _ _ d hd => absurd hd (Nat.not_lt_zero d), fun i hi => ?_⟩
    have hi' : i < J.length := same ▸ hi
    rw [coeff_rebuildRows_right hi']
    refine Cong.trans (.trans (.sumBelow fun c hc => ?_) (.of_eq (sumBelow_getD (fun a => x a * 2 ^ (J.getD i 0 * a)) lost))) (syndromes i hi').symm
    exact ((cong_coeff_rebuildRows below within hi' hc).mul (.refl _)).trans (.of_eq (Int.mul_comm ..))
  have done := start.foldl_pivot (rebuildRows_pivots apart within rising below same small) (Nat.le_refl _)
  rw [solveField_eq_coeff]
  refine List.ext_getElem (by rw [List.length_map, List.length_map, List.length_range]) fun i hi _ => ?_
  have hi' : i < lost.length := by rwa [List.length_map, List.length_range] at hi
  have value := done.rightSide hi'
  rw [getD_of_lt hi'] at value
  rw [List.getElem_map, List.getElem_map, List.getElem_range]
  exact Cong.eq (done.system.small i hi' _) (images _ (List.getElem_mem hi')) value

end

/-! ### Parities and syndromes (R98, R99, R167) -/

theorem cong_parityElement {j : Nat} {l : List (Nat × Nat)} (good : ∀ e ∈ l, e.2 < p61 ∧ j * e.1 ≤ 61) :
    Cong (parityElement j l) (sumI (l.map fun e => e.2 * 2 ^ (j * e.1))) := by
  have added : ∀ acc : Nat, Cong (l.foldl (fun acc e => addP acc (rotmul e.2 (j * e.1))) acc : Nat)
      (acc + sumI (l.map fun e => e.2 * 2 ^ (j * e.1))) := by
    induction l with
    | nil => exact fun acc => .of_eq (Int.add_zero _).symm
    | cons e l ih =>
      intro acc
      obtain ⟨⟨he, turn⟩, others⟩ := List.forall_mem_cons.mp good
      have head := (cong_addP acc _).trans ((Cong.refl _).add (cong_rotmul he turn))
      rw [List.map_cons, sumI_cons, ← Int.add_assoc]
      exact (ih others _).trans (head.add (.refl _))
  exact (added 0).trans (.of_eq (Int.zero_add _))

/-- A fold of steps whose results are canonical has a canonical result. -/
theorem foldl_lt_p61 {β : Type} {f : Nat → β → Nat} (reduces : ∀ v b, f v b < p61) {v : Nat} (hv : v < p61) (l : List β) :
    l.foldl f v < p61 := by
  induction l generalizing v with
  | nil => exact hv
  | cons b l ih => exact ih (reduces v b)

theorem parityElement_lt (j : Nat) (l : List (Nat × Nat)) : parityElement j l < p61 :=
  foldl_lt_p61 (fun _ _ => mod_p61_lt _) (by decide) l

/-- A parity less the terms of the images x. -/
def syndrome (x : List (Nat × Nat)) (j v : Nat) : Nat := x.foldl (fun acc e => subP acc (rotmul e.2 (j * e.1))) v

theorem rebuildElement_eq (lost : List Nat) (x felt : List (Nat × Nat)) :
    rebuildElement lost x felt = solveField lost (felt.map (·.1)) (felt.map fun e => syndrome x e.1 e.2) := rfl

theorem cong_syndrome {j : Nat} {l : List (Nat × Nat)} (good : ∀ e ∈ l, e.2 < p61 ∧ j * e.1 ≤ 61) (v : Nat) :
    Cong (syndrome l j v) (v - sumI (l.map fun e => e.2 * 2 ^ (j * e.1))) := by
  induction l generalizing v with
  | nil => exact .of_eq (Int.sub_zero _).symm
  | cons e l ih =>
    obtain ⟨⟨he, turn⟩, others⟩ := List.forall_mem_cons.mp good
    have head := (cong_subP v _).trans ((Cong.refl _).sub (cong_rotmul he turn))
    rw [List.map_cons, sumI_cons, ← Int.sub_sub]
    exact (ih others _).trans (head.sub (.refl _))

theorem syndrome_lt {v : Nat} (hv : v < p61) (l : List (Nat × Nat)) (j : Nat) : syndrome l j v < p61 :=
  foldl_lt_p61 (fun _ _ => subP_lt _ _) hv l

/-- The data indices are the lost ones and those that survive. -/
theorem lost_append_survivors_perm {k : Nat} {lost : List Nat} (apart : lost.Pairwise (· < ·)) (within : ∀ a ∈ lost, a < k) :
    (lost ++ (List.range k).filter (· ∉ lost)).Perm (List.range k) := by
  have among : ((List.range k).filter (· ∈ lost)).Perm lost := by
    refine (List.perm_ext_iff_of_nodup (List.nodup_range.sublist List.filter_sublist) (apart.imp Nat.ne_of_lt)).mpr fun a => ?_
    rw [List.mem_filter, List.mem_range, decide_eq_true_eq]
    exact ⟨And.right, fun ha => ⟨within a ha, ha⟩⟩
  have split := List.filter_append_perm (· ∈ lost) (List.range k)
  simp only [← decide_not] at split
  exact (among.symm.append_right _).trans split

/-- Of a parity of the whole stripe, the surviving images leave the terms of the lost ones. -/
theorem cong_syndrome_parityElement {k j : Nat} {lost : List Nat} {x : Nat → Nat} (hk : k ≤ 31) (images : ∀ i < k, x i < p61)
    (apart : lost.Pairwise (· < ·)) (within : ∀ a ∈ lost, a < k) (hj : j < 3) :
    let full := (List.range k).map fun i => (i, x i)
    Cong (syndrome (full.filter fun e => e.1 ∉ lost) j (parityElement j full)) (sumI (lost.map fun a => x a * 2 ^ (j * a))) := by
  intro full
  have good : ∀ e ∈ full, e.2 < p61 ∧ j * e.1 ≤ 61 := fun e he => by
    obtain ⟨i, hi, rfl⟩ := List.mem_map.mp he
    rw [List.mem_range] at hi
    have turn : j * i ≤ 2 * 30 := Nat.mul_le_mul (by omega) (by omega)
    exact ⟨images i hi, Nat.le_trans turn (by decide)⟩
  have survivors : full.filter (fun e => e.1 ∉ lost) = ((List.range k).filter (· ∉ lost)).map fun i => (i, x i) := List.filter_map
  have total := sumI_perm ((lost_append_survivors_perm apart within).map fun a => (x a * 2 ^ (j * a) : Int))
  rw [List.map_append, sumI_append] at total
  have whole := cong_parityElement good
  have surviving : ∀ e ∈ full.filter (fun e => e.1 ∉ lost), e.2 < p61 ∧ j * e.1 ≤ 61 := fun e he => good e (List.mem_filter.mp he).1
  have left := (cong_syndrome surviving (parityElement j full)).trans (whole.sub (.refl _))
  rw [survivors, List.map_map, List.map_map] at left
  rw [survivors]
  exact left.trans (.of_eq (Int.sub_eq_iff_eq_add.mpr total.symm))

/-- Settles O47: the syndromes are the sums of the lost images' terms, and elimination finds them, since every pivot has its inverse. -/
theorem lostImagesAreRebuiltExactly : Obligations.LostImagesAreRebuiltExactly := by
  intro k lost J x hk canon apart within rising below same full
  have images : ∀ i < k, x i < p61 := fun i hi => canonical_iff.mp (canon i hi)
  have parities : (J.map fun j => (j, parityElement j full)).map (·.1) = J := (List.map_map ..).trans (List.map_id J)
  rw [rebuildElement_eq, parities, List.map_map]
  refine solveField_eq apart (fun a ha => Nat.lt_of_lt_of_le (within a ha) hk) rising below same (fun w hw => ?_) (fun a ha => images a (within a ha)) fun i hi => ?_
  · obtain ⟨j, -, rfl⟩ := List.mem_map.mp hw
    exact syndrome_lt (parityElement_lt _ _) _ _
  · have hj : J.getD i 0 < 3 := below _ (getD_mem hi)
    rw [getD_map_of_lt _ hi 0]
    exact cong_syndrome_parityElement hk images apart within hj

end Sys2Proof.Machine
end

section
/-!
Data frames at a holder (R116, R129 to R131, R133, R169): what a frame that fails a condition does, what a good one does, and
that only terms that go to the felts change host memory.
-/

namespace Sys2Proof.Machine

/-- The command that brings a data frame: of a couch stream, or of a target stream. -/
def dataCommand (tgt : Bool) (r : Rx) : Instr := if tgt then .reStripeData r else .dataFrame r

theorem exec_dataCommand (tgt : Bool) (r : Rx) (s : State) :
    exec (dataCommand tgt r) s = frameRow [if tgt then 0x2C else 0x10] r s fun s => s.takeData tgt r.f := by
  cases tgt <;> rfl

theorem dataCommand_ends {tgt : Bool} {r : Rx} {s : State} (serves : s.serving = true) (kind : frameKind r = if tgt then 0x2C else 0x10) :
    Ends (dataCommand tgt r) s ((s.ce r).takeData tgt r.f) := by
  have assigned : (if tgt then 0x2C else 0x10) ∈ assignedKinds := by cases tgt <;> decide
  have ends := ends_of_frameRow (exec_dataCommand tgt r s) serves kind (List.mem_singleton_self _) assigned
  exact ends

/-! ### A frame that fails a condition (R129) -/

/-- The space of a data frame (Table 6-2). -/
def frameSpace (f : Bytes) : Nat := bits (fld f 1 1) 0 1

/-- What a frame that fails condition n does at a unit that has noted its sender. -/
def State.dropData (s : State) (f : Bytes) (n : Nat) : State :=
  if n = 2 ∧ fld f 4 4 > s.halter then s
  else if n = 10 then s.couchDrop 0x8310_08 0x3104 (fld f 2 2) (be 2 (fld f 2 2) ++ be 2 (fld f 32 2) ++ be 4 (fld f 36 4))
  else
    let t := s.couchDrop 0x8310_07 0x3103 (fld f 2 2) (be 2 (fld f 2 2) ++ be 1 (fld f 0 1) ++ be 1 n)
    if n = 2 then t.staleNotice f else t

section
variable {s : State} {tgt : Bool} {f : Bytes}

theorem takeData_of_error {n : Nat} (judged : (s.hearFrame f).judgeData tgt f = .error n) :
    s.takeData tgt f = (s.hearFrame f).dropData f n := by
  simp only [State.takeData, judged]
  rfl

theorem dropData_plain {n : Nat} (current : n ≠ 2) (checked : n ≠ 10) : s.dropData f n =
    s.couchDrop 0x8310_07 0x3103 (fld f 2 2) (be 2 (fld f 2 2) ++ be 1 (fld f 0 1) ++ be 1 n) := by
  simp only [State.dropData, current, checked, false_and, if_false]

theorem dropData_check : s.dropData f 10 =
    s.couchDrop 0x8310_08 0x3104 (fld f 2 2) (be 2 (fld f 2 2) ++ be 2 (fld f 32 2) ++ be 4 (fld f 36 4)) := rfl

theorem dropData_newer (newer : fld f 4 4 > s.halter) : s.dropData f 2 = s := if_pos ⟨rfl, newer⟩

theorem dropData_older (older : fld f 4 4 ≤ s.halter) : s.dropData f 2 =
    (s.couchDrop 0x8310_07 0x3103 (fld f 2 2) (be 2 (fld f 2 2) ++ be 1 (fld f 0 1) ++ be 1 2)).staleNotice f :=
  if_neg fun both => Nat.not_lt.mpr older both.2

/-! ### A good frame (R116, R130, R131, R133, R169) -/

/-- The vat bank of the window of a data frame's epoch step (R132). -/
def State.dataBank (s : State) (f : Bytes) : Nat := s.bankOf (windowOf s.deckle (fld f 24 8))

/-- The terms of a frame go to the felts: a fill frame of a couch stream, or coding STARTING (R130, R138). -/
abbrev State.intoFelt (s : State) (tgt : Bool) (f : Bytes) : Prop := ¬ tgt ∧ (bit (fld f 1 1) 1 ∨ s.fn .coding = 1)

/-- A frame has to wait for the fold of its bank, or for the repair of a felt line (R133, R169). -/
abbrev State.dataWaits (s : State) (tgt : Bool) (f : Bytes) (ls : List (Nat × List Int)) : Prop :=
  s.couch.folding.any (fun x => s.bankOf x = s.dataBank f) ∨ (¬ tgt ∧ s.stripeErased (fld f 32 2) (frameSpace f) (ls.map (·.1)))

/-- The terms of a frame are added, and it is marked applied and acknowledged (R130). -/
def State.applyData (s : State) (tgt felt : Bool) (f : Bytes) (j : Nat) (ls : List (Nat × List Int)) : State :=
  ((s.addTerms tgt felt (fld f 32 2) (s.dataBank f) (frameSpace f) j (fld f 34 1) ls).markApplied (fld f 2 2) (fld f 32 2) tgt (fld f 36 4)).sendAck
    (fld f 2 2) (fld f 32 2) (fld f 34 1) j tgt

/-- A frame that is covered is counted and acknowledged again (R129). -/
def State.repeatData (s : State) (tgt : Bool) (f : Bytes) (j : Nat) : State :=
  (s.inc 0x8310_11).sendAck (fld f 2 2) (fld f 32 2) (fld f 34 1) j tgt

/-- The terms of a frame that nothing holds up find their place: in sound felt lines, or in the vats where these have room. -/
def State.placeData (s : State) (tgt : Bool) (f : Bytes) (j : Nat) (ls : List (Nat × List Int)) : State :=
  match (if s.intoFelt tgt f then none else s.vatLack tgt (fld f 32 2) (s.dataBank f) (frameSpace f) (ls.map (·.1))),
      (if s.intoFelt tgt f then s.feltFaultIn (fld f 32 2) (frameSpace f) (ls.map (·.1)) else none) with
  | some n, _ => (s.inc 0x8310_0D).evSecond 0x3106 (be 1 n)
  | none, some (n, a, cause) => (s.eraseFelt j (frameSpace f) n a cause).withhold tgt f
  | none, none => s.applyData tgt (s.intoFelt tgt f) f j ls

/-- What a good frame does at a unit that has noted its sender. -/
def State.joinData (s : State) (tgt : Bool) (f : Bytes) (j : Nat) (ls : List (Nat × List Int)) : State :=
  if (s.inStream (fld f 2 2) (fld f 32 2) tgt).covers (fld f 36 4) then s.repeatData tgt f j
  else if s.dataWaits tgt f ls then s.withhold tgt f
  else s.placeData tgt f j ls

theorem takeData_of_ok {j : Nat} {ls : List (Nat × List Int)} (judged : (s.hearFrame f).judgeData tgt f = .ok (j, ls)) :
    s.takeData tgt f = (s.hearFrame f).joinData tgt f j ls := by
  simp only [State.takeData, judged]
  rfl

variable {j : Nat} {ls : List (Nat × List Int)}

theorem joinData_covered (covered : (s.inStream (fld f 2 2) (fld f 32 2) tgt).covers (fld f 36 4) = true) :
    s.joinData tgt f j ls = s.repeatData tgt f j := if_pos covered

theorem joinData_waits (new : (s.inStream (fld f 2 2) (fld f 32 2) tgt).covers (fld f 36 4) = false) (waits : s.dataWaits tgt f ls) :
    s.joinData tgt f j ls = s.withhold tgt f := by
  rw [State.joinData, if_neg (Bool.eq_false_iff.mp new), if_pos waits]

theorem joinData_free (new : (s.inStream (fld f 2 2) (fld f 32 2) tgt).covers (fld f 36 4) = false) (free : ¬ s.dataWaits tgt f ls) :
    s.joinData tgt f j ls = s.placeData tgt f j ls := by
  rw [State.joinData, if_neg (Bool.eq_false_iff.mp new), if_neg free]

theorem placeData_sound (felt : s.intoFelt tgt f) (sound : s.feltFaultIn (fld f 32 2) (frameSpace f) (ls.map (·.1)) = none) :
    s.placeData tgt f j ls = s.applyData tgt true f j ls := by
  rw [State.placeData, if_pos felt, if_pos felt, sound, decide_eq_true felt]

theorem placeData_unsound (felt : s.intoFelt tgt f) {n a cause : Nat}
    (unsound : s.feltFaultIn (fld f 32 2) (frameSpace f) (ls.map (·.1)) = some (n, a, cause)) :
    s.placeData tgt f j ls = (s.eraseFelt j (frameSpace f) n a cause).withhold tgt f := by
  rw [State.placeData, if_pos felt, if_pos felt, unsound]

theorem placeData_room (vats : ¬ s.intoFelt tgt f) (room : s.vatLack tgt (fld f 32 2) (s.dataBank f) (frameSpace f) (ls.map (·.1)) = none) :
    s.placeData tgt f j ls = s.applyData tgt false f j ls := by
  rw [State.placeData, if_neg vats, if_neg vats, room, decide_eq_false vats]

theorem placeData_full (vats : ¬ s.intoFelt tgt f) {n : Nat}
    (full : s.vatLack tgt (fld f 32 2) (s.dataBank f) (frameSpace f) (ls.map (·.1)) = some n) :
    s.placeData tgt f j ls = (s.inc 0x8310_0D).evSecond 0x3106 (be 1 n) := by
  rw [State.placeData, if_neg vats, if_neg vats, full]

/-! ### Host memory -/

@[simp] theorem settle_mem (s : State) : s.settle.mem = s.mem := (Quiet.refl s).settle.mem

@[simp] theorem evFrom_mem (s : State) (source code : Nat) (payload : Bytes) : (s.evFrom source code payload).mem = s.mem :=
  (Quiet.refl s).evFrom.mem

@[simp] theorem evSecond_mem (s : State) (code : Nat) (payload : Bytes) : (s.evSecond code payload).mem = s.mem := by
  unfold State.evSecond State.ev
  dsimp only
  split
  · rfl
  · rw [evFrom_mem]

@[simp] theorem ce_mem (s : State) (r : Rx) : (s.ce r).mem = s.mem := by
  unfold State.ce
  split
  · rw [State.inc_mem]
  · rfl

@[simp] theorem hearFrame_mem (s : State) (f : Bytes) : (s.hearFrame f).mem = s.mem := by
  unfold State.hearFrame
  split <;> rfl

@[simp] theorem couchDrop_mem (s : State) (counter code src : Nat) (payload : Bytes) : (s.couchDrop counter code src payload).mem = s.mem := by
  unfold State.couchDrop State.evHub
  dsimp only
  split
  · rw [State.inc_mem]
  · rw [evFrom_mem, State.modCouch_mem, State.inc_mem]

@[simp] theorem sendMember_mem (s : State) (dst : Nat) (f : Bytes) : (s.sendMember dst f).mem = s.mem := State.send_mem ..

@[simp] theorem sendData_mem (s : State) (tgt : Bool) (dst group role : Nat) (f : Bytes) : (s.sendData tgt dst group role f).mem = s.mem := by
  unfold State.sendData
  split
  · rw [sendMember_mem]
  · exact State.send_mem ..

@[simp] theorem staleNotice_mem (s : State) (f : Bytes) : (s.staleNotice f).mem = s.mem := by
  unfold State.staleNotice State.evHub
  dsimp only
  split
  · rfl
  · rw [evFrom_mem, State.inc_mem, sendMember_mem]

@[simp] theorem withhold_mem (s : State) (tgt : Bool) (f : Bytes) : (s.withhold tgt f).mem = s.mem := by
  unfold State.withhold
  split
  · rfl
  · rw [State.modCouch_mem]

@[simp] theorem vatAdd_mem (s : State) (tgt : Bool) (g b sp n : Nat) (ts : List Nat) : (s.vatAdd tgt g b sp n ts).mem = s.mem := by
  rw [vatAdd_frame]

theorem addTerms_vats_mem (s : State) (tgt : Bool) (g b sp j role : Nat) (ls : List (Nat × List Int)) :
    (s.addTerms tgt false g b sp j role ls).mem = s.mem := by
  simp only [State.addTerms, State.incBy_mem, Bool.false_eq_true, if_false]
  induction ls generalizing s with
  | nil => rfl
  | cons l ls ih => rw [List.foldl_cons, ih, vatAdd_mem]

theorem applyData_vats_mem (s : State) (tgt : Bool) (f : Bytes) (j : Nat) (ls : List (Nat × List Int)) :
    (s.applyData tgt false f j ls).mem = s.mem :=
  (sendData_mem ..).trans ((State.modCouch_mem ..).trans (addTerms_vats_mem ..))

theorem repeatData_mem (s : State) (tgt : Bool) (f : Bytes) (j : Nat) : (s.repeatData tgt f j).mem = s.mem :=
  (sendData_mem ..).trans (State.inc_mem ..)

theorem dropData_mem (s : State) (f : Bytes) (n : Nat) : (s.dropData f n).mem = s.mem := by
  unfold State.dropData
  dsimp only
  split
  · rfl
  · split
    · rw [couchDrop_mem]
    · split
      · rw [staleNotice_mem, couchDrop_mem]
      · rw [couchDrop_mem]

theorem placeData_mem (vats : ¬ s.intoFelt tgt f) : (s.placeData tgt f j ls).mem = s.mem := by
  cases lack : s.vatLack tgt (fld f 32 2) (s.dataBank f) (frameSpace f) (ls.map (·.1)) with
  | none => rw [placeData_room vats lack, applyData_vats_mem]
  | some n => rw [placeData_full vats lack, evSecond_mem, State.inc_mem]

theorem joinData_mem (vats : ¬ s.intoFelt tgt f) : (s.joinData tgt f j ls).mem = s.mem := by
  unfold State.joinData
  split
  · rw [repeatData_mem]
  · split
    · rw [withhold_mem]
    · rw [placeData_mem vats]

/-- A frame that fails a condition, or whose terms go to the vats, leaves host memory. -/
theorem takeData_mem (apart : (∀ j ls, (s.hearFrame f).judgeData tgt f ≠ .ok (j, ls)) ∨ ¬ (s.hearFrame f).intoFelt tgt f) :
    (s.takeData tgt f).mem = s.mem := by
  cases judged : (s.hearFrame f).judgeData tgt f with
  | error n => rw [takeData_of_error judged, dropData_mem, hearFrame_mem]
  | ok good =>
    have vats := apart.resolve_left fun fails => fails _ _ judged
    rw [takeData_of_ok judged, joinData_mem vats, hearFrame_mem]

end

theorem dataCommand_keeps (tgt : Bool) (r : Rx) (s : State) : KR s (exec (dataCommand tgt r) s) := by
  cases tgt <;> exact exec_keeps rfl s

theorem dataWaits_iff {s : State} {tgt : Bool} {f : Bytes} {ls : List (Nat × List Int)} : s.dataWaits tgt f ls ↔
    (∃ x, s.couch.folding = some x ∧ s.bankOf x = s.dataBank f) ∨ (tgt = false ∧ s.stripeErased (fld f 32 2) (frameSpace f) (ls.map (·.1)) = true) := by
  simp only [State.dataWaits, Option.any_eq_true, decide_eq_true_eq, Bool.not_eq_true]

/-- Settles O38, by the outcome of R129 and, for a good frame, by what stands in its way. -/
theorem dataFramesJoinOnceOrAreDropped : Obligations.DataFramesJoinOnceOrAreDropped := by
  intro tgt r s serves kind c f u src g role sp bank intoFelt
  have ends : Ends c s ((s.ce r).takeData tgt f) := dataCommand_ends serves kind
  have drops {n : Nat} (judged : u.judgeData tgt f = .error n) : Ends c s (u.dropData f n) := ends.of_eq (takeData_of_error judged)
  refine ⟨fun n judged current checked => ?_, fun judged => ?_, fun judged newer => ?_, fun judged older => ?_, fun j ls judged => ?_, fun apart => ?_⟩
  · exact (drops judged).of_eq (dropData_plain current checked)
  · exact (drops judged).of_eq dropData_check
  · exact (drops judged).of_eq (dropData_newer newer)
  · exact (drops judged).of_eq (dropData_older older)
  · have joins : Ends c s (u.joinData tgt f j ls) := ends.of_eq (takeData_of_ok judged)
    refine ⟨fun covered => joins.of_eq (joinData_covered covered), fun new =>
      ⟨fun waits => joins.of_eq (joinData_waits new (dataWaits_iff.mpr waits)), fun unfolded sound => ?_⟩⟩
    have free : ¬ u.dataWaits tgt f ls := by
      rw [dataWaits_iff]
      rintro (⟨x, folding, same⟩ | ⟨couch, erased⟩)
      · exact unfolded x folding same
      · obtain target | whole := sound
        · exact absurd target (by rw [couch]; decide)
        · exact Bool.false_ne_true (whole.symm.trans erased)
    have places : Ends c s (u.placeData tgt f j ls) := joins.of_eq (joinData_free new free)
    exact ⟨fun felt sound => places.of_eq (placeData_sound felt sound), fun _ _ _ felt unsound => places.of_eq (placeData_unsound felt unsound),
      fun vats room => places.of_eq (placeData_room vats room), fun _ vats full => places.of_eq (placeData_full vats full)⟩
  · refine ⟨_, ends, ?_, (dataCommand_keeps tgt r s _ ends).flash⟩
    rw [settle_mem, takeData_mem apart, ce_mem]

end Sys2Proof.Machine
end

section
/-!
The fill and the fill of a re-striping (R118, R171, R172): the line that is read, the frame that carries it, and what stands in
the couch record after a frame is emitted.
-/

namespace Sys2Proof.Machine

/-! ### A frame emitted (R127) -/

@[simp] theorem sendData_couch (s : State) (tgt : Bool) (dst group role : Nat) (f : Bytes) : (s.sendData tgt dst group role f).couch = s.couch := by
  unfold State.sendData
  split <;> exact State.send_couch ..

theorem foldl_sendData_couch (s : State) (tgt : Bool) (group role : Nat) (f : Bytes) (hs : List Nat) :
    (hs.foldl (fun s h => s.sendData tgt h group role f) s).couch = s.couch := by
  induction hs generalizing s with
  | nil => rfl
  | cons h hs ih => rw [List.foldl_cons, ih, sendData_couch]

/-- The frame stands last among those that some holder has not acknowledged, and the next sequence of its stream rises. -/
theorem emit_couch (s : State) (tgt : Bool) (group role ep : Nat) (f : Bytes) (fill eoe : Bool) (seq : Nat) :
    (s.emit tgt group role ep f fill eoe seq).couch =
      { s.couch with
        out := s.couch.out ++ [⟨group, role, tgt, seq, ep, f, fill, eoe, List.range (s.holders tgt group).length, []⟩]
        streams := bumpStream group role tgt s.couch.streams } := by
  unfold State.emit
  dsimp only
  rw [foldl_sendData_couch, State.incBy_couch, State.incBy_couch, State.modCouch_couch, State.modCouch_couch]

theorem mem_bumpStream {l : List OutStream} {st : OutStream} (h : st ∈ l) :
    { st with next := (st.next + 1) % 2 ^ 32 } ∈ bumpStream st.group st.role st.tgt l :=
  mem_mapWhere_of_true (f := fun t : OutStream => { t with next := (t.next + 1) % 2 ^ 32 }) h (by simp)

/-! ### FILL_LINE_READ (R118) -/

section
variable {s : State} {l : LineId} {rest : List LineId} {g i n a : Nat} {st : OutStream}

theorem exec_fillLineRead (s : State) : exec .fillLineRead s = execFillLineRead s := rfl

theorem fillLineRead_ends_of_nothingDue (serves : s.serving = true) (none : s.couch.fill = []) : Ends .fillLineRead s s := by
  rw [Ends, exec_fillLineRead, execFillLineRead, whenServing, if_pos serves, none]

/-- With a line due and room in its stream, the line leaves the list: zeros are complete at once, any other value goes as a frame. -/
theorem fillLineRead_ends (serves : s.serving = true) (due : s.couch.fill = l :: rest) (role : s.lineRole l = some (g, i, n))
    (address : s.lineAddr l = some a) (stream : s.couch.streams.find? (fun t => t.group == g && t.role == i && !t.tgt) = some st)
    (starting : s.fn .coding = 1) (room : s.unacked st < 64) :
    let u := s.modCouch fun c => { c with fill := rest }
    Ends .fillLineRead s (if (s.lineVals l.space a).all (· == 0) then ((u.inc 0x8300_04).wr 0x3000_0B (u.rd 0x3000_0B - 1)).fillComplete.judgeReadies
      else (u.emit false g i u.epoch (u.dataFrame false (2 + u.flushFlag) l.space u.epoch g i st.next [(n, s.lineVals l.space a)]) true false st.next).refreshOut) := by
  have goes : ¬ (s.fn .coding ≠ 1 ∨ s.unacked st ≥ 64) := by omega
  rw [Ends, exec_fillLineRead, execFillLineRead, whenServing, if_pos serves]
  simp only [due, role, address, stream, goes, if_false]

/-! ### RE_STRIPE_FILL_READ (R171) -/

theorem exec_reStripeFillRead (s : State) : exec .reStripeFillRead s = execReStripeFillRead s := rfl

theorem reStripeFillRead_ends_of_idle (serves : s.serving = true) (idle : s.member.refill = [] ∨ s.rd 0x3202_02 ≠ 2 ∨ s.member.cut.isSome = true) :
    Ends .reStripeFillRead s s := by
  rw [Ends, exec_reStripeFillRead, execReStripeFillRead, whenServing, if_pos serves]
  cases due : s.member.refill with
  | nil => rfl
  | cons l rest =>
    have stays : s.rd 0x3202_02 ≠ 2 ∨ s.member.cut.isSome = true := idle.resolve_left (by rw [due]; exact List.cons_ne_nil l rest)
    simp only [stays, if_true]

/-- With a line due in a re-striping, no cut being made, its own entry gone and room in its target stream, the line leaves the
list, and after the last line a Ready of phase 4 goes. -/
theorem reStripeFillRead_ends (serves : s.serving = true) (due : s.member.refill = l :: rest) (striping : s.rd 0x3202_02 = 2) (uncut : s.member.cut = none) :
    let u := (s.rush l).pump
    u.targetRole l = some (g, i, n) → u.lineAddr l = some a → u.couch.streams.find? (fun t => t.group == g && t.role == i && t.tgt) = some st →
      u.unacked st < 64 → u.entry l = none →
      let v := (u.modMember fun m => { m with refill := rest, refillWindow := u.window u.epoch }).wr 0x3202_03 rest.length
      let w := if (u.lineVals l.space a).all (· == 0) then v else v.emit true g i v.epoch (v.dataFrame true (2 + v.flushFlag) l.space v.epoch g i st.next [(n, u.lineVals l.space a)]) true false st.next
      Ends .reStripeFillRead s (if rest.isEmpty then (w.sendReady 4 0 w.member.refillWindow 0).judgeReadies else w) := by
  intro u role address stream room packed v w
  have runs : ¬ (s.rd 0x3202_02 ≠ 2 ∨ s.member.cut.isSome = true) := by simp [striping, uncut]
  have goes : ¬ (u.unacked st ≥ 64 ∨ (u.entry l).isSome = true) := by simp [packed, room]
  rw [Ends, exec_reStripeFillRead, execReStripeFillRead, whenServing, if_pos serves]
  simp only [due, runs, if_false]
  simp only [u] at role address stream goes
  simp only [role, address, stream, goes, if_false]
  rfl

end

/-- Settles O42, by whether a line is due, and by what the couch record holds after a frame is emitted. -/
theorem fillsCoverEveryLine : Obligations.FillsCoverEveryLine := by
  refine ⟨fun s l rest g i n a st serves due role address stream starting room => ?_, fun s => fillLineRead_ends_of_nothingDue,
    fun s => reStripeFillRead_ends_of_idle, fun s l rest g i n a st => reStripeFillRead_ends, fun s tgt g role ep seq f fill eoe => ?_⟩
  · have ends := fillLineRead_ends serves due role address stream starting room
    refine ⟨fun zero => ?_, fun value => ?_⟩
    · exact ends.of_eq (if_pos zero)
    · exact ends.of_eq (if_neg (Bool.eq_false_iff.mp value))
  · rw [emit_couch]
    refine ⟨_, rfl, rfl, rfl, rfl, ?_⟩
    rintro st mem ⟨rfl, rfl, rfl⟩
    exact mem_bumpStream mem

end Sys2Proof.Machine
end

section
/-!
Notices, the seal and the fold of a window (R124, R132, R133, R144, R149, R150).
-/

namespace Sys2Proof.Machine

/-! ### The highest values of a member's notices (R132) -/

/-- Replacing every entry that satisfies p by one that does changes what is found to that one. -/
theorem find?_mapWhere_const {α : Type} {p : α → Bool} {a o : α} {l : List α} (ha : p a = true) (found : l.find? p = some o) :
    (mapWhere p (fun _ => a) l).find? p = some a := by
  have same : (p ∘ fun x => if p x then a else x) = p := funext fun x => by
    by_cases hx : p x = true
    · simp only [Function.comp_apply, hx, if_true, ha]
    · simp only [Function.comp_apply, hx, if_false, Bool.false_eq_true]
  rw [mapWhere, List.find?_map, same, found, Option.map_some, if_pos (List.find?_some found)]

theorem find?_noteNotice {l : List Notice} {n o : Notice} (found : l.find? (fun x => x.dev = n.dev) = some o) :
    (noteNotice l n).find? (fun x => x.dev = n.dev) =
      some ⟨n.dev, max o.couched n.couched, max o.bstep n.bstep, max o.bepoch n.bepoch, o.departed || n.departed⟩ := by
  rw [noteNotice, found]
  exact find?_mapWhere_const (decide_eq_true rfl) found

/-! ### EPOCH_DONE_NOTICE (R133, R149, R150) -/

section
variable {s : State} {f : Bytes}

theorem gated_of_pass (pass : (s.gate f).1 = true) (k : State → State) : s.gated f k = k (s.gate f).2 := if_pos pass

theorem gated_of_drop (drop : (s.gate f).1 = false) (k : State → State) : s.gated f k = (s.gate f).2 :=
  if_neg (Bool.eq_false_iff.mp drop)

/-- What the notice n of a member does: its values count, a departure is reported, and what may follow from them follows. -/
def State.takeNotice (s : State) (n : Notice) : State :=
  let s := s.modCouch fun c => { c with notices := noteNotice c.notices n }
  (((if n.departed then s.report n.dev 4 else s).sealCommit).retire).flushCheck

/-- The notice that a frame tells (Table 6-4). -/
def noticeOf (f : Bytes) : Notice := ⟨fld f 2 2, fld f 16 8, fld f 32 8, fld f 40 8, bit (fld f 1 1) 0⟩

theorem exec_epochDoneNotice (r : Rx) (s : State) : exec (.epochDoneNotice r) s = frameRow [0x12] r s fun s => s.gated r.f fun s =>
    if ¬ s.member.members.contains (fld r.f 2 2) then s else s.takeNotice (noticeOf r.f) := rfl

theorem epochDoneNotice_ends {r : Rx} (serves : s.serving = true) (kind : frameKind r = 0x12) :
    Ends (.epochDoneNotice r) s ((s.ce r).gated r.f fun s => if ¬ s.member.members.contains (fld r.f 2 2) then s else s.takeNotice (noticeOf r.f)) := by
  have ends := ends_of_frameRow (exec_epochDoneNotice r s) serves kind (List.mem_singleton_self _) (by decide)
  exact ends

theorem epochDoneNotice_ends_of_stranger {r : Rx} (serves : s.serving = true) (kind : frameKind r = 0x12)
    (out : ((s.ce r).gate r.f).1 = false ∨ fld r.f 2 2 ∉ ((s.ce r).gate r.f).2.member.members) :
    Ends (.epochDoneNotice r) s ((s.ce r).gate r.f).2 := by
  refine (epochDoneNotice_ends serves kind).of_eq ?_
  cases pass : ((s.ce r).gate r.f).1 with
  | false => exact gated_of_drop pass _
  | true =>
    have stranger := out.resolve_left (by rw [pass]; decide)
    rw [gated_of_pass pass, if_pos (by simpa using stranger)]

theorem epochDoneNotice_ends_of_member {r : Rx} (serves : s.serving = true) (kind : frameKind r = 0x12)
    (pass : ((s.ce r).gate r.f).1 = true) (member : fld r.f 2 2 ∈ ((s.ce r).gate r.f).2.member.members) :
    Ends (.epochDoneNotice r) s (((s.ce r).gate r.f).2.takeNotice (noticeOf r.f)) := by
  refine (epochDoneNotice_ends serves kind).of_eq ?_
  rw [gated_of_pass pass, if_neg (by simpa using member)]

end

/-! ### The seal of a window (R133) -/

theorem minN_eq_min? (d : Nat) (l : List Nat) : minN d l = l.min?.getD d := by
  cases l <;> rfl

theorem minN_mem {d : Nat} {l : List Nat} (inhabited : l ≠ []) : minN d l ∈ l := by
  obtain ⟨x, hx⟩ := Option.isSome_iff_exists.mp (List.isSome_min?_of_ne_nil inhabited)
  rw [minN_eq_min?, hx]
  exact List.min?_mem hx

theorem minN_le {d x : Nat} {l : List Nat} (hx : x ∈ l) : minN d l ≤ x := by
  obtain ⟨y, hy⟩ := Option.isSome_iff_exists.mp (List.isSome_min?_of_ne_nil (List.ne_nil_of_mem hx))
  rw [minN_eq_min?, hy]
  exact (List.le_min?_iff hy).mp (Nat.le_refl y) x hx

/-- The latest notice of a member. -/
def State.noticeFrom (s : State) (d : Nat) : Option Notice := s.couch.notices.find? (fun x => x.dev = d)

/-- The least of a value over the notices of all members. -/
def State.leastTold (s : State) (value : Notice → Nat) : Nat := minN 0 (s.member.members.map fun d => ((s.noticeFrom d).map value).getD 0)

/-- The sealed epoch becomes the least couched epoch, where that is higher (R133). -/
def State.sealEpoch (s : State) : State :=
  if s.leastTold (·.couched) > s.rd 0x3101_02 then s.wr 0x3101_02 (s.leastTold (·.couched)) else s

/-- The next window to commit. -/
def State.nextCommit (s : State) : Nat := (s.committed / max s.deckle 1 + 1) * max s.deckle 1

section
variable {s : State}

theorem sealCommit_eq (members : s.member.members ≠ []) (told : ∀ d ∈ s.member.members, (s.noticeFrom d).isSome = true)
    (running : s.fn .coding ≠ 1) : s.sealCommit =
      (let t := s.sealEpoch
       if s.leastTold (·.bstep) ≥ t.nextCommit ∧ t.couch.folding.isNone ∧ t.member.cut.isNone ∧ t.couch.flush.isNone then
         { t with couch := { t.couch with folding := some t.nextCommit } }
       else t) := by
  have goes : ¬ (s.member.members.isEmpty = true ∨ (s.member.members.map fun d => s.couch.notices.find? (fun x => x.dev = d)).any (·.isNone) = true ∨ s.fn .coding = 1) := by
    rintro (empty | missing | starting)
    · exact members (List.isEmpty_iff.mp empty)
    · obtain ⟨d, hd, none⟩ : ∃ d ∈ s.member.members, s.noticeFrom d = none := by simpa [State.noticeFrom] using missing
      exact absurd (told d hd) (by rw [none]; decide)
    · exact running starting
  rw [State.sealCommit, if_neg goes]
  simp only [List.map_map]
  rfl

@[simp] theorem sealEpoch_couch (s : State) : s.sealEpoch.couch = s.couch := by
  unfold State.sealEpoch
  split
  · rw [State.wr_couch]
  · rfl

@[simp] theorem sealEpoch_member (s : State) : s.sealEpoch.member = s.member := by
  unfold State.sealEpoch
  split
  · rw [State.wr_member]
  · rfl

theorem rd_sealEpoch_sealed (dict : s.DictOk) : s.sealEpoch.rd 0x3101_02 = max (s.rd 0x3101_02) (s.leastTold (·.couched)) := by
  unfold State.sealEpoch
  split
  · next higher => rw [State.rd_wr_self dict, Nat.max_eq_right (Nat.le_of_lt higher)]
  · next lower => rw [Nat.max_eq_left (Nat.le_of_not_lt lower)]

theorem rd_sealEpoch_of_ne (dict : s.DictOk) {k : Nat} (other : k ≠ 0x3101_02) : s.sealEpoch.rd k = s.rd k := by
  unfold State.sealEpoch
  split
  · rw [State.rd_wr_ne dict other]
  · rfl

theorem nextCommit_sealEpoch (dict : s.DictOk) : s.sealEpoch.nextCommit = s.nextCommit := by
  simp only [State.nextCommit, State.committed, State.deckle, rd_sealEpoch_of_ne dict (by decide : (0x3101_01 : Nat) ≠ 0x3101_02),
    rd_sealEpoch_of_ne dict (by decide : (0x3100_01 : Nat) ≠ 0x3101_02)]

/-- Some member's notice tells the least value, and every other no less. -/
theorem exists_leastTold (members : s.member.members ≠ []) (told : ∀ d ∈ s.member.members, (s.noticeFrom d).isSome = true)
    (value : Notice → Nat) : ∃ d ∈ s.member.members, ∃ n, s.noticeFrom d = some n ∧ s.leastTold value = value n ∧
      ∀ e ∈ s.member.members, ∀ k, s.noticeFrom e = some k → value n ≤ value k := by
  have values := minN_mem (d := 0) (mt List.map_eq_nil_iff.mp members : s.member.members.map (fun d => ((s.noticeFrom d).map value).getD 0) ≠ [])
  obtain ⟨d, hd, least⟩ := List.mem_map.mp values
  obtain ⟨n, notice⟩ := Option.isSome_iff_exists.mp (told d hd)
  rw [notice] at least
  refine ⟨d, hd, n, notice, least.symm, fun e he k other => ?_⟩
  have bound := minN_le (d := 0) (List.mem_map_of_mem (f := fun d => ((s.noticeFrom d).map value).getD 0) he)
  rw [other] at bound
  exact Nat.le_trans (Nat.le_of_eq least) bound

/-- Where every member has reported the next window and nothing stands in the way, its fold starts. -/
theorem sealCommit_starts (dict : s.DictOk) (members : s.member.members ≠ []) (running : s.fn .coding ≠ 1)
    (told : ∀ d ∈ s.member.members, ∃ n, s.noticeFrom d = some n ∧ s.nextCommit ≤ n.bstep)
    (idle : s.couch.folding = none) (uncut : s.member.cut = none) (dry : s.flushing = false) :
    s.sealCommit = { s.sealEpoch with couch := { s.sealEpoch.couch with folding := some s.nextCommit } } := by
  have heard : ∀ d ∈ s.member.members, (s.noticeFrom d).isSome = true := fun d hd => by
    obtain ⟨n, notice, -⟩ := told d hd
    rw [notice, Option.isSome_some]
  have reached : s.nextCommit ≤ s.leastTold (·.bstep) := by
    obtain ⟨d, hd, n, notice, least, -⟩ := exists_leastTold members heard (·.bstep)
    obtain ⟨k, same, bound⟩ := told d hd
    obtain rfl := Option.some.inj (notice.symm.trans same)
    rwa [least]
  have noFlush : s.couch.flush.isNone = true := by simpa [State.flushing] using dry
  rw [sealCommit_eq members heard running]
  simp only [nextCommit_sealEpoch dict, sealEpoch_couch, sealEpoch_member, idle, uncut, noFlush, Option.isNone_none, reached, and_self, if_true]

end

/-! ### The fold of a window (R133) -/

section
variable {s : State}

theorem exec_foldComplete (s : State) : exec .foldComplete s = execFoldComplete s := rfl

theorem foldComplete_ends_of_idle (serves : s.serving = true) (idle : s.couch.folding = none) : Ends .foldComplete s s := by
  rw [Ends, exec_foldComplete, execFoldComplete, whenServing, if_pos serves, idle]

variable {c : Nat} (serves : s.serving = true) (folding : s.couch.folding = some c)
include serves folding

theorem foldComplete_ends :
    let u := s.foldBank (s.bankOf c)
    let v := (u.modCouch fun k => { k with folding := none }).wr 0x3101_01 c
    Ends .foldComplete s (if u.couch.vats.any (fun v => v.bank == s.bankOf c) then u
      else (((v.foldDone c).freeChains.takeWithheld.quietReady s.committed).finishCopy.sealCommit.drainHeld.judgeReadies)) := by
  intro u v
  rw [Ends, exec_foldComplete, execFoldComplete, whenServing, if_pos serves]
  simp only [folding]
  rfl

end

theorem committed_after_fold {s : State} (canon : s.Canon) (b c : Nat) :
    (((s.foldBank b).modCouch fun k => { k with folding := none }).wr 0x3101_01 c).committed = c := by
  have folded := (K.foldBank (b := b) (K.rfl' s)).canon canon
  exact State.rd_wr_self (s := (s.foldBank b).modCouch fun k => { k with folding := none }) folded.dict 0x3101_01 c

/-! ### RUSH_HOLD_END (R124) -/

theorem exec_rushHoldEnd_active {s : State} {n : Nat} (built : n < s.hw.slices) (active : s.active n = true) (serves : s.serving = true) :
    exec (.rushHoldEnd n) s = .next (s.pump.endRush n).drainHeld := by
  have means : exec (.rushHoldEnd n) s = onActive n s fun s => if ¬ s.serving then s else (s.pump.endRush n).drainHeld := rfl
  rw [means, onActive, onSlice, if_pos built, if_pos active, if_neg (not_not_intro serves)]

/-- Settles O41: each command by its own lemma, and the seal by the least values that the members' notices tell. -/
theorem windowsSealAndFold : Obligations.WindowsSealAndFold := by
  refine ⟨fun l n o found => ⟨_, find?_noteNotice found, rfl, rfl, rfl, rfl⟩, fun r s serves kind => ⟨?_, ?_⟩,
    fun s next canon members running isNext told idle uncut dry => ?_, fun s c serves folding => ?_, fun s => foldComplete_ends_of_idle,
    fun s serves => ends_of_whenServing rfl serves, fun s n built active serves => exec_rushHoldEnd_active built active serves⟩
  · exact epochDoneNotice_ends_of_stranger serves kind
  · exact epochDoneNotice_ends_of_member serves kind
  · subst isNext
    have heard : ∀ d ∈ s.member.members, (s.noticeFrom d).isSome = true := fun d hd => by
      obtain ⟨n, notice, -⟩ := told d hd
      exact Option.isSome_of_eq_some notice
    obtain ⟨d, hd, n, notice, least, lowest⟩ := exists_leastTold members heard (·.couched)
    rw [sealCommit_starts canon.dict members running told idle uncut dry]
    exact ⟨rfl, d, hd, n, notice, (rd_sealEpoch_sealed canon.dict).trans (congrArg _ least), lowest⟩
  · have ends := foldComplete_ends serves folding
    exact ⟨fun left => ends.of_eq (if_pos left), fun empty => ⟨ends.of_eq (if_neg (Bool.eq_false_iff.mp empty)), fun canon => committed_after_fold canon _ c⟩⟩

end Sys2Proof.Machine
end

section
/-!
Lines packed and unpacked (R122, R125): the values of a line are the digits, in base 2^w, of the number that is sent, and the
width w holds the zigzag of every delta.
-/

namespace Sys2Proof.Machine

/-! ### Zigzag and the width of a line -/

theorem unzigzag_zigzag (x : Int) : unzigzag (zigzag x) = x := by
  unfold unzigzag zigzag
  split <;> split <;> omega

theorem zigzag_le (x : Int) : zigzag x ≤ 2 * x.natAbs := by
  unfold zigzag
  split <;> omega

theorem zigzag_eq_zero_iff {x : Int} : zigzag x = 0 ↔ x = 0 := by
  unfold zigzag
  split <;> omega

theorem bitLength_le_of_lt {x w : Nat} (h : x < 2 ^ w) : bitLength x ≤ w := by
  unfold bitLength
  split
  · exact Nat.zero_le w
  · next nonzero => exact (Nat.log2_lt nonzero).mpr h

theorem maxN_le_iff {l : List Nat} {w : Nat} : maxN l ≤ w ↔ ∀ x ∈ l, x ≤ w := by
  have fold (a : Nat) : l.foldl max a ≤ w ↔ a ≤ w ∧ ∀ x ∈ l, x ≤ w := by
    induction l generalizing a with
    | nil => simp
    | cons x l ih => simp only [List.foldl_cons, ih, Nat.max_le, List.forall_mem_cons, and_assoc]
  rw [maxN, fold, and_iff_right (Nat.zero_le w)]

theorem packWidth_le_iff {d : List Int} {w : Nat} : packWidth d ≤ w ↔ ∀ x ∈ d, bitLength (zigzag x) ≤ w := by
  rw [packWidth, maxN_le_iff, List.forall_mem_map]

theorem zigzag_lt_of_mem {d : List Int} {x : Int} (hx : x ∈ d) : zigzag x < 2 ^ packWidth d :=
  Nat.lt_of_lt_of_le (lt_two_pow_bitLength _) (Nat.pow_le_pow_right (by decide) (packWidth_le_iff.mp (Nat.le_refl _) x hx))

theorem natAbs_lt_of_deltaOk {sp : Nat} {x : Int} (ok : deltaOk sp x = true) : x.natAbs < 2 ^ 61 := by
  have bound : x.natAbs < if sp = 0 then 2 ^ 61 else 2 ^ 32 := by simpa [deltaOk] using ok
  split at bound <;> omega

/-- A delta within the bounds of R122 has a zigzag of at most 62 bits. -/
theorem packWidth_le_of_deltaOk {sp : Nat} {d : List Int} (ok : ∀ x ∈ d, deltaOk sp x = true) : packWidth d ≤ 62 := by
  refine packWidth_le_iff.mpr fun x hx => bitLength_le_of_lt ?_
  have small := natAbs_lt_of_deltaOk (ok x hx)
  have twice := zigzag_le x
  omega

theorem one_le_packWidth {d : List Int} (value : d.any (· != 0) = true) : 1 ≤ packWidth d := by
  obtain ⟨x, hx, nonzero⟩ := List.any_eq_true.mp value
  have positive : zigzag x ≠ 0 := mt zigzag_eq_zero_iff.mp (bne_iff_ne.mp nonzero)
  refine Nat.pos_of_ne_zero fun none => positive ?_
  have below := zigzag_lt_of_mem hx
  rwa [none, Nat.pow_zero, Nat.lt_one_iff] at below

/-! ### The digits of a line -/

/-- A number with the values of a line appended as digits of w bits. -/
def appendDigits (w acc : Nat) (d : List Int) : Nat := d.foldl (fun acc x => acc * 2 ^ w + zigzag x) acc

section
variable {w : Nat} {d : List Int} (fits : ∀ x ∈ d, zigzag x < 2 ^ w)
include fits

/-- The digits appended stand below what was there. -/
theorem appendDigits_eq (acc : Nat) : ∃ low < 2 ^ (w * d.length), appendDigits w acc d = acc * 2 ^ (w * d.length) + low := by
  induction d generalizing acc with
  | nil => exact ⟨0, Nat.two_pow_pos _, by simp [appendDigits]⟩
  | cons x d ih =>
    obtain ⟨first, rest⟩ := List.forall_mem_cons.mp fits
    obtain ⟨low, below, eq⟩ := ih rest (acc * 2 ^ w + zigzag x)
    have split : 2 ^ (w * (x :: d).length) = 2 ^ w * 2 ^ (w * d.length) := by
      rw [List.length_cons, Nat.mul_succ, Nat.add_comm, Nat.pow_add]
    refine ⟨zigzag x * 2 ^ (w * d.length) + low, ?_, ?_⟩
    · rw [split]
      calc zigzag x * 2 ^ (w * d.length) + low
          < zigzag x * 2 ^ (w * d.length) + 2 ^ (w * d.length) := Nat.add_lt_add_left below _
        _ = (zigzag x + 1) * 2 ^ (w * d.length) := (Nat.succ_mul _ _).symm
        _ ≤ 2 ^ w * 2 ^ (w * d.length) := Nat.mul_le_mul_right _ first
    · calc appendDigits w acc (x :: d)
          = appendDigits w (acc * 2 ^ w + zigzag x) d := rfl
        _ = (acc * 2 ^ w + zigzag x) * 2 ^ (w * d.length) + low := eq
        _ = acc * 2 ^ (w * (x :: d).length) + (zigzag x * 2 ^ (w * d.length) + low) := by
          rw [split, Nat.add_mul, Nat.mul_assoc, Nat.add_assoc]

theorem appendDigits_div (acc : Nat) : appendDigits w acc d / 2 ^ (w * d.length) = acc := by
  obtain ⟨low, below, eq⟩ := appendDigits_eq fits acc
  rw [eq, Nat.mul_comm, Nat.mul_add_div (Nat.two_pow_pos _), Nat.div_eq_of_lt below, Nat.add_zero]

theorem appendDigits_zero_lt : appendDigits w 0 d < 2 ^ (w * d.length) := by
  obtain ⟨low, below, eq⟩ := appendDigits_eq fits 0
  omega

theorem unpackVals_appendDigits (acc : Nat) : unpackVals (appendDigits w acc d) w d.length = d := by
  induction d generalizing acc with
  | nil => rfl
  | cons x d ih =>
    obtain ⟨first, rest⟩ := List.forall_mem_cons.mp fits
    have head : appendDigits w (acc * 2 ^ w + zigzag x) d / 2 ^ (w * d.length) % 2 ^ w = zigzag x := by
      rw [appendDigits_div rest, Nat.mul_comm, Nat.mul_add_mod, Nat.mod_eq_of_lt first]
    calc unpackVals (appendDigits w acc (x :: d)) w (x :: d).length
        = unzigzag (appendDigits w (acc * 2 ^ w + zigzag x) d / 2 ^ (w * d.length) % 2 ^ w) ::
            unpackVals (appendDigits w (acc * 2 ^ w + zigzag x) d) w d.length := rfl
      _ = x :: d := by rw [head, unzigzag_zigzag, ih rest]

end

/-! ### A packed line (R125) -/

theorem beNat_be {n v : Nat} (h : v < 256 ^ n) : beNat (be n v) = v := by
  rw [beNat, be, List.reverse_reverse, leNat_littleEndian h]

theorem packLine_eq (d : List Int) :
    packLine d = BitVec.ofNat 8 (packWidth d) :: be (d.length * packWidth d / 8) (appendDigits (packWidth d) 0 d) := rfl

theorem length_packLine (d : List Int) : (packLine d).length = 1 + d.length * packWidth d / 8 := by
  rw [packLine_eq, List.length_cons, be_length, Nat.add_comm]

/-- With whole bytes of digits and a width that a receiver takes, a packed line reads back. -/
theorem unpackLine_packLine {d : List Int} (whole : 8 ∣ d.length) (narrow : packWidth d ≤ 64) (rest : Bytes) :
    unpackLine d.length (packLine d ++ rest) = some (d, rest) := by
  have width : (BitVec.ofNat 8 (packWidth d)).toNat = packWidth d := by rw [BitVec.toNat_ofNat]; omega
  obtain ⟨n, count⟩ := whole
  have bytes : d.length * packWidth d / 8 = n * packWidth d := by rw [count, Nat.mul_assoc]; omega
  have fits : appendDigits (packWidth d) 0 d < 256 ^ (n * packWidth d) := by
    have below := appendDigits_zero_lt (d := d) fun x => zigzag_lt_of_mem
    rw [count] at below
    rw [show (256 : Nat) = 2 ^ 8 from rfl, ← Nat.pow_mul]
    rwa [Nat.mul_comm, Nat.mul_assoc] at below
  have taken : (be (n * packWidth d) (appendDigits (packWidth d) 0 d) ++ rest).take (n * packWidth d) =
      be (n * packWidth d) (appendDigits (packWidth d) 0 d) := List.take_left' (be_length _ _)
  have left : (be (n * packWidth d) (appendDigits (packWidth d) 0 d) ++ rest).drop (n * packWidth d) = rest :=
    List.drop_left' (be_length _ _)
  have enough : ¬ (packWidth d > 64 ∨ (be (n * packWidth d) (appendDigits (packWidth d) 0 d) ++ rest).length < n * packWidth d) := by
    rw [List.length_append, be_length]
    omega
  rw [packLine_eq, List.cons_append]
  simp only [unpackLine, width, bytes, if_neg enough, taken, left, beNat_be fits]
  rw [unpackVals_appendDigits fun x => zigzag_lt_of_mem]

theorem unpackVals_width_zero (v n : Nat) : unpackVals v 0 n = List.replicate n 0 := by
  induction n with
  | zero => rfl
  | succ n ih =>
    rw [unpackVals, ih, Nat.pow_zero, Nat.mod_one]
    rfl

theorem eight_dvd_elems (sp : Nat) : 8 ∣ elems sp := by
  unfold elems
  split <;> decide

/-- Settles O36: the deltas are the digits of the number sent, and the width of R125 holds the zigzag of each. -/
theorem linesPackAndUnpack : Obligations.LinesPackAndUnpack := by
  refine ⟨fun sp d rest _ len ok => ?_, fun E w bs bad => if_pos bad, fun E bs => ?_⟩
  · have narrow := packWidth_le_of_deltaOk ok
    rw [← len]
    exact ⟨unpackLine_packLine (len ▸ eight_dvd_elems sp) (by omega) rest, length_packLine d, narrow, one_le_packWidth⟩
  · simp [unpackLine, unpackVals_width_zero]

end Sys2Proof.Machine
end

section
/-!
A data frame of a couch stream (Table 6-2): what its fields read as, and that a holder of the group reads from it the lines that
a data member packed (R125 to R129).
-/

namespace Sys2Proof.Machine

/-! ### Fields of a frame (R7) -/

/-- Fields in the order of the wire, each a width in bytes and a value. -/
def fieldBytes (l : List (Nat × Nat)) : Bytes := (l.map fun x => be x.1 x.2).flatten

theorem fieldBytes_cons (x : Nat × Nat) (l : List (Nat × Nat)) : fieldBytes (x :: l) = be x.1 x.2 ++ fieldBytes l := rfl

/-- A field that stands first reads as the value sent. -/
theorem fld_be_first {n v : Nat} (fits : v < 256 ^ n) (r : Bytes) : fld (be n v ++ r) 0 n = v := by
  simp [fld, slice, List.take_left' (be_length n v), be_length, beNat_be fits]

/-- A field behind another is a field of what follows it. -/
theorem fld_be_skip (k v : Nat) (r : Bytes) (o n : Nat) : fld (be k v ++ r) (k + o) n = fld r o n := by
  simp only [fld, slice, ← List.drop_drop, List.drop_left' (be_length k v)]

/-- The field that begins at byte o, with its width. -/
def fieldAt : List (Nat × Nat) → Nat → Option (Nat × Nat)
  | [], _ => none
  | x :: _, 0 => some x
  | x :: l, o => if x.1 ≤ o then fieldAt l (o - x.1) else none

theorem fld_fieldBytes {l : List (Nat × Nat)} {n v o : Nat} (field : fieldAt l o = some (n, v)) (fits : v < 256 ^ n) (body : Bytes) :
    fld (fieldBytes l ++ body) o n = v := by
  induction l, o using fieldAt.induct with
  | case1 => exact absurd field (by simp [fieldAt])
  | case2 x l =>
    obtain rfl : x = (n, v) := by simpa [fieldAt] using field
    rw [fieldBytes_cons, List.append_assoc]
    exact fld_be_first fits _
  | case3 x l o later within ih =>
    rw [fieldAt, if_pos within] at field
    · rw [fieldBytes_cons, List.append_assoc, ← Nat.add_sub_of_le within, fld_be_skip]
      exact ih field
    · exact later
  | case4 x l o later short =>
    rw [fieldAt, if_neg short] at field
    · exact absurd field (by simp)
    · exact later

theorem zeros_eq_be (n : Nat) : zeros n = be n 0 := by
  induction n with
  | zero => rfl
  | succ n ih =>
    have tail : (le n 0).reverse = zeros n := ih.symm
    simp only [be, le, Nat.zero_div, List.reverse_cons, tail, zeros]
    exact List.replicate_succ'

/-! ### The bitmap of the lines -/

theorem sumN_eq_sum (l : List Nat) : sumN l = l.sum := List.sum_eq_foldl.symm

theorem two_pow_dvd_sum {l : List Nat} {k : Nat} (above : ∀ i ∈ l, k ≤ i) : 2 ^ k ∣ (l.map (2 ^ ·)).sum := by
  induction l with
  | nil => exact Nat.dvd_zero _
  | cons i l ih =>
    obtain ⟨least, rest⟩ := List.forall_mem_cons.mp above
    rw [List.map_cons, List.sum_cons]
    exact Nat.dvd_add (Nat.pow_dvd_pow 2 least) (ih rest)

/-- The sum of the powers at rising positions has its set bits there: the later powers leave the first bit alone. -/
theorem testBit_sumN_two_pow {l : List Nat} (rising : l.Pairwise (· < ·)) (i : Nat) : (sumN (l.map (2 ^ ·))).testBit i = true ↔ i ∈ l := by
  rw [sumN_eq_sum]
  induction l with
  | nil => simp only [List.map_nil, List.sum_nil, Nat.zero_testBit, Bool.false_eq_true, List.not_mem_nil]
  | cons x l ih =>
    obtain ⟨above, rest⟩ := List.pairwise_cons.mp rising
    obtain ⟨q, high⟩ := two_pow_dvd_sum above
    have low : 2 ^ x < 2 ^ (x + 1) := Nat.pow_lt_pow_right (by decide) (Nat.lt_succ_self x)
    have apart : ((x :: l).map (2 ^ ·)).sum = (l.map (2 ^ ·)).sum ||| 2 ^ x := by
      rw [List.map_cons, List.sum_cons, Nat.add_comm, high]
      exact Nat.two_pow_add_eq_or_of_lt low q
    rw [apart, Nat.testBit_or, Bool.or_eq_true, ih rest, Nat.testBit_two_pow, decide_eq_true_eq, List.mem_cons, Or.comm, eq_comm]

/-- Rising lists with the same members are the same list. -/
theorem eq_of_rising {l m : List Nat} (hl : l.Pairwise (· < ·)) (hm : m.Pairwise (· < ·)) (same : ∀ i, i ∈ l ↔ i ∈ m) : l = m := by
  have perm := (List.perm_ext_iff_of_nodup (List.nodup_iff_pairwise_ne.mpr (hl.imp Nat.ne_of_lt)) (List.nodup_iff_pairwise_ne.mpr (hm.imp Nat.ne_of_lt))).mpr same
  exact List.Perm.eq_of_pairwise (fun _ _ _ _ lt gt => absurd gt (Nat.lt_asymm lt)) hl hm perm

/-- Rising positions are read back from the sum of their powers. -/
theorem setBits_sumN_two_pow {l : List Nat} {n : Nat} (rising : l.Pairwise (· < ·)) (below : ∀ i ∈ l, i < n) :
    setBits (sumN (l.map (2 ^ ·))) n = l := by
  refine eq_of_rising (List.Pairwise.filter _ List.pairwise_lt_range) rising fun i => ?_
  rw [setBits, List.mem_filter, List.mem_range, testBit_sumN_two_pow rising, and_iff_right_of_imp (below i)]

theorem sumN_two_pow_lt {l : List Nat} {n : Nat} (rising : l.Pairwise (· < ·)) (below : ∀ i ∈ l, i < n) :
    sumN (l.map (2 ^ ·)) < 2 ^ n := by
  refine Nat.lt_pow_two_of_testBit _ fun i beyond => ?_
  rw [Bool.eq_false_iff, Ne, testBit_sumN_two_pow rising]
  exact fun mem => absurd (below i mem) (Nat.not_lt.mpr beyond)

/-! ### The check (R128) -/

theorem couchCheck_lt (E : Nat) (ls : List (Nat × List Int)) : couchCheck E ls < p61 := by
  refine List.foldlRecOn (motive := (· < p61)) ls _ (by decide) fun _ small _ _ => ?_
  exact List.foldlRecOn (motive := (· < p61)) _ _ small fun _ _ _ _ => mod_p61_lt _

/-! ### The lines of a frame (R125, R129) -/

/-- The packed lines of a frame, one behind the other. -/
def packLines (ls : List (Nat × List Int)) : Bytes := (ls.map fun l => packLine l.2).flatten

theorem length_packLines (ls : List (Nat × List Int)) : (packLines ls).length = sumN (ls.map fun l => (packLine l.2).length) := by
  rw [packLines, List.length_flatten, List.map_map, sumN_eq_sum]
  rfl

/-- The lines are read back at the positions of the bitmap. -/
theorem presentLines_packLines {sp : Nat} {ls : List (Nat × List Int)}
    (whole : ∀ l ∈ ls, l.2.length = elems sp ∧ ∀ x ∈ l.2, deltaOk sp x = true) (pos : Nat × List Int → Nat) :
    presentLines (elems sp) (ls.map pos) (packLines ls) = .ok (ls.map fun l => (pos l, l.2)) := by
  induction ls with
  | nil => rfl
  | cons l ls ih =>
    obtain ⟨⟨len, ok⟩, rest⟩ := List.forall_mem_cons.mp whole
    have narrow : packWidth l.2 ≤ 62 := packWidth_le_of_deltaOk ok
    have width : ¬ (BitVec.ofNat 8 (packWidth l.2)).toNat > 64 := by rw [BitVec.toNat_ofNat]; omega
    have read : unpackLine (elems sp) (packLine l.2 ++ packLines ls) = some (l.2, packLines ls) := by
      rw [← len]
      exact unpackLine_packLine (len ▸ eight_dvd_elems sp) (by omega) _
    rw [packLine_eq, List.cons_append] at read
    have body : packLines (l :: ls) = packLine l.2 ++ packLines ls := rfl
    rw [body, packLine_eq, List.cons_append, List.map_cons, List.map_cons, presentLines]
    simp only [if_neg width, read, ih rest]

/-! ### A data frame (Table 6-2) -/

/-- The stripe of the first line. -/
def firstStripe (ls : List (Nat × List Int)) : Nat := (ls.map (·.1)).headD 0

/-- The bitmap of the lines, from the first stripe on. -/
def stripeBitmap (ls : List (Nat × List Int)) : Nat := sumN (ls.map fun l => 2 ^ (l.1 - firstStripe ls))

/-- The lines at their bitmap positions. -/
def placedLines (ls : List (Nat × List Int)) : List (Nat × List Int) := ls.map fun l => (l.1 - firstStripe ls, l.2)

/-- The 64 bytes before the lines. -/
def State.dataHead (s : State) (flags sp ep g i seq : Nat) (ls : List (Nat × List Int)) : List (Nat × Nat) :=
  [(1, 0x10), (1, flags + sp), (2, s.own), (4, s.halter), (8, s.job), (8, ep), (8, s.stepOf ep), (2, g), (1, i), (1, 0), (4, seq),
    (4, firstStripe ls), (8, stripeBitmap ls), (2, (packLines ls).length), (2, 0), (8, couchCheck (elems sp) (placedLines ls))]

theorem dataFrame_eq (s : State) (flags sp ep g i seq : Nat) (ls : List (Nat × List Int)) :
    s.dataFrame false flags sp ep g i seq ls = fieldBytes (s.dataHead flags sp ep g i seq ls) ++ packLines ls := by
  simp only [State.dataFrame, State.header, zeros_eq_be, List.append_assoc, State.dataHead, fieldBytes_cons]
  rfl

theorem length_dataHead (s : State) (flags sp ep g i seq : Nat) (ls : List (Nat × List Int)) :
    (fieldBytes (s.dataHead flags sp ep g i seq ls)).length = 64 := by
  simp [State.dataHead, fieldBytes, be_length]

theorem stripeBitmap_eq (ls : List (Nat × List Int)) :
    stripeBitmap ls = sumN ((ls.map fun l => l.1 - firstStripe ls).map (2 ^ ·)) := by
  rw [List.map_map]
  rfl

/-- The values of a data frame fit their fields, and its lines rise within 64 stripes and fill less than 65,536 bytes. -/
structure FrameFits (s : State) (flags sp ep g i seq : Nat) (ls : List (Nat × List Int)) : Prop where
  space : sp < 2
  flags : flags < 256 ∧ flags % 2 = 0
  own : s.own < 65536
  halter : s.halter < 2 ^ 32
  job : s.job < 2 ^ 64
  epoch : ep < 2 ^ 64
  step : s.stepOf ep < 2 ^ 64
  group : g < 65536
  role : i < 256
  seq : seq < 2 ^ 32
  first : firstStripe ls < 2 ^ 32
  near : ∀ l ∈ ls, firstStripe ls ≤ l.1 ∧ l.1 < firstStripe ls + 64
  rising : ls.Pairwise fun a b => a.1 < b.1
  size : sumN (ls.map fun l => (packLine l.2).length) < 65536

section
variable {s : State} {flags sp ep g i seq : Nat} {ls : List (Nat × List Int)} (fits : FrameFits s flags sp ep g i seq ls)
include fits

theorem placed_rising : (ls.map fun l => l.1 - firstStripe ls).Pairwise (· < ·) := by
  refine List.pairwise_map.mpr (fits.rising.imp_of_mem fun ha hb lt => ?_)
  have la := fits.near _ ha
  have lb := fits.near _ hb
  omega

theorem placed_below : ∀ n ∈ ls.map fun l => l.1 - firstStripe ls, n < 64 := by
  refine List.forall_mem_map.mpr fun l hl => ?_
  have near := fits.near l hl
  omega

theorem stripeBitmap_lt : stripeBitmap ls < 2 ^ 64 := by
  rw [stripeBitmap_eq]
  exact sumN_two_pow_lt (placed_rising fits) (placed_below fits)

theorem setBits_stripeBitmap : setBits (stripeBitmap ls) 64 = ls.map fun l => l.1 - firstStripe ls := by
  rw [stripeBitmap_eq]
  exact setBits_sumN_two_pow (placed_rising fits) (placed_below fits)

/-- What a receiver reads from the frame's fields. -/
structure FrameReads (f : Bytes) (s : State) (flags sp ep g i seq : Nat) (ls : List (Nat × List Int)) : Prop where
  space : bits (fld f 1 1) 0 1 = sp
  own : fld f 2 2 = s.own
  halter : fld f 4 4 = s.halter
  job : fld f 8 8 = s.job
  epoch : fld f 16 8 = ep
  step : fld f 24 8 = s.stepOf ep
  group : fld f 32 2 = g
  role : fld f 34 1 = i
  seq : fld f 36 4 = seq
  first : fld f 40 4 = firstStripe ls
  bitmap : fld f 44 8 = stripeBitmap ls
  length : fld f 52 2 = (packLines ls).length
  check : fld f 56 8 = couchCheck (elems sp) (placedLines ls)
  body : f.drop 64 = packLines ls

theorem dataFrame_reads : FrameReads (s.dataFrame false flags sp ep g i seq ls) s flags sp ep g i seq ls := by
  have space := fits.space
  obtain ⟨flags256, even⟩ := fits.flags
  have flagByte : flags + sp < 256 := by omega
  have bitmap := stripeBitmap_lt fits
  have size : (packLines ls).length < 256 ^ 2 := Nat.lt_of_le_of_lt (Nat.le_of_eq (length_packLines ls)) fits.size
  have check : couchCheck (elems sp) (placedLines ls) < 256 ^ 8 := Nat.lt_trans (couchCheck_lt _ _) (by decide)
  have flagField : fld (s.dataFrame false flags sp ep g i seq ls) 1 1 = flags + sp := by
    rw [dataFrame_eq]
    exact fld_fieldBytes rfl flagByte _
  constructor
  case space =>
    rw [flagField, bits]
    omega
  all_goals rw [dataFrame_eq]
  case own => exact fld_fieldBytes rfl fits.own _
  case halter => exact fld_fieldBytes rfl fits.halter _
  case job => exact fld_fieldBytes rfl fits.job _
  case epoch => exact fld_fieldBytes rfl fits.epoch _
  case step => exact fld_fieldBytes rfl fits.step _
  case group => exact fld_fieldBytes rfl fits.group _
  case role => exact fld_fieldBytes rfl fits.role _
  case seq => exact fld_fieldBytes rfl fits.seq _
  case first => exact fld_fieldBytes rfl fits.first _
  case bitmap => exact fld_fieldBytes rfl bitmap _
  case length => exact fld_fieldBytes rfl size _
  case check => exact fld_fieldBytes rfl check _
  case body => exact List.drop_left' (length_dataHead ..)

end

/-! ### The frame at a holder (R129) -/

section
variable {s h : State} {flags sp ep g i seq j : Nat} {ls : List (Nat × List Int)}

theorem placedLines_restored (near : ∀ l ∈ ls, firstStripe ls ≤ l.1 ∧ l.1 < firstStripe ls + 64) :
    ((placedLines ls).map fun l => (firstStripe ls + l.1, l.2)) = ls := by
  rw [placedLines, List.map_map]
  refine (List.map_congr_left fun l hl => ?_).trans (List.map_id ls)
  exact Prod.ext (Nat.add_sub_of_le (near l hl).1) rfl

/-- A frame that is read as it was made, from a data member of a group in which the unit holds a parity, meets each condition
of R129 in turn. -/
theorem judgeData_dataFrame (fits : FrameFits s flags sp ep g i seq ls) (job : h.job = s.job) (number : h.halter = s.halter)
    (parity : h.parityIn false g = some j) (data : i < h.k) (member : (h.groupOf false g).getD i 0xFFFF = s.own)
    (inBand : ∀ l ∈ ls, l.1 < h.band false sp) (whole : ∀ l ∈ ls, l.2.length = elems sp ∧ ∀ x ∈ l.2, deltaOk sp x = true) :
    h.judgeData false (s.dataFrame false flags sp ep g i seq ls) = .ok (j, ls) := by
  have reads := dataFrame_reads fits
  have source : ¬ (False ∨ h.k ≤ i) := not_or_intro id (Nat.not_le.mpr data)
  have stripes : ¬ (ls.map fun l => l.1 - firstStripe ls).any (fun b => decide (firstStripe ls + b ≥ h.band false sp)) = true := by
    simp only [List.any_map, List.any_eq_true, Function.comp_apply, decide_eq_true_eq, not_exists, not_and, Nat.not_le]
    intro l hl
    rw [Nat.add_sub_of_le (fits.near l hl).1]
    exact inBand l hl
  have bounds : ¬ (ls.map fun l => (l.1 - firstStripe ls, l.2)).any (fun l => l.2.any fun d => decide ¬ deltaOk sp d = true) = true := by
    simp only [List.any_map, List.any_eq_true, Function.comp_apply, decide_eq_true_eq, not_exists, not_and, Decidable.not_not]
    exact fun l hl => (whole l hl).2
  have check : canonical (couchCheck (elems sp) (placedLines ls)) = true := canonical_iff.mpr (couchCheck_lt _ _)
  have lines := presentLines_packLines whole fun l => l.1 - firstStripe ls
  have restored := placedLines_restored fits.near
  simp only [placedLines] at restored check
  simp only [State.judgeData, reads.space, reads.own, reads.halter, reads.job, reads.group, reads.role, reads.first, reads.bitmap,
    reads.length, reads.check, reads.body, job, number, parity, member, setBits_stripeBitmap fits, ne_eq, not_true, if_false, ge_iff_le, if_neg source]
  rw [if_neg stripes]
  simp only [lines, placedLines, if_neg bounds, check, not_true, if_false, restored]

end

/-- Settles O37: each field reads as it was sent, the bitmap gives the positions of the lines, and the lines unpack. -/
theorem dataFramesReadAsTheyWereSent : Obligations.DataFramesReadAsTheyWereSent := by
  intro s h flags sp ep g i seq first j ls space _ rising lines head first32 size flags256 even epoch step group role seq32 own halter job
    sameJob sameHalter parity data member f
  have stripe : firstStripe ls = first := by rw [firstStripe, List.headD_eq_head?_getD, List.head?_map, head, Option.getD_some]
  have fits : FrameFits s flags sp ep g i seq ls :=
    { space, flags := ⟨flags256, even⟩, own, halter, job, epoch, step, group, role, seq := seq32, first := stripe ▸ first32,
      near := fun l hl => stripe ▸ ⟨(lines l hl).1, (lines l hl).2.1⟩, rising, size }
  have reads := dataFrame_reads fits
  refine ⟨judgeData_dataFrame fits sameJob sameHalter parity data member (fun l hl => ?_) fun l hl => ?_, reads.own, reads.seq, reads.step, reads.epoch⟩
  · obtain ⟨-, -, inBand, -, -⟩ := lines l hl
    exact inBand
  · obtain ⟨-, -, -, len, ok⟩ := lines l hl
    exact ⟨len, List.all_eq_true.mp ok⟩

end Sys2Proof.Machine
end

section
/-!
Feeds and sensors (R143, R360 to R362): the debounce of the feed warnings, the judgement of one sensor, and the droops of a
slice.
-/

namespace Sys2Proof.Machine

theorem ends_of_whenUp {c : Instr} {s : State} {k : State → State} (means : exec c s = whenUp s k) (up : s.up = true) : Ends c s (k s) := by
  rw [Ends, means, whenUp, if_pos up]

/-! ### Feeds (R362) -/

section
variable {s : State}

theorem exec_feedwarnChange (pad : Nat) (v : Bool) (s : State) : exec (.feedwarnChange pad v) s = execFeedwarnChange pad v s := rfl

theorem feedwarnChange_ends (up : s.up = true) {pad : Nat} (feed : pad = 1 ∨ pad = 2) (sound : s.pairFault pad = false) (v : Bool) :
    Ends (.feedwarnChange pad v) s ((s.setPair pad v).feedBit (pad - 1) v).feedJudge := by
  have taken : ¬ ((pad ≠ 1 ∧ pad ≠ 2) ∨ s.pairFault pad = true) := by
    rintro (other | fault)
    · omega
    · exact Bool.false_ne_true (sound.symm.trans fault)
  exact (ends_of_whenUp (exec_feedwarnChange pad v s) up).of_eq (if_neg taken)

theorem exec_feedDeclared (s : State) : exec .feedDeclared s = execFeedDeclared s := rfl

theorem feedDeclared_ends (up : s.up = true) (held : s.sensors.debouncing = true) (new : (s.rd 0x7002_03).testBit 2 = false) :
    let u := ((s.feedBit 2 true).wr 0x7002_04 s.now).inc 0x8700_07
    let w := u.ev 0x7006 (be 1 (u.rd 0x7002_03) ++ be 1 u.dev)
    Ends .feedDeclared s (if w.flushes then w.startFlush else w.writeLogTail.sendTail) := by
  have goes : ¬ (¬ s.sensors.debouncing = true ∨ (s.rd 0x7002_03).testBit 2 = true) := by simp [held, new]
  exact (ends_of_whenUp (exec_feedDeclared s) up).of_eq (if_neg goes)

theorem feedDeclared_ends_of_stale (up : s.up = true) (stale : s.sensors.debouncing = false ∨ (s.rd 0x7002_03).testBit 2 = true) :
    Ends .feedDeclared s s :=
  (ends_of_whenUp (exec_feedDeclared s) up).of_eq (if_pos (stale.imp_left Bool.eq_false_iff.mp))

end

/-! ### One sensor (R360) -/

theorem mem_insertSorted_iff {x y : Nat} {l : List Nat} : y ∈ insertSorted x l ↔ y = x ∨ y ∈ l := by
  refine ⟨mem_insertSorted, ?_⟩
  induction l with
  | nil => simp [insertSorted]
  | cons z l ih =>
    unfold insertSorted
    split
    · next same => simp [same]
    · split
      · simp
      · rintro (rfl | mem)
        · exact List.mem_cons_of_mem z (ih (.inl rfl))
        · exact (List.mem_cons.mp mem).elim (fun same => same ▸ List.mem_cons_self) fun later => List.mem_cons_of_mem z (ih (.inr later))

/-- Entry n enters a rising list, or leaves it, as the judgement says. -/
def judgeEntry (n : Nat) (above : Bool) (l : List Nat) : List Nat := if above then insertSorted n (dropEntry n l) else dropEntry n l

theorem mem_judgeEntry_self {n : Nat} {above : Bool} {l : List Nat} : n ∈ judgeEntry n above l ↔ above = true := by
  unfold judgeEntry dropEntry
  split
  · next high => simp [mem_insertSorted_iff, high]
  · next low => simp [low]

theorem mem_judgeEntry_of_ne {n m : Nat} (other : m ≠ n) {above : Bool} {l : List Nat} : m ∈ judgeEntry n above l ↔ m ∈ l := by
  unfold judgeEntry dropEntry
  split
  · simp [mem_insertSorted_iff, other]
  · simp [other]

/-- A sensor that becomes warm is counted and reported. -/
def State.noteWarm (s : State) (n : Nat) (hot : Bool) (x : Int) : State :=
  if hot ∧ ¬ s.sensors.warm.contains n then (s.inc 0x8700_05).ev 0x7003 (be 1 n ++ be 2 (pat 16 x)) else s

/-- A sensor that trips makes the block hot and is reported. -/
def State.noteTrip (s : State) (n : Nat) (trip : Bool) (x : Int) : State :=
  if trip ∧ ¬ s.sensors.tripped.contains n then State.ev (s.modSensors fun y => { y with hot := true }) 0x7004 (be 1 n ++ be 2 (pat 16 x)) else s

/-- A reading is above the warning threshold. -/
def State.isHot (s : State) (x : Int) : Bool := decide (x > sgn 32 (s.rd 0x7001_02))

/-- A reading is above the trip threshold. -/
def State.isTrip (s : State) (x : Int) : Bool := decide (x > sgn 32 (s.rd 0x7001_03))

section
variable (s : State) (n : Nat) (x : Int)

theorem judgeSensor_eq : s.judgeSensor n x = ((s.noteWarm n (s.isHot x) x).noteTrip n (s.isTrip x) x).modSensors fun y =>
    { y with warm := judgeEntry n (s.isHot x) y.warm, tripped := judgeEntry n (s.isTrip x) y.tripped } := rfl

theorem noteWarm_sensors (hot : Bool) : (s.noteWarm n hot x).sensors = s.sensors := by
  unfold State.noteWarm
  split
  · exact (Quiet.refl _).ev.sensors.trans (State.inc_sensors ..)
  · rfl

theorem noteTrip_lists (trip : Bool) :
    (s.noteTrip n trip x).sensors.warm = s.sensors.warm ∧ (s.noteTrip n trip x).sensors.tripped = s.sensors.tripped := by
  unfold State.noteTrip
  split
  · rw [(Quiet.refl _).ev.sensors]
    exact ⟨rfl, rfl⟩
  · exact ⟨rfl, rfl⟩

theorem judgeSensor_warm : (s.judgeSensor n x).sensors.warm = judgeEntry n (s.isHot x) s.sensors.warm := by
  rw [judgeSensor_eq, State.modSensors_sensors, (noteTrip_lists ..).1, noteWarm_sensors]

theorem judgeSensor_tripped : (s.judgeSensor n x).sensors.tripped = judgeEntry n (s.isTrip x) s.sensors.tripped := by
  rw [judgeSensor_eq, State.modSensors_sensors, (noteTrip_lists ..).2, noteWarm_sensors]

variable {s}

theorem noteTrip_rd (dict : s.DictOk) (trip : Bool) {k : Nat} (apart : k ∉ quietKeys) : (s.noteTrip n trip x).rd k = s.rd k := by
  unfold State.noteTrip
  split
  · exact (Quiet.refl (s.modSensors fun y => { y with hot := true })).ev.rd dict k apart
  · rfl

theorem noteWarm_dictOk (dict : s.DictOk) (hot : Bool) : (s.noteWarm n hot x).DictOk := by
  unfold State.noteWarm
  split
  · exact (Quiet.refl _).ev.dictOk (State.dictOk_inc dict _)
  · exact dict

theorem noteWarm_rd_count (dict : s.DictOk) (hot : Bool) : (s.noteWarm n hot x).rd 0x8700_05 =
    if hot = true ∧ n ∉ s.sensors.warm then min (s.rd 0x8700_05 + 1) (objMax 0x8700_05) else s.rd 0x8700_05 := by
  simp only [State.noteWarm, List.contains_iff_mem]
  split
  · rw [(Quiet.refl _).ev.rd (State.dictOk_inc dict _) _ (by decide), State.rd_inc dict, if_pos rfl]
  · rfl

/-- A sensor that becomes warm is counted in 0x8700.05. -/
theorem judgeSensor_rd_count (dict : s.DictOk) : (s.judgeSensor n x).rd 0x8700_05 =
    if s.isHot x = true ∧ n ∉ s.sensors.warm then min (s.rd 0x8700_05 + 1) (objMax 0x8700_05) else s.rd 0x8700_05 := by
  rw [← noteWarm_rd_count n x dict, ← noteTrip_rd n x (noteWarm_dictOk n x dict _) (s.isTrip x) (by decide : 0x8700_05 ∉ quietKeys), judgeSensor_eq]
  rfl

end

theorem exec_thermalSample (ts : List Int) (s : State) : exec (.thermalSample ts) s = whenUp s fun s => s.sample ts := rfl

theorem thermalSample_ends {s : State} (ts : List Int) (up : s.up = true) : Ends (.thermalSample ts) s (s.sample ts) := by
  rw [Ends, exec_thermalSample, whenUp, if_pos up]

/-! ### Droops (R361) -/

theorem exec_droopLimit (n count : Nat) (s : State) : exec (.droopLimit n count) s = execDroopLimit n count s := rfl

theorem exec_droopLimit_inactive {s : State} {n : Nat} (built : n < s.hw.slices) (inactive : s.active n = false) (count : Nat) :
    exec (.droopLimit n count) s = .next s := by
  rw [exec_droopLimit, execDroopLimit, onActive, onSlice, if_pos built, if_neg (Bool.eq_false_iff.mp inactive)]

theorem exec_droopLimit_active {s : State} {n : Nat} (built : n < s.hw.slices) (active : s.active n = true) (up : s.up = true) (count : Nat) :
    exec (.droopLimit n count) s = .next (if count > (s.incBy 0x8700_06 count).rd 0x7001_04
      then (s.incBy 0x8700_06 count).ev 0x7005 (be 1 n ++ be 2 count) else s.incBy 0x8700_06 count) := by
  rw [exec_droopLimit, execDroopLimit, onActive, onSlice, if_pos built, if_pos active, if_neg (not_not_intro up)]

/-- Settles O26: each command by its own lemma, and the judgement of a sensor by the entry that enters or leaves a list. -/
theorem feedsFlushInTime : Obligations.FeedsFlushInTime := by
  refine ⟨⟨fun s pad v up feed sound => feedwarnChange_ends up feed sound v, fun s => feedDeclared_ends, fun s => feedDeclared_ends_of_stale,
      fun s _ => ⟨?feedA, ?either, ?both⟩⟩,
    fun s ts => thermalSample_ends ts, fun s n m x => ⟨fun other => ?_, ?_, ?_, fun canon => ?_⟩,
    fun s n count built inactive => exec_droopLimit_inactive built inactive count,
    fun s n count built active up => exec_droopLimit_active built active up count⟩
  case feedA => exact fun mode => by simp only [State.feedWarns, mode]
  case either => exact fun mode => by simp only [State.feedWarns, mode]
  case both => exact fun mode => by simp only [State.feedWarns, mode]
  · rw [judgeSensor_warm, judgeSensor_tripped]
    exact ⟨mem_judgeEntry_of_ne other, mem_judgeEntry_of_ne other⟩
  · rw [judgeSensor_warm, mem_judgeEntry_self]
    exact decide_eq_true_iff
  · rw [judgeSensor_tripped, mem_judgeEntry_self]
    exact decide_eq_true_iff
  · rw [judgeSensor_rd_count n x canon.dict]
    simp only [State.isHot, decide_eq_true_eq]

end Sys2Proof.Machine
end

section
/-!
Acknowledgements at a data member and what goes again (R127, R132, R141, R149, R171).
-/

namespace Sys2Proof.Machine

/-! ### An acknowledgement (R127, R132) -/

/-- The command that brings an acknowledgement: of a couch stream, or of a target stream. -/
def ackCommand (tgt : Bool) (r : Rx) : Instr := if tgt then .reStripeAcknowledgement r else .acknowledgement r

theorem exec_ackCommand (tgt : Bool) (r : Rx) (s : State) :
    exec (ackCommand tgt r) s = frameRow [if tgt then 0x2D else 0x11] r s fun s => s.gated r.f fun s => s.takeAck tgt r.f := by
  cases tgt <;> rfl

theorem ackCommand_ends {tgt : Bool} {r : Rx} {s : State} (serves : s.serving = true) (kind : frameKind r = if tgt then 0x2D else 0x11) :
    Ends (ackCommand tgt r) s ((s.ce r).gated r.f fun s => s.takeAck tgt r.f) := by
  have assigned : (if tgt then 0x2D else 0x11) ∈ assignedKinds := by cases tgt <;> decide
  have ends := ends_of_frameRow (exec_ackCommand tgt r s) serves kind (List.mem_singleton_self _) assigned
  exact ends

/-- A frame of the stream that an acknowledgement tells of, within what it covers. -/
def ackOf (tgt : Bool) (f : Bytes) (o : OutFrame) : Bool :=
  o.group == fld f 16 2 && o.role == fld f 18 1 && o.tgt == tgt && ackCovers (fld f 20 4) (fld f 24 8) o.seq

theorem ackOf_iff {tgt : Bool} {f : Bytes} {o : OutFrame} : ackOf tgt f o = true ↔
    o.group = fld f 16 2 ∧ o.role = fld f 18 1 ∧ o.tgt = tgt ∧ ackCovers (fld f 20 4) (fld f 24 8) o.seq = true := by
  simp [ackOf, and_assoc]

/-- A frame with holder j among those that have acknowledged it, where p holds of it. -/
def markAcked (p : OutFrame → Bool) (j : Nat) (o : OutFrame) : OutFrame :=
  if p o && !(o.acked.contains j) then { o with acked := o.acked ++ [j] } else o

theorem mem_acked_markAcked {p : OutFrame → Bool} {i j : Nat} {o : OutFrame} :
    i ∈ (markAcked p j o).acked ↔ i ∈ o.acked ∨ (i = j ∧ p o = true) := by
  unfold markAcked
  split
  · next added =>
    have within : p o = true := (Bool.and_eq_true_iff.mp added).1
    simp [within]
  · next stays =>
    have there : p o = true → j ∈ o.acked := by simpa using stays
    refine ⟨.inl, ?_⟩
    rintro (mem | ⟨rfl, within⟩)
    · exact mem
    · exact there within

theorem markAcked_unacked (p : OutFrame → Bool) (j : Nat) (o : OutFrame) :
    { markAcked p j o with acked := [] } = { o with acked := [] } := by
  unfold markAcked
  split <;> rfl

/-- The couch record with what an acknowledgement from holder j tells. -/
def State.noteAck (s : State) (tgt : Bool) (f : Bytes) : State :=
  s.modCouch fun c => { c with
    out := c.out.map (markAcked (ackOf tgt f) (fld f 19 1))
    streams := mapWhere (fun t => t.group == fld f 16 2 && t.role == fld f 18 1 && t.tgt == tgt) (fun t => { t with heard := setAt t.heard (fld f 19 1) s.now }) c.streams }

/-- An acknowledgement comes from the holder that it names, and about a stream of this member. -/
abbrev State.ackFits (s : State) (tgt : Bool) (f : Bytes) : Prop :=
  (s.holders tgt (fld f 16 2)).getD (fld f 19 1) 0xFFFF = fld f 2 2 ∧ (s.groupOf tgt (fld f 16 2)).getD (fld f 18 1) 0xFFFF = s.own

section
variable {s : State} {tgt : Bool} {f : Bytes}

theorem takeAck_of_fits (fits : s.ackFits tgt f) : s.takeAck tgt f = (s.noteAck tgt f).afterAck := by
  simp only [State.takeAck, fits.1, fits.2, and_self, not_true, if_false]
  rfl

theorem takeAck_of_other (other : ¬ s.ackFits tgt f) : s.takeAck tgt f = s := if_pos other

theorem noteAck_out : (s.noteAck tgt f).couch.out = s.couch.out.map (markAcked (ackOf tgt f) (fld f 19 1)) := rfl

theorem noteAck_out_unacked : (s.noteAck tgt f).couch.out.map (fun o => { o with acked := [] }) = s.couch.out.map (fun o => { o with acked := [] }) := by
  rw [noteAck_out, List.map_map]
  exact List.map_congr_left fun o _ => markAcked_unacked _ _ o

end

/-! ### Frames that leave (R127) -/

theorem retire_out (s : State) : s.retire.couch.out = s.couch.out.filter (fun f => !s.frameDone f) := by
  have left : (s.couch.out.filter fun f => decide ¬ s.frameDone f = true) = s.couch.out.filter (fun f => !s.frameDone f) :=
    List.filter_congr fun f _ => by simp
  unfold State.retire
  dsimp only
  split
  · exact left
  · rw [State.wr_couch, State.incBy_couch]
    exact left

/-! ### What goes again (R127, R132, R141) -/

theorem exec_retransmitTimeout (stream : StreamId) (role seq parity : Nat) (s : State) :
    exec (.retransmitTimeout stream role seq parity) s = execRetransmitTimeout stream role seq parity s := rfl

theorem exec_holderSilenceLimit (group parity : Nat) (s : State) : exec (.holderSilenceLimit group parity) s = execHolderSilenceLimit group parity s := rfl

theorem exec_noticeRepeat (s : State) : exec .noticeRepeat s = execNoticeRepeat s := rfl

section
variable {s : State} (serves : s.serving = true)
include serves

theorem retransmitTimeout_ends {group role seq parity h : Nat} {tgt : Bool} {o : OutFrame}
    (owed : s.couch.out.find? (fun o => o.group == group && o.role == role && o.tgt == tgt && o.seq == seq && !(o.acked.contains parity)) = some o)
    (holder : (s.holders o.tgt group)[parity]? = some h) : Ends (.retransmitTimeout ⟨group, tgt⟩ role seq parity) s (s.resendTo o h) := by
  rw [Ends, exec_retransmitTimeout, execRetransmitTimeout, whenServing, if_pos serves]
  simp only [owed, holder]

theorem retransmitTimeout_ends_of_acked {group role seq parity : Nat} {tgt : Bool}
    (acked : ∀ o ∈ s.couch.out, ¬ (o.group = group ∧ o.role = role ∧ o.tgt = tgt ∧ o.seq = seq ∧ parity ∉ o.acked)) :
    Ends (.retransmitTimeout ⟨group, tgt⟩ role seq parity) s s := by
  have none : s.couch.out.find? (fun o => o.group == group && o.role == role && o.tgt == tgt && o.seq == seq && !(o.acked.contains parity)) = none :=
    List.find?_eq_none.mpr fun o mem => by simpa [and_assoc] using acked o mem
  rw [Ends, exec_retransmitTimeout, execRetransmitTimeout, whenServing, if_pos serves]
  simp only [none]

theorem holderSilenceLimit_ends {group parity h : Nat} (holder : (s.holders false group)[parity]? = some h) :
    Ends (.holderSilenceLimit group parity) s
      (if ∃ o ∈ s.couch.out, o.group = group ∧ o.tgt = false ∧ parity ∉ o.acked then (s.evHub 0x3107 (be 2 h ++ be 2 group)).report h 2 else s) := by
  have silent : s.couch.out.any (fun o => o.group == group && !o.tgt && !(o.acked.contains parity)) = true ↔
      ∃ o ∈ s.couch.out, o.group = group ∧ o.tgt = false ∧ parity ∉ o.acked := by
    simp [and_assoc]
  rw [Ends, exec_holderSilenceLimit, execHolderSilenceLimit, whenServing, if_pos serves]
  simp only [holder, silent]

theorem noticeRepeat_ends {f : Bytes} (latest : s.couch.own = some f) : Ends .noticeRepeat s (s.toMembers f) := by
  rw [Ends, exec_noticeRepeat, execNoticeRepeat, whenServing, if_pos serves]
  simp only [latest]

end

/-- Settles O40: an acknowledgement maps every frame of the couch record, and each of the other commands asks for one frame. -/
theorem acknowledgedFramesLeave : Obligations.AcknowledgedFramesLeave := by
  refine ⟨?_, retire_out, fun group role seq parity tgt s serves =>
      ⟨fun o h owed holder => retransmitTimeout_ends serves owed holder, retransmitTimeout_ends_of_acked serves⟩,
    fun group parity h s serves holder => ⟨fun silent => ?_, fun heard => ?_⟩, fun s f serves latest => noticeRepeat_ends serves latest⟩
  · intro tgt r s serves kind c u g role j
    have ends : Ends c s ((s.ce r).gated r.f fun s => s.takeAck tgt r.f) := ackCommand_ends serves kind
    have passes (pass : u.1 = true) : Ends c s (u.2.takeAck tgt r.f) := ends.of_eq (gated_of_pass pass _)
    refine ⟨fun drop => ends.of_eq (gated_of_drop drop _), fun pass other => (passes pass).of_eq (takeAck_of_other other),
      fun pass holder own => ⟨u.2.noteAck tgt r.f, (passes pass).of_eq (takeAck_of_fits ⟨holder, own⟩), rfl, noteAck_out_unacked, ?_⟩⟩
    intro n _ o p before after
    have marked : p = markAcked (ackOf tgt r.f) j o := by
      rw [noteAck_out, List.getElem?_map, before, Option.map_some] at after
      exact (Option.some.inj after).symm
    subst marked
    exact ⟨fun covered => mem_acked_markAcked.mpr (.inr ⟨rfl, ackOf_iff.mpr covered⟩), fun i mem => mem_acked_markAcked.mpr (.inl mem),
      fun i other mem => (mem_acked_markAcked.mp mem).resolve_right fun same => other same.1⟩
  · exact (holderSilenceLimit_ends serves holder).of_eq (if_pos silent)
  · exact (holderSilenceLimit_ends serves holder).of_eq (if_neg fun ⟨o, mem, owed⟩ => heard o mem owed)

end Sys2Proof.Machine
end

section
/-!
What a cut keeps of the list that it adopts (R142, R156), and what PADDOCK keeps of what it discards (R160).
-/

namespace Sys2Proof.Machine

/-! ### After the list is adopted (R142, R156) -/

/-- From a, the state s has kept the halter number, the list, the cut and the proposal accepted. -/
structure KeepsList (a s : State) : Prop where
  members : s.member.members = a.member.members
  cut : s.member.cut = a.member.cut
  accepted : s.member.accepted = a.member.accepted
  dictOk : a.DictOk → s.DictOk
  halter : a.DictOk → s.halter = a.halter

namespace KeepsList

variable {a b s t : State}

theorem refl (a : State) : KeepsList a a := ⟨rfl, rfl, rfl, id, fun _ => rfl⟩

theorem trans (h : KeepsList a b) (k : KeepsList b s) : KeepsList a s :=
  ⟨k.members.trans h.members, k.cut.trans h.cut, k.accepted.trans h.accepted, k.dictOk ∘ h.dictOk, fun d => (k.halter (h.dictOk d)).trans (h.halter d)⟩

/-- Neither these values of the membership nor the scalar objects changed. -/
theorem of (h : KeepsList a s) (members : t.member.members = s.member.members) (cut : t.member.cut = s.member.cut)
    (accepted : t.member.accepted = s.member.accepted) (dict : t.dict = s.dict) : KeepsList a t :=
  h.trans ⟨members, cut, accepted, fun d => by rwa [State.DictOk, dict], fun _ => State.rd_congr dict _⟩

theorem of_quiet (h : KeepsList a s) (quiet : Quiet s t) : KeepsList a t :=
  h.trans ⟨congrArg Member.members quiet.member, congrArg Member.cut quiet.member, congrArg Member.accepted quiet.member, quiet.dictOk,
    fun d => quiet.rd d _ (by decide)⟩

theorem evHub (h : KeepsList a s) {code : Nat} {p : Bytes} : KeepsList a (s.evHub code p) := h.of_quiet (Quiet.refl s).evHub

theorem ev (h : KeepsList a s) {code : Nat} {p : Bytes} : KeepsList a (s.ev code p) := h.of_quiet (Quiet.refl s).ev

theorem evSlice (h : KeepsList a s) {n code : Nat} {p : Bytes} : KeepsList a (s.evSlice n code p) := h.of_quiet (Quiet.refl s).evSlice

theorem send (h : KeepsList a s) {x : Tx} : KeepsList a (s.send x) := h.of_quiet (Quiet.refl s).send

theorem wr {k v : Nat} (other : k ≠ 0x3200_01) (h : KeepsList a s) : KeepsList a (s.wr k v) :=
  h.trans ⟨by rw [State.wr_member], by rw [State.wr_member], by rw [State.wr_member], fun d => State.dictOk_wr d k v,
    fun d => State.rd_wr_ne d other.symm v⟩

theorem incBy {k n : Nat} (other : k ≠ 0x3200_01) (h : KeepsList a s) : KeepsList a (s.incBy k n) := wr other h

theorem inc {k : Nat} (other : k ≠ 0x3200_01) (h : KeepsList a s) : KeepsList a (s.inc k) := wr other h

theorem wrO (h : KeepsList a s) {k off : Nat} {bs : Bytes} : KeepsList a (s.wrO k off bs) := h.of_quiet (Quiet.refl s).wrO

theorem ite {c : Prop} [Decidable c] (hs : KeepsList a s) (ht : KeepsList a t) : KeepsList a (if c then s else t) := by
  split <;> assumption

theorem foldl {β : Type} {f : State → β → State} {l : List β} (hs : KeepsList a s) (hf : ∀ z y, KeepsList a z → KeepsList a (f z y)) :
    KeepsList a (l.foldl f s) :=
  List.foldlRecOn (motive := KeepsList a) l f hs fun z hz y _ => hf z y hz

theorem modCouch (h : KeepsList a s) {f : Couch → Couch} : KeepsList a (s.modCouch f) := of h rfl rfl rfl rfl

theorem modAudit (h : KeepsList a s) {f : Audit → Audit} : KeepsList a (s.modAudit f) := of h rfl rfl rfl rfl

theorem logEntry (h : KeepsList a s) {e : Entry} : KeepsList a (s.logEntry e) := ite h (of h rfl rfl rfl rfl)

theorem journal (h : KeepsList a s) {ty : Nat} {body : Bytes} : KeepsList a (s.journal ty body) := by
  unfold State.journal
  extract_lets +onlyGivenNames r ring m z0 z1 z2
  have h0 : KeepsList a z0 := of h rfl rfl rfl rfl
  have h2 : KeepsList a z2 := wr (by decide) (wr (by decide) h0)
  exact ite (send h2) h2

theorem endOverrun (h : KeepsList a s) : KeepsList a s.endOverrun := by
  unfold State.endOverrun
  split
  · extract_lets z0 z1
    have h0 : KeepsList a z0 := modCouch h
    exact evHub (incBy (by decide) (ite (wr (by decide) h0) h0))
  · exact h

theorem openRepair (h : KeepsList a s) {x cls n : Nat} {reqs : List SReq} : KeepsList a (s.openRepair x cls n reqs) := by
  unfold State.openRepair
  split
  · exact of (inc (by decide) h) rfl rfl rfl rfl
  · exact of h rfl rfl rfl rfl

theorem eraseFelt (h : KeepsList a s) {seg sp n x cause : Nat} : KeepsList a (s.eraseFelt seg sp n x cause) := by
  have spoiled : KeepsList a (s.spoil x (8 * elems sp)) := of h rfl rfl rfl rfl
  exact ite h (evSlice (inc (by decide) (openRepair spoiled)))

theorem feltAdd (h : KeepsList a s) {tgt : Bool} {g sp n : Nat} {ts : List Nat} : KeepsList a (s.feltAdd tgt g sp n ts) := by
  unfold State.feltAdd
  split
  · exact h
  · exact of h rfl rfl rfl rfl

theorem foldVat (h : KeepsList a s) {v : VatLine} : KeepsList a (s.foldVat v) := by
  have freed : KeepsList a { s with couch := { s.couch with vats := s.couch.vats.filter (fun x => ¬ (x = v)) } } := of h rfl rfl rfl rfl
  unfold State.foldVat
  split
  · exact freed
  · split
    · exact eraseFelt h
    · exact feltAdd freed

theorem foldBank (h : KeepsList a s) {b : Nat} : KeepsList a (s.foldBank b) := foldl h fun _ _ k => foldVat k

/-- The couch cut of R142 touches the couch record, the delta log and its own objects. -/
theorem couchCut (h : KeepsList a s) {c : Nat} : KeepsList a (s.couchCut c) := by
  unfold State.couchCut
  extract_lets z0 z1 z2 z3 z4 z5
  have h0 : KeepsList a z0 := foldl (endOverrun h) fun _ _ k => logEntry k
  have h1 : KeepsList a z1 := ite (foldBank h0) h0
  have h2 : KeepsList a z2 := modCouch h1
  exact wr (by decide) (evHub (wr (by decide) (wr (by decide) h2)))

theorem zeroBanks (h : KeepsList a s) {st : Nat} : KeepsList a (s.zeroBanks st) := foldl h fun _ _ k => of k rfl rfl rfl rfl

theorem redCommit (h : KeepsList a s) {c : Nat} : KeepsList a (s.redCommit c) :=
  of (foldl h fun _ _ k => zeroBanks k) rfl rfl rfl rfl

theorem auditSend (h : KeepsList a s) {dev : Nat} {f : Bytes} : KeepsList a (s.auditSend dev f) := by
  unfold State.auditSend
  split
  · exact ite h (send h)
  · exact h

theorem pinChains (h : KeepsList a s) {c lead : Nat} : KeepsList a (s.pinChains c lead) := by
  unfold State.pinChains
  exact ite h (wr (by decide) (modAudit h))

theorem compareWith (h : KeepsList a s) {x : WmRec} : KeepsList a (s.compareWith x) := by
  unfold State.compareWith
  split
  · exact h
  · have differs : KeepsList a ((s.inc 0x8600_02).ev 0x6002 (be 8 x.commit ++ be 2 x.dev ++ be 1 0)) := ev (inc (by decide) h)
    exact ite (ev (wr (by decide) h)) (ite (ite h (wr (by decide) h)) (pinChains (ite (ite h differs) (ev (inc (by decide) (ite h differs))))))

theorem compareCommit (h : KeepsList a s) {c : Nat} : KeepsList a (s.compareCommit c) := by
  unfold State.compareCommit
  extract_lets every
  split
  · exact h
  · split
    · exact h
    · extract_lets body z0 z1 z2 z3
      have h0 : KeepsList a z0 := foldl h fun _ _ k => auditSend k
      have h1 : KeepsList a z1 := wr (by decide) (modAudit h0)
      have h3 : KeepsList a z3 := modAudit (inc (by decide) h1)
      exact ite h3 (foldl h3 fun _ _ k => compareWith k)

theorem foldDone (h : KeepsList a s) {c : Nat} : KeepsList a (s.foldDone c) := by
  unfold State.foldDone
  exact compareCommit (redCommit (journal (inc (by decide) h)))

theorem cutRecord (h : KeepsList a s) {p : Proposal} {c v : Nat} : KeepsList a (s.cutRecord p c v) := by
  unfold State.cutRecord
  exact evHub (journal (wr (by decide) (wr (by decide) h)))

end KeepsList

/-- The number, the list and the cut as R156 steps 1 and 2 set them. -/
def State.takeList (s : State) (p : Proposal) (c : Nat) : State :=
  let ms := if s.lastNumber then s.member.members else p.members
  (if s.lastNumber then s else (s.wr 0x3200_01 p.num).inc 0x8320_01).modMember fun m => { m with
    members := ms, accepted := none, proposal := none, accepts := [], readies := [], doneBeforeCut := s.stepDone
    cut := some (c, p.kind, s.now), suspected := m.suspected.filter (fun d => p.members.contains d)
    suspects := m.suspects.filter (fun x => p.members.contains x.dev), lost := m.lost.filter (fun d => p.members.contains d) }

section
variable {s : State}

/-- Once the list is adopted, only the record of the cut and status 4 are still to come. -/
theorem adoptList_eq (s : State) (p : Proposal) (c v : Nat) :
    ∃ u, KeepsList (s.takeList p c) u ∧ s.adoptList p c v = (u.cutRecord p c v).wr 0x3200_02 4 := by
  unfold State.adoptList
  extract_lets done t ms z0 z1 b z2 z3 z4 late z5 z6 z7
  have h1 : KeepsList z1 z1 := .refl z1
  have h3 : KeepsList z1 z3 := .wr (by decide) (.wrO h1)
  have h5 : KeepsList z1 z5 := .couchCut (.modCouch h3)
  exact ⟨z6, .ite (.foldDone h5) h5, rfl⟩

theorem takeList_dictOk (dict : s.DictOk) (p : Proposal) (c : Nat) : (s.takeList p c).DictOk := by
  unfold State.takeList
  dsimp only
  split
  · exact dict
  · exact State.dictOk_inc (State.dictOk_wr dict ..) _

theorem takeList_halter (dict : s.DictOk) (p : Proposal) (c : Nat) (notLast : s.halter ≠ 0xFFFF_FFFF) : (s.takeList p c).halter = p.num := by
  have goes : s.lastNumber = false := by simpa [State.lastNumber] using notLast
  have number : ((s.wr 0x3200_01 p.num).inc 0x8320_01).rd 0x3200_01 = p.num := by
    rw [State.rd_inc (State.dictOk_wr dict ..), if_neg (by decide), State.rd_wr_self dict]
  simp only [State.takeList, goes, Bool.false_eq_true, if_false]
  exact number

theorem takeList_members (p : Proposal) (c : Nat) (notLast : s.halter ≠ 0xFFFF_FFFF) : (s.takeList p c).member.members = p.members := by
  have goes : s.lastNumber = false := by simpa [State.lastNumber] using notLast
  simp only [State.takeList, goes, Bool.false_eq_true, if_false]
  rfl

theorem journal_rd (dict : s.DictOk) {k : Nat} (apart : k ≠ 0x3203_03 ∧ k ≠ 0x3203_04 ∧ k ∉ quietKeys) (ty : Nat) (body : Bytes) :
    (s.journal ty body).rd k = s.rd k ∧ (s.journal ty body).DictOk := by
  obtain ⟨newest, oldest, quiet⟩ := apart
  unfold State.journal
  extract_lets +onlyGivenNames r ring m z0 z1 z2
  have h0 : z0.DictOk := dict
  have h1 : z1.DictOk := State.dictOk_wr h0 ..
  have h2 : z2.DictOk := State.dictOk_wr h1 ..
  have read : z2.rd k = s.rd k := (State.rd_wr_ne h1 oldest _).trans (State.rd_wr_ne h0 newest _)
  split
  · exact ⟨((Quiet.refl z2).sendTwin.rd h2 k quiet).trans read, (Quiet.refl z2).sendTwin.dictOk h2⟩
  · exact ⟨read, h2⟩

theorem rd_cutRecord_step (dict : s.DictOk) (p : Proposal) (c v : Nat) : (s.cutRecord p c v).rd 0x3200_0D = c := by
  unfold State.cutRecord
  extract_lets z0 z1 lost z2
  have h0 : z0.DictOk := State.dictOk_wr dict ..
  have h1 : z1.DictOk := State.dictOk_wr h0 ..
  obtain ⟨read, h2⟩ := journal_rd h1 (k := 0x3200_0D) (by decide) 3 (le 4 p.num ++ le 1 p.kind ++ le 1 v ++ le 2 lost.length ++ le 8 c ++ le 8 z1.stepDone ++
    padTo 8 ((lost.map (le 2)).flatten))
  calc (z2.evHub 0x3203 (be 4 p.num ++ be 8 c ++ be 1 p.kind)).rd 0x3200_0D
      = z2.rd 0x3200_0D := (Quiet.refl z2).evHub.rd h2 _ (by decide)
    _ = z1.rd 0x3200_0D := read
    _ = z0.rd 0x3200_0D := State.rd_wr_ne h0 (by decide) _
    _ = c := State.rd_wr_self dict ..

/-- What adopting a list sets. -/
theorem adoptList_sets (canon : s.Canon) (p : Proposal) (c v : Nat) :
    (s.halter ≠ 0xFFFF_FFFF → (s.adoptList p c v).halter = p.num ∧ (s.adoptList p c v).member.members = p.members) ∧
      (s.adoptList p c v).member.cut = some (c, p.kind, s.now) ∧ (s.adoptList p c v).member.accepted = none ∧
        (s.adoptList p c v).rd 0x3200_02 = 4 ∧ (s.adoptList p c v).rd 0x3200_0D = c := by
  obtain ⟨u, kept, eq⟩ := adoptList_eq s p c v
  have listed := takeList_dictOk canon.dict p c
  have all : KeepsList (s.takeList p c) (s.adoptList p c v) := eq ▸ kept.cutRecord.wr (by decide)
  have recorded : (u.cutRecord p c v).DictOk := kept.cutRecord.dictOk listed
  refine ⟨fun notLast => ⟨(all.halter listed).trans (takeList_halter canon.dict p c notLast), all.members.trans (takeList_members p c notLast)⟩,
    all.cut, all.accepted, ?_, ?_⟩
  · rw [eq, State.rd_wr_self recorded]
  · rw [eq, State.rd_wr_ne recorded (by decide), rd_cutRecord_step (kept.dictOk listed)]

end

/-! ### PADDOCK (R160) -/

/-- From a, the state s has kept the couch, the membership, the pass, the S-port and the membership status. -/
structure KeepsPaddock (a s : State) : Prop where
  couch : s.couch = a.couch
  member : s.member = a.member
  pass : s.pass = a.pass
  sport : s.sport = a.sport
  dictOk : a.DictOk → s.DictOk
  status : a.DictOk → s.rd 0x3200_02 = a.rd 0x3200_02

@[simp] theorem windowSlot_sport (s : State) (n : Nat) (b : Bytes) : (s.windowSlot n b).sport = s.sport := by
  unfold State.windowSlot
  dsimp only
  split
  · rw [State.wrO_sport]
  · rfl

@[simp] theorem evFrom_sport (s : State) (source code : Nat) (payload : Bytes) : (s.evFrom source code payload).sport = s.sport := by
  unfold State.evFrom
  extract_lets +onlyGivenNames r z0 z1 z2 z3 z4 z5 z6 z7
  have h4 : z4.sport = s.sport := by simp only [z4, z3, z2, z1, z0, windowSlot_sport, State.wrO_sport, State.wr_sport, State.keepRec_sport]
  have h5 : z5.sport = s.sport := by
    simp only [z5]
    split
    · exact h4
    · rw [windowSlot_sport, h4]
  have h7 : z7.sport = s.sport := by
    have h6 : z6.sport = s.sport := (State.inc_sport ..).trans h5
    simp only [z7]
    split
    · exact h6
    · exact h6
  split
  · exact (State.send_sport ..).trans h7
  · exact h7

namespace KeepsPaddock

variable {a b s t : State}

theorem refl (a : State) : KeepsPaddock a a := ⟨rfl, rfl, rfl, rfl, id, fun _ => rfl⟩

theorem trans (h : KeepsPaddock a b) (k : KeepsPaddock b s) : KeepsPaddock a s :=
  ⟨k.couch.trans h.couch, k.member.trans h.member, k.pass.trans h.pass, k.sport.trans h.sport, k.dictOk ∘ h.dictOk,
    fun d => (k.status (h.dictOk d)).trans (h.status d)⟩

theorem evFrom (h : KeepsPaddock a s) {n code : Nat} {p : Bytes} : KeepsPaddock a (s.evFrom n code p) :=
  have quiet : Quiet s (s.evFrom n code p) := (Quiet.refl s).evFrom
  h.trans ⟨quiet.couch, quiet.member, quiet.pass, evFrom_sport .., quiet.dictOk, fun d => quiet.rd d _ (by decide)⟩

theorem wr {k v : Nat} (other : k ≠ 0x3200_02) (h : KeepsPaddock a s) : KeepsPaddock a (s.wr k v) :=
  h.trans ⟨State.wr_couch .., State.wr_member .., State.wr_pass .., State.wr_sport .., fun d => State.dictOk_wr d k v,
    fun d => State.rd_wr_ne d other.symm v⟩

theorem inc {k : Nat} (other : k ≠ 0x3200_02) (h : KeepsPaddock a s) : KeepsPaddock a (s.inc k) := wr other h

theorem modTiers (h : KeepsPaddock a s) {f : Tiers → Tiers} : KeepsPaddock a (s.modTiers f) := h.trans ⟨rfl, rfl, rfl, rfl, id, fun _ => rfl⟩

theorem ite {c : Prop} [Decidable c] (hs : KeepsPaddock a s) (ht : KeepsPaddock a t) : KeepsPaddock a (if c then s else t) := by
  split <;> assumption

/-- The objects of the functions are none of the membership's. -/
theorem functionOff (h : KeepsPaddock a s) (f : Fn) : KeepsPaddock a ((s.wr (0x1203_00 + fnCode f) 0).setFn f 0) := by
  have cleared : KeepsPaddock a (s.wr (0x1203_00 + fnCode f) 0) := wr (by cases f <;> decide) h
  have off := evFrom (n := 0xFF) (code := 0x1202) (p := be 1 (fnCode f) ++ be 1 ((s.wr (0x1203_00 + fnCode f) 0).fn f) ++ be 1 0)
    (wr (k := 0x1202_00 + fnCode f) (v := 0) (by cases f <;> decide) cleared)
  exact ite cleared off

theorem allOff (h : KeepsPaddock a s) : KeepsPaddock a s.allOff :=
  List.foldlRecOn (motive := KeepsPaddock a) fns _ h fun _ k f _ => functionOff k f

theorem setDev (h : KeepsPaddock a s) {n cause : Nat} : KeepsPaddock a (s.setDev n cause) := by
  unfold State.setDev
  extract_lets old z0 z1 z2 z3
  have h1 : KeepsPaddock a z1 := wr (by decide) (wr (by decide) h)
  have h3 : KeepsPaddock a z3 := inc (by decide) (wr (by decide) h1)
  exact ite h (evFrom h3)

end KeepsPaddock

theorem answer_held (s : State) (r : SReq) (status poison : Nat) (data : Bytes) : (s.answer r status poison data).sport.held = s.sport.held := by
  unfold State.answer
  dsimp only
  split
  · rw [State.inc_sport]
  · split
    · rw [State.inc_sport]
    · rfl

theorem failHeld_held (s : State) : s.failHeld.sport.held = [] :=
  List.foldlRecOn (motive := fun t : State => t.sport.held = []) _ _ rfl fun _ empty _ _ => (answer_held ..).trans empty

theorem endOverrun_pass_sport (s : State) : s.endOverrun.pass = s.pass ∧ s.endOverrun.sport = s.sport := by
  unfold State.endOverrun
  split
  · extract_lets z0 z1
    have h1 : z1.pass = s.pass ∧ z1.sport = s.sport := by
      simp only [z1]
      split
      · exact ⟨State.wr_pass .., State.wr_sport ..⟩
      · exact ⟨rfl, rfl⟩
    exact ⟨(Quiet.refl _).evHub.pass.trans ((State.incBy_pass ..).trans h1.1), (evFrom_sport ..).trans ((State.incBy_sport ..).trans h1.2)⟩
  · exact ⟨rfl, rfl⟩

theorem resteer_keeps (s : State) (ks : List RKind) (rs : List Region) : (s.resteer ks rs).couch = s.couch ∧ (s.resteer ks rs).member = s.member ∧
    (s.resteer ks rs).pass = s.pass ∧ (s.resteer ks rs).sport = s.sport := ⟨rfl, rfl, rfl, rfl⟩

/-- What stands of the coded state once it is discarded. -/
theorem discardCoding_leaves (s : State) : s.discardCoding.couch = {} ∧ s.discardCoding.member.dlog = [] ∧ s.discardCoding.member.cut = none ∧
    s.discardCoding.pass = s.pass ∧ s.discardCoding.sport = s.sport := by
  obtain ⟨pass, sport⟩ := endOverrun_pass_sport s
  unfold State.discardCoding
  extract_lets z0 z1 z2 z3 z4 z5
  obtain ⟨c, m, p, q⟩ := resteer_keeps z5 [.felt, .reserve, .spare] []
  rw [c, m, p, q]
  simp only [z5, z4, z3, z2, z1, z0, State.wrO_couch, State.wr_couch, State.modMember_couch, State.modAudit_couch, State.modCouch_couch,
    State.wrO_member, State.wr_member, State.modMember_member, State.wrO_pass, State.wr_pass, State.modMember_pass, State.modAudit_pass,
    State.modCouch_pass, State.wrO_sport, State.wr_sport, State.modMember_sport, State.modAudit_sport, State.modCouch_sport, pass, sport, and_self]

theorem stopPass_keeps (s : State) : s.stopPass.pass.running = false ∧ s.stopPass.sport = s.sport := ⟨rfl, rfl⟩

theorem setDev_dev {s : State} (dict : s.DictOk) (n cause : Nat) : (s.setDev n cause).dev = n := by
  unfold State.setDev
  extract_lets old z0 z1 z2 z3
  split
  · next same => exact same
  · have h0 : z0.DictOk := State.dictOk_wr dict ..
    have h1 : z1.DictOk := State.dictOk_wr h0 ..
    have h2 : z2.DictOk := State.dictOk_wr h1 ..
    have h3 : z3.DictOk := State.dictOk_inc h2 _
    calc (z3.ev 0x1201 (be 1 old ++ be 1 n ++ be 2 cause)).rd 0x1200_01
        = z3.rd 0x1200_01 := (Quiet.refl z3).ev.rd h3 _ (by decide)
      _ = z2.rd 0x1200_01 := State.rd_wr_ne h2 (by decide) _
      _ = z1.rd 0x1200_01 := State.rd_wr_ne h1 (by decide) _
      _ = z0.rd 0x1200_01 := State.rd_wr_ne h0 (by decide) _
      _ = n := State.rd_wr_self dict ..

/-- Entering PADDOCK: what is discarded stays so, the status reads 6 and the device state 7. -/
theorem enterPaddock_sets {s : State} (canon : s.Canon) (elsewhere : s.dev ≠ 7) (c n : Nat) : (s.enterPaddock c n).dev = 7 ∧
    (s.enterPaddock c n).rd 0x3200_02 = 6 ∧ (s.enterPaddock c n).couch = {} ∧ (s.enterPaddock c n).member.dlog = [] ∧
      (s.enterPaddock c n).member.cut = none ∧ (s.enterPaddock c n).pass.running = false ∧ (s.enterPaddock c n).sport.held = [] := by
  unfold State.enterPaddock
  rw [if_neg elsewhere]
  extract_lets z0 z1 z2 z3 z4 z5 z6 z7
  have dict2 : z2.DictOk := ((K.discardCoding (K.stopPass (K.failHeld (K.rfl' s)))).canon canon).dict
  have h3 : KeepsPaddock z2 z3 := .modTiers (.refl z2)
  have dict3 : z3.DictOk := h3.dictOk dict2
  have dict4 : z4.DictOk := State.dictOk_wr dict3 ..
  have h6 : KeepsPaddock z4 z6 := .allOff (.inc (by decide) (.refl z4))
  have h7 : KeepsPaddock z4 z7 := .setDev h6
  have kept : KeepsPaddock z4 (z7.evHub 0x3208 (be 1 c ++ be 4 n)) := .evFrom h7
  obtain ⟨couch, dlog, cut, pass, sport⟩ := discardCoding_leaves z1
  obtain ⟨stopped, sport1⟩ := stopPass_keeps z0
  have couch4 : z4.couch = z2.couch := (State.wr_couch ..).trans h3.couch
  have member4 : z4.member = z2.member := (State.wr_member ..).trans h3.member
  have pass4 : z4.pass = z2.pass := (State.wr_pass ..).trans h3.pass
  have sport4 : z4.sport = z2.sport := (State.wr_sport ..).trans h3.sport
  refine ⟨?dev, ?status, ?couch, ?dlog, ?cut, ?pass, ?held⟩
  case dev => exact ((Quiet.refl z7).evHub.rd (h7.dictOk dict4) _ (by decide)).trans (setDev_dev (h6.dictOk dict4) ..)
  case status => exact (kept.status dict4).trans (State.rd_wr_self dict3 ..)
  case couch => rw [kept.couch, couch4, couch]
  case dlog => rw [kept.member, member4, dlog]
  case cut => rw [kept.member, member4, cut]
  case pass => rw [kept.pass, pass4, pass, stopped]
  case held => rw [kept.sport, sport4, sport, sport1, failHeld_held]

end Sys2Proof.Machine
end

section
/-!
The frames and timers of a membership change (R149, R154, R156, R157, R160, R161, R166).
-/

namespace Sys2Proof.Machine

section
variable {s : State} {r : Rx}

theorem ce_flushing (s : State) (r : Rx) : (s.ce r).flushing = s.flushing := by
  unfold State.ce State.flushing
  split
  · rw [State.inc_couch]
  · rfl

/-- The sender of a frame of the own halter number is noted as heard, where it is a member (R149). -/
def State.heardFrom (s : State) (f : Bytes) : State := if fld f 2 2 ∈ s.member.members then s.hear (fld f 2 2) else s

theorem heardFrom_flushing (s : State) (f : Bytes) : (s.heardFrom f).flushing = s.flushing := by
  unfold State.heardFrom
  split <;> rfl

/-- A frame of this job at the own number passes the gate of a change, whatever the change names. -/
theorem gateChange_of_own (job : s.ourJob f = true) (number : fld f 4 4 = s.halter) (dry : s.flushing = false) (named : List Nat) (k : State → State) :
    s.gateChange f named k = k (s.heardFrom f) := by
  have still := heardFrom_flushing s f
  unfold State.heardFrom at still ⊢
  simp only [State.gateChange, job, number, not_true, Nat.lt_irrefl, false_and, true_and, if_false, List.contains_iff_mem, still, dry, Bool.false_eq_true]

/-! ### CUT and READY (R154, R156, R157, R160) -/

/-- What a Cut does at a unit that has passed the gate. -/
def State.takeCut (s : State) (f : Bytes) : State :=
  match s.member.accepted with
  | none => if fld f 16 4 > s.halter ∧ s.halter ≠ 0 ∧ s.dev ≠ 7 ∧ fld f 2 2 ≤ s.leadOf then s.enterPaddock 2 (fld f 16 4) else s
  | some p =>
    if fld f 16 4 ≠ p.num ∨ fld f 2 2 ≠ p.sender ∨ fld f 64 1 ≠ p.members.length then s
    else (s.adoptCut p (fld f 20 8) (fld f 60 1) 0 ((List.range (fld f 64 1)).map (fun i => fld f (72 + 8 * i) 8))).judgeReadies

theorem exec_cut (r : Rx) (s : State) : exec (.cut r) s = frameRow [0x23] r s fun s => s.gateChange r.f [] fun s => s.takeCut r.f := rfl

section
variable {p : Proposal} {f : Bytes}

theorem takeCut_of_match (accepted : s.member.accepted = some p) (number : fld f 16 4 = p.num) (sender : fld f 2 2 = p.sender)
    (count : fld f 64 1 = p.members.length) : s.takeCut f =
      (s.adoptCut p (fld f 20 8) (fld f 60 1) 0 ((List.range (fld f 64 1)).map (fun i => fld f (72 + 8 * i) 8))).judgeReadies := by
  have same : ¬ (fld f 16 4 ≠ p.num ∨ fld f 2 2 ≠ p.sender ∨ fld f 64 1 ≠ p.members.length) := by simp [number, sender, count]
  simp only [State.takeCut, accepted, if_neg same]

theorem takeCut_of_other (accepted : s.member.accepted = some p)
    (other : fld f 16 4 ≠ p.num ∨ fld f 2 2 ≠ p.sender ∨ fld f 64 1 ≠ p.members.length) : s.takeCut f = s := by
  simp only [State.takeCut, accepted, if_pos other]

theorem takeCut_of_missed (accepted : s.member.accepted = none) (working : s.halter ≠ 0) (newer : s.halter < fld f 16 4) (elsewhere : s.dev ≠ 7)
    (sender : fld f 2 2 ≤ s.leadOf) : s.takeCut f = s.enterPaddock 2 (fld f 16 4) := by
  have missed : fld f 16 4 > s.halter ∧ s.halter ≠ 0 ∧ s.dev ≠ 7 ∧ fld f 2 2 ≤ s.leadOf := ⟨newer, working, elsewhere, sender⟩
  simp only [State.takeCut, accepted, if_pos missed]

end

/-- A Ready replaces the one of its sender and phase, and the lead judges what it holds. -/
def State.takeReady (s : State) (f : Bytes) : State :=
  (s.modMember fun m => { m with
    readies := m.readies.filter (fun x => ¬ (x.dev = fld f 2 2 ∧ x.phase = fld f 20 1)) ++ [⟨fld f 2 2, fld f 20 1, fld f 21 1, fld f 24 8, fld f 32 8⟩] }).judgeReadies

theorem exec_ready (r : Rx) (s : State) : exec (.ready r) s = frameRow [0x24] r s fun s =>
    s.gateChange r.f (match s.member.proposal with | some p => p.members | none => []) fun s => s.takeReady r.f := rfl

section
variable (serves : s.serving = true) (dry : s.flushing = false) (job : (s.ce r).ourJob r.f = true) (number : fld r.f 4 4 = (s.ce r).halter)
include serves dry job number

theorem cut_ends (kind : frameKind r = 0x23) : Ends (.cut r) s (((s.ce r).heardFrom r.f).takeCut r.f) := by
  have ends := ends_of_frameRow (exec_cut r s) serves kind (List.mem_singleton_self _) (by decide)
  exact ends.of_eq (gateChange_of_own job number ((ce_flushing s r).trans dry) [] _)

theorem ready_ends (kind : frameKind r = 0x24) : Ends (.ready r) s (((s.ce r).heardFrom r.f).takeReady r.f) := by
  have ends := ends_of_frameRow (exec_ready r s) serves kind (List.mem_singleton_self _) (by decide)
  exact ends.of_eq (gateChange_of_own job number ((ce_flushing s r).trans dry) _ _)

end

/-! ### The Readys that the lead holds (R154, R157) -/

theorem judgeReadies_of_member (other : s.leadOf ≠ s.own) : s.judgeReadies = s := if_pos other

/-- With a cut and every Ready of phase 2 the lead releases, beyond tolerance where one of them says so. -/
theorem judgeReadies_releases (lead : s.leadOf = s.own) (cut : s.member.cut.isSome = true)
    (ready : ∀ d ∈ s.member.members, ∃ x ∈ s.member.readies, x.phase = 2 ∧ x.dev = d) :
    ∃ g, s.judgeReadies = s.sendRelease (if ∃ x ∈ s.member.readies, x.phase = 2 ∧ x.verdict = 1 then 1 else 0) g := by
  have all : s.member.members.all (fun d => (s.member.readies.filter (·.phase = 2)).any (·.dev = d)) = true := by
    simpa [and_assoc] using ready
  have beyond : ((s.member.readies.filter (·.phase = 2)).any (·.verdict = 1) = true) = ∃ x ∈ s.member.readies, x.phase = 2 ∧ x.verdict = 1 := by
    simp
  refine ⟨(s.member.readies.filter (·.phase = 2)).foldl (fun acc r => acc ||| r.groups) 0, ?_⟩
  rw [State.judgeReadies, if_neg (not_not_intro lead)]
  simp only [cut, all, if_true, beyond]

/-! ### RELEASE, STALE_NOTICE and HOLD_LIMIT (R157, R160) -/

theorem exec_release (r : Rx) (s : State) : exec (.release r) s = frameRow [0x25] r s fun s => s.gated r.f fun s =>
    if fld r.f 16 4 = s.halter ∧ fld r.f 2 2 = s.leadOf then s.takeRelease (fld r.f 28 1) else s := rfl

theorem release_ends (serves : s.serving = true) (kind : frameKind r = 0x25) :
    let u := (s.ce r).gate r.f
    Ends (.release r) s (if u.1 = true ∧ fld r.f 16 4 = u.2.halter ∧ fld r.f 2 2 = u.2.leadOf then u.2.takeRelease (fld r.f 28 1) else u.2) := by
  intro u
  have ends := ends_of_frameRow (exec_release r s) serves kind (List.mem_singleton_self _) (by decide)
  refine ends.of_eq ?_
  cases pass : u.1 with
  | false => rw [gated_of_drop pass, if_neg (fun both => Bool.false_ne_true both.1)]
  | true =>
    rw [gated_of_pass pass]
    simp only [true_and, u]

theorem exec_staleNotice (r : Rx) (s : State) : exec (.staleNotice r) s = frameRow [0x26] r s fun s =>
    if s.ourJob r.f = true ∧ s.halter ≠ 0 ∧ s.flushing = false ∧ s.halter < fld r.f 16 4 ∧ fld r.f 20 2 = s.own
    then s.enterPaddock 1 (fld r.f 16 4) else s := rfl

theorem exec_holdLimit (s : State) : exec .holdLimit s = execHoldLimit s := rfl

theorem holdLimit_ends (serves : s.serving = true) :
    Ends .holdLimit s (if s.member.accepted.isSome ∧ s.halter ≠ 0 ∧ s.flushing = false then s.enterPaddock 3 s.halter else s) := by
  rw [Ends, exec_holdLimit, execHoldLimit, whenServing, if_pos serves]

/-! ### ROLLBACK_COMPLETE (R161, R156, R166) -/

/-- What follows a rollback whose waiting reads are taken: Ready of phase 2 where the domain waits for repair, else the fill is
judged or the rebuild begins. -/
def State.afterRollback (v : State) : State :=
  (if v.rd 0x3200_02 = 5 then v.sendReady 2 0 0 0 else if v.member.filling then v.fillComplete else v.startRebuild.rebuildDone).judgeReadies

/-- The rollback to c has ended: Ready of phase 1 goes, and the reads that waited are taken. -/
def State.takeRollback (s : State) (c : Nat) : State :=
  ((s.endRollback c).sendReady 1 0 ((s.endRollback c).ofld 0x3203_05 8 8) 0).takeReads.afterRollback

theorem exec_rollbackComplete (s : State) : exec .rollbackComplete s = whenServing s fun s =>
    match (if s.member.owed.isEmpty then s.member.rolling else none) with
    | none => s
    | some c => s.takeRollback c := rfl

theorem rollbackComplete_ends_of_none (serves : s.serving = true) (none : s.member.rolling = none ∨ s.member.owed ≠ []) : Ends .rollbackComplete s s := by
  have nothing : (if s.member.owed.isEmpty = true then s.member.rolling else Option.none) = Option.none := by
    split
    · next empty => exact none.resolve_right (not_not_intro (List.isEmpty_iff.mp empty))
    · rfl
  rw [Ends, exec_rollbackComplete, whenServing, if_pos serves, nothing]

theorem rollbackComplete_ends {c : Nat} (serves : s.serving = true) (rolling : s.member.rolling = some c) (owed : s.member.owed = []) :
    Ends .rollbackComplete s (s.takeRollback c) := by
  have due : (if s.member.owed.isEmpty = true then s.member.rolling else none) = some c := by rw [owed, List.isEmpty_nil, if_pos rfl, rolling]
  rw [Ends, exec_rollbackComplete, whenServing, if_pos serves, due]

end

/-- Settles O45: each frame and timer by its own lemma, and the states adopted and discarded by what the operations keep. -/
theorem cutsAndReleasesMoveTheJob : Obligations.CutsAndReleasesMoveTheJob := by
  refine ⟨fun r s serves dry kind job number => ?_, fun s p c v canon => adoptList_sets canon p c v, fun s => rollbackComplete_ends_of_none,
    fun s c serves rolling owed => ?_, fun r s serves dry kind job number => ready_ends serves dry job number kind, fun s => judgeReadies_releases,
    fun s => judgeReadies_of_member, fun r s => release_ends, fun s => holdLimit_ends, fun r s serves kind => ?_,
    fun s c n canon elsewhere => enterPaddock_sets canon elsewhere c n⟩
  · have ends := cut_ends serves dry job number kind
    refine ⟨fun p accepted => ⟨fun same sender count => ?_, fun other => ?_⟩, fun accepted working newer elsewhere sender => ?_⟩
    · exact ends.of_eq (takeCut_of_match accepted same sender count)
    · exact ends.of_eq (takeCut_of_other accepted other)
    · exact ends.of_eq (takeCut_of_missed accepted working newer elsewhere sender)
  · intro u v
    have taken : v = u.takeReads := rfl
    have ends : Ends .rollbackComplete s u.takeReads.afterRollback := rollbackComplete_ends serves rolling owed
    rw [← taken] at ends
    exact ends
  · have ends := ends_of_frameRow (exec_staleNotice r s) serves kind (List.mem_singleton_self _) (by decide)
    exact ends

end Sys2Proof.Machine
end

section
/-!
Suspects, their twins' reports, and members declared lost (R146, R150 to R152, R374).
-/

namespace Sys2Proof.Machine

/-! ### Frames handed over (R384) -/

/-- From a, the state s has only handed frames to the N-port. -/
def OnlySends (a s : State) : Prop := s = { a with tx := s.tx }

namespace OnlySends

variable {a s : State}

theorem refl (a : State) : OnlySends a a := rfl

theorem send (h : OnlySends a s) (x : Tx) : OnlySends a (s.send x) := by
  unfold State.send
  split
  · exact h
  · have same := congrArg (fun t : State => { t with tx := s.tx ++ [x] }) h
    exact same

theorem sendMember (h : OnlySends a s) (dst : Nat) (f : Bytes) : OnlySends a (s.sendMember dst f) := h.send _

theorem foldl {β : Type} {f : State → β → State} {l : List β} (hs : OnlySends a s) (hf : ∀ z y, OnlySends a z → OnlySends a (f z y)) :
    OnlySends a (l.foldl f s) :=
  List.foldlRecOn (motive := OnlySends a) l f hs fun z hz y _ => hf z y hz

theorem member (h : OnlySends a s) : s.member = a.member := by
  have same := congrArg State.member h
  exact same

theorem dict (h : OnlySends a s) : s.dict = a.dict := by
  have same := congrArg State.dict h
  exact same

theorem dictOk (h : OnlySends a s) (ok : a.DictOk) : s.DictOk := by rwa [State.DictOk, h.dict]

end OnlySends

/-! ### A proposal taken, and one made (R152, R153) -/

/-- A proposal stands as accepted, with the time. -/
def State.markAccepted (s : State) (p : Proposal) : State := s.modMember fun m => { m with accepted := some p, acceptedAt := s.now }

/-- A proposal noted as accepted, with the membership status that it shows. -/
def State.noteAccepted (s : State) (p : Proposal) : State :=
  let s := s.markAccepted p
  if p.kind = 1 then s.wr 0x3200_02 3 else if s.halter = 0 then s.wr 0x3200_02 1 else s

/-- From a, the state s has kept the scalar objects and, of the membership, the proposals, the suspects and the lost members. -/
structure KeepsChange (a s : State) : Prop where
  accepted : s.member.accepted = a.member.accepted
  acceptedAt : s.member.acceptedAt = a.member.acceptedAt
  proposal : s.member.proposal = a.member.proposal
  suspects : s.member.suspects = a.member.suspects
  lost : s.member.lost = a.member.lost
  dict : s.dict = a.dict

namespace KeepsChange

variable {a s t : State}

theorem trans (h : KeepsChange a s) (k : KeepsChange s t) : KeepsChange a t :=
  ⟨k.accepted.trans h.accepted, k.acceptedAt.trans h.acceptedAt, k.proposal.trans h.proposal, k.suspects.trans h.suspects, k.lost.trans h.lost,
    k.dict.trans h.dict⟩

theorem of_sends (h : OnlySends a s) : KeepsChange a s :=
  ⟨congrArg Member.accepted h.member, congrArg Member.acceptedAt h.member, congrArg Member.proposal h.member, congrArg Member.suspects h.member,
    congrArg Member.lost h.member, h.dict⟩

theorem sendReady (s : State) (phase verdict lines groups : Nat) : KeepsChange s (s.sendReady phase verdict lines groups) := by
  unfold State.sendReady
  dsimp only
  split
  · exact ⟨rfl, rfl, rfl, rfl, rfl, rfl⟩
  · exact of_sends ((OnlySends.refl s).sendMember ..)

end KeepsChange

/-- From a, the state s has kept the proposal in hand, the suspects, the lost members, and every object but the membership status. -/
structure KeepsLost (a s : State) : Prop where
  proposal : s.member.proposal = a.member.proposal
  suspects : s.member.suspects = a.member.suspects
  lost : s.member.lost = a.member.lost
  rd : a.DictOk → ∀ k, k ≠ 0x3200_02 → s.rd k = a.rd k

section
variable {s : State} {p : Proposal}

/-- After a proposal is noted, the unit's own Accept and a Ready of phase 3 are all that its taking brings. -/
theorem takeProposal_keeps (s : State) (p : Proposal) : KeepsChange (s.noteAccepted p) (s.takeProposal p) := by
  unfold State.takeProposal
  extract_lets z0 z1 z2
  have own : KeepsChange z1 z2 := by
    simp only [z2]
    split
    · exact ⟨rfl, rfl, rfl, rfl, rfl, rfl⟩
    · exact .of_sends ((OnlySends.refl z1).sendMember ..)
  split
  · exact own.trans (.sendReady ..)
  · exact own

theorem noteAccepted_member (s : State) (p : Proposal) : (s.noteAccepted p).member = (s.markAccepted p).member := by
  unfold State.noteAccepted
  dsimp only
  split
  · rw [State.wr_member]
  · split
    · rw [State.wr_member]
    · rfl

theorem noteAccepted_of_loss (loss : p.kind = 1) : s.noteAccepted p = (s.markAccepted p).wr 0x3200_02 3 := if_pos loss

/-- R153: a proposal taken stands as accepted, with its time, and a loss shows status 3. -/
theorem takeProposal_sets (s : State) (p : Proposal) : (s.takeProposal p).member.accepted = some p ∧ (s.takeProposal p).member.acceptedAt = s.now ∧
    (s.Canon → p.kind = 1 → (s.takeProposal p).rd 0x3200_02 = 3) := by
  have kept := takeProposal_keeps s p
  have noted := noteAccepted_member s p
  refine ⟨kept.accepted.trans (congrArg Member.accepted noted), kept.acceptedAt.trans (congrArg Member.acceptedAt noted), fun canon loss => ?_⟩
  have dict : (s.markAccepted p).DictOk := canon.dict
  rw [State.rd_congr kept.dict, noteAccepted_of_loss loss]
  exact State.rd_wr_self dict ..

theorem takeProposal_of_loss (loss : p.kind = 1) : KeepsLost (s.markAccepted p) (s.takeProposal p) := by
  have kept := takeProposal_keeps s p
  have noted := noteAccepted_member s p
  refine ⟨kept.proposal.trans (congrArg Member.proposal noted), kept.suspects.trans (congrArg Member.suspects noted),
    kept.lost.trans (congrArg Member.lost noted), fun ok k other => ?_⟩
  have dict : (s.markAccepted p).DictOk := ok
  rw [State.rd_congr kept.dict, noteAccepted_of_loss loss]
  exact State.rd_wr_ne dict other _

/-- A proposal in hand, with no Accept and no Ready yet. -/
def State.markProposed (s : State) (p : Proposal) : State :=
  s.modMember fun m => { m with proposal := some p, accepts := [], readies := [], proposedAt := s.now }

/-- What the proposal of a loss leaves, taken by the proposer itself or not. -/
theorem proposeAt_of_loss (s : State) (num : Nat) (ms lost : List Nat) (quiet : Nat) :
    KeepsLost (s.markProposed ⟨num, 1, s.own, ms, lost, quiet⟩) (s.proposeAt num 1 ms lost quiet) := by
  unfold State.proposeAt
  extract_lets p z0 z1
  have sent : OnlySends z0 z1 := (OnlySends.refl z0).foldl fun _ _ h => h.sendMember ..
  have told : KeepsLost z0 z1 := ⟨congrArg Member.proposal sent.member, congrArg Member.suspects sent.member, congrArg Member.lost sent.member,
    fun _ k _ => State.rd_congr sent.dict k⟩
  split
  · have taken : KeepsLost (z1.markAccepted p) (z1.takeProposal p) := takeProposal_of_loss rfl
    exact ⟨taken.proposal.trans told.proposal, taken.suspects.trans told.suspects, taken.lost.trans told.lost,
      fun ok k other => (taken.rd (sent.dictOk ok) k other).trans (told.rd ok k other)⟩
  · exact told

end

/-! ### SUSPECT and SILENCE_LIMIT (R150, R151) -/

section
variable {s : State} {r : Rx} {f : Bytes}

theorem leNat_lt (bs : Bytes) : leNat bs < 256 ^ bs.length := by
  induction bs with
  | nil => exact Nat.one_pos
  | cons b bs ih =>
    have byte : b.toNat < 256 := b.isLt
    rw [leNat, List.length_cons, Nat.pow_succ]
    omega

theorem slice_length (f : Bytes) (o n : Nat) : (slice f o n).length = n := by
  simp only [slice, List.length_append, List.length_replicate, List.length_take]
  omega

/-- A field stands below the bound of its width (R7). -/
theorem fld_lt (f : Bytes) (o n : Nat) : fld f o n < 256 ^ n := by
  have below := leNat_lt (slice f o n).reverse
  rwa [List.length_reverse, slice_length] at below

/-- The twin report about a unit: its status, what its latest heartbeat told, and when it was last heard (Table 7-2). -/
def State.twinReport (s : State) (dev : Nat) : Bytes :=
  let b := s.twin.beat.getD []
  s.header 0x27 0 ++ be 2 dev ++ be 1 s.twinStatus ++ zeros 1 ++ be 8 (fld b 4 8) ++ be 8 (fld b 12 8) ++
    be 8 (((s.member.heard.find? (·.1 == dev)).map (·.2)).getD 0)

theorem twinStatus_le (s : State) : s.twinStatus ≤ 4 := by
  unfold State.twinStatus
  split
  · split <;> decide
  · split
    · decide
    · split
      · decide
      · split <;> decide

/-- The fields of a twin report in the order of the wire. -/
def State.twinReportFields (s : State) (dev : Nat) : List (Nat × Nat) :=
  let b := s.twin.beat.getD []
  [(1, 0x27), (1, 0), (2, s.own), (4, s.halter), (8, s.job), (2, dev), (1, s.twinStatus), (1, 0), (8, fld b 4 8), (8, fld b 12 8),
    (8, ((s.member.heard.find? (·.1 == dev)).map (·.2)).getD 0)]

theorem twinReport_eq (s : State) (dev : Nat) : s.twinReport dev = fieldBytes (s.twinReportFields dev) ++ [] := by
  simp only [State.twinReport, State.header, zeros_eq_be, List.append_assoc, State.twinReportFields, fieldBytes_cons]
  rfl

theorem twinReport_reads {dev : Nat} (fits : dev < 256 ^ 2) :
    fld (s.twinReport dev) 0 1 = 0x27 ∧ fld (s.twinReport dev) 16 2 = dev ∧ fld (s.twinReport dev) 18 1 = s.twinStatus := by
  have status : s.twinStatus < 256 ^ 1 := Nat.lt_of_le_of_lt (twinStatus_le s) (by decide)
  rw [twinReport_eq]
  exact ⟨fld_fieldBytes rfl (by decide) _, fld_fieldBytes rfl fits _, fld_fieldBytes rfl status _⟩

/-- The suspect is the twin of this unit. -/
abbrev State.isTwin (s : State) (dev : Nat) : Prop := s.paired = true ∧ dev = s.rd 0x7005_01

/-- What a Suspect report does at a unit that has passed the gate. -/
def State.takeSuspect (s : State) (f : Bytes) : State :=
  if s.leadOf = s.own then s.leadSuspect (fld f 16 2) (fld f 18 1)
  else if s.isTwin (fld f 16 2) then s.sendMember (fld f 2 2) (s.twinReport (fld f 16 2))
  else s

theorem exec_suspect (r : Rx) (s : State) : exec (.suspect r) s = frameRow [0x20] r s fun s => (s.gated r.f fun s => s.takeSuspect r.f).judgeReadies := rfl

theorem suspect_ends (serves : s.serving = true) (kind : frameKind r = 0x20) :
    Ends (.suspect r) s ((s.ce r).gated r.f fun s => s.takeSuspect r.f).judgeReadies := by
  have ends := ends_of_frameRow (exec_suspect r s) serves kind (List.mem_singleton_self _) (by decide)
  exact ends

theorem exec_twinReport (r : Rx) (s : State) : exec (.twinReport r) s = frameRow [0x27] r s fun s =>
    (s.gated r.f fun s => if s.leadOf = s.own then s.twinVerdict (fld r.f 16 2) (fld r.f 18 1) else s).judgeReadies := rfl

theorem twinReport_ends (serves : s.serving = true) (kind : frameKind r = 0x27) : Ends (.twinReport r) s
    ((s.ce r).gated r.f fun s => if s.leadOf = s.own then s.twinVerdict (fld r.f 16 2) (fld r.f 18 1) else s).judgeReadies := by
  have ends := ends_of_frameRow (exec_twinReport r s) serves kind (List.mem_singleton_self _) (by decide)
  exact ends

theorem exec_silenceLimit (dev : Nat) (s : State) : exec (.silenceLimit dev) s = execSilenceLimit dev s := rfl

theorem silenceLimit_ends (serves : s.serving = true) (dev : Nat) :
    Ends (.silenceLimit dev) s (if dev ∈ s.member.members ∧ dev ≠ s.own then (s.report dev 1).judgeReadies else s) := by
  have ends := ends_of_whenServing (exec_silenceLimit dev s) serves
  simpa only [List.contains_iff_mem] using ends

/-! ### A suspect at the lead (R151) -/

/-- The lead forwards a report to the twin of the suspect, where a Join request has named one and it is another unit. -/
def State.forwardSuspect (s : State) (dev cause : Nat) : State :=
  match s.member.joins.find? (·.dev = dev) with
  | some j => if s.paired && decide (dev = s.rd 0x7005_01) then s
    else s.sendMember j.twin (s.header 0x20 0 ++ be 2 dev ++ be 1 cause ++ zeros 1 ++ be 8 (((s.member.heard.find? (·.1 == dev)).map (·.2)).getD 0))
  | none => s

theorem forwardSuspect_sends (s : State) (dev cause : Nat) : OnlySends s (s.forwardSuspect dev cause) := by
  unfold State.forwardSuspect
  split
  · split
    · exact .refl s
    · exact (OnlySends.refl s).sendMember ..
  · exact .refl s

/-- A suspect is listed, once. -/
def State.listSuspect (s : State) (dev cause : Nat) : State :=
  if s.member.suspects.any (·.dev = dev) then s else s.modMember fun m => { m with suspects := m.suspects ++ [⟨dev, cause, s.now, 1, false⟩] }

theorem listSuspect_lists (s : State) (dev cause : Nat) : ∃ x ∈ (s.listSuspect dev cause).member.suspects, x.dev = dev := by
  unfold State.listSuspect
  split
  · next listed => simpa using listed
  · exact ⟨⟨dev, cause, s.now, 1, false⟩, List.mem_append_right _ (List.mem_singleton_self _), rfl⟩

section
variable {dev cause : Nat} (member : dev ∈ s.member.members)
include member

theorem leadSuspect_of_failed (failed : cause = 3 ∨ cause = 4) : s.leadSuspect dev cause = (s.forwardSuspect dev cause).declareLost dev cause := by
  have known : ¬ (¬ s.member.members.contains dev = true) := by simpa using member
  rw [State.leadSuspect, if_neg known]
  exact if_pos failed

theorem leadSuspect_of_silent (silent : ¬ (cause = 3 ∨ cause = 4)) (other : ¬ s.isTwin dev) :
    s.leadSuspect dev cause = (s.forwardSuspect dev cause).listSuspect dev cause := by
  have known : ¬ (¬ s.member.members.contains dev = true) := by simpa using member
  have apart : ¬ (s.paired && decide (dev = s.rd 0x7005_01)) = true := by simpa [State.isTwin] using other
  rw [State.leadSuspect, if_neg known]
  exact (if_neg silent).trans (if_neg apart)

end

/-! ### TWIN_WAIT and TWIN_REPORT (R151) -/

/-- When the suspect was last heard. -/
def State.lastHeard (s : State) (dev : Nat) : Nat := ((s.member.heard.find? (fun y => y.1 == dev)).map (·.2)).getD 0

/-- What the end of a twin wait does at the lead to the suspect x. -/
def State.endTwinWait (s : State) (dev : Nat) (x : SuspectRec) : State :=
  if s.lastHeard dev > x.since then s.modMember fun m => { m with suspects := m.suspects.filter (·.dev ≠ dev) }
  else if x.waits > 1 then
    s.modMember fun m => { m with suspects := mapWhere (fun y => y.dev == dev) (fun y => { y with waits := y.waits - 1 }) m.suspects }
  else s.declareLost dev x.cause

theorem exec_twinWait (dev : Nat) (s : State) : exec (.twinWait dev) s = execTwinWait dev s := rfl

section
variable {dev : Nat} {x : SuspectRec} (found : s.member.suspects.find? (fun y => y.dev = dev) = some x)
include found

theorem twinWait_ends (serves : s.serving = true) (lead : s.leadOf = s.own) : Ends (.twinWait dev) s (s.endTwinWait dev x).judgeReadies := by
  have ends := ends_of_whenServing (exec_twinWait dev s) serves
  simp only [found, if_neg (not_not_intro lead)] at ends
  exact ends

theorem twinVerdict_of_failed {st : Nat} (failed : st = 2 ∨ st = 3 ∨ st = 4) : s.twinVerdict dev st = s.declareLost dev x.cause := by
  simp only [State.twinVerdict, found, if_pos failed]

/-- A twin that still counts on its partner postpones once. -/
theorem twinVerdict_of_alive : s.twinVerdict dev 1 = if x.postponed then s
    else s.modMember fun m => { m with suspects := mapWhere (fun y => y.dev == dev) (fun y => { y with waits := y.waits + 1, postponed := true }) m.suspects } := by
  have alive : ¬ ((1 : Nat) = 2 ∨ (1 : Nat) = 3 ∨ (1 : Nat) = 4) := by decide
  simp only [State.twinVerdict, found, if_neg alive]
  cases x.postponed <;> rfl

end

/-! ### Declared lost (R146, R151, R152) -/

/-- A member listed as lost, and its suspicion ended. -/
def State.listLost (s : State) (dev : Nat) : State :=
  s.modMember fun m => { m with lost := insertSorted dev m.lost, suspects := m.suspects.filter (·.dev ≠ dev) }

/-- A member listed as lost, its loss counted and reported. -/
def State.noteLost (s : State) (dev cause : Nat) : State := ((s.listLost dev).inc 0x8320_02).evHub 0x3202 (be 2 dev ++ be 1 cause)

theorem noteLost_quiet (s : State) (dev cause : Nat) : Quiet ((s.listLost dev).inc 0x8320_02) (s.noteLost dev cause) := (Quiet.refl _).evHub

theorem noteLost_member (s : State) (dev cause : Nat) : (s.noteLost dev cause).member = (s.listLost dev).member :=
  (noteLost_quiet s dev cause).member.trans (State.inc_member ..)

section
variable (dict : s.DictOk) (dev cause : Nat)
include dict

theorem noteLost_dictOk : (s.noteLost dev cause).DictOk := by
  have listed : (s.listLost dev).DictOk := dict
  exact (noteLost_quiet s dev cause).dictOk (State.dictOk_inc listed _)

theorem noteLost_count : (s.noteLost dev cause).rd 0x8320_02 = min (s.rd 0x8320_02 + 1) (objMax 0x8320_02) := by
  have listed : (s.listLost dev).DictOk := dict
  exact ((noteLost_quiet s dev cause).rd (State.dictOk_inc listed _) _ (by decide)).trans (State.rd_wr_self listed ..)

theorem noteLost_rd {k : Nat} (other : k ≠ 0x8320_02 ∧ k ∉ quietKeys) : (s.noteLost dev cause).rd k = s.rd k := by
  have listed : (s.listLost dev).DictOk := dict
  exact ((noteLost_quiet s dev cause).rd (State.dictOk_inc listed _) _ other.2).trans (State.rd_wr_ne listed other.1 _)

end

theorem declareLost_new {dev : Nat} (member : dev ∈ s.member.members) (new : dev ∉ s.member.lost) (cause : Nat) :
    s.declareLost dev cause = (s.noteLost dev cause).proposeLoss := by
  have goes : ¬ (s.member.lost.contains dev = true ∨ ¬ s.member.members.contains dev = true) := by simpa using ⟨new, member⟩
  rw [State.declareLost, if_neg goes]
  rfl

/-- With no proposal in hand a loss is proposed at the next halter number, over the members that are not lost. -/
theorem proposeLoss_next (free : s.member.proposal = none) (notLast : s.halter ≠ 0xFFFF_FFFF) :
    s.proposeLoss = s.proposeAt (s.halter + 1) 1 (s.member.members.filter (fun d => ¬ s.member.lost.contains d)) (sortNat s.member.lost) 0 := by
  have goes : s.lastNumber = false := by simpa [State.lastNumber] using notLast
  simp only [State.proposeLoss, free, goes, Bool.false_eq_true, if_false]

theorem declareLost_sets {dev : Nat} (canon : s.Canon) (member : dev ∈ s.member.members) (new : dev ∉ s.member.lost) (notLast : s.halter ≠ 0xFFFF_FFFF)
    (free : s.member.proposal = none) (cause : Nat) :
    let t := s.declareLost dev cause
    dev ∈ t.member.lost ∧ (∀ y ∈ t.member.suspects, y.dev ≠ dev) ∧ t.rd 0x8320_02 = min (s.rd 0x8320_02 + 1) (objMax 0x8320_02) ∧
      ∃ p, t.member.proposal = some p ∧ p.num = s.halter + 1 ∧ p.kind = 1 ∧ p.sender = s.own ∧ (∀ d, d ∈ p.members ↔ d ∈ s.member.members ∧ d ∉ t.member.lost) := by
  intro t
  let u := s.noteLost dev cause
  have noted : u.member = (s.listLost dev).member := noteLost_member s dev cause
  have halter : u.halter = s.halter := noteLost_rd canon.dict dev cause (by decide)
  have own : u.own = s.own := noteLost_rd canon.dict dev cause (by decide)
  have proposed : t = u.proposeAt (u.halter + 1) 1 (u.member.members.filter (fun d => ¬ u.member.lost.contains d)) (sortNat u.member.lost) 0 :=
    (declareLost_new member new cause).trans (proposeLoss_next ((congrArg Member.proposal noted).trans free) (halter ▸ notLast))
  have kept : KeepsLost _ t := proposed ▸ proposeAt_of_loss ..
  have lost : t.member.lost = u.member.lost := kept.lost
  have listed : u.member.lost = insertSorted dev s.member.lost := congrArg Member.lost noted
  have members : u.member.members = (s.listLost dev).member.members := congrArg Member.members noted
  have ended : t.member.suspects = s.member.suspects.filter (·.dev ≠ dev) := kept.suspects.trans (congrArg Member.suspects noted)
  refine ⟨?_, fun y mem => ?_, ?_, _, kept.proposal, congrArg (· + 1) halter, rfl, own, fun d => ?_⟩
  · rw [lost, listed]
    exact mem_insertSorted_iff.mpr (.inl rfl)
  · rw [ended] at mem
    exact of_decide_eq_true (List.mem_filter.mp mem).2
  · exact (kept.rd (noteLost_dictOk canon.dict dev cause) _ (by decide)).trans (noteLost_count canon.dict dev cause)
  · have current : d ∈ u.member.members ↔ d ∈ s.member.members := by
      rw [members]
      exact Iff.rfl
    rw [lost, ← current]
    simp [List.mem_filter]

end

/-- Settles O43: each frame and timer by its own lemma, and a member declared lost by what the proposal of its loss leaves. -/
theorem suspectsBecomeLost : Obligations.SuspectsBecomeLost := by
  refine ⟨fun r s serves => ?_, fun s dev cause member => ?_, fun dev s serves => silenceLimit_ends serves dev, fun dev s x serves lead found => ?_,
    fun s dev st x found => ?_, fun s dev cause canon member new notLast free => declareLost_sets canon member new notLast free cause⟩
  · intro u dev mine
    refine ⟨fun kind => ?_, fun kind => ⟨fun other => ?_, fun pass lead => ?_⟩⟩
    · have ends := suspect_ends serves kind
      have passes (pass : u.1 = true) : Ends (.suspect r) s (u.2.takeSuspect r.f).judgeReadies :=
        ends.of_eq (congrArg State.judgeReadies (gated_of_pass pass _))
      refine ⟨fun drop => ends.of_eq (congrArg State.judgeReadies (gated_of_drop drop _)), fun pass lead => (passes pass).of_eq ?_,
        fun pass other apart => (passes pass).of_eq ?_, fun pass other twin => ⟨u.2.twinReport dev, (passes pass).of_eq ?_, twinReport_reads (fld_lt ..)⟩⟩
      · exact congrArg State.judgeReadies (if_pos lead)
      · exact congrArg State.judgeReadies ((if_neg other).trans (if_neg apart))
      · exact congrArg State.judgeReadies ((if_neg other).trans (if_pos twin))
    · have ends := twinReport_ends serves kind
      refine ends.of_eq (congrArg State.judgeReadies ?_)
      cases pass : u.1 with
      | false => exact gated_of_drop pass _
      | true => exact (gated_of_pass pass _).trans (if_neg (other.resolve_left (by simp [pass])))
    · exact (twinReport_ends serves kind).of_eq (congrArg State.judgeReadies ((gated_of_pass pass _).trans (if_pos lead)))
  · refine ⟨fun failed => ⟨s.forwardSuspect dev cause, forwardSuspect_sends s dev cause, leadSuspect_of_failed member failed⟩, fun other3 other4 apart => ?_⟩
    rw [leadSuspect_of_silent member (not_or.mpr ⟨other3, other4⟩) apart]
    exact listSuspect_lists ..
  · have ends := twinWait_ends found serves lead
    refine ⟨fun later => ends.of_eq (congrArg State.judgeReadies (if_pos later)), fun silent more => ?_, fun silent last => ?_⟩
    · exact ends.of_eq (congrArg State.judgeReadies ((if_neg (Nat.not_lt.mpr silent)).trans (if_pos more)))
    · exact ends.of_eq (congrArg State.judgeReadies ((if_neg (Nat.not_lt.mpr silent)).trans (if_neg (Nat.not_lt.mpr last))))
  · refine ⟨fun failed => twinVerdict_of_failed found failed, ?_, ?_⟩
    · rintro rfl first
      exact (twinVerdict_of_alive found).trans (if_neg (by simp [first]))
    · rintro rfl again
      exact (twinVerdict_of_alive found).trans (if_pos again)

end Sys2Proof.Machine
end

section
/-!
Proposals taken by a member, and the Accepts that the proposer collects (R153, R154, R156, R160, R173, R308).
-/

namespace Sys2Proof.Machine

/-! ### PROPOSE (R153, R160) -/

/-- The proposal that a frame tells (Table 7-2). -/
def proposalOf (f : Bytes) : Proposal :=
  ⟨fld f 16 4, fld f 20 1, fld f 2 2, idsAt f 32 (fld f 21 1), idsAt f (32 + 2 * fld f 21 1) (fld f 22 1), fld f 24 8⟩

/-- What a proposal does at a unit that has passed the gate. -/
def State.judgeProposal (s : State) (p : Proposal) : State :=
  if s.halter = 0 then
    if p.members.contains s.own ∧ (p.num = 1 ∨ s.member.joining) ∧ s.preferred p.num p.sender then s.takeProposal p else s
  else if ¬ (p.num > s.halter ∨ (s.lastNumber ∧ p.num = s.halter ∧ p.kind = 1)) then s
  else if ¬ p.members.contains s.own then s.enterPaddock 2 p.num
  else if ¬ ((s.leadOf = p.sender ∨ p.sender < s.leadOf) ∨ s.dev = 7) then s
  else if s.dev = 7 ∧ ¬ s.member.joining then s
  else if s.preferred p.num p.sender then s.takeProposal p
  else s

theorem exec_propose (r : Rx) (s : State) :
    exec (.propose r) s = frameRow [0x21] r s fun s => s.gateChange r.f [] fun s => s.judgeProposal (proposalOf r.f) := rfl

section
variable {s : State} {p : Proposal}

theorem judgeProposal_of_start (start : s.halter = 0) (listed : s.own ∈ p.members) (job : p.num = 1 ∨ s.member.joining = true)
    (better : s.preferred p.num p.sender = true) : s.judgeProposal p = s.takeProposal p := by
  rw [State.judgeProposal, if_pos start]
  exact if_pos ⟨List.contains_iff_mem.mpr listed, job, better⟩

section
variable (working : s.halter ≠ 0)
include working

theorem judgeProposal_of_old (old : p.num ≤ s.halter) (notLast : s.halter ≠ 0xFFFF_FFFF) : s.judgeProposal p = s := by
  have lower : ¬ (p.num > s.halter ∨ (s.lastNumber = true ∧ p.num = s.halter ∧ p.kind = 1)) := by
    have goes : s.lastNumber = false := by simpa [State.lastNumber] using notLast
    simp only [goes, Bool.false_eq_true, false_and, or_false]
    exact Nat.not_lt.mpr old
  rw [State.judgeProposal, if_neg working, if_pos lower]

section
variable (newer : s.halter < p.num)
include newer

theorem judgeProposal_of_left_out (out : s.own ∉ p.members) : s.judgeProposal p = s.enterPaddock 2 p.num := by
  have without : ¬ p.members.contains s.own = true := by simpa using out
  rw [State.judgeProposal, if_neg working, if_neg (not_not_intro (.inl newer)), if_pos without]

theorem judgeProposal_of_listed (listed : s.own ∈ p.members) (leads : s.leadOf = p.sender ∨ p.sender < s.leadOf ∨ s.dev = 7)
    (takes : s.dev ≠ 7 ∨ s.member.joining = true) : s.judgeProposal p = if s.preferred p.num p.sender then s.takeProposal p else s := by
  have within : p.members.contains s.own = true := List.contains_iff_mem.mpr listed
  have idle : ¬ (s.dev = 7 ∧ ¬ s.member.joining = true) := fun ⟨seven, still⟩ => takes.elim (· seven) still
  rw [State.judgeProposal, if_neg working, if_neg (not_not_intro (.inl newer)), if_neg (not_not_intro within), if_neg (not_not_intro (or_assoc.mpr leads)),
    if_neg idle]

end

end

/-! ### ACCEPT (R154, R308) -/

/-- An Accept is kept with what it tells, in the place of an earlier one of its sender. -/
def State.keepAccept (s : State) (f : Bytes) : State :=
  s.modMember fun m => { m with
    accepts := m.accepts.filter (·.dev ≠ fld f 2 2) ++ [⟨fld f 2 2, fld f 20 4, fld f 24 8, fld f 32 8, fld f 48 8⟩]
    counts := m.counts.filter (·.1 ≠ fld f 2 2) ++ [(fld f 2 2, fld f 40 4, fld f 44 4)] }

/-- What an Accept does at the proposer of p once it has passed the gate. -/
def State.judgeAccept (s : State) (f : Bytes) (p : Proposal) : State :=
  if fld f 16 4 ≠ p.num ∨ ¬ p.members.contains (fld f 2 2) then s
  else if fld f 20 4 ≥ p.num ∧ fld f 20 4 < 0xFFFF_FFFF then (s.inc 0x8320_05).proposeAt (fld f 20 4 + 1) p.kind p.members p.lost p.quiet
  else if slice f 56 32 ≠ s.settingsKey then s
  else (s.keepAccept f).tryCut

/-- What an Accept does: with no proposal in hand it tells no more than that its sender is heard. -/
def State.gateAccept (s : State) (f : Bytes) : State :=
  match s.member.proposal with
  | none => s.gated f fun s => s
  | some p => s.gateChange f p.members fun s => s.judgeAccept f p

theorem exec_accept (r : Rx) (s : State) : exec (.accept r) s = frameRow [0x22] r s fun s => s.gateAccept r.f := rfl

theorem accept_ends {r : Rx} (serves : s.serving = true) (dry : s.flushing = false) (kind : frameKind r = 0x22)
    (proposed : (s.ce r).member.proposal = some p) (job : (s.ce r).ourJob r.f = true) (number : fld r.f 4 4 = (s.ce r).halter) :
    Ends (.accept r) s (((s.ce r).heardFrom r.f).judgeAccept r.f p) := by
  have ends := ends_of_frameRow (exec_accept r s) serves kind (List.mem_singleton_self _) (by decide)
  refine ends.of_eq ?_
  simp only [State.gateAccept, proposed]
  exact gateChange_of_own job number ((ce_flushing s r).trans dry) _ _

theorem propose_ends {r : Rx} (serves : s.serving = true) (dry : s.flushing = false) (kind : frameKind r = 0x21)
    (job : (s.ce r).ourJob r.f = true) (number : fld r.f 4 4 = (s.ce r).halter) :
    Ends (.propose r) s (((s.ce r).heardFrom r.f).judgeProposal (proposalOf r.f)) := by
  have ends := ends_of_frameRow (exec_propose r s) serves kind (List.mem_singleton_self _) (by decide)
  exact ends.of_eq (gateChange_of_own job number ((ce_flushing s r).trans dry) _ _)

section
variable {f : Bytes}

theorem judgeAccept_of_other (other : fld f 16 4 ≠ p.num ∨ fld f 2 2 ∉ p.members) : s.judgeAccept f p = s := by
  have apart : fld f 16 4 ≠ p.num ∨ ¬ p.members.contains (fld f 2 2) = true := by simpa using other
  exact if_pos apart

section
variable (number : fld f 16 4 = p.num) (listed : fld f 2 2 ∈ p.members)
include number listed

/-- An Accept for the proposal in hand, from a unit of its list. -/
theorem judgeAccept_of_own : s.judgeAccept f p =
    if fld f 20 4 ≥ p.num ∧ fld f 20 4 < 0xFFFF_FFFF then (s.inc 0x8320_05).proposeAt (fld f 20 4 + 1) p.kind p.members p.lost p.quiet
    else if slice f 56 32 ≠ s.settingsKey then s else (s.keepAccept f).tryCut := by
  have own : ¬ (fld f 16 4 ≠ p.num ∨ ¬ p.members.contains (fld f 2 2) = true) := by simp [number, listed]
  exact if_neg own

theorem judgeAccept_of_ahead (ahead : p.num ≤ fld f 20 4) (below : fld f 20 4 < 0xFFFF_FFFF) :
    s.judgeAccept f p = (s.inc 0x8320_05).proposeAt (fld f 20 4 + 1) p.kind p.members p.lost p.quiet :=
  (judgeAccept_of_own number listed).trans (if_pos ⟨ahead, below⟩)

theorem judgeAccept_of_behind (behind : fld f 20 4 < p.num) :
    s.judgeAccept f p = if slice f 56 32 ≠ s.settingsKey then s else (s.keepAccept f).tryCut :=
  (judgeAccept_of_own number listed).trans (if_neg fun ahead => Nat.not_le.mpr behind ahead.1)

end

end

/-! ### The Cut that may follow (R154) -/

section
variable (proposed : s.member.proposal = some p)
include proposed

theorem tryCut_of_missing (missing : ∃ d ∈ p.members, ∀ x ∈ s.member.accepts, x.dev ≠ d) : s.tryCut = s := by
  have lacks : p.members.all (fun d => s.member.accepts.any (·.dev = d)) = false := by simpa using missing
  simp only [State.tryCut, proposed, lacks, Bool.false_eq_true, false_and, not_false_eq_true, if_true]

theorem tryCut_of_loss (loss : p.kind = 1) (complete : ∀ d ∈ p.members, ∃ x ∈ s.member.accepts, x.dev = d) (quorum : s.quorum p.members = true) :
    s.tryCut = s.sendCut p := by
  have all : p.members.all (fun d => s.member.accepts.any (·.dev = d)) = true := by simpa using complete
  simp only [State.tryCut, proposed, all, loss, quorum, true_or, and_true, not_true_eq_false, if_false]

end

/-! ### ACCEPT_TIMEOUT (R154, R173) -/

/-- The units of a proposal's list whose Accept is missing. -/
def State.lackAccept (s : State) (p : Proposal) : List Nat := p.members.filter (fun d => ¬ s.member.accepts.any (·.dev = d))

theorem mem_lackAccept {d : Nat} : d ∈ s.lackAccept p ↔ d ∈ p.members ∧ ∀ x ∈ s.member.accepts, x.dev ≠ d := by
  simp [State.lackAccept]

/-- A member whose Accept is missing is listed as lost, counted and reported, once. -/
def State.loseMissing (s : State) (d : Nat) : State :=
  if ¬ s.member.members.contains d ∨ s.member.lost.contains d then s
  else ((s.modMember fun m => { m with lost := insertSorted d m.lost }).inc 0x8320_02).evHub 0x3202 (be 2 d ++ be 1 1)

theorem loseMissing_of_new {d : Nat} (member : d ∈ s.member.members) (new : d ∉ s.member.lost) : s.loseMissing d =
    ((s.modMember fun m => { m with lost := insertSorted d m.lost }).inc 0x8320_02).evHub 0x3202 (be 2 d ++ be 1 1) := by
  have goes : ¬ (¬ s.member.members.contains d = true ∨ s.member.lost.contains d = true) := by simpa using ⟨member, new⟩
  exact if_neg goes

theorem loseMissing_of_other {d : Nat} (other : d ∉ s.member.members ∨ d ∈ s.member.lost) : s.loseMissing d = s := by
  have stays : ¬ s.member.members.contains d = true ∨ s.member.lost.contains d = true := by simpa using other
  exact if_pos stays

/-- From a, the members of l that were not yet lost have been listed as lost. -/
structure LosesOf (a : State) (l : List Nat) (s : State) : Prop where
  members : s.member.members = a.member.members
  proposal : s.member.proposal = a.member.proposal
  lost : ∀ d, d ∈ s.member.lost ↔ d ∈ a.member.lost ∨ (d ∈ l ∧ d ∈ a.member.members)
  dictOk : a.DictOk → s.DictOk
  counted : a.DictOk → s.rd 0x8320_05 = a.rd 0x8320_05

theorem losesOf_loseMissing (s : State) (d : Nat) : LosesOf s [d] (s.loseMissing d) := by
  by_cases new : d ∈ s.member.members ∧ d ∉ s.member.lost
  · obtain ⟨member, new⟩ := new
    rw [loseMissing_of_new member new]
    have quiet := (Quiet.refl ((s.modMember fun m => { m with lost := insertSorted d m.lost }).inc 0x8320_02)).evHub (c := 0x3202) (p := be 2 d ++ be 1 1)
    have listed := quiet.member.trans (State.inc_member ..)
    refine ⟨by rw [listed]; rfl, by rw [listed]; rfl, fun x => ?_, fun dict => quiet.dictOk (State.dictOk_inc (by exact dict) _), fun dict => ?_⟩
    · rw [listed, State.modMember_member, List.mem_singleton, mem_insertSorted_iff, Or.comm]
      exact or_congr_right ⟨fun same => ⟨same, same ▸ member⟩, And.left⟩
    · exact (quiet.rd (State.dictOk_inc (by exact dict) _) _ (by decide)).trans (State.rd_wr_ne (by exact dict) (by decide) _)
  · have other : d ∉ s.member.members ∨ d ∈ s.member.lost := by
      by_cases member : d ∈ s.member.members
      · exact .inr (by simpa [member] using new)
      · exact .inl member
    rw [loseMissing_of_other other]
    refine ⟨rfl, rfl, fun x => ⟨.inl, ?_⟩, id, fun _ => rfl⟩
    rintro (mem | ⟨single, member⟩)
    · exact mem
    · obtain rfl := List.mem_singleton.mp single
      exact other.resolve_left (not_not_intro member)

theorem losesOf_foldl (l : List Nat) (s : State) : LosesOf s l (l.foldl State.loseMissing s) := by
  induction l generalizing s with
  | nil => exact ⟨rfl, rfl, fun d => by simp, id, fun _ => rfl⟩
  | cons d l ih =>
    have first := losesOf_loseMissing s d
    have rest := ih (s.loseMissing d)
    refine ⟨rest.members.trans first.members, rest.proposal.trans first.proposal, fun x => ?_, rest.dictOk ∘ first.dictOk,
      fun dict => (rest.counted (first.dictOk dict)).trans (first.counted dict)⟩
    rw [List.foldl_cons, rest.lost, first.lost, first.members, List.mem_singleton, List.mem_cons, or_assoc, ← or_and_right]

theorem header_congr {t : State} (dict : t.dict = s.dict) (kind flags : Nat) : t.header kind flags = s.header kind flags := by
  simp only [State.header, State.own, State.halter, State.job, State.rd_congr dict]

theorem header_inc (dict : s.DictOk) (kind flags : Nat) : (s.inc 0x8320_05).header kind flags = s.header kind flags := by
  have kept (k : Nat) (other : k ≠ 0x8320_05) : (s.inc 0x8320_05).rd k = s.rd k := State.rd_wr_ne dict other _
  simp only [State.header, State.own, State.halter, State.job, kept _ (show 0x1000_08 ≠ 0x8320_05 by decide),
    kept _ (show 0x3200_01 ≠ 0x8320_05 by decide), kept _ (show 0x3200_09 ≠ 0x8320_05 by decide)]

/-- A proposal repeated to several units is the same frame each time, since a frame handed over changes no object. -/
theorem foldl_sendProposal {z : State} (same : z.header 0x21 0 = s.header 0x21 0) (l : List Nat) :
    l.foldl (fun t d => t.sendMember d (t.proposeFrame p)) z = l.foldl (fun t d => t.sendMember d (s.proposeFrame p)) z := by
  induction l generalizing z with
  | nil => rfl
  | cons d l ih =>
    have frame : z.proposeFrame p = s.proposeFrame p := by simp only [State.proposeFrame, same]
    rw [List.foldl_cons, List.foldl_cons, frame]
    exact ih ((header_congr ((OnlySends.refl z).sendMember ..).dict ..).trans same)

/-- What ACCEPT_TIMEOUT does with the proposal in hand. -/
def State.repeatProposal (s : State) (p : Proposal) : State :=
  if (s.lackAccept p).isEmpty then s
  else if (s.inc 0x8320_05).halter = 0 then
    (p.members.filter (· ≠ (s.inc 0x8320_05).own)).foldl (fun s d => s.sendMember d (s.proposeFrame p)) (s.inc 0x8320_05)
  else ((s.lackAccept p).foldl State.loseMissing (s.inc 0x8320_05)).proposeLoss.judgeReadies

theorem exec_acceptTimeout (s : State) : exec .acceptTimeout s = execAcceptTimeout s := rfl

theorem acceptTimeout_ends_of_none (serves : s.serving = true) (free : s.member.proposal = none) : Ends .acceptTimeout s s := by
  have ends := ends_of_whenServing (exec_acceptTimeout s) serves
  rw [free] at ends
  exact ends

section
variable (serves : s.serving = true) (proposed : s.member.proposal = some p)
include serves proposed

theorem acceptTimeout_ends : Ends .acceptTimeout s (s.repeatProposal p) := by
  have ends := ends_of_whenServing (exec_acceptTimeout s) serves
  rw [proposed] at ends
  exact ends

variable (missing : ∃ d ∈ p.members, ∀ x ∈ s.member.accepts, x.dev ≠ d) (canon : s.Canon)
include missing canon

theorem acceptTimeout_ends_of_start (start : s.halter = 0) : Ends .acceptTimeout s
    ((p.members.filter (· ≠ s.own)).foldl (fun t d => t.sendMember d (s.proposeFrame p)) (s.inc 0x8320_05)) := by
  obtain ⟨d, mem⟩ := missing
  have lacks : ¬ (s.lackAccept p).isEmpty = true := fun empty => List.ne_nil_of_mem (mem_lackAccept.mpr mem) (List.isEmpty_iff.mp empty)
  have halter : (s.inc 0x8320_05).halter = s.halter := State.rd_wr_ne canon.dict (by decide) _
  have own : (s.inc 0x8320_05).own = s.own := State.rd_wr_ne canon.dict (by decide) _
  refine (acceptTimeout_ends serves proposed).of_eq ?_
  rw [State.repeatProposal, if_neg lacks, if_pos (halter.trans start), own]
  exact foldl_sendProposal (header_inc canon.dict ..) _

theorem acceptTimeout_ends_of_job (working : s.halter ≠ 0) : ∃ u : State, Ends .acceptTimeout s u.proposeLoss.judgeReadies ∧
    u.member.members = s.member.members ∧ u.member.proposal = some p ∧
      (∀ d, d ∈ u.member.lost ↔ d ∈ s.member.lost ∨ (d ∈ p.members ∧ d ∈ s.member.members ∧ ∀ x ∈ s.member.accepts, x.dev ≠ d)) ∧
        u.rd 0x8320_05 = min (s.rd 0x8320_05 + 1) (objMax 0x8320_05) := by
  obtain ⟨d, mem⟩ := missing
  have lacks : ¬ (s.lackAccept p).isEmpty = true := fun empty => List.ne_nil_of_mem (mem_lackAccept.mpr mem) (List.isEmpty_iff.mp empty)
  have kept : (s.inc 0x8320_05).halter = s.halter := State.rd_wr_ne canon.dict (by decide) _
  have halter : (s.inc 0x8320_05).halter ≠ 0 := fun start => working (kept.symm.trans start)
  have loses := losesOf_foldl (s.lackAccept p) (s.inc 0x8320_05)
  refine ⟨(s.lackAccept p).foldl State.loseMissing (s.inc 0x8320_05), (acceptTimeout_ends serves proposed).of_eq ?_, ?_, ?_, fun x => ?_, ?_⟩
  · rw [State.repeatProposal, if_neg lacks, if_neg halter]
  · rw [loses.members, State.inc_member]
  · rw [loses.proposal, State.inc_member, proposed]
  · rw [loses.lost, State.inc_member, mem_lackAccept]
    exact or_congr_right (by rw [and_right_comm, and_assoc])
  · exact (loses.counted (State.dictOk_inc canon.dict _)).trans (State.rd_wr_self canon.dict ..)

end

end

/-- Settles O44: a proposal and an Accept by the case that they fall in, and a timeout by the members that it lists as lost. -/
theorem proposalsAreTakenAndCounted : Obligations.ProposalsAreTakenAndCounted := by
  refine ⟨fun r s serves dry kind job number => ?_, takeProposal_sets, fun r s p serves dry kind proposed job number => ?_,
    fun s p => tryCut_of_missing, fun s p => tryCut_of_loss, fun s p serves proposed missing => ⟨fun start canon => ?_, fun working canon => ?_⟩,
    fun s => acceptTimeout_ends_of_none⟩
  · intro u ms num p
    have ends : Ends (.propose r) s (u.judgeProposal p) := propose_ends serves dry kind job number
    refine ⟨fun working newer => ⟨fun out => ends.of_eq (judgeProposal_of_left_out working newer out), fun listed leads takes => ?_⟩,
      fun working old notLast => ends.of_eq (judgeProposal_of_old working old notLast), fun start listed first better => ?_⟩
    · exact ends.of_eq (judgeProposal_of_listed working newer listed leads takes)
    · exact ends.of_eq (judgeProposal_of_start start listed first better)
  · intro u dev cur
    have ends : Ends (.accept r) s (u.judgeAccept r.f p) := accept_ends serves dry kind proposed job number
    refine ⟨fun other => ends.of_eq (judgeAccept_of_other other), fun same listed ahead below => ends.of_eq (judgeAccept_of_ahead same listed ahead below),
      fun same listed behind key => ?_, fun same listed behind key => ?_⟩
    · exact ends.of_eq ((judgeAccept_of_behind same listed behind).trans (if_pos key))
    · exact ends.of_eq ((judgeAccept_of_behind same listed behind).trans (if_neg (not_not_intro key)))
  · exact acceptTimeout_ends_of_start serves proposed missing canon start
  · exact acceptTimeout_ends_of_job serves proposed missing canon working

end Sys2Proof.Machine
end

section
/-!
Join requests, the reads and the data of a rebuild, and the journal mirror (R149, R158, R161, R166 to R168, R173, R174).
-/

namespace Sys2Proof.Machine

section
variable {s : State} {f : Bytes} {r : Rx}

/-! ### JOIN_REQUEST (R173, R174) -/

/-- What a Join request tells (Table 7-2). -/
def joinReqOf (f : Bytes) : JoinReq := ⟨fld f 2 2, fld f 16 2, decide (fld f 18 1 = 1), fld f 20 4, fld f 24 4, fld f 28 8⟩

/-- A Join request has the unit's settings key and time base (R173). -/
abbrev State.joinMatches (s : State) (f : Bytes) : Prop :=
  slice f 48 32 = s.settingsKey ∧ fld f 36 4 = s.rd 0x3180_01 ∧ fld f 40 8 = s.rd 0x3180_02

/-- A Join request is kept, in the place of an earlier one of its sender. -/
def State.keepJoin (s : State) (f : Bytes) : State :=
  s.modMember fun m => { m with joins := m.joins.filter (·.dev ≠ fld f 2 2) ++ [joinReqOf f] }

/-- A Join request of a job start is kept with the sender's line counts. -/
def State.keepStart (s : State) (f : Bytes) : State :=
  s.modMember fun m => { m with
    joins := m.joins.filter (·.dev ≠ fld f 2 2) ++ [joinReqOf f], counts := m.counts.filter (·.1 ≠ fld f 2 2) ++ [(fld f 2 2, fld f 20 4, fld f 24 4)] }

/-- At job start a matching request is kept, and the start is tried while coding is STARTING (R173). -/
def State.takeStart (s : State) (f : Bytes) : State :=
  if fld f 18 1 = 1 ∨ slice f 48 32 ≠ s.settingsKey ∨ fld f 36 4 ≠ s.rd 0x3180_01 ∨ fld f 40 8 ≠ s.rd 0x3180_02 then s
  else if (s.keepStart f).fn .coding = 1 then (s.keepStart f).tryStart else s.keepStart f

/-- The lead judges a late request (R174). -/
def State.judgeLate (s : State) (f : Bytes) : State :=
  match s.joinRefusal f with
  | some _ => s
  | none => (s.keepJoin f).proposeAt (s.halter + 1) 2 (insertSorted (fld f 2 2) s.member.members) s.member.dead s.quietStep

/-- What a Join request does. -/
def State.takeJoin (s : State) (f : Bytes) : State :=
  if ¬ s.ourJob f then s
  else if s.halter = 0 then s.takeStart f
  else if s.leadOf ≠ s.own ∨ ¬ fld f 18 1 = 1 ∨ s.member.cut.isSome ∨ s.member.proposal.isSome ∨ s.lastNumber then s
  else s.judgeLate f

theorem exec_joinRequest (r : Rx) (s : State) : exec (.joinRequest r) s = frameRow [0x28] r s fun s => s.takeJoin r.f := rfl

theorem joinRequest_ends (serves : s.serving = true) (kind : frameKind r = 0x28) : Ends (.joinRequest r) s ((s.ce r).takeJoin r.f) := by
  have ends := ends_of_frameRow (exec_joinRequest r s) serves kind (List.mem_singleton_self _) (by decide)
  exact ends

theorem takeJoin_of_other (other : s.ourJob f = false) : s.takeJoin f = s := if_pos (by simp [other])

theorem takeStart_of_unfit (unfit : fld f 18 1 = 1 ∨ ¬ s.joinMatches f) : s.takeStart f = s :=
  if_pos (unfit.imp_right fun differs => by rwa [State.joinMatches, Classical.not_and_iff_not_or_not, Classical.not_and_iff_not_or_not] at differs)

theorem takeStart_of_fit (early : fld f 18 1 ≠ 1) (fit : s.joinMatches f) :
    s.takeStart f = if (s.keepStart f).fn .coding = 1 then (s.keepStart f).tryStart else s.keepStart f := by
  obtain ⟨key, period, base⟩ := fit
  exact if_neg (by simp [early, key, period, base])

section
variable (job : s.ourJob f = true)
include job

theorem takeJoin_of_start (start : s.halter = 0) : s.takeJoin f = s.takeStart f := by
  rw [State.takeJoin, if_neg (not_not_intro job), if_pos start]

theorem takeJoin_of_late (working : s.halter ≠ 0) (lead : s.leadOf = s.own) (late : fld f 18 1 = 1) (uncut : s.member.cut = none)
    (free : s.member.proposal = none) (notLast : s.halter ≠ 0xFFFF_FFFF) : s.takeJoin f = s.judgeLate f := by
  have goes : s.lastNumber = false := by simpa [State.lastNumber] using notLast
  have takes : ¬ (s.leadOf ≠ s.own ∨ ¬ fld f 18 1 = 1 ∨ s.member.cut.isSome = true ∨ s.member.proposal.isSome = true ∨ s.lastNumber = true) := by
    simp [lead, late, uncut, free, goes]
  rw [State.takeJoin, if_neg (not_not_intro job), if_neg working, if_neg takes]

end

theorem judgeLate_of_refused {c : Nat} (refused : s.joinRefusal f = some c) : s.judgeLate f = s := by
  simp only [State.judgeLate, refused]

theorem judgeLate_of_granted (granted : s.joinRefusal f = none) : s.judgeLate f =
    (s.keepJoin f).proposeAt (s.halter + 1) 2 (insertSorted (fld f 2 2) s.member.members) s.member.dead s.quietStep := by
  simp only [State.judgeLate, granted]

/-! ### JOIN_REQUEST_REPEAT (R173, R174) -/

theorem exec_joinRequestRepeat (refused : Nat) (s : State) : exec (.joinRequestRepeat refused) s = execJoinRequestRepeat refused s := rfl

theorem joinRequestRepeat_ends_of_refused {c : Nat} (serves : s.serving = true) (joining : s.member.joining = true) (refused : c ≠ 0) :
    Ends (.joinRequestRepeat c) s ((s.modMember fun m => { m with joining := false }).evHub 0x320E (be 1 c)) :=
  (ends_of_whenServing (exec_joinRequestRepeat c s) serves).of_eq (if_pos ⟨joining, refused⟩)

theorem joinRequestRepeat_ends (serves : s.serving = true) : Ends (.joinRequestRepeat 0) s
    (if (s.member.joining = true ∨ (s.fn .coding = 1 ∧ s.halter = 0)) ∧ s.member.accepted = none then s.sendJoin else s) := by
  refine (ends_of_whenServing (exec_joinRequestRepeat 0 s) serves).of_eq ((if_neg fun refused => refused.2 rfl).trans ?_)
  simp only [Option.isNone_iff_eq_none, or_and_right, and_assoc]

/-! ### REBUILD_READ (R161, R166) -/

/-- A Rebuild read waits until it can be answered. -/
def State.awaitRead (s : State) (f : Bytes) : State := s.modMember fun m => { m with reads := m.reads ++ [f] }

/-- How many lines a Rebuild read asks for, as far as the band reaches. -/
def State.readCount (s : State) (f : Bytes) : Nat := min (fld f 19 1) (s.band false (fld f 18 1) - fld f 20 4)

/-- The state in which the first line that a Rebuild read cannot have is under repair; none when it can have every line. -/
def State.readStopped (s : State) (f : Bytes) : Option State :=
  (List.range (s.readCount f)).findSome? fun i => s.readBlocked (fld f 16 2) (fld f 24 1) (fld f 18 1) (fld f 20 4 + i)

/-- The answer to a Rebuild read: the images that there are, if any. -/
def State.answerRead (s : State) (f : Bytes) : State :=
  let lines := s.roleImages (fld f 16 2) (fld f 24 1) (fld f 18 1) (fld f 20 4) (s.readCount f)
  if lines.isEmpty then s else s.sendMember (fld f 2 2) (s.rebuildFrame (fld f 16 2) (fld f 18 1) (fld f 20 4) (fld f 24 1) lines)

theorem takeRead_of_rolling (rolling : s.member.rolling.isSome = true) : s.takeRead f = s.awaitRead f := if_pos rolling

theorem takeRead_of_still (still : s.member.rolling = none) :
    s.takeRead f = ((s.readStopped f).map (State.awaitRead · f)).getD (s.answerRead f) := by
  have rolls : ¬ s.member.rolling.isSome = true := by simp [still]
  refine (if_neg rolls).trans ?_
  unfold State.readStopped State.readCount
  cases (List.range (min (fld f 19 1) (s.band false (fld f 18 1) - fld f 20 4))).findSome?
    fun i => s.readBlocked (fld f 16 2) (fld f 24 1) (fld f 18 1) (fld f 20 4 + i) <;> rfl

theorem exec_rebuildRead (r : Rx) (s : State) : exec (.rebuildRead r) s = frameRow [0x29] r s fun s => s.gated r.f fun s => s.takeRead r.f := rfl

theorem rebuildRead_ends (serves : s.serving = true) (kind : frameKind r = 0x29) (pass : ((s.ce r).gate r.f).1 = true) :
    Ends (.rebuildRead r) s (((s.ce r).gate r.f).2.takeRead r.f) := by
  have ends := ends_of_frameRow (exec_rebuildRead r s) serves kind (List.mem_singleton_self _) (by decide)
  exact ends.of_eq (gated_of_pass pass _)

/-! ### REBUILD_DATA (R167, R168) -/

/-- The lines of a Rebuild data frame (Table 7-2). -/
def rebuildLines (f : Bytes) : List (List Nat) :=
  (List.range (fld f 19 1)).map fun i => (List.range (elems (fld f 18 1))).map fun x => fld f (40 + 8 * (i * elems (fld f 18 1) + x)) 8

/-- The check that the lines of a Rebuild data frame give. -/
def rebuildCheck (f : Bytes) : Nat :=
  couchCheck (elems (fld f 18 1)) ((List.range (fld f 19 1)).map fun i => (i, ((rebuildLines f).getD i []).map Int.ofNat))

/-- A Rebuild data frame has the length of its lines, canonical words and the check that they give. -/
abbrev rebuildSound (f : Bytes) : Prop :=
  fld f 18 1 ≤ 1 ∧ f.length = 40 + 8 * fld f 19 1 * elems (fld f 18 1) ∧ (∀ l ∈ rebuildLines f, ∀ w ∈ l, canonical w = true) ∧
    fld f 32 8 = rebuildCheck f

/-- The line of image i of a Rebuild data frame: its group, space, stripe and role. -/
def imageLine (f : Bytes) (i : Nat) : Nat × Nat × Nat × Nat := (fld f 16 2, fld f 18 1, fld f 20 4 + i, fld f 24 1)

/-- A line is awaited no more. -/
def State.unawait (s : State) (l : Nat × Nat × Nat × Nat) : State := s.modMember fun m => { m with awaited := m.awaited.filter (fun a => ¬ (a = l)) }

/-- Image i of a sound frame: stored where its line is awaited, or kept for the stripe that this unit decodes. -/
def State.takeImage (s : State) (f : Bytes) (i : Nat) : State :=
  if s.member.awaited.contains (imageLine f i) then
    (s.unawait (imageLine f i)).storeRebuilt (fld f 16 2) (fld f 24 1) (fld f 18 1) (fld f 20 4 + i) ((rebuildLines f).getD i [])
  else if s.member.decode.contains (fld f 16 2, fld f 18 1, fld f 20 4 + i) then
    (s.modMember fun m => { m with images := m.images ++ [⟨fld f 16 2, fld f 18 1, fld f 20 4 + i, fld f 24 1, (rebuildLines f).getD i []⟩] }).tryStripe
      (fld f 16 2) (fld f 18 1) (fld f 20 4 + i)
  else s

/-- What a Rebuild data frame does at a unit that has passed the gate. -/
def State.takeRebuild (s : State) (f : Bytes) : State :=
  if fld f 19 1 = 0 then (s.unawait (fld f 16 2, fld f 18 1, fld f 20 4, fld f 24 1)).rebuildDone.judgeReadies
  else if fld f 18 1 > 1 ∨ f.length ≠ 40 + 8 * fld f 19 1 * elems (fld f 18 1) ∨ rebuildCheck f ≠ fld f 32 8 ∨
      (rebuildLines f).any (fun l => l.any (fun w => ¬ canonical w)) then s
  else ((List.range (fld f 19 1)).foldl (fun s i => s.takeImage f i) s).rebuildDone.judgeReadies

theorem exec_rebuildData (r : Rx) (s : State) : exec (.rebuildData r) s = frameRow [0x2A] r s fun s => s.gated r.f fun s => s.takeRebuild r.f := rfl

theorem rebuildData_ends (serves : s.serving = true) (kind : frameKind r = 0x2A) (pass : ((s.ce r).gate r.f).1 = true) :
    Ends (.rebuildData r) s (((s.ce r).gate r.f).2.takeRebuild r.f) := by
  have ends := ends_of_frameRow (exec_rebuildData r s) serves kind (List.mem_singleton_self _) (by decide)
  exact ends.of_eq (gated_of_pass pass _)

theorem rebuildSound_iff (f : Bytes) : (fld f 18 1 > 1 ∨ f.length ≠ 40 + 8 * fld f 19 1 * elems (fld f 18 1) ∨ rebuildCheck f ≠ fld f 32 8 ∨
    (rebuildLines f).any (fun l => l.any (fun w => ¬ canonical w)) = true) ↔ ¬ rebuildSound f := by
  have words : (rebuildLines f).any (fun l => l.any (fun w => ¬ canonical w)) = true ↔ ¬ ∀ l ∈ rebuildLines f, ∀ w ∈ l, canonical w = true := by
    simp
  rw [words, rebuildSound, Classical.not_and_iff_not_or_not, Classical.not_and_iff_not_or_not, Classical.not_and_iff_not_or_not, Nat.not_le, or_comm (a := rebuildCheck f ≠ fld f 32 8), ne_comm (a := rebuildCheck f)]

theorem takeRebuild_of_empty (empty : fld f 19 1 = 0) :
    s.takeRebuild f = (s.unawait (fld f 16 2, fld f 18 1, fld f 20 4, fld f 24 1)).rebuildDone.judgeReadies := if_pos empty

theorem takeRebuild_of_unsound (lines : fld f 19 1 ≠ 0) (unsound : ¬ rebuildSound f) : s.takeRebuild f = s := by
  rw [State.takeRebuild, if_neg lines, if_pos ((rebuildSound_iff f).mpr unsound)]

/-- One awaited line of a sound frame is stored. -/
theorem takeRebuild_of_awaited (sound : rebuildSound f) (single : fld f 19 1 = 1)
    (awaited : (fld f 16 2, fld f 18 1, fld f 20 4, fld f 24 1) ∈ s.member.awaited) : s.takeRebuild f =
      ((s.unawait (fld f 16 2, fld f 18 1, fld f 20 4, fld f 24 1)).storeRebuilt (fld f 16 2) (fld f 24 1) (fld f 18 1) (fld f 20 4)
        ((rebuildLines f).getD 0 [])).rebuildDone.judgeReadies := by
  have lines : fld f 19 1 ≠ 0 := by simp [single]
  have due : s.member.awaited.contains (imageLine f 0) = true := List.contains_iff_mem.mpr awaited
  have image : s.takeImage f 0 = (s.unawait (imageLine f 0)).storeRebuilt (fld f 16 2) (fld f 24 1) (fld f 18 1) (fld f 20 4 + 0) ((rebuildLines f).getD 0 []) :=
    if_pos due
  have all : (List.range (fld f 19 1)).foldl (fun s i => s.takeImage f i) s = s.takeImage f 0 := by rw [single]; rfl
  rw [State.takeRebuild, if_neg lines, if_neg (fun bad => (rebuildSound_iff f).mp bad sound), all, image]
  rfl

/-! ### JOURNAL_MIRROR (R149, R158) -/

/-- The records of a mirror frame stand newest first, as far as 16 MiB hold them. -/
def State.mirror (s : State) (f : Bytes) : State :=
  (s.hearFrame f).modMember fun m => { m with mirror := ringFit (2 ^ 24) ((mirrorRecs (fld f 24 2) 32 f).reverse ++ m.mirror) }

/-- A mirror frame of the paired twin, of this job. -/
abbrev State.mirrorsTwin (s : State) (f : Bytes) : Prop := s.paired = true ∧ fld f 2 2 = s.rd 0x7005_01 ∧ s.ourJob f = true

/-- What a mirror frame does. -/
def State.takeMirror (s : State) (f : Bytes) : State :=
  if ¬ s.paired ∨ fld f 2 2 ≠ s.rd 0x7005_01 ∨ ¬ s.ourJob f then s
  else if fld f 4 4 < s.halter then s.staleNotice f
  else s.mirror f

theorem exec_journalMirror (r : Rx) (s : State) : exec (.journalMirror r) s = frameRow [0x2B] r s fun s => s.takeMirror r.f := rfl

theorem journalMirror_ends (serves : s.serving = true) (kind : frameKind r = 0x2B) : Ends (.journalMirror r) s ((s.ce r).takeMirror r.f) := by
  have ends := ends_of_frameRow (exec_journalMirror r s) serves kind (List.mem_singleton_self _) (by decide)
  exact ends

theorem takeMirror_of_other (other : ¬ s.mirrorsTwin f) : s.takeMirror f = s :=
  if_pos (by rwa [State.mirrorsTwin, Classical.not_and_iff_not_or_not, Classical.not_and_iff_not_or_not] at other)

theorem takeMirror_of_twin (twin : s.mirrorsTwin f) : s.takeMirror f = if fld f 4 4 < s.halter then s.staleNotice f else s.mirror f := by
  obtain ⟨paired, sender, job⟩ := twin
  exact if_neg (by simp [paired, sender, job])

end

/-- Settles O46: each frame and timer by its own lemma, in the cases that it distinguishes. -/
theorem joinsRebuildsAndMirrors : Obligations.JoinsRebuildsAndMirrors := by
  refine ⟨fun r s serves kind other => (joinRequest_ends serves kind).of_eq (takeJoin_of_other other), fun r s serves kind job => ?_,
    fun s c serves joining refused => joinRequestRepeat_ends_of_refused serves joining refused, fun s serves => joinRequestRepeat_ends serves,
    fun r s serves kind pass => ?_, fun r s serves kind pass => ?_, fun r s serves kind => ?_⟩
  · intro u dev j good
    have ends := joinRequest_ends serves kind
    refine ⟨fun start unfit => ?_, fun start early fit => ?_, fun working lead late uncut free notLast => ?_⟩
    · exact ends.of_eq ((takeJoin_of_start job start).trans (takeStart_of_unfit unfit))
    · exact ends.of_eq ((takeJoin_of_start job start).trans (takeStart_of_fit early fit))
    · have judged := ends.of_eq (takeJoin_of_late job working lead late uncut free notLast)
      exact ⟨fun c refused => judged.of_eq (judgeLate_of_refused refused), fun granted => judged.of_eq (judgeLate_of_granted granted)⟩
  · intro u g sp t n blocked lines
    have ends : Ends (.rebuildRead r) s (u.takeRead r.f) := rebuildRead_ends serves kind pass
    have still (quiet : u.member.rolling = none) {o : Option State} (stopped : blocked = o) :
        u.takeRead r.f = (o.map (State.awaitRead · r.f)).getD (u.answerRead r.f) := stopped ▸ takeRead_of_still quiet
    exact ⟨fun rolling => ends.of_eq (takeRead_of_rolling rolling), fun v quiet stopped => ends.of_eq (still quiet stopped),
      fun quiet free => ends.of_eq (still quiet free)⟩
  · intro u e ls good v
    have ends : Ends (.rebuildData r) s (u.takeRebuild r.f) := rebuildData_ends serves kind pass
    exact ⟨fun empty => ends.of_eq (takeRebuild_of_empty empty), fun lines unsound => ends.of_eq (takeRebuild_of_unsound lines unsound),
      fun sound single awaited => ends.of_eq (takeRebuild_of_awaited sound single awaited)⟩
  · intro u ours
    have ends : Ends (.journalMirror r) s (u.takeMirror r.f) := journalMirror_ends serves kind
    refine ⟨fun other => ends.of_eq (takeMirror_of_other other), fun twin older => ?_, fun twin current => ?_⟩
    · exact ends.of_eq ((takeMirror_of_twin twin).trans (if_pos older))
    · exact ends.of_eq ((takeMirror_of_twin twin).trans (if_neg (Nat.not_lt.mpr current)))

end Sys2Proof.Machine
end

section
/-!
What events, a unit failure and an abandoned snapshot leave of the stored data's protection (R180, R289, R300, R358).
-/

namespace Sys2Proof.Machine

/-- The counts of repairs that ended and that failed. -/
def repairCounts : List Nat := [0x8510_06, 0x8510_0A]

theorem repairCounts_apart : ∀ k ∈ repairCounts, k ∉ quietKeys := by decide

/-- From a, the state s has kept host memory, the repair entries, the marks of SRAM rows, and the counts of repairs. -/
structure KeepsStored (a s : State) : Prop where
  mem : s.mem = a.mem
  repairs : s.prot.repairs = a.prot.repairs
  rows : s.prot.poisonRows = a.prot.poisonRows
  dictOk : a.DictOk → s.DictOk
  rd : a.DictOk → ∀ k ∈ repairCounts, s.rd k = a.rd k

@[simp] theorem windowSlot_prot (s : State) (n : Nat) (b : Bytes) : (s.windowSlot n b).prot = s.prot := by
  unfold State.windowSlot
  dsimp only
  split
  · rw [State.wrO_prot]
  · rfl

theorem evFrom_prot (s : State) (source code : Nat) (payload : Bytes) : (s.evFrom source code payload).prot = s.prot := by
  unfold State.evFrom
  extract_lets +onlyGivenNames r z0 z1 z2 z3 z4 z5 z6 z7
  have h4 : z4.prot = s.prot := by simp only [z4, z3, z2, z1, z0, windowSlot_prot, State.wrO_prot, State.wr_prot, State.keepRec_prot]
  have h5 : z5.prot = s.prot := by
    simp only [z5]
    split
    · exact h4
    · rw [windowSlot_prot, h4]
  have h6 : z6.prot = s.prot := (State.inc_prot ..).trans h5
  have h7 : z7.prot = s.prot := by
    simp only [z7]
    split
    · exact h6
    · exact h6
  split
  · exact (State.send_prot ..).trans h7
  · exact h7

namespace KeepsStored

variable {a b s t : State}

theorem refl (a : State) : KeepsStored a a := ⟨rfl, rfl, rfl, id, fun _ _ _ => rfl⟩

theorem trans (h : KeepsStored a b) (k : KeepsStored b s) : KeepsStored a s :=
  ⟨k.mem.trans h.mem, k.repairs.trans h.repairs, k.rows.trans h.rows, k.dictOk ∘ h.dictOk,
    fun d x hx => (k.rd (h.dictOk d) x hx).trans (h.rd d x hx)⟩

/-- A further change of what nothing here speaks of. -/
theorem of (h : KeepsStored a s) (mem : t.mem = s.mem) (repairs : t.prot.repairs = s.prot.repairs) (rows : t.prot.poisonRows = s.prot.poisonRows)
    (dict : t.dict = s.dict) : KeepsStored a t :=
  h.trans ⟨mem, repairs, rows, fun d => by rwa [State.DictOk, dict], fun _ k _ => State.rd_congr dict k⟩

/-- A quiet change that leaves the record of the protection. -/
theorem of_quiet (h : KeepsStored a s) (quiet : Quiet s t) (prot : t.prot = s.prot) : KeepsStored a t :=
  h.trans ⟨quiet.mem, congrArg Prot.repairs prot, congrArg Prot.poisonRows prot, quiet.dictOk, fun d k hk => quiet.rd d k (repairCounts_apart k hk)⟩

theorem wr {k v : Nat} (other : k ∉ repairCounts) (h : KeepsStored a s) : KeepsStored a (s.wr k v) :=
  h.trans ⟨State.wr_mem .., by rw [State.wr_prot], by rw [State.wr_prot], fun d => State.dictOk_wr d k v,
    fun d _ hx => State.rd_wr_ne d (ne_of_mem_of_not_mem hx other) v⟩

theorem inc {k : Nat} (other : k ∉ repairCounts) (h : KeepsStored a s) : KeepsStored a (s.inc k) := wr other h

theorem wrO (h : KeepsStored a s) {k off : Nat} {bs : Bytes} : KeepsStored a (s.wrO k off bs) :=
  h.of_quiet (Quiet.refl s).wrO (State.wrO_prot ..)

theorem evFrom (h : KeepsStored a s) {n code : Nat} {p : Bytes} : KeepsStored a (s.evFrom n code p) :=
  h.of_quiet (Quiet.refl s).evFrom (evFrom_prot ..)

theorem send (h : KeepsStored a s) {x : Tx} : KeepsStored a (s.send x) := h.of_quiet (Quiet.refl s).send (State.send_prot ..)

theorem ite {c : Prop} [Decidable c] (hs : KeepsStored a s) (ht : KeepsStored a t) : KeepsStored a (if c then s else t) := by
  split <;> assumption

theorem foldl {β : Type} {f : State → β → State} {l : List β} (hs : KeepsStored a s) (hf : ∀ z y, KeepsStored a z → KeepsStored a (f z y)) :
    KeepsStored a (l.foldl f s) :=
  List.foldlRecOn (motive := KeepsStored a) l f hs fun z hz y _ => hf z y hz

theorem evSecond (h : KeepsStored a s) {code : Nat} {p : Bytes} : KeepsStored a (s.evSecond code p) := by
  have noted : KeepsStored a { s with log := { s.log with limited := (code, s.now / 1000000000) :: s.log.limited.filter (·.1 ≠ code) } } := of h rfl rfl rfl rfl
  exact ite h (evFrom noted)

/-! ### A unit failure (R354, R358) -/

theorem answer (h : KeepsStored a s) {r : SReq} {status poison : Nat} {data : Bytes} : KeepsStored a (s.answer r status poison data) := by
  have told : KeepsStored a { s with sport := { s.sport with resp := s.sport.resp ++ [⟨r.slice, r.kind, status, r.tag, poison, data⟩] } } := of h rfl rfl rfl rfl
  exact ite (inc (by decide) told) (ite (inc (by decide) told) told)

theorem failHeld (h : KeepsStored a s) : KeepsStored a s.failHeld := by
  have emptied : KeepsStored a { s with sport := { s.sport with held := [] } } := of h rfl rfl rfl rfl
  exact foldl emptied fun _ _ k => answer k

theorem sendSuspect (h : KeepsStored a s) {dev cause : Nat} : KeepsStored a (s.sendSuspect dev cause) := ite h (evFrom (send h))

theorem sendBeat (h : KeepsStored a s) : KeepsStored a s.sendBeat := ite h (inc (by decide) (send h))

/-- The objects of the functions count no repairs. -/
theorem functionOff (h : KeepsStored a s) (f : Fn) : KeepsStored a ((s.wr (0x1203_00 + fnCode f) 0).setFn f 0) := by
  have cleared : KeepsStored a (s.wr (0x1203_00 + fnCode f) 0) := wr (by cases f <;> decide) h
  have off := evFrom (n := 0xFF) (code := 0x1202) (p := be 1 (fnCode f) ++ be 1 ((s.wr (0x1203_00 + fnCode f) 0).fn f) ++ be 1 0)
    (wr (k := 0x1202_00 + fnCode f) (v := 0) (by cases f <;> decide) cleared)
  exact ite cleared off

theorem allOff (h : KeepsStored a s) : KeepsStored a s.allOff := foldl h fun _ f k => functionOff k f

theorem setDev (h : KeepsStored a s) {n cause : Nat} : KeepsStored a (s.setDev n cause) :=
  ite h (evFrom (inc (by decide) (wr (by decide) (wr (by decide) (wr (by decide) h)))))

theorem unitFailed (h : KeepsStored a s) {code n : Nat} : KeepsStored a (s.unitFailed code n) := by
  unfold State.unitFailed
  extract_lets +onlyGivenNames _ _ z0 z1 z2 z3 z4 z5 z6
  have h1 : KeepsStored a z1 := failHeld (of h rfl rfl rfl rfl)
  have h2 : KeepsStored a z2 := ite h1 (sendSuspect h1)
  have h3 : KeepsStored a z3 := ite (sendBeat h2) h2
  have h6 : KeepsStored a z6 := wr (by decide) (wr (by decide) (evFrom h3))
  exact setDev (allOff h6)

/-! ### A snapshot abandoned (R180, R181) -/

theorem refreshAdaptive (h : KeepsStored a s) : KeepsStored a s.refreshAdaptive := wr (by decide) (wr (by decide) h)

theorem takeSnapReport (h : KeepsStored a s) {dev outcome number cost : Nat} : KeepsStored a (s.takeSnapReport dev outcome number cost) := by
  unfold State.takeSnapReport
  exact ite h (refreshAdaptive (of h rfl rfl rfl rfl))

theorem snapReport (h : KeepsStored a s) {step outcome reason number cost size : Nat} :
    KeepsStored a (s.snapReport step outcome reason number cost size) := ite (takeSnapReport h) (send h)

theorem freeChains (h : KeepsStored a s) : KeepsStored a s.freeChains := of h rfl rfl rfl rfl

theorem abandonSnap (h : KeepsStored a s) {reason : Nat} : KeepsStored a (s.abandonSnap reason) := by
  unfold State.abandonSnap
  split
  · exact h
  · next c _ =>
    refine ite (of h rfl rfl rfl rfl) ?_
    extract_lets c z0 z1 z2 z3 z4 z5
    have h1 : KeepsStored a z1 := of h rfl rfl rfl rfl
    have h2 : KeepsStored a z2 := ite (wrO h1) (wrO h1)
    have h5 : KeepsStored a z5 := evFrom (inc (by decide) (wr (by decide) h2))
    exact snapReport (freeChains h5)

/-! ### The retirement list (R300, R301) -/

theorem refreshStalls (h : KeepsStored a s) : KeepsStored a s.refreshStalls := by
  unfold State.refreshStalls
  exact wr (by decide) (wr (by decide) (wr (by decide) (wr (by decide) h)))

theorem showRetired (h : KeepsStored a s) : KeepsStored a s.showRetired := wr (by decide) (wrO h)

theorem retirePlace (h : KeepsStored a s) {addr kind cause cls outcome waiters byVedel : Nat} :
    KeepsStored a (s.retirePlace addr kind cause cls outcome waiters byVedel) := by
  unfold State.retirePlace
  exact ite (showRetired (of h rfl rfl rfl rfl)) (ite (evFrom (inc (by decide) h)) (showRetired (of h rfl rfl rfl rfl)))

/-! ### A row that is read (R289, R290, R302) -/

theorem hardRow (h : KeepsStored a s) {mem slice row cls : Nat} : KeepsStored a (s.hardRow mem slice row cls) := by
  unfold State.hardRow
  extract_lets used place z0 num z1
  have h0 : KeepsStored a z0 := of h rfl rfl rfl rfl
  have h1 : KeepsStored a z1 := of h rfl rfl rfl rfl
  exact ite (retirePlace (wr (by decide) (inc (by decide) h0))) (ite (retirePlace (refreshStalls h1)) (retirePlace (evFrom h)))

theorem sramRead (h : KeepsStored a s) {mem slice row n cls : Nat} {hard : Bool} : KeepsStored a (s.sramRead mem slice row n hard cls) := by
  unfold State.sramRead
  extract_lets body z0
  have h0 : KeepsStored a z0 := by
    simp only [z0]
    split
    · exact h
    · exact inc (by decide) h
    · exact evSecond (inc (by decide) h)
    · exact evFrom (inc (by decide) h)
  exact ite h0 (ite (hardRow h0) h0)

theorem takeInjection (h : KeepsStored a s) {mem slice row : Nat} : KeepsStored a (s.takeInjection mem slice row).2 := by
  unfold State.takeInjection
  split
  · exact of h rfl rfl rfl rfl
  · exact h

end KeepsStored

end Sys2Proof.Machine
end

section
/-!
Repairs and their end, the patrols of SRAM and of host memory, and the marks of SRAM rows (R169, R287 to R291, R295 to R302).
-/

namespace Sys2Proof.Machine

section
variable {s : State}

/-! ### REPAIR_COMPLETE and REPAIR_LIMIT (R169, R295 to R297) -/

theorem exec_repairComplete (a : Nat) (as : StripeAnswers) (ps : List (Nat × List Nat)) (lost : List Nat) (s : State) :
    exec (.repairComplete a as ps lost) s = execRepairComplete a as ps lost s := rfl

theorem exec_repairLimit (a : Nat) (s : State) : exec (.repairLimit a) s = execRepairLimit a s := rfl

theorem repairComplete_ends (serves : s.serving = true) (a : Nat) (as : StripeAnswers) (ps : List (Nat × List Nat)) (lost : List Nat) :
    Ends (.repairComplete a as ps lost) s (s.repair a as ps lost).afterRepair := by
  have ends := ends_of_whenServing (exec_repairComplete a as ps lost s) serves
  exact ends

theorem repairLimit_ends (serves : s.serving = true) (a : Nat) : Ends (.repairLimit a) s (s.endRepair a false).afterRepair := by
  have ends := ends_of_whenServing (exec_repairLimit a s) serves
  exact ends

/-- While coding is ON a solve counts; else there is none. -/
def State.whileOn (s : State) (solved : Option (List Nat)) : Option (List Nat) := if s.fn .coding = 2 then solved else none

theorem whileOn_of_solved {o : Option (List Nat)} {ws : List Nat} (on : s.fn .coding = 2) (solved : o = some ws) : s.whileOn o = some ws :=
  (if_pos on).trans solved

theorem whileOn_of_unsolved {o : Option (List Nat)} (unsolved : s.fn .coding ≠ 2 ∨ o = none) : s.whileOn o = none := by
  unfold State.whileOn
  split
  · next on => exact unsolved.resolve_left (not_not_intro on)
  · rfl

section
variable {a : Nat} {as : StripeAnswers} {ps : List (Nat × List Nat)} {lost : List Nat}

theorem endRepair_of_none (entry : s.repairOf a = none) (ok : Bool) : s.endRepair a ok = s := by
  simp only [State.endRepair, entry]

theorem repair_of_none (entry : s.repairOf a = none) : s.repair a as ps lost = s := by
  simp only [State.repair, entry]

section
variable {r : Repair} (entry : s.repairOf a = some r)
include entry

/-- R296 class 0: a coded line that is solved is written, and else its repair fails. -/
theorem repair_coded {l : LineId} (cls : r.cls = 0) (line : s.lineAt r.addr = some l) : s.repair a as ps lost =
    ((s.whileOn (s.solveLine l as ps lost)).map fun ws => (s.repairCoded l r.addr ws).endRepair a true).getD (s.endRepair a false) := by
  simp only [State.repair, entry, cls, line, State.whileOn]
  cases (if s.fn .coding = 2 then s.solveLine l as ps lost else none) <;> rfl

/-- R296 class 1: a felt line that is solved is written, and else its repair fails. -/
theorem repair_felt {g sp n b j : Nat} (cls : r.cls = 1) (felt : s.feltAt r.addr = some (g, sp, n, b, j)) : s.repair a as ps lost =
    ((s.whileOn (s.solveFelt g sp n j as ps lost)).map fun ws => (s.repairFelt g sp n b ws).endRepair a true).getD (s.endRepair a false) := by
  simp only [State.repair, entry, cls, felt, State.whileOn]
  cases (if s.fn .coding = 2 then s.solveFelt g sp n j as ps lost else none) <;> rfl

end

end

/-! ### The end of a repair (R297, R300, R301) -/

/-- A repair entry off the list, its place in the retirement list, and its waiters answered. -/
def State.closeRepair (s : State) (r : Repair) (outcome : Nat) : State :=
  ((s.modProt fun p => { p with repairs := p.repairs.filter (fun x => ¬ (x.addr = r.addr)) }).retireLine r.addr r.cls outcome r.waiters).answerWaiters r.reqs

/-- The retirement of a line touches, beside the yard's pages, only what KeepsStored leaves open. -/
theorem retireLine_keeps (s : State) (a cls outcome waiters : Nat) :
    ∃ u : State, u.dict = s.dict ∧ u.prot = s.prot ∧ KeepsStored u (s.retireLine a cls outcome waiters) := by
  unfold State.retireLine
  split
  · exact ⟨s, rfl, rfl, .retirePlace (.refl s)⟩
  · split
    · next p x _ =>
      refine ⟨s.yPutPage { p with retire := true }, ?_, ?_, .retirePlace (.refl _)⟩
      all_goals
        unfold State.yPutPage State.yShowDir
        split <;> rfl
    · exact ⟨s, rfl, rfl, .refl s⟩

theorem answerWaiters_keeps (s : State) (reqs : List SReq) : KeepsStored s (s.answerWaiters reqs) :=
  .foldl (.refl s) fun _ _ h => h.answer

theorem closeRepair_sets (dict : s.DictOk) (r : Repair) (outcome : Nat) :
    (s.closeRepair r outcome).prot.repairs = s.prot.repairs.filter (fun x => ¬ (x.addr = r.addr)) ∧ (s.closeRepair r outcome).DictOk ∧
      ∀ k ∈ repairCounts, (s.closeRepair r outcome).rd k = s.rd k := by
  obtain ⟨u, scalars, prot, retired⟩ := retireLine_keeps (s.modProt fun p => { p with repairs := p.repairs.filter (fun x => ¬ (x.addr = r.addr)) })
    r.addr r.cls outcome r.waiters
  have kept : KeepsStored u (s.closeRepair r outcome) := retired.trans (answerWaiters_keeps ..)
  have ok : u.DictOk := by rw [State.DictOk, scalars]; exact dict
  refine ⟨by rw [kept.repairs, prot]; rfl, kept.dictOk ok, fun k hk => (kept.rd ok k hk).trans (State.rd_congr scalars k)⟩

/-- The class of a repair whose failure fails the unit (R297). -/
def failsUnit (r : Repair) : Bool := r.cls == 0 || r.cls == 1 || r.cls == 6

/-- The end of a repair counted and reported: its place, its class and how many waited. -/
def State.reportRepair (s : State) (r : Repair) (count code : Nat) : State :=
  (s.inc count).evSlice r.slice code (be 8 (s.physAddr r.addr) ++ be 1 r.cls ++ be 2 (min 65535 r.waiters))

/-- A repair that failed, before it may fail the unit. -/
def State.failRepair (s : State) (r : Repair) : State := (s.closeRepair r (if failsUnit r then 2 else 1)).reportRepair r 0x8510_0A 0x5107

section
variable {a : Nat} {r : Repair} (entry : s.repairOf a = some r)
include entry

theorem endRepair_true : s.endRepair a true = (s.closeRepair r 0).reportRepair r 0x8510_06 0x5106 := by
  simp only [State.endRepair, entry]
  rfl

theorem endRepair_false : s.endRepair a false = if failsUnit r then (s.failRepair r).unitFailed 0x5107 r.slice else s.failRepair r := by
  simp only [State.endRepair, entry]
  rfl

theorem endRepair_sets (canon : s.Canon) : (s.endRepair a true).prot.repairs = s.prot.repairs.filter (fun x => ¬ (x.addr = r.addr)) ∧
    (s.endRepair a true).rd 0x8510_06 = min (s.rd 0x8510_06 + 1) (objMax 0x8510_06) ∧
      (s.endRepair a false).rd 0x8510_0A = min (s.rd 0x8510_0A + 1) (objMax 0x8510_0A) := by
  obtain ⟨list, ok, counts⟩ := closeRepair_sets canon.dict r 0
  obtain ⟨_, okF, countsF⟩ := closeRepair_sets canon.dict r (if failsUnit r then 2 else 1)
  have done : KeepsStored ((s.closeRepair r 0).inc 0x8510_06) (s.endRepair a true) := by
    rw [endRepair_true entry]
    exact .evFrom (.refl _)
  have told : KeepsStored ((s.closeRepair r (if failsUnit r then 2 else 1)).inc 0x8510_0A) (s.failRepair r) := .evFrom (.refl _)
  have failed : KeepsStored ((s.closeRepair r (if failsUnit r then 2 else 1)).inc 0x8510_0A) (s.endRepair a false) := by
    rw [endRepair_false entry]
    exact .ite told.unitFailed told
  refine ⟨?_, ?_, ?_⟩
  · rw [done.repairs, State.inc_prot, list]
  · rw [done.rd (State.dictOk_inc ok _) _ (by decide), State.rd_inc ok, if_pos rfl, counts _ (by decide)]
  · rw [failed.rd (State.dictOk_inc okF _) _ (by decide), State.rd_inc okF, if_pos rfl, countsF _ (by decide)]

end

/-! ### SRAM_PATROL (R289, R290, R298, R302) -/

theorem exec_sramPatrol (mem slice row n : Nat) (h : Bool) (cls : Nat) (s : State) :
    exec (.sramPatrol mem slice row n h cls) s = execSramPatrol mem slice row n h cls s := rfl

section
variable {mem slice row : Nat}

section
variable (built : (if mem ≤ 2 then slice else 0) < s.hw.slices) (n cls : Nat) (h : Bool)
include built

theorem sramPatrol_inactive (own : mem ≤ 2) (inactive : s.active slice = false) : exec (.sramPatrol mem slice row n h cls) s = .next s := by
  have skips : ¬ (s.up = true ∧ mem ≤ 4 ∧ (mem ≤ 2 → s.active slice = true)) := fun ⟨_, _, reads⟩ => by simp [reads own] at inactive
  rw [exec_sramPatrol, execSramPatrol, onSlice, if_pos built, if_neg skips]

theorem sramPatrol_ends (up : s.up = true) (known : mem ≤ 4) (active : mem ≤ 2 → s.active slice = true) :
    Ends (.sramPatrol mem slice row n h cls) s (s.patrolRow mem slice row n h cls) := by
  rw [Ends, exec_sramPatrol, execSramPatrol, onSlice, if_pos built, if_pos ⟨up, known, active⟩]

end

/-- A lost row costs no byte of host memory at once. -/
theorem sramLost_mem (s : State) (mem slice row cls : Nat) : (s.sramLost mem slice row cls).mem = s.mem := by
  unfold State.sramLost
  split
  · exact (KeepsStored.refl s).unitFailed.mem
  · exact (KeepsStored.refl s).abandonSnap.mem
  · rfl
  · rfl

theorem patrolRow_mem (s : State) (mem slice row n : Nat) (h : Bool) (cls : Nat) : (s.patrolRow mem slice row n h cls).mem = s.mem := by
  have read := ((KeepsStored.refl s).takeInjection (mem := mem) (slice := slice) (row := row)).sramRead (mem := mem) (slice := slice) (row := row)
    (n := n + (s.takeInjection mem slice row).1) (cls := cls) (hard := h)
  unfold State.patrolRow
  dsimp only
  split
  · exact (sramLost_mem ..).trans read.mem
  · exact read.mem

/-- An injection that the next read of a row meets (R302). -/
def injects (mem slice row w : Nat) : Bool := bits w 0 8 == mem && (bits w 8 5 == slice || decide (mem ≥ 3)) && bits w 16 32 == row

theorem takeInjection_of_none (none : ∀ w ∈ s.prot.injected, ¬ (bits w 0 8 = mem ∧ (bits w 8 5 = slice ∨ 3 ≤ mem) ∧ bits w 16 32 = row)) :
    s.takeInjection mem slice row = (0, s) := by
  have unmet : s.prot.injected.find? (injects mem slice row) = Option.none :=
    List.find?_eq_none.mpr fun w mem => by simpa [injects, and_assoc] using none w mem
  unfold injects at unmet
  simp only [State.takeInjection, unmet]

theorem takeInjection_of_some {w : Nat} (found : s.prot.injected.find? (injects mem slice row) = some w) :
    s.takeInjection mem slice row = (bits w 13 2, s.modProt fun p => { p with injected := p.injected.filter (· ≠ w) }) := by
  unfold injects at found
  simp only [State.takeInjection, found]

theorem sramRead_many (s : State) (mem slice row cls : Nat) {n : Nat} (many : 3 ≤ n) : s.sramRead mem slice row n false cls =
    (s.inc 0x8510_03).evSlice slice 0x5105 (be 1 mem ++ be 1 slice ++ be 4 row) := by
  obtain ⟨k, rfl⟩ := Nat.exists_eq_add_of_le' many
  rfl

/-- The patrol of a row that no injection is on, by the bits that it finds flipped. -/
theorem patrolRow_of_none (none : ∀ w ∈ s.prot.injected, ¬ (bits w 0 8 = mem ∧ (bits w 8 5 = slice ∨ 3 ≤ mem) ∧ bits w 16 32 = row)) (n cls : Nat) (h : Bool) :
    (n = 0 → s.patrolRow mem slice row n h cls = s) ∧ (n = 1 → s.patrolRow mem slice row n false cls = s.inc 0x8510_01) ∧
      (n = 2 → s.patrolRow mem slice row n false cls = (s.inc 0x8510_02).evSecond 0x5104 (be 1 mem ++ be 1 slice ++ be 4 row)) ∧
      (3 ≤ n → s.patrolRow mem slice row n false cls =
        (State.evSlice (s.inc 0x8510_03) slice 0x5105 (be 1 mem ++ be 1 slice ++ be 4 row)).sramLost mem slice row cls) := by
  have read (h : Bool) : s.patrolRow mem slice row n h cls =
      if n ≥ 3 then (s.sramRead mem slice row n h cls).sramLost mem slice row cls else s.sramRead mem slice row n h cls := by
    simp only [State.patrolRow, takeInjection_of_none none, Nat.add_zero]
  refine ⟨?_, ?_, ?_, fun many => ?_⟩
  · rintro rfl
    exact read h
  · rintro rfl
    exact read false
  · rintro rfl
    exact read false
  · rw [read, if_pos many, sramRead_many _ _ _ _ _ many]

/-! ### A row that is written (R291) -/

theorem not_marked_putRow (s : State) (mem slice row word : Nat) : (mem, slice, row) ∉ (s.putRow mem slice row word false).prot.poisonRows := by
  have left : (s.putRow mem slice row word false).prot.poisonRows = s.prot.poisonRows.filter (· ≠ (mem, slice, row)) := rfl
  rw [left, List.mem_filter]
  simp

/-- A whole word goes into its row unread. -/
theorem sramWrite_word {bs : Bytes} (whole : bs.length = 8) : ∃ word, s.sramWrite mem slice (8 * row) bs = s.putRow mem slice row word false := by
  have rows : (8 * row % 8 + bs.length + 7) / 8 = 1 := by omega
  have first : 8 * row / 8 + 0 = row := by omega
  have span : min (8 * row + bs.length) (8 * row + 8) - max (8 * row) (8 * row) = 8 := by omega
  unfold State.sramWrite
  simp only [rows, List.range_one, List.foldl_cons, List.foldl_nil, first, span, slice_length, if_true]
  exact ⟨_, rfl⟩

/-- A write of less than a word leaves a marked row marked: the read finds the mark. -/
theorem narrowRow_marked (marked : (mem, slice, row) ∈ s.prot.poisonRows) (off : Nat) (bs : Bytes) :
    (mem, slice, row) ∈ (s.narrowRow mem slice row off bs).prot.poisonRows := by
  have read := ((KeepsStored.refl s).takeInjection (mem := mem) (slice := slice) (row := row)).sramRead (mem := mem) (slice := slice) (row := row)
    (n := (s.takeInjection mem slice row).1) (cls := 8) (hard := false)
  unfold State.narrowRow
  dsimp only
  rw [read.rows, List.contains_iff_mem.mpr marked, Bool.or_true]
  exact List.mem_append_left _ (List.mem_singleton_self _)

end

/-! ### HBM_PATROL (R287, R299) -/

theorem exec_hbmPatrol (n a : Nat) (bad fin : Bool) (s : State) : exec (.hbmPatrol n a bad fin) s = execHbmPatrol n a bad fin s := rfl

section
variable {n a : Nat}

theorem patrolLine_disabled (disabled : s.rd 0x5102_02 = 0) (n a : Nat) (bad fin : Bool) : s.patrolLine n a bad fin = s := if_pos disabled

section
variable (enabled : s.rd 0x5102_02 ≠ 0) (plain : s.viewAddr a = a) (below : a < yardV)
include enabled plain below

/-- A line of the stable: an unreadable one of a stall table fails the unit. -/
theorem patrolLine_stable (within : s.stableRegion.1 ≤ a ∧ a < s.stableRegion.1 + s.stableRegion.2) (bad : Bool) :
    s.patrolLine n a bad false = if bad = true ∧ s.inStallTable n a = true then (s.evSlice n 0x5109 (be 1 n)).unitFailed 0x5109 n else s := by
  simp only [State.patrolLine, if_neg enabled, plain, if_pos below, if_pos within, Bool.false_eq_true, if_false]

/-- A coded line that the controller can read: it is given an entry where it bears a mark. -/
theorem patrolLine_coded (outside : ¬ (s.stableRegion.1 ≤ a ∧ a < s.stableRegion.1 + s.stableRegion.2)) (coded : s.lineClass a = 0)
    (own : s.inSlice n a = true) (free : s.repairOf a = none) :
    s.patrolLine n a false false = if s.unreadable a = true then s.openRepair a 0 n [] else s := by
  have patrolled : ¬ (0 > 1 ∨ ¬ s.inSlice n a = true ∨ (s.repairOf a).isSome = true) := by simp [own, free]
  simp only [State.patrolLine, if_neg enabled, plain, if_pos below, if_neg outside, coded, if_neg patrolled, Bool.false_eq_true, if_false, Nat.zero_ne_one]

end

end

end

/-- Settles O56: a repair by its class, its end by what it leaves of the counts, and each patrol by what it finds. -/
theorem repairsAndPatrolsEndWhatTheyFind : Obligations.RepairsAndPatrolsEndWhatTheyFind := by
  refine ⟨fun s a as ps lost serves => ?_, fun s a r canon entry => endRepair_sets entry canon, fun s mem slice row n cls h up known built => ?_,
    fun s mem slice row w found => ?_, fun s mem slice row off bs => ⟨fun whole => ?_, fun marked => narrowRow_marked marked off bs⟩,
    fun s n a bad fin built active serves => ?_⟩
  · have completes := repairComplete_ends serves a as ps lost
    have limit := repairLimit_ends serves a
    refine ⟨fun entry => ⟨completes.of_eq ?_, limit.of_eq ?_⟩, limit, completes, fun r l entry cls line => ?_, fun r g sp n b j entry cls felt => ?_⟩
    · rw [repair_of_none entry]
    · rw [endRepair_of_none entry]
    · have repaired := repair_coded (as := as) (ps := ps) (lost := lost) entry cls line
      refine ⟨fun ws on solved => completes.of_eq ?_, fun unsolved => completes.of_eq ?_⟩
      · rw [repaired, whileOn_of_solved on solved, Option.map_some, Option.getD_some]
      · rw [repaired, whileOn_of_unsolved unsolved, Option.map_none, Option.getD_none]
    · have repaired := repair_felt (as := as) (ps := ps) (lost := lost) entry cls felt
      refine ⟨fun ws on solved => completes.of_eq ?_, fun unsolved => completes.of_eq ?_⟩
      · rw [repaired, whileOn_of_solved on solved, Option.map_some, Option.getD_some]
      · rw [repaired, whileOn_of_unsolved unsolved, Option.map_none, Option.getD_none]
  · exact ⟨sramPatrol_inactive built n cls h, fun active => ⟨sramPatrol_ends built n cls h up known active, patrolRow_mem ..,
      fun none => patrolRow_of_none none n cls h⟩⟩
  · have taken := takeInjection_of_some (s := s) found
    exact ⟨congrArg Prod.fst taken, congrArg Prod.snd taken⟩
  · obtain ⟨word, written⟩ := sramWrite_word (s := s) (mem := mem) (slice := slice) (row := row) whole
    rw [written]
    exact not_marked_putRow s mem slice row word
  · have ends (bad fin : Bool) := ends_of_sliceServing built active serves (exec_hbmPatrol n a bad fin s)
    refine ⟨fun disabled => (ends bad fin).of_eq (patrolLine_disabled disabled ..), fun enabled plain below within => ⟨fun table => ?_, ?_, fun elsewhere => ?_⟩,
      fun enabled plain below outside coded own free => ⟨fun marked => ?_, fun sound => ?_⟩⟩
    · exact (ends true false).of_eq ((patrolLine_stable enabled plain below within true).trans (if_pos ⟨rfl, table⟩))
    · exact (ends false false).of_eq ((patrolLine_stable enabled plain below within false).trans (if_neg (by simp)))
    · exact (ends true false).of_eq ((patrolLine_stable enabled plain below within true).trans (if_neg (by simp [elsewhere])))
    · exact (ends false false).of_eq ((patrolLine_coded enabled plain below outside coded own free).trans (if_pos marked))
    · exact (ends false false).of_eq ((patrolLine_coded enabled plain below outside coded own free).trans (if_neg (by simp [sound])))

end Sys2Proof.Machine
end

section
/-!
The selection of R193: the ranks are in dictionary order, the picks are the least of each shard, and the steps are tried from
the newest down.
-/

namespace Sys2Proof.Machine

/-! ### The best candidate -/

theorem lexLt_cons {a b : Nat} {as bs : List Nat} : lexLt (a :: as) (b :: bs) = true ↔ a < b ∨ a = b ∧ lexLt as bs = true := by
  simp only [lexLt, Bool.or_eq_true, Bool.and_eq_true, decide_eq_true_eq, beq_iff_eq]

theorem lexLt_nil (as : List Nat) : lexLt as [] = false := by
  cases as <;> rfl

theorem lexLt_asymm {as bs : List Nat} (before : lexLt as bs = true) : lexLt bs as = false := by
  induction as generalizing bs with
  | nil => exact lexLt_nil bs
  | cons a as ih =>
    cases bs with
    | nil => cases before
    | cons b bs =>
      refine Bool.eq_false_iff.mpr fun after => ?_
      obtain less | ⟨same, rest⟩ := lexLt_cons.mp before <;> obtain less' | ⟨same', rest'⟩ := lexLt_cons.mp after
      · omega
      · omega
      · omega
      · exact Bool.false_ne_true ((ih rest).symm.trans rest')

theorem lexLt_irrefl (as : List Nat) : lexLt as as = false :=
  Bool.eq_false_iff.mpr fun before => Bool.false_ne_true ((lexLt_asymm before).symm.trans before)

/-- A list that is before neither of two lists in turn is not before the second. -/
theorem lexLt_trans_false {as bs cs : List Nat} (first : lexLt as bs = false) (second : lexLt bs cs = false) : lexLt as cs = false := by
  induction as generalizing bs cs with
  | nil =>
    cases bs with
    | nil => exact second
    | cons b bs => cases first
  | cons a as ih =>
    cases cs with
    | nil => rfl
    | cons c cs =>
      cases bs with
      | nil => cases second
      | cons b bs =>
        rw [Bool.eq_false_iff, ne_eq, lexLt_cons] at first second ⊢
        rintro (less | ⟨rfl, rest⟩)
        · have notFirst : ¬ a < b := fun h => first (.inl h)
          have notSecond : ¬ b < c := fun h => second (.inl h)
          omega
        · obtain rfl : b = a := by
            have notFirst : ¬ a < b := fun h => first (.inl h)
            have notSecond : ¬ b < a := fun h => second (.inl h)
            omega
          have later := ih (bs := bs) (cs := cs) (Bool.eq_false_iff.mpr fun h => first (.inr ⟨rfl, h⟩)) (Bool.eq_false_iff.mpr fun h => second (.inr ⟨rfl, h⟩))
          exact Bool.false_ne_true (later.symm.trans rest)

/-- The candidate b of a list is one that no other ranks before. -/
structure IsBest (g t : Nat) (l : List Cand) (b : Cand) : Prop where
  mem : b ∈ l
  least : ∀ d ∈ l, lexLt (d.rank g t) (b.rank g t) = false

theorem bestCand_eq_none_iff {g t : Nat} {l : List Cand} : bestCand g t l = none ↔ l = [] := by
  cases l with
  | nil => simp [bestCand]
  | cons c l =>
    simp only [bestCand, reduceCtorEq, iff_false]
    split
    · exact Option.some_ne_none c
    · split <;> exact Option.some_ne_none _

theorem bestCand_isBest {g t : Nat} {l : List Cand} {b : Cand} (best : bestCand g t l = some b) : IsBest g t l b := by
  induction l generalizing b with
  | nil => cases best
  | cons c l ih =>
    simp only [bestCand] at best
    split at best
    · next none =>
      obtain rfl := Option.some.inj best
      obtain rfl := bestCand_eq_none_iff.mp none
      exact ⟨List.mem_singleton_self _, List.forall_mem_cons.mpr ⟨lexLt_irrefl _, fun _ none => nomatch none⟩⟩
    · next d rest =>
      obtain ⟨mem, least⟩ := ih rest
      split at best
      · next before =>
        obtain rfl := Option.some.inj best
        exact ⟨List.mem_cons_of_mem c mem, List.forall_mem_cons.mpr ⟨lexLt_asymm before, least⟩⟩
      · next after =>
        obtain rfl := Option.some.inj best
        exact ⟨List.mem_cons_self, List.forall_mem_cons.mpr ⟨lexLt_irrefl _, fun x hx => lexLt_trans_false (least x hx) (Bool.eq_false_iff.mpr after)⟩⟩

/-! ### The picks at one step -/

/-- The candidates of shard x that reach step t. -/
def reaching (cands : List Cand) (g t x : Nat) : List Cand := cands.filter (fun c => c.shard == x && c.reaches g t)

theorem mem_reaching {cands : List Cand} {g t x : Nat} {c : Cand} : c ∈ reaching cands g t x ↔ c ∈ cands ∧ c.shard = x ∧ c.reaches g t = true := by
  simp only [reaching, List.mem_filter, Bool.and_eq_true, beq_iff_eq]

/-- Every required shard has a candidate that reaches step t. -/
def AllReach (req : List Nat) (cands : List Cand) (g t : Nat) : Prop := ∀ x ∈ req, ∃ c ∈ cands, c.shard = x ∧ c.reaches g t = true

section
variable {req : List Nat} {cands : List Cand} {g t : Nat}

theorem picksAt_cons (x : Nat) (req : List Nat) : picksAt (x :: req) cands g t =
    match picksAt req cands g t, bestCand g t (reaching cands g t x) with
    | some l, some c => some (c :: l)
    | _, _ => none := rfl

/-- The picks are the best candidate of the first shard, then those of the rest. -/
theorem picksAt_cons_eq_some {x : Nat} {picks : List Cand} (found : picksAt (x :: req) cands g t = some picks) :
    ∃ c l, picks = c :: l ∧ picksAt req cands g t = some l ∧ IsBest g t (reaching cands g t x) c := by
  rw [picksAt_cons] at found
  split at found
  · next l c rest best => exact ⟨c, l, (Option.some.inj found).symm, rest, bestCand_isBest best⟩
  · cases found

theorem bestCand_isSome_iff (x : Nat) : (bestCand g t (reaching cands g t x)).isSome = true ↔ ∃ c ∈ cands, c.shard = x ∧ c.reaches g t = true := by
  rw [Option.isSome_iff_ne_none, ne_eq, bestCand_eq_none_iff, List.eq_nil_iff_forall_not_mem, Classical.not_forall_not]
  exact exists_congr fun c => mem_reaching

theorem picksAt_isSome_iff : (picksAt req cands g t).isSome = true ↔ AllReach req cands g t := by
  induction req with
  | nil => simp [picksAt, AllReach]
  | cons x req ih =>
    rw [AllReach, List.forall_mem_cons, ← bestCand_isSome_iff, picksAt_cons]
    rw [AllReach] at ih
    rw [← ih]
    cases picksAt req cands g t <;> cases bestCand g t (reaching cands g t x) <;> simp

theorem picks_shards {picks : List Cand} (found : picksAt req cands g t = some picks) : picks.map (·.shard) = req := by
  induction req generalizing picks with
  | nil => exact Option.some.inj found ▸ rfl
  | cons x req ih =>
    obtain ⟨c, l, rfl, rest, best⟩ := picksAt_cons_eq_some found
    rw [List.map_cons, ih rest, (mem_reaching.mp best.mem).2.1]

theorem mem_picks {picks : List Cand} (found : picksAt req cands g t = some picks) {c : Cand} (hc : c ∈ picks) :
    IsBest g t (reaching cands g t c.shard) c := by
  induction req generalizing picks with
  | nil =>
    rw [← Option.some.inj found] at hc
    cases hc
  | cons x req ih =>
    obtain ⟨d, l, rfl, rest, best⟩ := picksAt_cons_eq_some found
    obtain rfl | later := List.mem_cons.mp hc
    · exact (mem_reaching.mp best.mem).2.1 ▸ best
    · exact ih rest later

end

/-! ### The steps tried -/

theorem mem_sortNat {x : Nat} {l : List Nat} : x ∈ sortNat l ↔ x ∈ l := by
  induction l with
  | nil => rfl
  | cons y l ih => rw [sortNat, mem_insertSorted_iff, ih, List.mem_cons]

theorem sortNat_rising (l : List Nat) : (sortNat l).Pairwise (· < ·) := by
  induction l with
  | nil => exact .nil
  | cons x l ih => exact pairwise_insertSorted ih

/-- The steps that some candidate reaches. -/
def stepsReached (cands : List Cand) (g : Nat) : List Nat :=
  ((cands.map (fun c => ((List.range (c.r + 1)).filter (fun w => decide (g * w ≤ c.step))).map (fun w => c.step - g * w))).flatten).eraseDups

/-- The newest step that every required shard shows. -/
def newestShown (req : List Nat) (cands : List Cand) : Nat :=
  minN (2 ^ 64) (req.map (fun x => maxN ((cands.filter (·.shard = x)).map (·.step))))

/-- The steps tried, the newest first. -/
def stepsDown (req : List Nat) (cands : List Cand) (g : Nat) : List Nat :=
  (sortNat ((stepsReached cands g).filter (· ≤ newestShown req cands))).reverse

theorem reaches_iff {g t : Nat} (positive : 0 < g) {c : Cand} : c.reaches g t = true ↔ ∃ w ≤ c.r, g * w ≤ c.step ∧ c.step - g * w = t := by
  simp only [Cand.reaches, Bool.and_eq_true, decide_eq_true_eq, beq_iff_eq, and_assoc]
  constructor
  · rintro ⟨early, whole, windows⟩
    have product : g * ((c.step - t) / g) = c.step - t := Nat.mul_div_cancel' (Nat.dvd_of_mod_eq_zero whole)
    exact ⟨(c.step - t) / g, windows, by omega, by omega⟩
  · rintro ⟨w, windows, early, rfl⟩
    have back : c.step - (c.step - g * w) = g * w := by omega
    rw [back, Nat.mul_mod_right, Nat.mul_div_cancel_left w positive]
    exact ⟨Nat.sub_le _ _, rfl, windows⟩

theorem exists_mem_map_iff {α β : Type} {f : α → β} {l : List α} {p : β → Prop} : (∃ y ∈ l.map f, p y) ↔ ∃ x ∈ l, p (f x) := by
  constructor
  · rintro ⟨_, mem, holds⟩
    obtain ⟨x, hx, rfl⟩ := List.mem_map.mp mem
    exact ⟨x, hx, holds⟩
  · rintro ⟨x, hx, holds⟩
    exact ⟨f x, List.mem_map_of_mem hx, holds⟩

theorem mem_stepsReached {cands : List Cand} {g t : Nat} (positive : 0 < g) : t ∈ stepsReached cands g ↔ ∃ c ∈ cands, c.reaches g t = true := by
  simp only [stepsReached, List.mem_eraseDups, List.mem_flatten, exists_mem_map_iff, reaches_iff positive]
  simp only [List.mem_map, List.mem_filter, List.mem_range, Nat.lt_succ_iff, decide_eq_true_eq, and_assoc]

section
variable {req : List Nat} {cands : List Cand} {g t : Nat}

theorem lt_maxN_iff {l : List Nat} {w : Nat} : w < maxN l ↔ ∃ x ∈ l, w < x := by
  rw [← Nat.not_le, maxN_le_iff]
  simp only [Classical.not_forall, Nat.not_le, exists_prop]

theorem lt_minN_iff {d : Nat} {l : List Nat} (inhabited : l ≠ []) {w : Nat} : w < minN d l ↔ ∀ x ∈ l, w < x :=
  ⟨fun below _ hx => Nat.lt_of_lt_of_le below (minN_le hx), fun below => below _ (minN_mem inhabited)⟩

theorem lt_newestShown_iff (required : req ≠ []) : t < newestShown req cands ↔ ∀ x ∈ req, ∃ c ∈ cands, c.shard = x ∧ t < c.step := by
  rw [newestShown, lt_minN_iff (mt List.map_eq_nil_iff.mp required), List.forall_mem_map]
  simp only [lt_maxN_iff, exists_mem_map_iff, List.mem_filter, decide_eq_true_eq, and_assoc]

theorem le_newestShown (required : req ≠ []) (shown : ∀ x ∈ req, ∃ c ∈ cands, c.shard = x ∧ t ≤ c.step) : t ≤ newestShown req cands := by
  cases t with
  | zero => exact Nat.zero_le _
  | succ t => exact (lt_newestShown_iff required).mpr shown

/-- A step that every required shard reaches is among those tried. -/
theorem mem_stepsDown (positive : 0 < g) (required : req ≠ []) (all : AllReach req cands g t) : t ∈ stepsDown req cands g := by
  rw [stepsDown, List.mem_reverse, mem_sortNat, List.mem_filter, mem_stepsReached positive, decide_eq_true_eq]
  constructor
  · obtain ⟨x, hx⟩ := List.exists_mem_of_ne_nil req required
    obtain ⟨c, hc, _, reached⟩ := all x hx
    exact ⟨c, hc, reached⟩
  · refine le_newestShown required fun x hx => ?_
    obtain ⟨c, hc, shard, reached⟩ := all x hx
    obtain ⟨w, -, -, rfl⟩ := (reaches_iff positive).mp reached
    exact ⟨c, hc, shard, Nat.sub_le _ _⟩

/-- The first step that meets all shards, of those tried, is the newest. -/
theorem newest_of_findSome {picks : List Cand}
    (found : (stepsDown req cands g).findSome? (fun t => (picksAt req cands g t).map (fun p => (t, p))) = some (t, picks)) :
    picksAt req cands g t = some picks ∧ ∀ t' ∈ stepsDown req cands g, AllReach req cands g t' → t' ≤ t := by
  obtain ⟨newer, x, older, split, first, missed⟩ := List.findSome?_eq_some_iff.mp found
  obtain ⟨p, picked, pair⟩ := Option.map_eq_some_iff.mp first
  obtain ⟨rfl, rfl⟩ := Prod.mk.inj pair
  refine ⟨picked, fun t' tried all => ?_⟩
  have falling : (stepsDown req cands g).Pairwise (· > ·) := List.pairwise_reverse.mpr (sortNat_rising _)
  rw [split] at falling tried
  obtain earlier | rfl | later := (List.mem_append.mp tried).imp_right List.mem_cons.mp
  · have none := missed t' earlier
    have some := picksAt_isSome_iff.mpr all
    rw [Option.map_eq_none_iff.mp none] at some
    cases some
  · exact Nat.le_refl t'
  · exact Nat.le_of_lt ((List.pairwise_cons.mp (List.pairwise_append.mp falling).2.1).1 t' later)

end

/-! ### The selection -/

/-- Some required shard has no candidate. -/
def LacksShard (req : List Nat) (cands : List Cand) : Prop := ∃ x ∈ req, ∀ c ∈ cands, c.shard ≠ x

/-- The outcome of a selection at step t. -/
def selectionOutcome (req : List Nat) (cands : List Cand) (t : Nat) (picks : List Cand) : Nat :=
  if t < newestShown req cands then 2 else if picks.all (·.step == t) then 0 else 1

/-- How a selection ends: refused for a shard without a candidate, refused for want of a common step, or at the newest one. -/
theorem selectRestore_cases (req : List Nat) (cands : List Cand) (g : Nat) :
    (LacksShard req cands ∧ selectRestore req cands g = .error 2) ∨
      (¬ LacksShard req cands ∧ (∀ t ∈ stepsDown req cands (max g 1), ¬ AllReach req cands (max g 1) t) ∧ selectRestore req cands g = .error 3) ∨
      (¬ LacksShard req cands ∧ ∃ t picks, picksAt req cands (max g 1) t = some picks ∧
        (∀ t' ∈ stepsDown req cands (max g 1), AllReach req cands (max g 1) t' → t' ≤ t) ∧
        selectRestore req cands g = .ok (t, selectionOutcome req cands t picks, picks)) := by
  have lacks : (req.any fun x => ¬ cands.any (·.shard == x)) = true ↔ LacksShard req cands := by simp [LacksShard]
  have means : selectRestore req cands g = if req.any (fun x => ¬ cands.any (·.shard == x)) then .error 2 else
      match (stepsDown req cands (max g 1)).findSome? (fun t => (picksAt req cands (max g 1) t).map (fun p => (t, p))) with
      | none => .error 3
      | some (t, picks) => .ok (t, selectionOutcome req cands t picks, picks) := rfl
  by_cases missing : LacksShard req cands
  · exact .inl ⟨missing, means.trans (if_pos (lacks.mpr missing))⟩
  · rw [if_neg (mt lacks.mp missing)] at means
    cases found : (stepsDown req cands (max g 1)).findSome? (fun t => (picksAt req cands (max g 1) t).map (fun p => (t, p))) with
    | none =>
      rw [found] at means
      refine .inr (.inl ⟨missing, fun t tried all => ?_, means⟩)
      have none := List.findSome?_eq_none_iff.mp found t tried
      have some := picksAt_isSome_iff.mpr all
      rw [Option.map_eq_none_iff.mp none] at some
      cases some
    | some x =>
      rw [found] at means
      obtain ⟨picked, newest⟩ := newest_of_findSome found
      exact .inr (.inr ⟨missing, x.1, x.2, picked, newest, means⟩)

section
variable {req : List Nat} {cands picks : List Cand} {g t o : Nat}

theorem selectRestore_eq_error_two_iff : selectRestore req cands g = .error 2 ↔ LacksShard req cands := by
  obtain ⟨lacks, refused⟩ | ⟨shown, -, refused⟩ | ⟨shown, t, picks, -, -, selected⟩ := selectRestore_cases req cands g
  · exact iff_of_true refused lacks
  · exact iff_of_false (by simp [refused]) shown
  · exact iff_of_false (by simp [selected]) shown

theorem eq_two_or_three_of_error {e : Nat} (refused : selectRestore req cands g = .error e) : e = 2 ∨ e = 3 := by
  obtain ⟨-, reason⟩ | ⟨-, -, reason⟩ | ⟨-, t, picks, -, -, selected⟩ := selectRestore_cases req cands g
  · exact .inl (Except.error.inj (refused.symm.trans reason))
  · exact .inr (Except.error.inj (refused.symm.trans reason))
  · rw [selected] at refused
    cases refused

theorem max_one_pos (g : Nat) : 0 < max g 1 := Nat.lt_of_lt_of_le Nat.one_pos (Nat.le_max_right g 1)

/-- Refusal 3 means that no step is reached for every shard. -/
theorem not_allReach_of_error_three (refused : selectRestore req cands g = .error 3) (required : req ≠ []) (t : Nat) : ¬ AllReach req cands (max g 1) t := by
  intro all
  obtain ⟨-, reason⟩ | ⟨-, none, -⟩ | ⟨-, t, picks, -, -, selected⟩ := selectRestore_cases req cands g
  · cases refused.symm.trans reason
  · exact none t (mem_stepsDown (max_one_pos g) required all) all
  · cases refused.symm.trans selected

/-- A selection takes the picks of its step, and no later step is reached for every shard. -/
theorem selected_of_ok (selected : selectRestore req cands g = .ok (t, o, picks)) : picksAt req cands (max g 1) t = some picks ∧
    (req ≠ [] → ∀ t', AllReach req cands (max g 1) t' → t' ≤ t) ∧ o = selectionOutcome req cands t picks := by
  obtain ⟨-, reason⟩ | ⟨-, -, reason⟩ | ⟨-, t', picks', picked, newest, result⟩ := selectRestore_cases req cands g
  · cases selected.symm.trans reason
  · cases selected.symm.trans reason
  · cases selected.symm.trans result
    exact ⟨picked, fun required t' all => newest t' (mem_stepsDown (max_one_pos g) required all) all, rfl⟩

/-- A pick is a candidate of its shard that reaches the step, and none ranks before it. -/
theorem pick_least (picked : picksAt req cands g t = some picks) {c : Cand} (hc : c ∈ picks) : c ∈ cands ∧ c.reaches g t = true ∧
    ∀ d ∈ cands, d.shard = c.shard → d.reaches g t = true → lexLt (d.rank g t) (c.rank g t) = false := by
  obtain ⟨mem, least⟩ := mem_picks picked hc
  obtain ⟨listed, -, reached⟩ := mem_reaching.mp mem
  exact ⟨listed, reached, fun d hd shard reached => least d (mem_reaching.mpr ⟨hd, shard, reached⟩)⟩

theorem selectionOutcome_eq_two_iff (required : req ≠ []) : selectionOutcome req cands t picks = 2 ↔ ∀ x ∈ req, ∃ c ∈ cands, c.shard = x ∧ t < c.step := by
  rw [← lt_newestShown_iff required, selectionOutcome]
  by_cases newer : t < newestShown req cands
  · exact iff_of_true (if_pos newer) newer
  · rw [if_neg newer]
    refine iff_of_false ?_ newer
    split <;> decide

theorem selectionOutcome_of_ne_two (newest : selectionOutcome req cands t picks ≠ 2) :
    (selectionOutcome req cands t picks = 0 ↔ ∀ c ∈ picks, c.step = t) ∧ (selectionOutcome req cands t picks = 0 ∨ selectionOutcome req cands t picks = 1) := by
  unfold selectionOutcome at newest ⊢
  split at newest
  · exact absurd rfl newest
  · next shown =>
    have stands : picks.all (·.step == t) = true ↔ ∀ c ∈ picks, c.step = t := by simp
    rw [if_neg shown, ← stands]
    split
    · next all => exact ⟨iff_of_true rfl all, .inl rfl⟩
    · next early => exact ⟨iff_of_false Nat.one_ne_zero early, .inr rfl⟩

end

end Sys2Proof.Machine
end

section
/-!
Restores (R192 to R194): the frames of a restore, the order in hand, the reports and the end of the restore.
-/

namespace Sys2Proof.Machine

/-! ### Frames of a restore -/

section
variable {c : Instr} {kind : Nat} {r : Rx} {s : State} {k : State → State} (means : exec c s = whenRestore kind r s k)
  (serves : s.serving = true) (own : frameKind r = kind) (assigned : kind ∈ assignedKinds)
include means serves own assigned

theorem ends_of_whenRestore : Ends c s (if fld r.f 8 8 = (s.ce r).job then k (s.ce r) else s.ce r) :=
  ends_of_frameRow (kinds := [kind]) means serves own (List.mem_singleton_self kind) assigned

theorem ends_of_whenRestore_own (job : fld r.f 8 8 = (s.ce r).job) : Ends c s (k (s.ce r)) :=
  (ends_of_whenRestore means serves own assigned).of_eq (if_pos job)

theorem ends_of_whenRestore_other (job : fld r.f 8 8 ≠ (s.ce r).job) : Ends c s (s.ce r) :=
  (ends_of_whenRestore means serves own assigned).of_eq (if_neg job)

end

/-- The shards that a Restore order names, each with its device, source and slot (Table 8-1). -/
def orderedPicks (f : Bytes) : List Cand :=
  (List.range (min 64 (fld f 26 2))).map fun i =>
    ⟨fld f (28 + 8 * i + 2) 2, fld f (28 + 8 * i) 2, fld f (28 + 8 * i + 4) 1, fld f (28 + 8 * i + 5) 1, 0, 0, 0⟩

theorem length_orderedPicks (f : Bytes) : (orderedPicks f).length = min 64 (fld f 26 2) := by
  rw [orderedPicks, List.length_map, List.length_range]

theorem orderedPicks_getElem? {f : Bytes} {i : Nat} {c : Cand} (named : (orderedPicks f)[i]? = some c) :
    c.shard = fld f (28 + 8 * i) 2 ∧ c.dev = fld f (30 + 8 * i) 2 := by
  rw [orderedPicks, List.getElem?_map, Option.map_eq_some_iff] at named
  obtain ⟨j, place, rfl⟩ := named
  obtain ⟨-, rfl⟩ := List.getElem?_eq_some_iff.mp place
  rw [List.getElem_range]
  exact ⟨rfl, congrArg (fld f · 2) (by omega)⟩

theorem exec_inventory (r : Rx) (s : State) : exec (.inventory r) s =
    whenRestore 0x32 r s fun s => s.takeInventory (fld r.f 2 2) (readInventory r.f) := rfl

theorem exec_restoreOrder (r : Rx) (s : State) : exec (.restoreOrder r) s =
    whenRestore 0x33 r s fun s => s.takeRestoreOrder (fld r.f 16 8) (fld r.f 24 1) (orderedPicks r.f) := rfl

theorem exec_restoreReport (r : Rx) (s : State) : exec (.restoreReport r) s =
    whenRestore 0x34 r s fun s => s.takeRestoreReport (fld r.f 16 2) (fld r.f 18 1) (fld r.f 19 1) (fld r.f 20 8) := rfl

theorem exec_shardLoadComplete (s : State) : exec .shardLoadComplete s = whenServing s State.shardLoaded := rfl

/-! ### The order in hand -/

section
variable {s : State}

/-- An Inventory is held in the place of the device's earlier one. -/
def State.holdInventory (s : State) (dev : Nat) (cs : List Cand) : State :=
  s.modTiers fun t => { t with inventories := t.inventories.filter (fun y => y.1 ≠ dev) ++ [(dev, cs)] }

theorem mem_holdInventory (dev : Nat) (cs : List Cand) : (dev, cs) ∈ (s.holdInventory dev cs).tiers.inventories :=
  List.mem_append_right _ (List.mem_singleton_self _)

theorem takeInventory_of_unasked (unasked : s.rd 0x3304_02 ≠ 1 ∨ s.rd 0x3200_0B = 0) (dev : Nat) (cs : List Cand) :
    s.takeInventory dev cs = s.holdInventory dev cs := by
  refine if_neg fun ⟨asked, selects, _⟩ => ?_
  have needs : s.rd 0x3200_0B ≠ 0 := by
    simp only [State.selector, Bool.and_eq_true, bne_iff_ne] at selects
    exact selects.1.1
  exact unasked.elim (fun other => other asked) needs

theorem takeRestoreOrder_of_coding (coding : s.fn .coding ≠ 0) (step outcome : Nat) (picks : List Cand) :
    s.takeRestoreOrder step outcome picks = s := if_pos coding

/-- Commands to the F-port change nothing but the commands that are open. -/
def OnlyAsks (a s : State) : Prop := s = { a with fOut := s.fOut }

theorem foldl_onlyAsks {β : Type} (f : State → β → State) (asks : ∀ z b, OnlyAsks z (f z b)) (l : List β) (s : State) : OnlyAsks s (l.foldl f s) := by
  refine List.foldlRecOn (motive := OnlyAsks s) l f rfl fun z hz b _ => ?_
  rw [OnlyAsks, asks z b, hz]

theorem fIssue_onlyAsks (s : State) (use st : Nat) (write : Bool) (lba blocks : Nat) (data : Bytes) : OnlyAsks s (s.fIssue use st write lba blocks data) := rfl

/-- Of a, the state s has kept host memory, and it has the order in hand and nothing loaded. -/
structure TookOrder (a : State) (order : Nat × Nat × List Cand) (s : State) : Prop where
  mem : s.mem = a.mem
  order : s.tiers.order = some order
  loaded : s.tiers.loaded = []

theorem TookOrder.of_asks {a s t : State} {order : Nat × Nat × List Cand} (h : TookOrder a order s) (asks : OnlyAsks s t) : TookOrder a order t := by
  rw [asks]
  exact ⟨h.mem, h.order, h.loaded⟩

theorem takeRestoreOrder_took (off : s.fn .coding = 0) (step outcome : Nat) (picks : List Cand) :
    TookOrder s (step, outcome, picks) (s.takeRestoreOrder step outcome picks) := by
  unfold State.takeRestoreOrder
  rw [if_neg (not_not_intro off)]
  extract_lets mine header z0 z1 z2
  have taken : TookOrder s (step, outcome, picks) z2 := ⟨State.wr_mem .., congrArg Tiers.order (State.wr_tiers ..), congrArg Tiers.loaded (State.wr_tiers ..)⟩
  clear_value mine z2
  split
  · exact taken
  · next c =>
    split
    · exact taken
    · have reading (n : Nat) : TookOrder s (step, outcome, picks) (z2.modTiers fun t => { t with reading := some (c, n) }) := ⟨taken.mem, taken.order, taken.loaded⟩
      exact (reading _).of_asks (foldl_onlyAsks _ (fun _ _ => fIssue_onlyAsks ..) _ _)

/-! ### Reports and the end of a restore -/

theorem takeRestoreReport_of_none (none : s.tiers.order = none) (shard result cause t : Nat) : s.takeRestoreReport shard result cause t = s := by
  rw [State.takeRestoreReport, none]

theorem takeRestoreReport_of_other {step o t : Nat} {picks : List Cand} (order : s.tiers.order = some (step, o, picks)) (other : t ≠ step) (shard result cause : Nat) :
    s.takeRestoreReport shard result cause t = s := by
  simp only [State.takeRestoreReport, order, if_pos other]

/-- A shard joins those loaded. -/
def State.noteLoaded (s : State) (shard : Nat) : State := s.modTiers fun x => { x with loaded := insertSorted shard x.loaded }

theorem takeRestoreReport_of_last {step o shard : Nat} {picks : List Cand} (order : s.tiers.order = some (step, o, picks))
    (last : ∀ c ∈ picks, c.shard = shard ∨ c.shard ∈ s.tiers.loaded) (cause : Nat) :
    s.takeRestoreReport shard 0 cause step = (s.noteLoaded shard).finishRestore step o := by
  have all : (picks.all fun c => (s.noteLoaded shard).tiers.loaded.contains c.shard) = true := by
    rw [List.all_eq_true]
    intro c hc
    rw [List.contains_eq_mem, decide_eq_true_eq]
    exact mem_insertSorted_iff.mpr (last c hc)
  simp only [State.takeRestoreReport, order, ne_eq, not_true_eq_false, if_false, if_true]
  exact if_pos all

/-- The scalar objects of a restore that has ended. -/
def State.showRestored (s : State) (t outcome service count : Nat) : State :=
  (((((s.wr 0x3304_03 t).wr 0x3304_04 outcome).wr 0x3200_0A t).wr 0x3301_07 service).wr 0x3301_08 count).wr 0x3304_02 3

theorem finishRestore_sets (dict : s.DictOk) (t outcome : Nat) : (s.finishRestore t outcome).tiers.order = none ∧
    (s.finishRestore t outcome).rd 0x3304_02 = 3 ∧ (s.finishRestore t outcome).rd 0x3200_0A = t := by
  let ended : State := s.modTiers fun x => { x with order := none, inventories := [], removed := [], serviceNs := 1000000000 * s.tiers.header.1 }
  let shown := ended.showRestored t outcome s.tiers.header.1 s.tiers.header.2
  have finished : s.finishRestore t outcome = (shown.inc 0x8330_09).ev 0x3307 (be 8 t ++ be 1 outcome) := rfl
  have quiet : Quiet (shown.inc 0x8330_09) (s.finishRestore t outcome) := finished ▸ (Quiet.refl _).ev
  have d1 := State.dictOk_wr (s := ended) dict 0x3304_03 t
  have d2 := State.dictOk_wr d1 0x3304_04 outcome
  have d3 := State.dictOk_wr d2 0x3200_0A t
  have d4 := State.dictOk_wr d3 0x3301_07 s.tiers.header.1
  have d5 := State.dictOk_wr d4 0x3301_08 s.tiers.header.2
  have d6 : shown.DictOk := State.dictOk_wr d5 0x3304_02 3
  have d7 := State.dictOk_inc d6 0x8330_09
  refine ⟨?_, ?_, ?_⟩
  · rw [quiet.tiers, State.inc_tiers]
    simp only [shown, State.showRestored, State.wr_tiers]
    rfl
  · rw [quiet.rd d7 _ (by decide), State.rd_inc d6, if_neg (by decide)]
    exact State.rd_wr_self d5 ..
  · rw [quiet.rd d7 _ (by decide), State.rd_inc d6, if_neg (by decide)]
    simp only [shown, State.showRestored]
    rw [State.rd_wr_ne d5 (by decide), State.rd_wr_ne d4 (by decide), State.rd_wr_ne d3 (by decide), State.rd_wr_self d2]

/-! ### The candidate read -/

theorem shardLoaded_of_waiting (waits : s.tiers.reading = none ∨ s.tiers.order = none ∨ ∃ x ∈ s.fOut, x.use = 3) : s.shardLoaded = s := by
  unfold State.shardLoaded
  split
  · next reading order =>
    refine if_pos (List.any_eq_true.mpr ?_)
    obtain none | none | ⟨x, hx, use⟩ := waits
    · cases reading.symm.trans none
    · cases order.symm.trans none
    · exact ⟨x, hx, decide_eq_true use⟩
  · rfl

end

/-- Settles O60: a selection by its three ends, and each frame and each end by its own lemma. -/
theorem restoresSelectTheNewestCommonStep : Obligations.RestoresSelectTheNewestCommonStep := by
  refine ⟨fun req cands g => ⟨selectRestore_eq_error_two_iff, fun e => eq_two_or_three_of_error, fun refused required t => ?_, fun t o picks selected => ?_⟩,
    fun r s serves => ⟨fun other => ⟨fun kind => ?_, fun kind => ?_, fun kind => ?_⟩, fun job => ⟨fun kind => ?_, fun kind => ?_, fun kind coding => ?_, fun kind off => ?_⟩⟩,
    fun s dev cs => ⟨mem_holdInventory dev cs, fun unasked => takeInventory_of_unasked unasked dev cs⟩,
    fun s x res cause t => ⟨fun none => takeRestoreReport_of_none none x res cause t, fun step o picks order => ⟨fun other => takeRestoreReport_of_other order other x res cause, ?_⟩⟩,
    fun s serves => ⟨fun waits => ?_, ends_of_whenServing (exec_shardLoadComplete s) serves⟩⟩
  · simpa [AllReach] using not_allReach_of_error_three refused required t
  · obtain ⟨picked, newest, rfl⟩ := selected_of_ok selected
    exact ⟨picks_shards picked, fun c hc => pick_least picked hc, fun required => ⟨newest required, selectionOutcome_eq_two_iff required⟩, selectionOutcome_of_ne_two⟩
  · exact ends_of_whenRestore_other (exec_inventory r s) serves kind (by decide) other
  · exact ends_of_whenRestore_other (exec_restoreOrder r s) serves kind (by decide) other
  · exact ends_of_whenRestore_other (exec_restoreReport r s) serves kind (by decide) other
  · exact (ends_of_whenRestore_own (exec_inventory r s) serves kind (by decide) job).of_eq rfl
  · exact (ends_of_whenRestore_own (exec_restoreReport r s) serves kind (by decide) job).of_eq rfl
  · exact (ends_of_whenRestore_own (exec_restoreOrder r s) serves kind (by decide) job).of_eq (takeRestoreOrder_of_coding coding ..)
  · have took := takeRestoreOrder_took off (fld r.f 16 8) (fld r.f 24 1) (orderedPicks r.f)
    exact ⟨_, _, ends_of_whenRestore_own (exec_restoreOrder r s) serves kind (by decide) job, took.mem.trans (ce_mem s r), took.order, took.loaded,
      length_orderedPicks r.f, fun i c named => orderedPicks_getElem? named⟩
  · rintro rfl - rfl last canon
    rw [takeRestoreReport_of_last order last]
    exact finishRestore_sets (s := s.noteLoaded x) canon.dict t o
  · exact (ends_of_whenServing (exec_shardLoadComplete s) serves).of_eq (shardLoaded_of_waiting waits)

end Sys2Proof.Machine
end

section
/-!
Completions at the F-port (R186, R387, R399): what is open, what a completion stores, and what is repeated or given up.
-/

namespace Sys2Proof.Machine

theorem exec_fPortCompletion (tag status : Nat) (s : State) : exec (.fPortCompletion tag status) s = execFPortCompletion tag status s := rfl

theorem fPortCompletion_of_none {s : State} {tag : Nat} (closed : s.fOpen.find? (·.tag = tag) = none) (status : Nat) :
    exec (.fPortCompletion tag status) s = .next s := by
  rw [exec_fPortCompletion, execFPortCompletion, closed]

/-- Command c is open no more. -/
def State.takeAway (s : State) (c : FCmd) : State := { s with fOut := s.fOut.filter (· ≠ c) }

/-- Command c is open no more, and the blocks of a write stand in storage. -/
def State.endCommand (s : State) (c : FCmd) : State :=
  { s with fOut := s.fOut.filter (· ≠ c), flash := if c.write then Sparse.putBytes s.flash (4096 * c.lba) c.data else s.flash }

/-- Command c goes again. -/
def State.goAgain (s : State) (c : FCmd) : State := { s with fOut := mapWhere (fun x => decide (x = c)) (fun x => { x with again := true }) s.fOut }

section
variable {s : State} {c : FCmd} {status : Nat}

theorem fComplete_of_done (done : status = 0) : s.fComplete c status = (s.endCommand c).fDone c true := by
  rw [State.fComplete, if_pos done]
  cases write : c.write <;> simp [State.endCommand, write]

theorem fComplete_of_first_error (error : status ≠ 0) (first : c.again = false) : s.fComplete c status = (s.inc 0x8710_0B).goAgain c := by
  rw [State.fComplete, if_neg error, first]
  rfl

theorem fComplete_of_second_error (error : status ≠ 0) (again : c.again = true) :
    s.fComplete c status = (((s.inc 0x8710_0B).takeAway c).evHub 0x3304 (be 8 c.lba ++ be 1 status)).fDone c false := by
  rw [State.fComplete, if_neg error, again]
  rfl

end

section
variable {s : State} {tag : Nat} {c : FCmd} (isOpen : s.fOpen.find? (·.tag = tag) = some c) (runs : s.sensors.fStopped = false)
include isOpen runs

theorem fPortCompletion_ends (warm : s.dev ≠ 8) (status : Nat) : Ends (.fPortCompletion tag status) s (s.fComplete c (status % 256)) := by
  simp only [Ends, exec_fPortCompletion, execFPortCompletion, isOpen, runs, Bool.false_eq_true, if_false, if_neg warm]

theorem fPortCompletion_frozen (frozen : s.dev = 8) {status : Nat} (done : status % 256 = 0) (write : c.write = true) :
    exec (.fPortCompletion tag status) s = .next (s.endCommand c) := by
  simp only [exec_fPortCompletion, execFPortCompletion, isOpen, runs, Bool.false_eq_true, if_false, if_pos frozen, done, write, and_self, if_true, State.endCommand]

end

/-- Settles O28, by how the completion ends the command: well, with a first error, or with an error of the repeat. -/
theorem storageCommandsComplete : Obligations.StorageCommandsComplete := by
  refine ⟨fun s g st closed => fPortCompletion_of_none closed st, fun s g st c isOpen runs => ⟨fun warm done => ?_, fun warm error first => ?_,
    fun warm error again => ?_, fun frozen done write => ?_⟩⟩
  · refine ⟨(fPortCompletion_ends isOpen runs warm st).of_eq (fComplete_of_done done), ?_⟩
    exact (K.settle (K.fDone (K.rfl' (s.endCommand c)))).flash
  · refine (fPortCompletion_ends isOpen runs warm st).of_eq ((fComplete_of_first_error error first).trans ?_)
    rw [State.goAgain, State.inc_fOut]
  · refine (fPortCompletion_ends isOpen runs warm st).of_eq ((fComplete_of_second_error error again).trans ?_)
    rw [State.takeAway, State.inc_fOut]
  · rw [fPortCompletion_frozen isOpen runs frozen done write, State.endCommand, write]
    rfl

end Sys2Proof.Machine
end

section
/-!
Snapshots (R178 to R185, R189): reports and the adaptive interval, orders and triggers, the seal, the copy, and how a snapshot ends.
-/

namespace Sys2Proof.Machine

/-! ### Roots (R180) -/

theorem irootAux_spec {x n k acc : Nat} (low : acc ^ n ≤ x) (high : x < (acc + 2 ^ k) ^ n) :
    irootAux x n k acc ^ n ≤ x ∧ x < (irootAux x n k acc + 1) ^ n := by
  induction k generalizing acc with
  | zero => exact ⟨low, high⟩
  | succ k ih =>
    have double : acc + 2 ^ k + 2 ^ k = acc + 2 ^ (k + 1) := by rw [Nat.pow_succ]; omega
    rw [irootAux]
    split
    · next below => exact ih below (double.symm ▸ high)
    · next above => exact ih low (Nat.not_le.mp above)

theorem iroot_spec {n : Nat} (positive : 0 < n) (x : Nat) : iroot x n ^ n ≤ x ∧ x < (iroot x n + 1) ^ n := by
  refine irootAux_spec (by rw [Nat.zero_pow positive]; exact Nat.zero_le x) ?_
  have wide : bitLength x ≤ (bitLength x / n + 1) * n := by
    rw [Nat.succ_mul]
    exact Nat.le_of_lt (Nat.lt_div_mul_add positive)
  rw [Nat.zero_add, ← Nat.pow_mul]
  exact Nat.lt_of_lt_of_le (lt_two_pow_bitLength x) (Nat.pow_le_pow_right Nat.two_pos wide)

theorem adaptive_bounds (c m : Nat) : 60 ≤ adaptive c m ∧ adaptive c m ≤ 3600 := by
  unfold adaptive
  omega

theorem adaptive_between {c m : Nat} (low : 60 < adaptive c m) (high : adaptive c m < 3600) : adaptive c m = iroot (2 * c * m / 1000000000) 2 := by
  unfold adaptive at low high ⊢
  omega

/-! ### A Snapshot report (R180, R181) -/

/-- The deep tiers without what the reports of the last order change. -/
def Tiers.unreported (t : Tiers) : Tiers := { t with costs := [], awaited := [] }

/-- From a, the state s has kept host memory, the S-ports, the deep tiers but for the costs and the members awaited, and every
scalar object but the two that show the cost and the adaptive interval. -/
structure Reported (a s : State) : Prop where
  mem : s.mem = a.mem
  sport : s.sport = a.sport
  tiers : s.tiers.unreported = a.tiers.unreported
  rd : a.DictOk → ∀ k, k ≠ 0x3301_05 → k ≠ 0x3301_09 → s.rd k = a.rd k

namespace Reported
variable {a s : State}

theorem snap (h : Reported a s) : s.tiers.snap = a.tiers.snap := by
  have same := congrArg Tiers.snap h.tiers
  exact same

theorem images (h : Reported a s) : s.tiers.images = a.tiers.images := by
  have same := congrArg Tiers.images h.tiers
  exact same

theorem orderNum (h : Reported a s) : s.tiers.orderNum = a.tiers.orderNum := by
  have same := congrArg Tiers.orderNum h.tiers
  exact same

theorem orderAt (h : Reported a s) : s.tiers.orderAt = a.tiers.orderAt := by
  have same := congrArg Tiers.orderAt h.tiers
  exact same

theorem orderStep (h : Reported a s) : s.tiers.orderStep = a.tiers.orderStep := by
  have same := congrArg Tiers.orderStep h.tiers
  exact same

end Reported

section
variable {s : State}

theorem refreshAdaptive_tiers (s : State) : s.refreshAdaptive.tiers = s.tiers := by
  simp only [State.refreshAdaptive, State.wr_tiers]

theorem refreshAdaptive_rd (dict : s.DictOk) {k : Nat} (interval : k ≠ 0x3301_05) (cost : k ≠ 0x3301_09) : s.refreshAdaptive.rd k = s.rd k := by
  unfold State.refreshAdaptive
  extract_lets done c z
  rw [State.rd_wr_ne (State.dictOk_wr dict ..) interval, State.rd_wr_ne dict cost]

theorem meanFailure_wr_cost (dict : s.DictOk) (v : Nat) : (s.wr 0x3301_09 v).meanFailure = s.meanFailure := by
  unfold State.meanFailure
  rw [State.rd_wr_ne dict (by decide), State.rd_wr_ne dict (by decide), State.rd_wr_ne dict (by decide)]

theorem refreshAdaptive_interval (dict : s.DictOk) (unknown : s.meanFailure = none) : s.refreshAdaptive.rd 0x3301_05 = 300 := by
  unfold State.refreshAdaptive
  extract_lets done c z
  rw [State.rd_wr_self (State.dictOk_wr dict ..), meanFailure_wr_cost dict, unknown]

/-- The lead takes note of a report: its cost counts, and any outcome but 0 ends the member's part. -/
def State.noteReport (s : State) (dev outcome cost : Nat) : State :=
  s.modTiers fun t => { t with
    costs := match t.costs with | [] => [cost] | c :: cs => max c cost :: cs
    awaited := if outcome = 0 then t.awaited else t.awaited.filter (· ≠ dev) }

theorem takeSnapReport_of_other {num dev : Nat} (other : num ≠ s.tiers.orderNum ∨ dev ∉ s.tiers.awaited) (outcome cost : Nat) :
    s.takeSnapReport dev outcome num cost = s := if_pos (by simpa using other)

theorem takeSnapReport_of_awaited {num dev : Nat} (last : num = s.tiers.orderNum) (awaited : dev ∈ s.tiers.awaited) (outcome cost : Nat) :
    s.takeSnapReport dev outcome num cost = (s.noteReport dev outcome cost).refreshAdaptive := if_neg (by simp [last, awaited])

theorem takeSnapReport_reported (dev outcome num cost : Nat) : Reported s (s.takeSnapReport dev outcome num cost) := by
  by_cases counts : num = s.tiers.orderNum ∧ dev ∈ s.tiers.awaited
  · obtain ⟨last, awaited⟩ := counts
    rw [takeSnapReport_of_awaited last awaited]
    refine ⟨?_, ?_, ?_, fun dict k interval cost => refreshAdaptive_rd (s := s.noteReport ..) dict interval cost⟩
    · simp only [State.refreshAdaptive, State.wr_mem, State.noteReport, State.modTiers_mem]
    · simp only [State.refreshAdaptive, State.wr_sport, State.noteReport, State.modTiers_sport]
    · rw [refreshAdaptive_tiers]
      rfl
  · rw [takeSnapReport_of_other (Classical.not_and_iff_not_or_not.mp counts)]
    exact ⟨rfl, rfl, rfl, fun _ _ _ _ => rfl⟩

theorem snapReport_reported (step outcome reason num cost size : Nat) : Reported s (s.snapReport step outcome reason num cost size) := by
  unfold State.snapReport
  split
  · exact takeSnapReport_reported ..
  · exact ⟨State.send_mem .., State.send_sport .., congrArg Tiers.unreported (State.send_tiers ..), fun _ k _ _ => State.rd_congr (State.send_dict ..) k⟩

/-- The cost of a report counts among the costs of the order in hand. -/
theorem noteReport_cost (dev outcome cost : Nat) : ∀ c ∈ (s.noteReport dev outcome cost).tiers.costs.head?, cost ≤ c := by
  unfold State.noteReport
  rw [State.modTiers_tiers]
  cases s.tiers.costs with
  | nil => exact fun c hc => Nat.le_of_eq (Option.some.inj hc)
  | cons d costs => exact fun c hc => Nat.le_trans (Nat.le_max_right d cost) (Nat.le_of_eq (Option.some.inj hc))

/-- An outcome other than 0 ends the part of the member that reports it, and of no other. -/
theorem mem_noteReport {dev outcome cost : Nat} (ends : outcome ≠ 0) (d : Nat) :
    d ∈ (s.noteReport dev outcome cost).tiers.awaited ↔ d ∈ s.tiers.awaited ∧ d ≠ dev := by
  simp [State.noteReport, ends]

/-! ### An order (R181) -/

/-- An order for a step comes too late. -/
def State.tooLate (s : State) (step : Nat) : Prop :=
  s.tiersOn = false ∨ step < s.stepDone ∨ s.tiers.snap.isSome = true ∨ ∃ b ∈ s.couch.bounds, b.1 = step ∧ b.2 < s.epoch

/-- The number of the last order is kept. -/
def State.noteOrder (s : State) (num : Nat) : State := s.modTiers fun t => { t with orderNum := num }

/-- A snapshot that has been ordered and is not yet sealed. -/
def orderedSnap (step ex num : Nat) : Snap :=
  { number := num, step := step, export_ := ex, phase := 0, bEpoch := 0, sealAt := 0, pause := 0, armed := [], cursors := []
    saved := [], taken := [], heldNs := 0, img := [], slot := 0, head := [], linesW := 0, linesN := 0, wmW := 0, wmN := 0
    was := (0, 0), mean := 0, excess := 0, bytes := 0, parts := [] }

/-- A snapshot is in hand. -/
def State.holdSnap (s : State) (c : Snap) : State := s.modTiers fun t => { t with snap := some c }

variable {step : Nat}

theorem tooLate_iff : (!s.tiersOn || decide (s.stepDone > step) || s.tiers.snap.isSome || s.couch.bounds.any (fun b => b.1 == step && decide (b.2 < s.epoch))) = true ↔
    s.tooLate step := by
  simp [State.tooLate, or_assoc]

theorem takeSnapOrder_of_late (late : s.tooLate step) (ex num : Nat) : s.takeSnapOrder step ex num = (s.noteOrder num).snapReport step 3 0 num 0 0 :=
  if_pos (tooLate_iff.mpr late)

theorem takeSnapOrder_of_timely (timely : ¬ s.tooLate step) (ex num : Nat) : s.takeSnapOrder step ex num = (s.noteOrder num).holdSnap (orderedSnap step ex num) :=
  if_neg (mt tooLate_iff.mp timely)

/-- An order taken keeps host memory and what the lead notes of the order, its number as it is given. -/
structure TookSnapOrder (a : State) (num : Nat) (s : State) : Prop where
  mem : s.mem = a.mem
  orderNum : s.tiers.orderNum = num
  orderAt : s.tiers.orderAt = a.tiers.orderAt
  orderStep : s.tiers.orderStep = a.tiers.orderStep

theorem takeSnapOrder_took (ex num : Nat) : TookSnapOrder s num (s.takeSnapOrder step ex num) := by
  by_cases late : s.tooLate step
  · rw [takeSnapOrder_of_late late]
    have reported := snapReport_reported (s := s.noteOrder num) step 3 0 num 0 0
    exact ⟨reported.mem, reported.orderNum, reported.orderAt, reported.orderStep⟩
  · rw [takeSnapOrder_of_timely late]
    exact ⟨rfl, rfl, rfl, rfl⟩

/-! ### Triggers (R179) -/

/-- The lead notes an order that it sends now. -/
def State.beginOrder (s : State) (num : Nat) : State :=
  s.modTiers fun t => { t with orderNum := num, orderAt := s.now, orderStep := s.step, awaited := s.member.members, costs := 0 :: t.costs.take 8 }

theorem sendSnapOrder_eq (s : State) (ex : Nat) : ∃ z num step field, num = (s.tiers.orderNum + 1) % 2 ^ 32 ∧ OnlySends (s.beginOrder num) z ∧
    s.sendSnapOrder ex = z.takeSnapOrder step field num :=
  ⟨_, _, _, _, rfl, OnlySends.foldl (.refl _) fun _ _ sends => sends.sendMember _ _, rfl⟩

theorem fireSnap_of_elsewhere (elsewhere : ¬ (s.leadOf = s.own ∧ s.tiersOn = true)) (ex : Nat) : s.fireSnap ex = s := if_pos elsewhere

/-- A trigger waits, and event 0x3303 tells why. -/
def State.deferSnap (s : State) (ex : Nat) : State :=
  (s.modTiers fun t => { t with deferred := t.deferred.filter (fun y => y.2 ≠ ex) ++ [(s.deferReason, ex)] }).evHub 0x3303 (be 1 s.deferReason)

section
variable (lead : s.leadOf = s.own) (on : s.tiersOn = true)
include lead on

theorem fireSnap_of_deferred (waits : s.deferReason ≠ 0) (ex : Nat) : s.fireSnap ex = s.deferSnap ex := by
  rw [State.fireSnap, if_neg (not_not_intro ⟨lead, on⟩)]
  split
  · next none => exact absurd none waits
  · rfl

theorem fireSnap_of_free (free : s.deferReason = 0) (ex : Nat) : s.fireSnap ex = s.sendSnapOrder ex := by
  rw [State.fireSnap, if_neg (not_not_intro ⟨lead, on⟩)]
  split
  · rfl
  · next waits => exact absurd free waits

end

theorem sendSnapOrder_took (s : State) (ex : Nat) :
    TookSnapOrder (s.beginOrder ((s.tiers.orderNum + 1) % 2 ^ 32)) ((s.tiers.orderNum + 1) % 2 ^ 32) (s.sendSnapOrder ex) := by
  obtain ⟨z, num, step, field, rfl, sends, sent⟩ := sendSnapOrder_eq s ex
  have took := takeSnapOrder_took (s := z) (step := step) field ((s.tiers.orderNum + 1) % 2 ^ 32)
  rw [← sent] at took
  have mem := congrArg State.mem sends
  have tiers := congrArg State.tiers sends
  exact ⟨took.mem.trans mem, took.orderNum, took.orderAt.trans (congrArg Tiers.orderAt tiers), took.orderStep.trans (congrArg Tiers.orderStep tiers)⟩

theorem fireDeferred_of_none (none : s.tiers.deferred.find? (fun d => d.1 ≠ s.deferReason) = none) : s.fireDeferred = s := by
  rw [State.fireDeferred, none]

theorem fireDeferred_of_some {d : Nat × Nat} (cleared : s.tiers.deferred.find? (fun d => d.1 ≠ s.deferReason) = some d) :
    s.fireDeferred = (s.modTiers fun t => { t with deferred := t.deferred.filter (fun y => y ≠ d) }).fireSnap d.2 := by
  rw [State.fireDeferred, cleared]

theorem exec_snapshotStepTrigger (s : State) : exec .snapshotStepTrigger s = execSnapshotStepTrigger s := rfl

theorem exec_snapshotTimerTrigger (s : State) : exec .snapshotTimerTrigger s = execSnapshotTimerTrigger s := rfl

theorem exec_snapshotDeferralCleared (s : State) : exec .snapshotDeferralCleared s = whenServing s State.fireDeferred := rfl

theorem exec_copyOnWriteHoldLimit (s : State) : exec .copyOnWriteHoldLimit s = execCopyOnWriteHoldLimit s := rfl

/-! ### SNAPSHOT_ORDER and SNAPSHOT_REPORT (R149, R180, R181) -/

theorem exec_snapshotOrder (r : Rx) (s : State) : exec (.snapshotOrder r) s = frameRow [0x30] r s fun s =>
    s.gated r.f fun s => s.takeSnapOrder (fld r.f 16 8) (fld r.f 24 1) (fld r.f 28 4) := rfl

theorem exec_snapshotReport (r : Rx) (s : State) : exec (.snapshotReport r) s = frameRow [0x31] r s fun s =>
    s.gated r.f fun s => s.takeSnapReport (fld r.f 2 2) (fld r.f 24 1) (fld r.f 28 4) (fld r.f 32 8) := rfl

section
variable {c : Instr} {kind : Nat} {r : Rx} {k : State → State} (means : exec c s = frameRow [kind] r s fun s => s.gated r.f k)
  (serves : s.serving = true) (own : frameKind r = kind) (assigned : kind ∈ assignedKinds)
include means serves own assigned

theorem ends_of_gated : Ends c s ((s.ce r).gated r.f k) := by
  have ends := ends_of_frameRow means serves own (List.mem_singleton_self kind) assigned
  exact ends

theorem ends_of_gate_drop (drop : ((s.ce r).gate r.f).1 = false) : Ends c s ((s.ce r).gate r.f).2 :=
  (ends_of_gated means serves own assigned).of_eq (gated_of_drop drop k)

theorem ends_of_gate_pass (pass : ((s.ce r).gate r.f).1 = true) : Ends c s (k ((s.ce r).gate r.f).2) :=
  (ends_of_gated means serves own assigned).of_eq (gated_of_pass pass k)

end

/-! ### A snapshot abandoned (R178, R180, R184) -/

theorem freeChains_tiers (s : State) : s.freeChains.tiers = s.tiers := rfl

theorem freeChains_mem (s : State) : s.freeChains.mem = s.mem := rfl

theorem freeChains_dict (s : State) : s.freeChains.dict = s.dict := rfl

theorem slotStatus_tiers (s : State) (k i step status : Nat) : (s.slotStatus k i step status).tiers = s.tiers := State.wrO_tiers ..

theorem evHub_tiers (s : State) (code : Nat) (payload : Bytes) : (s.evHub code payload).tiers = s.tiers := (Quiet.refl s).evHub.tiers

theorem abandonSnap_snap (s : State) (reason : Nat) : (s.abandonSnap reason).tiers.snap = none := by
  unfold State.abandonSnap
  split
  · next none => exact none
  · next c _ =>
    split
    · rfl
    · extract_lets c z0 z1 z2 z3 z4 z5
      have dropped : z2.tiers.snap = none := by
        simp only [z2]
        split <;> rw [slotStatus_tiers] <;> rfl
      rw [(snapReport_reported ..).snap, freeChains_tiers]
      simp only [z5, z4, z3, evHub_tiers, State.inc_tiers, State.wr_tiers, dropped]

theorem abandonSnap_mem (s : State) (reason : Nat) : (s.abandonSnap reason).mem = s.mem := (KeepsStored.refl s).abandonSnap.mem

/-! ### SEAL_RELEASE (R182) -/

theorem exec_sealRelease (s : State) : exec .sealRelease s = whenServing s State.sealRelease := rfl

theorem sealRelease_of_none (none : s.tiers.snap = none) : s.sealRelease = s := by
  rw [State.sealRelease, none]

/-- The seal has ended: snapshot c copies, and the pause of its seal is shown. -/
def State.showPause (s : State) (c : Snap) : State :=
  let z := (((s.holdSnap c).wr 0x3300_07 2).wr 0x8330_05 (min c.pause (2 ^ 32 - 1)))
  z.wr 0x8330_06 (max (z.rd 0x8330_06) (min c.pause (2 ^ 32 - 1)))

/-- Snapshot c as its copy begins. -/
def State.unsealed (s : State) (c : Snap) : Snap := { c with phase := 2, pause := s.now - c.sealAt }

/-- The copy has begun and the report has gone to the lead. -/
def State.reportSeal (s : State) (c : Snap) : State := (s.showPause c).snapReport c.step 0 0 c.number c.cost 0

theorem reportSeal_reported (s : State) (c : Snap) : Reported (s.showPause c) (s.reportSeal c) := snapReport_reported ..

theorem reportSeal_keeps (s : State) (c : Snap) : (s.reportSeal c).mem = s.mem ∧ (s.reportSeal c).sport = s.sport ∧ (s.reportSeal c).tiers.snap = some c := by
  have reported := reportSeal_reported s c
  refine ⟨reported.mem.trans ?_, reported.sport.trans ?_, reported.snap.trans ?_⟩
  · simp only [State.showPause, State.holdSnap, State.wr_mem, State.modTiers_mem]
  · simp only [State.showPause, State.holdSnap, State.wr_sport, State.modTiers_sport]
  · simp only [State.showPause, State.holdSnap, State.wr_tiers, State.modTiers_tiers]

theorem reportSeal_shows (dict : s.DictOk) (c : Snap) : (s.reportSeal c).rd 0x3300_07 = 2 ∧ (s.reportSeal c).rd 0x8330_05 = min c.pause (2 ^ 32 - 1) := by
  have d0 : (s.holdSnap c).DictOk := dict
  have d1 := State.dictOk_wr d0 0x3300_07 2
  have d2 := State.dictOk_wr d1 0x8330_05 (min c.pause (2 ^ 32 - 1))
  have d3 : (s.showPause c).DictOk := State.dictOk_wr d2 ..
  have reported := reportSeal_reported s c
  constructor
  · rw [reported.rd d3 _ (by decide) (by decide), State.showPause, State.rd_wr_ne d2 (by decide), State.rd_wr_ne d1 (by decide), State.rd_wr_self d0]
  · rw [reported.rd d3 _ (by decide) (by decide), State.showPause, State.rd_wr_ne d2 (by decide), State.rd_wr_self d1]

section
variable {c : Snap} (hand : s.tiers.snap = some c)
include hand

theorem sealRelease_of_unarmed (unarmed : c.phase ≠ 1 ∨ ∃ n ∈ s.actives, n ∉ c.armed) : s.sealRelease = s := by
  rw [State.sealRelease, hand]
  refine if_pos (unarmed.imp_right fun ⟨n, active, out⟩ all => out ?_)
  simpa using List.all_eq_true.mp all n active

theorem sealRelease_of_armed (sealing : c.phase = 1) (armed : ∀ n ∈ s.actives, n ∈ c.armed) : s.sealRelease = (s.reportSeal (s.unsealed c)).drainHeld := by
  rw [State.sealRelease, hand]
  refine if_neg (not_or.mpr ⟨not_not_intro sealing, not_not_intro (List.all_eq_true.mpr fun n active => ?_)⟩)
  simpa using armed n active

end

/-! ### SNAPSHOT_COMPLETE (R185, R189) -/

theorem exec_snapshotComplete (s : State) : exec .snapshotComplete s = whenServing s State.snapComplete := rfl

theorem snapComplete_of_none (none : s.tiers.snap = none) : s.snapComplete = s := by
  rw [State.snapComplete, none]

/-- No snapshot is in hand, and one more image is complete. -/
def State.keepImage (s : State) : State := s.modTiers fun t => { t with snap := none, images := t.images + 1 }

/-- The image of c is taken and counted. -/
def State.countImage (s : State) (c : Snap) : State := (s.keepImage.inc 0x8330_01).incBy 0x8330_07 c.bytes

/-- The objects that show the image of c complete. -/
def State.showImage (s : State) (c : Snap) : State := ((s.wr 0x3300_08 c.step).wr 0x3300_07 0).slotStatus 0x3300_04 c.slot c.step 2

/-- Event 0x3301 reports the image of c. -/
def State.tellImage (s : State) (c : Snap) : State := s.evHub 0x3301 (be 8 c.step ++ be 8 c.bytes ++ be 4 ((s.now - c.sealAt) / 1000000))

/-- The image of c is complete and reported. -/
def State.endSnap (s : State) (c : Snap) : State := (((s.countImage c).showImage c).tellImage c).freeChains.snapReport c.step 1 0 c.number c.cost c.bytes

theorem endSnap_reported (s : State) (c : Snap) : Reported (((s.countImage c).showImage c).tellImage c).freeChains (s.endSnap c) := snapReport_reported ..

theorem tellImage_quiet (s : State) (c : Snap) : Quiet ((s.countImage c).showImage c) (((s.countImage c).showImage c).tellImage c) := (Quiet.refl _).evHub

theorem endSnap_keeps (s : State) (c : Snap) : (s.endSnap c).mem = s.mem ∧ (s.endSnap c).tiers.snap = none ∧ (s.endSnap c).tiers.images = s.tiers.images + 1 := by
  have reported := endSnap_reported s c
  have quiet := tellImage_quiet s c
  have tiers : ((s.countImage c).showImage c).tiers = { s.tiers with snap := none, images := s.tiers.images + 1 } := by
    simp only [State.showImage, State.countImage, slotStatus_tiers, State.wr_tiers, State.incBy_tiers, State.inc_tiers, State.keepImage, State.modTiers_tiers]
  have mem : ((s.countImage c).showImage c).mem = s.mem := by
    simp only [State.showImage, State.countImage, State.slotStatus, State.wrO_mem, State.wr_mem, State.incBy_mem, State.inc_mem, State.keepImage, State.modTiers_mem]
  refine ⟨reported.mem.trans ((freeChains_mem _).trans (quiet.mem.trans mem)), reported.snap.trans ?_, reported.images.trans ?_⟩
  · rw [freeChains_tiers, quiet.tiers, tiers]
  · rw [freeChains_tiers, quiet.tiers, tiers]

theorem endSnap_counts (dict : s.DictOk) (c : Snap) : (s.endSnap c).rd 0x8330_01 = min (s.rd 0x8330_01 + 1) (objMax 0x8330_01) := by
  have d0 : s.keepImage.DictOk := dict
  have d1 := State.dictOk_inc d0 0x8330_01
  have d2 : (s.countImage c).DictOk := State.dictOk_wr d1 ..
  have d3 := State.dictOk_wr d2 0x3300_08 c.step
  have d4 := State.dictOk_wr d3 0x3300_07 0
  have d5 : ((s.countImage c).showImage c).DictOk := by
    rw [State.DictOk, State.showImage, State.slotStatus, State.wrO_dict]
    exact d4
  have quiet := tellImage_quiet s c
  have d6 : (((s.countImage c).showImage c).tellImage c).freeChains.DictOk := by
    rw [State.DictOk, freeChains_dict]
    exact quiet.dictOk d5
  rw [(endSnap_reported s c).rd d6 _ (by decide) (by decide), State.rd_congr (freeChains_dict _),
    quiet.rd d5 _ (by decide), State.showImage, State.slotStatus, State.rd_wrO, State.rd_wr_ne d3 (by decide), State.rd_wr_ne d2 (by decide),
    State.countImage, State.rd_incBy d1, if_neg (by decide), State.rd_inc d0, if_pos rfl]
  rfl

section
variable {c : Snap} (hand : s.tiers.snap = some c)
include hand

theorem snapComplete_of_unwritten (unwritten : c.phase ≠ 3 ∨ c.parts ≠ [] ∨ ∃ x ∈ s.fOut, x.use = 1) : s.snapComplete = s := by
  rw [State.snapComplete, hand]
  exact if_pos (by simpa using unwritten)

theorem snapComplete_of_written (completing : c.phase = 3) (parts : c.parts = []) (written : ∀ x ∈ s.fOut, x.use ≠ 1) :
    s.snapComplete = (s.endSnap c).startExport c := by
  rw [State.snapComplete, hand]
  exact if_neg (by simpa [completing, parts] using written)

end

/-! ### The copy and the image (R183, R187) -/

theorem exec_copierLineRead (n : Nat) (s : State) : exec (.copierLineRead n) s = sliceServing n s (State.copyStep · n) := rfl

theorem copyStep_of_none (none : s.tiers.snap = none) (n : Nat) : s.copyStep n = s.drainHeld.finishCopy := by
  rw [State.copyStep, State.copyLine, none]

end

theorem place_w (c : Snap) (n : Nat) : c.place 0 n = 4096 + 256 * n := rfl

theorem place_n (c : Snap) (n : Nat) : c.place 1 n = c.offN + 256 * n := rfl

/-- The section of space W ends before that of space N begins. -/
theorem offN_after (c : Snap) : 4096 + 256 * c.linesW ≤ c.offN := by
  unfold Snap.offN blocksOf ceilDiv
  omega

theorem rows_apart (base : Nat) {n n' : Nat} (other : n ≠ n') : base + 256 * n + 256 ≤ base + 256 * n' ∨ base + 256 * n' + 256 ≤ base + 256 * n := by
  omega

theorem place_w_before (c : Snap) {n : Nat} (within : n < c.linesW) (n' : Nat) : c.place 0 n + 256 ≤ c.place 1 n' := by
  have after := offN_after c
  rw [place_w, place_n]
  omega

theorem places_apart {c : Snap} {sp n sp' n' : Nat} (first : sp = 0 ∧ n < c.linesW ∨ sp = 1) (second : sp' = 0 ∧ n' < c.linesW ∨ sp' = 1)
    (other : (sp, n) ≠ (sp', n')) : c.place sp n + 256 ≤ c.place sp' n' ∨ c.place sp' n' + 256 ≤ c.place sp n := by
  obtain ⟨rfl, within⟩ | rfl := first
  · obtain ⟨rfl, -⟩ | rfl := second
    · exact rows_apart 4096 fun same => other (congrArg (Prod.mk 0) same)
    · exact .inl (place_w_before c within n')
  · obtain ⟨rfl, within⟩ | rfl := second
    · exact .inr (place_w_before c within n)
    · exact rows_apart c.offN fun same => other (congrArg (Prod.mk 1) same)

theorem put_reads {c : Snap} (canon : Sparse.wf (fun _ => 0) c.img = true) (sp n : Nat) {bs : Bytes} (whole : bs.length = 256) :
    Sparse.getBytes (c.put sp n bs).img (c.place sp n) 256 = bs := by
  rw [← whole]
  exact Sparse.getBytes_putBytes canon (c.place sp n) bs

theorem put_apart {c : Snap} (canon : Sparse.wf (fun _ => 0) c.img = true) {sp n b : Nat} {bs : Bytes} (whole : bs.length = 256)
    (out : b < c.place sp n ∨ c.place sp n + 256 ≤ b) : Sparse.getBytes (c.put sp n bs).img b 1 = Sparse.getBytes c.img b 1 :=
  congrArg (fun x => [x]) (Sparse.get_putBytes_outside canon (whole.symm ▸ out))

/-- Settles O59: each trigger, frame and limit by its own lemma, and the seal and the end of a snapshot by what they leave. -/
theorem snapshotsAreOrderedSealedCopiedAndEnded : Obligations.SnapshotsAreOrderedSealedCopiedAndEnded := by
  refine ⟨fun s serves => ⟨ends_of_whenServing (exec_snapshotStepTrigger s) serves, ends_of_whenServing (exec_snapshotTimerTrigger s) serves, fun none => ?_,
      fun d cleared => ?_, ends_of_whenServing (exec_copyOnWriteHoldLimit s) serves⟩,
    fun s ex => ⟨fun elsewhere => fireSnap_of_elsewhere elsewhere ex, fun lead on waits => fireSnap_of_deferred lead on waits ex, fun lead on free => ?_⟩,
    fun r s serves => ⟨fun kind => ⟨fun drop => ?_, fun pass => ?_⟩, fun kind => ⟨fun drop => ?_, fun pass => ?_⟩⟩,
    fun s step ex num => ⟨fun late => takeSnapOrder_of_late late ex num, fun timely => ?_⟩,
    fun s dev outcome num cost => ⟨fun other => takeSnapReport_of_other other outcome cost, fun last awaited => ?_⟩,
    fun c m => ⟨(adaptive_bounds c m).1, (adaptive_bounds c m).2, fun low high => ?_⟩,
    fun s serves => ⟨fun none => ⟨?_, ?_⟩, fun c hand => ⟨fun unarmed => ?_, fun unwritten => ?_, fun sealing armed => ?_, fun completing parts written => ?_⟩⟩,
    fun s k => ⟨abandonSnap_snap s k, abandonSnap_mem s k⟩,
    fun n s built active serves => ⟨(ends_of_sliceServing built active serves (exec_copierLineRead n s)).of_eq rfl, fun none => copyStep_of_none none n⟩,
    fun c sp n sp' n' first second other => places_apart first second other,
    fun c sp n bs canon whole => ⟨put_reads canon sp n whole, fun b out => put_apart canon whole out⟩⟩
  · exact (ends_of_whenServing (exec_snapshotDeferralCleared s) serves).of_eq (fireDeferred_of_none none)
  · exact (ends_of_whenServing (exec_snapshotDeferralCleared s) serves).of_eq (fireDeferred_of_some cleared)
  · have took := sendSnapOrder_took s ex
    rw [fireSnap_of_free lead on free]
    exact ⟨took.orderNum, took.orderStep, took.orderAt, took.mem⟩
  · exact ends_of_gate_drop (exec_snapshotOrder r s) serves kind (by decide) drop
  · exact (ends_of_gate_pass (exec_snapshotOrder r s) serves kind (by decide) pass).of_eq rfl
  · exact ends_of_gate_drop (exec_snapshotReport r s) serves kind (by decide) drop
  · exact (ends_of_gate_pass (exec_snapshotReport r s) serves kind (by decide) pass).of_eq rfl
  · rw [takeSnapOrder_of_timely timely]
    exact ⟨orderedSnap step ex num, rfl, rfl, rfl, rfl, rfl⟩
  · rw [takeSnapReport_of_awaited last awaited]
    extract_lets t
    have tiers : t.tiers = (s.noteReport dev outcome cost).tiers := refreshAdaptive_tiers _
    rw [tiers]
    refine ⟨fun going => if_pos going, fun ends => ⟨fun still => ((mem_noteReport ends dev).mp still).2 rfl, fun d apart => ?_⟩, noteReport_cost dev outcome cost,
      fun canon unknown => refreshAdaptive_interval (s := s.noteReport dev outcome cost) canon.dict unknown⟩
    exact (mem_noteReport ends d).trans (and_iff_left apart)
  · rw [adaptive_between low high]
    exact iroot_spec Nat.two_pos _
  · exact (ends_of_whenServing (exec_sealRelease s) serves).of_eq (sealRelease_of_none none)
  · exact (ends_of_whenServing (exec_snapshotComplete s) serves).of_eq (snapComplete_of_none none)
  · exact (ends_of_whenServing (exec_sealRelease s) serves).of_eq (sealRelease_of_unarmed hand unarmed)
  · exact (ends_of_whenServing (exec_snapshotComplete s) serves).of_eq (snapComplete_of_unwritten hand unwritten)
  · obtain ⟨mem, sport, snap⟩ := reportSeal_keeps s (s.unsealed c)
    exact ⟨_, (ends_of_whenServing (exec_sealRelease s) serves).of_eq (sealRelease_of_armed hand sealing armed), mem, sport, snap,
      fun canon => reportSeal_shows canon.dict (s.unsealed c)⟩
  · obtain ⟨mem, snap, images⟩ := endSnap_keeps s c
    exact ⟨_, (ends_of_whenServing (exec_snapshotComplete s) serves).of_eq (snapComplete_of_written hand completing parts written), snap, images, mem,
      fun canon => endSnap_counts canon.dict c⟩

end Sys2Proof.Machine
end

section
/-!
Contributions, results, taints and peak notices (R202, R209, R210, R213, R214, R217 to R219): what a home does with a
contribution, what a receiver does with a result and a contributor with a taint, and the timeouts of the reduction.
-/

namespace Sys2Proof.Machine

/-! ### A contribution at the home of its chunk (R209, R210) -/

section
variable {s : State} {f : Bytes}

theorem takeContribution_of_elsewhere (out : (fld f 1 1).testBit 3 = false ∨ s.keyKnown (keyOf f) = false ∨ s.homeOf (keyOf f) ≠ s.own ∨
    (keyOf f).step ≤ s.committed) : s.takeContribution f = s :=
  if_pos (by simpa only [Bool.not_eq_true] using out)

/-- What R209 asks of a contribution before the slots of the home are looked at. -/
structure Admissible (s : State) (f : Bytes) : Prop where
  member : (fld f 1 1).testBit 3 = true
  known : s.keyKnown (keyOf f) = true
  home : s.homeOf (keyOf f) = s.own
  uncommitted : s.committed < (keyOf f).step
  pass : (s.redGate f (keyOf f)).1 = true
  format : fld f 26 1 = 2 ∨ fld f 26 1 = 3 ∨ fld f 26 1 = 0xC
  index : fld f 42 2 < fld f 32 2
  whole : f.length = 64 + 512 * gWidth (fld f 26 1)

/-- The slot that holds contribution f alone. -/
def firstSlot (f : Bytes) : HomeSlot := HomeSlot.add ⟨keyOf f, fld f 27 1, fld f 32 2, fld f 26 1, [], [], 0, -32768, 0, 0, 0, 0, false, 0⟩ f

/-- The home opens a slot for the first contribution of a key and attempt. -/
def State.openSlot (s : State) (f : Bytes) : State :=
  if ¬ s.redRoom (keyOf f) then s
  else if (firstSlot f).c = fld f 32 2 then s.homeResult (firstSlot f)
  else s.modRed fun r => { r with homes := r.homes ++ [firstSlot f] }

/-- A further contribution joins slot h. -/
def State.joinSlot (s : State) (f : Bytes) (h : HomeSlot) : State :=
  if h.e ≠ fld f 32 2 ∨ h.fmt ≠ fld f 26 1 ∨ h.seen.contains (fld f 42 2) then s
  else if (h.add f).c = fld f 32 2 then s.homeResult (h.add f)
  else s.modRed fun r => { r with
    homes := mapWhere (fun x => decide (x.key = keyOf f ∧ x.attempt = fld f 27 1)) (fun _ => h.add f) r.homes }

/-- The slot of a home for the key and attempt of contribution f. -/
def State.slotFor (s : State) (f : Bytes) : Option HomeSlot := s.red.homes.find? (fun h => h.key = keyOf f ∧ h.attempt = fld f 27 1)

/-- An admissible contribution passes both tests of R209 and so reaches the slots. -/
theorem takeContribution_of_admissible (fit : Admissible s f) :
    s.takeContribution f = match (s.redGate f (keyOf f)).2.slotFor f with
      | some h => (s.redGate f (keyOf f)).2.joinSlot f h
      | none => (s.redGate f (keyOf f)).2.openSlot f := by
  obtain ⟨member, known, home, uncommitted, pass, format, index, whole⟩ := fit
  have here : ¬ (¬ (fld f 1 1).testBit 3 = true ∨ ¬ s.keyKnown (keyOf f) = true ∨ s.homeOf (keyOf f) ≠ s.own ∨ (keyOf f).step ≤ s.committed) := by
    simpa [member, known, home] using uncommitted
  have sound : ¬ (¬ (s.redGate f (keyOf f)).1 = true ∨ ¬ (fld f 26 1 = 2 ∨ fld f 26 1 = 3 ∨ fld f 26 1 = 0xC) ∨ fld f 42 2 ≥ fld f 32 2 ∨
      f.length ≠ 64 + 512 * gWidth (fld f 26 1)) := by
    simpa only [pass, format, whole, not_true_eq_false, false_or, or_false, ne_eq, ge_iff_le, Nat.not_le] using index
  exact (if_neg here).trans (if_neg sound)

theorem takeContribution_of_slot (fit : Admissible s f) {h : HomeSlot} (slot : (s.redGate f (keyOf f)).2.slotFor f = some h) :
    s.takeContribution f = (s.redGate f (keyOf f)).2.joinSlot f h := by
  rw [takeContribution_of_admissible fit, slot]

theorem takeContribution_of_no_slot (fit : Admissible s f) (new : (s.redGate f (keyOf f)).2.slotFor f = none) :
    s.takeContribution f = (s.redGate f (keyOf f)).2.openSlot f := by
  rw [takeContribution_of_admissible fit, new]

theorem slotFor_eq_none (new : ∀ h ∈ s.red.homes, ¬ (h.key = keyOf f ∧ h.attempt = fld f 27 1)) : s.slotFor f = none :=
  List.find?_eq_none.mpr fun h mem => by simpa only [decide_eq_true_eq] using new h mem

theorem openSlot_of_full (full : s.redRoom (keyOf f) = false) : s.openSlot f = s :=
  if_pos (by rw [full]; exact Bool.false_ne_true)

theorem openSlot_of_room (room : s.redRoom (keyOf f) = true) :
    s.openSlot f = if (firstSlot f).c = fld f 32 2 then s.homeResult (firstSlot f)
      else s.modRed fun r => { r with homes := r.homes ++ [firstSlot f] } :=
  if_neg (not_not_intro room)

variable {h : HomeSlot}

theorem joinSlot_of_unfit (unfit : h.e ≠ fld f 32 2 ∨ h.fmt ≠ fld f 26 1 ∨ fld f 42 2 ∈ h.seen) : s.joinSlot f h = s :=
  if_pos (by simpa only [List.contains_iff_mem] using unfit)

theorem joinSlot_of_new (count : h.e = fld f 32 2) (format : h.fmt = fld f 26 1) (new : fld f 42 2 ∉ h.seen) :
    s.joinSlot f h = if (h.add f).c = fld f 32 2 then s.homeResult (h.add f)
      else s.modRed fun r => { r with
        homes := mapWhere (fun x => decide (x.key = keyOf f ∧ x.attempt = fld f 27 1)) (fun _ => h.add f) r.homes } :=
  if_neg (by simpa only [count, format, ne_eq, not_true_eq_false, false_or, List.contains_iff_mem] using new)

end

/-! ### A result at a receiver (R213, R218) -/

/-- The result of k whose taint came after it had been used (R219). -/
def State.lateRes (s : State) (k : CKey) : Option RRes :=
  match s.resOf k with
  | some r => if r.late then some r else none
  | none => none

theorem lateRes_of_late {s : State} {k : CKey} {r : RRes} (held : s.resOf k = some r) (late : r.late = true) : s.lateRes k = some r := by
  rw [State.lateRes, held]
  exact if_pos late

theorem lateRes_of_none_late {s : State} {k : CKey} (timely : ∀ r, s.resOf k = some r → r.late = false) : s.lateRes k = none := by
  unfold State.lateRes
  split
  · next r held => exact if_neg (by rw [timely r held]; exact Bool.false_ne_true)
  · rfl

/-- A result of a later attempt than the one held is tainted or accepted by R213. -/
def State.judgeResult (s : State) (f : Bytes) : State :=
  match s.resultFault (keyOf f) f with
  | some why => s.taintChunk (keyOf f) (fld f 27 1) why
  | none => s.acceptResult (keyOf f) f (s.lateRes (keyOf f))

section
variable {s : State} {f : Bytes}

theorem judgeResult_of_fault {why : Nat} (fault : s.resultFault (keyOf f) f = some why) :
    s.judgeResult f = s.taintChunk (keyOf f) (fld f 27 1) why := by
  rw [State.judgeResult, fault]

theorem judgeResult_of_good (good : s.resultFault (keyOf f) f = none) :
    s.judgeResult f = s.acceptResult (keyOf f) f (s.lateRes (keyOf f)) := by
  rw [State.judgeResult, good]

theorem takeResult_of_elsewhere (out : s.keyKnown (keyOf f) = false ∨ s.receives (keyOf f) = false ∨ (keyOf f).step ≤ s.committed) :
    s.takeResult f = s :=
  if_pos (by simpa only [Bool.not_eq_true] using out)

section
variable (known : s.keyKnown (keyOf f) = true) (received : s.receives (keyOf f) = true) (uncommitted : s.committed < (keyOf f).step)
  (pass : (s.redGate f (keyOf f)).1 = true)
include known received uncommitted pass

theorem takeResult_of_pass :
    s.takeResult f = if ((s.redGate f (keyOf f)).2.resOf (keyOf f)).any (fun r => fld f 27 1 ≤ r.attempt) then (s.redGate f (keyOf f)).2
      else ((s.redGate f (keyOf f)).2.tellTaint (keyOf f)).judgeResult f := by
  have here : ¬ (¬ s.keyKnown (keyOf f) = true ∨ ¬ s.receives (keyOf f) = true ∨ (keyOf f).step ≤ s.committed) := by
    simpa only [known, received, not_true_eq_false, false_or, Nat.not_le] using uncommitted
  exact (if_neg here).trans (if_neg (not_not_intro pass))

theorem takeResult_of_old {x : RRes} (held : (s.redGate f (keyOf f)).2.resOf (keyOf f) = some x) (old : fld f 27 1 ≤ x.attempt) :
    s.takeResult f = (s.redGate f (keyOf f)).2 := by
  rw [takeResult_of_pass known received uncommitted pass, held]
  exact if_pos (decide_eq_true old)

theorem takeResult_of_later (later : ∀ x, (s.redGate f (keyOf f)).2.resOf (keyOf f) = some x → x.attempt < fld f 27 1) :
    s.takeResult f = ((s.redGate f (keyOf f)).2.tellTaint (keyOf f)).judgeResult f := by
  rw [takeResult_of_pass known received uncommitted pass]
  refine if_neg fun old => ?_
  obtain ⟨x, held, le⟩ := (Option.any_eq_true _ _).mp old
  exact Nat.not_le.mpr (later x held) (of_decide_eq_true le)

end

/-! ### A taint (R217, R218) -/

/-- The state in which a taint frame is judged: it is counted (Table 9-8). -/
def State.countTaint (s : State) : State := s.inc 0x8400_04

theorem takeTaint_of_drop (drop : s.countTaint.keyKnown (keyOf f) = false ∨ s.countTaint.flushing = true ∨
    (s.countTaint.redGate f (keyOf f)).1 = false) :
    s.takeTaint f = if s.countTaint.keyKnown (keyOf f) = false ∨ s.countTaint.flushing = true then s.countTaint
      else (s.countTaint.redGate f (keyOf f)).2 := by
  by_cases out : s.countTaint.keyKnown (keyOf f) = false ∨ s.countTaint.flushing = true
  · rw [if_pos out]
    exact if_pos (out.imp_left Bool.eq_false_iff.mp)
  · rw [if_neg out]
    have gate : (s.countTaint.redGate f (keyOf f)).1 = false := (or_assoc.mpr drop).resolve_left out
    refine (if_neg (mt (Or.imp_left Bool.eq_false_iff.mpr) out)).trans (if_pos ?_)
    exact Bool.eq_false_iff.mp gate

theorem takeTaint_of_pass (known : s.countTaint.keyKnown (keyOf f) = true) (calm : s.countTaint.flushing = false)
    (pass : (s.countTaint.redGate f (keyOf f)).1 = true) :
    s.takeTaint f = if (keyOf f).step ≤ (s.countTaint.redGate f (keyOf f)).2.committed then (s.countTaint.redGate f (keyOf f)).2
      else ((s.countTaint.redGate f (keyOf f)).2.receiverTaint (keyOf f) (fld f 27 1)).resend (keyOf f) (fld f 27 1) := by
  have here : ¬ (¬ s.countTaint.keyKnown (keyOf f) = true ∨ s.countTaint.flushing = true) := by simp [known, calm]
  exact (if_neg here).trans (if_neg (not_not_intro pass))

/-- A taint of the latest attempt sent is answered by the next one; only that of the last attempt before member mode is
counted besides. -/
theorem resend_of_latest {k : CKey} {a : Nat} {x : Sent} (sent : s.sentOf k = some x) (latest : x.attempt = a) (below : a < 7)
    (later : a ≠ s.rd 0x4000_03) : s.resend k a = s.contribute k (a + 1) := by
  have answered : ¬ (x.attempt ≠ a ∨ a ≥ 7) := by omega
  rw [State.resend, sent]
  simp only [if_neg answered, later, decide_false, Bool.false_and, Bool.false_eq_true, if_false]

/-! ### A peak notice (R202) -/

/-- The key of the stream and step that a peak notice speaks of. -/
def noticeKey (f : Bytes) : CKey := ⟨fld f 16 8, fld f 24 2, false, false, 0⟩

/-- One entry of a peak notice is noted, and the peak of its tensor formed. -/
def State.takeEntry (t : RStream) (f : Bytes) (s : State) (x : Nat × Int × Nat) : State :=
  let s := s.noteNoticePeak ⟨fld f 16 8, fld f 24 2, fld f 28 4, x.1, x.2.1, x.2.2⟩
  match (s.tensors (fld f 24 2)).find? (fun p => p.1.tid == x.1) with
  | some p => s.formPeak t (fld f 16 8) p.1
  | none => s

theorem takePeak_of_unfit (unfit : s.keyKnown (noticeKey f) = false ∨ fld f 32 2 = 0 ∨ 1024 < fld f 32 2 ∨ f.length < 40 + 6 * fld f 32 2) :
    s.takePeak f = s :=
  if_pos (unfit.imp_left Bool.eq_false_iff.mp)

theorem takePeak_of_pass (known : s.keyKnown (noticeKey f) = true) (entries : fld f 32 2 ≠ 0) (most : fld f 32 2 ≤ 1024)
    (whole : 40 + 6 * fld f 32 2 ≤ f.length) (pass : (s.redGate f (noticeKey f)).1 = true)
    (uncommitted : (s.redGate f (noticeKey f)).2.committed < fld f 16 8) :
    let u := (s.redGate f (noticeKey f)).2
    let t := u.streamAt (fld f 24 2)
    s.takePeak f = ((noticeEntries f).foldl (State.takeEntry t f) u).countSkips t (fld f 16 8) := by
  have fit : ¬ (¬ s.keyKnown (noticeKey f) = true ∨ fld f 32 2 = 0 ∨ fld f 32 2 > 1024 ∨ f.length < 40 + 6 * fld f 32 2) := by
    simp only [known, not_true_eq_false, false_or]
    omega
  have own : ¬ (¬ (s.redGate f (noticeKey f)).1 = true ∨ fld f 16 8 ≤ (s.redGate f (noticeKey f)).2.committed) := by
    simpa only [pass, not_true_eq_false, false_or, Nat.not_le] using uncommitted
  exact (if_neg fit).trans (if_neg own)

/-! ### Finality and timeouts (R213, R214, R219) -/

variable {k : CKey}

theorem finalize_of_none (none : s.resOf k = none) : s.finalize k = s := by
  rw [State.finalize, none]

theorem finalize_of_unchecked {y : RRes} (held : s.resOf k = some y) (unchecked : y.st ≠ 1) : s.finalize k = s := by
  rw [State.finalize, held]
  exact if_pos unchecked

/-- The latest attempt sent is awaited until a result or a taint of it is held. -/
theorem awaitedAttempt_of_sent {x : Sent} (sent : s.sentOf k = some x) (missing : ∀ y, s.resOf k = some y → y.attempt < x.attempt) :
    s.awaitedAttempt k = some x.attempt := by
  rw [State.awaitedAttempt, sent]
  refine if_pos ?_
  split
  · next y held => exact decide_eq_true (missing y held)
  · rfl

end

/-! ### The commands -/

theorem exec_contribution (r : Rx) (s : State) : exec (.contribution r) s = frameRow [0x40] r s fun s => (s.takeContribution r.f).redSettle := rfl

theorem exec_result (r : Rx) (s : State) : exec (.result r) s = frameRow [0x41] r s fun s => (s.takeResult r.f).redSettle := rfl

theorem exec_taint (r : Rx) (s : State) : exec (.taint r) s = frameRow [0x42] r s fun s => (s.takeTaint r.f).redSettle := rfl

theorem exec_peakNotice (r : Rx) (s : State) : exec (.peakNotice r) s = frameRow [0x43] r s fun s => (s.takePeak r.f).redSettle := rfl

theorem exec_resultTimeout (st stream ph chunk : Nat) (s : State) :
    exec (.resultTimeout st stream ph chunk) s = execResultTimeout st stream ph chunk s := rfl

theorem exec_taintHorizon (st stream ph chunk : Nat) (s : State) :
    exec (.taintHorizon st stream ph chunk) s = whenServing s fun s => (s.finalize (keyFrom st stream ph chunk)).redSettle := rfl

theorem exec_lateTaintTimeout (st stream ph chunk : Nat) (s : State) :
    exec (.lateTaintTimeout st stream ph chunk) s = execLateTaintTimeout st stream ph chunk s := rfl

/-- A reduction frame is taken by the operation of its kind, and then what may be sent goes. -/
theorem ends_of_redFrame {c : Instr} {kind : Nat} {r : Rx} {s t : State} {take : State → Bytes → State}
    (means : exec c s = frameRow [kind] r s fun s => (take s r.f).redSettle) (serves : s.serving = true) (own : frameKind r = kind)
    (assigned : kind ∈ assignedKinds) (taken : take (s.ce r) r.f = t) : Ends c s t.redSettle :=
  (ends_of_frameRow means serves own (List.mem_singleton_self kind) assigned).of_eq (congrArg State.redSettle taken)

section
variable {s : State} {st stream ph chunk : Nat} (serves : s.serving = true)
include serves

theorem resultTimeout_ends_of_out (out : s.awaitedAttempt (keyFrom st stream ph chunk) = none ∨ s.receives (keyFrom st stream ph chunk) = false ∨
    s.flushing = true) : Ends (.resultTimeout st stream ph chunk) s s := by
  refine (ends_of_whenServing (exec_resultTimeout st stream ph chunk s) serves).of_eq ?_
  dsimp only
  split
  · rfl
  · next a awaited =>
    refine if_neg fun both => ?_
    rw [Bool.and_eq_true, Bool.not_eq_true'] at both
    obtain ⟨received, calm⟩ := both
    obtain none | other | flush := out
    · exact Option.some_ne_none a (awaited.symm.trans none)
    · exact Bool.false_ne_true (other.symm.trans received)
    · exact Bool.false_ne_true (calm.symm.trans flush)

theorem resultTimeout_ends {a : Nat} (awaited : s.awaitedAttempt (keyFrom st stream ph chunk) = some a)
    (received : s.receives (keyFrom st stream ph chunk) = true) (calm : s.flushing = false) :
    Ends (.resultTimeout st stream ph chunk) s (s.taintChunk (keyFrom st stream ph chunk) a 4).redSettle := by
  refine (ends_of_whenServing (exec_resultTimeout st stream ph chunk s) serves).of_eq ?_
  simp only [awaited, received, calm, Bool.not_false, Bool.and_true, if_true]

theorem taintHorizon_ends : Ends (.taintHorizon st stream ph chunk) s (s.finalize (keyFrom st stream ph chunk)).redSettle :=
  (ends_of_whenServing (exec_taintHorizon st stream ph chunk s) serves).of_eq rfl

theorem lateTaintTimeout_ends {y : RRes} (held : s.resOf (keyFrom st stream ph chunk) = some y) (late : y.late = true) :
    Ends (.lateTaintTimeout st stream ph chunk) s (s.lateEnd (keyFrom st stream ph chunk) 2) := by
  refine (ends_of_whenServing (exec_lateTaintTimeout st stream ph chunk s) serves).of_eq ?_
  simp only [held, late, if_true]

theorem lateTaintTimeout_ends_of_none_late (timely : ∀ y, s.resOf (keyFrom st stream ph chunk) = some y → y.late = false) :
    Ends (.lateTaintTimeout st stream ph chunk) s s := by
  refine (ends_of_whenServing (exec_lateTaintTimeout st stream ph chunk s) serves).of_eq ?_
  dsimp only
  split
  · next y held => exact if_neg (Bool.eq_false_iff.mp (timely y held))
  · rfl

end

/-- Settles O51: each frame by what it meets at a home, a receiver or a contributor, and each timeout by its own lemma. -/
theorem resultsTaintsAndPeaksArrive : Obligations.ResultsTaintsAndPeaksArrive := by
  refine ⟨fun r s serves => ⟨fun kind => ?contribution, fun kind => ?result, fun kind => ?taint, fun kind => ?peakNotice⟩,
    fun s k a x sent latest below later => resend_of_latest sent latest below later,
    fun s st stream ph chunk serves => ⟨resultTimeout_ends_of_out serves, fun a => resultTimeout_ends serves,
      fun x => awaitedAttempt_of_sent, taintHorizon_ends serves, fun y => lateTaintTimeout_ends serves, lateTaintTimeout_ends_of_none_late serves⟩,
    fun s k y => finalize_of_unchecked, fun s k => finalize_of_none⟩
  case contribution =>
    have ends {t : State} (taken : (s.ce r).takeContribution r.f = t) : Ends (.contribution r) s t.redSettle :=
      ends_of_redFrame (exec_contribution r s) serves kind (by decide) taken
    refine ⟨fun out => ends (takeContribution_of_elsewhere out), fun member known home uncommitted pass format index whole => ?_⟩
    have fit : Admissible (s.ce r) r.f := ⟨member, known, home, uncommitted, pass, format, index, whole⟩
    refine ⟨fun h first new => ?_, fun h slot => ?_⟩
    · subst first
      have taken := takeContribution_of_no_slot fit (slotFor_eq_none new)
      exact ⟨fun full => ends (taken.trans (openSlot_of_full full)),
        fun room last => ends (taken.trans ((openSlot_of_room room).trans (if_pos last))),
        fun room more => ends (taken.trans ((openSlot_of_room room).trans (if_neg more)))⟩
    · have taken := takeContribution_of_slot fit slot
      exact ⟨fun unfit => ends (taken.trans (joinSlot_of_unfit unfit)),
        fun count same new => ⟨fun last => ends (taken.trans ((joinSlot_of_new count same new).trans (if_pos last))),
          fun more => ends (taken.trans ((joinSlot_of_new count same new).trans (if_neg more)))⟩⟩
  case result =>
    have ends {t : State} (taken : (s.ce r).takeResult r.f = t) : Ends (.result r) s t.redSettle :=
      ends_of_redFrame (exec_result r s) serves kind (by decide) taken
    refine ⟨fun out => ends (takeResult_of_elsewhere out), fun known received uncommitted pass =>
      ⟨fun x held old => ends (takeResult_of_old known received uncommitted pass held old), fun later => ?_⟩⟩
    have taken := takeResult_of_later known received uncommitted pass later
    refine ⟨fun why fault => ends (taken.trans (judgeResult_of_fault fault)), fun good timely => ends (taken.trans ?_),
      fun x good held late => ends (taken.trans ?_)⟩
    · rw [judgeResult_of_good good, lateRes_of_none_late timely]
    · rw [judgeResult_of_good good, lateRes_of_late held late]
  case taint =>
    have ends {t : State} (taken : (s.ce r).takeTaint r.f = t) : Ends (.taint r) s t.redSettle :=
      ends_of_redFrame (exec_taint r s) serves kind (by decide) taken
    exact ⟨fun drop => ends (takeTaint_of_drop drop), fun known calm pass => ends (takeTaint_of_pass known calm pass)⟩
  case peakNotice =>
    have ends {t : State} (taken : (s.ce r).takePeak r.f = t) : Ends (.peakNotice r) s t.redSettle :=
      ends_of_redFrame (exec_peakNotice r s) serves kind (by decide) taken
    exact ⟨fun unfit => ends (takePeak_of_unfit unfit),
      fun known entries most whole pass uncommitted => ends (takePeak_of_pass known entries most whole pass uncommitted)⟩

end Sys2Proof.Machine
end

section
/-!
Expert routing (R229, R230, R232, R235, R236): the ranking of a token's experts, the slots of a round, the commands that act on
a call, and what the write of a complete call touches.
-/

namespace Sys2Proof.Machine

/-! ### Ranking (R229, R230) -/

/-- Expert a stands before expert b in a ranking by key: its score is higher, or as high and its index lower. -/
def Outranks (key : Nat → Int) (a b : Nat) : Prop := key b < key a ∨ (key a = key b ∧ a < b)

theorem Outranks.trans {key : Nat → Int} {a b c : Nat} (ab : Outranks key a b) (bc : Outranks key b c) : Outranks key a c := by
  unfold Outranks at ab bc ⊢
  omega

theorem outranks_of_not {key : Nat → Int} {a b : Nat} (apart : a ≠ b) (behind : ¬ Outranks key a b) : Outranks key b a := by
  unfold Outranks at behind ⊢
  omega

theorem rankInsert_perm (key : Nat → Int) (e : Nat) (l : List Nat) : (rankInsert key e l).Perm (e :: l) := by
  induction l with
  | nil => exact .refl _
  | cons x l ih =>
    rw [rankInsert]
    split
    · exact .refl _
    · exact (ih.cons x).trans (.swap e x l)

theorem pairwise_rankInsert {key : Nat → Int} {e : Nat} {l : List Nat} (new : e ∉ l) (sorted : l.Pairwise (Outranks key)) :
    (rankInsert key e l).Pairwise (Outranks key) := by
  induction l with
  | nil => exact List.pairwise_singleton _ _
  | cons x l ih =>
    obtain ⟨notFirst, notLater⟩ := List.ne_and_not_mem_of_not_mem_cons new
    obtain ⟨first, later⟩ := List.pairwise_cons.mp sorted
    rw [rankInsert]
    split
    · next ahead =>
      have ahead : Outranks key e x := ahead
      exact List.pairwise_cons.mpr ⟨List.forall_mem_cons.mpr ⟨ahead, fun y hy => ahead.trans (first y hy)⟩, sorted⟩
    · next behind =>
      refine List.pairwise_cons.mpr ⟨fun y hy => ?_, ih notLater later⟩
      obtain rfl | hy := List.mem_cons.mp ((rankInsert_perm key e l).mem_iff.mp hy)
      · exact outranks_of_not notFirst behind
      · exact first y hy

/-- Experts inserted one after another: each once, in rank order. -/
theorem foldr_rankInsert (key : Nat → Int) {es : List Nat} (once : es.Nodup) :
    (es.foldr (rankInsert key) []).Perm es ∧ (es.foldr (rankInsert key) []).Pairwise (Outranks key) := by
  induction es with
  | nil => exact ⟨.refl _, .nil⟩
  | cons e es ih =>
    obtain ⟨new, once⟩ := List.nodup_cons.mp once
    obtain ⟨perm, sorted⟩ := ih once
    exact ⟨(rankInsert_perm key e _).trans (perm.cons e), pairwise_rankInsert (fun old => new (perm.mem_iff.mp old)) sorted⟩

theorem ranked_perm (y : RLayer) (codes : List Nat) :
    (ranked y codes).1.Perm ((List.range y.ne).filter fun e => ¬ isNan y.sfmt (codes.getD e 0)) :=
  (foldr_rankInsert _ (List.nodup_range.filter _)).1

theorem ranked_pairwise (y : RLayer) (codes : List Nat) :
    (ranked y codes).1.Pairwise (Outranks fun e => orderKey (codes.getD e 0) (fmtBits y.sfmt)) :=
  (foldr_rankInsert _ (List.nodup_range.filter _)).2

theorem mem_ranked {y : RLayer} {codes : List Nat} {e : Nat} :
    e ∈ (ranked y codes).1 ↔ e < y.ne ∧ isNan y.sfmt (codes.getD e 0) = false := by
  rw [(ranked_perm y codes).mem_iff, List.mem_filter, List.mem_range, decide_eq_true_eq, Bool.not_eq_true]

/-! ### The slots of a round (R232) -/

/-- How many choices of a list name expert e. -/
def asked (P : List (Nat × Nat)) (e : Nat) : Nat := (P.filter fun x => x.2 = e).length

theorem asked_cons (x : Nat × Nat) (P : List (Nat × Nat)) (e : Nat) : asked (x :: P) e = (if x.2 = e then 1 else 0) + asked P e := by
  unfold asked
  rw [List.filter_cons]
  split
  · next same => rw [if_pos (of_decide_eq_true same), List.length_cons, Nat.add_comm]
  · next other => rw [if_neg (by simpa using other), Nat.zero_add]

theorem asked_append (P Q : List (Nat × Nat)) (e : Nat) : asked (P ++ Q) e = asked P e + asked Q e := by
  unfold asked
  rw [List.filter_append, List.length_append]

/-- A choice of expert e is counted in every part of the list that goes on past it. -/
theorem asked_take_lt {P : List (Nat × Nat)} {i j : Nat} {x : Nat × Nat} (at_ : P[i]? = some x) (before : i < j) :
    asked (P.take i) x.2 < asked (P.take j) x.2 := by
  have through : (P.take (i + 1)) = P.take i ++ [x] := by rw [List.take_add_one, at_, Option.toList_some]
  obtain ⟨k, rfl⟩ : ∃ k, j = i + 1 + k := ⟨j - (i + 1), by omega⟩
  rw [List.take_add, asked_append, through, asked_append, asked_cons, if_pos rfl]
  omega

theorem asked_take_lt_all {P : List (Nat × Nat)} {i : Nat} {x : Nat × Nat} (at_ : P[i]? = some x) : asked (P.take i) x.2 < asked P x.2 := by
  obtain ⟨inside, -⟩ := List.getElem?_eq_some_iff.mp at_
  simpa only [List.take_length] using asked_take_lt at_ inside

/-- A slot number below the capacity is kept. -/
def keptSlot (cap u : Nat) : Option Nat := if u < cap then some u else none

theorem keptSlot_eq_some {cap u v : Nat} : keptSlot cap u = some v ↔ u < cap ∧ u = v := by
  rw [keptSlot, Option.ite_none_right_eq_some, Option.some_inj]

/-- The slots that the choices of a round get, from counters of the slots given so far: each takes its expert's counter. -/
def giveSlots (cap : Nat) : List Nat → List (Nat × Nat) → List (Nat × Option Nat)
  | _, [] => []
  | c, x :: P => (x.1, keptSlot cap (c.getD x.2 0)) :: giveSlots cap (setAt c x.2 (c.getD x.2 0 + 1)) P

theorem map_fst_giveSlots (cap : Nat) (c : List Nat) (P : List (Nat × Nat)) : (giveSlots cap c P).map (·.1) = P.map (·.1) := by
  induction P generalizing c with
  | nil => rfl
  | cons x P ih => rw [giveSlots, List.map_cons, List.map_cons, ih]

theorem getD_setAt {c : List Nat} {e : Nat} (inside : e < c.length) (v x : Nat) :
    (setAt c e v).getD x 0 = if e = x then v else c.getD x 0 := by
  rw [setAt_eq_set, List.getD_eq_getElem?_getD, List.getElem?_set, if_pos inside, List.getD_eq_getElem?_getD]
  split
  · exact Option.getD_some
  · rfl

/-- The i-th choice takes the slot that follows those given before and to the earlier choices of its expert. -/
theorem giveSlots_getElem? {cap i : Nat} {c : List Nat} {P : List (Nat × Nat)} {x : Nat × Nat} (inside : ∀ z ∈ P, z.2 < c.length) (at_ : P[i]? = some x) :
    (giveSlots cap c P)[i]? = some (x.1, keptSlot cap (c.getD x.2 0 + asked (P.take i) x.2)) := by
  induction P generalizing c i with
  | nil => exact absurd at_ (by simp)
  | cons z P ih =>
    obtain ⟨first, rest⟩ := List.forall_mem_cons.mp inside
    cases i with
    | zero =>
      obtain rfl : z = x := Option.some.inj at_
      rfl
    | succ i =>
      have later := ih (c := setAt c z.2 (c.getD z.2 0 + 1)) (by simpa only [setAt_eq_set, List.length_set] using rest) at_
      rw [giveSlots, List.getElem?_cons_succ, later, getD_setAt first, List.take_succ_cons, asked_cons]
      split
      · next same => rw [same, Nat.add_assoc]
      · rw [Nat.zero_add]

/-- The slots of expert e given before member p's of a round: those of earlier rounds and of the members below p. -/
def slotsBefore (cnt : List (List Nat)) (used : List Nat) (p e : Nat) : Nat :=
  used.getD e 0 + sumN ((List.range p).map fun q => (cnt.getD q []).getD (e + 4) 0)

theorem slotsBefore_succ (cnt : List (List Nat)) (used : List Nat) (p e : Nat) :
    slotsBefore cnt used (p + 1) e = slotsBefore cnt used p e + (cnt.getD p []).getD (e + 4) 0 := by
  unfold slotsBefore
  rw [sumN_eq_sum, sumN_eq_sum, List.range_succ, List.map_append, List.sum_append, List.map_singleton, List.sum_singleton, Nat.add_assoc]

theorem slotsBefore_mono (cnt : List (List Nat)) (used : List Nat) (e : Nat) : Monotone fun p => slotsBefore cnt used p e :=
  monotone_nat_of_le_succ fun p => by rw [slotsBefore_succ]; exact Nat.le_add_right ..

/-- One choice takes its expert's counter, and the counter rises. -/
def giveSlot (cap : Nat) (a : List (Nat × Option Nat) × List Nat) (x : Nat × Nat) : List (Nat × Option Nat) × List Nat :=
  (a.1 ++ [(x.1, keptSlot cap (a.2.getD x.2 0))], setAt a.2 x.2 (a.2.getD x.2 0 + 1))

theorem foldl_giveSlot (cap : Nat) (P : List (Nat × Nat)) (out : List (Nat × Option Nat)) (c : List Nat) :
    (P.foldl (giveSlot cap) (out, c)).1 = out ++ giveSlots cap c P := by
  induction P generalizing out c with
  | nil => exact (List.append_nil out).symm
  | cons x P ih =>
    rw [List.foldl_cons, giveSlot, ih, giveSlots, List.append_assoc]
    rfl

/-- R232: assign gives the slots from the counters that the earlier rounds and the members below this one leave. -/
theorem assign_eq_giveSlots (cap p ne : Nat) (cnt : List (List Nat)) (used : List Nat) (P : List (Nat × Nat)) :
    (assign cap p ne cnt used P).1 = giveSlots cap ((List.range ne).map (slotsBefore cnt used p)) P :=
  foldl_giveSlot cap P [] _

theorem assign_positions (cap p ne : Nat) (cnt : List (List Nat)) (used : List Nat) (P : List (Nat × Nat)) :
    (assign cap p ne cnt used P).1.map (·.1) = P.map (·.1) := by
  rw [assign_eq_giveSlots, map_fst_giveSlots]

section
variable {cap p ne : Nat} {cnt : List (List Nat)} {used : List Nat} {P : List (Nat × Nat)} (experts : ∀ x ∈ P, x.2 < ne)
include experts

theorem assign_getElem? {i : Nat} {x : Nat × Nat} (at_ : P[i]? = some x) :
    (assign cap p ne cnt used P).1[i]? = some (x.1, keptSlot cap (slotsBefore cnt used p x.2 + asked (P.take i) x.2)) := by
  have inside : ∀ z ∈ P, z.2 < ((List.range ne).map (slotsBefore cnt used p)).length := by
    simpa only [List.length_map, List.length_range] using experts
  rw [assign_eq_giveSlots, giveSlots_getElem? inside at_, getD_range_map _ (experts x (List.mem_of_getElem? at_))]

/-- The slot of a kept choice of expert e lies below the capacity and follows those given before. -/
theorem assign_slot {i u e n : Nat} (given : (assign cap p ne cnt used P).1[i]? = some (n, some u))
    (names : (P.map (·.2))[i]? = some e) :
    ∃ x, P[i]? = some x ∧ x.2 = e ∧ u < cap ∧ u = slotsBefore cnt used p e + asked (P.take i) e := by
  rw [List.getElem?_map, Option.map_eq_some_iff] at names
  obtain ⟨x, at_, rfl⟩ := names
  rw [assign_getElem? experts at_, Option.some_inj, Prod.mk.injEq, keptSlot_eq_some] at given
  obtain ⟨-, below, rfl⟩ := given
  exact ⟨x, at_, rfl, below, rfl⟩

theorem assign_slot_lt_cap {x : Nat × Option Nat} (given : x ∈ (assign cap p ne cnt used P).1) {u : Nat} (slot : x.2 = some u) : u < cap := by
  obtain ⟨i, at_⟩ := List.mem_iff_getElem?.mp given
  obtain ⟨n, o⟩ := x
  subst slot
  have inside : i < (P.map (·.2)).length := by
    obtain ⟨inside, -⟩ := List.getElem?_eq_some_iff.mp at_
    have same := congrArg List.length (assign_positions cap p ne cnt used P)
    simp only [List.length_map] at same ⊢
    omega
  obtain ⟨x, -, -, below, -⟩ := assign_slot experts at_ (List.getElem?_eq_getElem inside)
  exact below

end

section
variable {cap p q ne : Nat} {cnt : List (List Nat)} {used : List Nat} {P Q : List (Nat × Nat)} {i j u v e n m : Nat}

/-- Two choices of one expert at one member have different slots: the later one counts the earlier. -/
theorem assign_slots_lt (experts : ∀ x ∈ P, x.2 < ne) (before : i < j)
    (first : (assign cap p ne cnt used P).1[i]? = some (n, some u)) (second : (assign cap p ne cnt used P).1[j]? = some (m, some v))
    (names : (P.map (·.2))[i]? = some e) (same : (P.map (·.2))[j]? = some e) : u < v := by
  obtain ⟨x, at_, rfl, -, rfl⟩ := assign_slot experts first names
  obtain ⟨-, -, -, -, rfl⟩ := assign_slot experts second same
  exact Nat.add_lt_add_left (asked_take_lt at_ before) _

/-- A member's slots of an expert lie before those of a higher member when its counts say what it sends. -/
theorem assign_slots_lt_of_members (expertsP : ∀ x ∈ P, x.2 < ne) (expertsQ : ∀ x ∈ Q, x.2 < ne) (below : p < q)
    (counts : ∀ e < ne, asked P e = (cnt.getD p []).getD (e + 4) 0)
    (first : (assign cap p ne cnt used P).1[i]? = some (n, some u)) (second : (assign cap q ne cnt used Q).1[j]? = some (m, some v))
    (names : (P.map (·.2))[i]? = some e) (same : (Q.map (·.2))[j]? = some e) : u < v := by
  obtain ⟨x, at_, rfl, -, rfl⟩ := assign_slot expertsP first names
  obtain ⟨-, -, -, -, rfl⟩ := assign_slot expertsQ second same
  calc slotsBefore cnt used p x.2 + asked (P.take i) x.2
    _ < slotsBefore cnt used p x.2 + asked P x.2 := Nat.add_lt_add_left (asked_take_lt_all at_) _
    _ = slotsBefore cnt used (p + 1) x.2 := by rw [slotsBefore_succ, counts x.2 (expertsP x (List.mem_of_getElem? at_))]
    _ ≤ slotsBefore cnt used q x.2 := slotsBefore_mono cnt used x.2 below
    _ ≤ _ := Nat.le_add_right ..

/-- R232: no two choices of one expert in a round have the same slot. -/
theorem assign_slots_ne (order : p ≤ q) (expertsP : ∀ x ∈ P, x.2 < ne) (expertsQ : ∀ x ∈ Q, x.2 < ne)
    (counts : ∀ e < ne, asked P e = (cnt.getD p []).getD (e + 4) 0) (alone : p = q → P = Q)
    (first : (assign cap p ne cnt used P).1[i]? = some (n, some u)) (second : (assign cap q ne cnt used Q).1[j]? = some (m, some v))
    (names : (P.map (·.2))[i]? = some e) (same : (Q.map (·.2))[j]? = some e) (apart : p ≠ q ∨ i ≠ j) : u ≠ v := by
  obtain below | rfl := Nat.lt_or_eq_of_le order
  · exact Nat.ne_of_lt (assign_slots_lt_of_members expertsP expertsQ below counts first second names same)
  · obtain rfl := alone rfl
    obtain before | after := Nat.lt_or_gt_of_ne (apart.resolve_left (not_not_intro rfl))
    · exact Nat.ne_of_lt (assign_slots_lt expertsP before first second names same)
    · exact Nat.ne_of_gt (assign_slots_lt expertsP after second first same names)

end

/-! ### The commands of a call -/

/-- What a command does with the call that it names; without that call it does nothing. -/
def onCall (l st n : Nat) (f : State → Call → State) (s : State) : State :=
  match s.callOf l st n with
  | some c => f s c
  | none => s

theorem exec_allotmentRound (l st n : Nat) (s : State) : exec (.allotmentRound l st n) s = whenServing s
    (onCall l st n fun s c => if c.allotted ∨ s.flushing then s else (s.allotRound c).routeSettle.runSecond) := rfl

theorem exec_combineComplete (l st n : Nat) (s : State) : exec (.combineComplete l st n) s = whenServing s
    (onCall l st n fun s c => if s.accComplete c ∧ ¬ s.flushing then (s.writeCombine c).routeSettle.runSecond else s) := rfl

theorem exec_combineTimeout (l st n : Nat) (s : State) : exec (.combineTimeout l st n) s = whenServing s
    (onCall l st n fun s c => if c.allotted ∧ c.passed ∧ (s.layerAt l).mode = 1 then (s.combineLate c).routeSettle.runSecond else s) := rfl

theorem exec_returnWindowWrite (off : Nat) (data : Bytes) (s : State) : exec (.returnWindowWrite off data) s =
    whenServing s fun s => if s.routeOn then (s.windowStore off data).yieldLog.routeSettle.runSecond else s := rfl

section
variable {i : Instr} {l st n : Nat} {f : State → Call → State} {s : State} (means : exec i s = whenServing s (onCall l st n f)) (serves : s.serving = true)
include means serves

theorem ends_of_no_call (gone : s.callOf l st n = none) : Ends i s s :=
  (ends_of_whenServing means serves).of_eq (by rw [onCall, gone])

theorem ends_of_call {c : Call} (held : s.callOf l st n = some c) : Ends i s (f s c) :=
  (ends_of_whenServing means serves).of_eq (by rw [onCall, held])

end

section
variable {l st n : Nat} {s : State} {c : Call} (serves : s.serving = true) (held : s.callOf l st n = some c)
include serves held

theorem allotmentRound_ends (fresh : c.allotted = false) (calm : s.flushing = false) :
    Ends (.allotmentRound l st n) s (s.allotRound c).routeSettle.runSecond :=
  (ends_of_call (exec_allotmentRound l st n s) serves held).of_eq (if_neg (by rw [fresh, calm]; decide))

theorem allotmentRound_ends_idle (idle : c.allotted = true ∨ s.flushing = true) : Ends (.allotmentRound l st n) s s :=
  (ends_of_call (exec_allotmentRound l st n s) serves held).of_eq (if_pos idle)

theorem combineComplete_ends (complete : s.accComplete c = true) (calm : s.flushing = false) :
    Ends (.combineComplete l st n) s (s.writeCombine c).routeSettle.runSecond :=
  (ends_of_call (exec_combineComplete l st n s) serves held).of_eq (if_pos ⟨complete, Bool.eq_false_iff.mp calm⟩)

theorem combineComplete_ends_idle (idle : s.accComplete c = false ∨ s.flushing = true) : Ends (.combineComplete l st n) s s := by
  refine (ends_of_call (exec_combineComplete l st n s) serves held).of_eq (if_neg fun ⟨complete, calm⟩ => ?_)
  exact idle.elim (Bool.eq_false_iff.mp · complete) calm

theorem combineTimeout_ends (allotted : c.allotted = true) (passed : c.passed = true) (mode : (s.layerAt l).mode = 1) :
    Ends (.combineTimeout l st n) s (s.combineLate c).routeSettle.runSecond :=
  (ends_of_call (exec_combineTimeout l st n s) serves held).of_eq (if_pos ⟨allotted, passed, mode⟩)

theorem combineTimeout_ends_idle (idle : c.allotted = false ∨ c.passed = false ∨ (s.layerAt l).mode ≠ 1) : Ends (.combineTimeout l st n) s s := by
  refine (ends_of_call (exec_combineTimeout l st n s) serves held).of_eq (if_neg fun ⟨allotted, passed, mode⟩ => ?_)
  exact idle.elim (Bool.eq_false_iff.mp · allotted) (·.elim (Bool.eq_false_iff.mp · passed) (· mode))

end

/-- R232: a round waits until its counts are final. -/
theorem allotRound_of_waiting {s : State} {c : Call} (waits : s.roundRows c = none) : s.allotRound c = s := by
  rw [State.allotRound, waits]

/-! ### The write of a complete call (R235, R236) -/

/-- The code of element x of output row j of a call, and whether its conversion cut it. -/
def State.outCode (s : State) (c : Call) (j x : Nat) : Nat × Bool :=
  if c.nanRows.contains j then (nanCode (s.layerAt c.layer).cfmt, false)
  else combineCode (s.layerAt c.layer) (sgn 64 (s.mNat ((s.layerAt c.layer).accAt c.num j x) 8))

/-- Output row j of a call. -/
def State.outRow (s : State) (c : Call) (j : Nat) : Bytes :=
  ((List.range (s.layerAt c.layer).dh).map fun x => le (fmtBytes (s.layerAt c.layer).cfmt) (s.outCode c j x).1).flatten

/-- The elements of a call's output that the conversion cut. -/
def State.outCuts (s : State) (c : Call) : Nat :=
  sumN ((List.range c.count).map fun j => ((List.range (s.layerAt c.layer).dh).filter fun x => (s.outCode c j x).2).length)

/-- Rows of host memory are written one after another. -/
def State.writeRows (s : State) (place : Nat → Nat) (row : Nat → Bytes) (js : List Nat) : State :=
  js.foldl (fun s j => s.mwr (place j) (row j)) s

/-- The cuts of a call are counted and its output rows written. -/
def State.writeOutput (s : State) (c : Call) : State :=
  (s.incBy 0x8200_03 (s.outCuts c)).writeRows (fun j => (s.layerAt c.layer).combAt c.num j 0) (s.outRow c) (List.range c.count)

/-- The count of calls combined of a layer is raised. -/
def State.raiseCombined (s : State) (y : RLayer) : State := s.mwrNat (y.scores + 36) 4 (s.mNat (y.scores + 36) 4 + 1)

/-- A call leaves the calls held. -/
def State.freeCall (s : State) (c : Call) : State :=
  s.modRoute fun r => { r with calls := r.calls.filter fun x => ¬ (x.layer = c.layer ∧ x.step = c.step ∧ x.num = c.num) }

theorem writeCombine_eq (s : State) (c : Call) :
    s.writeCombine c = ((s.writeOutput c).raiseCombined (s.layerAt c.layer)).freeCall c := rfl

theorem freeCall_callOf (s : State) (c : Call) : (s.freeCall c).callOf c.layer c.step c.num = none := by
  refine List.find?_eq_none.mpr fun x hx same => ?_
  simp only [Bool.and_eq_true, beq_iff_eq, and_assoc] at same
  exact of_decide_eq_true (List.mem_filter.mp hx).2 same

theorem length_outRow (s : State) (c : Call) (j : Nat) :
    (s.outRow c j).length = (s.layerAt c.layer).dh * fmtBytes (s.layerAt c.layer).cfmt := by
  have words : s.outRow c j = wordsBytes (fmtBytes (s.layerAt c.layer).cfmt) ((List.range (s.layerAt c.layer).dh).map fun x => (s.outCode c j x).1) := by
    rw [wordsBytes, List.map_map]
    rfl
  rw [words, length_wordsBytes, List.length_map, List.length_range, Nat.mul_comm]

/-- A row of combine output ends where its elements do. -/
theorem combAt_end (y : RLayer) (c j : Nat) : y.combAt c j y.dh = y.combAt c j 0 + y.dh * fmtBytes y.cfmt := by
  unfold RLayer.combAt
  rw [Nat.add_zero, Nat.add_mul (j * y.dh), ← Nat.add_assoc]

/-- A write of rows touches host memory and the poison marks alone; memory stays canonical. -/
theorem writeRows_keeps (s : State) (place : Nat → Nat) (row : Nat → Bytes) (js : List Nat) :
    (s.writeRows place row js).dict = s.dict ∧
      (Sparse.wf (fun _ => 0) s.mem = true → Sparse.wf (fun _ => 0) (s.writeRows place row js).mem = true) := by
  induction js generalizing s with
  | nil => exact ⟨rfl, id⟩
  | cons j js ih =>
    obtain ⟨dict, canon⟩ := ih (s.mwr (place j) (row j))
    exact ⟨dict, fun h => canon (Sparse.wf_putBytes h _ _)⟩

theorem mrd_writeRows_apart {s : State} (h : Sparse.wf (fun _ => 0) s.mem = true) {place : Nat → Nat} {row : Nat → Bytes} {js : List Nat} {x n : Nat}
    (apart : ∀ j ∈ js, x + n ≤ place j ∨ place j + (row j).length ≤ x) : (s.writeRows place row js).mrd x n = s.mrd x n := by
  induction js generalizing s with
  | nil => rfl
  | cons j js ih =>
    obtain ⟨first, rest⟩ := List.forall_mem_cons.mp apart
    exact (ih (s := s.mwr (place j) (row j)) (Sparse.wf_putBytes h _ _) rest).trans (mrd_mwr_apart h first)

section
variable {s : State} (canon : s.Canon) (c : Call)
include canon

theorem writeCombine_rd {x : Nat} (other : x ≠ 0x8200_03) : (s.writeCombine c).rd x = s.rd x := by
  have dict : (s.writeCombine c).dict = (s.incBy 0x8200_03 (s.outCuts c)).dict := (writeRows_keeps ..).1
  rw [State.rd_congr dict, State.rd_incBy canon.dict, if_neg other]

theorem writeOutput_mem_canon : Sparse.wf (fun _ => 0) (s.writeOutput c).mem = true :=
  (writeRows_keeps ..).2 (by rw [State.incBy_mem]; exact canon.mem)

theorem writeOutput_mrd {x n : Nat} (apart : ∀ j < c.count, x + n ≤ (s.layerAt c.layer).combAt c.num j 0 ∨
    (s.layerAt c.layer).combAt c.num j (s.layerAt c.layer).dh ≤ x) : (s.writeOutput c).mrd x n = s.mrd x n := by
  have counted : (s.incBy 0x8200_03 (s.outCuts c)).mem = s.mem := State.incBy_mem ..
  have rows : (s.writeOutput c).mrd x n = (s.incBy 0x8200_03 (s.outCuts c)).mrd x n := by
    refine mrd_writeRows_apart (by rw [counted]; exact canon.mem) fun j hj => ?_
    rw [length_outRow, ← combAt_end]
    exact apart j (List.mem_range.mp hj)
  rw [rows, State.mrd, counted, ← State.mrd]

/-- R235, R236: the write of a call touches its output rows and the count of calls combined. -/
theorem writeCombine_mrd {x n : Nat} (rows : ∀ j < c.count, x + n ≤ (s.layerAt c.layer).combAt c.num j 0 ∨
      (s.layerAt c.layer).combAt c.num j (s.layerAt c.layer).dh ≤ x)
    (count : x + n ≤ (s.layerAt c.layer).scores + 36 ∨ (s.layerAt c.layer).scores + 40 ≤ x) : (s.writeCombine c).mrd x n = s.mrd x n := by
  have raised : ((s.writeOutput c).raiseCombined (s.layerAt c.layer)).mrd x n = (s.writeOutput c).mrd x n :=
    mrd_mwr_apart (writeOutput_mem_canon canon c) (by rwa [length_littleEndian, Nat.add_assoc])
  rw [writeCombine_eq, ← writeOutput_mrd canon c rows, ← raised]
  rfl

end

/-- Settles O49: the ranking is an insertion of each expert once, a slot counts those given before it, each command by the call it
names, and the write of a call is its rows, one count and one call less. -/
theorem callsAreRankedAllottedAndCombined : Obligations.CallsAreRankedAllottedAndCombined := by
  refine ⟨fun y codes => ⟨ranked_pairwise y codes, fun e => mem_ranked⟩,
    fun cap ne cnt used p q P Q order _ expertsP expertsQ counts alone => ⟨assign_positions .., fun x given u slot => assign_slot_lt_cap expertsP given slot,
      fun i j u v e first second names same apart => assign_slots_ne order expertsP expertsQ counts alone first second names same apart⟩,
    fun s l st n serves => ⟨fun gone => ⟨ends_of_no_call (exec_allotmentRound l st n s) serves gone,
        ends_of_no_call (exec_combineComplete l st n s) serves gone, ends_of_no_call (exec_combineTimeout l st n s) serves gone⟩,
      fun c held => ⟨allotmentRound_ends_idle serves held, allotmentRound_ends serves held, combineComplete_ends_idle serves held,
        combineComplete_ends serves held, combineTimeout_ends serves held, combineTimeout_ends_idle serves held⟩⟩,
    fun s c => allotRound_of_waiting,
    fun s c _ => ⟨freeCall_callOf .., fun canon x => writeCombine_rd canon c, fun x n canon => writeCombine_mrd canon c⟩,
    fun s off data serves => ends_of_whenServing (exec_returnWindowWrite off data s) serves⟩

end Sys2Proof.Machine
end
